-- ==== Sys2Proof/Word.lean ====
section
/-! DEFINITION. Word types of the 9A (R2, R109, R190): bytes, 32-bit registers, 64-bit values. -/

namespace Sys2Proof

/-- A byte of memory. -/
abbrev Byte := BitVec 8

/-- A 32-bit register value (R109). -/
abbrev Word := BitVec 32

/-- A 64-bit value: a register pair, a virtual address or a program counter (R113, R190). -/
abbrev DWord := BitVec 64

end Sys2Proof
end

