-- ==== Sys2Proof/Machine/Format.lean ====
section
/-! DEFINITION. Element formats and format slots (R169, R177, R178). -/

namespace Sys2Proof

/-- The eleven element formats (R169). -/
inductive Elem where
  | fp32 | fp16 | bf16 | e4m3 | e5m2 | e3m2 | e2m3 | e2m1 | int8 | int4 | q4x
  deriving DecidableEq, Repr

/-- The format that an ELEM code names; codes 11 to 15 are reserved (R169). -/
def elemOfCode (n : Nat) : Option Elem :=
  match n with
  | 0 => some .fp32 | 1 => some .fp16 | 2 => some .bf16 | 3 => some .e4m3 | 4 => some .e5m2
  | 5 => some .e3m2 | 6 => some .e2m3 | 7 => some .e2m1 | 8 => some .int8 | 9 => some .int4
  | 10 => some .q4x | _ => none

/-- Element width in bits (R169). -/
def elemBits (e : Elem) : Nat :=
  match e with
  | .fp32 => 32 | .fp16 => 16 | .bf16 => 16 | .e4m3 => 8 | .e5m2 => 8 | .e3m2 => 6 | .e2m3 => 6
  | .e2m1 => 4 | .int8 => 8 | .int4 => 4 | .q4x => 4

/-- K of a matrix operation on this format (R18); FP32 has none. -/
def elemK (e : Elem) : Option Nat :=
  match elemBits e with
  | 16 => some 32 | 8 => some 64 | 6 => some 64 | 4 => some 128 | _ => none

/-- The contents of a format slot (R177). -/
structure FmtSlot where
  elem : Elem
  block : Bool
  round : BitVec 3
  sat : Bool
  tsen : Bool
  tscale : Word
  srkey : DWord
  deriving DecidableEq, Repr

/-- Sixteen zero bytes: FP32, no scale, RNE, no saturation, no per-tensor scale (R178). -/
def fmtSlotZero : FmtSlot :=
  { elem := .fp32, block := false, round := 0, sat := false, tsen := false, tscale := 0, srkey := 0 }

/-- An FP32 word that is positive, finite and normal. -/
def positiveNormal (t : Word) : Bool :=
  let e := (t.toNat / 2 ^ 23) % 256
  decide (t.toNat < 2 ^ 31) && decide (0 < e) && decide (e < 255)

/-- Read a slot of 128 bits; none when it is ill-formed (R178). -/
def fmtSlotOfBits (v : BitVec 128) : Option FmtSlot :=
  let lo := v.extractLsb' 0 32
  match elemOfCode (lo.extractLsb' 0 4).toNat with
  | none => none
  | some e =>
    let block := lo.getLsbD 8
    let round := lo.extractLsb' 16 3
    let tsen := lo.getLsbD 25
    let tscale : Word := v.extractLsb' 32 32
    if lo.extractLsb' 4 4 ≠ 0 ∨ lo.extractLsb' 9 7 ≠ 0 ∨ lo.extractLsb' 19 5 ≠ 0
        ∨ lo.extractLsb' 26 6 ≠ 0 then none
    else if 5 ≤ round.toNat then none
    else if block ∧ (e = .fp32 ∨ e = .fp16 ∨ e = .bf16) then none
    else if tsen ∧ ¬ positiveNormal tscale then none
    else if ¬ tsen ∧ tscale ≠ 0 then none
    else some { elem := e, block := block, round := round, sat := lo.getLsbD 24, tsen := tsen,
                tscale := tscale, srkey := v.extractLsb' 64 64 }

end Sys2Proof
end

