-- ==== Sys2Proof/Syntax.lean ====
section
/-! DEFINITION. The instruction syntax: one constructor of Instr per row of spec/opcode_table.json.
Group instructions carry the fields of their words (R73-R77, R85-R92), link sequencer instructions the
fields of R304, and the remaining rows (events: steps of the engines, the dispatcher, the coherence
protocol, the fabric, the host and the firmware) the data that comes with the event. -/

namespace Sys2Proof

/-- The fields of a base word laid out as D, A, B (R73); y is the switch marker (R71). -/
structure BaseArgs where
  y : Bool
  d : BitVec 7
  a : BitVec 7
  b : BitVec 7
  deriving DecidableEq, Repr

/-- The fields of an extended instruction (R74, R75), with the literal when LEN is 0b11 (R71, R77). -/
structure ExtArgs where
  y : Bool
  d : BitVec 11
  sub : BitVec 10
  a : BitVec 11
  b : BitVec 11
  c : BitVec 11
  s : BitVec 7
  sp : BitVec 2
  fs : BitVec 3
  g : BitVec 3
  gn : Bool
  rm : BitVec 3
  sat : Bool
  sh : BitVec 3
  aux : BitVec 8
  lit : Option DWord
  deriving DecidableEq, Repr

/-- R76: a base word acts as an extended instruction with SUB = 0, C = D, the guard P7 and every other
modifier zero; the operand fields are zero-extended. -/
def BaseArgs.ext (w : BaseArgs) (lit : Option DWord) : ExtArgs :=
  { y := w.y, d := w.d.zeroExtend 11, sub := 0, a := w.a.zeroExtend 11, b := w.b.zeroExtend 11,
    c := w.d.zeroExtend 11, s := 0, sp := 0, fs := 0, g := 7, gn := false, rm := 0, sat := false,
    sh := 0, aux := 0, lit := lit }

/-- The placement of a team on a core (R37, R38): for each of its groups a partition and a slice offset. -/
structure Place where
  core : Nat
  parts : List (Nat × Nat)
  deriving DecidableEq, Repr

/-- A firmware image offered to a controller (R414): the controller for which the host names it, the 64-byte header, the body, the
signature and the vendor key. -/
structure Image where
  target : BitVec 3
  header : List Byte
  body : List Byte
  sig : List Byte
  key : List Byte
  deriving DecidableEq, Repr

/-- The head of an engine queue whose operation an engine works on (R263). -/
inductive EngineId where
  | barge (core : Nat)
  | sluice (die : BitVec 2)
  | coll (core : Nat)
  deriving DecidableEq, Repr

/-- States of a line in an L2 (R247). -/
inductive LineState where
  | inv | shared | excl | owned | modified
  deriving DecidableEq, Repr

/-- A requester or holder of a line: a die of this package, another package, or the host (R248, R261); and a switch, which snoops for
the regions that it tracks (R256). -/
inductive CohNode where
  | die (d : BitVec 2)
  | pkg (p : BitVec 12)
  | host
  | switch (n : BitVec 12)
  deriving DecidableEq, Repr

/-- The stamp of a request between packages (R258). -/
structure Stamp where
  time : DWord
  pkg : BitVec 12
  tag : BitVec 12
  deriving DecidableEq, Repr

/-- What a request brings from another package (R248, R250): nothing, bytes from an offset of the line, or an atomic at an offset, of 8
bytes or of 4, with its operand, its compare value and the key of its rounding (R209, R210). -/
inductive Payload where
  | none
  | data (at_ : BitVec 7) (l : List Byte)
  | atomic (at_ : BitVec 7) (wide : Bool) (op : BitVec 4) (unsigned : Bool) (v c : DWord) (key : Option DWord)
  deriving DecidableEq, Repr

/-- A coherence request for a line (R248); the line is a physical address divided by 128. -/
structure CohReq where
  line : Nat
  src : CohNode
  stamp : Stamp
  payload : Payload
  deriving DecidableEq, Repr

/-- A snoop that an L2 of this package receives (R248). -/
structure Snoop where
  die : BitVec 2
  line : Nat
  requester : CohNode
  deriving DecidableEq, Repr

/-- The host-to-device snoops of CXL.cache (R261). -/
inductive HostSnoop where
  | data | invalidate | current
  deriving DecidableEq, Repr

/-- One context of one sequencer of the domain: a route word (R306). -/
structure Route where
  pkg : BitVec 12
  sq : BitVec 5
  ctx : BitVec 2
  deriving DecidableEq, Repr

/-- A READY message (R306). -/
structure ReadyMsg where
  src : Route
  dst : Route
  pid : BitVec 12
  tag : BitVec 16
  length : Nat
  combine : Option (BitVec 3)
  deriving DecidableEq, Repr

/-- A CHUNK message, whole (R307). -/
structure ChunkMsg where
  src : Route
  dst : Route
  pid : BitVec 12
  tag : BitVec 16
  data : List Byte
  deriving DecidableEq, Repr

/-- A NACK message (R306); pidFault tells a PID mismatch (R330) from a rendezvous mismatch. -/
structure NackMsg where
  dst : Route
  tag : BitVec 16
  pidFault : Bool
  deriving DecidableEq, Repr

/-- Who issued a remote write (R324, R325): a grid's team, or a sequencer context for a
collective at a PUTK. -/
inductive PutIssuer where
  | grid (handle : BitVec 14) (team : Word) (group : BitVec 5)
  | ctx (sq : BitVec 5) (ctx : BitVec 2) (cid : BitVec 28) (pc : BitVec 11)
  deriving DecidableEq, Repr

/-- A PUT message (R324, R325). -/
structure PutMsg where
  pid : BitVec 12
  src : BitVec 12
  dst : BitVec 12
  key : Word
  offset : Word
  value : DWord
  word : Word
  putk : Bool
  issuer : PutIssuer
  deriving DecidableEq, Repr

/-- A PUT acknowledgement (R324, R330); detail is none on success, else the detail of cause 0x49. -/
structure PutAckMsg where
  issuer : PutIssuer
  dst : BitVec 12
  detail : Option (BitVec 8)
  deriving DecidableEq, Repr

/-- A note to SHADOW (R255): the package that may hold lines of the region, and the switch that tells. -/
structure ShadowMsg where
  pkg : BitVec 12
  switch : BitVec 12
  deriving DecidableEq, Repr

/-- A switch's sum for an SRED (R310, R330). -/
structure SumMsg where
  pid : BitVec 12
  data : List Byte
  deriving DecidableEq, Repr

/-- An ABORT of a collective, with the cause that the done word needs (R320, R333). -/
structure AbortMsg where
  cid : BitVec 28
  cause : BitVec 8
  deriving DecidableEq, Repr

/-- A launch message of a collective (R317): the origin, its launch count and the packet's address. -/
structure LaunchMsg where
  cid : BitVec 28
  pid : BitVec 12
  space : Nat
  packet : DWord
  deriving DecidableEq, Repr

/-- The structures that corrected and uncorrectable errors name (R361 cause 0x40, R382, R383). -/
inductive RowId where
  | regFile (core part row : Nat)
  | local (core row : Nat)
  | accum (core slot : Nat)
  | l2 (die : BitVec 2) (way : Nat)
  | l1 (core frame : Nat)
  | icache (core frame : Nat)
  | tag (core frame : Nat)
  | device (stack frame : Nat)
  deriving DecidableEq, Repr

/-- Where an uncorrectable error strikes (R372). -/
inductive ErrorSite where
  | line (line : Nat) (device : Bool)
  | structure_ (kind : BitVec 3) (team : Nat) (pc : DWord) (group : BitVec 5)
  deriving DecidableEq, Repr

/-- Who grants credits (R328): another package, or the vendor switch that a link leads to. -/
inductive Grantor where
  | pkg (p : BitVec 12)
  | switch (link : BitVec 5)
  deriving DecidableEq, Repr

/-- What domain bring-up sets (R328, R401, R414): the domain time, the packages present, the mode. -/
structure BringUp where
  time : DWord
  pkgs : List (BitVec 12)
  rejoin : Bool
  deriving DecidableEq, Repr

/-- The instructions, link sequencer instructions and events of the opcode table. -/
inductive Instr where
  | nop (y : Bool)
  | bra (y : Bool) (off : BitVec 21)
  | braL (y : Bool) (tgt : DWord)
  | bc (y : Bool) (i : BitVec 3) (inv : Bool) (j : BitVec 3) (off : BitVec 14)
  | bcL (y : Bool) (i : BitVec 3) (inv : Bool) (j : BitVec 3) (tgt : DWord)
  | bcu (y : Bool) (i : BitVec 3) (inv : Bool) (off : BitVec 14)
  | bcuL (y : Bool) (i : BitVec 3) (inv : Bool) (tgt : DWord)
  | jmpi (y : Bool) (a : BitVec 7)
  | call (y : Bool) (n : BitVec 8) (off : BitVec 13)
  | callL (y : Bool) (n : BitVec 8) (tgt : DWord)
  | calli (y : Bool) (n : BitVec 8) (a : BitVec 7)
  | ret (y : Bool)
  | regang (y : Bool) (j : BitVec 3)
  | splitq (y : Bool) (d : BitVec 7)
  | loop (y : Bool) (a : BitVec 7) (off : BitVec 14)
  | loopi (y : Bool) (count : BitVec 12) (off : BitVec 9)
  | leave (y : Bool)
  | exit (y : Bool)
  | yield (y : Bool) (deadline : BitVec 12) (n : BitVec 9)
  | trap (y : Bool) (code : BitVec 8)
  | brk (y : Bool) (code : BitVec 8)
  | sli (y : Bool) (d : BitVec 7) (imm : BitVec 14)
  | sliL (y : Bool) (d : BitVec 7) (lit : DWord)
  | smov (w : BaseArgs)
  | smovX (w : ExtArgs)
  | sadd (w : BaseArgs)
  | saddX (w : ExtArgs)
  | saddL (w : BaseArgs) (lit : DWord)
  | ssub (w : BaseArgs)
  | ssubX (w : ExtArgs)
  | ssubL (w : BaseArgs) (lit : DWord)
  | smul (w : BaseArgs)
  | smulX (w : ExtArgs)
  | smulL (w : BaseArgs) (lit : DWord)
  | smulh (w : BaseArgs)
  | smulhX (w : ExtArgs)
  | smulhL (w : BaseArgs) (lit : DWord)
  | sand (w : BaseArgs)
  | sandX (w : ExtArgs)
  | sandL (w : BaseArgs) (lit : DWord)
  | sor (w : BaseArgs)
  | sorX (w : ExtArgs)
  | sorL (w : BaseArgs) (lit : DWord)
  | sxor (w : BaseArgs)
  | sxorX (w : ExtArgs)
  | sxorL (w : BaseArgs) (lit : DWord)
  | sshl (w : BaseArgs)
  | sshlX (w : ExtArgs)
  | sshlL (w : BaseArgs) (lit : DWord)
  | sshr (w : BaseArgs)
  | sshrX (w : ExtArgs)
  | sshrL (w : BaseArgs) (lit : DWord)
  | ssra (w : BaseArgs)
  | ssraX (w : ExtArgs)
  | ssraL (w : BaseArgs) (lit : DWord)
  | smin (w : BaseArgs)
  | sminX (w : ExtArgs)
  | sminL (w : BaseArgs) (lit : DWord)
  | smax (w : BaseArgs)
  | smaxX (w : ExtArgs)
  | smaxL (w : BaseArgs) (lit : DWord)
  | ssel (w : BaseArgs)
  | sselX (w : ExtArgs)
  | sselL (w : BaseArgs) (lit : DWord)
  | spopc (w : BaseArgs)
  | spopcX (w : ExtArgs)
  | scmp (w : BaseArgs)
  | scmpX (w : ExtArgs)
  | scmpL (w : BaseArgs) (lit : DWord)
  | vote (w : BaseArgs)
  | voteX (w : ExtArgs)
  | cand (w : BaseArgs)
  | candX (w : ExtArgs)
  | cor (w : BaseArgs)
  | corX (w : ExtArgs)
  | cxor (w : BaseArgs)
  | cxorX (w : ExtArgs)
  | setc (w : BaseArgs)
  | setcX (w : ExtArgs)
  | iadd (w : BaseArgs)
  | iaddX (w : ExtArgs)
  | iaddL (w : BaseArgs) (lit : DWord)
  | isub (w : BaseArgs)
  | isubX (w : ExtArgs)
  | isubL (w : BaseArgs) (lit : DWord)
  | imul (w : BaseArgs)
  | imulX (w : ExtArgs)
  | imulL (w : BaseArgs) (lit : DWord)
  | imulh (w : BaseArgs)
  | imulhX (w : ExtArgs)
  | imulhL (w : BaseArgs) (lit : DWord)
  | imin (w : BaseArgs)
  | iminX (w : ExtArgs)
  | iminL (w : BaseArgs) (lit : DWord)
  | imax (w : BaseArgs)
  | imaxX (w : ExtArgs)
  | imaxL (w : BaseArgs) (lit : DWord)
  | and (w : BaseArgs)
  | andX (w : ExtArgs)
  | andL (w : BaseArgs) (lit : DWord)
  | or (w : BaseArgs)
  | orX (w : ExtArgs)
  | orL (w : BaseArgs) (lit : DWord)
  | xor (w : BaseArgs)
  | xorX (w : ExtArgs)
  | xorL (w : BaseArgs) (lit : DWord)
  | shl (w : BaseArgs)
  | shlX (w : ExtArgs)
  | shlL (w : BaseArgs) (lit : DWord)
  | shr (w : BaseArgs)
  | shrX (w : ExtArgs)
  | shrL (w : BaseArgs) (lit : DWord)
  | sra (w : BaseArgs)
  | sraX (w : ExtArgs)
  | sraL (w : BaseArgs) (lit : DWord)
  | imad (w : BaseArgs)
  | imadX (w : ExtArgs)
  | imadL (w : BaseArgs) (lit : DWord)
  | imadw (w : BaseArgs)
  | imadwX (w : ExtArgs)
  | imadwL (w : BaseArgs) (lit : DWord)
  | iabs (w : BaseArgs)
  | iabsX (w : ExtArgs)
  | ineg (w : BaseArgs)
  | inegX (w : ExtArgs)
  | not (w : BaseArgs)
  | notX (w : ExtArgs)
  | popc (w : BaseArgs)
  | popcX (w : ExtArgs)
  | clz (w : BaseArgs)
  | clzX (w : ExtArgs)
  | brev (w : BaseArgs)
  | brevX (w : ExtArgs)
  | mov (w : BaseArgs)
  | movX (w : ExtArgs)
  | movi (y : Bool) (d : BitVec 7) (imm : BitVec 14)
  | moviX (w : ExtArgs)
  | moviL (y : Bool) (d : BitVec 7) (lit : DWord)
  | bfe (w : BaseArgs)
  | bfeX (w : ExtArgs)
  | bfeL (w : BaseArgs) (lit : DWord)
  | bfi (w : BaseArgs)
  | bfiX (w : ExtArgs)
  | bfiL (w : BaseArgs) (lit : DWord)
  | icmpp (w : BaseArgs)
  | icmppX (w : ExtArgs)
  | icmppL (w : BaseArgs) (lit : DWord)
  | sel (w : BaseArgs)
  | selX (w : ExtArgs)
  | selL (w : BaseArgs) (lit : DWord)
  | pset (w : BaseArgs)
  | psetX (w : ExtArgs)
  | fadd (w : BaseArgs)
  | faddX (w : ExtArgs)
  | faddL (w : BaseArgs) (lit : DWord)
  | fsub (w : BaseArgs)
  | fsubX (w : ExtArgs)
  | fsubL (w : BaseArgs) (lit : DWord)
  | fmul (w : BaseArgs)
  | fmulX (w : ExtArgs)
  | fmulL (w : BaseArgs) (lit : DWord)
  | fmin (w : BaseArgs)
  | fminX (w : ExtArgs)
  | fminL (w : BaseArgs) (lit : DWord)
  | fmax (w : BaseArgs)
  | fmaxX (w : ExtArgs)
  | fmaxL (w : BaseArgs) (lit : DWord)
  | fmaxa (w : BaseArgs)
  | fmaxaX (w : ExtArgs)
  | fmaxaL (w : BaseArgs) (lit : DWord)
  | ffma (w : BaseArgs)
  | ffmaX (w : ExtArgs)
  | ffmaL (w : BaseArgs) (lit : DWord)
  | frcp (w : BaseArgs)
  | frcpX (w : ExtArgs)
  | frsq (w : BaseArgs)
  | frsqX (w : ExtArgs)
  | fsqrt (w : BaseArgs)
  | fsqrtX (w : ExtArgs)
  | fexp2 (w : BaseArgs)
  | fexp2X (w : ExtArgs)
  | flog2 (w : BaseArgs)
  | flog2X (w : ExtArgs)
  | fcmpp (w : BaseArgs)
  | fcmppX (w : ExtArgs)
  | fcmppL (w : BaseArgs) (lit : DWord)
  | fclass (w : BaseArgs)
  | fclassX (w : ExtArgs)
  | fscale (w : BaseArgs)
  | fscaleX (w : ExtArgs)
  | fscaleL (w : BaseArgs) (lit : DWord)
  | hadd2 (w : BaseArgs)
  | hadd2X (w : ExtArgs)
  | hadd2L (w : BaseArgs) (lit : DWord)
  | hmul2 (w : BaseArgs)
  | hmul2X (w : ExtArgs)
  | hmul2L (w : BaseArgs) (lit : DWord)
  | hfma2 (w : BaseArgs)
  | hfma2X (w : ExtArgs)
  | hfma2L (w : BaseArgs) (lit : DWord)
  | fdot4 (w : BaseArgs)
  | fdot4X (w : ExtArgs)
  | cvt (w : BaseArgs)
  | cvtX (w : ExtArgs)
  | cvtf (w : BaseArgs)
  | cvtfX (w : ExtArgs)
  | cvti (w : BaseArgs)
  | cvtiX (w : ExtArgs)
  | pack (w : BaseArgs)
  | packX (w : ExtArgs)
  | unpack (w : BaseArgs)
  | unpackX (w : ExtArgs)
  | qscale (w : BaseArgs)
  | qscaleX (w : ExtArgs)
  | shfl (w : BaseArgs)
  | shflX (w : ExtArgs)
  | shflL (w : BaseArgs) (lit : DWord)
  | bcast (w : BaseArgs)
  | bcastX (w : ExtArgs)
  | lred (w : BaseArgs)
  | lredX (w : ExtArgs)
  | lscan (w : BaseArgs)
  | lscanX (w : ExtArgs)
  | elect (w : BaseArgs)
  | electX (w : ExtArgs)
  | rndx (w : BaseArgs)
  | rndxX (w : ExtArgs)
  | ld (w : BaseArgs)
  | ldX (w : ExtArgs)
  | ldL (w : BaseArgs) (lit : DWord)
  | st (w : BaseArgs)
  | stX (w : ExtArgs)
  | stL (w : BaseArgs) (lit : DWord)
  | ldl (w : BaseArgs)
  | ldlX (w : ExtArgs)
  | ldlL (w : BaseArgs) (lit : DWord)
  | stl (w : BaseArgs)
  | stlX (w : ExtArgs)
  | stlL (w : BaseArgs) (lit : DWord)
  | sld (w : BaseArgs)
  | sldX (w : ExtArgs)
  | sldL (w : BaseArgs) (lit : DWord)
  | sst (w : BaseArgs)
  | sstX (w : ExtArgs)
  | sstL (w : BaseArgs) (lit : DWord)
  | atom (w : BaseArgs)
  | atomX (w : ExtArgs)
  | atomL (w : BaseArgs) (lit : DWord)
  | atoml (w : BaseArgs)
  | atomlX (w : ExtArgs)
  | atomlL (w : BaseArgs) (lit : DWord)
  | red (w : BaseArgs)
  | redX (w : ExtArgs)
  | redL (w : BaseArgs) (lit : DWord)
  | fence (y : Bool) (scope : BitVec 3) (kind : BitVec 2)
  | fenceX (w : ExtArgs)
  | tagq (w : BaseArgs)
  | tagqX (w : ExtArgs)
  | tagset (w : BaseArgs)
  | tagsetX (w : ExtArgs)
  | tagclr (w : BaseArgs)
  | tagclrX (w : ExtArgs)
  | pref (w : BaseArgs)
  | prefX (w : ExtArgs)
  | prefL (w : BaseArgs) (lit : DWord)
  | cctl (w : BaseArgs)
  | cctlX (w : ExtArgs)
  | cctlL (w : BaseArgs) (lit : DWord)
  | puti (w : BaseArgs) (lit : DWord)
  | putiX (w : ExtArgs)
  | mma (w : BaseArgs)
  | mmaX (w : ExtArgs)
  | dmma (w : BaseArgs)
  | dmmaX (w : ExtArgs)
  | azero (w : BaseArgs)
  | azeroX (w : ExtArgs)
  | arel (w : BaseArgs)
  | arelX (w : ExtArgs)
  | ard (w : BaseArgs)
  | ardX (w : ExtArgs)
  | ardL (w : BaseArgs) (lit : DWord)
  | awr (w : BaseArgs)
  | awrX (w : ExtArgs)
  | awrL (w : BaseArgs) (lit : DWord)
  | adrain (w : BaseArgs)
  | adrainX (w : ExtArgs)
  | mfence (w : BaseArgs)
  | mfenceX (w : ExtArgs)
  | mwait (w : BaseArgs)
  | mwaitX (w : ExtArgs)
  | mwaitL (w : BaseArgs) (lit : DWord)
  | bcopy (w : BaseArgs)
  | bcopyX (w : ExtArgs)
  | bcopym (w : BaseArgs)
  | bcopymX (w : ExtArgs)
  | qfence (w : BaseArgs)
  | qfenceX (w : ExtArgs)
  | route (w : BaseArgs)
  | routeX (w : ExtArgs)
  | coll (w : BaseArgs)
  | collX (w : ExtArgs)
  | seqgo (w : BaseArgs)
  | seqgoX (w : ExtArgs)
  | srec (w : BaseArgs)
  | srecX (w : ExtArgs)
  | srecL (w : BaseArgs) (lit : DWord)
  | binit (w : BaseArgs)
  | binitX (w : ExtArgs)
  | binitL (w : BaseArgs) (lit : DWord)
  | barv (w : BaseArgs)
  | barvX (w : ExtArgs)
  | barvL (w : BaseArgs) (lit : DWord)
  | barvx (w : BaseArgs)
  | barvxX (w : ExtArgs)
  | barvxL (w : BaseArgs) (lit : DWord)
  | bwait (w : BaseArgs)
  | bwaitX (w : ExtArgs)
  | btest (w : BaseArgs)
  | btestX (w : ExtArgs)
  | waitv (w : BaseArgs)
  | waitvX (w : ExtArgs)
  | waitvL (w : BaseArgs) (lit : DWord)
  | tsrd (w : BaseArgs)
  | tsrdX (w : ExtArgs)
  | cntrd (w : BaseArgs)
  | cntrdX (w : ExtArgs)
  | get (w : BaseArgs)
  | getX (w : ExtArgs)
  | put (w : BaseArgs)
  | putX (w : ExtArgs)
  | sysget (w : BaseArgs)
  | sysgetX (w : ExtArgs)
  | sysgetL (w : BaseArgs) (lit : DWord)
  | sysput (w : BaseArgs)
  | sysputX (w : ExtArgs)
  | sysputL (w : BaseArgs) (lit : DWord)
  | launch (w : BaseArgs)
  | cwait (w : BaseArgs)
  | rte (y : Bool)
  | mapp (w : BaseArgs)
  | tlbi (w : BaseArgs)
  | wspill (w : BaseArgs)
  | wfill (w : BaseArgs)
  | dspill (w : BaseArgs)
  | halt (y : Bool)
  | snop
  | txc (a b : BitVec 4) (len : BitVec 12) (lnk : BitVec 5) (tag : BitVec 16)
  | rxs (d b : BitVec 4) (len : BitVec 12) (tag : BitVec 16)
  | rxc (d a b : BitVec 4) (len : BitVec 12) (cmb : BitVec 3) (tag : BitVec 16)
  | rxcf (d a b : BitVec 4) (len : BitVec 12) (lnk : BitVec 5) (cmb : BitVec 3) (sto : Bool) (tag : BitVec 16)
  | wflg (a b : BitVec 4) (timeout : Word)
  | sflg (a b : BitVec 4) (mode : BitVec 2) (imm : Word)
  | loopk (d : BitVec 4) (target : BitVec 11)
  | jmpk (a : BitVec 4) (target : BitVec 11) (cond : BitVec 2)
  | setk (d a : BitVec 4) (mode : BitVec 2) (imm : Word)
  | addk (d a b : BitVec 4) (mode : BitVec 2) (imm : Word)
  | cvtb (d a b : BitVec 4) (len : BitVec 12) (dir : Bool)
  | sred (d a b : BitVec 4) (len : BitVec 12) (lnk : BitVec 5)
  | putk (d a b : BitVec 4)
  | loga (a b : BitVec 4) (mode : BitVec 2)
  | seqend
  | deviceReset
  | bootImageCheck (img : Image)
  | attestationRequest (nonce : BitVec 256)
  | doorbell (ring : BitVec 6) (tail : Word)
  | ringEnable (ring : BitVec 6)
  | ringRestart (ring : BitVec 6)
  | cmdLaunch (ring : BitVec 6)
  | cmdCopy (ring : BitVec 6) (core : Nat)
  | cmdSequencerStart (ring : BitVec 6)
  | cmdWait (ring : BitVec 6)
  | cmdWaitTimeout (ring : BitVec 6) (idx : Nat)
  | cmdSignal (ring : BitVec 6)
  | cmdFence (ring : BitVec 6)
  | mgmtRegisterWrite (fw : Bool) (off : Word) (v : Word)
  | lapprove (handle : BitVec 14)
  | preqRaise (handle : BitVec 14)
  | preqWithdraw (handle : BitVec 14)
  | fwLoad (img : Image)
  | fwHandOver (priv : List Byte)
  | fwAbandon
  | fwAlive (ctl : BitVec 3)
  | aliveDeadlineExpiry (ctl : BitVec 3)
  | islandStep (k : BitVec 4)
  | islandGate (gate : Bool)
  | groupStep (handle : BitVec 14)
  | streamStep (handle : BitVec 14) (entry : BitVec 2)
  | debugResume (handle : BitVec 14)
  | seqHalt (sq : BitVec 5) (ctx : BitVec 2) (halt : Bool)
  | seqStep (sq : BitVec 5) (ctx : BitVec 2)
  | dispatchTeam (handle : BitVec 14) (place : Place) (twin : Option Place)
  | dispatcherPreempt (team : Nat) (forGrid : BitVec 14)
  | teamTaken (team : Nat)
  | swapOut (team : Nat) (forGrid : BitVec 14)
  | teamResume (team : Nat) (place : Place) (twin : Option Place)
  | resultWriteback (group : Nat) (entry : BitVec 2) (k : Nat)
  | yieldOverrun (group : Nat) (entry : BitVec 2)
  | gridRetire (handle : BitVec 14)
  | engineFaultDelivery (eng : EngineId)
  | hostPageAnswer (group : Nat) (entry : BitVec 2) (mapped : Bool)
  | hostFaultAnswer (team : Nat) (resume : Bool)
  | matrixFifoHead (core : Nat)
  | accumulatorStarvation (core : Nat)
  | batchRetire (group : Nat)
  | adrainHandOver (core : Nat)
  | bargeDrain (core : Nat)
  | abortedDrain (core : Nat)
  | bcopyPerform (core : Nat)
  | bcopymPerform (core : Nat)
  | routePerform (die : BitVec 2)
  | collPerform (core : Nat)
  | waitWake (group : Nat) (entry : BitVec 2)
  | waitvRecheck (group : Nat) (entry : BitVec 2)
  | waitTimeout (group : Nat) (entry : BitVec 2)
  | readShared (r : CohReq)
  | readOwn (r : CohReq)
  | upgrade (r : CohReq)
  | writeBack (r : CohReq)
  | cleanEvict (r : CohReq)
  | atomicAtHome (r : CohReq)
  | fwdShared (n : Snoop)
  | fwdOwn (n : Snoop)
  | invalidate (n : Snoop)
  | backInvalidate (n : Snoop)
  | dataResponse (die : BitVec 2) (line : Nat) (st : LineState)
  | ack (die : BitVec 2) (line : Nat)
  | retry (die : BitVec 2) (line : Nat)
  | snoopResponse (line : Nat) (src : CohNode) (data : Bool)
  | l2Eviction (die : BitVec 2) (line : Nat)
  | shadowNote (region : Nat) (m : ShadowMsg)
  | track (region : Nat) (switch : BitVec 12)
  | untrack (region : Nat)
  | regionSweep (region : Nat)
  | requestReissue (tag : BitVec 12)
  | switchFailure (switch : BitVec 12)
  | recoveryWindowEnd
  | invalidateResend (line : Nat) (pkg : BitVec 12)
  | hostSnoop (die : BitVec 2) (line : Nat) (kind : HostSnoop)
  | bisnpResponse (line : Nat) (dirty : Bool)
  | hostMemoryAccess (pa : BitVec 52) (n : Nat) (data : Option (List Byte))
  | flitReceive (link : BitVec 5) (flit : List Byte)
  | linkDown (link : BitVec 5)
  | readyMessage (m : ReadyMsg)
  | readyRetry (sq : BitVec 5) (ctx : BitVec 2)
  | chunkMessage (m : ChunkMsg)
  | nackMessage (m : NackMsg)
  | rendezvousTimeout (sq : BitVec 5) (ctx : BitVec 2)
  | sredResult (sq : BitVec 5) (ctx : BitVec 2) (m : SumMsg)
  | putMessage (m : PutMsg)
  | notifyAppend (win : BitVec 8)
  | putAck (m : PutAckMsg)
  | creditReturn (grantor : Grantor) (requests bulk : Nat)
  | markEcho (pkg : BitVec 12)
  | rateRecovery (pkg : BitVec 12)
  | collectiveLaunchMessage (m : LaunchMsg)
  | collectiveCommit (cid : BitVec 28)
  | collectiveCancel (cid : BitVec 28)
  | abortMessage (m : AbortMsg)
  | chunkComplete (sq : BitVec 5) (ctx : BitVec 2)
  | contextRunLimit (sq : BitVec 5)
  | wflgTimeout (sq : BitVec 5) (ctx : BitVec 2)
  | seqPageResolved (sq : BitVec 5) (ctx : BitVec 2) (mapped : Bool)
  | collectiveEnd (cid : BitVec 28)
  | replay (handle : BitVec 14)
  | pairCompare (team : Nat)
  | pairTimeout (team : Nat)
  | uncorrectableError (e : ErrorSite)
  | correctedError (e : RowId) (handle : Option (BitVec 14))
  | rowSpare (idx : BitVec 10)
  | powerLimit (island : BitVec 6) (mhz : BitVec 16)
  | dtimeSync (ticks : Nat)
  | linkUp (link : BitVec 5)
  | domainBringUp (b : BringUp)
  | wflgRecheck (sq : BitVec 5) (ctx : BitVec 2)
  | cmdWaitSatisfied (ring : BitVec 6) (idx : Nat)
  | refusedByTarget (group : Nat) (entry : BitVec 2)
  | combineReplayTimeout (sq : BitVec 5) (ctx : BitVec 2)
  deriving DecidableEq, Repr

end Sys2Proof
end

