-- ==== Sys2Proof/Machine/OpMap.lean ====
section
/-! DEFINITION. The opcode map as data (R85 to R92) and the decode checks of R93, orders 4 to 9.
Orders 1 to 3 and the zero bits of words laid out field by field are checked by the decoder. -/

namespace Sys2Proof

/-- The literal position of an instruction (the Lit column, R77). -/
inductive LitPos where
  | no | a | b | d | target | value | required
  deriving DecidableEq, Repr

/-- The kinds of operand fields (R78). -/
inductive Kind where
  | v | ve | vq          -- a vector register, an even pair, four registers from a multiple of 4 (R90)
  | s | se               -- a scalar, an even pair
  | p | c | h
  | cdi | cdf            -- condition code and destination, integer and FP codes (R79)
  | imm                  -- an immediate: its range is checked at order 9
  | zero                 -- a field marked —
  | skip                 -- not an operand of this layout
  deriving DecidableEq, Repr

/-- What a decode check may need of the issuing group (R94): the width W, the window size N and the
grid's format slots. -/
structure DecodeCtx where
  width : Nat
  nregs : Nat
  slots : List FmtSlot
  deriving DecidableEq, Repr

/-- The slot that an index names. -/
def slotAt (l : List FmtSlot) (n : BitVec 3) : FmtSlot := (l[n.toNat]?).getD fmtSlotZero

/-- One row of the opcode map. -/
structure OpRow where
  ext : Bool                       -- has an extended form
  lit : LitPos
  subOk : ExtArgs → Bool           -- order 4: a legal SUB value
  fs : Bool                        -- uses FS
  rm : ExtArgs → Bool              -- may name a rounding
  sr : Bool                        -- may name SR (R82)
  sat : ExtArgs → Bool             -- may saturate
  aux : ExtArgs → BitVec 8         -- the AUX bits it uses
  sUsed : Bool                     -- uses S without SP (the scale scalar of MMA)
  xa : Bool                        -- X column
  xb : Bool
  xc : Bool
  guard : Bool
  kd : ExtArgs → Kind
  ka : ExtArgs → Kind
  kb : ExtArgs → Kind
  kc : ExtArgs → Kind              -- zero when there is no third source
  immOk : ExtArgs → Bool           -- order 9, what needs no group

/-- A row with nothing optional, to be refined by the rows of the map. -/
def opRowPlain : OpRow :=
  { ext := true, lit := .no, subOk := fun w => w.sub == 0, fs := false, rm := fun _ => false,
    sr := false, sat := fun _ => false, aux := fun _ => 0, sUsed := false, xa := false, xb := false,
    xc := false, guard := true, kd := fun _ => .zero, ka := fun _ => .zero, kb := fun _ => .zero,
    kc := fun _ => .zero, immOk := fun _ => true }

/-- SUB holds no bit outside the mask m. -/
def subWithin (m : Nat) (w : ExtArgs) : Bool := w.sub.toNat &&& m == w.sub.toNat

/-- The type field T names a 64-bit type (R87). -/
def tWide (w : ExtArgs) : Bool := w.sub.getLsbD 1

/-- The type field T names an unsigned type (R87). -/
def tUnsigned (w : ExtArgs) : Bool := w.sub.getLsbD 0

/-- A vector operand at the width of T. -/
def kindT (w : ExtArgs) : Kind := if tWide w then .ve else .v

/-- R79: the AUX bits of a compare: none when the combine field is none. -/
def auxCombine (w : ExtArgs) : BitVec 8 := if w.sub.extractLsb' 1 2 = 0 then 0 else 0x0F

/-- Class 001 (R86): the two-operand scalar instructions. -/
def rowScalar2 (unsignedBit : Bool) : OpRow :=
  { opRowPlain with
    lit := .b, guard := false, subOk := subWithin (if unsignedBit then 1 else 0),
    kd := fun _ => .s, ka := fun _ => .s, kb := fun _ => .s }

/-- Class 001: one scalar source. -/
def rowScalar1 : OpRow := { opRowPlain with guard := false, kd := fun _ => .s, ka := fun _ => .s }

/-- Class 001: condition logic (CAND, COR, CXOR). -/
def rowCond : OpRow :=
  { opRowPlain with
    guard := false, subOk := subWithin 3, kd := fun _ => .c, ka := fun _ => .c,
    kb := fun _ => .c }

/-- Class 010 (R87): two-source vector integer instructions; shift counts are single registers (R140). -/
def rowInt2 (satBit shift : Bool) : OpRow :=
  { opRowPlain with
    lit := .b, subOk := fun w => decide (w.sub.toNat < 4), sat := fun _ => satBit,
    xa := true, xb := true, kd := kindT, ka := kindT, kb := fun w => if shift then .v else kindT w }

/-- Class 010: one-source vector integer instructions; POPC and CLZ write one register (R149). -/
def rowInt1 (narrow : Bool) : OpRow :=
  { opRowPlain with
    subOk := fun w => decide (w.sub.toNat < 4), xa := true,
    kd := fun w => if narrow then .v else kindT w, ka := kindT }

/-- Class 011 (R88): two-source FP instructions with the sign field N on A and B. -/
def rowFp2 (round : Bool) : OpRow :=
  { opRowPlain with
    lit := .b, subOk := subWithin 0b011011, rm := fun _ => round, sat := fun _ => round,
    xa := true, xb := true, kd := fun _ => .v, ka := fun _ => .v, kb := fun _ => .v }

/-- Class 011: the transcendentals. -/
def rowTrans : OpRow :=
  { opRowPlain with
    subOk := subWithin 0b001001, sat := fun _ => true, xa := true, kd := fun _ => .v,
    ka := fun _ => .v }

/-- Class 011: packed 16-bit arithmetic; SUB[3:1] negate the sources it has. -/
def rowHalf (three : Bool) : OpRow :=
  { opRowPlain with
    lit := .b, subOk := subWithin (if three then 0b1111 else 0b0111),
    rm := fun _ => true, sat := fun _ => true, xa := true, xb := true, xc := three,
    kd := fun _ => .v, ka := fun _ => .v, kb := fun _ => .v,
    kc := fun _ => if three then .v else .zero }

/-- The access field W of R90 gives the register kind of the data. -/
def kindW (w : ExtArgs) : Kind :=
  match (w.sub.extractLsb' 0 3).toNat with
  | 5 => .ve | 6 => .vq | _ => .v

/-- R90: the W and O fields of a load or store. With SUB[3] = 0 the scope is zero; local accesses name
TEAM or GROUP (R207); scalar accesses are .b32 or .b64. -/
def memSubOk (loc scal : Bool) (w : ExtArgs) : Bool :=
  let k := (w.sub.extractLsb' 0 3).toNat
  let sc := (w.sub.extractLsb' 4 3).toNat
  let ord := w.sub.getLsbD 3
  decide (k ≠ 7) && decide (w.sub.extractLsb' 8 2 = 0) && (ord || decide (sc = 0)) && decide (sc ≠ 7)
    && (!(loc && ord) || decide (sc = 5 ∨ sc = 6)) && (!scal || decide (k = 0 ∨ k = 5))

/-- The operation field of an atomic (R90). -/
def atomOp (w : ExtArgs) : Nat := (w.sub.extractLsb' 0 4).toNat

/-- An atomic of a 64-bit type (R90: SUB[5:4]). -/
def atomWide (w : ExtArgs) : Bool := w.sub.getLsbD 5

/-- The scope field of an atomic (R90). -/
def atomScope (w : ExtArgs) : Nat := (w.sub.extractLsb' 6 3).toNat

/-- R90, R208, R209: legal SUB of an atomic; RED has no .exch and no .cas. -/
def atomSubOk (loc red : Bool) (w : ExtArgs) : Bool :=
  let op := atomOp w
  decide (op ≤ 11) && decide (op < 8 ∨ w.sub.extractLsb' 4 2 = 0) && decide (atomScope w ≠ 7)
    && !(w.sub.getLsbD 9) && (!loc || decide (atomScope w = 5 ∨ atomScope w = 6))
    && (!red || decide (op ≠ 6 ∧ op ≠ 7))

/-- A register operand at the width of an atomic's type. -/
def kindAtom (w : ExtArgs) : Kind := if atomWide w then .ve else .v

/-- Class 110 with no SUB, used by most instructions of R91. -/
def rowAsync (lit : LitPos) (d a b : Kind) : OpRow :=
  { opRowPlain with lit := lit, kd := fun _ => d, ka := fun _ => a, kb := fun _ => b }

/-- Class 111 without an extended form (R92). -/
def rowSys (d a b : Kind) : OpRow :=
  { opRowPlain with ext := false, guard := false, kd := fun _ => d, ka := fun _ => a, kb := fun _ => b }

/-- Class 000 and other words laid out field by field: their operands are checked at the decoder or by
ctlCheck. -/
def rowCtl (lit : LitPos) : OpRow :=
  { opRowPlain with
    ext := false, lit := lit, guard := false, kd := fun _ => .skip,
    ka := fun _ => .skip, kb := fun _ => .skip, kc := fun _ => .skip }

/-- State register numbers that are assigned (R121). -/
def stateRegAssigned (n : Nat) : Bool := decide (n ≤ 26 ∧ n ≠ 23)

/-- State registers that PUT may write (R121): fstat, scratch0, scratch1. -/
def stateRegWritable (n : Nat) : Bool := decide (n = 11 ∨ n = 21 ∨ n = 22)

/-- The rows of classes 000 and 001 (R85, R86). -/
def opRowA (op : Nat) : Option OpRow :=
  match op with
  | 0x00 => some (rowCtl .no)
  | 0x01 | 0x02 | 0x03 | 0x05 => some (rowCtl .target)
  | 0x04 | 0x06 | 0x07 | 0x08 | 0x09 | 0x0A | 0x0B | 0x0C | 0x0D | 0x0E | 0x0F | 0x10 =>
    some (rowCtl .no)
  | 0x20 => some { opRowPlain with
                                   ext := false, lit := .value, guard := false, kd := fun _ => .s,
                                   ka := fun _ => .skip, kb := fun _ => .skip }
  | 0x21 => some rowScalar1
  | 0x22 | 0x23 | 0x24 | 0x26 | 0x27 | 0x28 | 0x29 | 0x2A | 0x2B => some (rowScalar2 false)
  | 0x25 | 0x2C | 0x2D => some (rowScalar2 true)
  | 0x2E => some { rowScalar2 false with aux := fun _ => 0x07 }
  | 0x2F => some rowScalar1
  | 0x30 => some { rowScalar2 false with subOk := subWithin 0b110, aux := auxCombine, kd := fun _ => .cdi }
  | 0x31 => some { opRowPlain with
                                   guard := false, subOk := fun w => decide (w.sub.toNat < 3),
                                   kd := fun w => if w.sub = 0 then .s else .c, ka := fun _ => .p }
  | 0x32 | 0x33 | 0x34 => some rowCond
  | 0x35 => some { opRowPlain with guard := false, kd := fun _ => .c, ka := fun _ => .s }
  | _ => none

/-- The rows of class 010 (R87). -/
def opRowB (op : Nat) : Option OpRow :=
  match op with
  | 0x40 | 0x41 => some (rowInt2 true false)
  | 0x42 | 0x43 | 0x44 | 0x45 | 0x46 | 0x47 | 0x48 => some (rowInt2 false false)
  | 0x49 | 0x4A | 0x4B => some (rowInt2 false true)
  | 0x4C => some { rowInt2 false false with kc := kindT, xc := true }
  | 0x4D => some { rowInt2 false false with
                                            subOk := fun w => decide (w.sub.toNat < 2), kd := fun _ => .ve,
                                            kc := fun _ => .ve, xc := true }
  | 0x4E | 0x4F | 0x50 | 0x53 => some (rowInt1 false)
  | 0x51 | 0x52 => some (rowInt1 true)
  | 0x54 => some { rowInt1 false with subOk := fun w => decide (w.sub = 0 ∨ w.sub = 2) }
  | 0x55 => some { opRowPlain with
                                   lit := .value, subOk := subWithin 1,
                                   kd := fun w => if w.sub.getLsbD 0 then .ve else .v }
  | 0x56 => some { rowInt2 false true with subOk := subWithin 1, kd := fun _ => .v, ka := fun _ => .v }
  | 0x57 => some { rowInt2 false true with subOk := subWithin 0, kc := fun _ => .v, xc := true }
  | 0x58 => some { rowInt2 false false with
                     subOk := subWithin 0b111, aux := auxCombine, kd := fun _ => .cdi
                     ka := fun w => if w.sub.getLsbD 0 then .ve else .v
                     kb := fun w => if w.sub.getLsbD 0 then .ve else .v }
  | 0x59 => some { rowInt2 false false with subOk := subWithin 0, aux := fun _ => 0x0F }
  | 0x5A => some { opRowPlain with
                                   subOk := fun w => decide (w.sub.toNat < 5), kd := fun _ => .p,
                                   ka := fun _ => .p, kb := fun w => if w.sub = 4 then .zero else .p }
  | _ => none

/-- The rows of class 011 (R88). -/
def opRowC (op : Nat) : Option OpRow :=
  match op with
  | 0x60 | 0x61 | 0x62 => some (rowFp2 true)
  | 0x63 | 0x64 | 0x65 => some (rowFp2 false)
  | 0x66 => some { rowFp2 true with subOk := subWithin 0b111111, kc := fun _ => .v, xc := true }
  | 0x67 | 0x68 | 0x69 | 0x6A | 0x6B => some rowTrans
  | 0x6C => some { rowFp2 false with subOk := subWithin 0b110, aux := auxCombine, kd := fun _ => .cdf }
  | 0x6D => some { rowTrans with sat := fun _ => false }
  | 0x6E => some { rowFp2 true with subOk := subWithin 0 }
  | 0x6F | 0x70 => some (rowHalf false)
  | 0x71 => some (rowHalf true)
  | 0x72 => some { opRowPlain with
                                   fs := true, rm := fun _ => true, sat := fun _ => true, xc := true,
                                   kd := fun _ => .v, ka := fun _ => .v, kb := fun _ => .v,
                                   kc := fun _ => .v }
  | _ => none

/-- The rows of class 100 (R89). -/
def opRowD (op : Nat) : Option OpRow :=
  match op with
  | 0x80 => some { opRowPlain with
                                   subOk := subWithin 1, fs := true, sr := true,
                                   rm := fun w => !(w.sub.getLsbD 0), sat := fun w => !(w.sub.getLsbD 0),
                                   kd := fun _ => .v, ka := fun _ => .v }
  | 0x81 => some { opRowPlain with
                                   subOk := subWithin 3, sr := true, rm := fun w => !(w.sub.getLsbD 1),
                                   sat := fun w => !(w.sub.getLsbD 1), kd := fun _ => .v, ka := fun _ => .v }
  | 0x82 => some { opRowPlain with
                                   subOk := subWithin 3, rm := fun _ => true,
                                   sat := fun w => !(w.sub.getLsbD 1), kd := fun _ => .v, ka := fun _ => .v }
  | 0x83 => some { opRowPlain with
                                   fs := true, sr := true, rm := fun _ => true, sat := fun _ => true,
                                   aux := fun _ => 0x1F, kd := fun _ => .v, ka := fun _ => .v,
                                   kb := fun _ => .v }
  | 0x84 => some { opRowPlain with fs := true, aux := fun _ => 0x1F, kd := fun _ => .v, ka := fun _ => .v }
  | 0x85 => some { opRowPlain with
                                   fs := true, rm := fun _ => true, sat := fun _ => true, xb := true,
                                   kd := fun _ => .v, ka := fun _ => .v, kb := fun _ => .v }
  | 0x86 => some { opRowPlain with
                                   lit := .b, subOk := subWithin 3, xb := true, kd := fun _ => .v,
                                   ka := fun _ => .v, kb := fun _ => .v }
  | 0x87 => some { opRowPlain with kd := fun _ => .v, ka := fun _ => .v, kb := fun _ => .imm }
  | 0x88 => some { opRowPlain with subOk := subWithin 7, kd := fun _ => .v, ka := fun _ => .v }
  | 0x89 => some { opRowPlain with subOk := subWithin 15, kd := fun _ => .v, ka := fun _ => .v }
  | 0x8A => some { opRowPlain with kd := fun _ => .p }
  | 0x8B => some { opRowPlain with kd := fun _ => .v, ka := fun _ => .ve, kb := fun _ => .se }
  | _ => none

/-- The rows of class 101 (R90). RED, PREF and CCTL have no X column in its table. DEDUCED (log 56). -/
def opRowE (op : Nat) : Option OpRow :=
  match op with
  | 0xA0 | 0xA1 => some { opRowPlain with
                                          lit := .b, subOk := memSubOk false false, xa := true, kd := kindW,
                                          ka := fun _ => .ve, kb := fun _ => .s }
  | 0xA2 | 0xA3 => some { opRowPlain with
                                          lit := .b, subOk := memSubOk true false, kd := kindW,
                                          ka := fun _ => .v, kb := fun _ => .s }
  | 0xA4 | 0xA5 => some { opRowPlain with
                            lit := .b, subOk := memSubOk false true
                            kd := fun w => if w.sub.extractLsb' 0 3 = 5 then .se else .s
                            ka := fun _ => .se, kb := fun _ => .s }
  | 0xA6 => some { opRowPlain with
                     lit := .b, subOk := atomSubOk false false, aux := fun _ => 3, xb := true, xc := true
                     kd := kindAtom, ka := fun _ => .ve, kb := kindAtom
                     kc := fun w => if atomOp w = 7 then kindAtom w else .zero }
  | 0xA7 => some { opRowPlain with
                     lit := .b, subOk := atomSubOk true false, aux := fun _ => 3, xb := true, xc := true
                     kd := kindAtom, ka := fun _ => .v, kb := kindAtom
                     kc := fun w => if atomOp w = 7 then kindAtom w else .zero }
  | 0xA8 => some { opRowPlain with
                                   lit := .b, subOk := atomSubOk false true, aux := fun _ => 3,
                                   kd := kindAtom, ka := fun _ => .ve, kb := fun _ => .s }
  | 0xA9 => some { opRowPlain with kd := fun _ => .imm, ka := fun _ => .imm, kb := fun _ => .imm }
  | 0xAA => some (rowAsync .no .v .v .zero)
  | 0xAB => some (rowAsync .no .v .v .zero)
  | 0xAC => some (rowAsync .no .zero .v .zero)
  | 0xAD => some { opRowPlain with lit := .b, subOk := subWithin 1, ka := fun _ => .ve, kb := fun _ => .s }
  | 0xAE => some { opRowPlain with
                     lit := .b, subOk := fun w => decide (w.sub.toNat < 4)
                     ka := fun w => if w.sub = 1 then .zero else .ve
                     kb := fun w => if w.sub = 1 then .zero else .s }
  | 0xAF => some { opRowPlain with
                                   lit := .required, subOk := subWithin 1, kd := fun _ => .s,
                                   ka := fun _ => .se, kb := fun _ => .s }
  | _ => none

/-- The rows of class 110 (R91). -/
def opRowF (op : Nat) : Option OpRow :=
  match op with
  | 0xC0 => some { opRowPlain with
                                   subOk := subWithin 3, fs := true, aux := fun _ => 7, sUsed := true,
                                   kd := fun _ => .h, ka := fun _ => .v, kb := fun _ => .v }
  | 0xC1 => some { opRowPlain with
                                   subOk := subWithin 3, fs := true, aux := fun _ => 7, sUsed := true,
                                   kd := fun _ => .h, ka := fun _ => .v, kb := fun _ => .v,
                                   kc := fun _ => .h, immOk := fun w => w.c != w.d }
  | 0xC2 | 0xC3 => some (rowAsync .no .h .zero .zero)
  | 0xC4 => some (rowAsync .b .v .h .s)
  | 0xC5 => some (rowAsync .b .h .v .s)
  | 0xC6 => some { rowAsync .no .h .se .s with subOk := subWithin 1, fs := true }
  | 0xC7 => some (rowAsync .no .s .zero .zero)
  | 0xC8 => some { rowAsync .a .zero .s .zero with
                     immOk := fun w => match w.lit with
                       | some l => decide (l.toNat < 256)
                       | none => true }
  | 0xC9 => some (rowAsync .no .se .se .s)
  | 0xCA => some (rowAsync .no .s .se .se)
  | 0xCB => some { rowAsync .no .imm .zero .zero with immOk := fun w => decide (0 < w.d.toNat ∧ w.d.toNat < 16) }
  | 0xCC => some { rowAsync .no .se .se .se with subOk := subWithin 1 }
  | 0xCD => some (rowAsync .no .h .se .s)
  | 0xCE => some (rowAsync .no .s .se .zero)
  | 0xCF => some (rowAsync .b .se .s .s)
  | 0xD0 | 0xD1 | 0xD2 => some (rowAsync .b .zero .s .s)
  | 0xD3 => some (rowAsync .no .s .s .s)
  | 0xD4 => some (rowAsync .no .c .s .s)
  | 0xD5 => some { rowAsync .b .s .se .s with
                     subOk := fun w => decide (w.sub.toNat < 6 ∨ (8 ≤ w.sub.toNat ∧ w.sub.toNat < 14)) }
  | 0xD6 => some (rowAsync .no .se .zero .zero)
  | 0xD7 => some { rowAsync .no .s .imm .zero with immOk := fun w => decide (w.a.toNat < 32) }
  | _ => none

/-- The rows of class 111 (R92). -/
def opRowG (op : Nat) : Option OpRow :=
  match op with
  | 0xE0 => some { rowSys .s .imm .zero with ext := true, immOk := fun w => stateRegAssigned w.a.toNat }
  | 0xE1 => some { rowSys .imm .s .zero with ext := true, immOk := fun w => stateRegWritable w.d.toNat }
  | 0xE2 => some { rowSys .s .imm .zero with ext := true, lit := .a }
  | 0xE3 => some { rowSys .imm .s .zero with ext := true, lit := .d }
  | 0xE4 => some (rowSys .s .se .zero)
  | 0xE5 => some (rowSys .s .s .s)
  | 0xE6 | 0xEC => some (rowCtl .no)
  | 0xE7 => some (rowSys .s .se .s)
  | 0xE8 => some { rowSys .imm .se .s with
                     immOk := fun w => decide (w.d.toNat < 3) && decide (w.d.toNat ≠ 0 ∨ w.b = 0)
                       && decide (w.d.toNat ≠ 2 ∨ (w.a = 0 ∧ w.b = 0)) }
  | 0xE9 | 0xEA => some { rowSys .imm .se .imm with immOk := fun w => decide (w.d = 0 ∧ 0 < w.b.toNat) }
  | 0xEB => some { rowSys .imm .se .imm with
                     immOk := fun w => decide (w.d = 0 ∧ 0 < w.b.toNat ∧ w.b.toNat ≤ 16) }
  | _ => none

/-- The opcode map: none for an unassigned OP (R93, order 1). -/
def opRow (op : Nat) : Option OpRow :=
  match op / 32 with
  | 0 => opRowA op
  | 1 => opRowA op
  | 2 => opRowB op
  | 3 => opRowC op
  | 4 => opRowD op
  | 5 => opRowE op
  | 6 => opRowF op
  | 7 => opRowG op
  | _ => none

/-- Condition codes that are not reserved (R79). -/
def codeOk (fp : Bool) (code : Nat) : Bool :=
  if fp then decide (code < 14) else decide (code < 6 ∨ (8 ≤ code ∧ code < 14))

/-- R78: the value v is legal for the kind; n bounds the vector registers where a group is given. -/
def kindOk (k : Kind) (n : Option Nat) (v : Nat) : Bool :=
  let below (x : Nat) : Bool := match n with
    | some m => decide (x < m)
    | none => true
  match k with
  | .v => below v
  | .ve => decide (v % 2 = 0) && below (v + 1)
  | .vq => decide (v % 4 = 0) && below (v + 3)
  | .s => decide (v < 64)
  | .se => decide (v % 2 = 0 ∧ v < 64)
  | .p | .c => decide (v < 8)
  | .h => decide (v < 16)
  | .cdi => decide (v < 128) && codeOk false (v / 8 % 16)
  | .cdf => decide (v < 128) && codeOk true (v / 8 % 16)
  | .imm | .skip => true
  | .zero => decide (v = 0)

/-- R93 order 5: a word-2 field, or C, that the instruction does not use (R83: SP is one where the map marks no position in X); a
reserved RM, S or SH value; SR where it is not legal. -/
def wordTwoOk (r : OpRow) (w : ExtArgs) : Bool :=
  decide (w.s.toNat < 64) && (decide (w.sp = 0) || r.xa || r.xb || r.xc) && (decide (w.s = 0) || r.sUsed || decide (w.sp ≠ 0))
    && (decide (w.fs = 0) || r.fs) && (decide (w.rm = 0) || r.rm w) && decide (w.rm.toNat < 6)
    && (decide (w.rm ≠ 5) || r.sr) && (!w.sat || r.sat w) && decide (w.sh = 0)
    && decide (w.aux &&& ~~~ (r.aux w) = 0)
    && (decide (w.c = 0) || decide (r.kc w ≠ .zero))

/-- R93 order 7: SP names a position that X marks and whose field is zero; the field at the literal's
position is zero. -/
def positionsOk (r : OpRow) (w : ExtArgs) : Bool :=
  (match w.sp.toNat with
    | 0 => true
    | 1 => r.xa && decide (w.a = 0)
    | 2 => r.xb && decide (w.b = 0)
    | _ => r.xc && decide (w.c = 0) && decide (r.kc w ≠ .zero))
  && (match w.lit, r.lit with
    | some _, .a => decide (w.a = 0)
    | some _, .b => decide (w.b = 0)
    | some _, .d => decide (w.d = 0)
    | _, _ => true)

/-- R93 order 8 over D, A, B and C: a position that a scalar replaces takes an Se pair where the kind is
a pair (R81); a position that the literal supplies is not checked. C of a base word is D or the
handle after it (R76, R279). -/
def operandsOk (r : OpRow) (isExt : Bool) (n : Option Nat) (w : ExtArgs) : Bool :=
  let scalarOk (k : Kind) : Bool := decide (k ≠ .ve ∨ w.s.toNat % 2 = 0)
  let isLit (p : LitPos) : Bool := w.lit.isSome && decide (r.lit = p)
  (isLit .d || kindOk (r.kd w) n w.d.toNat)
    && (if w.sp = 1 then scalarOk (r.ka w) else isLit .a || kindOk (r.ka w) n w.a.toNat)
    && (if w.sp = 2 then scalarOk (r.kb w) else isLit .b || kindOk (r.kb w) n w.b.toNat)
    && (if w.sp = 3 then scalarOk (r.kc w)
        else decide (r.kc w = .zero) || !isExt || kindOk (r.kc w) n w.c.toNat)

/-- Registers per row of a fragment in the plain layout (R276). -/
def fragU (e : Elem) : Nat := if elemBits e = 6 then 12 else 16

/-- Registers per row of 64 elements in the transposed layout (R276). -/
def fragZ (e : Elem) : Nat := 2 * elemBits e

/-- Size of a fragment in registers (R277). -/
def fragSize (width : Nat) (e : Elem) (trans : Bool) : Nat :=
  if trans then (((elemK e).getD 32 + width - 1) / width) * fragZ e else (64 / width) * fragU e

/-- The highest stream position that PACK and UNPACK may name at an element width (R185). -/
def packPosMax (bits : Nat) : Option Nat :=
  match bits with
  | 16 => some 0 | 8 => some 2 | 6 => some 14 | 4 => some 6 | _ => none

/-- Registers of a packed stream (R185). -/
def packRegs (bits : Nat) : Nat := if bits = 6 then 3 else 1

/-- Order 8 and 9 checks that need the group: the ballot pair of a 64-lane group (R144), the BCAST lane
(R163), the position and registers of PACK and UNPACK (R185), the slots and fragments of MMA and
DMMA (R278, R279), the registers of AWR and ARD (R280). The answer is the failing order. -/
def groupCheck (op : Nat) (cx : DecodeCtx) (w : ExtArgs) : Option Nat :=
  let sl := slotAt cx.slots w.fs
  let bits := elemBits sl.elem
  match op with
  | 0x31 => if w.sub = 0 ∧ cx.width = 64 ∧ w.d.toNat % 2 = 1 then some 8 else none
  | 0x87 => if cx.width ≤ w.b.toNat then some 9 else none
  | 0x83 =>
    match packPosMax bits with
    | none => some 9
    | some m => if m < w.aux.toNat ∨ cx.nregs < w.d.toNat + packRegs bits then some 9 else none
  | 0x84 =>
    match packPosMax bits with
    | none => some 9
    | some m =>
      if m < w.aux.toNat ∨ cx.nregs < w.a.toNat + packRegs bits ∨ cx.nregs < w.d.toNat + 2 then some 9
      else none
  | 0xC0 | 0xC1 =>
    let eb := (slotAt cx.slots (w.aux.extractLsb' 0 3)).elem
    match elemK sl.elem, elemK eb with
    | some ka, some kb =>
      let fa := fragSize cx.width sl.elem (w.sub.getLsbD 0)
      let fb := fragSize cx.width eb (w.sub.getLsbD 1)
      let fx := fragSize cx.width eb false
      if ka ≠ kb then some 9
      else if ka = 128 ∧ w.s.toNat % 2 = 1 then some 9
      else if op = 0xC1 ∧ ka ≠ 64 then some 9
      else if cx.nregs < w.a.toNat + fa ∨ cx.nregs < w.b.toNat + fb then some 9
      else if op = 0xC1 ∧ cx.nregs < w.b.toNat + fb + fx then some 9
      else none
    | _, _ => some 9
  | 0xC4 => if cx.nregs < w.d.toNat + 16 then some 9 else none
  | 0xC5 => if cx.nregs < w.a.toNat + 16 then some 9 else none
  | _ => none

/-- R92, R236: FENCE's scope and kind; in the extended form they stand in D[4:0] and every other bit of D, A and B is zero: one that is not
is order 9, not 8. DESIGN CHOICE (log 59). -/
def fenceCheck (w : ExtArgs) : Option Nat :=
  if w.d.extractLsb' 0 3 = 7 ∨ w.d.extractLsb' 3 2 = 3 then some 8
  else if w.d.extractLsb' 5 6 ≠ 0 ∨ w.a ≠ 0 ∨ w.b ≠ 0 then some 9
  else none

/-- The decode checks of R93, orders 3 (the literal) to 9, on an instruction of class 001 to 111 in its uniform form;
the answer is the order of the first check that fails. Checks that depend on the group are made
where a group is given (R94). -/
def opCheck (op : Nat) (isExt : Bool) (cx : Option DecodeCtx) (w : ExtArgs) : Option Nat :=
  match opRow op with
  | none => some 1
  | some r =>
    let n := cx.map (·.nregs)
    if (w.lit.isSome ∧ r.lit = .no) ∨ (w.lit.isNone ∧ r.lit = .required) then some 3
    else if ¬ r.subOk w then some 4
    else if isExt ∧ ¬ wordTwoOk r w then some 5
    else if ¬ r.guard ∧ (w.g ≠ 7 ∨ w.gn) then some 6
    else if ¬ positionsOk r w then some 7
    else if ¬ operandsOk r isExt n w then some 8
    else if op = 0xC1 ∧ ¬ isExt ∧ w.d.toNat % 2 = 1 then some 8
    else if op = 0xA9 then fenceCheck w
    else
      match cx.bind fun c => groupCheck op c w with
      | some 8 => some 8
      | g => if (isExt ∨ op ≠ 0xC1) ∧ ¬ r.immOk w then some 9 else g

end Sys2Proof
end

