-- ==== Sys2Proof/Machine/Parts.lean ====
section
/-! DEFINITION. What an instruction is made of: its opcode and operand fields (Instr.parts), and the decode
checks of R93, orders 4 to 9, on it (instrCheck). -/

namespace Sys2Proof

/-- The parts of a group instruction's words, of a link sequencer word, or none for an event row. -/
inductive Parts where
  | base (op : Nat) (w : BaseArgs) (lit : Option DWord)
  | ext (op : Nat) (w : ExtArgs)
  | raw (op : Nat) (y : Bool) (bits : BitVec 21) (lit : Option DWord)
  | seq (w : DWord)
  | event
  deriving DecidableEq, Repr

/-- A sequencer word from its fields (R304): SOP, D, A, B and bits [63:16]. -/
def seqWord (sop d a b : BitVec 4) (hi : BitVec 48) : DWord := hi ++ (b ++ a ++ d ++ sop : BitVec 16)

/-- The opcode, form and fields of each instruction. -/
def Instr.parts (i : Instr) : Parts :=
  match i with
  | .nop y => .raw 0x00 y (0) none
  | .bra y off => .raw 0x01 y (off) none
  | .braL y tgt => .raw 0x01 y (0) (some tgt)
  | .bc y i inv j off => .raw 0x02 y (off ++ j ++ BitVec.ofBool inv ++ i) none
  | .bcL y i inv j tgt => .raw 0x02 y ((0 : BitVec 14) ++ j ++ BitVec.ofBool inv ++ i) (some tgt)
  | .bcu y i inv off => .raw 0x03 y (off ++ (0 : BitVec 3) ++ BitVec.ofBool inv ++ i) none
  | .bcuL y i inv tgt => .raw 0x03 y ((0 : BitVec 14) ++ (0 : BitVec 3) ++ BitVec.ofBool inv ++ i) (some tgt)
  | .jmpi y a => .raw 0x04 y ((0 : BitVec 7) ++ a ++ (0 : BitVec 7)) none
  | .call y n off => .raw 0x05 y (off ++ n) none
  | .callL y n tgt => .raw 0x05 y ((0 : BitVec 13) ++ n) (some tgt)
  | .calli y n a => .raw 0x06 y ((0 : BitVec 6) ++ a ++ n) none
  | .ret y => .raw 0x07 y (0) none
  | .regang y j => .raw 0x08 y ((0 : BitVec 18) ++ j) none
  | .splitq y d => .raw 0x09 y ((0 : BitVec 14) ++ d) none
  | .loop y a off => .raw 0x0A y (off ++ a) none
  | .loopi y count off => .raw 0x0B y (off ++ count) none
  | .leave y => .raw 0x0C y (0) none
  | .exit y => .raw 0x0D y (0) none
  | .yield y deadline n => .raw 0x0E y (n ++ deadline) none
  | .trap y code => .raw 0x0F y ((0 : BitVec 13) ++ code) none
  | .brk y code => .raw 0x10 y ((0 : BitVec 13) ++ code) none
  | .sli y d imm => .raw 0x20 y (imm ++ d) none
  | .sliL y d lit => .raw 0x20 y ((0 : BitVec 14) ++ d) (some lit)
  | .smov w => .base 0x21 w none
  | .smovX w => .ext 0x21 w
  | .sadd w => .base 0x22 w none
  | .saddX w => .ext 0x22 w
  | .saddL w lit => .base 0x22 w (some lit)
  | .ssub w => .base 0x23 w none
  | .ssubX w => .ext 0x23 w
  | .ssubL w lit => .base 0x23 w (some lit)
  | .smul w => .base 0x24 w none
  | .smulX w => .ext 0x24 w
  | .smulL w lit => .base 0x24 w (some lit)
  | .smulh w => .base 0x25 w none
  | .smulhX w => .ext 0x25 w
  | .smulhL w lit => .base 0x25 w (some lit)
  | .sand w => .base 0x26 w none
  | .sandX w => .ext 0x26 w
  | .sandL w lit => .base 0x26 w (some lit)
  | .sor w => .base 0x27 w none
  | .sorX w => .ext 0x27 w
  | .sorL w lit => .base 0x27 w (some lit)
  | .sxor w => .base 0x28 w none
  | .sxorX w => .ext 0x28 w
  | .sxorL w lit => .base 0x28 w (some lit)
  | .sshl w => .base 0x29 w none
  | .sshlX w => .ext 0x29 w
  | .sshlL w lit => .base 0x29 w (some lit)
  | .sshr w => .base 0x2A w none
  | .sshrX w => .ext 0x2A w
  | .sshrL w lit => .base 0x2A w (some lit)
  | .ssra w => .base 0x2B w none
  | .ssraX w => .ext 0x2B w
  | .ssraL w lit => .base 0x2B w (some lit)
  | .smin w => .base 0x2C w none
  | .sminX w => .ext 0x2C w
  | .sminL w lit => .base 0x2C w (some lit)
  | .smax w => .base 0x2D w none
  | .smaxX w => .ext 0x2D w
  | .smaxL w lit => .base 0x2D w (some lit)
  | .ssel w => .base 0x2E w none
  | .sselX w => .ext 0x2E w
  | .sselL w lit => .base 0x2E w (some lit)
  | .spopc w => .base 0x2F w none
  | .spopcX w => .ext 0x2F w
  | .scmp w => .base 0x30 w none
  | .scmpX w => .ext 0x30 w
  | .scmpL w lit => .base 0x30 w (some lit)
  | .vote w => .base 0x31 w none
  | .voteX w => .ext 0x31 w
  | .cand w => .base 0x32 w none
  | .candX w => .ext 0x32 w
  | .cor w => .base 0x33 w none
  | .corX w => .ext 0x33 w
  | .cxor w => .base 0x34 w none
  | .cxorX w => .ext 0x34 w
  | .setc w => .base 0x35 w none
  | .setcX w => .ext 0x35 w
  | .iadd w => .base 0x40 w none
  | .iaddX w => .ext 0x40 w
  | .iaddL w lit => .base 0x40 w (some lit)
  | .isub w => .base 0x41 w none
  | .isubX w => .ext 0x41 w
  | .isubL w lit => .base 0x41 w (some lit)
  | .imul w => .base 0x42 w none
  | .imulX w => .ext 0x42 w
  | .imulL w lit => .base 0x42 w (some lit)
  | .imulh w => .base 0x43 w none
  | .imulhX w => .ext 0x43 w
  | .imulhL w lit => .base 0x43 w (some lit)
  | .imin w => .base 0x44 w none
  | .iminX w => .ext 0x44 w
  | .iminL w lit => .base 0x44 w (some lit)
  | .imax w => .base 0x45 w none
  | .imaxX w => .ext 0x45 w
  | .imaxL w lit => .base 0x45 w (some lit)
  | .and w => .base 0x46 w none
  | .andX w => .ext 0x46 w
  | .andL w lit => .base 0x46 w (some lit)
  | .or w => .base 0x47 w none
  | .orX w => .ext 0x47 w
  | .orL w lit => .base 0x47 w (some lit)
  | .xor w => .base 0x48 w none
  | .xorX w => .ext 0x48 w
  | .xorL w lit => .base 0x48 w (some lit)
  | .shl w => .base 0x49 w none
  | .shlX w => .ext 0x49 w
  | .shlL w lit => .base 0x49 w (some lit)
  | .shr w => .base 0x4A w none
  | .shrX w => .ext 0x4A w
  | .shrL w lit => .base 0x4A w (some lit)
  | .sra w => .base 0x4B w none
  | .sraX w => .ext 0x4B w
  | .sraL w lit => .base 0x4B w (some lit)
  | .imad w => .base 0x4C w none
  | .imadX w => .ext 0x4C w
  | .imadL w lit => .base 0x4C w (some lit)
  | .imadw w => .base 0x4D w none
  | .imadwX w => .ext 0x4D w
  | .imadwL w lit => .base 0x4D w (some lit)
  | .iabs w => .base 0x4E w none
  | .iabsX w => .ext 0x4E w
  | .ineg w => .base 0x4F w none
  | .inegX w => .ext 0x4F w
  | .not w => .base 0x50 w none
  | .notX w => .ext 0x50 w
  | .popc w => .base 0x51 w none
  | .popcX w => .ext 0x51 w
  | .clz w => .base 0x52 w none
  | .clzX w => .ext 0x52 w
  | .brev w => .base 0x53 w none
  | .brevX w => .ext 0x53 w
  | .mov w => .base 0x54 w none
  | .movX w => .ext 0x54 w
  | .movi y d imm => .raw 0x55 y (imm ++ d) none
  | .moviX w => .ext 0x55 w
  | .moviL y d lit => .raw 0x55 y ((0 : BitVec 14) ++ d) (some lit)
  | .bfe w => .base 0x56 w none
  | .bfeX w => .ext 0x56 w
  | .bfeL w lit => .base 0x56 w (some lit)
  | .bfi w => .base 0x57 w none
  | .bfiX w => .ext 0x57 w
  | .bfiL w lit => .base 0x57 w (some lit)
  | .icmpp w => .base 0x58 w none
  | .icmppX w => .ext 0x58 w
  | .icmppL w lit => .base 0x58 w (some lit)
  | .sel w => .base 0x59 w none
  | .selX w => .ext 0x59 w
  | .selL w lit => .base 0x59 w (some lit)
  | .pset w => .base 0x5A w none
  | .psetX w => .ext 0x5A w
  | .fadd w => .base 0x60 w none
  | .faddX w => .ext 0x60 w
  | .faddL w lit => .base 0x60 w (some lit)
  | .fsub w => .base 0x61 w none
  | .fsubX w => .ext 0x61 w
  | .fsubL w lit => .base 0x61 w (some lit)
  | .fmul w => .base 0x62 w none
  | .fmulX w => .ext 0x62 w
  | .fmulL w lit => .base 0x62 w (some lit)
  | .fmin w => .base 0x63 w none
  | .fminX w => .ext 0x63 w
  | .fminL w lit => .base 0x63 w (some lit)
  | .fmax w => .base 0x64 w none
  | .fmaxX w => .ext 0x64 w
  | .fmaxL w lit => .base 0x64 w (some lit)
  | .fmaxa w => .base 0x65 w none
  | .fmaxaX w => .ext 0x65 w
  | .fmaxaL w lit => .base 0x65 w (some lit)
  | .ffma w => .base 0x66 w none
  | .ffmaX w => .ext 0x66 w
  | .ffmaL w lit => .base 0x66 w (some lit)
  | .frcp w => .base 0x67 w none
  | .frcpX w => .ext 0x67 w
  | .frsq w => .base 0x68 w none
  | .frsqX w => .ext 0x68 w
  | .fsqrt w => .base 0x69 w none
  | .fsqrtX w => .ext 0x69 w
  | .fexp2 w => .base 0x6A w none
  | .fexp2X w => .ext 0x6A w
  | .flog2 w => .base 0x6B w none
  | .flog2X w => .ext 0x6B w
  | .fcmpp w => .base 0x6C w none
  | .fcmppX w => .ext 0x6C w
  | .fcmppL w lit => .base 0x6C w (some lit)
  | .fclass w => .base 0x6D w none
  | .fclassX w => .ext 0x6D w
  | .fscale w => .base 0x6E w none
  | .fscaleX w => .ext 0x6E w
  | .fscaleL w lit => .base 0x6E w (some lit)
  | .hadd2 w => .base 0x6F w none
  | .hadd2X w => .ext 0x6F w
  | .hadd2L w lit => .base 0x6F w (some lit)
  | .hmul2 w => .base 0x70 w none
  | .hmul2X w => .ext 0x70 w
  | .hmul2L w lit => .base 0x70 w (some lit)
  | .hfma2 w => .base 0x71 w none
  | .hfma2X w => .ext 0x71 w
  | .hfma2L w lit => .base 0x71 w (some lit)
  | .fdot4 w => .base 0x72 w none
  | .fdot4X w => .ext 0x72 w
  | .cvt w => .base 0x80 w none
  | .cvtX w => .ext 0x80 w
  | .cvtf w => .base 0x81 w none
  | .cvtfX w => .ext 0x81 w
  | .cvti w => .base 0x82 w none
  | .cvtiX w => .ext 0x82 w
  | .pack w => .base 0x83 w none
  | .packX w => .ext 0x83 w
  | .unpack w => .base 0x84 w none
  | .unpackX w => .ext 0x84 w
  | .qscale w => .base 0x85 w none
  | .qscaleX w => .ext 0x85 w
  | .shfl w => .base 0x86 w none
  | .shflX w => .ext 0x86 w
  | .shflL w lit => .base 0x86 w (some lit)
  | .bcast w => .base 0x87 w none
  | .bcastX w => .ext 0x87 w
  | .lred w => .base 0x88 w none
  | .lredX w => .ext 0x88 w
  | .lscan w => .base 0x89 w none
  | .lscanX w => .ext 0x89 w
  | .elect w => .base 0x8A w none
  | .electX w => .ext 0x8A w
  | .rndx w => .base 0x8B w none
  | .rndxX w => .ext 0x8B w
  | .ld w => .base 0xA0 w none
  | .ldX w => .ext 0xA0 w
  | .ldL w lit => .base 0xA0 w (some lit)
  | .st w => .base 0xA1 w none
  | .stX w => .ext 0xA1 w
  | .stL w lit => .base 0xA1 w (some lit)
  | .ldl w => .base 0xA2 w none
  | .ldlX w => .ext 0xA2 w
  | .ldlL w lit => .base 0xA2 w (some lit)
  | .stl w => .base 0xA3 w none
  | .stlX w => .ext 0xA3 w
  | .stlL w lit => .base 0xA3 w (some lit)
  | .sld w => .base 0xA4 w none
  | .sldX w => .ext 0xA4 w
  | .sldL w lit => .base 0xA4 w (some lit)
  | .sst w => .base 0xA5 w none
  | .sstX w => .ext 0xA5 w
  | .sstL w lit => .base 0xA5 w (some lit)
  | .atom w => .base 0xA6 w none
  | .atomX w => .ext 0xA6 w
  | .atomL w lit => .base 0xA6 w (some lit)
  | .atoml w => .base 0xA7 w none
  | .atomlX w => .ext 0xA7 w
  | .atomlL w lit => .base 0xA7 w (some lit)
  | .red w => .base 0xA8 w none
  | .redX w => .ext 0xA8 w
  | .redL w lit => .base 0xA8 w (some lit)
  | .fence y scope kind => .raw 0xA9 y ((0 : BitVec 16) ++ kind ++ scope) none
  | .fenceX w => .ext 0xA9 w
  | .tagq w => .base 0xAA w none
  | .tagqX w => .ext 0xAA w
  | .tagset w => .base 0xAB w none
  | .tagsetX w => .ext 0xAB w
  | .tagclr w => .base 0xAC w none
  | .tagclrX w => .ext 0xAC w
  | .pref w => .base 0xAD w none
  | .prefX w => .ext 0xAD w
  | .prefL w lit => .base 0xAD w (some lit)
  | .cctl w => .base 0xAE w none
  | .cctlX w => .ext 0xAE w
  | .cctlL w lit => .base 0xAE w (some lit)
  | .puti w lit => .base 0xAF w (some lit)
  | .putiX w => .ext 0xAF w
  | .mma w => .base 0xC0 w none
  | .mmaX w => .ext 0xC0 w
  | .dmma w => .base 0xC1 w none
  | .dmmaX w => .ext 0xC1 w
  | .azero w => .base 0xC2 w none
  | .azeroX w => .ext 0xC2 w
  | .arel w => .base 0xC3 w none
  | .arelX w => .ext 0xC3 w
  | .ard w => .base 0xC4 w none
  | .ardX w => .ext 0xC4 w
  | .ardL w lit => .base 0xC4 w (some lit)
  | .awr w => .base 0xC5 w none
  | .awrX w => .ext 0xC5 w
  | .awrL w lit => .base 0xC5 w (some lit)
  | .adrain w => .base 0xC6 w none
  | .adrainX w => .ext 0xC6 w
  | .mfence w => .base 0xC7 w none
  | .mfenceX w => .ext 0xC7 w
  | .mwait w => .base 0xC8 w none
  | .mwaitX w => .ext 0xC8 w
  | .mwaitL w lit => .base 0xC8 w (some lit)
  | .bcopy w => .base 0xC9 w none
  | .bcopyX w => .ext 0xC9 w
  | .bcopym w => .base 0xCA w none
  | .bcopymX w => .ext 0xCA w
  | .qfence w => .base 0xCB w none
  | .qfenceX w => .ext 0xCB w
  | .route w => .base 0xCC w none
  | .routeX w => .ext 0xCC w
  | .coll w => .base 0xCD w none
  | .collX w => .ext 0xCD w
  | .seqgo w => .base 0xCE w none
  | .seqgoX w => .ext 0xCE w
  | .srec w => .base 0xCF w none
  | .srecX w => .ext 0xCF w
  | .srecL w lit => .base 0xCF w (some lit)
  | .binit w => .base 0xD0 w none
  | .binitX w => .ext 0xD0 w
  | .binitL w lit => .base 0xD0 w (some lit)
  | .barv w => .base 0xD1 w none
  | .barvX w => .ext 0xD1 w
  | .barvL w lit => .base 0xD1 w (some lit)
  | .barvx w => .base 0xD2 w none
  | .barvxX w => .ext 0xD2 w
  | .barvxL w lit => .base 0xD2 w (some lit)
  | .bwait w => .base 0xD3 w none
  | .bwaitX w => .ext 0xD3 w
  | .btest w => .base 0xD4 w none
  | .btestX w => .ext 0xD4 w
  | .waitv w => .base 0xD5 w none
  | .waitvX w => .ext 0xD5 w
  | .waitvL w lit => .base 0xD5 w (some lit)
  | .tsrd w => .base 0xD6 w none
  | .tsrdX w => .ext 0xD6 w
  | .cntrd w => .base 0xD7 w none
  | .cntrdX w => .ext 0xD7 w
  | .get w => .base 0xE0 w none
  | .getX w => .ext 0xE0 w
  | .put w => .base 0xE1 w none
  | .putX w => .ext 0xE1 w
  | .sysget w => .base 0xE2 w none
  | .sysgetX w => .ext 0xE2 w
  | .sysgetL w lit => .base 0xE2 w (some lit)
  | .sysput w => .base 0xE3 w none
  | .sysputX w => .ext 0xE3 w
  | .sysputL w lit => .base 0xE3 w (some lit)
  | .launch w => .base 0xE4 w none
  | .cwait w => .base 0xE5 w none
  | .rte y => .raw 0xE6 y (0) none
  | .mapp w => .base 0xE7 w none
  | .tlbi w => .base 0xE8 w none
  | .wspill w => .base 0xE9 w none
  | .wfill w => .base 0xEA w none
  | .dspill w => .base 0xEB w none
  | .halt y => .raw 0xEC y (0) none
  | .snop => .seq (seqWord 0 0 0 0 0)
  | .txc a b len lnk tag => .seq (seqWord 1 0 a b (tag ++ (0 : BitVec 15) ++ lnk ++ len))
  | .rxs d b len tag => .seq (seqWord 2 d 0 b (tag ++ (0 : BitVec 20) ++ len))
  | .rxc d a b len cmb tag => .seq (seqWord 3 d a b (tag ++ (0 : BitVec 12) ++ cmb ++ (0 : BitVec 5) ++ len))
  | .rxcf d a b len lnk cmb sto tag => .seq (seqWord 4 d a b (tag ++ (0 : BitVec 11) ++ BitVec.ofBool sto ++ cmb ++ lnk ++ len))
  | .wflg a b timeout => .seq (seqWord 5 0 a b (timeout ++ (0 : BitVec 16)))
  | .sflg a b mode imm => .seq (seqWord 6 0 a b (imm ++ (0 : BitVec 14) ++ mode))
  | .loopk d target => .seq (seqWord 7 d 0 0 ((0 : BitVec 37) ++ target))
  | .jmpk a target cond => .seq (seqWord 8 0 a 0 ((0 : BitVec 34) ++ cond ++ (0 : BitVec 1) ++ target))
  | .setk d a mode imm => .seq (seqWord 9 d a 0 (imm ++ (0 : BitVec 14) ++ mode))
  | .addk d a b mode imm => .seq (seqWord 10 d a b (imm ++ (0 : BitVec 14) ++ mode))
  | .cvtb d a b len dir => .seq (seqWord 11 d a b ((0 : BitVec 30) ++ BitVec.ofBool dir ++ (0 : BitVec 5) ++ len))
  | .sred d a b len lnk => .seq (seqWord 12 d a b ((0 : BitVec 31) ++ lnk ++ len))
  | .putk d a b => .seq (seqWord 13 d a b 0)
  | .loga a b mode => .seq (seqWord 14 0 a b ((0 : BitVec 46) ++ mode))
  | .seqend => .seq (seqWord 15 0 0 0 0)
  | .deviceReset => .event
  | .bootImageCheck .. => .event
  | .attestationRequest .. => .event
  | .doorbell .. => .event
  | .ringEnable .. => .event
  | .ringRestart .. => .event
  | .cmdLaunch .. => .event
  | .cmdCopy .. => .event
  | .cmdSequencerStart .. => .event
  | .cmdWait .. => .event
  | .cmdWaitTimeout .. => .event
  | .cmdSignal .. => .event
  | .cmdFence .. => .event
  | .mgmtRegisterWrite .. => .event
  | .lapprove .. => .event
  | .preqRaise .. => .event
  | .preqWithdraw .. => .event
  | .fwLoad .. => .event
  | .fwHandOver .. => .event
  | .fwAbandon => .event
  | .fwAlive .. => .event
  | .aliveDeadlineExpiry .. => .event
  | .islandStep .. => .event
  | .islandGate .. => .event
  | .groupStep .. => .event
  | .streamStep .. => .event
  | .debugResume .. => .event
  | .seqHalt .. => .event
  | .seqStep .. => .event
  | .dispatchTeam .. => .event
  | .dispatcherPreempt .. => .event
  | .teamTaken .. => .event
  | .swapOut .. => .event
  | .teamResume .. => .event
  | .resultWriteback .. => .event
  | .yieldOverrun .. => .event
  | .gridRetire .. => .event
  | .engineFaultDelivery .. => .event
  | .hostPageAnswer .. => .event
  | .hostFaultAnswer .. => .event
  | .matrixFifoHead .. => .event
  | .accumulatorStarvation .. => .event
  | .batchRetire .. => .event
  | .adrainHandOver .. => .event
  | .bargeDrain .. => .event
  | .abortedDrain .. => .event
  | .bcopyPerform .. => .event
  | .bcopymPerform .. => .event
  | .routePerform .. => .event
  | .collPerform .. => .event
  | .waitWake .. => .event
  | .waitvRecheck .. => .event
  | .waitTimeout .. => .event
  | .readShared .. => .event
  | .readOwn .. => .event
  | .upgrade .. => .event
  | .writeBack .. => .event
  | .cleanEvict .. => .event
  | .atomicAtHome .. => .event
  | .fwdShared .. => .event
  | .fwdOwn .. => .event
  | .invalidate .. => .event
  | .backInvalidate .. => .event
  | .dataResponse .. => .event
  | .ack .. => .event
  | .retry .. => .event
  | .snoopResponse .. => .event
  | .l2Eviction .. => .event
  | .shadowNote .. => .event
  | .track .. => .event
  | .untrack .. => .event
  | .regionSweep .. => .event
  | .requestReissue .. => .event
  | .switchFailure .. => .event
  | .recoveryWindowEnd => .event
  | .invalidateResend .. => .event
  | .hostSnoop .. => .event
  | .bisnpResponse .. => .event
  | .hostMemoryAccess .. => .event
  | .flitReceive .. => .event
  | .linkDown .. => .event
  | .readyMessage .. => .event
  | .readyRetry .. => .event
  | .chunkMessage .. => .event
  | .nackMessage .. => .event
  | .rendezvousTimeout .. => .event
  | .sredResult .. => .event
  | .putMessage .. => .event
  | .notifyAppend .. => .event
  | .putAck .. => .event
  | .creditReturn .. => .event
  | .markEcho .. => .event
  | .rateRecovery .. => .event
  | .collectiveLaunchMessage .. => .event
  | .collectiveCommit .. => .event
  | .collectiveCancel .. => .event
  | .abortMessage .. => .event
  | .chunkComplete .. => .event
  | .contextRunLimit .. => .event
  | .wflgTimeout .. => .event
  | .seqPageResolved .. => .event
  | .collectiveEnd .. => .event
  | .replay .. => .event
  | .pairCompare .. => .event
  | .pairTimeout .. => .event
  | .uncorrectableError .. => .event
  | .correctedError .. => .event
  | .rowSpare .. => .event
  | .powerLimit .. => .event
  | .dtimeSync .. => .event
  | .linkUp .. => .event
  | .domainBringUp .. => .event
  | .wflgRecheck .. => .event
  | .cmdWaitSatisfied .. => .event
  | .refusedByTarget .. => .event
  | .combineReplayTimeout .. => .event

/-- slide(n) (R126). -/
def slideOf (n : Nat) : Nat := if n = 0 then 2048 else 8 * n

/-- A slide above the group's window is illegal (R126). -/
def slideCheck (cx : Option DecodeCtx) (n : BitVec 8) : Option Nat :=
  match cx with
  | some c => if c.nregs < slideOf n.toNat then some 9 else none
  | none => none

/-- Operand checks of the words laid out field by field (R85, R86, R236, R386), by order of R93. -/
def rawCheck (cx : Option DecodeCtx) (i : Instr) : Option Nat :=
  match i with
  | .jmpi _ a => if kindOk .se none a.toNat then none else some 8
  | .calli _ n a => if kindOk .se none a.toNat then slideCheck cx n else some 8
  | .call _ n _ | .callL _ n _ => slideCheck cx n
  | .splitq _ d | .sli _ d _ | .sliL _ d _ => if kindOk .s none d.toNat then none else some 8
  | .loop _ a off =>
    if ¬ kindOk .s none a.toNat then some 8 else if off.toInt < 1 then some 9 else none
  | .loopi _ _ off => if off = 0 then some 9 else none
  | .yield _ _ n => if 256 < n.toNat then some 9 else none
  | .movi _ d _ | .moviL _ d _ => if kindOk .v (cx.map (·.nregs)) d.toNat then none else some 8
  | .fence _ scope kind => if scope = 7 ∨ kind = 3 then some 8 else none
  | _ => none

/-- R304: a reserved MODE, COND or CMB value, or a LNK above 23, makes a sequencer word illegal. -/
def seqCheck (i : Instr) : Bool :=
  match i with
  | .txc _ _ _ lnk _ | .sred _ _ _ _ lnk => decide (lnk.toNat ≤ 23)
  | .rxc _ _ _ _ cmb _ => decide (cmb.toNat ≤ 5)
  | .rxcf _ _ _ _ lnk cmb _ _ => decide (lnk.toNat ≤ 23 ∧ cmb.toNat ≤ 5)
  | .sflg _ _ mode _ | .loga _ _ mode => decide (mode.toNat ≤ 2)
  | .jmpk _ _ cond => decide (cond.toNat ≤ 2)
  | _ => true

/-- The decode checks of R93, orders 4 to 9: the order of the first that fails. Checks that depend on the
group's width, window or slots are made where cx gives them (R94). -/
def instrCheck (cx : Option DecodeCtx) (i : Instr) : Option Nat :=
  match i.parts with
  | .base op w lit => opCheck op false cx (w.ext lit)
  | .ext op w => opCheck op true cx w
  | .raw .. => rawCheck cx i
  | .seq _ => if seqCheck i then none else some 4
  | .event => none

/-- The length in bytes of a group instruction (R71); a sequencer word has 8 (R304). -/
def Instr.len (i : Instr) : Nat :=
  match i.parts with
  | .base _ _ none => 4
  | .base _ _ (some _) => 12
  | .ext _ w => if w.lit.isSome then 20 else 12
  | .raw _ _ _ none => 4
  | .raw _ _ _ (some _) => 12
  | .seq _ => 8
  | .event => 0

/-- The class of a group instruction: OP[7:5] (R71). -/
def Instr.cls (i : Instr) : Option Nat :=
  match i.parts with
  | .base op _ _ | .ext op _ | .raw op _ _ _ => some (op / 32)
  | _ => none

end Sys2Proof
end

