-- ==== Sys2Proof/WellFormed.lean ====
section
/-! DEFINITION. Well-formed instructions: the words of R71 to R93 (orders 3 to 9, without the checks that depend on
the issuing group) and R304 admit them. -/

namespace Sys2Proof

/-- A well-formed instruction. -/
def Instr.wellFormed (i : Instr) : Bool := decide (instrCheck none i = none)

end Sys2Proof
end

