-- ==== Sys2Proof/Decode.lean ====
section
/-! DEFINITION. The decoder: the words at the program counter to an instruction (R71 to R93), the sequencer's decoder
(R304), and the encoders written from the same tables. Orders 1 to 3 of R93, and the zero bits and literal positions
of words laid out field by field, are checked here; the other orders by instrCheck. -/

namespace Sys2Proof

/-- What the decoder answers: an instruction, or the order of R93 of the check that failed. -/
inductive Decoded where
  | ok (i : Instr)
  | reject (order : Nat)
  deriving DecidableEq, Repr

/-- The opcode of word 0 (R71). -/
def wordOp (w : Word) : Nat := (w.extractLsb' 3 8).toNat

/-- LEN of word 0 (R71). -/
def wordLen (w : Word) : Nat := (w.extractLsb' 0 2).toNat

/-- The number of words of the form that LEN names (R71). -/
def lenWords (len : Nat) : Nat := match len with | 0 => 1 | 1 => 3 | 2 => 3 | _ => 5

/-- The switch marker (R71). -/
def wordY (w : Word) : Bool := w.getLsbD 2

/-- D, A and B of a base word (R73). -/
def baseFields (w : Word) : BaseArgs :=
  { y := wordY w, d := w.extractLsb' 11 7, a := w.extractLsb' 18 7, b := w.extractLsb' 25 7 }

/-- The fields of words 0 to 2 of an extended instruction (R74, R75). -/
def extFields (w0 w1 w2 : Word) (lit : Option DWord) : ExtArgs :=
  { y := wordY w0, d := w0.extractLsb' 11 11, sub := w0.extractLsb' 22 10, a := w1.extractLsb' 0 11,
    b := w1.extractLsb' 11 11, c := w2.extractLsb' 0 1 ++ w1.extractLsb' 22 10, s := w2.extractLsb' 1 7,
    sp := w2.extractLsb' 8 2, fs := w2.extractLsb' 10 3, g := w2.extractLsb' 13 3, gn := w2.getLsbD 16,
    rm := w2.extractLsb' 17 3, sat := w2.getLsbD 20, sh := w2.extractLsb' 21 3,
    aux := w2.extractLsb' 24 8, lit := lit }

/-- The words of an instruction, absent ones read as zero. -/
structure Words where
  w0 : Word
  w1 : Word
  w2 : Word
  w3 : Word
  w4 : Word
  deriving DecidableEq, Repr

/-- The first five words of a list. -/
def wordsOf (l : List Word) : Words :=
  { w0 := l.getD 0 0, w1 := l.getD 1 0, w2 := l.getD 2 0, w3 := l.getD 3 0, w4 := l.getD 4 0 }

/-- The extended fields, with the literal when LEN is 0b11 (R71). -/
def extOf (q : Words) : ExtArgs :=
  extFields q.w0 q.w1 q.w2 (if wordLen q.w0 = 3 then some (q.w4 ++ q.w3) else none)

/-- The literal of a base form (R71). -/
def litOf (q : Words) : DWord := q.w2 ++ q.w1

/-- An instruction with base, literal and extended forms. -/
def decBLX (f : BaseArgs → Instr) (g : BaseArgs → DWord → Instr) (h : ExtArgs → Instr) (q : Words) : Decoded :=
  match wordLen q.w0 with
  | 0 => .ok (f (baseFields q.w0))
  | 1 => .ok (g (baseFields q.w0) (litOf q))
  | _ => .ok (h (extOf q))

/-- An instruction without a literal (R93, order 3). -/
def decBX (f : BaseArgs → Instr) (h : ExtArgs → Instr) (q : Words) : Decoded :=
  match wordLen q.w0 with
  | 0 => .ok (f (baseFields q.w0))
  | 2 => .ok (h (extOf q))
  | _ => .reject 3

/-- An instruction with a base form alone (R93, orders 2 and 3). -/
def decB (f : BaseArgs → Instr) (q : Words) : Decoded :=
  match wordLen q.w0 with
  | 0 => .ok (f (baseFields q.w0))
  | 1 => .reject 3
  | _ => .reject 2

/-- PUTI, which exists only with a literal (R93, order 3). -/
def decLX (g : BaseArgs → DWord → Instr) (h : ExtArgs → Instr) (q : Words) : Decoded :=
  match wordLen q.w0 with
  | 1 => .ok (g (baseFields q.w0) (litOf q))
  | 3 => .ok (h (extOf q))
  | _ => .reject 3

/-- A base word laid out field by field, without extended form or literal: f reads bits [31:11]. -/
def decRaw (f : Bool → BitVec 21 → Decoded) (q : Words) : Decoded :=
  match wordLen q.w0 with
  | 0 => f (wordY q.w0) (q.w0.extractLsb' 11 21)
  | 1 => .reject 3
  | _ => .reject 2

/-- As decRaw, with a literal form g. -/
def decRawL (f : Bool → BitVec 21 → Decoded) (g : Bool → BitVec 21 → DWord → Decoded) (q : Words) : Decoded :=
  match wordLen q.w0 with
  | 0 => f (wordY q.w0) (q.w0.extractLsb' 11 21)
  | 1 => g (wordY q.w0) (q.w0.extractLsb' 11 21) (litOf q)
  | _ => .reject 2

/-- The instruction i when the bits z, which the layout marks zero, are zero; otherwise the earlier of the
operand checks of i and order 9 (R93). -/
def zeroBits (z : Bool) (i : Instr) : Decoded :=
  if z then .ok i else .reject (min ((instrCheck none i).getD 9) 9)

/-- The instruction i when the field at the literal's position is zero (R93, order 7). -/
def litZero (z : Bool) (i : Instr) : Decoded := if z then .ok i else .reject 7

/-- Bits [31:11] all zero: NOP, RET, LEAVE, EXIT, RTE, HALT. -/
def decZero (i : Bool → Instr) (q : Words) : Decoded := decRaw (fun y b => zeroBits (b == 0) (i y)) q

/-- Class 000 (R85). -/
def decodeClass0 (op : Nat) (q : Words) : Decoded :=
  match op with
  | 0x00 => decZero .nop q
  | 0x01 => decRawL (fun y b => .ok (.bra y b)) (fun y b l => litZero (b == 0) (.braL y l)) q
  | 0x02 => decRawL
      (fun y b => .ok (.bc y (b.extractLsb' 0 3) (b.getLsbD 3) (b.extractLsb' 4 3) (b.extractLsb' 7 14)))
      (fun y b l => litZero (b.extractLsb' 7 14 == 0) (.bcL y (b.extractLsb' 0 3) (b.getLsbD 3) (b.extractLsb' 4 3) l)) q
  | 0x03 => decRawL
      (fun y b => zeroBits (b.extractLsb' 4 3 == 0) (.bcu y (b.extractLsb' 0 3) (b.getLsbD 3) (b.extractLsb' 7 14)))
      (fun y b l => if b.extractLsb' 7 14 ≠ 0 then .reject 7
        else zeroBits (b.extractLsb' 4 3 == 0) (.bcuL y (b.extractLsb' 0 3) (b.getLsbD 3) l)) q
  | 0x04 => decRaw (fun y b => zeroBits (b.extractLsb' 0 7 == 0 && b.extractLsb' 14 7 == 0) (.jmpi y (b.extractLsb' 7 7))) q
  | 0x05 => decRawL (fun y b => .ok (.call y (b.extractLsb' 0 8) (b.extractLsb' 8 13)))
      (fun y b l => litZero (b.extractLsb' 8 13 == 0) (.callL y (b.extractLsb' 0 8) l)) q
  | 0x06 => decRaw (fun y b => zeroBits (b.extractLsb' 15 6 == 0) (.calli y (b.extractLsb' 0 8) (b.extractLsb' 8 7))) q
  | 0x07 => decZero .ret q
  | 0x08 => decRaw (fun y b => zeroBits (b.extractLsb' 3 18 == 0) (.regang y (b.extractLsb' 0 3))) q
  | 0x09 => decRaw (fun y b => zeroBits (b.extractLsb' 7 14 == 0) (.splitq y (b.extractLsb' 0 7))) q
  | 0x0A => decRaw (fun y b => .ok (.loop y (b.extractLsb' 0 7) (b.extractLsb' 7 14))) q
  | 0x0B => decRaw (fun y b => .ok (.loopi y (b.extractLsb' 0 12) (b.extractLsb' 12 9))) q
  | 0x0C => decZero .leave q
  | 0x0D => decZero .exit q
  | 0x0E => decRaw (fun y b => .ok (.yield y (b.extractLsb' 0 12) (b.extractLsb' 12 9))) q
  | 0x0F => decRaw (fun y b => zeroBits (b.extractLsb' 8 13 == 0) (.trap y (b.extractLsb' 0 8))) q
  | 0x10 => decRaw (fun y b => zeroBits (b.extractLsb' 8 13 == 0) (.brk y (b.extractLsb' 0 8))) q
  | _ => .reject 1

/-- Class 001 (R86). -/
def decodeClass1 (op : Nat) (q : Words) : Decoded :=
  match op with
  | 0x20 => decRawL (fun y b => .ok (.sli y (b.extractLsb' 0 7) (b.extractLsb' 7 14)))
      (fun y b l => litZero (b.extractLsb' 7 14 == 0) (.sliL y (b.extractLsb' 0 7) l)) q
  | 0x21 => decBX .smov .smovX q
  | 0x22 => decBLX .sadd .saddL .saddX q
  | 0x23 => decBLX .ssub .ssubL .ssubX q
  | 0x24 => decBLX .smul .smulL .smulX q
  | 0x25 => decBLX .smulh .smulhL .smulhX q
  | 0x26 => decBLX .sand .sandL .sandX q
  | 0x27 => decBLX .sor .sorL .sorX q
  | 0x28 => decBLX .sxor .sxorL .sxorX q
  | 0x29 => decBLX .sshl .sshlL .sshlX q
  | 0x2A => decBLX .sshr .sshrL .sshrX q
  | 0x2B => decBLX .ssra .ssraL .ssraX q
  | 0x2C => decBLX .smin .sminL .sminX q
  | 0x2D => decBLX .smax .smaxL .smaxX q
  | 0x2E => decBLX .ssel .sselL .sselX q
  | 0x2F => decBX .spopc .spopcX q
  | 0x30 => decBLX .scmp .scmpL .scmpX q
  | 0x31 => decBX .vote .voteX q
  | 0x32 => decBX .cand .candX q
  | 0x33 => decBX .cor .corX q
  | 0x34 => decBX .cxor .cxorX q
  | 0x35 => decBX .setc .setcX q
  | _ => .reject 1

/-- Class 010 (R87). -/
def decodeClass2 (op : Nat) (q : Words) : Decoded :=
  match op with
  | 0x40 => decBLX .iadd .iaddL .iaddX q
  | 0x41 => decBLX .isub .isubL .isubX q
  | 0x42 => decBLX .imul .imulL .imulX q
  | 0x43 => decBLX .imulh .imulhL .imulhX q
  | 0x44 => decBLX .imin .iminL .iminX q
  | 0x45 => decBLX .imax .imaxL .imaxX q
  | 0x46 => decBLX .and .andL .andX q
  | 0x47 => decBLX .or .orL .orX q
  | 0x48 => decBLX .xor .xorL .xorX q
  | 0x49 => decBLX .shl .shlL .shlX q
  | 0x4A => decBLX .shr .shrL .shrX q
  | 0x4B => decBLX .sra .sraL .sraX q
  | 0x4C => decBLX .imad .imadL .imadX q
  | 0x4D => decBLX .imadw .imadwL .imadwX q
  | 0x4E => decBX .iabs .iabsX q
  | 0x4F => decBX .ineg .inegX q
  | 0x50 => decBX .not .notX q
  | 0x51 => decBX .popc .popcX q
  | 0x52 => decBX .clz .clzX q
  | 0x53 => decBX .brev .brevX q
  | 0x54 => decBX .mov .movX q
  | 0x55 => (match wordLen q.w0 with
      | 0 => .ok (.movi (wordY q.w0) (q.w0.extractLsb' 11 7) (q.w0.extractLsb' 18 14))
      | 1 => litZero (q.w0.extractLsb' 18 14 == 0) (.moviL (wordY q.w0) (q.w0.extractLsb' 11 7) (litOf q))
      | _ => .ok (.moviX (extOf q)))
  | 0x56 => decBLX .bfe .bfeL .bfeX q
  | 0x57 => decBLX .bfi .bfiL .bfiX q
  | 0x58 => decBLX .icmpp .icmppL .icmppX q
  | 0x59 => decBLX .sel .selL .selX q
  | 0x5A => decBX .pset .psetX q
  | _ => .reject 1

/-- Class 011 (R88). -/
def decodeClass3 (op : Nat) (q : Words) : Decoded :=
  match op with
  | 0x60 => decBLX .fadd .faddL .faddX q
  | 0x61 => decBLX .fsub .fsubL .fsubX q
  | 0x62 => decBLX .fmul .fmulL .fmulX q
  | 0x63 => decBLX .fmin .fminL .fminX q
  | 0x64 => decBLX .fmax .fmaxL .fmaxX q
  | 0x65 => decBLX .fmaxa .fmaxaL .fmaxaX q
  | 0x66 => decBLX .ffma .ffmaL .ffmaX q
  | 0x67 => decBX .frcp .frcpX q
  | 0x68 => decBX .frsq .frsqX q
  | 0x69 => decBX .fsqrt .fsqrtX q
  | 0x6A => decBX .fexp2 .fexp2X q
  | 0x6B => decBX .flog2 .flog2X q
  | 0x6C => decBLX .fcmpp .fcmppL .fcmppX q
  | 0x6D => decBX .fclass .fclassX q
  | 0x6E => decBLX .fscale .fscaleL .fscaleX q
  | 0x6F => decBLX .hadd2 .hadd2L .hadd2X q
  | 0x70 => decBLX .hmul2 .hmul2L .hmul2X q
  | 0x71 => decBLX .hfma2 .hfma2L .hfma2X q
  | 0x72 => decBX .fdot4 .fdot4X q
  | _ => .reject 1

/-- Class 100 (R89). -/
def decodeClass4 (op : Nat) (q : Words) : Decoded :=
  match op with
  | 0x80 => decBX .cvt .cvtX q
  | 0x81 => decBX .cvtf .cvtfX q
  | 0x82 => decBX .cvti .cvtiX q
  | 0x83 => decBX .pack .packX q
  | 0x84 => decBX .unpack .unpackX q
  | 0x85 => decBX .qscale .qscaleX q
  | 0x86 => decBLX .shfl .shflL .shflX q
  | 0x87 => decBX .bcast .bcastX q
  | 0x88 => decBX .lred .lredX q
  | 0x89 => decBX .lscan .lscanX q
  | 0x8A => decBX .elect .electX q
  | 0x8B => decBX .rndx .rndxX q
  | _ => .reject 1

/-- Class 101 (R90). -/
noncomputable def decodeClass5 (op : Nat) (q : Words) : Decoded :=
  match op with
  | 0xA0 => decBLX .ld .ldL .ldX q
  | 0xA1 => decBLX .st .stL .stX q
  | 0xA2 => decBLX .ldl .ldlL .ldlX q
  | 0xA3 => decBLX .stl .stlL .stlX q
  | 0xA4 => decBLX .sld .sldL .sldX q
  | 0xA5 => decBLX .sst .sstL .sstX q
  | 0xA6 => decBLX .atom .atomL .atomX q
  | 0xA7 => decBLX .atoml .atomlL .atomlX q
  | 0xA8 => decBLX .red .redL .redX q
  | 0xA9 => (match wordLen q.w0 with
      | 0 => zeroBits (q.w0.extractLsb' 16 16 == 0)
               (.fence (wordY q.w0) (q.w0.extractLsb' 11 3) (q.w0.extractLsb' 14 2))
      | 2 => .ok (.fenceX (extOf q))
      | _ => .reject 3)
  | 0xAA => decBX .tagq .tagqX q
  | 0xAB => decBX .tagset .tagsetX q
  | 0xAC => decBX .tagclr .tagclrX q
  | 0xAD => decBLX .pref .prefL .prefX q
  | 0xAE => decBLX .cctl .cctlL .cctlX q
  | 0xAF => decLX .puti .putiX q
  | _ => .reject 1

/-- Class 110 (R91). -/
noncomputable def decodeClass6 (op : Nat) (q : Words) : Decoded :=
  match op with
  | 0xC0 => decBX .mma .mmaX q
  | 0xC1 => decBX .dmma .dmmaX q
  | 0xC2 => decBX .azero .azeroX q
  | 0xC3 => decBX .arel .arelX q
  | 0xC4 => decBLX .ard .ardL .ardX q
  | 0xC5 => decBLX .awr .awrL .awrX q
  | 0xC6 => decBX .adrain .adrainX q
  | 0xC7 => decBX .mfence .mfenceX q
  | 0xC8 => decBLX .mwait .mwaitL .mwaitX q
  | 0xC9 => decBX .bcopy .bcopyX q
  | 0xCA => decBX .bcopym .bcopymX q
  | 0xCB => decBX .qfence .qfenceX q
  | 0xCC => decBX .route .routeX q
  | 0xCD => decBX .coll .collX q
  | 0xCE => decBX .seqgo .seqgoX q
  | 0xCF => decBLX .srec .srecL .srecX q
  | 0xD0 => decBLX .binit .binitL .binitX q
  | 0xD1 => decBLX .barv .barvL .barvX q
  | 0xD2 => decBLX .barvx .barvxL .barvxX q
  | 0xD3 => decBX .bwait .bwaitX q
  | 0xD4 => decBX .btest .btestX q
  | 0xD5 => decBLX .waitv .waitvL .waitvX q
  | 0xD6 => decBX .tsrd .tsrdX q
  | 0xD7 => decBX .cntrd .cntrdX q
  | _ => .reject 1

/-- Class 111 (R92). -/
noncomputable def decodeClass7 (op : Nat) (q : Words) : Decoded :=
  match op with
  | 0xE0 => decBX .get .getX q
  | 0xE1 => decBX .put .putX q
  | 0xE2 => decBLX .sysget .sysgetL .sysgetX q
  | 0xE3 => decBLX .sysput .sysputL .sysputX q
  | 0xE4 => decB .launch q
  | 0xE5 => decB .cwait q
  | 0xE6 => decZero .rte q
  | 0xE7 => decB .mapp q
  | 0xE8 => decB .tlbi q
  | 0xE9 => decB .wspill q
  | 0xEA => decB .wfill q
  | 0xEB => decB .dspill q
  | 0xEC => decZero .halt q
  | _ => .reject 1

/-- Decode the words at the program counter (R71 to R93): every word gives an instruction or a reject. -/
noncomputable def decodeWords (q : Words) : Decoded :=
  let op := wordOp q.w0
  match op / 32 with
  | 0 => decodeClass0 op q
  | 1 => decodeClass1 op q
  | 2 => decodeClass2 op q
  | 3 => decodeClass3 op q
  | 4 => decodeClass4 op q
  | 5 => decodeClass5 op q
  | 6 => decodeClass6 op q
  | _ => decodeClass7 op q

/-- Decode a list of words; missing words read as zero. -/
noncomputable def decode (l : List Word) : Decoded := decodeWords (wordsOf l)

/-- The LEN values that the opcodes of classes 101 to 111 have (R71, R90 to R92). -/
def lensOf (op : Nat) : List Nat :=
  match op with
  | 0xA0 | 0xA1 | 0xA2 | 0xA3 | 0xA4 | 0xA5 | 0xA6 | 0xA7 | 0xA8 | 0xAD | 0xAE | 0xC4 | 0xC5 | 0xC8
  | 0xCF | 0xD0 | 0xD1 | 0xD2 | 0xD5 | 0xE2 | 0xE3 => [0, 1, 2, 3]
  | 0xA9 | 0xAA | 0xAB | 0xAC | 0xC0 | 0xC1 | 0xC2 | 0xC3 | 0xC6 | 0xC7 | 0xC9 | 0xCA | 0xCB | 0xCC
  | 0xCD | 0xCE | 0xD3 | 0xD4 | 0xD6 | 0xD7 | 0xE0 | 0xE1 => [0, 2]
  | 0xAF => [1, 3]
  | 0xE4 | 0xE5 | 0xE6 | 0xE7 | 0xE8 | 0xE9 | 0xEA | 0xEB | 0xEC => [0]
  | _ => []

/-- Whether the decode checks of R93 and R94 pass for a group: as decodeWords and instrCheck have it, with no instruction built for
classes 101 to 111. -/
def passes (cx : DecodeCtx) (q : Words) : Bool :=
  let op := wordOp q.w0
  let len := wordLen q.w0
  let ok (r : Decoded) : Bool := match r with
    | .ok i => (instrCheck (some cx) i).isNone
    | .reject _ => false
  match op / 32 with
  | 0 => ok (decodeClass0 op q)
  | 1 => ok (decodeClass1 op q)
  | 2 => ok (decodeClass2 op q)
  | 3 => ok (decodeClass3 op q)
  | 4 => ok (decodeClass4 op q)
  | _ =>
    (lensOf op).contains len &&
      if len = 0 ∧ op = 0xA9 then
        q.w0.extractLsb' 16 16 == 0 && q.w0.extractLsb' 11 3 != 7 && q.w0.extractLsb' 14 2 != 3
      else if op = 0xE6 ∨ op = 0xEC then q.w0.extractLsb' 11 21 == 0
      else if len = 0 then (opCheck op false (some cx) ((baseFields q.w0).ext none)).isNone
      else if len = 1 then (opCheck op false (some cx) ((baseFields q.w0).ext (some (litOf q)))).isNone
      else (opCheck op true (some cx) (extOf q)).isNone

/-- A sequencer word when its zero fields are zero (R304). -/
def seqDec (z : Bool) (i : Instr) : Option Instr := if z then some i else none

/-- Decode a link sequencer word (R304); none for an illegal one. -/
noncomputable def decodeSeq (w : DWord) : Option Instr :=
  let d := w.extractLsb' 4 4
  let a := w.extractLsb' 8 4
  let b := w.extractLsb' 12 4
  let len := w.extractLsb' 16 12
  let lnk := w.extractLsb' 28 5
  let cmb := w.extractLsb' 33 3
  let tag := w.extractLsb' 48 16
  let mode := w.extractLsb' 16 2
  let imm := w.extractLsb' 32 32
  let tgt := w.extractLsb' 16 11
  let r := match (w.extractLsb' 0 4).toNat with
    | 0 => seqDec (w == 0) .snop
    | 1 => seqDec (d == 0 && w.extractLsb' 33 15 == 0) (.txc a b len lnk tag)
    | 2 => seqDec (a == 0 && w.extractLsb' 28 20 == 0) (.rxs d b len tag)
    | 3 => seqDec (w.extractLsb' 28 5 == 0 && w.extractLsb' 36 12 == 0) (.rxc d a b len cmb tag)
    | 4 => seqDec (w.extractLsb' 37 11 == 0) (.rxcf d a b len lnk cmb (w.getLsbD 36) tag)
    | 5 => seqDec (d == 0 && w.extractLsb' 16 16 == 0) (.wflg a b imm)
    | 6 => seqDec (d == 0 && w.extractLsb' 18 14 == 0) (.sflg a b mode imm)
    | 7 => seqDec (a == 0 && b == 0 && w.extractLsb' 27 37 == 0) (.loopk d tgt)
    | 8 => seqDec (d == 0 && b == 0 && w.extractLsb' 27 1 == 0 && w.extractLsb' 30 34 == 0)
             (.jmpk a tgt (w.extractLsb' 28 2))
    | 9 => seqDec (b == 0 && w.extractLsb' 18 14 == 0) (.setk d a mode imm)
    | 10 => seqDec (w.extractLsb' 18 14 == 0) (.addk d a b mode imm)
    | 11 => seqDec (w.extractLsb' 28 5 == 0 && w.extractLsb' 34 30 == 0) (.cvtb d a b len (w.getLsbD 33))
    | 12 => seqDec (w.extractLsb' 33 31 == 0) (.sred d a b len lnk)
    | 13 => seqDec (w.extractLsb' 16 48 == 0) (.putk d a b)
    | 14 => seqDec (d == 0 && w.extractLsb' 18 46 == 0) (.loga a b mode)
    | _ => seqDec (w.extractLsb' 4 60 == 0) .seqend
  match r with
  | some i => if seqCheck i then some i else none
  | none => none

/-! ### Encoding -/

/-- A base word (R73). -/
def packBase (len : BitVec 2) (op : Nat) (w : BaseArgs) : Word :=
  w.b ++ w.a ++ w.d ++ BitVec.ofNat 8 op ++ BitVec.ofBool w.y ++ len

/-- A word laid out field by field (R85). -/
def packRaw (len : BitVec 2) (op : Nat) (y : Bool) (bits : BitVec 21) : Word :=
  bits ++ BitVec.ofNat 8 op ++ BitVec.ofBool y ++ len

/-- Word 0 of an extended instruction (R74). -/
def packExt0 (len : BitVec 2) (op : Nat) (w : ExtArgs) : Word :=
  w.sub ++ w.d ++ BitVec.ofNat 8 op ++ BitVec.ofBool w.y ++ len

/-- Word 1 of an extended instruction (R74). -/
def packExt1 (w : ExtArgs) : Word := w.c.extractLsb' 0 10 ++ w.b ++ w.a

/-- Word 2 of an extended instruction (R75). -/
def packExt2 (w : ExtArgs) : Word :=
  w.aux ++ w.sh ++ BitVec.ofBool w.sat ++ w.rm ++ BitVec.ofBool w.gn ++ w.g ++ w.fs ++ w.sp ++ w.s
    ++ w.c.extractLsb' 10 1

/-- The two literal words, low word first (R71). -/
def packLit (l : DWord) : List Word := [l.extractLsb' 0 32, l.extractLsb' 32 32]

/-- The words of a group instruction; a sequencer word is given as its two halves, low half first. -/
def encode (i : Instr) : List Word :=
  match i.parts with
  | .base op w none => [packBase 0 op w]
  | .base op w (some l) => packBase 1 op w :: packLit l
  | .ext op w =>
    match w.lit with
    | none => [packExt0 2 op w, packExt1 w, packExt2 w]
    | some l => [packExt0 3 op w, packExt1 w, packExt2 w] ++ packLit l
  | .raw op y bits none => [packRaw 0 op y bits]
  | .raw op y bits (some l) => packRaw 1 op y bits :: packLit l
  | .seq w => packLit w
  | .event => []

/-- The word of a sequencer instruction (R304). -/
def encodeSeq (i : Instr) : DWord :=
  match i.parts with
  | .seq w => w
  | _ => 0

/-- The words of an instruction whose bits are w, bit 0 the least significant bit of the first word. -/
def wordsOfBits (w : Nat) : Words :=
  let g (k : Nat) : Word := BitVec.ofNat 32 (w / 2 ^ (32 * k))
  { w0 := g 0, w1 := g 1, w2 := g 2, w3 := g 3, w4 := g 4 }

/-- What the decoder reads from an instruction whose low nbits bits are w and whose other bits are zero: of 64 bits there are
sequencer words only. DEDUCED (log 44). -/
noncomputable def decodeTableWord (nbits w : Nat) : Option Instr :=
  if nbits = 64 then decodeSeq (BitVec.ofNat 64 w)
  else
    match decodeWords (wordsOfBits (w % 2 ^ nbits)) with
    | .ok i => some i
    | .reject _ => none

end Sys2Proof
end

