-- ==== Sys2Proof/Config.lean ====
section
/-! DEFINITION. What the spec leaves open, as opaque constants (free values): no proof can see their values. A claim that
holds of the model holds whatever they are. -/

namespace Sys2Proof

/-- The n-th free choice among alternatives that the spec allows (R7); n is State.freeCtr. DESIGN CHOICE (log 6). -/
opaque Config.free : Nat → Nat

/-- R157: which of the two FP32 values next to an exact transcendental result the part returns: the
upper one where true. Fixed for a source: the same source gives the same result. DESIGN CHOICE (log 7). -/
opaque Config.expUpper : Word → Bool

/-- As Config.expUpper, for FLOG2 (R157). DESIGN CHOICE (log 7). -/
opaque Config.logUpper : Word → Bool

/-- As Config.expUpper, for the exponential of ROUTE's softmax (R293). DESIGN CHOICE (log 7). -/
opaque Config.routeExpUpper : Word → Bool

/-- R294: the quotient of two zeros where every valid weight of a token is zero: the spec states none. DESIGN CHOICE (log 57). -/
opaque Config.zeroByZero : Word → Word → Word

/-- The 64-bit checksum of a fabric flit (R327). DESIGN CHOICE (log 8). -/
opaque Config.crc64 : List Byte → DWord

/-- The payload of a message of a kind of R327 from the fields that its header has no place for. DESIGN CHOICE (log 27). -/
opaque Config.wireBody : Nat → List Nat → List Byte

/-- The k-th such field in the payload of a message of a kind. DESIGN CHOICE (log 27). -/
opaque Config.wireField : Nat → List Byte → Nat → Nat

/-- The subtype of a message of R248, or of a launch phase (R327). DESIGN CHOICE (log 27). -/
opaque Config.wireSub : String → BitVec 8

/-- The credits that a link has when it is trained (R327). DESIGN CHOICE (log 27). -/
opaque Config.linkCredits : Nat

/-- The stepping in PARTID[23:16] (R410). DESIGN CHOICE (log 8). -/
opaque Config.stepping : BitVec 8

/-- The seed of the key pair with which the vendor signs (R414). DESIGN CHOICE (log 8). -/
opaque Config.vendorSeed : BitVec 256

/-- The seed of the key pair of the package identity, in its fuses (R414). DESIGN CHOICE (log 8). -/
opaque Config.identitySeed : BitVec 256

/-- The random bytes of the signature of the identity, and of the package's n-th signature (R27). DESIGN CHOICE (log 8). -/
opaque Config.identityRandom : BitVec 256
opaque Config.signRandom : Nat → BitVec 256

/-- The private words that the running image of a controller writes into the hand-over record, at the n-th free choice (R415).
DESIGN CHOICE (log 8). -/
opaque Config.privWords : Nat → List Byte

/-- The granules of the snapshot pool that a descriptor names (R373, R413). DESIGN CHOICE (log 8). -/
opaque Config.snapPool : DWord → List Nat

/-- The element format that the fmt field of a host copy's record stands for, as a code modulo 11 (R298). DESIGN CHOICE (log 22). -/
opaque Config.hostSlot : Nat → Nat

/-- The image of a taken team in its grid's context save area, at the n-th free choice (R64). DESIGN CHOICE (log 15). -/
opaque Config.saveImage : Nat → List Byte

end Sys2Proof
end

