-- ==== Sys2Proof/Machine/Flags.lean ====
section
/-! DEFINITION. Flags, exact values and rounding: every flag computation and every narrowing of the spec (R120, R154, R169
to R172, R179, R180), and the two transcendental functions that leave a choice (R157). -/

namespace Sys2Proof.Machine

/-- The sticky flags of fstat (R120): IV, DZ, OF, UF, NX, SA from bit 0 up. -/
abbrev Flags := BitVec 6

def flagIV : Flags := 1
def flagDZ : Flags := 2
def flagOF : Flags := 4
def flagUF : Flags := 8
def flagNX : Flags := 16
def flagSA : Flags := 32

/-- A flag when b holds. -/
def flagIf (b : Bool) (f : Flags) : Flags := if b then f else 0

/-- Rounding modes (R82, R177); sr carries its 32 random bits (R180). -/
inductive Rnd where
  | rne | rz | ru | rd
  | sr (r : Nat)
  deriving DecidableEq, Repr

/-- An exact value: a NaN (signalling or not), an infinity, or (−1)^neg × num / den × 2^exp. A zero keeps its sign. -/
inductive Exact where
  | nan (sig : Bool)
  | inf (neg : Bool)
  | fin (neg : Bool) (num den : Nat) (exp : Int)
  deriving DecidableEq, Repr

/-- A floating format (R169): mantissa width, bias, width in bits, the code of the largest finite value, and the codes of
+∞ and of the default NaN where the format has them. -/
structure FloatFmt where
  man : Nat
  bias : Int
  width : Nat
  maxCode : Nat
  inf : Option Nat
  nan : Option Nat
  deriving DecidableEq, Repr

def fmt32 : FloatFmt := ⟨23, 127, 32, 0x7F7FFFFF, some 0x7F800000, some 0x7FC00000⟩
def fmt16 : FloatFmt := ⟨10, 15, 16, 0x7BFF, some 0x7C00, some 0x7E00⟩
def fmtB16 : FloatFmt := ⟨7, 127, 16, 0x7F7F, some 0x7F80, some 0x7FC0⟩

/-- The floating formats by element format; none for the integer formats (R169). -/
def floatFmt (e : Elem) : Option FloatFmt :=
  match e with
  | .fp32 => some fmt32
  | .fp16 => some fmt16
  | .bf16 => some fmtB16
  | .e4m3 => some ⟨3, 7, 8, 0x7E, none, some 0x7F⟩
  | .e5m2 => some ⟨2, 15, 8, 0x7B, some 0x7C, some 0x7E⟩
  | .e3m2 => some ⟨2, 3, 6, 0x1F, none, none⟩
  | .e2m3 => some ⟨3, 1, 6, 0x1F, none, none⟩
  | .e2m1 => some ⟨1, 1, 4, 0x7, none, none⟩
  | .int8 | .int4 | .q4x => none

/-- The value of a floating code (R170). -/
def decodeFloat (f : FloatFmt) (c : Nat) : Exact :=
  let neg := decide (c / 2 ^ (f.width - 1) % 2 = 1)
  let mag := c % 2 ^ (f.width - 1)
  let e := mag / 2 ^ f.man
  let m := mag % 2 ^ f.man
  if mag > f.maxCode then
    if f.inf = some mag then .inf neg
    else .nan (decide (16 ≤ f.width) && decide (m < 2 ^ (f.man - 1)))
  else if e = 0 then .fin neg m 1 (1 - f.bias - f.man)
  else .fin neg (2 ^ f.man + m) 1 (e - f.bias - f.man)

/-- The floor of log2(num / den) for positive numbers. -/
def floorLog (num den : Nat) : Int :=
  let l : Int := (num.log2 : Int) - (den.log2 : Int)
  let lt := if 0 ≤ l then decide (num < den * 2 ^ l.toNat) else decide (num * 2 ^ (-l).toNat < den)
  if lt then l - 1 else l

/-- The quotient and divisor of num / den × 2^exp by 2^q. -/
def scaleBy (num den : Nat) (exp q : Int) : Nat × Nat :=
  if q ≤ exp then (num * 2 ^ (exp - q).toNat, den) else (num, den * 2 ^ (q - exp).toNat)

/-- Whether the magnitude m + r/b (0 ≤ r < b) of a value with sign neg is rounded up to m + 1 (R82, R180). -/
def roundUp (rm : Rnd) (neg : Bool) (m r b : Nat) : Bool :=
  if r = 0 then false
  else
    match rm with
    | .rne => decide (b < 2 * r ∨ (b = 2 * r ∧ m % 2 = 1))
    | .rz => false
    | .ru => !neg
    | .rd => neg
    | .sr k => if neg then decide (2 ^ 32 * (b - r) / b ≤ k) else decide (k < 2 ^ 32 * r / b)

/-- The code of the rounded magnitude at quantum exponent q, and whether it is exact; the code of a format is the count of
quanta above zero, so it may exceed the largest code. -/
def roundCode (f : FloatFmt) (rm : Rnd) (neg : Bool) (num den : Nat) (exp : Int) : Nat × Bool × Bool :=
  let emin := 1 - f.bias
  let e := floorLog num den + exp
  let at_ (q : Int) : Nat × Nat × Nat :=
    let ab := scaleBy num den exp q
    (ab.1 / ab.2, ab.1 % ab.2, ab.2)
  let q := max e emin - f.man
  let (m, r, b) := at_ q
  let m' := if roundUp rm neg m r b then m + 1 else m
  let (mt, rt, bt) := at_ (e - f.man)
  let mt' := if roundUp rm neg mt rt bt then mt + 1 else mt
  let tiny := decide (e < emin) && decide (e < emin - 1 ∨ mt' < 2 ^ (f.man + 1))
  ((q - (emin - f.man)).toNat * 2 ^ f.man + m', decide (r = 0), tiny)

/-- The sign bit of a code. -/
def signBit (f : FloatFmt) (neg : Bool) : Nat := if neg then 2 ^ (f.width - 1) else 0

/-- R179: narrowing to a floating format: the code and the flags raised. -/
def narrowFloat (f : FloatFmt) (rm : Rnd) (sat : Bool) (x : Exact) : Nat × Flags :=
  match x with
  | .nan sig =>
    match f.nan with
    | some c => (c, flagIf sig flagIV)
    | none => (0, flagIV)
  | .inf neg =>
    match f.inf, f.nan with
    | some c, _ => (signBit f neg + c, 0)
    | none, some c => if sat then (signBit f neg + f.maxCode, flagSA) else (c, flagIV)
    | none, none => (signBit f neg + f.maxCode, flagSA)
  | .fin neg num den exp =>
    if num = 0 then (signBit f neg, 0)
    else
      let rm' := match rm with
        | .sr _ => Rnd.rne
        | r => r
      let (c, exact, tiny) := roundCode f rm neg num den exp
      if f.maxCode < c then
        if sat ∨ (f.inf = none ∧ f.nan = none) then (signBit f neg + f.maxCode, flagOF ||| flagNX ||| flagSA)
        else if rm' = .rz ∨ (rm' = .rd ∧ ¬ neg) ∨ (rm' = .ru ∧ neg) then
          (signBit f neg + f.maxCode, flagOF ||| flagNX)
        else
          match f.inf with
          | some i => (signBit f neg + i, flagOF ||| flagNX)
          | none => (f.nan.getD 0, flagOF ||| flagNX)
      else (signBit f neg + c, flagIf (!exact) flagNX ||| flagIf (tiny && !exact) flagUF)

/-- An integer rounded from an exact finite value, and whether it is exact. -/
def roundInt (rm : Rnd) (neg : Bool) (num den : Nat) (exp : Int) : Int × Bool :=
  if exp < -400 ∧ num < den * 2 ^ 100 then
    if num = 0 then (0, true)
    else
      let up := match rm with
        | .ru => !neg
        | .rd => neg
        | _ => false
      (if up then (if neg then -1 else 1) else 0, false)
  else
    let ab := scaleBy num den exp 0
    let m := ab.1 / ab.2
    let m' := if roundUp rm neg m (ab.1 % ab.2) ab.2 then m + 1 else m
    (if neg then -(m' : Int) else m', decide (ab.1 % ab.2 = 0))

/-- The largest and smallest values of the integer formats as a narrowing delivers them (R171, R179). -/
def intRange (e : Elem) : Int × Int :=
  match e with
  | .int8 => (-128, 127)
  | .int4 => (-8, 7)
  | _ => (-7, 7)

/-- R179: narrowing to an integer format. -/
def narrowInt (e : Elem) (rm : Rnd) (x : Exact) : Nat × Flags :=
  let (lo, hi) := intRange e
  let enc (v : Int) : Nat := (v % (2 ^ elemBits e : Nat)).toNat
  match x with
  | .nan _ => (0, flagIV)
  | .inf neg => (enc (if neg then lo else hi), flagSA)
  | .fin neg num den exp =>
    let (v, exact) := roundInt rm neg num den exp
    let nx := flagIf (!exact) flagNX
    if hi < v then (enc hi, nx ||| flagSA) else if v < lo then (enc lo, nx ||| flagSA) else (enc v, nx)

/-- R179: narrow an exact value to an element format: the element's code and the flags raised. -/
def narrow (e : Elem) (rm : Rnd) (sat : Bool) (x : Exact) : Nat × Flags :=
  match floatFmt e with
  | some f => narrowFloat f rm sat x
  | none => narrowInt e rm x

/-- The value of a code as a signed integer of w bits. -/
def signedOf (w c : Nat) : Int := if c % 2 ^ w < 2 ^ (w - 1) then (c % 2 ^ w : Nat) else (c % 2 ^ w : Nat) - (2 ^ w : Nat)

/-- An integer as an exact value. -/
def exactInt (v : Int) : Exact := .fin (decide (v < 0)) v.natAbs 1 0

/-- plain of R172: a nibble as −7 to 7, the marker as 0. -/
def plainNibble (n : Nat) : Exact := if n % 16 = 8 then exactInt 0 else exactInt (signedOf 4 n)

/-- e4m3 of R172: an outlier's byte; its NaN codes read as 0 (R173). -/
def outlier (c : Nat) : Exact :=
  match decodeFloat ⟨3, 7, 8, 0x7E, none, some 0x7F⟩ c with
  | .nan _ => exactInt 0
  | x => x

/-- R172: the elements of a Q4X quad. -/
def decodeQuad (n0 n1 n2 n3 : Nat) : List Exact :=
  if n0 = 8 then [outlier (n2 * 16 + n1), exactInt 0, exactInt 0, plainNibble n3]
  else if n1 = 8 then [plainNibble n0, outlier (n3 * 16 + n2), exactInt 0, exactInt 0]
  else [plainNibble n0, plainNibble n1, plainNibble n2, plainNibble n3]

/-- The value of one element's code, a Q4X nibble read alone (R170, R171, R182). -/
def valueOf (e : Elem) (c : Nat) : Exact :=
  match floatFmt e with
  | some f => decodeFloat f c
  | none => if e = .q4x then plainNibble c else exactInt (signedOf (elemBits e) c)

/-- The values of k elements of a packed stream (R176), whose bits are n; Q4X reads by aligned quads (R172). -/
def streamValues (e : Elem) (n k : Nat) : List Exact :=
  let w := elemBits e
  let code (p : Nat) : Nat := n / 2 ^ (w * p) % 2 ^ w
  if e = .q4x then
    (List.range k).map fun p =>
      let q := p / 4 * 4
      (decodeQuad (code q) (code (q + 1)) (code (q + 2)) (code (q + 3))).getD (p % 4) (exactInt 0)
  else (List.range k).map fun p => valueOf e (code p)

/-! ### Exact arithmetic -/

/-- The value negated. -/
def Exact.neg : Exact → Exact
  | .nan s => .nan s
  | .inf n => .inf (!n)
  | .fin n a b e => .fin (!n) a b e

/-- Whether the value is a NaN. -/
def Exact.isNan : Exact → Bool
  | .nan _ => true
  | _ => false

/-- Whether the value is a signalling NaN. -/
def Exact.isSig : Exact → Bool
  | .nan s => s
  | _ => false

/-- Whether the value is zero. -/
def Exact.isZero : Exact → Bool
  | .fin _ 0 _ _ => true
  | _ => false

/-- The sign of a value; a NaN has none. -/
def Exact.sgn : Exact → Bool
  | .nan _ => false
  | .inf n => n
  | .fin n _ _ _ => n

/-- The exact sum. A NaN operand, or opposite infinities, give a NaN (IV is the caller's: Exact.addInvalid). A zero sum
has the sign of both operands when they agree in sign and both are zero, else the sign that rd gives (R155). -/
def Exact.add (rd : Bool) (x y : Exact) : Exact :=
  match x, y with
  | .nan _, _ => .nan false
  | _, .nan _ => .nan false
  | .inf a, .inf b => if a = b then .inf a else .nan false
  | .inf a, _ => .inf a
  | _, .inf b => .inf b
  | .fin a n d e, .fin b m c k =>
    if n = 0 ∧ m = 0 then .fin (if a = b then a else rd) 0 1 0
    else if n = 0 then .fin b m c k
    else if m = 0 then .fin a n d e
    else
      let q := min e k
      let u : Int := (n * c * 2 ^ (e - q).toNat : Nat)
      let v : Int := (m * d * 2 ^ (k - q).toNat : Nat)
      let t := (if a then -u else u) + (if b then -v else v)
      if t = 0 then .fin rd 0 1 0 else .fin (decide (t < 0)) t.natAbs (d * c) q

/-- The exact product; 0 × ∞ gives a NaN. -/
def Exact.mul (x y : Exact) : Exact :=
  match x, y with
  | .nan _, _ => .nan false
  | _, .nan _ => .nan false
  | .inf a, .inf b => .inf (a != b)
  | .inf a, .fin b m _ _ => if m = 0 then .nan false else .inf (a != b)
  | .fin a n _ _, .inf b => if n = 0 then .nan false else .inf (a != b)
  | .fin a n d e, .fin b m c k => .fin (a != b) (n * m) (d * c) (e + k)

/-- The exact quotient by a positive finite value (TSCALE). -/
def Exact.divBy (x t : Exact) : Exact :=
  match x, t with
  | .fin a n d e, .fin b m c k => .fin (a != b) (n * c) (d * m) (e - k)
  | x, _ => x

/-- An invalid operation: the result is a NaN though no operand is one, or an operand is a signalling NaN (R154). -/
def invalidOp (xs : List Exact) (r : Exact) : Flags :=
  flagIf (xs.any Exact.isSig || (r.isNan && !xs.any Exact.isNan)) flagIV

/-- FP32 value of a word. -/
def fp32 (w : Word) : Exact := decodeFloat fmt32 w.toNat

/-- A NaN made quiet, for a result whose IV has been counted. -/
def Exact.quiet : Exact → Exact
  | .nan _ => .nan false
  | x => x

/-- Round an exact result into a format under R154 and R179: the code, with SAT's clamp of an overflow and of an infinity, and the
flags. An overflow under SAT raises SA in every rounding mode. DEDUCED (log 49). -/
def round154 (f : FloatFmt) (rm : Rnd) (sat : Bool) (x : Exact) : Nat × Flags :=
  let (c, fl) := narrowFloat f rm sat x.quiet
  let mag := c % 2 ^ (f.width - 1)
  if sat ∧ f.inf = some mag then (c - mag + f.maxCode, fl ||| flagSA) else (c, fl)

/-- A comparison of two exact values that are not NaN: −1, 0 or 1; zeros are equal. -/
def Exact.cmp (x y : Exact) : Int :=
  match x.add false y.neg with
  | .fin n a _ _ => if a = 0 then 0 else if n then -1 else 1
  | .inf n => if n then -1 else 1
  | .nan _ => 0

/-! ### Square roots, exponentials and logarithms (R157) -/

/-- The integer square root by binary digits: r is the root so far, n the number, bit 2^k next. -/
def isqrtFrom (n : Nat) : Nat → Nat → Nat
  | 0, r => if (r + 1) * (r + 1) ≤ n then r + 1 else r
  | k + 1, r =>
    let t := r + 2 ^ (k + 1)
    isqrtFrom n k (if t * t ≤ n then t else r)

/-- The integer square root of a number below 2^(2b + 2). -/
def isqrt (b n : Nat) : Nat := isqrtFrom n b 0

/-- The square root of num / den × 2^exp as an exact value with a sticky half-unit when it is inexact: enough digits for a
correct rounding to 24 bits. -/
def sqrtExact (num den : Nat) (exp : Int) : Exact :=
  let odd := exp % 2 = 1
  let num := if odd then 2 * num else num
  let exp := if odd then exp - 1 else exp
  let k : Nat := 160
  let n := num * 2 ^ (2 * k) / den
  let r := isqrt 300 n
  let exact := r * r = n ∧ num * 2 ^ (2 * k) % den = 0
  .fin false (2 * r + if exact then 0 else 1) 1 (exp / 2 - k - 1)

/-- 2^(2^-i) in fixed point with 192 fraction bits, rounded down, from the one before. -/
def halfRoot (c : Nat) : Nat := isqrt 193 (c * 2 ^ 192)

/-- The product of 2^(2^-i) over the set bits of a fraction of n bits, most significant first, rounded down. -/
def exp2Frac : Nat → Nat → Nat → Nat → Nat
  | 0, _, _, acc => acc
  | n + 1, f, c, acc =>
    let c' := halfRoot c
    exp2Frac n f c' (if f / 2 ^ n % 2 = 1 then acc * c' / 2 ^ 192 else acc)

/-- 2^(i + f/2^n), 0 < f < 2^n, as an exact value just above the truncated product: it lies between the same two
neighbours of any format as the true value. -/
def exp2Exact (i : Int) (n f : Nat) : Exact :=
  .fin false (2 * exp2Frac n f (2 * 2 ^ 192) (2 ^ 192) + 1) 1 (i - 193)

/-- The bits of log2 of m / 2^192 in [1, 2), by repeated squaring, rounded down. -/
def log2Frac : Nat → Nat → Nat → Nat
  | 0, _, acc => acc
  | n + 1, m, acc =>
    let s := m * m / 2 ^ 192
    if 2 ^ 193 ≤ s then log2Frac n (s / 2) (2 * acc + 1) else log2Frac n s (2 * acc)

/-- log2 of a positive num × 2^exp that is no power of two, placed between the same neighbours as the true value. -/
def log2Exact (num : Nat) (exp : Int) : Exact :=
  let l := num.log2
  let fr := log2Frac 100 (num * 2 ^ 192 / 2 ^ l) 0
  let v : Int := (exp + l) * (2 ^ 101 : Nat) + (2 * fr + 1 : Nat)
  .fin (decide (v < 0)) v.natAbs 1 (-101)

end Sys2Proof.Machine
end

