-- ==== Sys2Proof/Machine/Fp.lean ====
section
/-! DEFINITION. The floating-point functions of one lane (R155 to R160, R164, R182 to R188, R209). -/

namespace Sys2Proof.Machine

/-- FADD: a + b (R155). -/
def fpAdd (f : FloatFmt) (rm : Rnd) (sat : Bool) (a b : Exact) : Nat × Flags :=
  let r := a.add (decide (rm = .rd)) b
  let (c, fl) := round154 f rm sat r
  (c, fl ||| invalidOp [a, b] r)

/-- FMUL: a × b. -/
def fpMul (f : FloatFmt) (rm : Rnd) (sat : Bool) (a b : Exact) : Nat × Flags :=
  let r := a.mul b
  let (c, fl) := round154 f rm sat r
  (c, fl ||| invalidOp [a, b] r)

/-- FFMA: a × b + c with one rounding; 0 × ∞ is invalid whatever c is (R155). -/
def fpFma (f : FloatFmt) (rm : Rnd) (sat : Bool) (a b c : Exact) : Nat × Flags :=
  let p := a.mul b
  let r := p.add (decide (rm = .rd)) c
  let (v, fl) := round154 f rm sat r
  let badProduct := flagIf (p.isNan && !a.isNan && !b.isNan) flagIV
  (v, fl ||| invalidOp [a, b, c] r ||| badProduct)

/-- Whether a comes before b in the order of FMIN and FMAX: −0 below +0 (R156). -/
def fpBelow (a b : Exact) : Bool :=
  let c := a.cmp b
  decide (c < 0) || (decide (c = 0) && a.sgn && !b.sgn)

/-- FMIN and FMAX on words (R156). -/
def fpMinMax (max : Bool) (a b : Word) : Word × Flags :=
  let x := fp32 a
  let y := fp32 b
  let fl := flagIf (x.isSig || y.isSig) flagIV
  match x.isNan, y.isNan with
  | true, true => (0x7FC00000, fl)
  | true, false => (b, fl)
  | false, true => (a, fl)
  | false, false => (if fpBelow x y != max then a else b, fl)

/-- FMAXA on words: the larger magnitude, with sign + (R156). -/
def fpMaxA (a b : Word) : Word × Flags :=
  fpMinMax true (a &&& 0x7FFFFFFF) (b &&& 0x7FFFFFFF)

/-- FRCP (R157). -/
def fpRcp (x : Exact) : Exact × Flags :=
  match x with
  | .nan s => (.nan false, flagIf s flagIV)
  | .inf n => (.fin n 0 1 0, 0)
  | .fin n a b e => if a = 0 then (.inf n, flagDZ) else (.fin n b a (-e), 0)

/-- FSQRT (R157). -/
def fpSqrt (x : Exact) : Exact × Flags :=
  match x with
  | .nan s => (.nan false, flagIf s flagIV)
  | .inf n => if n then (.nan false, flagIV) else (.inf false, 0)
  | .fin n a b e =>
    if a = 0 then (.fin n 0 1 0, 0) else if n then (.nan false, flagIV) else (sqrtExact a b e, 0)

/-- FRSQ (R157): the square root of the reciprocal. -/
def fpRsq (x : Exact) : Exact × Flags :=
  match x with
  | .nan s => (.nan false, flagIf s flagIV)
  | .inf n => if n then (.nan false, flagIV) else (.fin false 0 1 0, 0)
  | .fin n a b e =>
    if a = 0 then (.inf n, flagDZ) else if n then (.nan false, flagIV) else (sqrtExact b a (-e), 0)

/-- A number num × 2^exp split as integer part and fraction of n bits, the value rounded down: i + f / 2^n. -/
def splitExp (neg : Bool) (num : Nat) (exp : Int) (n : Nat) : Int × Nat :=
  let m : Int := if 0 ≤ exp + n then (num * 2 ^ (exp + n).toNat : Nat) else (num / 2 ^ (-(exp + n)).toNat : Nat)
  let v : Int := if neg then -m else m
  (v / (2 ^ n : Nat), (v % (2 ^ n : Nat)).toNat)

/-- FEXP2 of a word (R157): exact where 2^a is representable, else the neighbour that Config.expUpper chooses. -/
def fpExp2 (sat : Bool) (w : Word) : Nat × Flags :=
  let go (x : Exact) (rm : Rnd) : Nat × Flags := round154 fmt32 rm sat x
  let open_ : Rnd := if Config.expUpper w then .ru else .rd
  match fp32 w with
  | .nan s => (0x7FC00000, flagIf s flagIV)
  | .inf n => if n then (0, 0) else go (.inf false) .rne
  | .fin n a _ e =>
    if a = 0 then go (.fin false 1 1 0) .rne
    else
      let big := floorLog a 1 + e
      if 8 ≤ big then
        if n then go (.fin false 1 1 (-200)) open_ else go (.fin false 1 1 200) .rne
      else
        let (i, f) := splitExp n a e 150
        if 128 ≤ i then go (.fin false 1 1 200) .rne
        else if f = 0 then (if -149 ≤ i then go (.fin false 1 1 i) .rne else go (.fin false 1 1 (-200)) open_)
        else go (exp2Exact i 150 f) open_

/-- FLOG2 of a word (R157). -/
def fpLog2 (sat : Bool) (w : Word) : Nat × Flags :=
  let go (x : Exact) (rm : Rnd) : Nat × Flags := round154 fmt32 rm sat x
  match fp32 w with
  | .nan s => (0x7FC00000, flagIf s flagIV)
  | .inf n => if n then (0x7FC00000, flagIV) else go (.inf false) .rne
  | .fin n a _ e =>
    if a = 0 then
      let (c, fl) := go (.inf true) .rne
      (c, fl ||| flagDZ)
    else if n then (0x7FC00000, flagIV)
    else if a = 2 ^ a.log2 then go (exactInt (e + a.log2)) .rne
    else go (log2Exact a e) (if Config.logUpper w then .ru else .rd)

/-- log2(e) with 256 fraction bits, rounded down. -/
def log2e256 : Nat := 0x171547652B82FE1777D0FFDA0D23A7D11D6AEF551BAD2B4B1164A2CD9A342648F

/-- expf of R293 on an FP32 word that is not a NaN and not above zero: the closed set of FEXP2. -/
def routeExp (w : Word) : Word :=
  let rm : Rnd := if Config.routeExpUpper w then .ru else .rd
  match fp32 w with
  | .fin n a _ e =>
    if a = 0 then 0x3F800000
    else if 8 ≤ floorLog a 1 + e then
      if n then BitVec.ofNat 32 (narrowFloat fmt32 rm false (.fin false 1 1 (-200))).1 else 0x7F800000
    else
      let (i, f) := splitExp n (a * log2e256) (e - 256) 150
      BitVec.ofNat 32 (narrowFloat fmt32 rm false (exp2Exact i 150 f)).1
  | .inf n => if n then 0 else 0x7F800000
  | .nan _ => 0x7FC00000

/-- FCLASS (R159): one bit of ten. -/
def fpClass (w : Word) : Word :=
  let k := match fp32 w with
    | .nan s => if s then 0 else 1
    | .inf n => if n then 2 else 9
    | .fin n a _ _ =>
      if a = 0 then (if n then 5 else 6)
      else if a < 2 ^ 23 then (if n then 4 else 7)
      else (if n then 3 else 8)
  BitVec.twoPow 32 k

/-- FCMPP (R79, R158): the relation of a condition code and the flag it raises. -/
def fpCompare (code : Nat) (a b : Exact) : Bool × Flags :=
  let un := a.isNan || b.isNan
  let c := a.cmp b
  let rel (k : Nat) : Bool :=
    match k with
    | 0 => decide (c = 0) | 1 => decide (c ≠ 0) | 2 => decide (c < 0)
    | 3 => decide (c ≤ 0) | 4 => decide (0 < c) | _ => decide (0 ≤ c)
  let t := match code with
    | 6 => !un
    | 7 => un
    | k => if k < 6 then !un && rel k else un || rel (k - 8)
  (t, flagIf (a.isSig || b.isSig || (un && decide (2 ≤ code ∧ code ≤ 5))) flagIV)

/-- The sign modifiers of R88 on a source word: absolute value, then negation. -/
def signMod (neg abs : Bool) (w : Word) : Word :=
  let w := if abs then w &&& 0x7FFFFFFF else w
  if neg then w ^^^ 0x80000000 else w

/-- One element of HADD2, HMUL2 and HFMA2 (R160), negated where neg holds. -/
def halfElem (f : FloatFmt) (w : Word) (e : Nat) (neg : Bool) : Exact :=
  let x := decodeFloat f (w.toNat / 2 ^ (16 * e) % 2 ^ 16)
  if neg then x.neg else x

/-- Both elements of a packed 16-bit operation (R160). -/
def halfPair (op : Nat → Nat × Flags) : Word × Flags :=
  let r0 := op 0
  let r1 := op 1
  (BitVec.ofNat 32 (r0.1 + 2 ^ 16 * r1.1), r0.2 ||| r1.2)

/-- FSCALE (R187): a × 2^n, n clamped to ±512; NaN, infinities and zeros pass. -/
def fpScale (rm : Rnd) (sat : Bool) (a : Exact) (n : Int) : Nat × Flags :=
  let k := max (-512) (min 512 n)
  let r := match a with
    | .fin s m d e => .fin s m d (e + k)
    | x => x
  let (c, fl) := round154 fmt32 rm sat r
  (c, fl ||| flagIf a.isSig flagIV)

/-- The exact sum of FDOT4 (R188) over element pairs from the value s. The sign of a sum of zero is that of R155's sums, and of a zero product
that of its factors. DESIGN CHOICE (log 67). -/
def dotSum (rd : Bool) (t : Exact) : List (Exact × Exact) → Exact → Exact
  | [], s => s
  | (a, b) :: l, s => dotSum rd t l (s.add rd ((a.mul t).mul (b.mul t)))

/-- Whether the sum meets opposite infinities (R188). -/
def dotInvalid (rd : Bool) (t : Exact) : List (Exact × Exact) → Exact → Bool
  | [], _ => false
  | (a, b) :: l, s =>
    let p := (a.mul t).mul (b.mul t)
    let r := s.add rd p
    (r.isNan && !s.isNan && !p.isNan) || dotInvalid rd t l r

/-- FDOT4 (R188). -/
def fpDot (rm : Rnd) (sat : Bool) (t : Exact) (l : List (Exact × Exact)) (c : Exact) : Nat × Flags :=
  let all := c :: (l.map (·.1) ++ l.map (·.2))
  let r := dotSum (decide (rm = .rd)) t l c
  let (v, fl) := round154 fmt32 rm sat r
  let inv := l.any fun p => (p.1.mul p.2).isNan && !p.1.isNan && !p.2.isNan
  (v, fl ||| invalidOp all r ||| flagIf (inv || dotInvalid (decide (rm = .rd)) t l c) flagIV)

/-- CVTI f2s and f2z (R184). -/
def fpToInt (unsigned : Bool) (rm : Rnd) (sat : Bool) (x : Exact) : Word × Flags :=
  let lo : Int := if unsigned then 0 else -(2 ^ 31 : Nat)
  let hi : Int := if unsigned then (2 ^ 32 : Nat) - 1 else (2 ^ 31 : Nat) - 1
  let bad : Word := if unsigned then 0 else 0x80000000
  let out (below : Bool) : Word × Flags :=
    if sat then
      (if below then (if unsigned then 0 else 0x80000000) else (if unsigned then 0xFFFFFFFF else 0x7FFFFFFF),
       flagIV ||| flagSA)
    else (bad, flagIV)
  match x with
  | .nan _ => if sat then (0, flagIV ||| flagSA) else (bad, flagIV)
  | .inf n => out n
  | .fin n a b e =>
    if 40 ≤ floorLog a b + e ∧ a ≠ 0 then out n
    else
      let (v, exact) := roundInt rm n a b e
      if v < lo then out true else if hi < v then out false
      else (BitVec.ofInt 32 v, flagIf (!exact) flagNX)

end Sys2Proof.Machine
end

