-- ==== Sys2Proof/Machine/Map.lean ====
section
/-! DEFINITION. Finite maps from Nat keys held as plain lists: sorted by key, no repeats. A KMap has
no entry where nothing is stored; an FMap reads zero where nothing is stored and lists no zero, so
equal contents are equal lists. -/

namespace Sys2Proof

/-- A finite map with Nat keys: a list with strictly rising keys. -/
abbrev KMap (α : Type) := List (Nat × α)

/-- A finite map of bit vectors that reads zero at an unlisted key and lists no zero. -/
abbrev FMap (w : Nat) := List (Nat × BitVec w)

/-- The value stored at k, if any. The list is sorted, so the search stops at the first larger key. -/
def kget {α : Type} : KMap α → Nat → Option α
  | [], _ => none
  | (j, v) :: m, k => if j = k then some v else if k < j then none else kget m k

/-- m with v stored at k. -/
def kset {α : Type} : KMap α → Nat → α → KMap α
  | [], k, v => [(k, v)]
  | (j, u) :: m, k, v =>
    if j = k then (k, v) :: m else if k < j then (k, v) :: (j, u) :: m else (j, u) :: kset m k v

/-- m with nothing stored at k. -/
def kdel {α : Type} : KMap α → Nat → KMap α
  | [], _ => []
  | (j, u) :: m, k => if j = k then m else if k < j then (j, u) :: m else (j, u) :: kdel m k

/-- The keys rise strictly above b. -/
def kwfFrom {α : Type} : Nat → KMap α → Bool
  | _, [] => true
  | b, (j, _) :: m => decide (b ≤ j) && kwfFrom (j + 1) m

/-- The keys rise strictly: the canonical form of a KMap. -/
def kwf {α : Type} (m : KMap α) : Bool := kwfFrom 0 m

/-- The value an FMap reads at k: zero where nothing is listed. -/
def fget {w : Nat} (m : FMap w) (k : Nat) : BitVec w := (kget m k).getD 0

/-- m with v at k; storing zero removes the entry. -/
def fset {w : Nat} (m : FMap w) (k : Nat) (v : BitVec w) : FMap w :=
  if v = 0 then kdel m k else kset m k v

/-- The canonical form of an FMap: keys strictly rising, no entry equal to zero. -/
def fwf {w : Nat} (m : FMap w) : Bool := kwf m && m.all fun e => decide (e.2 ≠ 0)

/-- Store a list of (key, value) pairs, the later ones last. -/
def fsetAll {w : Nat} (m : FMap w) (l : List (Nat × BitVec w)) : FMap w :=
  l.foldl (fun acc e => fset acc e.1 e.2) m

/-- m without the keys lo ≤ k < lo + n: the range reads zero. -/
def fclear {w : Nat} (m : FMap w) (lo n : Nat) : FMap w :=
  m.filter fun e => decide (e.1 < lo) || decide (lo + n ≤ e.1)

/-- The largest key plus one, or 0 for an empty map: a key that is not in use. -/
def kfresh {α : Type} (m : KMap α) : Nat := m.foldl (fun a e => max a (e.1 + 1)) 0

/-- Change the value at k, if there is one. -/
def kmod {α : Type} (m : KMap α) (k : Nat) (f : α → α) : KMap α :=
  match kget m k with
  | some v => kset m k (f v)
  | none => m

/-- Change every value. -/
def kmapV {α : Type} (f : Nat → α → α) (m : KMap α) : KMap α := m.map fun e => (e.1, f e.1 e.2)

/-- List element n replaced (nothing changes when n is past the end). -/
def lset {α : Type} (l : List α) (n : Nat) (v : α) : List α := l.set n v

/-- List element n changed by f. -/
def lmod {α : Type} (l : List α) (n : Nat) (f : α → α) : List α := l.modify n f

end Sys2Proof
end

