-- ==== Sys2Proof/Machine/Compute.lean ====
section
/-! DEFINITION. State of the work: grids, teams, groups, slices, splits (spec/02, 04, 11, 12, 13). -/

namespace Sys2Proof.Machine

/-- One entry of a slice's loop stack (R385). -/
structure LoopEntry where
  start : DWord
  stop : DWord
  count : Word
  deriving DecidableEq, Repr

/-- A slice: its program counter, conditions C0 to C6, copies of S1 to S63, loop stack (top first), window base,
resident bottom and wneed (R42, R110, R114, R121, R385). -/
structure Slice where
  pc : DWord
  c : FMap 1
  s : FMap 32
  loops : List LoopEntry
  wb : Nat
  rb : Nat
  wneed : Nat
  deriving DecidableEq, Repr

/-- A register that a result is bound to (R131): v k is physical register k of the group's lanes, numbered lane × 2048
+ index; the b forms are the handler bank of R122. -/
inductive RegRef where
  | v (lane phys : Nat)
  | s (slice n : Nat)
  | p (lane n : Nat)
  | c (slice n : Nat)
  | bv (lane n : Nat)
  | bs (slice n : Nat)
  | bp (lane n : Nat)
  | bc (slice n : Nat)
  deriving DecidableEq, Repr

/-- A register write; predicate and condition bits are 0 or 1. -/
abbrev RegWrite := RegRef × Word

/-- A result whose data is poisoned (R372): the detail of its cause 0x40, the pc of its instruction, and whether a handler executed it. -/
structure Bad where
  detail : Nat
  pc : DWord
  inH : Bool
  deriving DecidableEq, Repr

/-- An outstanding variable-latency result (R52): the writes it will make, the sticky flags that it raises as it lands (R120), for a queued
ARD whose values have not arrived, its operation, and for poisoned data, whose fault is yet to be raised, what that names (R372). -/
structure Pending where
  writes : List RegWrite
  await : Option Nat
  flags : BitVec 6 := 0
  bad : Option Bad := none
  deriving DecidableEq, Repr

/-- What a descheduled stream waits for (R395, R398, R399). -/
inductive WaitFor where
  | barrier (word : Word) (phase : Bool)
  | value (addr : DWord) (code : Nat) (v : Word)
  | child (handle : Word) (d : Nat)
  deriving DecidableEq, Repr

/-- A standing wait (R396): its condition, when it issued, its timeout in ticks and the wait's length. -/
structure Wait where
  for_ : WaitFor
  since : DWord
  ticks : Nat
  len : Nat
  deriving DecidableEq, Repr

/-- What a valid split table entry does (R45, R61, R216, R379, R396). -/
inductive RunState where
  | run                    -- issues
  | park                   -- stopped at a YIELD for pre-emption; its pc is after the YIELD
  | wait (w : Wait)        -- descheduled in a scheduler-visible wait
  | host (page : DWord) (parked : Bool)  -- waits for the host's page answer (R216), parked at a YIELD before (R223)
  | pair (since : DWord)   -- parked at a compare point for the other twin (R379)
  deriving DecidableEq, Repr

/-- A trap that waits for the partition's handler (R122): cause, detail, faddr, fmask, and the wneed of slices. -/
structure Trap where
  cause : Nat
  detail : Nat
  faddr : DWord
  fmask : DWord
  need : List (Nat × Nat)
  deriving DecidableEq, Repr

/-- A split table entry (R337) with its outstanding results (R53), the live count of the YIELD it stopped at (R61),
the record of R221 (status, page), a refusal by the target under way (R191: pc, address), and whether
the compare before its next instruction has been made (R379), a trap that waits its turn (R122), and a debug step under
which it may issue one instruction while its group holds (R357). -/
structure Split where
  valid : Bool
  wait : Bool
  wj : BitVec 3
  mask : BitVec 16
  run : RunState
  pend : List Pending
  live : Nat
  mapp : Option (Nat × DWord)
  refused : Option (DWord × DWord)
  compared : Bool
  trap : Option Trap
  step : Bool
  deriving DecidableEq, Repr

/-- A rejoin register (R117); pc holds address bits [56:2]. -/
structure Rejoin where
  valid : Bool
  mask : BitVec 16
  pc : BitVec 55
  deriving DecidableEq, Repr

/-- A divergence stack entry (R339); join is STATE. -/
structure DivEntry where
  mask : BitVec 16
  arrived : BitVec 16
  j : BitVec 3
  join : Bool
  owner : BitVec 2
  pc : DWord
  rejoin : DWord
  deriving DecidableEq, Repr

/-- A running supervisor handler (R122): the split it runs on, its pc, the bank, the last MAPP status it got (R221),
and, for an engine fault, nothing to retry (R223). -/
structure Handler where
  entry : Nat
  pc : DWord
  v : FMap 32
  s : FMap 32
  p : FMap 1
  c : FMap 1
  mapp : Option Nat
  engine : Bool
  deriving DecidableEq, Repr

/-- A group (R28, R109, R121). v is keyed by lane × 2048 + physical index, p by lane × 8 + number. mbatch is the
number of the current batch and mopen the number of outstanding ones (R269); hold is a debug hold (R357). saved holds the tiles of
bound handles while the team is taken (R64). spill follows the spilled stack entries, oldest first: the owner of each and its
slices that have not exited (R349, R350). -/
structure Group where
  team : Nat
  gid : Nat
  width : Nat
  nregs : Nat
  alloc : Nat
  part : Nat
  off : Nat
  slices : List Slice
  v : FMap 32
  p : FMap 1
  splits : List Split
  h : List (Option (BitVec 5))
  j : List Rejoin
  dstack : List DivEntry
  spcnt : Nat
  spill : List (BitVec 2 × BitVec 16)
  spbase : DWord
  fstat : BitVec 6
  budget : Nat
  mbatch : BitVec 8
  mopen : Nat
  scratch0 : Word
  scratch1 : Word
  fmask : DWord
  fcause : Word
  faddr : DWord
  handler : Option Handler
  hold : Bool
  saved : KMap (FMap 32)
  deriving DecidableEq, Repr

/-- A held team's pending cause (R364): the cause, whether the host may resume it, and at which group and split. own is false where the
cause is its twin's, with which it holds (R41). -/
structure Held where
  cause : Nat
  resumable : Bool
  group : Nat
  entry : Nat
  own : Bool
  deriving DecidableEq, Repr

/-- A write of a byte by an engine operation or a link sequencer, as streams that have not acquired it may not have seen it (R242, R336):
the byte as it was before, the operation's identity and core (none for a sequencer, which writes 8-byte groups whole, R303), and the
slices that have seen the write, each as its group's identity × 16 and its number. -/
structure Unseen where
  old : Byte
  op : Option (Nat × Nat)
  seen : List Nat
  deriving DecidableEq, Repr

/-- What an engine operation of a twin holds until its compare (R379): its bytes, its signature and its writes since the last one. -/
structure EngHeld where
  held : KMap Byte
  sig : DWord
  writes : Nat
  deriving DecidableEq, Repr

/-- A team (R28, R30, R63, R377): core is none while it is taken. tags holds the valid entries of the tag table
(R194); mem the local memory (R193). held, sig and writes belong to paired execution (R377, R378), eng to its engine operations by
their identities (R379), and fwd
holds the old values of atomics that the primary forwards (group number, split, values: R380). behind holds, by offset, the engine writes
of local memory that some stream may not have seen, the newest first (R242). -/
structure Team where
  grid : BitVec 14
  num : Nat
  core : Option Nat
  groups : List Nat
  mem : FMap 8
  behind : KMap (List Unseen)
  tags : KMap Word
  request : Bool
  forGrid : Option (BitVec 14)
  taking : Bool
  shadow : Bool
  twin : Option Nat
  held : KMap Byte
  sig : DWord
  writes : Nat
  eng : KMap EngHeld
  fwd : List (Nat × Nat × List Nat)
  stop : Option Held
  ended : Bool
  deriving DecidableEq, Repr

/-- The fields of an accepted launch record (R32, R34). -/
structure Launch where
  entry : DWord
  tx : Nat
  ty : Nat
  tz : Nat
  groups : Nat
  width : Nat
  policy : Nat
  priority : Nat
  localSize : Nat
  budget0 : Nat
  replayable : Bool
  paired : Bool
  roles : DWord
  windows : List (Nat × Nat)
  params : DWord
  completion : DWord
  faultrec : DWord
  slots : List FmtSlot
  deriving DecidableEq, Repr

/-- The number of teams (R28). -/
def Launch.teams (l : Launch) : Nat := l.tx * l.ty * l.tz

/-- The states of a grid (R58). -/
inductive GridPhase where
  | accepted | running | draining | retired
  deriving DecidableEq, Repr

/-- An entry of a fault record as its fields (R370). -/
structure FaultEntry where
  team : Nat
  gid : Nat
  cause : Nat
  detail : Nat
  flags : Nat
  pc : DWord
  faddr : DWord
  deriving DecidableEq, Repr

/-- What a launch's fault record has received (R369): flagBytes are byte 3 of its entries, oldest first, last the entry reported
last. -/
structure FaultRec where
  last : Option FaultEntry
  count : Nat
  overflow : Bool
  replays : Nat
  status : Nat
  flagBytes : List Byte
  dead : Bool
  deriving DecidableEq, Repr

/-- An entry of the snapshot table (R373): granule and copy, PA[51:16] of each. -/
structure Snap where
  gran : Nat
  copy : Nat
  deriving DecidableEq, Repr

/-- Who receives a grid's status: a ring entry (R298), or a parent's CWAIT. -/
inductive LaunchSource where
  | ring (ring : Nat) (index : Nat)
  | child
  deriving DecidableEq, Repr

/-- A grid (R32 to R36, R57, R58, R405). root names the grid whose launch heads the snapshot set (R373);
puts counts the remote writes that have not been acknowledged (R371). -/
structure Grid where
  launch : Launch
  depth : Nat
  parent : Option (BitVec 14)
  root : BitVec 14
  prio : Nat
  order : Nat
  space : Nat
  phase : GridPhase
  next : Nat
  endedTeams : Nat
  counters : List DWord
  kids : List (BitVec 14 × Nat)
  fr : FaultRec
  preq : Bool
  awaitsApproval : Bool
  source : LaunchSource
  snaps : List Snap
  nonReplay : Bool
  replaying : Bool
  debug : Bool
  puts : Nat
  deriving DecidableEq, Repr

/-- The address-space record of a ring (R413): the root table, the PID, the handlers of causes 0x01 to 0x04, the
save area, and the snapshot pool's base and size in granules. -/
structure Space where
  root : Nat
  pid : BitVec 12
  handlers : List DWord
  save : DWord
  snapFree : List Nat
  deriving DecidableEq, Repr

/-- A cached translation (R201). -/
structure TlbEntry where
  space : Nat
  base : Nat
  size : Nat
  leaf : DWord
  deriving DecidableEq, Repr

end Sys2Proof.Machine
end

