-- ==== Sys2Proof/Machine/Engine.lean ====
section
/-! DEFINITION. State of the engines: the matrix FIFO, the copy queue, the routing queue, the accumulator store and the
caches of a core (spec/09, R201, R212, R215). -/

namespace Sys2Proof.Machine

/-- A shape record as read at issue (R281, R282); elem is the element format of the slot that fmt names. -/
structure Shape where
  base : Nat
  bound : Nat
  crec : DWord
  dims : List Nat
  rank : Nat
  slot : BitVec 3
  elem : Elem
  loc : Bool
  strides : List Nat
  origin : List Int
  box : List Nat
  deriving DecidableEq, Repr

/-- What MMA and DMMA capture at issue (R53, R175, R276 to R279): the fragments' registers by lane × 2048 + register from the
fragment's first, the scale words of the lowest-numbered issuing slice, the two slots, act and the width. -/
structure MmaArgs where
  ta : Bool
  tb : Bool
  fa : FmtSlot
  fb : FmtSlot
  a : FMap 32
  b : FMap 32
  x : FMap 32
  scale : DWord
  act : DWord
  width : Nat
  deriving DecidableEq, Repr

/-- An operation of the matrix FIFO (R263). An ADRAIN's reserved copy-queue entry has the same identity. -/
inductive MatKind where
  | mma (h : Nat) (m : MmaArgs)
  | dmma (h hc : Nat) (m : MmaArgs)
  | azero (h : Nat) (act : DWord) (width : Nat)
  | arel (h : Nat)
  | awr (h : Nat) (vals : List (Nat × Nat × Word))     -- row, column, value
  | ard (h : Nat) (dst : List (RegRef × Nat × Nat))    -- register, row, column
  | adrain (h : Nat)
  | qfence (mask : BitVec 4)
  deriving DecidableEq, Repr

/-- A posted matrix operation: its identity, its poster (team, group and batch of R269) and what it does. -/
structure MatOp where
  id : Nat
  team : Nat
  group : Nat
  batch : BitVec 8
  kind : MatKind
  deriving DecidableEq, Repr

/-- What ROUTE captured at issue (R292): the parameter block, the replica table, the outputs and the scores' record. -/
structure RouteArgs where
  expert : Bool
  t : Nat
  e : Nat
  p : Nat
  k : Nat
  capacity : Nat
  renorm : Bool
  rep : List Nat
  word : Word
  outs : List DWord
  score : Shape
  out : Option (List (Nat × Nat × Nat)) := none
  deriving DecidableEq, Repr

/-- An operation of the copy, routing and collective queues (R263, R287 to R289, R296, R321). A tile is keyed by
row × 64 + column. teams are the receivers of a BCOPYM, once the barge has started; keep lists the slots that a queued COLL keeps
off the free list (R322). -/
inductive EngKind where
  | bcopy (dst src : Shape) (word : Word)
  | bcopym (mask : BitVec 8) (dst src : Shape) (teams : Option (List Nat))
  | drain (dst : Shape) (fmt : FmtSlot) (add : Bool) (word : Word) (tile : Option (FMap 32)) (aborted : Bool)
  | host (dst src : Shape) (ring index : Nat)
  | route (args : RouteArgs)
  | coll (dst : Shape) (fmt : FmtSlot) (h : Nat) (keep : List Nat) (tile : Option (FMap 32)) (flag inc : DWord)
      (word : Word)
  | qfence (mask : BitVec 4)
  deriving DecidableEq, Repr

/-- A queue entry with its poster and its progress (R222): elements done, bits and bytes written, CLIPPED, whether the
completion record has been written, the page that it is suspended on and the stream that took its fault (R223), the page that
the stream's handler passed on (R221), the ERROR it has failed with (R286), since when it is parked at a compare of paired execution,
and whether only its completion remains then (R379). -/
structure EngOp where
  id : Nat
  team : Nat
  group : Nat
  gid : Nat
  grid : BitVec 14
  space : Nat
  core : Nat
  batch : BitVec 8
  kind : EngKind
  done : Nat
  bits : Nat
  clipped : Bool
  crecDone : Bool
  page : Option DWord
  pend : Option (Nat × Nat)
  passed : Option DWord
  error : Nat
  parked : Option DWord
  worked : Bool
  deriving DecidableEq, Repr

/-- A core (R37, R201, R212, R215, R263, R268): bound accumulator tiles by slot, free slots, queues, caches, TLBs, and the
cycle count of tstamp, and how many frames of the L1 and of the instruction cache are disabled (R382). -/
structure Core where
  acc : KMap (FMap 32)
  free : List Nat
  fifo : List MatOp
  starve : Option DWord
  copyq : List EngOp
  collq : List EngOp
  l1 : KMap (FMap 8)
  icache : KMap (FMap 8)
  tlb : List TlbEntry
  wtlb : List TlbEntry
  cycles : Word
  l1Off : Nat
  icOff : Nat
  deriving DecidableEq, Repr

/-- The 32 slot numbers of a full free list (R268). -/
def allSlots : List Nat :=
  [0, 1, 2, 3, 4, 5, 6, 7, 8, 9, 10, 11, 12, 13, 14, 15, 16, 17, 18, 19, 20, 21, 22, 23, 24, 25, 26, 27, 28,
   29, 30, 31]

/-- A core at device reset (R224, R268, R299). -/
def Core.init : Core :=
  { acc := [], free := allSlots, fifo := [], starve := none, copyq := [], collq := [], l1 := [], icache := [],
    tlb := [], wtlb := [], cycles := 0, l1Off := 0, icOff := 0 }

end Sys2Proof.Machine
end

