-- ==== Sys2Proof/Machine/Fabric.lean ====
section
/-! DEFINITION. State of the lock die: link sequencers and collectives (spec/10), windows, credits and links (R323 to R329),
the coherence protocol (spec/08), rings, controllers and islands (spec/14), error tables (R382, R383, R403). -/

namespace Sys2Proof.Machine

/-! ### Link sequencers (R301) -/

/-- The STATE field of a control word. -/
inductive SeqState where
  | idle | ready | running | waiting | halted | faulted
  deriving DecidableEq, Repr

/-- A range of memory as translated: physical addresses and lengths of its parts (R303). -/
abbrev Seg := List (Nat × Nat)

/-- A receive under way: a chunk of len bytes with tag from the context src goes to dst (no part where nothing is written),
combined with what loc holds by cmb; RXCF forwards it to the context fwd on link lnk (R306, R307). log is where the record log's
entry goes (R314), seq the combine sequence that the log gives in replay mode (R315). -/
structure RxOp where
  dst : Seg
  loc : Seg
  len : Nat
  tag : BitVec 16
  src : Route
  cmb : Option (BitVec 3)
  fwd : Option Route
  log : Seg
  seq : Option Word
  lnk : Nat := 0
  deriving DecidableEq, Repr

/-- What a forwarded chunk still has to do here once all of it is acknowledged (R307, R331): its bytes go to dst, and the sender src of the chunk
that was combined has its acknowledgement. -/
structure StoreDue where
  src : Route
  tag : BitVec 16
  dst : Seg
  data : List Byte
  deriving DecidableEq, Repr

/-- What a waiting context waits for: a READY for its chunk (tx), the credits for the last parts of its chunk, or a route of its link lnk
(flow), or the credits of its presentation (offer), the bytes of a conversion (cvt), the acknowledgement of its chunk (sent), a chunk (rx;
asked: when its READY was sent; refused: it was refused; fwdReady: the forward's READY has been accepted), its turn to combine (replay,
R315), the switch's sum, a flag, a credit, a page (host: its fault was raised in host-assisted mode, R409); done marks a chunk that is
complete; due is what the forward of an RXCF with STO = 1 has still to store. -/
inductive SeqWait where
  | none
  | tx (src : Seg) (len : Nat) (dst : Route) (tag : BitVec 16) (lnk : Nat)
  | flow (data : List Byte) (left : Nat) (dst : Route) (tag : BitVec 16) (lnk : Nat) (due : Option StoreDue)
  | sent (dst : Route) (tag : BitVec 16) (due : Option StoreDue)
  | rx (op : RxOp) (asked : Option DWord) (refused fwdReady : Bool)
  | replay (op : RxOp) (data : List Byte)
  | offer (dst : Seg) (own : List Byte) (n left link : Nat) (desc : DWord)
  | sred (dst : Seg) (own : List Byte) (n : Nat)
  | cvt (dst : Seg) (out : List Byte) (clamp : Bool)
  | flag (addr : Nat) (value : DWord) (ticks : Nat)
  | credit
  | page (va : Nat) (host : Bool)
  | done (due : Option StoreDue)
  deriving DecidableEq, Repr

/-- A context of a link sequencer (R301): its registers and control word, the program range that its launch loaded, the log's
buffer and size (R314), what it waits for since when, the READYs it holds (R306), the cause it faulted with, the
address of that fault, and an abort that has reached it (R333). held marks a context between load and commit, due a step that begins
when the chunk in flight is over (R334). -/
structure SeqCtx where
  pc : BitVec 11
  state : SeqState
  halt : Bool
  step : Bool
  due : Bool
  clamp : Bool
  logm : BitVec 2
  logovf : Bool
  cid : BitVec 28
  logpos : Word
  k : FMap 64
  lo : Nat
  words : Nat
  logbuf : Nat
  logsize : Nat
  wait : SeqWait
  since : DWord
  readys : List ReadyMsg
  cause : Nat
  faultAt : Nat
  abort : Bool
  held : Bool
  deriving DecidableEq, Repr

/-- An idle context at device reset (R335). -/
def SeqCtx.init : SeqCtx :=
  { pc := 0, state := .idle, halt := false, step := false, due := false, clamp := false, logm := 0, logovf := false, cid := 0,
    logpos := 0, k := [], lo := 0, words := 0, logbuf := 0, logsize := 0, wait := .none, since := 0, readys := [],
    cause := 0, faultAt := 0, abort := false, held := false }

/-- A link sequencer (R301, R302): its instruction memory, four contexts, the one that runs, the last that left, the
instructions it has run since a switch point, and its translation buffer. -/
structure Sequencer where
  imem : FMap 64
  ctxs : List SeqCtx
  run : Option Nat
  last : Option Nat
  streak : Nat
  tlb : List TlbEntry
  deriving DecidableEq, Repr

/-- A sequencer at device reset. -/
def Sequencer.init : Sequencer :=
  { imem := [], ctxs := [SeqCtx.init, SeqCtx.init, SeqCtx.init, SeqCtx.init], run := none, last := none, streak := 0,
    tlb := [] }

/-- A collective table entry (R316 to R320): the packet's fields, the contexts of this package, the space, its first fault,
whether its fault record has been written or given up (recorded, writeErr: R320, R331), the combine count of R314, and, at the
origin, the ring entry that started it. -/
structure Collective where
  space : Nat
  pid : BitVec 12
  debug : Bool
  timeout : Nat
  pkgs : List (BitVec 12)
  doneAt : DWord
  faultrec : DWord
  ctxs : List (Nat × Nat)
  started : Bool
  cause : Nat
  recorded : Bool
  writeErr : Bool
  combines : Word
  source : Option (Nat × Nat)
  deriving DecidableEq, Repr

/-! ### Remote writes and links -/

/-- A window table entry (R323). -/
structure Window where
  valid : Bool
  w : Bool
  notify : Bool
  key : Word
  base : DWord
  size : DWord
  pid : BitVec 12
  nqlog : BitVec 5
  nqbase : DWord
  nqcons : DWord
  nqprod : DWord
  deriving DecidableEq, Repr

/-- A window table entry at device reset. -/
def Window.init : Window :=
  { valid := false, w := false, notify := false, key := 0, base := 0, size := 0, pid := 0, nqlog := 0, nqbase := 0,
    nqcons := 0, nqprod := 0 }

/-- A notification that waits for room in its ring (R326): the window, its word, source and kind, the offset, and the write's issuer, to
whom the acknowledgement goes. -/
structure Note where
  win : Nat
  word : Word
  src : BitVec 12
  putk : Bool
  offset : Word
  issuer : PutIssuer
  deriving DecidableEq, Repr

/-- What this package keeps for another package: request and bulk credits (R328), its rate as a fraction, the tick of the last
halving, and the tick from which the present time without an echo counts (R329). -/
structure Peer where
  reqs : Nat
  bulk : Nat
  num : Nat
  den : Nat
  cut : Option DWord
  quiet : DWord
  deriving DecidableEq, Repr

/-- A peer as domain bring-up grants it at a time (R328, R329). -/
def Peer.init (now : DWord) : Peer := { reqs := 8, bulk := 32, num := 1, den := 1, cut := none, quiet := now }

/-- A message as a link carries it: the fields of its header (R327) and its payload. -/
structure WireMsg where
  kind : Byte
  sub : Byte
  pid : BitVec 12
  lane : BitVec 4
  src : BitVec 12
  dst : BitVec 12
  stamp : DWord
  tag : BitVec 16
  sq : BitVec 5
  ctx : BitVec 2
  length : Nat
  addr : DWord
  payload : List Byte
  deriving DecidableEq, Repr

/-- A fabric link (R20, R327): in service, failed while route recovery was host-assisted (R409), the flit sequence expected next, the
sequence that the other end has acknowledged last, the link credits in hand, the sequence of the next flit sent, the flits received whose
credits have not been returned, the bytes of the message stream that no flit has carried yet, link errors counted, where the message
stream stands (the bytes of a header begun, the message whose payload comes, and the payload bytes still to come), and the messages that
have come whole. -/
structure Link where
  up : Bool
  lost : Bool
  seq : BitVec 12
  acked : BitVec 12
  credits : Nat
  txSeq : BitVec 12
  owed : Nat
  out : List Byte
  errors : Nat
  head : List Byte
  cur : Option WireMsg
  body : Nat
  got : List WireMsg
  deriving DecidableEq, Repr

/-- A link that has not been trained. -/
def Link.init : Link :=
  { up := false, lost := false, seq := 0, acked := 0, credits := 0, txSeq := 0, owed := 0, out := [], errors := 0, head := [], cur := none, body := 0
    got := [] }

/-! ### Coherence -/

/-- The requests of R248. -/
inductive CohKind where
  | readShared | readOwn | upgrade | writeBack | cleanEvict | atomic
  deriving DecidableEq, Repr

/-- A lock-die directory entry (R251); an absent entry tracks no die. -/
inductive DirEntry where
  | shared (set : List (BitVec 2))
  | owned (d : BitVec 2) (set : List (BitVec 2))
  deriving DecidableEq, Repr

/-- Why the home waits for answers about a line: a request for it is to be answered (R252), a request needs its directory entry, which is
given up (R253), its region is swept (R257), or the host has written it and nothing more is to be done (R262). -/
inductive GrantRole where
  | answer | back | sweep | silent
  deriving DecidableEq, Repr

/-- What waits at the home for answers to snoops of a line (R252). waits names who must still answer, with the number of sends to each,
since is the tick of the first send, late those of nodes that a snoop went to later (R258), reported tells of fabric error 0x4A (R260),
answer is the response that completion sends. -/
structure Grant where
  line : Nat
  role : GrantRole
  kind : CohKind
  req : CohReq
  waits : List (CohNode × Nat)
  since : DWord
  reported : Bool
  answer : String
  late : List (CohNode × DWord) := []
  deriving DecidableEq, Repr

/-- The tick of the first send to a node. -/
def Grant.startOf (g : Grant) (n : CohNode) : DWord := ((g.late.find? fun e => e.1 == n).map (·.2)).getD g.since

/-- A request of an L2 of this package that has not been answered (R249, R258); taken tells that the home here has accepted it, unsent that
it waits for a credit of its home's package, or for a route there (R328, R409), pay what it brings (R248). -/
structure Mshr where
  die : BitVec 2
  line : Nat
  kind : CohKind
  stamp : Stamp
  sentAt : DWord
  taken : Bool
  unsent : Bool
  pay : Payload := .none
  deriving DecidableEq, Repr

/-- A region of SC device memory (R254); swept: nothing has been granted since its sweep (R257). -/
structure Region where
  shadow : DWord
  tracked : Bool
  switch : BitVec 12
  swept : Bool
  deriving DecidableEq, Repr

/-- A region that nothing has touched (R254). -/
def Region.init : Region := { shadow := 0, tracked := false, switch := 0, swept := false }

/-- The state of the coherence protocol in this package: the lines of the four L2s, their requests, the lock-die directory,
waiting grants, requests that the home has accepted and not served, the regions, the requests of other packages that have been
served with their answers, the regions in a recovery window with its end and the requests collected in it (R258), the packages
declared lost and those whose homes have declared this one lost (R260), the lines that the host may cache (R261), requests of the L2s that
wait for a free tag or for one of the same line (R249, R258), how many frames of each L2 are disabled (R382), and the nodes that hold a line
no more since their last grant of it (R259). -/
structure Coherence where
  l2 : List (KMap LineState)
  mshrs : List Mshr
  dir : KMap DirEntry
  grants : List Grant
  queue : List (CohKind × CohReq)
  regions : KMap Region
  served : List (Stamp × CohKind × String)
  affected : KMap DWord
  collected : List (CohKind × CohReq)
  lost : List (BitVec 12)
  lostBy : List (BitVec 12)
  hostLines : List Nat
  backlog : List (Nat × Nat × CohKind × Payload)
  l2Off : List Nat
  gone : List (Nat × CohNode)
  deriving DecidableEq, Repr

/-- The coherence state at device reset: no line is held, nothing is in flight, every region is untracked. -/
def Coherence.init : Coherence :=
  { l2 := [[], [], [], []], mshrs := [], dir := [], grants := [], queue := [], regions := [], served := [],
    affected := [], collected := [], lost := [], lostBy := [], hostLines := [], backlog := [], l2Off := [0, 0, 0, 0], gone := [] }

/-! ### Rings, controllers, islands -/

/-- A command ring (R412). space is the address space that its record gave (R413). starts holds the entries that have started and
have not completed, each with its index and its 64 bytes, waits the start time of the wait entries among them. -/
structure Ring where
  base : DWord
  log : Nat
  tail : Word
  head : Word
  enabled : Bool
  stopped : Bool
  bad : Bool
  rspace : DWord
  space : Nat
  starts : List (Nat × Nat)
  waits : List (Nat × DWord)
  deriving DecidableEq, Repr

/-- A ring at device reset (R412). -/
def Ring.init : Ring :=
  { base := 0, log := 0, tail := 0, head := 0, enabled := false, stopped := false, bad := false, rspace := 0,
    space := 0, starts := [], waits := [] }

/-- The state of a controller's live replacement (R415). -/
inductive FwState where
  | idle | loaded | handOver | probation | rolledBack | refused
  deriving DecidableEq, Repr

/-- What waits in the input queue of a controller that is being replaced (R415): a report to the host, an entry of the fault record
of a grid with its time and whether it ends a team, a ring to enable, an entry of a ring that has completed (index, state, code and a
write that its collective dropped), a row that has crossed (host: in host-assisted mode, R409), an attestation request with its nonce, a
power limit, frames for a pool, a write of ISLCTL for an island, the report of a link's failure or of a switch's, or routes. -/
inductive Waiting where
  | host (kind : String) (args : List Nat)
  | entry (grid : Nat) (e : FaultEntry) (time : DWord) (ends : Bool)
  | enable (ring : Nat)
  | finish (ring index st code : Nat) (lost : Bool)
  | crossing (r : RowId) (host : Bool)
  | attest (nonce : BitVec 256)
  | power (island : BitVec 6) (mhz : Nat)
  | frames (die : Nat) (l : List (Nat × Nat))
  | island (i : Nat) (step : Option Nat) (gate : Option Bool)
  | linkDown (link : Nat)
  | switchDown (switch : BitVec 12)
  | routes (l : List (Nat × Nat))
  deriving DecidableEq, Repr

/-- A controller (R414, R415): the running image and the other slot's (digest, security version), its state, refusal code,
the tick of the hand-over, the private words of the record, and the live tables as captured (ring heads and tails, pending
grids, routes, credits, rates, the slew, pools, retirement and corrected-error tables), and the events that wait in its input queue. -/
structure Controller where
  running : Option (BitVec 256 × Nat)
  other : Option (BitVec 256 × Nat)
  state : FwState
  code : Nat
  since : DWord
  priv : List Byte
  capture : List Nat
  queue : List Waiting
  deriving DecidableEq, Repr

/-- A controller that runs no image. -/
def Controller.init : Controller :=
  { running := none, other := none, state := .idle, code := 0, since := 0, priv := [], capture := [], queue := [] }

/-- An island (R23, R416): its step, its gate, and its present clock in MHz as the power limits set it (R25). -/
structure Island where
  step : Nat
  gate : Bool
  mhz : Nat
  deriving DecidableEq, Repr

/-- An island at reset: step 0, not gated, at the nominal 940 MHz (R416). -/
def Island.init : Island := { step := 0, gate := false, mhz := 940 }

/-! ### Errors -/

/-- A tracked row of a corrected-error table (R403): the row and its stamps, oldest first. -/
structure EcRow where
  row : RowId
  stamps : List (BitVec 24)
  deriving DecidableEq, Repr

/-- A retirement table entry (R383). -/
structure Retired where
  valid : Bool
  kind : BitVec 3
  spared : Bool
  unit_ : BitVec 16
  row : Word
  deriving DecidableEq, Repr

end Sys2Proof.Machine
end

