-- ==== Sys2Proof/Machine/State.lean ====
section
/-! DEFINITION. The state of the machine: one 9A package, its device memory and the host memory it reaches, with the
turns still to come. -/

namespace Sys2Proof.Machine

/-- What has been sent: reports to the host, the messages of the fabric that this package may itself receive, and others by
kind. -/
inductive OutMsg where
  | hostReport (kind : String) (args : List Nat)
  | ready (m : ReadyMsg)
  | chunk (m : ChunkMsg)
  | nack (m : NackMsg)
  | put (m : PutMsg)
  | putAck (m : PutAckMsg)
  | sred (sq ctx : Nat) (link : Nat) (desc : DWord) (pid : BitVec 12) (data : List Byte)
  | launch (dst : BitVec 12) (m : LaunchMsg)
  | coll (kind : String) (dst : BitVec 12) (cid : BitVec 28) (code : Nat)
  | coh (kind : String) (src dst : CohNode) (line : Nat) (stamp : Stamp) (data : Payload := .none)
  | access (write : Bool) (dst : BitVec 12) (addr n : Nat) (data : List Byte)  -- a read or a write of another package's memory (R327)
  | link (kind : String) (link : Nat) (args : List Nat)
  | wired (link : Nat) (m : OutMsg)  -- a message that has gone into the stream of a link (R327)
  deriving DecidableEq, Repr

/-- What is kept of a message to another package until a link carries it: when it was issued, and the one link it may leave on, if there is
one (R306, R327). -/
structure Issued where
  msg : OutMsg
  time : DWord
  link : Option Nat
  deriving DecidableEq, Repr

/-- What firmware or the host reads beside the registers of BAR0: instruction memory, a K register and the control word of a sequencer's
context (R301), a window table entry (R323), through the debug interface a split table entry, a divergence stack entry and the budget of a
group, and while the group holds a J register of it and the control word of its stack (R337, R339, R357, R400), a counter of a grid
(R405), a format slot of one (R177), a tracked row (R403), a snapshot table entry (R373). -/
inductive Probe where
  | seqWord (sq n : Nat)
  | seqK (sq ctx k : Nat)
  | seqControl (sq ctx : Nat)
  | window (n : Nat)
  | split (group entry : Nat)
  | stack (group n : Nat)
  | rejoin (group n : Nat)
  | stackControl (group : Nat)
  | budget (group : Nat)
  | counter (grid n : Nat)
  | slot (grid n : Nat)
  | row (n : Nat)
  | snapshot (grid n : Nat)
  deriving DecidableEq, Repr

/-- A turn: which agent acts next. The list of turns is an input of the machine: the scheduler's choices (R7, R45 to R49)
and what the outside world does. DESIGN CHOICE (log 1). -/
inductive Turn where
  | issue (group : Nat) (entry : Nat)    -- a stream issues its next instruction (and stays the current one)
  | seq (sq : Nat)                       -- the running context of a link sequencer executes its next instruction
  | event (i : Instr)                    -- an event row of the opcode table
  | ticks (n : Nat)                      -- domain time advances (R401)
  | cycles (core n : Nat)                -- a core's cycle count advances (R121)
  | parked (grid n : Nat)                -- streams of a grid spend cycles parked at a switch marker (R405, counter 4)
  | outside (pa : Nat) (data : List Byte)  -- the host or another package writes memory (R233, R262)
  | setWindow (n : Nat) (w : Window)     -- firmware or the host fills a window table entry (R323)
  | setRoutes (l : List (Nat × Nat))     -- the fabric or the host writes routes (R409): what noRoute then holds
  | addFrames (die : Nat) (l : List (Nat × Nat))  -- firmware gives a first-touch pool frames (R219)
  | withdraw (team : Nat)                -- the dispatcher withdraws a request of its own (R62)
  | both (u e v f : Nat)                 -- two streams issue their next instructions in one cycle (R384)
  | engine (eng : EngineId) (n : Nat)    -- a copy or collective engine works on at most n elements of its head operation (R242)
  | walkAhead (eng : EngineId) (n : Nat) -- a walk-ahead TLB walks for the n-th element after its engine's (R201)
  | hostRead (off : Nat)                 -- the host reads a register at an offset of BAR0 (R410, R412)
  | nameImage (img : Image)              -- the host names an image through the mailbox (R414, R415)
  | setMinver (v : Nat)                  -- the host writes MINVER (R414)
  | read (p : Probe)                     -- firmware or the host reads a state item (R6)
  | crossing (r : RowId) (host : Bool)   -- a crossing that waited for the memory controller is served (R382, R409, R415)
  | switchDown (n : BitVec 12)           -- a switch failure that waited for the fabric controller is served (R258, R415)
  | serve (n : Nat)                      -- controller n serves the rest of its input queue (R415)
  | imageStarts (n : Nat)                -- a controller's new image starts from the hand-over record (R415)
  | pack (link : Nat) (m : OutMsg)       -- a message goes into the stream of a link,
  | sendFlit (link : Nat)                -- a flit of that stream leaves,
  | deliver (link : Nat)                 -- and a message that a link has received is handed on (R327)
  | setK (sq ctx k : Nat) (v : DWord)    -- firmware or the host writes a halted context's registers, pc, or
  | setSeqPc (sq ctx : Nat) (pc : BitVec 11)      -- instruction memory (R301, R334)
  | setSeqWord (sq n : Nat) (w : DWord)
  | setSwitches (l : List Nat)           -- the links that lead to no vendor switch (R310)
  | inputFill (high : Bool)              -- the input buffers are more than half full, or no more (R329)
  | refusedBy (home : BitVec 12)         -- a home has declared this package lost: its answers are refusals (R260)
  deriving DecidableEq, Repr

/-- The bytes of device and host memory by physical address (R191), in canonical form: rising addresses, no zero byte
listed. DESIGN CHOICE (log 4). -/
abbrev Memory := List Host.Cell

/-- The management registers that hold a value of their own (R410), MINVER (R414), and the image that the host has named (R415). -/
structure Mgmt where
  fnmode : BitVec 5
  ecthr : Nat
  ecwin : Nat
  fabmode : BitVec 2
  hnote : Word
  fwsel : Nat
  alivedl : Nat
  islsel : Nat
  retidx : Nat
  dbgctl : Word
  minver : Nat
  image : Option Image
  deriving DecidableEq, Repr

/-- The machine's state: the turns to come and the environment (agenda, pkgs: the packages present, denied: the host addresses that the
host refuses, R191, slew: the domain time of the last correction by the fabric, none before bring-up, R401, noRoute: the links and the
packages to which they have no route, R306, hostRoutes: those of noRoute that went while route recovery was host-assisted, R409, noSwitch:
the links that lead to no vendor switch, R310, inHigh: the fabric's input buffers are more than half full, R329), the package, and what
the model needs of its own (freeCtr, uidCtr, opCtr, order counters; issued: what it keeps of messages that wait for a link). cur is the
stream that issues, curSeq the sequencer that executes. pools holds each die's first-touch pool as frames of base and size (R219), poison
the poisoned lines with their detail (R372), behind, by address, the writes of engines and link sequencers that some stream may not have
seen, the newest first (R242, R336), badSlots the accumulator slots that are or will be retired (R382). -/
structure State where
  agenda : List Turn
  cur : Option (Nat × Nat)
  curSeq : Option Nat
  freeCtr : Nat
  outbox : List OutMsg
  issued : List Issued
  dtime : DWord
  slew : Option DWord
  pkg : BitVec 12
  pkgs : List (BitVec 12)
  denied : List (Nat × Nat)
  noRoute : List (Nat × Nat)
  hostRoutes : List (Nat × Nat)
  noSwitch : List Nat
  inHigh : Bool
  mem : Memory
  behind : KMap (List Unseen)
  poison : KMap Nat
  mgmt : Mgmt
  pools : List (List (Nat × Nat))
  grids : KMap Grid
  gridCtr : Nat
  teams : KMap Team
  groups : KMap Group
  uidCtr : Nat
  spaces : KMap Space
  cores : KMap Core
  routeq : List (List EngOp)
  opCtr : Nat
  coh : Coherence
  seqs : List Sequencer
  colls : KMap Collective
  collCtr : Nat
  windows : KMap Window
  notes : List Note
  peers : KMap Peer
  links : List Link
  protErrs : Nat
  rings : KMap Ring
  ctls : List Controller
  islands : List Island
  retired : KMap Retired
  ec : List EcRow
  badSlots : List (Nat × Nat)
  deriving DecidableEq, Repr

/-- The state right after device reset of a part that has just been powered: every field as the spec gives it at reset, no
turn to come and nothing listed in memory (R135, R224, R299, R335, R403, R410, R412, R416). DESIGN CHOICE (log 3). -/
def State.reset : State :=
  { agenda := []
    cur := none
    curSeq := none
    freeCtr := 0
    outbox := []
    issued := []
    dtime := 0
    slew := none
    pkg := 0
    pkgs := [0]
    denied := []
    noRoute := []
    hostRoutes := []
    noSwitch := []
    inHigh := false
    mem := []
    behind := []
    poison := []
    mgmt := { fnmode := 0, ecthr := 4, ecwin := 65536, fabmode := 0, hnote := 0, fwsel := 0, alivedl := 96, islsel := 0,
              retidx := 0, dbgctl := 0, minver := 0, image := none }
    pools := [[], [], [], []]
    grids := []
    gridCtr := 0
    teams := []
    groups := []
    uidCtr := 1
    spaces := []
    cores := []
    routeq := [[], [], [], []]
    opCtr := 0
    coh := Coherence.init
    seqs := List.replicate 24 Sequencer.init
    colls := []
    collCtr := 0
    windows := []
    notes := []
    peers := []
    links := List.replicate 24 Link.init
    protErrs := 0
    rings := []
    ctls := List.replicate 8 Controller.init
    islands := List.replicate 64 Island.init
    retired := []
    ec := []
    badSlots := [] }

/-- Why the machine stops with a fault: it never does. Every fault of the spec is a next state, with its record, its message or the
trap it enters. -/
inductive Fault where
  deriving DecidableEq, Repr

/-- Why an instruction has no meaning. -/
inductive Refusal where
  /-- Raised by the dispatcher for an instruction without a meaning in this model. Safe. -/
  | notModelled (mnemonic : String)
  deriving DecidableEq, Repr

end Sys2Proof.Machine
end

