-- ==== Sys2Proof/Machine/Mem.lean ====
section
/-! DEFINITION. Memory: bytes, translation (R190 to R201), the checks of an access (R191, R200, R205), the caches that a
program can see (R95, R212, R215), snapshots (R373) and the held writes of paired execution (R377, R378). -/

namespace Sys2Proof.Machine

/-- The canonical form of a memory: addresses strictly rising, no entry equal to the zero that an unlisted address reads
as. -/
def Memory.wf (m : Memory) : Bool := fwf m

/-- A little-endian number from its bytes. -/
def ofBytes : List Byte → Nat
  | [] => 0
  | b :: l => b.toNat + 256 * ofBytes l

/-- The n low bytes of a number, little-endian. -/
def toBytes : Nat → Nat → List Byte
  | 0, _ => []
  | n + 1, v => BitVec.ofNat 8 v :: toBytes n (v / 256)

/-- The n bytes of a memory from address a. -/
def readList (m : FMap 8) : Nat → Nat → List Byte
  | _, 0 => []
  | a, n + 1 => fget m a :: readList m (a + 1) n

/-- The bytes of l stored from address a. -/
def writeList (m : FMap 8) : Nat → List Byte → FMap 8
  | _, [] => m
  | a, b :: l => writeList (fset m a b) (a + 1) l

/-- An n-byte little-endian value at address a. -/
def readN (m : FMap 8) (a n : Nat) : Nat := ofBytes (readList m a n)

/-- The n low bytes of v stored at address a. -/
def writeN (m : FMap 8) (a n v : Nat) : FMap 8 := writeList m a (toBytes n v)

/-- The part of a memory in the 128-byte line that holds a. -/
def lineOf (m : FMap 8) (a : Nat) : FMap 8 :=
  m.filter fun c => decide (c.1 / 128 = a / 128)

/-- A free choice among n alternatives (R7), and the state with its counter advanced. DESIGN CHOICE (log 6). -/
def pick (s : State) (n : Nat) : Nat × State := (Config.free s.freeCtr % n, { s with freeCtr := s.freeCtr + 1 })

/-- A permutation of l by the Lehmer code k: every order is reached by some k. -/
def permute {α : Type} : Nat → Nat → List α → List α
  | 0, _, l => l
  | fuel + 1, k, l =>
    match l[k % l.length]? with
    | none => l
    | some x => x :: permute fuel (k / l.length) (l.eraseIdx (k % l.length))

/-! ### Addresses and cores -/

/-- R190: bits [63:57] all equal bit [56]. -/
def canonical (a : Nat) : Bool := decide (a < 2 ^ 56 ∨ 2 ^ 64 - 2 ^ 56 ≤ a)

/-- R190: the address lies in grid space: canonical and not in firmware space. -/
def inGridSpace (a : Nat) : Bool := decide (a < 2 ^ 56)

/-- The number of cores (R17). -/
def coreCount : Nat := 768

/-- The compute die of a core (192 cores each, R17). -/
def dieOfCore (c : Nat) : Nat := c / 192

/-- R191: the target of a physical address. -/
def paTarget (pa : Nat) : Nat := pa / 2 ^ 40

/-- R192: the HBM4 stack that holds a device address of a package, and the address within that stack. -/
def stackOf (pa : Nat) : Nat := pa % 2 ^ 40 / 4096 % 12
def stackAddr (pa : Nat) : Nat := pa % 2 ^ 40 / 49152 * 4096 + pa % 2 ^ 40 % 4096

/-- The offset of a place in the stacks: what R192 interleaves. -/
def offsetAt (stack addr : Nat) : Nat := (addr / 4096 * 12 + stack) * 4096 + addr % 4096

/-- R192: the die that homes a device address of a package. -/
def homeDie (pa : Nat) : Nat := stackOf pa / 3

/-- A core's state; a core that nothing has touched is as reset leaves it. -/
def coreAt (s : State) (c : Nat) : Core := (kget s.cores c).getD Core.init

/-- s with core c replaced. -/
def setCore (s : State) (c : Nat) (k : Core) : State := { s with cores := kset s.cores c k }

/-- s with core c changed by f. -/
def modCore (s : State) (c : Nat) (f : Core → Core) : State := setCore s c (f (coreAt s c))

/-! ### Page tables (R197 to R199) -/

/-- A level of the table: the low VA bit it indexes, the number of index bits, whether a leaf may stand there. -/
structure Level where
  shift : Nat
  bits : Nat
  leafOk : Bool
  deriving DecidableEq, Repr

/-- The five levels (R197). -/
def levels : List Level :=
  [⟨47, 10, false⟩, ⟨38, 9, false⟩, ⟨29, 9, true⟩, ⟨21, 8, true⟩, ⟨16, 5, true⟩]

/-- Where a walk ends: at a leaf, at an entry with V = 0 (R199: a page fault; first is a well-formed first-touch entry),
or at an ill-formed entry; each with the entry's address, and the page's base, size and entry. -/
inductive Walk where
  | leaf (at_ : Nat) (e : DWord) (base size : Nat)
  | invalid (at_ : Nat) (e : DWord) (base size : Nat) (first : Bool)
  | bad (at_ base : Nat)
  deriving DecidableEq, Repr

/-- The bits x[hi:lo] of an entry. -/
def bitsOf (e lo n : Nat) : Nat := e / 2 ^ lo % 2 ^ n

/-- The walk (R197 to R199) from the table at t. One that stops at level 0 or 1 names 64 KiB (R217). -/
def walkFrom (m : Memory) (va : Nat) : List Level → Nat → Walk
  | [], t => .bad t (va / 65536 * 65536)
  | l :: ls, t =>
    let a := t + 8 * bitsOf va l.shift l.bits
    let e := readN m a 8
    let w := BitVec.ofNat 64 e
    let size := if l.leafOk then 2 ^ l.shift else 65536
    let base := va / size * size
    let leafBit := bitsOf e 1 1 = 1
    if bitsOf e 0 1 = 0 then
      if bitsOf e 7 1 = 0 then .invalid a w base size false
      else if bitsOf e 9 7 ≠ 0 ∨ bitsOf e 52 12 ≠ 0 ∨ ¬ l.leafOk ∨ ¬ leafBit ∨ bitsOf e 5 2 = 3 then .bad a base
      else .invalid a w base size true
    else if leafBit then
      if ¬ l.leafOk ∨ bitsOf e 9 7 ≠ 0 ∨ bitsOf e 52 12 ≠ 0 ∨ bitsOf e 5 2 = 3 ∨ bitsOf e 7 1 = 1
          ∨ bitsOf e 16 36 % (2 ^ l.shift / 65536) ≠ 0 then .bad a base
      else .leaf a w base size
    else if ls.isEmpty ∨ bitsOf e 2 6 ≠ 0 ∨ bitsOf e 52 12 ≠ 0 then .bad a base
    else walkFrom m va ls (bitsOf e 8 44 * 256)

/-- The walk of a space's tables; a space that is not there has no valid entry. -/
def walkSpace (s : State) (space va : Nat) : Walk :=
  match kget s.spaces space with
  | some sp => walkFrom s.mem va levels sp.root
  | none => .bad 0 (va / 65536 * 65536)

/-- The leaf fields (R198). -/
def leafR (e : DWord) : Bool := e.getLsbD 2
def leafW (e : DWord) : Bool := e.getLsbD 3
def leafX (e : DWord) : Bool := e.getLsbD 4
def leafCls (e : DWord) : Nat := (e.extractLsb' 5 2).toNat
def leafBfsr (e : DWord) : Bool := e.getLsbD 8
def leafFrame (e : DWord) : Nat := (e.extractLsb' 16 36).toNat * 65536

/-- The cached translation of va in a TLB. -/
def tlbFind (l : List TlbEntry) (space va : Nat) : Option TlbEntry :=
  l.find? fun t => decide (t.space = space ∧ t.base ≤ va ∧ va < t.base + t.size)

/-- A TLB entry is put in; a full TLB loses one of its entries, the k-th (R201). -/
def tlbInsert (cap : Nat) (l : List TlbEntry) (k : Nat) (t : TlbEntry) : List TlbEntry :=
  if l.length < cap then t :: l else t :: l.eraseIdx (k % l.length)

/-- Look va up in a TLB of cap entries whose tables answer w: the walk used, whether it hit, the TLB after it. old is the TLB as the
instruction found it: a cached entry that differs from the table's is used by each access either as it was or as it is (R199, R225). -/
def tlbLookup (cap : Nat) (old tlb : List TlbEntry) (space va : Nat) (w : Walk) (s : State) :
    Walk × Bool × List TlbEntry × State :=
  let fill (l : List TlbEntry) (s : State) : List TlbEntry × State :=
    match w with
    | .leaf _ e base size =>
      if l.length < cap then (tlbInsert cap l 0 ⟨space, base, size, e⟩, s)
      else let (v, s) := pick s cap; (tlbInsert cap l v ⟨space, base, size, e⟩, s)
    | _ => (l, s)
  let same (t : TlbEntry) : Bool := match w with
    | .leaf _ e base size => decide (e = t.leaf ∧ base = t.base ∧ size = t.size)
    | _ => false
  let now (s : State) : Walk × Bool × List TlbEntry × State :=
    if (tlbFind tlb space va).any same then (w, true, tlb, s)
    else let (l, s) := fill (tlb.filter fun t => !(tlbFind tlb space va == some t)) s; (w, false, l, s)
  match (tlbFind old space va).or (tlbFind tlb space va) with
  | none => now s
  | some t =>
    if same t then now s
    else let (c, s) := pick s 2; if c = 0 then (.leaf 0 t.leaf t.base t.size, true, tlb, s) else now s

/-- The TLB of a core (ahead: the walk-ahead TLB, R201). -/
def tlbOf (s : State) (core : Nat) (ahead : Bool) : List TlbEntry :=
  if ahead then (coreAt s core).wtlb else (coreAt s core).tlb

/-- Translate va for a core, for an access of an instruction that has found the TLB as old. -/
def translateFrom (old : List TlbEntry) (s : State) (core : Nat) (ahead : Bool) (space va : Nat) : Walk × Bool × State :=
  let (w, hit, l, s) := tlbLookup (if ahead then 512 else 2048) old (tlbOf s core ahead) space va (walkSpace s space va) s
  (w, hit, if hit then s else modCore s core fun k => if ahead then { k with wtlb := l } else { k with tlb := l })

/-- Translate va for a core. -/
def translate (s : State) (core : Nat) (ahead : Bool) (space va : Nat) : Walk × Bool × State :=
  translateFrom (tlbOf s core ahead) s core ahead space va

/-! ### The checks of an access (R191, R200, R205) -/

/-- What an access needs of a page. -/
structure Need where
  r : Bool
  w : Bool
  x : Bool
  scope : Option Nat        -- the scope it names, if it names one (R200)
  atom : Option Nat         -- the operation of an atomic
  deriving DecidableEq, Repr

/-- R200: whether the class of a leaf admits an access from a die of this package to physical address pa. -/
def classOk (pkg : BitVec 12) (die : Option Nat) (cls pa : Nat) (n : Need) : Bool :=
  let own := decide (paTarget pa = pkg.toNat)
  match cls with
  | 0 => own && decide (die = some (homeDie pa)) && decide (n.scope.all (3 ≤ ·))
  | 1 => own && decide (n.scope.all (2 ≤ ·))
  | _ => decide (paTarget pa ≤ 0xFFE)
           && (decide (paTarget pa < 0x900) || decide (n.atom.all (· < 8)))

/-- The outcome of checking one address. -/
inductive AddrCheck where
  | ok (pa : Nat) (leaf : DWord)
  | access (detail : Nat)
  | page (base : Nat)
  deriving DecidableEq, Repr

/-- R205, orders 3 to 5, on a translated address. -/
def checkWalk (pkg : BitVec 12) (die : Option Nat) (va : Nat) (n : Need) (w : Walk) : AddrCheck :=
  match w with
  | .bad _ _ => .access 1
  | .invalid _ _ base _ _ => .page base
  | .leaf _ e base _ =>
    let pa := leafFrame e + (va - base)
    if (n.r && !leafR e) || (n.w && !leafW e) || (n.x && !leafX e) then .access 2
    else if !classOk pkg die (leafCls e) pa n then .access 3
    else .ok pa e

/-- R191: the target refuses the access: an unbacked offset, an absent package, one declared lost or one that has declared this
package lost (R260), host memory that is not granted. -/
def targetRefuses (s : State) (pa : Nat) : Bool :=
  let t := paTarget pa
  if t < 0x900 then
    decide (0xC000000000 ≤ pa % 2 ^ 40) || !(s.pkgs.contains (BitVec.ofNat 12 t)) || s.coh.lost.contains (BitVec.ofNat 12 t)
      || s.coh.lostBy.contains (BitVec.ofNat 12 t)
  else s.denied.any fun d => decide (d.1 ≤ pa ∧ pa < d.1 + d.2)

/-- The outcome of checking the accesses of an instruction: their physical addresses and leaves in order, a fault with its
cause, detail and address, or a page fault with the keys that found V = 0 and the first page. -/
inductive Checked where
  | ok (l : List (Nat × DWord))
  | fault (cause detail : Nat) (addr : Nat)
  | page (keys : List Nat) (base : Nat)
  deriving DecidableEq, Repr

/-- Translate and check each (key, address) of an instruction that has found the TLB as old. -/
def checkFrom (old : List TlbEntry) (core space : Nat) (ahead : Bool) (n : Need) :
    State → List (Nat × Nat) → List (Nat × Nat × AddrCheck) × Nat × State
  | s, [] => ([], 0, s)
  | s, (k, va) :: l =>
    let (c, miss, s) :=
      if !inGridSpace va then (AddrCheck.access 0, 0, s)
      else
        let (w, hit, s) := translateFrom old s core ahead space va
        (checkWalk s.pkg (some (dieOfCore core)) va n w, if hit then 0 else 1, s)
    let (r, m, s) := checkFrom old core space ahead n s l
    ((k, va, c) :: r, miss + m, s)

/-- Translate and check each (key, address): the accesses of one instruction are unordered, and each may use a cached translation as the
instruction found it (R9, R199). -/
def checkEach (core space : Nat) (ahead : Bool) (n : Need) (s : State) (l : List (Nat × Nat)) :
    List (Nat × Nat × AddrCheck) × Nat × State := checkFrom (tlbOf s core ahead) core space ahead n s l

/-- The first access fault of detail d. The row of R205's order 4 names details 1, 2 and 3 together: that the lowest of them wins is the
model's. DESIGN CHOICE (log 69). -/
def firstAccess (d : Nat) (l : List (Nat × Nat × AddrCheck)) : Option Nat :=
  (l.find? fun e => decide (e.2.2 = .access d)).map (·.2.1)

/-- R205: the first fault of the order that any access has; l pairs a lane or slice with its address, ascending. The
counts of TLB misses is returned beside (R405). DEDUCED (log 39). -/
def checkAccesses (s : State) (core space : Nat) (ahead : Bool) (n : Need) (align : Nat) (l : List (Nat × Nat)) :
    Checked × Nat × State :=
  match l.find? fun e => decide (e.2 % align ≠ 0) with
  | some e => (.fault 0x20 0 e.2, 0, s)
  | none =>
    let (r, miss, s) := checkEach core space ahead n s l
    match firstAccess 0 r, firstAccess 1 r, firstAccess 2 r, firstAccess 3 r with
    | some a, _, _, _ => (.fault 0x22 0 a, miss, s)
    | _, some a, _, _ => (.fault 0x22 1 a, miss, s)
    | _, _, some a, _ => (.fault 0x22 2 a, miss, s)
    | _, _, _, some a => (.fault 0x22 3 a, miss, s)
    | _, _, _, _ =>
      let pages := r.filterMap fun e => match e.2.2 with
        | .page b => some (e.1, b)
        | _ => none
      match pages with
      | p :: _ => (.page (pages.map (·.1)) p.2, miss, s)
      | [] => (.ok (r.filterMap fun e => match e.2.2 with
          | .ok pa leaf => some (pa, leaf)
          | _ => none), miss, s)

/-! ### Snapshots (R373, R374) -/

/-- s with grid h changed by f. -/
def modGrid (s : State) (h : Nat) (f : Grid → Grid) : State := { s with grids := kmod s.grids h f }

/-- The grid that heads the snapshot set of h, when its launch is replayable (R373). -/
def snapRoot (s : State) (h : Nat) : Option (Nat × Grid) :=
  match kget s.grids h with
  | none => none
  | some g =>
    match kget s.grids g.root.toNat with
    | some r => if r.launch.replayable then some (g.root.toNat, r) else none
    | none => none

/-- Copy the granule gran of memory to the granule dst: 64 KiB (R373). -/
def copyGranule (m : Memory) (gran dst : Nat) : Memory :=
  let src := m.filter fun c => decide (c.1 / 65536 = gran)
  fsetAll (fclear m (dst * 65536) 65536) (src.map fun c => (c.1 - gran * 65536 + dst * 65536, c.2))

/-- The poison of a granule goes with its copy (R372): 512 lines each. -/
def copyPoison (m : KMap Nat) (gran dst : Nat) : KMap Nat :=
  let src := m.filter fun c => decide (c.1 / 512 = gran)
  (src.map fun c => (c.1 - gran * 512 + dst * 512, c.2)).foldl (fun m c => kset m c.1 c.2)
    (m.filter fun c => decide (c.1 / 512 ≠ dst))

/-- s with the granule gran copied to the granule dst. -/
def copyGranuleOf (s : State) (gran dst : Nat) : State :=
  { s with mem := copyGranule s.mem gran dst, poison := copyPoison s.poison gran dst }

/-- R374: a grid's snapshot set becomes non-replayable. -/
def markNonReplay (s : State) (h : Nat) : State :=
  match snapRoot s h with
  | some (r, _) => modGrid s r fun g => { g with nonReplay := true }
  | none => s

/-- What happens before a write of grid h to pa: the first write to a granule copies it; a write outside the package, or
one that finds no free copy, makes the set non-replayable (R373, R374). The flag tells of an entry 0x4B. -/
def snapshot (s : State) (h pa : Nat) : Bool × State :=
  match snapRoot s h with
  | none => (false, s)
  | some (r, g) =>
    let gran := pa / 65536
    if paTarget pa ≠ s.pkg.toNat then (false, markNonReplay s h)
    else if g.nonReplay ∨ g.snaps.any (fun x => decide (x.gran = gran)) then (false, s)
    else
      match (kget s.spaces g.space).map (·.snapFree) with
      | some (f :: fs) =>
        let s := copyGranuleOf { s with spaces := kmod s.spaces g.space fun sp => { sp with snapFree := fs } } gran f
        (false, modGrid s r fun g => { g with snaps := g.snaps ++ [⟨gran, f⟩] })
      | _ => (true, markNonReplay s h)

/-! ### The L2s of this package (R247 to R249) -/

/-- What a group's or an engine's access is to the L2 of its die (R249). -/
inductive L2Event where
  | load | store | atomic
  deriving DecidableEq, Repr

/-- The state of a line in a die's L2. -/
def l2At (s : State) (die line : Nat) : LineState := (kget (s.coh.l2.getD die []) line).getD .inv

/-- s with the state of a line in a die's L2 set. -/
def setL2 (s : State) (die line : Nat) (st : LineState) : State :=
  { s with coh := { s.coh with l2 := lmod s.coh.l2 die fun m => if st = .inv then kdel m line else kset m line st } }

/-- A line of this package's own device memory. -/
def ownLine (s : State) (line : Nat) : Bool := decide (paTarget (line * 128) = s.pkg.toNat)

/-- The home of a line: a package, or the host. -/
def homeNode (line : Nat) : CohNode :=
  if paTarget (line * 128) < 0x900 then .pkg (BitVec.ofNat 12 (paTarget (line * 128))) else .host

/-- The region of a line, and its record (R254). -/
def regionOf (line : Nat) : Nat := line / 32
def regionAt (s : State) (r : Nat) : Region := (kget s.coh.regions r).getD Region.init

/-- The home L2 of a line may take it with no message: no other die, no other package and no host cache may hold it, and no answer is due
for it. -/
def homeFree (s : State) (line : Nat) : Bool :=
  (kget s.coh.dir line).isNone && decide ((regionAt s (regionOf line)).shadow = 0) && !s.coh.hostLines.contains line
    && !s.coh.grants.any fun g => decide (g.line = line)

/-- The name of a request (R248). -/
def CohKind.name (k : CohKind) : String :=
  match k with
  | .readShared => "ReadShared" | .readOwn => "ReadOwn" | .upgrade => "Upgrade" | .writeBack => "WriteBack"
  | .cleanEvict => "CleanEvict" | .atomic => "AtomicAtHome"

/-- The name of a request for a line: for one of host memory that of CXL.cache (R261). -/
def requestName (line : Nat) (k : CohKind) : String :=
  match homeNode line, k with
  | .host, .readShared => "RdShared"
  | .host, .readOwn | .host, .upgrade | .host, .atomic => "RdOwn"
  | .host, .writeBack => "DirtyEvict"
  | .host, .cleanEvict => "CleanEvict"
  | _, k => k.name

/-! ### Credits and routes (R306, R328, R329) -/

/-- Whether a package is this one or another of the domain, and has not been declared lost (R191, R260). -/
def present (s : State) (p : BitVec 12) : Bool := (p == s.pkg || s.pkgs.contains p) && !s.coh.lost.contains p

/-- A link leads to a package (R306): it is up, the package is present and not lost, and the fabric has a route there.
DESIGN CHOICE (log 41). -/
def linkReaches (s : State) (lnk : Nat) (p : BitVec 12) : Bool :=
  (s.links.getD lnk Link.init).up && present s p && !s.noRoute.contains (lnk, p.toNat)

/-- A link leads to a package no more since a failure that was raised while route recovery was host-assisted (R409). -/
def failedInHostMode (s : State) (lnk : Nat) (p : BitVec 12) : Bool :=
  let l := s.links.getD lnk Link.init
  if l.up then s.hostRoutes.contains (lnk, p.toNat) else l.lost

/-- A request on some links to a package waits for a new route: none of them leads there, and the host has been told of a failure (R409). -/
def routeAwaited (s : State) (links : List Nat) (p : BitVec 12) : Bool :=
  present s p && !links.any (fun l => linkReaches s l p) && links.any fun l => failedInHostMode s l p

/-- The same on every link, for another package. -/
def packageAwaited (s : State) (p : BitVec 12) : Bool := p != s.pkg && routeAwaited s (List.range 24) p

/-- The same for an access to a physical address. -/
def accessAwaited (s : State) (pa : Nat) : Bool := decide (paTarget pa < 0x900) && packageAwaited s (BitVec.ofNat 12 (paTarget pa))

/-- Whether the domain runs in mark mode (R329, R410). -/
def markMode (s : State) : Bool := s.mgmt.fabmode.getLsbD 0

/-- Where the credits of a grantor are kept. -/
def grantorKey : Grantor → Nat
  | .pkg p => p.toNat
  | .switch n => 4096 + n.toNat

/-- Whether a message to a grantor needs no credit: a package needs none for itself, in mark mode, or for a package that is absent
(R328, R329). -/
def creditFree (s : State) (g : Grantor) : Bool :=
  markMode s || (match g with
    | .pkg p => p == s.pkg || !present s p
    | .switch _ => false)

/-- A request credit of package p is taken, and the routes are there: none while it must wait (R328, R409). -/
def takeRequest (s : State) (p : BitVec 12) : Option State :=
  if packageAwaited s p then none
  else if creditFree s (.pkg p) then some s
  else
    match kget s.peers p.toNat with
    | some q => if q.reqs = 0 then none else some { s with peers := kset s.peers p.toNat { q with reqs := q.reqs - 1 } }
    | none => none

/-- A message that a link may carry to another package (R327): a coherence message has its stamp itself. -/
def OutMsg.leaves (m : OutMsg) (p : BitVec 12) : Bool :=
  match m with
  | .ready m => m.dst.pkg != p
  | .chunk m => m.dst.pkg != p
  | .nack m => m.dst.pkg != p
  | .put m => m.dst != p
  | .putAck m => m.dst != p
  | .launch d _ => d != p
  | .coll k d _ _ => d != p && ["abort", "answer", "commit", "cancel"].contains k
  | .sred .. | .access .. => true
  | .hostReport .. | .coh .. | .link .. | .wired .. => false

/-- A message leaves, on one link only where there is one. -/
def emitOn (s : State) (link : Option Nat) (m : OutMsg) : State :=
  { s with outbox := m :: s.outbox
           issued := if m.leaves s.pkg then { msg := m, time := s.dtime, link := link } :: s.issued else s.issued }

/-- A message leaves the package. -/
def emit (s : State) (m : OutMsg) : State := emitOn s none m

/-- An access of the lock die to another package's memory is a message to it for each 256 bytes (R327); one to this package's or the host's is
none. -/
def tellAccess (s : State) (write : Bool) (pa n : Nat) (l : List Byte) : State :=
  if paTarget pa < 0x900 ∧ paTarget pa ≠ s.pkg.toNat then
    (List.range ((n + 255) / 256)).foldl (fun s i =>
      emit s (.access write (BitVec.ofNat 12 (paTarget pa)) (pa + 256 * i) (min 256 (n - 256 * i)) ((l.drop (256 * i)).take 256))) s
  else s

/-- A request for a line goes to its home, unless that is here; one for another package's takes a credit. -/
def tryRequest (s : State) (die : BitVec 2) (line : Nat) (kind : CohKind) (stamp : Stamp) (pay : Payload) : Option State :=
  let go (s : State) : State :=
    { s with outbox := .coh (requestName line kind) (.die die) (homeNode line) line stamp pay :: s.outbox }
  if ownLine s line then some s
  else
    match homeNode line with
    | .pkg p => (takeRequest s p).map go
    | _ => some (go s)

/-- The least tag below 4,096 that no request in flight carries. -/
def freeTag (s : State) : Option Nat :=
  (List.range 4096).find? fun n => !s.coh.mshrs.any fun m => decide (m.stamp.tag.toNat = n)

/-- An L2 has a request for a line in flight. -/
def inFlightAt (s : State) (die line : Nat) : Bool := s.coh.mshrs.any fun m => decide (m.die.toNat = die ∧ m.line = line)

/-- What waits of an L2's requests for a line. -/
def waitingAt (s : State) (die line : Nat) : List (Nat × Nat × CohKind × Payload) :=
  s.coh.backlog.filter fun e => decide (e.1 = die ∧ e.2.1 = line)

/-- A request for a line waits behind those that already wait; the last of them covers another of its kind, but for an atomic. -/
def waitRequest (s : State) (e : Nat × Nat × CohKind × Payload) : State :=
  if e.2.2.1 ≠ .atomic ∧ (waitingAt s e.1 e.2.1).getLast? = some e then s
  else { s with coh := { s.coh with backlog := s.coh.backlog ++ [e] } }

/-- A request takes its tag, and goes where it can. -/
def issueRequest (s : State) (die line tag : Nat) (kind : CohKind) (pay : Payload) : State :=
  let st : Stamp := { time := s.dtime, pkg := s.pkg, tag := BitVec.ofNat 12 tag }
  let d := BitVec.ofNat 2 die
  let sent := tryRequest s d line kind st pay
  let m : Mshr :=
    { die := d, line := line, kind := kind, stamp := st, sentAt := s.dtime, taken := false, unsent := sent.isNone, pay := pay }
  let s := sent.getD s
  { s with coh := { s.coh with mshrs := s.coh.mshrs ++ [m] } }

/-- An L2 sends a request, unless the same one is in flight, which covers it. It has one request of a line in flight at a time (R249): another
waits for that one's answer, and with no free tag, for a tag; one with no credit waits for that. -/
def cohRequest (s : State) (die line : Nat) (kind : CohKind) (pay : Payload := .none) : State :=
  if !(waitingAt s die line).isEmpty then waitRequest s (die, line, kind, pay)
  else if inFlightAt s die line then
    if kind ≠ .atomic ∧ s.coh.mshrs.any (fun m => decide (m.die.toNat = die ∧ m.line = line ∧ m.kind = kind)) then s
    else waitRequest s (die, line, kind, pay)
  else
    match freeTag s with
    | none => waitRequest s (die, line, kind, pay)
    | some tag => issueRequest s die line tag kind pay

/-- A request that is in flight is sent, or sent again: with no credit or no route it waits (R328, R409). -/
def sendReq (s : State) (m : Mshr) : State :=
  let sent := tryRequest s m.die m.line m.kind m.stamp m.pay
  let s := sent.getD s
  { s with coh := { s.coh with mshrs := s.coh.mshrs.map fun x => if x = m then { m with unsent := sent.isNone } else x } }

/-- The requests that wait for a credit or a route are tried again, in the order of their issue. -/
def retryUnsent (s : State) : State := (s.coh.mshrs.filter (·.unsent)).foldl sendReq s

/-- A line leaves the L2 of a die (R249): a home line goes to its memory with no message. -/
def l2Evict (s : State) (die line : Nat) : State :=
  let st := l2At s die line
  let t := setL2 s die line .inv
  if ownLine s line && decide (die = homeDie (line * 128)) then t
  else cohRequest t die line (if st = .owned ∨ st = .modified then .writeBack else .cleanEvict)

/-- The lines that the L2 of a die holds: 64 MiB (R14, R17). -/
def l2Lines : Nat := 524288

/-- A line enters the L2 of a die, or changes its state there; a full L2 loses one of its lines, whichever. -/
def l2Put (s : State) (die line : Nat) (st : LineState) : State :=
  let m := s.coh.l2.getD die []
  if st = .inv ∨ (kget m line).isSome ∨ m.length + s.coh.l2Off.getD die 0 < l2Lines then setL2 s die line st
  else
    let (k, s) := pick s m.length
    setL2 (l2Evict s die (((m[k]?).map (·.1)).getD 0)) die line st

/-- A read of a host line that no L2 is to keep (R261). -/
def readCurrent (s : State) (die line : Nat) : State :=
  let st : Stamp := { time := s.dtime, pkg := s.pkg, tag := 0 }
  { s with outbox := .coh "RdCurr" (.die (BitVec.ofNat 2 die)) .host line st :: s.outbox }

/-- A line of its own is the home L2's at once where it is free; else an L2 asks for it. -/
def takeLine (s : State) (die line : Nat) (new : LineState) (kind : CohKind) (pay : Payload := .none) : State :=
  if ownLine s line && decide (die = homeDie (line * 128)) && homeFree s line && !inFlightAt s die line then l2Put s die line new
  else cohRequest s die line kind pay

/-- A store from an L1 or an engine reaches an L2 (R249). -/
def storeLine (s : State) (die line : Nat) : State :=
  match l2At s die line with
  | .modified => s
  | .excl => setL2 s die line .modified
  | .inv => takeLine s die line .modified .readOwn
  | .shared | .owned => takeLine s die line .modified .upgrade

/-- An atomic reaches an L2 (R249): one that is not its home's gives the line up. -/
def atomLine (s : State) (die line : Nat) (pay : Payload) : State :=
  if ownLine s line && decide (die = homeDie (line * 128)) then takeLine s die line .modified .atomic pay
  else
    let st := l2At s die line
    let s := if st = .owned ∨ st = .modified then cohRequest s die line .writeBack else s
    cohRequest (setL2 s die line .inv) die line .atomic pay

/-- An access that reaches the L2 of a die (R249), with what an atomic brings. An atomic on host memory takes ownership as a store does (R211);
a load of a host line takes a copy or only its present value (R261). -/
def l2Touch (s : State) (die pa : Nat) (ev : L2Event) (pay : Payload := .none) : State :=
  let line := pa / 128
  match ev with
  | .load =>
    if l2At s die line ≠ .inv then s
    else if homeNode line = .host then
      let (c, s) := pick s 2
      if c = 0 then cohRequest s die line .readShared else readCurrent s die line
    else takeLine s die line .excl .readShared
  | .store => storeLine s die line
  | .atomic => if homeNode line = .host then storeLine s die line else atomLine s die line pay

/-- A request that has waited meets its line as it stands now. -/
def retryRequest (s : State) (e : Nat × Nat × CohKind × Payload) : State :=
  let (die, line, kind, pay) := e
  match kind with
  | .readShared => if l2At s die line = .inv then takeLine s die line .excl .readShared else s
  | .readOwn | .upgrade => storeLine s die line
  | .writeBack | .cleanEvict => if l2At s die line = .inv then cohRequest s die line kind else s
  | .atomic => atomLine s die line pay

/-- After an answer, the requests that waited are tried in their order. -/
def retryBacklog (s : State) : State :=
  s.coh.backlog.foldl retryRequest { s with coh := { s.coh with backlog := [] } }

/-! ### Loads and stores -/

/-- The bytes of a twin's own held writes laid over m (R377). -/
def overlay (held : KMap Byte) (a : Nat) : List Byte → List Byte
  | [] => []
  | b :: l => ((kget held a).getD b) :: overlay held (a + 1) l

/-- The detail of cause 0x40 when a line that holds any byte of pa to pa + n − 1 is poisoned (R372). -/
def poisonAt (s : State) (pa n : Nat) : Option Nat :=
  match kget s.poison (pa / 128) with
  | some d => some d
  | none => kget s.poison ((pa + n - 1) / 128)

/-- The frames of a core's L1 that are in service (R17, R382). -/
def Core.l1Cap (k : Core) : Nat := 1024 - k.l1Off

/-- An L1 frame is taken; a full cache loses line number k (R212). -/
def l1Insert (cap : Nat) (l1 : KMap (FMap 8)) (k line : Nat) (d : FMap 8) : KMap (FMap 8) :=
  if l1.length < cap then kset l1 line d
  else if cap = 0 then l1
  else kset (l1.eraseIdx (k % l1.length)) line d

/-- The newest writes of a byte that none of the slices keys has seen. -/
def unseenBy (keys : List Nat) (l : List Unseen) : List Unseen := l.takeWhile fun v => !(v.seen.any fun k => keys.contains k)

/-- The slices keys have seen a write. -/
def Unseen.add (keys : List Nat) (v : Unseen) : Unseen := { v with seen := v.seen ++ keys.filter fun k => !v.seen.contains k }

/-- The slices keys have seen the write of that number of a byte, and with it all older ones. -/
def seeWrites (keys : List Nat) (m : KMap (List Unseen)) (l : List (Nat × Nat)) : KMap (List Unseen) :=
  l.foldl (fun m p => kmod m p.1 fun vs => lmod vs p.2 (Unseen.add keys)) m

/-- What a read of the bytes l at a finds, of which engines or sequencers may have written some: each is read as it is, or as it was
before any of the newest writes that the reader has not seen, whichever c says (R233, R242, R336); prev tells how many such writes of
sequencers alone the byte before it had, and where it was read, which the bytes of one 8-byte group share (R206, R303). The list tells up
to which write of each byte the reader has seen. -/
def bytesBehind (m : KMap (List Unseen)) (keys : List Nat) :
    Option (Nat × Nat) → Nat → Nat → List Byte → List Byte × List (Nat × Nat)
  | _, _, _, [] => ([], [])
  | prev, c, a, b :: l =>
    match kget m a with
    | none => let (r, seen) := bytesBehind m keys none c (a + 1) l; (b :: r, seen)
    | some vs =>
      let o := unseenBy keys vs
      let whole := o.all fun v => v.op.isNone
      let shared := (prev.filter fun p => whole && decide (a % 8 ≠ 0 ∧ p.1 = o.length)).map (·.2)
      let k := shared.getD (c % (o.length + 1))
      let (r, seen) := bytesBehind m keys (if whole then some (o.length, k) else none)
        (if shared.isSome then c else c / (o.length + 1)) (a + 1) l
      ((((o.take k).getLast?.map (·.old)).getD b) :: r, (a, k) :: seen)

/-- The same from its first byte. -/
def readBehind (m : KMap (List Unseen)) (keys : List Nat) (c a : Nat) (l : List Byte) : List Byte × List (Nat × Nat) :=
  bytesBehind m keys none c a l

/-- Some of n bytes at a have been written by an engine or a sequencer, as some stream may not have seen. -/
def anyBehind (m : KMap (List Unseen)) (a n : Nat) : Bool := (List.range n).any fun i => (kget m (a + i)).isSome

/-- A byte at a of value b is written by an engine operation, or by a sequencer where op is none, over the byte old. -/
def hideWrite (op : Option (Nat × Nat)) (m : KMap (List Unseen)) (a : Nat) (old b : Byte) : KMap (List Unseen) :=
  if op.isSome ∧ old = b then m else kset m a ({ old := old, op := op, seen := [] } :: (kget m a).getD [])

/-- The same of the bytes l at a of a memory. -/
def hideWrites (op : Option (Nat × Nat)) (mem : FMap 8) : KMap (List Unseen) → Nat → List Byte → KMap (List Unseen)
  | m, _, [] => m
  | m, a, b :: l => hideWrites op mem (hideWrite op m a (fget mem a) b) (a + 1) l

/-- The slices keys have seen, of n bytes at a, every write. -/
def seeBytes (s : State) (keys : List Nat) (a n : Nat) : State :=
  if anyBehind s.behind a n then { s with behind := seeWrites keys s.behind ((List.range n).map fun i => (a + i, 0)) } else s

/-- What slices of a group read where memory or a line of the core's L1 gives the bytes l at pa. found is the state as the instruction
found it. -/
def groupBytes (found s : State) (keys : List Nat) (held : KMap Byte) (pa : Nat) (l : List Byte) : List Byte × State :=
  if anyBehind found.behind pa l.length then
    let (r, seen) := readBehind found.behind keys (Config.free s.freeCtr) pa l
    (overlay held pa r, { s with freeCtr := s.freeCtr + 1, behind := seeWrites keys s.behind seen })
  else (overlay held pa l, s)

/-- A read of n bytes at pa by slices of a group through the core's L1 (R212), by an access of an instruction that has found the machine as
found: a line that is present may be stale; it is used or has been replaced; where memory is poisoned it is used, for a read of the poison
has been taken before (readPoison). The flag tells of a hit. DESIGN CHOICE (log 11). -/
def loadFrom (found s : State) (core : Nat) (keys : List Nat) (held : KMap Byte) (nc : Bool) (pa n : Nat) :
    List Byte × Bool × State :=
  let k := coreAt found core
  let fresh := lineOf s.mem pa
  let answer (line : FMap 8) (hit : Bool) (s : State) : List Byte × Bool × State :=
    let (l, s) := groupBytes found s keys held pa (readList line pa n)
    (l, hit, s)
  let insert (s : State) : State :=
    let s := l2Touch s (dieOfCore core) pa .load
    if nc then s
    else if k.l1.length < k.l1Cap then modCore s core fun k => { k with l1 := l1Insert k.l1Cap k.l1 0 (pa / 128) fresh }
    else let (v, s) := pick s 1024
         modCore s core fun k => { k with l1 := l1Insert k.l1Cap k.l1 v (pa / 128) fresh }
  match (kget k.l1 (pa / 128)).or (kget (coreAt s core).l1 (pa / 128)) with
  | none => answer s.mem false (insert s)
  | some line =>
    if line = fresh ∨ (poisonAt s pa n).isSome then answer line true s
    else
      let (c, s) := pick s 2
      if c = 0 then answer line true s
      else answer s.mem false
        (if (kget (coreAt s core).l1 (pa / 128)).isSome then modCore s core fun k => { k with l1 := kset k.l1 (pa / 128) fresh }
         else insert s)

/-- The read of an instruction that makes one. -/
def loadBytes (s : State) (core : Nat) (keys : List Nat) (held : KMap Byte) (nc : Bool) (pa n : Nat) : List Byte × Bool × State :=
  loadFrom s s core keys held nc pa n

/-- After a read of n bytes by slices of a group that has seen memory itself, the core's L1 and what they may still read are no older than
memory (R233). -/
def refreshL1 (s : State) (core : Nat) (keys : List Nat) (pa n : Nat) : State :=
  let s := seeBytes s keys pa n
  if (kget (coreAt s core).l1 (pa / 128)).isSome then
    modCore s core fun k => { k with l1 := kset k.l1 (pa / 128) (lineOf s.mem pa) }
  else s

/-- The L1 of a core is dropped (R236, R241). -/
def dropL1 (s : State) (core : Nat) : State := modCore s core fun k => { k with l1 := [] }

/-- An engine operation has not completed: it stands in a queue. -/
def opLive (s : State) (id : Nat) : Bool :=
  s.cores.any (fun c => c.2.copyq.any (fun o => decide (o.id = id)) || c.2.collq.any (fun o => decide (o.id = id)))
    || s.routeq.any (fun q => q.any fun o => decide (o.id = id))

/-- The slices keys have seen the writes that f admits. -/
def seeAll (keys : List Nat) (f : Unseen → Bool) (m : KMap (List Unseen)) : KMap (List Unseen) :=
  kmapV (fun _ vs => vs.map fun v => if f v then v.add keys else v) m

/-- Write bytes at pa, in the core's L1 line, if it is present (R212), and as an event of its die's L2, with what an atomic brings to its
home. -/
def storeRaw (s : State) (core : Option Nat) (ev : L2Event) (pa : Nat) (l : List Byte)
    (pay : Payload := .data (BitVec.ofNat 7 pa) l) : State :=
  let s := { s with mem := writeList s.mem pa l }
  match core with
  | none => s
  | some c =>
    let s := l2Touch s (dieOfCore c) pa ev pay
    match kget (coreAt s c).l1 (pa / 128) with
    | none => s
    | some line => modCore s c fun k => { k with l1 := kset k.l1 (pa / 128) (writeList line pa l) }

/-- The four rounds of RNDX (R166) on x under key k: the 64-bit value before the final fold. -/
def rndRounds : Nat → DWord → DWord → DWord
  | 0, x, _ => x
  | n + 1, x, k =>
    let x := (x ^^^ k) * 0xD6E8FEB86659FD93#64
    rndRounds n (x ^^^ (x >>> 29)) (k + 0x9E3779B97F4A7C15#64)

/-- RNDX (R166): 32 random bits from a counter and a key. -/
def rndx (x k : DWord) : Word :=
  let r := rndRounds 4 x k
  r.extractLsb' 0 32 ^^^ r.extractLsb' 32 32

/-- What a memory write of up to 8 bytes adds to a twin's signature (R378). -/
def sigOf (ea n v : Nat) : DWord := rndRounds 4 (BitVec.ofNat 64 ea) (BitVec.ofNat 64 (v + n * 2 ^ 56))

/-- The signature of a write of the low n bytes of v: a 16-byte write counts as two of 8 (R378). -/
def sigWrite (ea n v : Nat) : DWord :=
  if n ≤ 8 then sigOf ea n (v % 2 ^ (8 * n))
  else sigOf ea 8 (v % 2 ^ 64) + sigOf (ea + 8) (n - 8) (v / 2 ^ 64 % 2 ^ (8 * (n - 8)))

/-- Bytes held by a twin (R377). -/
def holdBytes (held : KMap Byte) : Nat → List Byte → KMap Byte
  | _, [] => held
  | a, b :: l => holdBytes (kset held a b) (a + 1) l

/-- s with team u changed by f. -/
def modTeam (s : State) (u : Nat) (f : Team → Team) : State := { s with teams := kmod s.teams u f }

/-- s with group u changed by f. -/
def modGroup (s : State) (u : Nat) (f : Group → Group) : State := { s with groups := kmod s.groups u f }

/-- A memory write of n bytes of v at virtual address ea, physical address pa, by team tu of grid h on a core: held under
paired execution (R377), otherwise performed, after the snapshot that it may need (R373). -/
def storeBytes (s : State) (core tu h ea pa n v : Nat) : Bool × State :=
  match (kget s.teams tu).bind (·.twin) with
  | some _ =>
    (false, modTeam s tu fun t => { t with held := holdBytes t.held pa (toBytes n v),
                                           sig := t.sig + sigWrite ea n v, writes := t.writes + (n + 7) / 8 })
  | none =>
    let (ex, s) := snapshot s h pa
    (ex, storeRaw s (some core) .store pa (toBytes n v))

end Sys2Proof.Machine
end

