-- ==== Sys2Proof/Machine/Ops.lean ====
section
/-! DEFINITION. The operations that the meanings share: the issuing stream and its registers, faults and their records,
taking an exception (R362) and returning from one (R220), and the issue of an instruction (R50, R60, R94, R388). -/

namespace Sys2Proof.Machine

/-! ### The issuing stream -/

/-- The slice numbers of a mask, ascending. -/
def maskSlices (m : BitVec 16) : List Nat := (List.range 16).filter fun k => m.getLsbD k

/-- The mask of a list of slices. -/
def sliceMask (l : List Nat) : BitVec 16 := l.foldl (fun m k => m ||| BitVec.twoPow 16 k) 0

/-- An empty slice, read where a group has none. -/
def Slice.zero : Slice := { pc := 0, c := [], s := [], loops := [], wb := 0, rb := 0, wneed := 0 }

/-- An invalid split table entry (R337). -/
def Split.none : Split :=
  { valid := false, wait := false, wj := 0, mask := 0, run := .run, pend := [], live := 0, mapp := Option.none,
    refused := Option.none, compared := false, trap := Option.none,
    step := false }

/-- Slice k of a group. -/
def Group.slice (g : Group) (k : Nat) : Slice := g.slices.getD k Slice.zero

/-- Split table entry e of a group. -/
def Group.split (g : Group) (e : Nat) : Split := g.splits.getD e Split.none

/-- g with slice k changed. -/
def Group.modSlice (g : Group) (k : Nat) (f : Slice → Slice) : Group := { g with slices := lmod g.slices k f }

/-- g with split table entry e changed. -/
def Group.modSplit (g : Group) (e : Nat) (f : Split → Split) : Group := { g with splits := lmod g.splits e f }

/-- g with each slice of l changed. -/
def Group.modSlices (g : Group) (l : List Nat) (f : Nat → Slice → Slice) : Group :=
  l.foldl (fun g k => g.modSlice k (f k)) g

/-- The issuing stream: its group and split table entry, its team, grid and core, its slices in ascending order, whether
it runs a supervisor handler, and the address of the instruction it issues. -/
structure Ctx where
  uid : Nat
  e : Nat
  g : Group
  t : Team
  gr : Grid
  core : Nat
  sl : List Nat
  inH : Bool
  pc : DWord
  deriving DecidableEq, Repr

/-- Whether entry e of g runs the group's supervisor handler. -/
def handlerOn (g : Group) (e : Nat) : Bool := g.handler.any fun h => decide (h.entry = e)

/-- Whether an entry may issue: valid, not held, not parked, not descheduled, not waiting at REGANG; the stream of a
running handler issues whatever its own state (R45, R122, R223). -/
def canIssue (t : Team) (g : Group) (e : Nat) : Bool :=
  let sp := g.split e
  sp.valid && sp.refused.isNone && (!g.hold || sp.step) && !t.ended && t.stop.isNone
    && (handlerOn g e || (decide (sp.run = .run) && !sp.wait))

/-- The stream of entry e of group u, when it may issue. -/
def ctxOf (s : State) (u e : Nat) : Option Ctx :=
  match kget s.groups u with
  | none => none
  | some g =>
    match kget s.teams g.team with
    | none => none
    | some t =>
      match t.core, kget s.grids t.grid.toNat with
      | some c, some gr =>
        if canIssue t g e && !gr.replaying then
          let sl := maskSlices (g.split e).mask
          let inH := handlerOn g e
          let pc := match g.handler with
            | some h => if h.entry = e then h.pc else (g.slice (sl.headD 0)).pc
            | none => (g.slice (sl.headD 0)).pc
          some { uid := u, e := e, g := g, t := t, gr := gr, core := c, sl := sl, inH := inH, pc := pc }
        else none
      | _, _ => none

/-- The current stream. -/
def ctx? (s : State) : Option Ctx := s.cur.bind fun c => ctxOf s c.1 c.2

/-- The lanes of a slice (R42). -/
def sliceLanes (k : Nat) : List Nat := [4 * k, 4 * k + 1, 4 * k + 2, 4 * k + 3]

/-- The lanes of a stream, ascending. -/
def Ctx.lanes (x : Ctx) : List Nat := x.sl.flatMap sliceLanes

/-- The stream's slices as agents that have seen a write (Unseen.seen). -/
def sliceKeys (uid : Nat) (l : List Nat) : List Nat := l.map fun k => uid * 16 + k
def Ctx.keys (x : Ctx) : List Nat := sliceKeys x.uid x.sl

/-- The lowest-numbered issuing slice. -/
def Ctx.low (x : Ctx) : Nat := x.sl.headD 0

/-- A set of lanes as 64 bits. -/
def laneMask (l : List Nat) : DWord := l.foldl (fun m k => m ||| BitVec.twoPow 64 k) 0

/-- The decode context of R94. -/
def Ctx.dec (x : Ctx) : DecodeCtx :=
  { width := x.g.width, nregs := x.g.nregs, slots := x.gr.launch.slots }

/-! ### Registers (R109, R110, R114, R122) -/

/-- The register that Vr of a lane names: the handler bank below 16 while a handler runs, else the lane's register stack
through its slice's window base. -/
def Ctx.refV (x : Ctx) (lane r : Nat) : RegRef :=
  if x.inH ∧ r < 16 then .bv lane r
  else .v lane (((x.g.slice (lane / 4)).wb + r) % x.g.alloc)

/-- The register that Sn of a slice names. -/
def Ctx.refS (x : Ctx) (k n : Nat) : RegRef := if x.inH ∧ n < 16 then .bs k n else .s k n

/-- The register that Pn of a lane names. -/
def Ctx.refP (x : Ctx) (lane n : Nat) : RegRef := if x.inH then .bp lane n else .p lane n

/-- The register that Cn of a slice names. -/
def Ctx.refC (x : Ctx) (k n : Nat) : RegRef := if x.inH then .bc k n else .c k n

/-- The value of a register; predicates and conditions as 0 or 1. -/
def Group.reg (g : Group) (r : RegRef) : Word :=
  match r with
  | .v lane p => fget g.v (lane * 2048 + p)
  | .s k n => fget (g.slice k).s n
  | .p lane n => (fget g.p (lane * 8 + n)).zeroExtend 32
  | .c k n => (fget (g.slice k).c n).zeroExtend 32
  | .bv lane n => (g.handler.map fun h => fget h.v (lane * 16 + n)).getD 0
  | .bs k n => (g.handler.map fun h => fget h.s (k * 16 + n)).getD 0
  | .bp lane n => (g.handler.map fun h => (fget h.p (lane * 8 + n)).zeroExtend 32).getD 0
  | .bc k n => (g.handler.map fun h => (fget h.c (k * 8 + n)).zeroExtend 32).getD 0

/-- g with one register written; a write to a register of a bank is dropped where no handler runs, and is made in the bank of the one that
runs. DESIGN CHOICE (log 66). -/
def Group.write (g : Group) (w : RegWrite) : Group :=
  let hmod (f : Handler → Handler) : Group := { g with handler := g.handler.map f }
  match w.1 with
  | .v lane p => { g with v := fset g.v (lane * 2048 + p) w.2 }
  | .s k n => g.modSlice k fun sl => { sl with s := fset sl.s n w.2 }
  | .p lane n => { g with p := fset g.p (lane * 8 + n) (w.2.extractLsb' 0 1) }
  | .c k n => g.modSlice k fun sl => { sl with c := fset sl.c n (w.2.extractLsb' 0 1) }
  | .bv lane n => hmod fun h => { h with v := fset h.v (lane * 16 + n) w.2 }
  | .bs k n => hmod fun h => { h with s := fset h.s (k * 16 + n) w.2 }
  | .bp lane n => hmod fun h => { h with p := fset h.p (lane * 8 + n) (w.2.extractLsb' 0 1) }
  | .bc k n => hmod fun h => { h with c := fset h.c (k * 8 + n) (w.2.extractLsb' 0 1) }

/-- g with a list of writes made in order. -/
def Group.writes (g : Group) (l : List RegWrite) : Group := l.foldl Group.write g

/-- The slice of a register write. -/
def sliceOfWrite (w : RegWrite) : Nat :=
  match w.1 with
  | .v lane _ | .p lane _ | .bv lane _ | .bp lane _ => lane / 4
  | .s k _ | .c k _ | .bs k _ | .bc k _ => k

/-- Vr of a lane. -/
def Ctx.v (x : Ctx) (lane r : Nat) : Word := x.g.reg (x.refV lane r)

/-- The pair Vr:Vr+1 of a lane (R113). -/
def Ctx.vv (x : Ctx) (lane r : Nat) : DWord := x.v lane (r + 1) ++ x.v lane r

/-- Sn of a slice: S0 reads zero (R114). -/
def Ctx.s (x : Ctx) (k n : Nat) : Word := if n = 0 then 0 else x.g.reg (x.refS k n)

/-- The pair Sn:Sn+1 of a slice. -/
def Ctx.ss (x : Ctx) (k n : Nat) : DWord := x.s k (n + 1) ++ x.s k n

/-- Pn of a lane: P7 reads one (R109). -/
def Ctx.p (x : Ctx) (lane n : Nat) : Bool := if n = 7 then true else (x.g.reg (x.refP lane n)).getLsbD 0

/-- Cn of a slice: C7 reads one (R109). -/
def Ctx.c (x : Ctx) (k n : Nat) : Bool := if n = 7 then true else (x.g.reg (x.refC k n)).getLsbD 0

/-- A bit as a register value. -/
def bit (b : Bool) : Word := if b then 1 else 0

/-- A write of Vr of a lane. -/
def Ctx.wv (x : Ctx) (lane r : Nat) (v : Word) : List RegWrite := [(x.refV lane r, v)]

/-- A write of the pair Vr:Vr+1 of a lane. -/
def Ctx.wvv (x : Ctx) (lane r : Nat) (v : DWord) : List RegWrite :=
  [(x.refV lane r, v.extractLsb' 0 32), (x.refV lane (r + 1), v.extractLsb' 32 32)]

/-- A write of Sn of a slice: a write to S0 is discarded (R78). -/
def Ctx.ws (x : Ctx) (k n : Nat) (v : Word) : List RegWrite := if n = 0 then [] else [(x.refS k n, v)]

/-- A write of the pair Sn:Sn+1 of a slice. -/
def Ctx.wss (x : Ctx) (k n : Nat) (v : DWord) : List RegWrite :=
  x.ws k n (v.extractLsb' 0 32) ++ x.ws k (n + 1) (v.extractLsb' 32 32)

/-- A write of Sn of every issuing slice (R114). -/
def Ctx.wsAll (x : Ctx) (n : Nat) (v : Word) : List RegWrite := x.sl.flatMap fun k => x.ws k n v

/-- A write of Pn of a lane: a write to P7 is discarded (R78). -/
def Ctx.wp (x : Ctx) (lane n : Nat) (b : Bool) : List RegWrite :=
  if n = 7 then [] else [(x.refP lane n, bit b)]

/-- A write of Cn of a slice: a write to C7 is discarded (R78). -/
def Ctx.wc (x : Ctx) (k n : Nat) (b : Bool) : List RegWrite :=
  if n = 7 then [] else [(x.refC k n, bit b)]

/-- The active lanes of an instruction (R80): the stream's lanes whose guard holds. -/
def Ctx.active (x : Ctx) (w : ExtArgs) : List Nat :=
  x.lanes.filter fun l => x.p l w.g.toNat != w.gn

/-- The issuing slices that have an active lane (R80). -/
def Ctx.activeSlices (x : Ctx) (w : ExtArgs) : List Nat :=
  x.sl.filter fun k => (sliceLanes k).any fun l => x.p l w.g.toNat != w.gn

/-! ### Controllers (R408, R414, R415) -/

/-- Controller n, and s with it changed. -/
def ctlAt (s : State) (n : Nat) : Controller := s.ctls.getD n Controller.init
def modCtl (s : State) (n : Nat) (f : Controller → Controller) : State := { s with ctls := lmod s.ctls n f }

/-- Controller n is being replaced: what is raised for it waits in its input queue (R415). -/
def delayed (s : State) (n : Nat) : Bool := decide ((ctlAt s n).state = .handOver ∨ (ctlAt s n).state = .probation)

/-- An event waits for controller n. -/
def queueFor (s : State) (n : Nat) (w : Waiting) : State := modCtl s n fun c => { c with queue := c.queue ++ [w] }

/-- The command processor of a ring, and that of a grid: its ring's, or its parent's (R408, R412). -/
def ringCp (r : Nat) : Nat := 4 + r / 16
def gridCp (s : State) : Nat → Nat → Nat
  | 0, _ => 4
  | fuel + 1, h =>
    match kget s.grids h with
    | none => 4
    | some g =>
      match g.source, g.parent with
      | .ring r _, _ => ringCp r
      | .child, some p => gridCp s fuel p.toNat
      | .child, none => 4

/-- The command processor of grid h; a grid's depth is at most 9 (R57). -/
def cpOf (s : State) (h : Nat) : Nat := gridCp s 10 h

/-! ### Fault records (R369 to R371) -/

/-- A function's mode (R409): host-assisted where its bit of FNMODE is set. DEDUCED (log 24). -/
def hostMode (s : State) (bit : Nat) : Bool := s.mgmt.fnmode.getLsbD bit

/-- A report to the host. -/
def tellHost (s : State) (kind : String) (args : List Nat) : State :=
  { s with outbox := .hostReport kind args :: s.outbox }

/-- The physical address of an access by a command processor, none where it faults. -/
def sysAddr (s : State) (space va n : Nat) (need : Need) : Option Nat :=
  if !inGridSpace va || va % n ≠ 0 then none
  else
    match checkWalk s.pkg none va need (walkSpace s space va) with
    | .ok pa _ => if targetRefuses s pa then none else some pa
    | _ => none

/-- What a load needs. -/
def needR : Need := { r := true, w := false, x := false, scope := none, atom := none }

/-- What a store needs. -/
def needW : Need := { r := false, w := true, x := false, scope := none, atom := none }

/-- A write of n bytes of v by a command processor; none where it faults. -/
def sysWrite (s : State) (space va n v : Nat) : Option State :=
  (sysAddr s space va n needW).map fun pa => tellAccess { s with mem := writeN s.mem pa n v } true pa n (toBytes n v)

/-- The same; none too where it meets an uncorrectable error. -/
def sysWriteClean (s : State) (space va n v : Nat) : Option State :=
  (sysAddr s space va n needW).bind fun pa =>
    if (poisonAt s pa n).isSome then none else some (tellAccess { s with mem := writeN s.mem pa n v } true pa n (toBytes n v))

/-- A read of n bytes by a command processor; none where it faults or meets poison. -/
def sysRead (s : State) (space va n : Nat) : Option Nat :=
  match sysAddr s space va n needR with
  | some pa => if (poisonAt s pa n).isSome then none else some (readN s.mem pa n)
  | none => none

/-- The 32 bytes of the record's header (R369). -/
def frHeader (f : FaultRec) (nonReplay : Bool) : Nat :=
  f.count + 2 ^ 32 * ((if f.overflow then 1 else 0) + (if nonReplay then 2 else 0)) + 2 ^ 40 * f.replays
    + 2 ^ 48 * f.status

/-- A write to a fault record (R369): it lies on a 64-byte boundary, on a DC or SC page of the launching package; none where it does not,
or where the write faults. -/
def frPut (s : State) (g : Grid) (off n v : Nat) : Option State :=
  let a := g.launch.faultrec.toNat
  if a % 64 ≠ 0 then none
  else
    match sysAddr s g.space (a + off) n needW with
    | some pa => if paTarget pa = s.pkg.toNat then some { s with mem := writeN s.mem pa n v } else none
    | none => none

/-- The header and, where an entry was added, its bytes are written; a fault abandons the record (R371). DEDUCED (log 53). -/
def frWrite (s : State) (h : Nat) (entry : Option (Nat × Nat)) : State :=
  match kget s.grids h with
  | none => s
  | some g =>
    if g.launch.faultrec = 0 ∨ g.fr.dead then s
    else
      let s1 := match entry with
        | some (i, v) => frPut s g (32 + 32 * i) 32 v
        | none => some s
      match s1.bind fun s => frPut s g 0 32 (frHeader g.fr g.nonReplay) with
      | some s => s
      | none => modGrid s h fun g => { g with fr := { g.fr with dead := true } }

/-- A report to the host by controller n; it waits while the controller is replaced. -/
def ctlTell (s : State) (n : Nat) (kind : String) (args : List Nat) : State :=
  if delayed s n then queueFor s n (.host kind args) else tellHost s kind args

/-- Bit 3 is set in every entry of a grid's fault record (R375); a write that fails abandons the record (R371). -/
def markReplayed (s : State) (h : Nat) : State :=
  match kget s.grids h with
  | none => s
  | some g =>
    let s := modGrid s h fun g => { g with fr := { g.fr with flagBytes := g.fr.flagBytes.map (· ||| 8) } }
    let a := g.launch.faultrec.toNat
    if a = 0 ∨ g.fr.dead then s
    else
      g.fr.flagBytes.zipIdx.foldl (fun s p =>
        match frPut s g (32 + 32 * p.2 + 3) 1 (p.1 ||| 8).toNat with
        | some s => s
        | none => modGrid s h fun g => { g with fr := { g.fr with dead := true } }) s

/-- The grids of a snapshot set, by the handle of its root. -/
def setOf (s : State) (h : Nat) : List Nat := (s.grids.filter fun e => decide (e.2.root.toNat = h)).map (·.1)

/-- An entry of grid h is written, as reported at a time (R370, R371); ends tells that it ends the team. Entry 0x4C marks the earlier
entries of its set (R375). -/
def writeEntry (s : State) (h : Nat) (e : FaultEntry) (time : DWord) (ends : Bool) : State :=
  let s := if e.cause = 0x4C then (setOf s h).foldl markReplayed s else s
  match kget s.grids h with
  | none => s
  | some g =>
    let i := g.fr.flagBytes.length
    let fr := { g.fr with
      last := some e
      count := min (g.fr.count + 1) 0xFFFFFFFF
      overflow := g.fr.overflow || decide (15 ≤ i)
      status := if ends ∧ g.fr.status = 0 then e.cause else g.fr.status
      flagBytes := if i < 15 then g.fr.flagBytes ++ [BitVec.ofNat 8 e.flags] else g.fr.flagBytes }
    let v := e.cause + 2 ^ 8 * e.detail + 2 ^ 16 * e.gid + 2 ^ 24 * e.flags + 2 ^ 32 * e.team
      + 2 ^ 64 * time.toNat + 2 ^ 128 * e.pc.toNat + 2 ^ 192 * e.faddr.toNat
    frWrite (modGrid s h fun g => { g with fr := fr }) h (if i < 15 then some (i, v) else none)

/-- A report of a cause for a team of grid h (R370, R371), to the command processor of the grid (R408). -/
def report (s : State) (h team gid cause detail flags : Nat) (pc faddr : DWord) (ends : Bool) : State :=
  let e : FaultEntry :=
    { team := team, gid := gid, cause := cause, detail := detail, flags := flags, pc := pc, faddr := faddr }
  if delayed s (cpOf s h) then
    queueFor (modGrid s h fun g => { g with fr := { g.fr with last := some e } }) (cpOf s h) (.entry h e s.dtime ends)
  else writeEntry s h e s.dtime ends

/-- Whether a cause is precise (R361). -/
def causePrecise (cause detail : Nat) : Bool :=
  !(decide (cause = 0x26 ∨ 0x40 ≤ cause) || decide (cause = 0x22 ∧ detail = 4))

/-! ### The end of groups and teams (R58, R59, R272, R363) -/

/-- Whether every slice of a group has exited: no valid split, nothing parked or spilled (R337, R367). -/
def Group.ended (g : Group) : Bool := (g.splits.all fun sp => !sp.valid) && g.dstack.isEmpty && decide (g.spcnt = 0)

/-- Whether a group has an operation in a queue of the core or of its die (R59). -/
def hasPosted (s : State) (u : Nat) : Bool :=
  s.cores.any (fun c => c.2.fifo.any (fun o => decide (o.group = u)) || c.2.copyq.any (fun o => decide (o.group = u))
      || c.2.collq.any (fun o => decide (o.group = u)))
    || s.routeq.any (fun q => q.any fun o => decide (o.group = u))

/-- The slot numbers bound to a group's handles. -/
def Group.slots (g : Group) : List Nat := g.h.filterMap fun h => h.map (·.toNat)

/-- Return slots to a core's free list (R272); the list stays ascending. -/
def freeSlots (k : Core) (l : List Nat) : Core :=
  { k with free := allSlots.filter fun n => k.free.contains n || l.contains n,
           starve := if l.isEmpty then k.starve else none,
           acc := k.acc.filter fun e => !l.contains e.1 }

/-- A team whose last group has gone leaves its core; with the last team of a grid, the grid drains (R58). -/
def removeTeam (s : State) (tu : Nat) (t : Team) : State :=
  let s := { s with teams := kdel s.teams tu }
  if t.shadow then s
  else modGrid s t.grid.toNat fun g =>
    { g with
      endedTeams := g.endedTeams + 1
      phase := if g.endedTeams + 1 = g.launch.teams then .draining else g.phase }

/-- Remove the ended groups of a team whose operations have completed, and the team when none is left; a twin that no fault has ended
stays until its last compare (R379). -/
def settle (s : State) (tu : Nat) : State :=
  match kget s.teams tu with
  | none => s
  | some t =>
    let (s, left) := t.groups.foldl
      (fun (acc : State × List Nat) u =>
        match kget acc.1.groups u with
        | none => acc
        | some g =>
          if (t.ended || g.ended) && !hasPosted acc.1 u then
            let s := { acc.1 with groups := kdel acc.1.groups u }
            let s := match t.core with
              | some c => modCore s c fun k => freeSlots k (g.slots.filter fun n => !s.badSlots.contains (c, n))
              | none => s
            (s, acc.2)
          else (acc.1, acc.2 ++ [u]))
      (s, [])
    if left.isEmpty && (t.ended || t.twin.isNone) then removeTeam s tu t
    else modTeam s tu fun t => { t with groups := left }

/-- A team ends by a fault (R363): its streams stop, and it leaves when its operations have completed. A twin's held writes
are discarded. -/
def endTeam (s : State) (tu : Nat) : State :=
  settle (modTeam s tu fun t => { t with ended := true, held := [], eng := [], stop := none }) tu

/-- A team and its twin end (R41). -/
def endTwins (s : State) (tu : Nat) : State :=
  match (kget s.teams tu).bind (·.twin) with
  | some v => endTeam (endTeam s tu) v
  | none => endTeam s tu

/-- Every grid of a snapshot set stops, to be replayed (R375): what its twins hold is discarded (R381). -/
def stopSet (s : State) (r : Nat) : State :=
  let l := setOf s r
  { s with grids := kmapV (fun _ g => if g.root.toNat = r then { g with replaying := true } else g) s.grids
           teams := kmapV (fun _ t => if l.contains t.grid.toNat then { t with held := [], eng := [] } else t) s.teams }

/-- The first two steps of a replay of the set of r (R375): entry 0x4C, and every team of the set stops. -/
def startReplay (s : State) (r : Nat) : State :=
  match kget s.grids r with
  | none => s
  | some g => if g.replaying then s else stopSet (report s r 0 0 0x4C (g.fr.replays + 1) 0 0 0 false) r

/-- A team holds until the host answers, and its twin with it (R41, R364). -/
def holdTwins (s : State) (tu : Nat) (h : Held) : State :=
  let s1 := modTeam s tu fun t => { t with stop := some { h with own := true } }
  match (kget s.teams tu).bind (·.twin) with
  | some v => modTeam s1 v fun t => { t with stop := t.stop.or (some { h with resumable := false, own := false }) }
  | none => s1

/-- A held team ends: its cause is the record's STATUS, if it is the first to end a team (R369). -/
def setStatus (s : State) (h cause : Nat) : State :=
  frWrite (modGrid s h fun g => { g with fr := { g.fr with status := if g.fr.status = 0 then cause else g.fr.status } }) h none

/-- A cause of a team of grid h leads to a replay (R375, R376): poison or a mismatch in a replayable set. -/
def replays (s : State) (h cause : Nat) : Bool :=
  decide (cause = 0x40 ∨ cause = 0x41) && (snapRoot s h).any (fun r => !r.2.nonReplay && decide (r.2.fr.replays < 3))

/-- The command processor has received a cause that ends a team: a replayable set replays 0x40 and 0x41 (R375); in host-assisted
mode the host receives the entry, and the team holds until it answers; otherwise the team ends (R364). -/
def endAfter (s : State) (tu : Nat) (t : Team) (u e : Nat) (f : FaultEntry) : State :=
  let h := t.grid.toNat
  if replays s h f.cause then
    match snapRoot s h with
    | some (r, _) => startReplay s r
    | none => s
  else if t.ended then s
  else if hostMode s 1 then
    ctlTell (holdTwins s tu { cause := f.cause, resumable := decide (f.cause = 0x38 ∨ f.cause = 0x39), group := u, entry := e, own := true })
      (cpOf s h) "fault" [h, f.team, f.gid, f.cause, f.detail, f.flags, s.dtime.toNat, f.pc.toNat, f.faddr.toNat]
  else endTwins s tu

/-- The entry of a fault that ends team t, whose identity is u: its flags are precise, asynchronous after its issuer stopped, raised in a
handler, and shadow twin (R370). -/
def endingEntry (s : State) (t : Team) (u gid cause detail : Nat) (inH : Bool) (pc faddr : DWord) : FaultEntry :=
  let late := decide (cause = 0x40) && (t.ended || (kget s.groups u).all (·.ended))
  { team := t.num, gid := gid, cause := cause, detail := detail
    flags := (if causePrecise cause detail then 1 else 0) + (if late then 2 else 0) + (if inH then 4 else 0)
      + (if t.shadow then 16 else 0)
    pc := pc, faddr := faddr }

/-- A report of an entry that has been made. -/
def reportEntry (s : State) (h : Nat) (f : FaultEntry) (ends : Bool) : State :=
  report s h f.team f.gid f.cause f.detail f.flags f.pc f.faddr ends

/-- The set of a team has stopped to be replayed: its teams raise nothing more (R375). -/
def setStopped (s : State) (tu : Nat) : Bool :=
  (kget s.teams tu).any fun t => (kget s.grids t.grid.toNat).any (·.replaying)

/-- A cause that ends a team: its entry is written (R371), and the team replays, holds or ends. -/
def endByFault (s : State) (tu : Nat) (u e gid cause detail : Nat) (inH : Bool) (pc faddr : DWord) : State :=
  match if setStopped s tu then none else kget s.teams tu with
  | none => s
  | some t =>
    let f := endingEntry s t u gid cause detail inH pc faddr
    let ends := !replays s t.grid.toNat cause && !hostMode s 1
    endAfter (reportEntry s t.grid.toNat f ends) tu t u e f

/-- A fault of the issuing stream. Inside a handler it is a handler fault whose detail is the cause met (R218), but for
the causes that the spec names for handlers, poison and HALT. -/
def streamFault (s : State) (x : Ctx) (cause detail : Nat) (faddr : DWord) : State :=
  let keep := decide (cause = 0x30 ∨ cause = 0x31 ∨ cause = 0x32 ∨ cause = 0x38 ∨ cause = 0x39 ∨ 0x40 ≤ cause)
  if x.inH && !keep then endByFault s x.g.team x.uid x.e x.g.gid 0x30 cause true x.pc faddr
  else endByFault s x.g.team x.uid x.e x.g.gid cause detail x.inH x.pc faddr

/-! ### Counters (R405) -/

/-- Grid counter c of grid h grows by n. -/
def count (s : State) (h c n : Nat) : State :=
  if n = 0 then s else modGrid s h fun g => { g with counters := lmod g.counters c (· + BitVec.ofNat 64 n) }

/-- Grid counter c of the stream's grid grows by n; a shadow twin's events are not counted. -/
def Ctx.count (x : Ctx) (s : State) (c n : Nat) : State :=
  if x.t.shadow then s else Machine.count s x.t.grid.toNat c n

/-! ### Taking an exception and returning from it -/

/-- The bank at handler entry: V0 of each lane of the stream holds the lane number (R122). -/
def bankV (lanes : List Nat) : FMap 32 :=
  lanes.foldl (fun m l => fset m (l * 16) (BitVec.ofNat 32 l)) []

/-- Another stream of the partition runs a handler (R122). -/
def partitionBusy (s : State) (core part : Nat) : Bool :=
  s.groups.any fun e =>
    e.2.handler.isSome && decide (e.2.part = part) &&
      ((kget s.teams e.2.team).any fun t => decide (t.core = some core))

/-- The trap cause as fcause holds it (R360): every trap is precise. -/
def fcauseOf (cause detail : Nat) : Word := BitVec.ofNat 32 (cause + 2 ^ 8 * detail + 2 ^ 16)

/-- Slices take the wneed of a trap. -/
def Group.setNeed (g : Group) (need : List (Nat × Nat)) : Group :=
  need.foldl (fun g p => g.modSlice p.1 fun sl => { sl with wneed := p.2 }) g

/-- Entry to the handler at addr (R122, R216, R217, R362): the pc that the stream keeps is its own, fcause, faddr, fmask and
wneed are written, and the bank is the handler's. -/
def Group.enterHandler (g : Group) (e : Nat) (addr : DWord) (t : Trap) : Group :=
  let lanes := (maskSlices (g.split e).mask).flatMap sliceLanes
  let g := g.setNeed t.need
  { g with
    fmask := t.fmask
    fcause := fcauseOf t.cause t.detail
    faddr := t.faddr
    handler := some { entry := e, pc := addr, v := bankV lanes, s := [], p := [], c := [], mapp := none,
                      engine := decide (t.cause = 1 ∧ t.detail = 2) }
    splits := lmod g.splits e fun sp =>
      if t.cause = 1 ∧ t.detail = 2 then sp else { sp with mapp := none, trap := none } }

/-- The grid's handler address for a trap cause (R362, R413). -/
def handlerAddr (s : State) (h cause : Nat) : DWord :=
  match (kget s.grids h).bind fun gr => kget s.spaces gr.space with
  | some sp => sp.handlers.getD (cause - 1) 0
  | none => 0

/-- A stream takes a trap (R216, R217, R362). The handler runs at the grid's address for the cause; without one the team ends
with the trap's own cause; while another handler runs on the partition the trap waits its turn (R122); inside a
handler it is a handler fault (R218); a page that the handler has passed on ends the team, but not in host-assisted mode (R221). -/
def takeTrap (s : State) (u e : Nat) (tr : Trap) : State :=
  match kget s.groups u with
  | none => s
  | some g =>
    match kget s.teams g.team with
    | none => s
    | some t =>
      let h := t.grid.toNat
      let pc := (g.slice ((maskSlices (g.split e).mask).headD 0)).pc
      let s := if t.shadow then s
        else if tr.cause = 1 then count s h 13 1
        else if tr.cause = 4 then count s h 7 1
        else s
      if handlerOn g e then
        endByFault s g.team u e g.gid 0x30 tr.cause true ((g.handler.map (·.pc)).getD 0) tr.faddr
      else if tr.cause = 1 ∧ hostMode s 0 then
        ctlTell (modGroup s u fun g => g.modSplit e fun sp => { sp with run := .host tr.faddr false })
          (cpOf s h) "page" [h, t.num, g.gid, e, tr.faddr.toNat]
      else if tr.cause = 1 ∧ (g.split e).mapp.any (fun r => decide (r.2 = tr.faddr)) then
        endByFault s g.team u e g.gid 0x28 1 false pc tr.faddr
      else if handlerAddr s h tr.cause = 0 then
        endByFault s g.team u e g.gid tr.cause tr.detail false pc tr.faddr
      else if t.core.any fun c => partitionBusy s c g.part then
        modGroup s u fun g => g.modSplit e fun sp => { sp with trap := some tr }
      else modGroup s u fun g => g.enterHandler e (handlerAddr s h tr.cause) tr

/-- The return from a handler (R220): the bank is discarded, fmask, fcause, faddr and wneed become zero, and the stream
resumes at its own program counter; the last MAPP status is recorded when it is 2 or 3 (R221). -/
def returnFromTrap (g : Group) : Group :=
  match g.handler with
  | none => g
  | some h =>
    let record := match h.mapp with
      | some 2 => some (2, g.faddr)
      | some 3 => some (3, g.faddr)
      | _ => none
    { g with
      fmask := 0
      fcause := 0
      faddr := 0
      handler := none
      slices := g.slices.map fun sl => { sl with wneed := 0 }
      splits := lmod g.splits h.entry fun sp => if h.engine then sp else { sp with mapp := record } }

/-! ### Issue -/

/-- What the meaning of an instruction does at issue. -/
inductive Res where
  /-- It issues, and the stream goes on at the next instruction in sequence, or loops back (R388). -/
  | done (s : State)
  /-- It issues, and has set the stream's program counter itself. -/
  | flow (s : State)
  /-- It does not issue now; the stream tries it again. -/
  | stall (s : State)
  /-- It raises a fault (R359). -/
  | fault (s : State) (cause detail : Nat) (faddr : DWord)
  /-- It raises a trap (R362). -/
  | trap (s : State) (t : Trap)
  deriving DecidableEq, Repr

/-- The loop-back of R388 on a slice whose instruction at pc has issued and whose next pc is next. -/
def loopBack (pc next : DWord) : List LoopEntry → DWord × List LoopEntry
  | [] => (next, [])
  | l :: ls =>
    if l.stop = pc then
      if l.count - 1 ≠ 0 then (l.start, { l with count := l.count - 1 } :: ls) else loopBack pc next ls
    else (next, l :: ls)

/-- The stream goes on after its instruction of len bytes: the handler's pc advances, or each slice's, with loop-back. -/
def advance (g : Group) (x : Ctx) (len : Nat) : Group :=
  if x.inH then { g with handler := g.handler.map fun h => { h with pc := h.pc + BitVec.ofNat 64 len } }
  else
    g.modSlices x.sl fun _ sl =>
      let r := loopBack x.pc (x.pc + BitVec.ofNat 64 len) sl.loops
      { sl with pc := r.1, loops := r.2 }

/-- The issue port of a class as its grid counter: V 1, M 2, S 3 (R44, R405). -/
def portCounter (cls : Nat) : Nat :=
  if 2 ≤ cls ∧ cls ≤ 4 then 1 else if cls = 5 ∨ cls = 6 then 2 else 3

/-- The budget falls by one on the issue of an instruction other than YIELD outside a handler (R60). -/
def spend (g : Group) (x : Ctx) (isYield : Bool) : Group :=
  if x.inH || isYield then g else { g with budget := g.budget - 1 }

/-- What an issue itself changes: the budget, the grid counters, the records that end when an instruction has issued
(R221, R379). -/
def issued (s : State) (x : Ctx) (cls : Nat) (isYield : Bool) : State :=
  let s := modGroup s x.uid fun g =>
    (spend g x isYield).modSplit x.e fun sp =>
      { sp with mapp := if x.inH then sp.mapp else none, compared := if x.inH then sp.compared else false
                step := false }
  x.count (x.count s 0 1) (portCounter cls) 1

/-- Every result of the stream has a value, so a wait for them can end (R50); poisoned data has none, and its fault comes first (R372). -/
def resultsReady (g : Group) (e : Nat) : Bool := (g.split e).pend.all fun p => p.await.isNone && p.bad.isNone

/-- Sticky flags are raised in the group (R120). -/
def Group.raise (g : Group) (f : BitVec 6) : Group := { g with fstat := g.fstat ||| f }

/-- An outstanding result lands: its registers are written and its flags raised (R52, R120). -/
def Group.land (g : Group) (p : Pending) : Group := (g.writes p.writes).raise p.flags

/-- Every outstanding result of the stream is written, in issue order (R50). -/
def drainResults (g : Group) (e : Nat) : Group :=
  ((g.split e).pend.foldl Group.land g).modSplit e fun sp => { sp with pend := [] }

/-- How an instruction issues. -/
structure IssueHow where
  len : Nat
  cls : Nat
  wait : Bool                       -- Y = 1, or an implied wait for the stream's results
  isYield : Bool
  compare : Ctx → Bool              -- a compare point of paired execution (R379)
  chk : DecodeCtx → Option Nat      -- the decode checks that remain (R94)

/-- The stream when the wait of its marker is over: its outstanding results are written (R50). -/
def waited (how : IssueHow) (x : Ctx) : Ctx :=
  if how.wait then { x with g := drainResults x.g x.e } else x

/-- The state when the wait of the marker is over. -/
def waitedState (how : IssueHow) (x : Ctx) (s : State) : State :=
  if how.wait then { s with groups := kset s.groups x.uid (drainResults x.g x.e) } else s

/-- A trap that waits its turn enters the handler when the partition is free (R122). DEDUCED (log 48). -/
def takeWaitingTrap (s : State) (x : Ctx) : State :=
  match (x.g.split x.e).trap with
  | some t =>
    if partitionBusy s x.core x.g.part then s
    else modGroup s x.uid fun g => g.enterHandler x.e (handlerAddr s x.t.grid.toNat t.cause) t
  | none => s

/-- A step on an entry that is parked at a switch marker issues nothing, and ends (R45, R357). -/
def endStep (s : State) (u e : Nat) : State := modGroup s u fun g => g.modSplit e fun sp => { sp with step := false }

/-- The issue of an instruction by the current stream: the wait of its marker (R50), the decode checks (R94), the budget
(R60), then the instruction itself. Without a stream that can issue nothing issues. -/
def issue (how : IssueHow) (body : Ctx → State → Res) (s : State) : Host.Outcome State Fault Refusal :=
  match ctx? s with
  | none => .next s
  | some x =>
    if how.wait && x.g.hold && !(x.g.split x.e).pend.isEmpty then .next (endStep s x.uid x.e)
    else if how.wait && !resultsReady x.g x.e then .next s
    else if !x.inH && (x.g.split x.e).trap.isSome then .next (takeWaitingTrap s x)
    else
      let y := waited how x
      let t := waitedState how x s
      match how.chk y.dec with
      | some d => .next (streamFault t y 0x10 d 0)
      | none =>
        if y.g.budget = 0 && !y.inH && !how.isYield then .next (streamFault t y 0x1B 0 0)
        else if y.t.twin.isSome && (how.compare y || decide (4096 ≤ y.t.writes)) && !(y.g.split y.e).compared then
          .next (modGroup t y.uid fun g => g.modSplit y.e fun sp => { sp with run := .pair t.dtime })
        else
          match body y t with
          | .done u => .next (modGroup (issued u y how.cls how.isYield) y.uid fun g => advance g y how.len)
          | .flow u => .next (issued u y how.cls how.isYield)
          | .stall u => .next u
          | .fault u c d a => .next (streamFault u y c d a)
          | .trap u tr => .next (takeTrap u y.uid y.e tr)

/-- How an instruction of the uniform layout issues (R71, R73, R74). -/
def howOp (op : Nat) (isExt : Bool) (w : ExtArgs) : IssueHow :=
  { len := if isExt then (if w.lit.isSome then 20 else 12) else (if w.lit.isSome then 12 else 4)
    cls := op / 32
    wait := w.y
    isYield := false
    compare := fun _ => false
    chk := fun d => opCheck op isExt (some d) w }

/-- s with the stream's group replaced by g. -/
def Ctx.put (x : Ctx) (s : State) (g : Group) : State := { s with groups := kset s.groups x.uid g }

/-- An instruction that only writes registers at fixed latency: its writes and the flags it raises, from the registers as
they stand (R53). -/
def issueRegs (how : IssueHow) (f : Ctx → List RegWrite × BitVec 6) (s : State) :
    Host.Outcome State Fault Refusal :=
  issue how (fun x s =>
    let r := f x
    .done (x.put s ((x.g.writes r.1).raise r.2))) s

/-- A result is outstanding: it lands later (R52, R131). -/
def Group.addPending (g : Group) (e : Nat) (p : Pending) : Group :=
  g.modSplit e fun sp => { sp with pend := sp.pend ++ [p] }

/-- The results of an access of the stream, of which some may be poisoned, by the detail d (R52, R372). -/
def Group.addResults (g : Group) (x : Ctx) (good bad : List RegWrite) (d : Option Nat) : Group :=
  let g := g.addPending x.e { writes := good, await := none }
  match d with
  | none => g
  | some d => g.addPending x.e { writes := bad, await := none, bad := some { detail := d, pc := x.pc, inH := x.inH } }

/-- The detail of poisoned data that is under way to one of some registers (R372). -/
def Group.poisoned (g : Group) (l : List RegRef) : Option Nat :=
  g.splits.findSome? fun sp => sp.pend.findSome? fun p =>
    p.bad.bind fun b => if p.writes.any (fun w => l.contains w.1) then some b.detail else none

/-- A stream of a team has consumed poison, and the fault is yet to be raised (R372). -/
def consuming (s : State) (t : Team) : Bool :=
  t.groups.any fun u => (kget s.groups u).any fun g => g.splits.any fun sp => sp.pend.any fun p => p.bad.isSome

/-- An instruction whose register results are of variable latency (R52); its flags come with them, so that another stream's GET or
PUT of fstat finds them before or after (R120). -/
def issueVar (how : IssueHow) (f : Ctx → List RegWrite × BitVec 6) (s : State) :
    Host.Outcome State Fault Refusal :=
  issue how (fun x s =>
    let r := f x
    .done (x.put s (x.g.addPending x.e { writes := r.1, await := none, flags := r.2 }))) s

/-- The stream's program counter becomes pc in each slice of l. -/
def Group.setPc (g : Group) (l : List Nat) (pc : DWord) : Group := g.modSlices l fun _ sl => { sl with pc := pc }

/-! ### Events -/

/-- What an event does where it can take place: the state t where c holds. -/
def whenOk (c : Bool) (t : Unit → State) : Option State := if c then some (t ()) else none

/-- A turn that names an event: it takes place where it can, and otherwise the turn passes with nothing changed (R7). -/
def happens (s : State) (o : Option State) : Host.Outcome State Fault Refusal := .next (o.getD s)

end Sys2Proof.Machine
end

