-- ==== Sys2Proof/Machine/Operands.lean ====
section
/-! DEFINITION. Operand forms (R77, R80, R81, R140): how an instruction of the uniform layout reads its sources and writes its
destination, per lane and per slice. -/

namespace Sys2Proof.Machine

/-- A 32-bit source at A of a lane: the scalar when SP names A (R81), else the register. -/
def Ctx.a32 (x : Ctx) (w : ExtArgs) (l : Nat) : Word :=
  if w.sp = 1 then x.s (l / 4) w.s.toNat else x.v l w.a.toNat

/-- A 64-bit source at A of a lane. -/
def Ctx.a64 (x : Ctx) (w : ExtArgs) (l : Nat) : DWord :=
  if w.sp = 1 then x.ss (l / 4) w.s.toNat else x.vv l w.a.toNat

/-- A 32-bit source at B of a lane: the scalar, the literal (R77), or the register. Where an instruction has both a literal at B and SP = 0b10
the scalar supplies it. DESIGN CHOICE (log 55). -/
def Ctx.b32 (x : Ctx) (w : ExtArgs) (l : Nat) : Word :=
  if w.sp = 2 then x.s (l / 4) w.s.toNat
  else match w.lit with
    | some v => v.extractLsb' 0 32
    | none => x.v l w.b.toNat

/-- A 64-bit source at B of a lane. -/
def Ctx.b64 (x : Ctx) (w : ExtArgs) (l : Nat) : DWord :=
  if w.sp = 2 then x.ss (l / 4) w.s.toNat
  else match w.lit with
    | some v => v
    | none => x.vv l w.b.toNat

/-- A 32-bit source at C of a lane. -/
def Ctx.c32 (x : Ctx) (w : ExtArgs) (l : Nat) : Word :=
  if w.sp = 3 then x.s (l / 4) w.s.toNat else x.v l w.c.toNat

/-- A 64-bit source at C of a lane. -/
def Ctx.c64 (x : Ctx) (w : ExtArgs) (l : Nat) : DWord :=
  if w.sp = 3 then x.ss (l / 4) w.s.toNat else x.vv l w.c.toNat

/-- A scalar source at B of a slice: the literal or the scalar. -/
def Ctx.bS (x : Ctx) (w : ExtArgs) (k : Nat) : Word :=
  match w.lit with
  | some v => v.extractLsb' 0 32
  | none => x.s k w.b.toNat

/-- Writes per active lane, and the union of the flags they raise. -/
def perLane (l : List Nat) (f : Nat → List RegWrite × Flags) : List RegWrite × Flags :=
  l.foldl (fun acc n => let r := f n; (acc.1 ++ r.1, acc.2 ||| r.2)) ([], 0)

/-- A 32-bit result per active lane, without flags. -/
def laneOp32 (w : ExtArgs) (f : Ctx → Nat → Word) (x : Ctx) : List RegWrite × Flags :=
  ((x.active w).flatMap fun l => x.wv l w.d.toNat (f x l), 0)

/-- A 64-bit result per active lane, without flags. -/
def laneOp64 (w : ExtArgs) (f : Ctx → Nat → DWord) (x : Ctx) : List RegWrite × Flags :=
  ((x.active w).flatMap fun l => x.wvv l w.d.toNat (f x l), 0)

/-- A 32-bit floating result per active lane, with its flags. -/
def laneOpF (w : ExtArgs) (f : Ctx → Nat → Nat × Flags) (x : Ctx) : List RegWrite × Flags :=
  perLane (x.active w) fun l => let r := f x l; (x.wv l w.d.toNat (BitVec.ofNat 32 r.1), r.2)

/-- A 32-bit result per issuing slice. -/
def sliceOp (w : ExtArgs) (f : Ctx → Nat → Word) (x : Ctx) : List RegWrite × Flags :=
  (x.sl.flatMap fun k => x.ws k w.d.toNat (f x k), 0)

/-- The rounding of RM without a slot: RNE when it is zero (R82). SR is not legal here. -/
def rmOf (w : ExtArgs) : Rnd :=
  match w.rm.toNat with
  | 2 => .rz | 3 => .ru | 4 => .rd | _ => .rne

/-- The grid's format slot that FS names. -/
def Ctx.slot (x : Ctx) (n : BitVec 3) : FmtSlot := slotAt x.gr.launch.slots n

/-- The per-tensor scale of a slot (R181). -/
def scaleOf (sl : FmtSlot) : Exact := if sl.tsen then fp32 sl.tscale else .fin false 1 1 0

/-- R180: the random bits of a lane's stochastic rounding, from the source word, the lane, the element and the key. -/
def Ctx.srBits (x : Ctx) (a : Word) (lane e : Nat) (key : DWord) : Nat :=
  let c := a.toNat * 2 ^ 32 + x.t.num % 2 ^ 15 * 2 ^ 16 + x.g.gid * 2 ^ 11 + lane * 2 ^ 5 + e
  (rndx (BitVec.ofNat 64 c) key).toNat

/-- The rounding of an instruction that takes a slot (R82, R181): RM's, or the slot's; SR draws the lane's bits (R180). -/
def Ctx.rmSlot (x : Ctx) (w : ExtArgs) (round : BitVec 3) (key : DWord) (a : Word) (lane e : Nat) : Rnd :=
  match w.rm.toNat with
  | 1 => .rne | 2 => .rz | 3 => .ru | 4 => .rd
  | 5 => .sr (x.srBits a lane e key)
  | _ => match round.toNat with
    | 1 => .rz | 2 => .ru | 3 => .rd | 4 => .sr (x.srBits a lane e key) | _ => .rne

/-- The signed comparison codes 0 to 5 and the unsigned 8 to 13 of R79 on integers. -/
def intRel (k : Nat) (a b : Int) : Bool :=
  match k with
  | 0 => decide (a = b) | 1 => decide (a ≠ b) | 2 => decide (a < b)
  | 3 => decide (a ≤ b) | 4 => decide (b < a) | _ => decide (b ≤ a)

/-- A compare of n-bit values under a condition code (R79). -/
def intCompare {n : Nat} (code : Nat) (a b : BitVec n) : Bool :=
  if code < 8 then intRel code a.toInt b.toInt else intRel (code - 8) a.toNat b.toNat

/-- The combine of R79: t with the bit q by the combine field. -/
def combineBit (comb : Nat) (t q : Bool) : Bool :=
  match comb with
  | 1 => t && q | 2 => t || q | 3 => t != q | _ => t

/-- The condition code of a cd operand (R78). -/
def cdCode (w : ExtArgs) : Nat := (w.d.extractLsb' 3 4).toNat

/-- The destination of a cd operand. -/
def cdDest (w : ExtArgs) : Nat := (w.d.extractLsb' 0 3).toNat

/-- The combine field SUB[2:1] (R79). -/
def combOf (w : ExtArgs) : Nat := (w.sub.extractLsb' 1 2).toNat

/-- The bit that AUX[2:0] names and the inversion AUX[3]. -/
def auxSel (w : ExtArgs) : Nat := (w.aux.extractLsb' 0 3).toNat
def auxInv (w : ExtArgs) : Bool := w.aux.getLsbD 3

end Sys2Proof.Machine
end

