-- ==== Sys2Proof/Machine/Fetch.lean ====
section
/-! DEFINITION. Instruction fetch (R72, R95, R215): a word at a time through the core's TLB and instruction cache. -/

namespace Sys2Proof.Machine

/-- What the fetch of a word answers: the word, a page fault naming a page, an access fault, or that it waits for a
route (R409). -/
inductive Fetched where
  | ok (w : Word)
  | page (base : Nat)
  | fault (detail addr : Nat)
  | wait
  deriving DecidableEq, Repr

/-- What a fetch needs: X, not R (R72). -/
def needX : Need := { r := false, w := false, x := true, scope := none, atom := none }

/-- The lines that a core's instruction cache holds: the spec gives no number. DESIGN CHOICE (log 35). -/
def Core.icacheCap (k : Core) : Nat := 65536 - k.icOff

/-- A word through the instruction cache: where the cached line and memory differ, either (R95). A full cache loses one of its lines.
DESIGN CHOICE (log 11). -/
def icacheWord (s : State) (core pa : Nat) : Word × State :=
  let new := readN s.mem pa 4
  match kget (coreAt s core).icache (pa / 128) with
  | none =>
    let k := coreAt s core
    let (v, s) := if k.icache.length < k.icacheCap then (0, s) else pick s 65536
    (BitVec.ofNat 32 new,
      modCore s core fun q => { q with icache := l1Insert k.icacheCap k.icache v (pa / 128) (lineOf s.mem pa) })
  | some line =>
    let old := readN line pa 4
    if old = new then (BitVec.ofNat 32 old, s)
    else let (c, s) := pick s 2; (BitVec.ofNat 32 (if c = 0 then old else new), s)

/-- The first byte of the page at which a walk ends (R72). -/
def walkBase (w : Walk) : Nat :=
  match w with
  | .leaf _ _ base _ | .invalid _ _ base _ _ => base
  | .bad _ base => base

/-- Fetch the word at va for a core; the flag tells of a TLB miss. -/
def fetchWord (s : State) (core space va : Nat) : Fetched × Bool × State :=
  if !inGridSpace va then (.fault 0 (va / 65536 * 65536), false, s)
  else
    let (w, hit, s) := translate s core false space va
    match checkWalk s.pkg (some (dieOfCore core)) va needX w with
    | .access d => (.fault d (walkBase w), !hit, s)
    | .page b => (.page b, !hit, s)
    | .ok pa _ =>
      if targetRefuses s pa then (.fault 4 (walkBase w), !hit, s)
      else if accessAwaited s pa && (kget (coreAt s core).icache (pa / 128)).isNone then (.wait, !hit, s)
      else let (v, s) := icacheWord s core pa; (.ok v, !hit, s)

/-- The stream's fetch of a word, with its TLB miss counted. -/
def Ctx.fetch (x : Ctx) (s : State) (va : Nat) : Fetched × State :=
  let (r, miss, s) := fetchWord s x.core x.gr.space va
  (r, if miss then x.count s 11 1 else s)

/-- n more words of an instruction. -/
def Ctx.fetchMore (x : Ctx) : Nat → Nat → State → List Word → (Fetched ⊕ List Word) × State
  | 0, _, s, acc => (.inr acc.reverse, s)
  | n + 1, va, s, acc =>
    match x.fetch s va with
    | (.ok w, s) => x.fetchMore n (va + 4) s (w :: acc)
    | (r, s) => (.inl r, s)

/-- A failed fetch as an outcome of the instruction (R72, R217): a trap on every lane of the stream, or a fault. -/
def Ctx.fetchFail (x : Ctx) (s : State) (r : Fetched) : Res :=
  match r with
  | .page b => .trap s ⟨1, 1, BitVec.ofNat 64 b, laneMask x.lanes, []⟩
  | .fault d a => .fault s 0x22 d (BitVec.ofNat 64 a)
  | .ok _ | .wait => .stall s

end Sys2Proof.Machine
end

