-- ==== Sys2Proof/Machine/Memory.lean ====
section
/-! DEFINITION. Class 101: memory instructions (R90, R193 to R215, R236, R237); PUTI stands in Remote. -/

namespace Sys2Proof.Machine

/-! ### Addresses (R204) -/

/-- The offset of a slice: the literal's low word, or its copy of the scalar at B. -/
def Ctx.off (x : Ctx) (w : ExtArgs) (k : Nat) : Word :=
  match w.lit with
  | some v => v.extractLsb' 0 32
  | none => x.s k w.b.toNat

/-- ea of a lane: the pair at A, or the scalar pair that replaces it, plus the sign-extended offset. -/
def Ctx.ea (x : Ctx) (w : ExtArgs) (l : Nat) : Nat := (x.a64 w l + (x.off w (l / 4)).signExtend 64).toNat

/-- ea of a slice (SLD, SST). -/
def Ctx.eaS (x : Ctx) (w : ExtArgs) (k : Nat) : Nat := (x.ss k w.a.toNat + (x.off w k).signExtend 64).toNat

/-- The local offset of a lane (LDL, STL). -/
def Ctx.eo (x : Ctx) (w : ExtArgs) (l : Nat) : Nat := (x.v l w.a.toNat + x.off w (l / 4)).toNat

/-- The access size in bytes (R203). -/
def accessSize (w : ExtArgs) : Nat :=
  match (w.sub.extractLsb' 0 3).toNat with
  | 1 | 2 => 1 | 3 | 4 => 2 | 5 => 8 | 6 => 16 | _ => 4

/-- The register words of a loaded value (R203). -/
def loadWords (w : ExtArgs) (v : Nat) : List Word :=
  let part (i : Nat) : Word := BitVec.ofNat 32 (v / 2 ^ (32 * i))
  match (w.sub.extractLsb' 0 3).toNat with
  | 2 => [(BitVec.ofNat 8 v).signExtend 32]
  | 4 => [(BitVec.ofNat 16 v).signExtend 32]
  | 5 => [part 0, part 1]
  | 6 => [part 0, part 1, part 2, part 3]
  | _ => [part 0]

/-- The number of registers of the data. -/
def accessRegs (w : ExtArgs) : Nat :=
  match (w.sub.extractLsb' 0 3).toNat with
  | 5 => 2 | 6 => 4 | _ => 1

/-- Register words as one number, the first lowest. -/
def ofWords : List Word → Nat
  | [] => 0
  | v :: l => v.toNat + 2 ^ 32 * ofWords l

/-- The value that a lane stores: its n low bytes count (R203). -/
def Ctx.storeVal (x : Ctx) (w : ExtArgs) (l : Nat) : Nat :=
  ofWords ((List.range (accessRegs w)).map fun i => x.v l (w.d.toNat + i))

/-- The same of a slice. -/
def Ctx.storeValS (x : Ctx) (w : ExtArgs) (k : Nat) : Nat :=
  ofWords ((List.range (accessRegs w)).map fun i => x.s k (w.d.toNat + i))

/-- Whether a load or store names an order (O, R90), and its scope. -/
def ordered (w : ExtArgs) : Bool := w.sub.getLsbD 3
def orderScope (w : ExtArgs) : Nat := (w.sub.extractLsb' 4 3).toNat
def streaming (w : ExtArgs) : Bool := w.sub.getLsbD 7

/-- A group belongs to the stream's instance of a scope (R228). -/
def inInstance (s : State) (x : Ctx) (scope u : Nat) : Bool :=
  decide (u = x.uid ∨ scope ≤ 2) || (kget s.groups u).any fun g =>
    (decide (scope ≤ 5) && decide (g.team = x.g.team)) || (kget s.teams g.team).any fun t => t.core.any fun c =>
      decide (scope ≤ 4 ∧ c = x.core) || decide (scope ≤ 3 ∧ dieOfCore c = dieOfCore x.core)

/-- An acquire of the stream at a scope sees a write (R228, R230, R242): that of an operation that has completed, or of a sequencer, in the
stream's instance of the scope, and one that an agent of the instance has seen; loc is a write of local memory, which TEAM scope holds.
DEDUCED (log 11). -/
def seesAt (s : State) (x : Ctx) (scope : Nat) (loc : Bool) (v : Unseen) : Bool :=
  (match v.op with
    | none => decide (scope ≤ 2)
    | some (id, c) => !opLive s id && (decide (scope ≤ 2) || (loc && decide (scope ≤ 5))
        || decide (scope = 3 ∧ dieOfCore c = dieOfCore x.core) || decide (scope = 4 ∧ c = x.core)))
    || v.seen.any fun k => inInstance s x scope (k / 16)

/-- What the stream's acquire at a scope sees of the writes of engines and sequencers. -/
def seeScope (s : State) (x : Ctx) (scope : Nat) : State :=
  let t := { s with behind := seeAll x.keys (seesAt s x scope false) s.behind }
  if x.t.behind.isEmpty then t
  else modTeam t x.g.team fun t => { t with behind := seeAll x.keys (seesAt s x scope true) t.behind }

/-- R236, R237: an acquire of the stream at DIE scope or wider drops the core's L1; it sees the writes that its scope gives it. -/
def acquire (s : State) (x : Ctx) (scope : Nat) : State :=
  seeScope (if scope ≤ 3 then dropL1 s x.core else s) x scope

/-! ### Accesses to memory -/

/-- One checked access: its lane or slice, virtual and physical address, and the leaf. -/
structure Acc where
  key : Nat
  va : Nat
  pa : Nat
  leaf : DWord
  deriving DecidableEq, Repr

/-- An access for which a request must leave the package waits for a route (R409): one that neither the core's L1 nor the L2 of its die
serves. -/
def mustWait (s : State) (core : Nat) (n : Need) (pa : Nat) : Bool :=
  accessAwaited s pa && (n.atom.isSome || match l2At s (dieOfCore core) (pa / 128) with
    | .excl | .modified => false
    | .inv => n.w || (kget (coreAt s core).l1 (pa / 128)).isNone
    | _ => n.w)

/-- The accesses of an instruction: checked in the order of R205, with a page fault's lanes (R217) or a fault; those that
their target does not refuse are made, and a refusal is under way for the first that it does (R191). Where one must wait for a route, the
instruction does not issue yet. -/
def memAccess (x : Ctx) (s : State) (n : Need) (align : Nat) (l : List (Nat × Nat)) (lanesOf : Nat → List Nat)
    (act : List Acc → State → Res) : Res :=
  let before := s
  let (c, miss, s) := checkAccesses s x.core x.gr.space false n align l
  let s := x.count s 11 miss
  match c with
  | .fault cause d a => .fault s cause d (BitVec.ofNat 64 a)
  | .page keys base => .trap s ⟨1, 0, BitVec.ofNat 64 base, laneMask (keys.flatMap lanesOf), []⟩
  | .ok r =>
    let acc := (l.zip r).map fun p => ({ key := p.1.1, va := p.1.2, pa := p.2.1, leaf := p.2.2 } : Acc)
    let bad := acc.filter fun a => targetRefuses s a.pa
    let s := match bad with
      | [] => s
      | a :: _ => modGroup s x.uid fun g =>
          g.modSplit x.e fun sp => { sp with refused := some (x.pc, BitVec.ofNat 64 a.va) }
    if acc.any fun a => mustWait s x.core n a.pa then .stall before
    else act (acc.filter fun a => !targetRefuses s a.pa) s

/-- Whether a read of n bytes at pa consumes poison (R372): a line that the core's L1 still holds may be used instead. -/
def readPoison (s : State) (core pa n : Nat) : Option Nat × State :=
  match poisonAt s pa n with
  | none => (none, s)
  | some d =>
    match kget (coreAt s core).l1 (pa / 128) with
    | none => (some d, s)
    | some _ => let (c, s) := pick s 2; (if c = 0 then none else some d, s)

/-- The keys of the accesses whose reads consume poison, each with its detail. -/
def findPoison (core n : Nat) : State → List Acc → List (Nat × Nat) × State
  | s, [] => ([], s)
  | s, a :: l =>
    let (d, s) := readPoison s core a.pa n
    let (r, s) := findPoison core n s l
    ((d.map fun d => (a.key, d)).toList ++ r, s)

/-- Read each access through the L1, with the counts of hits and misses (R405); found is the state as the instruction found it. -/
def readFrom (found : State) (x : Ctx) (nc : Bool) (n : Nat) : State → List Acc → List (Nat × Nat) × State
  | s, [] => ([], s)
  | s, a :: l =>
    let (b, hit, s) := loadFrom found s x.core x.keys x.t.held nc a.pa n
    let s := x.count s (if hit then 9 else 10) 1
    let (r, s) := readFrom found x nc n s l
    ((a.key, ofBytes b) :: r, s)

/-- The reads of one instruction, which are unordered: each may find a line, and a byte, as the instruction found it (R9, R212, R242). -/
def loadEach (x : Ctx) (nc : Bool) (n : Nat) (s : State) (l : List Acc) : List (Nat × Nat) × State := readFrom s x nc n s l

/-- The values of some accesses are under way to their registers; those whose keys bad gives are poisoned (R52, R372). -/
def Ctx.results (x : Ctx) (dst : Nat → Nat → List RegWrite) (bad vals : List (Nat × Nat)) (s : State) : State :=
  let isBad (p : Nat × Nat) : Bool := bad.any fun b => decide (b.1 = p.1)
  let part (l : List (Nat × Nat)) : List RegWrite := l.flatMap fun p => dst p.1 p.2
  modGroup s x.uid fun g =>
    g.addResults x (part (vals.filter fun p => !isBad p)) (part (vals.filter isBad)) (bad.head?.map (·.2))

/-- A load: the values are bound now and land later (R52). Poisoned data lands too, and then raises its fault (R372). -/
def loadMem (x : Ctx) (w : ExtArgs) (l : List (Nat × Nat)) (lanesOf : Nat → List Nat)
    (dst : Nat → List Word → List RegWrite) (s : State) : Res :=
  let n := accessSize w
  memAccess x s { needR with scope := if ordered w then some (orderScope w) else none } n l lanesOf fun acc s =>
    let (bad, s) := findPoison x.core n s acc
    let (vals, s) := loadEach x (streaming w) n s acc
    let s := x.results (fun k v => dst k (loadWords w v)) bad vals s
    .done (if ordered w then acquire s x (orderScope w) else s)

/-- What a write by grid h may add to its records: an entry 0x4B, and FLAGS[1] when the set has just become
non-replayable (R374). -/
def snapReport (before s : State) (h team gid : Nat) (pc : DWord) (ex : Bool) : State :=
  let s := if ex then report s h team gid 0x4B 0 0 pc 0 false else s
  match snapRoot s h with
  | some (r, g) => if g.nonReplay && !(snapRoot before h).any (·.2.nonReplay) then frWrite s r none else s
  | none => s

/-- A memory write of the stream's team, which is performed. -/
def Ctx.perform (x : Ctx) (s : State) (va pa n v : Nat) : State :=
  let (ex, t) := storeBytes s x.core x.g.team x.t.grid.toNat va pa n v
  seeBytes (snapReport s t x.t.grid.toNat x.t.num x.g.gid x.pc ex) x.keys pa n

/-- A memory write of the stream's team: one that is issued after an access of the team has consumed poison and before the team stops is
performed or not (R372); what a twin holds waits for its compare. -/
def Ctx.write (x : Ctx) (s : State) (va pa n v : Nat) : State :=
  if x.t.twin.isNone && consuming s x.t then
    let (c, s) := pick s 2
    if c = 0 then s else x.perform s va pa n v
  else x.perform s va pa n v

/-- A write of n bytes at pa of poisoned data leaves its lines poisoned (R372). -/
def poisonLines (s : State) (pa n d : Nat) : State :=
  { s with poison := kset (kset s.poison (pa / 128) d) ((pa + n - 1) / 128) d }

/-- A store of a unit of an access: of data that is poisoned, by the detail d, and that may have landed, it may write the poison, and not the
value that the register held (R52, R372). -/
def Ctx.storeUnit (x : Ctx) (s : State) (va pa n v : Nat) (d : Option Nat) : State :=
  match d with
  | none => x.write s va pa n v
  | some d =>
    let (c, t) := pick (x.write s va pa n v) 2
    if c = 0 ∨ x.t.twin.isSome then t else poisonLines t pa n d

/-- Whether two of a list's keys are equal. -/
def repeats : List Nat → Bool
  | [] => false
  | a :: l => l.contains a || repeats l

/-- l in the order in which its operations take effect: any order where two of them meet at one key, and as it stands
otherwise (R196, R206, R211). -/
def anyOrder {α : Type} (key : α → Nat) (l : List α) (s : State) : List α × State :=
  if repeats (l.map key) then (permute l.length (Config.free s.freeCtr) l, { s with freeCtr := s.freeCtr + 1 })
  else (l, s)

/-- The single-copy atomic parts of stores of n bytes: a .b128 store is two of 8, one after the other, so that lanes that store to one
place leave the whole value of one of them (R206). -/
def storeUnits (n : Nat) (l : List (Acc × Nat)) : List (Acc × Nat) :=
  if n = 16 then
    l.flatMap fun p => [(p.1, p.2 % 2 ^ 64), ({ p.1 with va := p.1.va + 8, pa := p.1.pa + 8 }, p.2 / 2 ^ 64)]
  else l

/-- Accesses of an instruction take effect in any order where two of them meet at one physical place, or where the copies of a snapshot show
the order (R9, R206, R211, R373). -/
def Ctx.unordered (x : Ctx) (acc : List Acc) (s : State) : List Acc × State :=
  anyOrder (fun a => if (snapRoot s x.t.grid.toNat).isSome then 0 else a.pa) acc s

/-- A store: lanes that store to one physical place, at whatever virtual addresses, do so in some order (R206, R227). reg gives the
registers of an access's data. -/
def storeMem (x : Ctx) (w : ExtArgs) (l : List (Nat × Nat)) (lanesOf : Nat → List Nat) (val : Nat → Nat) (reg : Nat → Nat → RegRef)
    (s : State) : Res :=
  let n := accessSize w
  let bad (k : Nat) : Option Nat := x.g.poisoned ((List.range (accessRegs w)).map fun i => reg k (w.d.toNat + i))
  memAccess x s { needW with scope := if ordered w then some (orderScope w) else none } n l lanesOf fun acc s =>
    let (l, s) := x.unordered acc s
    .done ((storeUnits n (l.map fun a => (a, val a.key))).foldl
      (fun s p => x.storeUnit s p.1.va p.1.pa (min n 8) p.2 (bad p.1.key)) s)

/-- A release is a compare point of paired execution where it acts (R379). -/
def howRelease (w : ExtArgs) (how : IssueHow) : IssueHow :=
  { how with compare := fun x => ordered w && !(x.active w).isEmpty }

/-- LD (R207). -/
def semLd (w : ExtArgs) (x : Ctx) (s : State) : Res :=
  loadMem x w ((x.active w).map fun l => (l, x.ea w l)) (fun l => [l])
    (fun l vs => vs.zipIdx.flatMap fun p => x.wv l (w.d.toNat + p.2) p.1) s

/-- ST (R207). -/
def semSt (w : ExtArgs) (x : Ctx) (s : State) : Res :=
  storeMem x w ((x.active w).map fun l => (l, x.ea w l)) (fun l => [l]) (x.storeVal w) x.refV s

/-- SLD (R207): per slice that has an active lane; a page fault names every lane of the slice. DESIGN CHOICE (log 39). -/
def semSld (w : ExtArgs) (x : Ctx) (s : State) : Res :=
  loadMem x w ((x.activeSlices w).map fun k => (k, x.eaS w k)) sliceLanes
    (fun k vs => vs.zipIdx.flatMap fun p => x.ws k (w.d.toNat + p.2) p.1) s

/-- SST (R207); a page fault names every lane of the slice. DESIGN CHOICE (log 39). -/
def semSst (w : ExtArgs) (x : Ctx) (s : State) : Res :=
  storeMem x w ((x.activeSlices w).map fun k => (k, x.eaS w k)) sliceLanes (x.storeValS w) x.refS s

/-! ### Local memory (R193) -/

/-- R205, orders 1 and 2, on local offsets. -/
def checkLocal (x : Ctx) (align n : Nat) (l : List Nat) : Option Nat :=
  if l.any fun a => decide (a % align ≠ 0) then some 0x20
  else if l.any fun a => decide (x.gr.launch.localSize < a + n) then some 0x21
  else none

/-- A stream reads n bytes of its team's local memory: of those that an engine has written, each may be as it was before (R242). The flag
tells of one. -/
def localBytes (x : Ctx) (c a n : Nat) : List Byte × List (Nat × Nat) :=
  if anyBehind x.t.behind a n then readBehind x.t.behind x.keys c a (readList x.t.mem a n) else (readList x.t.mem a n, [])

/-- The reads of local memory by the lanes of an instruction, with the writes that they have seen; c names the first free choice. -/
def localEach (x : Ctx) (n : Nat) : Nat → List (Nat × Nat) → List (Nat × Nat) × List (Nat × Nat)
  | _, [] => ([], [])
  | c, (k, a) :: l =>
    let (b, seen) := localBytes x (Config.free c) a n
    let (r, more) := localEach x n (c + 1) l
    ((k, ofBytes b) :: r, seen ++ more)

/-- The stream has seen writes of its team's local memory. -/
def Ctx.seeLocal (x : Ctx) (seen : List (Nat × Nat)) (s : State) : State :=
  if x.t.behind.isEmpty then s
  else modTeam s x.g.team fun t => { t with behind := seeWrites x.keys t.behind seen }

/-- The stream has seen the newest write of each of n bytes at each of some places of local memory, which it writes or updates. -/
def Ctx.seeNewest (x : Ctx) (n : Nat) (l : List Nat) (s : State) : State :=
  x.seeLocal (l.flatMap fun a => (List.range n).map fun i => (a + i, 0)) s

/-- LDL (R207). -/
def semLdl (w : ExtArgs) (x : Ctx) (s : State) : Res :=
  let n := accessSize w
  let l := x.active w
  match checkLocal x n n (l.map (x.eo w)) with
  | some c => .fault s c 0 0
  | none =>
    let (vals, seen) := localEach x n s.freeCtr (l.map fun k => (k, x.eo w k))
    let s := if x.t.behind.isEmpty then s else { s with freeCtr := s.freeCtr + l.length }
    let s := modGroup s x.uid fun g => g.addPending x.e
      { writes := vals.flatMap fun p => (loadWords w p.2).zipIdx.flatMap fun q => x.wv p.1 (w.d.toNat + q.2) q.1, await := none }
    let s := x.seeLocal seen s
    .done (if ordered w then acquire s x (orderScope w) else s)

/-- STL (R207). -/
def semStl (w : ExtArgs) (x : Ctx) (s : State) : Res :=
  let n := accessSize w
  let l := x.active w
  match checkLocal x n n (l.map (x.eo w)) with
  | some c => .fault s c 0 0
  | none =>
    let at_ (k : Nat) : Acc := { key := k, va := x.eo w k, pa := x.eo w k, leaf := 0 }
    let (l, s) := anyOrder (x.eo w) l s
    let units := storeUnits n (l.map fun k => (at_ k, x.storeVal w k))
    .done (x.seeNewest n (l.map (x.eo w)) (modTeam s x.g.team fun t =>
      { t with mem := units.foldl (fun m p => writeN m p.1.va (min n 8) p.2) t.mem }))

/-! ### Atomics (R208 to R211) -/

/-- The new value of an atomic on n bytes (R209): m is the old value, v the operand, c the compare value; sr is the key of
stochastic rounding where it applies (R210). -/
def atomNew (op n : Nat) (unsigned : Bool) (m v c : Nat) (sr : Option DWord) : Nat :=
  let lt (a b : Nat) : Bool :=
    if unsigned then decide (a < b) else decide (signedOf (8 * n) a < signedOf (8 * n) b)
  let wm : Word := BitVec.ofNat 32 m
  let wv : Word := BitVec.ofNat 32 v
  match op with
  | 0 => (m + v) % 2 ^ (8 * n)
  | 1 => if lt v m then v else m
  | 2 => if lt m v then v else m
  | 3 => m &&& v
  | 4 => m ||| v
  | 5 => m ^^^ v
  | 6 => v
  | 7 => if m = c then v else m
  | 8 => (fpAdd fmt32 .rne false (fp32 wm) (fp32 wv)).1
  | 9 => (fpMinMax false wm wv).1.toNat
  | 10 => (fpMinMax true wm wv).1.toNat
  | _ =>
    let half (e : Nat) : Nat :=
      let rm : Rnd := match sr with
        | none => .rne
        | some key =>
          let r := (rndx (BitVec.ofNat 64 (m * 2 ^ 32 + v)) key).toNat
          .sr (r / 2 ^ (16 * e) % 65536 * 65536)
      (fpAdd fmtB16 rm false (decodeFloat fmtB16 (m / 2 ^ (16 * e) % 65536))
        (decodeFloat fmtB16 (v / 2 ^ (16 * e) % 65536))).1
    half 0 + 65536 * half 1

/-- The size in bytes of an atomic, and whether its type is unsigned. -/
def atomSize (w : ExtArgs) : Nat := if atomWide w then 8 else 4
def atomUnsigned (w : ExtArgs) : Bool := w.sub.getLsbD 4

/-- The key of .bfadd where the leaf asks for stochastic rounding (R198, R210). -/
def atomKey (x : Ctx) (leaf : DWord) : Option DWord := if leafBfsr leaf then some (x.slot 0).srkey else none

/-- The operand and compare values of a lane; RED's operand is its D register. -/
def Ctx.atomOperand (x : Ctx) (w : ExtArgs) (red : Bool) (l : Nat) : Nat :=
  if red then (if atomWide w then (x.vv l w.d.toNat).toNat else (x.v l w.d.toNat).toNat)
  else if atomWide w then (x.b64 w l).toNat else (x.b32 w l).toNat
def Ctx.atomCompare (x : Ctx) (w : ExtArgs) (l : Nat) : Nat :=
  if atomOp w ≠ 7 then 0 else if atomWide w then (x.c64 w l).toNat else (x.c32 w l).toNat

/-- The old values that the primary twin has forwarded to this stream of the shadow, first (R380). -/
def forwarded (t : Team) (gid e : Nat) : Option (List Nat) :=
  (t.fwd.find? fun f => decide (f.1 = gid ∧ f.2.1 = e)).map (·.2.2)

/-- The first forwarded entry of a stream taken out. -/
def dropForward (gid e : Nat) : List (Nat × Nat × List Nat) → List (Nat × Nat × List Nat)
  | [] => []
  | f :: l => if f.1 = gid ∧ f.2.1 = e then l else f :: dropForward gid e l

/-- What an atomic brings to the home of its line (R209, R248). -/
def Ctx.atomPayload (x : Ctx) (w : ExtArgs) (a : Acc) (red : Bool) : Payload :=
  .atomic (BitVec.ofNat 7 a.pa) (atomWide w) (BitVec.ofNat 4 (atomOp w)) (atomUnsigned w)
    (BitVec.ofNat 64 (x.atomOperand w red a.key)) (BitVec.ofNat 64 (x.atomCompare w a.key)) (atomKey x a.leaf)

/-- The atomics of a list performed in turn at home (R211): old and new values by access. -/
def atomEach (x : Ctx) (w : ExtArgs) (red : Bool) : State → List Acc → List (Acc × Nat × Nat) × State
  | s, [] => ([], s)
  | s, a :: l =>
    let n := atomSize w
    let m := readN s.mem a.pa n
    let v := atomNew (atomOp w) n (atomUnsigned w) m (x.atomOperand w red a.key) (x.atomCompare w a.key) (atomKey x a.leaf)
    let (ex, t) := snapshot s x.t.grid.toNat a.pa
    let s := snapReport s (storeRaw t (some x.core) .atomic a.pa (toBytes n v) (x.atomPayload w a red)) x.t.grid.toNat x.t.num x.g.gid x.pc ex
    let s := seeBytes s x.keys a.pa n
    let (r, s) := atomEach x w red s l
    ((a, m, v) :: r, s)

/-- What the atomics of a twin add to its signature (R377, R378). -/
def signAtomics (s : State) (tu n : Nat) (l : List (Acc × Nat)) : State :=
  modTeam s tu fun t =>
    if t.twin.isNone then t
    else { t with sig := l.foldl (fun h p => h + sigWrite p.1.va n p.2) t.sig, writes := t.writes + l.length }

/-- Put a value under each access in the order of the original list. -/
def inOrder (acc : List Acc) (r : List (Acc × Nat × Nat)) : List Nat :=
  acc.map fun a => ((r.find? fun p => decide (p.1.key = a.key)).map (·.2.1)).getD 0

/-- The old value bound to a lane's destination. -/
def Ctx.atomResult (x : Ctx) (w : ExtArgs) (k v : Nat) : List RegWrite :=
  if atomWide w then x.wvv k w.d.toNat (BitVec.ofNat 64 v) else x.wv k w.d.toNat (BitVec.ofNat 32 v)

/-- After the atomics: the results, which RED does not have, those of bad poisoned, and the acquire of the order (R231, R237, R372). -/
def atomDone (x : Ctx) (w : ExtArgs) (red : Bool) (s : State) (bad old : List (Nat × Nat)) : Res :=
  let ord := (w.aux.extractLsb' 0 2).toNat
  let s := if red then s else x.results (x.atomResult w) bad old s
  .done (if ord = 3 ∨ (ord = 1 ∧ ¬ red) then acquire s x (atomScope w) else s)

/-- ATOM and RED: the primary twin performs and forwards, and the shadow takes what was forwarded (R380). -/
def semAtomic (red : Bool) (w : ExtArgs) (x : Ctx) (s : State) : Res :=
  let n := atomSize w
  let need : Need := { r := true, w := true, x := false, scope := some (atomScope w), atom := some (atomOp w) }
  let addr (l : Nat) : Nat := if red then x.ea w l else (x.vv l w.a.toNat).toNat
  memAccess x s need n ((x.active w).map fun l => (l, addr l)) (fun l => [l]) fun acc s =>
    if x.t.shadow then
      match forwarded x.t x.g.gid x.e with
      | none => .stall s
      | some old =>
        let s := modTeam s x.g.team fun t => { t with fwd := dropForward x.g.gid x.e t.fwd }
        let l := (acc.zip old).map fun p =>
          (p.1, atomNew (atomOp w) n (atomUnsigned w) p.2 (x.atomOperand w red p.1.key) (x.atomCompare w p.1.key)
            (atomKey x p.1.leaf))
        atomDone x w red (signAtomics s x.g.team n l) [] ((acc.map (·.key)).zip old)
    else
      let bad := acc.filterMap fun a => (poisonAt s a.pa n).map fun d => (a.key, d)
      let (l, s) := x.unordered acc s
      let (r, s) := atomEach x w red s l
      let old := inOrder acc r
      let s := match x.t.twin with
        | some v => modTeam s v fun t => { t with fwd := t.fwd ++ [(x.g.gid, x.e, old)] }
        | none => s
      atomDone x w red (signAtomics s x.g.team n (r.map fun p => (p.1, p.2.2))) bad ((acc.map (·.key)).zip old)

/-- ATOM (R208). -/
def semAtom (w : ExtArgs) : Ctx → State → Res := semAtomic false w

/-- RED (R208). One of acquire-release order is an acquire, too (R237). DESIGN CHOICE (log 63). -/
def semRed (w : ExtArgs) : Ctx → State → Res := semAtomic true w

/-- Atomics on local memory in turn: old values by lane. -/
def atomLocal (x : Ctx) (w : ExtArgs) : FMap 8 → List Nat → List (Nat × Nat) × FMap 8
  | m, [] => ([], m)
  | m, l :: ls =>
    let n := atomSize w
    let a := (x.v l w.a.toNat).toNat
    let old := readN m a n
    let v := atomNew (atomOp w) n (atomUnsigned w) old (x.atomOperand w false l) (x.atomCompare w l) none
    let (r, m) := atomLocal x w (writeN m a n v) ls
    ((l, old) :: r, m)

/-- ATOML (R208). -/
def semAtoml (w : ExtArgs) (x : Ctx) (s : State) : Res :=
  let n := atomSize w
  let l := x.active w
  let eo (k : Nat) : Nat := (x.v k w.a.toNat).toNat
  match checkLocal x n n (l.map eo) with
  | some c => .fault s c 0 0
  | none =>
    let (l, s) := anyOrder eo l s
    let (old, m) := atomLocal x w x.t.mem l
    atomDone x w false (x.seeNewest n (l.map eo) (modTeam s x.g.team fun t => { t with mem := m })) [] old

/-- Atomics are compare points where they act (R379). -/
def howAtom (w : ExtArgs) (how : IssueHow) : IssueHow := { how with compare := fun x => !(x.active w).isEmpty }

/-! ### The tag table (R194 to R196) -/

/-- The valid entry that holds a tag. -/
def tagFind (t : KMap Word) (tag : Word) : Option Nat := (t.find? fun e => decide (e.2 = tag)).map (·.1)

/-- TAGQ. -/
def semTagq (w : ExtArgs) : Ctx → List RegWrite × Flags :=
  laneOp32 w fun x l => match tagFind x.t.tags (x.v l w.a.toNat) with
    | some e => BitVec.ofNat 32 e
    | none => 0xFFFFFFFF

/-- One TAGSET: the tag leaves every other entry and stands in entry n. -/
def tagSet (t : KMap Word) (n : Nat) (tag : Word) : KMap Word :=
  kset (t.filter fun e => decide (e.1 = n) || decide (e.2 ≠ tag)) n tag

/-- TAGSET: lanes that name one slot or one tag act in some order. -/
def semTagset (w : ExtArgs) (x : Ctx) (s : State) : Res :=
  let l := x.active w
  let slot (k : Nat) : Nat := (x.v k w.d.toNat).toNat
  let tag (k : Nat) : Word := x.v k w.a.toNat
  if l.any fun k => decide (255 < slot k) then .fault s 0x23 0 0
  else
    let (l, s) := if repeats (l.map fun k => (tag k).toNat) then anyOrder (fun k => (tag k).toNat) l s
      else anyOrder slot l s
    .done (modTeam s x.g.team fun t => { t with tags := l.foldl (fun m k => tagSet m (slot k) (tag k)) t.tags })

/-- TAGCLR. -/
def semTagclr (w : ExtArgs) (x : Ctx) (s : State) : Res :=
  let l := x.active w
  let slot (k : Nat) : Nat := (x.v k w.a.toNat).toNat
  if l.any fun k => decide (255 < slot k) then .fault s 0x23 0 0
  else .done (modTeam s x.g.team fun t => { t with tags := l.foldl (fun m k => kdel m (slot k)) t.tags })

/-! ### Fences and caches -/

/-- FENCE (R236): every access that precedes it has been performed when it issues, for accesses take effect as they issue and
the compare has released a twin's writes; an acquire drops the core's L1. -/
def semFence (scope kind : Nat) (act : Ctx → Bool) (x : Ctx) (s : State) : Res :=
  .done (if act x && decide (kind ≠ 2) then acquire s x scope else s)

/-- The physical address of ea where it translates, for an instruction that has found the TLB as old; nothing is raised (R9, R214, R215). -/
def quietAddr (old : List TlbEntry) (x : Ctx) (s : State) (va : Nat) : Option Nat × State :=
  if !inGridSpace va then (none, s)
  else
    let (w, hit, s) := translateFrom old s x.core false x.gr.space va
    let s := if hit then s else x.count s 11 1
    match w with
    | .leaf _ e base _ => (some (leafFrame e + (va - base)), s)
    | _ => (none, s)

/-- Whether a lane's prefetch is admitted, for an instruction that has found the TLB as old: readable as a load, and aligned, for which the
model takes 4 bytes (R9, R214). DESIGN CHOICE (log 58). -/
def prefAddr (old : List TlbEntry) (x : Ctx) (s : State) (va : Nat) : Option Nat × State :=
  if va % 4 ≠ 0 then (none, s)
  else
    match checkFrom old x.core x.gr.space false needR s [(0, va)] with
    | ([(_, _, .ok pa _)], miss, s) =>
      (if targetRefuses s pa || (poisonAt s pa 4).isSome then none else some pa, x.count s 11 miss)
    | (_, miss, s) => (none, x.count s 11 miss)

/-- PREF (R214): a line may be fetched into the L2 of the die, or into the L1. -/
def semPref (w : ExtArgs) (x : Ctx) (s : State) : Res :=
  let old := tlbOf s x.core false
  .done ((x.active w).foldl (fun s l =>
    let (c, s) := pick s 2
    if c = 0 then s
    else match prefAddr old x s (x.ea w l) with
      | (some pa, s) =>
        if w.sub = 0 then l2Touch s (dieOfCore x.core) pa .load else (loadBytes s x.core [] [] false pa 1).2.2
      | (none, s) => s) s)

/-- A dirty line of an L2 becomes clean where it stands (R215): set by the coherence state's operation. -/
def semCctl (wb : Nat → State → State) (w : ExtArgs) (x : Ctx) (s : State) : Res :=
  let old := tlbOf s x.core false
  let each (f : Nat → State → State) : Res :=
    .done ((x.active w).foldl (fun s l =>
      match quietAddr old x s (x.ea w l) with
      | (some pa, s) => f (pa / 128) s
      | (none, s) => s) s)
  match w.sub.toNat with
  | 0 => each fun line s => modCore s x.core fun k => { k with l1 := kdel k.l1 line }
  | 1 => .done (if (x.active w).isEmpty then s else modCore s x.core fun k => { k with l1 := [] })
  | 2 => each fun line s => modCore s x.core fun k => { k with icache := kdel k.icache line }
  | _ => each wb

/-! ### The instructions -/

/-- LD, base form. -/
def execLd (w : BaseArgs) (s : State) : Host.Outcome State Fault Refusal :=
  issue (howOp 0xA0 false (w.ext none)) (semLd (w.ext none)) s

/-- LD, base form with a literal. -/
def execLdL (w : BaseArgs) (lit : DWord) (s : State) : Host.Outcome State Fault Refusal :=
  issue (howOp 0xA0 false (w.ext (some lit))) (semLd (w.ext (some lit))) s

/-- LD, extended form. -/
def execLdX (w : ExtArgs) (s : State) : Host.Outcome State Fault Refusal :=
  issue (howOp 0xA0 true w) (semLd w) s

/-- ST, base form. -/
def execSt (w : BaseArgs) (s : State) : Host.Outcome State Fault Refusal :=
  issue (howRelease (w.ext none) (howOp 0xA1 false (w.ext none))) (semSt (w.ext none)) s

/-- ST, base form with a literal. -/
def execStL (w : BaseArgs) (lit : DWord) (s : State) : Host.Outcome State Fault Refusal :=
  issue (howRelease (w.ext (some lit)) (howOp 0xA1 false (w.ext (some lit)))) (semSt (w.ext (some lit))) s

/-- ST, extended form. -/
def execStX (w : ExtArgs) (s : State) : Host.Outcome State Fault Refusal :=
  issue (howRelease w (howOp 0xA1 true w)) (semSt w) s

/-- LDL, base form. -/
def execLdl (w : BaseArgs) (s : State) : Host.Outcome State Fault Refusal :=
  issue (howOp 0xA2 false (w.ext none)) (semLdl (w.ext none)) s

/-- LDL, base form with a literal. -/
def execLdlL (w : BaseArgs) (lit : DWord) (s : State) : Host.Outcome State Fault Refusal :=
  issue (howOp 0xA2 false (w.ext (some lit))) (semLdl (w.ext (some lit))) s

/-- LDL, extended form. -/
def execLdlX (w : ExtArgs) (s : State) : Host.Outcome State Fault Refusal :=
  issue (howOp 0xA2 true w) (semLdl w) s

/-- STL, base form. -/
def execStl (w : BaseArgs) (s : State) : Host.Outcome State Fault Refusal :=
  issue (howRelease (w.ext none) (howOp 0xA3 false (w.ext none))) (semStl (w.ext none)) s

/-- STL, base form with a literal. -/
def execStlL (w : BaseArgs) (lit : DWord) (s : State) : Host.Outcome State Fault Refusal :=
  issue (howRelease (w.ext (some lit)) (howOp 0xA3 false (w.ext (some lit)))) (semStl (w.ext (some lit))) s

/-- STL, extended form. -/
def execStlX (w : ExtArgs) (s : State) : Host.Outcome State Fault Refusal :=
  issue (howRelease w (howOp 0xA3 true w)) (semStl w) s

/-- SLD, base form. -/
def execSld (w : BaseArgs) (s : State) : Host.Outcome State Fault Refusal :=
  issue (howOp 0xA4 false (w.ext none)) (semSld (w.ext none)) s

/-- SLD, base form with a literal. -/
def execSldL (w : BaseArgs) (lit : DWord) (s : State) : Host.Outcome State Fault Refusal :=
  issue (howOp 0xA4 false (w.ext (some lit))) (semSld (w.ext (some lit))) s

/-- SLD, extended form. -/
def execSldX (w : ExtArgs) (s : State) : Host.Outcome State Fault Refusal :=
  issue (howOp 0xA4 true w) (semSld w) s

/-- SST, base form. -/
def execSst (w : BaseArgs) (s : State) : Host.Outcome State Fault Refusal :=
  issue (howRelease (w.ext none) (howOp 0xA5 false (w.ext none))) (semSst (w.ext none)) s

/-- SST, base form with a literal. -/
def execSstL (w : BaseArgs) (lit : DWord) (s : State) : Host.Outcome State Fault Refusal :=
  issue (howRelease (w.ext (some lit)) (howOp 0xA5 false (w.ext (some lit)))) (semSst (w.ext (some lit))) s

/-- SST, extended form. -/
def execSstX (w : ExtArgs) (s : State) : Host.Outcome State Fault Refusal :=
  issue (howRelease w (howOp 0xA5 true w)) (semSst w) s

/-- ATOM, base form. -/
def execAtom (w : BaseArgs) (s : State) : Host.Outcome State Fault Refusal :=
  issue (howAtom (w.ext none) (howOp 0xA6 false (w.ext none))) (semAtom (w.ext none)) s

/-- ATOM, base form with a literal. -/
def execAtomL (w : BaseArgs) (lit : DWord) (s : State) : Host.Outcome State Fault Refusal :=
  issue (howAtom (w.ext (some lit)) (howOp 0xA6 false (w.ext (some lit)))) (semAtom (w.ext (some lit))) s

/-- ATOM, extended form. -/
def execAtomX (w : ExtArgs) (s : State) : Host.Outcome State Fault Refusal :=
  issue (howAtom w (howOp 0xA6 true w)) (semAtom w) s

/-- ATOML, base form. DEDUCED (log 12). -/
def execAtoml (w : BaseArgs) (s : State) : Host.Outcome State Fault Refusal :=
  issue (howAtom (w.ext none) (howOp 0xA7 false (w.ext none))) (semAtoml (w.ext none)) s

/-- ATOML, base form with a literal. -/
def execAtomlL (w : BaseArgs) (lit : DWord) (s : State) : Host.Outcome State Fault Refusal :=
  issue (howAtom (w.ext (some lit)) (howOp 0xA7 false (w.ext (some lit)))) (semAtoml (w.ext (some lit))) s

/-- ATOML, extended form. -/
def execAtomlX (w : ExtArgs) (s : State) : Host.Outcome State Fault Refusal :=
  issue (howAtom w (howOp 0xA7 true w)) (semAtoml w) s

/-- RED, base form. -/
def execRed (w : BaseArgs) (s : State) : Host.Outcome State Fault Refusal :=
  issue (howAtom (w.ext none) (howOp 0xA8 false (w.ext none))) (semRed (w.ext none)) s

/-- RED, base form with a literal. -/
def execRedL (w : BaseArgs) (lit : DWord) (s : State) : Host.Outcome State Fault Refusal :=
  issue (howAtom (w.ext (some lit)) (howOp 0xA8 false (w.ext (some lit)))) (semRed (w.ext (some lit))) s

/-- RED, extended form. -/
def execRedX (w : ExtArgs) (s : State) : Host.Outcome State Fault Refusal :=
  issue (howAtom w (howOp 0xA8 true w)) (semRed w) s

/-- TAGQ, base form. -/
def execTagq (w : BaseArgs) (s : State) : Host.Outcome State Fault Refusal :=
  issueVar (howOp 0xAA false (w.ext none)) (semTagq (w.ext none)) s

/-- TAGQ, extended form. -/
def execTagqX (w : ExtArgs) (s : State) : Host.Outcome State Fault Refusal :=
  issueVar (howOp 0xAA true w) (semTagq w) s

/-- TAGSET, base form. -/
def execTagset (w : BaseArgs) (s : State) : Host.Outcome State Fault Refusal :=
  issue (howOp 0xAB false (w.ext none)) (semTagset (w.ext none)) s

/-- TAGSET, extended form. -/
def execTagsetX (w : ExtArgs) (s : State) : Host.Outcome State Fault Refusal :=
  issue (howOp 0xAB true w) (semTagset w) s

/-- TAGCLR, base form. -/
def execTagclr (w : BaseArgs) (s : State) : Host.Outcome State Fault Refusal :=
  issue (howOp 0xAC false (w.ext none)) (semTagclr (w.ext none)) s

/-- TAGCLR, extended form. -/
def execTagclrX (w : ExtArgs) (s : State) : Host.Outcome State Fault Refusal :=
  issue (howOp 0xAC true w) (semTagclr w) s

/-- PREF, base form. -/
def execPref (w : BaseArgs) (s : State) : Host.Outcome State Fault Refusal :=
  issue (howOp 0xAD false (w.ext none)) (semPref (w.ext none)) s

/-- PREF, base form with a literal. -/
def execPrefL (w : BaseArgs) (lit : DWord) (s : State) : Host.Outcome State Fault Refusal :=
  issue (howOp 0xAD false (w.ext (some lit))) (semPref (w.ext (some lit))) s

/-- PREF, extended form. -/
def execPrefX (w : ExtArgs) (s : State) : Host.Outcome State Fault Refusal :=
  issue (howOp 0xAD true w) (semPref w) s


/-- How a FENCE issues: a compare point where it acts. -/
def howFence (how : IssueHow) (act : Ctx → Bool) : IssueHow := { how with compare := act }

/-- FENCE, base form: no guard. -/
def execFence (y : Bool) (scope : BitVec 3) (kind : BitVec 2) (s : State) : Host.Outcome State Fault Refusal :=
  let how : IssueHow := { len := 4, cls := 5, wait := y, isYield := false, compare := fun _ => true,
                          chk := fun _ => if scope = 7 ∨ kind = 3 then some 8 else none }
  issue how (semFence scope.toNat kind.toNat fun _ => true) s

/-- FENCE, extended form. -/
def execFenceX (w : ExtArgs) (s : State) : Host.Outcome State Fault Refusal :=
  let act (x : Ctx) : Bool := !(x.active w).isEmpty
  issue (howFence (howOp 0xA9 true w) act)
    (semFence (w.d.extractLsb' 0 3).toNat (w.d.extractLsb' 3 2).toNat act) s

end Sys2Proof.Machine
end

