-- ==== Sys2Proof/Machine/Queue.lean ====
section
/-! DEFINITION. Operations of the queues and engines: barrier objects (R391 to R393), records (R281 to R284), posting (R264), fences
(R267), the matrix engine (R270 to R280), and the engines that work element by element (R222, R282 to R290). -/

namespace Sys2Proof.Machine

/-! ### Barrier objects -/

/-- A barrier object (R391). -/
structure Barrier where
  arr : Int
  tx : Int
  expa : Nat
  scope : Nat
  phase : Bool
  past : Bool
  deriving DecidableEq, Repr

/-- A barrier object from its 16 bytes. -/
def barrierOf (n : Nat) : Barrier :=
  { arr := signedOf 32 n, tx := signedOf 32 (n / 2 ^ 32), expa := n / 2 ^ 64 % 2 ^ 16, scope := n / 2 ^ 80 % 8,
    phase := decide (n / 2 ^ 83 % 2 = 1), past := decide (n / 2 ^ 84 % 2 = 1) }

/-- A 32-bit two's complement value as a number. -/
def wordOfInt (v : Int) : Nat := (BitVec.ofInt 32 v).toNat

/-- The 16 bytes of a barrier object; reserved bits are written zero. -/
def Barrier.toNat (b : Barrier) : Nat :=
  wordOfInt b.arr + 2 ^ 32 * wordOfInt b.tx + 2 ^ 64 * b.expa + 2 ^ 80 * b.scope
    + 2 ^ 83 * (if b.phase then 1 else 0) + 2 ^ 84 * (if b.past then 1 else 0)

/-- A value saturated at −2^31 and 2^31 − 1. -/
def sat32 (v : Int) : Int := max (-(2 ^ 31 : Nat)) (min ((2 ^ 31 : Nat) - 1) v)

/-- arrive of R393. -/
def Barrier.arrive (b : Barrier) (da dt : Int) : Barrier :=
  let arr := sat32 (b.arr - da)
  let tx := sat32 (b.tx + dt)
  if arr ≤ 0 ∧ tx ≤ 0 then
    { b with past := decide (arr < 0 ∨ tx < 0), phase := !b.phase, arr := (b.expa : Int), tx := 0 }
  else { b with arr := arr, tx := tx }

/-- An arrival at a local object of a team; it is discarded with the memory of a team that has gone (R271). -/
def arriveLocal (s : State) (tu off : Nat) (da dt : Int) : State :=
  modTeam s tu fun t => { t with mem := writeN t.mem off 16 ((barrierOf (readN t.mem off 16)).arrive da dt).toNat }

/-- An engine's arrival at its completion word: bit 31 names no barrier (R266). -/
def arriveWord (s : State) (tu : Nat) (word : Word) (bytes : Nat) : State :=
  if word.getLsbD 31 then s else arriveLocal s tu (word.toNat % 2 ^ 19) 0 (-(bytes : Int))

/-- A legal completion word for a team of the given local size (R266). -/
def wordOk (local_ : Nat) (w : Word) : Bool :=
  w.getLsbD 31 || (decide (w.toNat % 8 = 0) && decide (w.toNat < 2 ^ 19) && decide (w.toNat + 16 ≤ local_))

/-! ### Operand reads at issue (R265) -/

/-- What a read of n aligned bytes at issue answers. -/
inductive OpRead where
  | ok (v : Nat) (s : State)
  | stop (r : Res)

/-- A read of n bytes that an instruction makes once, at issue: a page fault traps (on every lane of the stream), a refusal
holds the stream until it answers. -/
def readOperand (x : Ctx) (s : State) (va n align : Nat) : OpRead :=
  let before := s
  let (c, miss, s) := checkAccesses s x.core x.gr.space false needR align [(x.low, va)]
  let s := x.count s 11 miss
  match c with
  | .fault cause d a => .stop (.fault s cause d (BitVec.ofNat 64 a))
  | .page _ base => .stop (.trap s ⟨1, 0, BitVec.ofNat 64 base, laneMask x.lanes, []⟩)
  | .ok l =>
    let pa := (l.headD (0, 0)).1
    if targetRefuses s pa then
      .stop (.stall (modGroup s x.uid fun g =>
        g.modSplit x.e fun sp => { sp with refused := some (x.pc, BitVec.ofNat 64 va) }))
    else if mustWait s x.core needR pa then .stop (.stall before)
    else
      match readPoison s x.core pa n with
      | (some d, s) => .stop (.fault s 0x40 d 0)
      | (none, s) =>
        let (b, hit, s) := loadBytes s x.core x.keys x.t.held false pa n
        .ok (ofBytes b) (x.count s (if hit then 9 else 10) 1)

/-- What reading several things at issue answers. -/
inductive Got (α : Type) where
  | ok (v : α) (s : State)
  | stop (r : Res)

/-- Go on with what has been read. -/
def Got.bind {α β : Type} (g : Got α) (f : α → State → Got β) : Got β :=
  match g with
  | .ok v s => f v s
  | .stop r => .stop r

/-- The result of an instruction that has read all it needs. -/
def Got.run {α : Type} (g : Got α) (f : α → State → Res) : Res :=
  match g with
  | .ok v s => f v s
  | .stop r => r

/-- One operand as Got. -/
def getOperand (x : Ctx) (s : State) (va n align : Nat) : Got Nat :=
  match readOperand x s va n align with
  | .ok v s => .ok v s
  | .stop r => .stop r

/-- An engine-operand fault (R265). -/
def badOperand {α : Type} (s : State) : Got α := .stop (.fault s 0x24 0 0)

/-- The pair at Sn of the lowest-numbered issuing slice, and its single register. -/
def Ctx.lowPair (x : Ctx) (n : Nat) : DWord := x.ss x.low n
def Ctx.lowS (x : Ctx) (n : Nat) : Word := x.s x.low n

/-! ### Shape records (R281 to R284) -/

/-- Bytes off to off + n − 1 of a record. -/
def fieldOf (v off n : Nat) : Nat := v / 2 ^ (8 * off) % 2 ^ (8 * n)

/-- A list of 5 fields of a record. -/
def fields5 (v off n : Nat) : List Nat := (List.range 5).map fun k => fieldOf v (off + n * k) n

/-- The record's fields as they stand, with dyn and dynsel. -/
structure RawShape where
  sh : Shape
  dyn : Nat
  dynsel : Nat
  deriving DecidableEq, Repr

/-- Read the fields of a record; none when it is ill-formed by R284. elems gives the formats of the slots, none where a slot has
block scales; local_ is the team's local size. -/
def parseShape (elems : Nat → Option Elem) (local_ v : Nat) : Option RawShape :=
  let base := fieldOf v 0 8
  let bound := fieldOf v 8 8
  let crec := fieldOf v 0x18 8
  let dims := fields5 v 0x20 4
  let rank := fieldOf v 0x34 1
  let fmt := fieldOf v 0x35 1
  let space := fieldOf v 0x36 1
  let dynsel := fieldOf v 0x37 1
  let strides := fields5 v 0x38 8
  let origin := (fields5 v 0x60 4).map (signedOf 32)
  let box := fields5 v 0x74 2
  let high (k : Nat) : Bool := decide (rank ≤ k)
  let tail := (List.range 5).all fun k => !high k ||
    (decide (dims.getD k 0 = 1) && decide (strides.getD k 0 = 0) && decide (origin.getD k 0 = 0)
      && decide (box.getD k 0 = 1) && decide (dynsel / 2 ^ k % 2 = 0))
  if rank < 1 ∨ 5 < rank ∨ 8 ≤ fmt ∨ 1 < space ∨ 32 ≤ dynsel ∨ fieldOf v 0x7E 2 ≠ 0 ∨ box.any (· = 0) ∨ ¬ tail then none
  else if space = 1 ∧ (2 ^ 19 ≤ base ∨ 2 ^ 32 ≤ crec ∨ local_ < base + bound) then none
  else if space = 0 ∧ 2 ^ 57 < base + bound then none
  else
    match elems fmt with
    | none => none
    | some e =>
      some { sh := { base := base, bound := bound, crec := BitVec.ofNat 64 crec, dims := dims, rank := rank,
                     slot := BitVec.ofNat 3 fmt, elem := e, loc := decide (space = 1), strides := strides,
                     origin := origin, box := box },
             dyn := fieldOf v 0x10 8, dynsel := dynsel }

/-- The formats of a grid's slots for parseShape. -/
def gridElems (l : List FmtSlot) (n : Nat) : Option Elem :=
  let sl := slotAt l (BitVec.ofNat 3 n)
  if sl.block then none else some sl.elem

/-- The dynamic extents of a record (R282): the indexes in ks are read from address a upward. -/
def readDyn (x : Ctx) : List Nat → Nat → List Nat → State → Got (List Nat)
  | [], _, dims, s => .ok dims s
  | k :: ks, a, dims, s =>
    (getOperand x s (a % 2 ^ 64) 4 4).bind fun v s => readDyn x ks (a + 4) (dims.set k v) s

/-- Read and check the shape record at address a (R265, R282, R284). -/
def readShape (x : Ctx) (s : State) (a : DWord) : Got Shape :=
  if a.toNat % 128 ≠ 0 ∨ ¬ canonical a.toNat then badOperand s
  else
    (getOperand x s a.toNat 128 128).bind fun v s =>
      match parseShape (gridElems x.gr.launch.slots) x.gr.launch.localSize v with
      | none => badOperand s
      | some r =>
        if r.dyn = 0 then .ok r.sh s
        else
          (readDyn x ((List.range 5).filter fun k => decide (r.dynsel / 2 ^ k % 2 = 1)) r.dyn r.sh.dims s).bind
            fun dims s => .ok { r.sh with dims := dims } s

/-! ### Posting and fences (R263, R264, R267) -/

/-- The depth of each queue (R263, R321). -/
def fifoDepth : Nat := 64
def copyDepth : Nat := 32
def routeDepth : Nat := 16
def collDepth : Nat := 16

/-- The routing queue of a die. -/
def routeAt (s : State) (die : Nat) : List EngOp := s.routeq.getD die []

/-- s with the routing queue of a die changed. -/
def modRoute (s : State) (die : Nat) (f : List EngOp → List EngOp) : State := { s with routeq := lmod s.routeq die f }

/-- A queue entry of the stream with identity id. -/
def Ctx.engOp (x : Ctx) (id : Nat) (k : EngKind) : EngOp :=
  { id := id, team := x.g.team, group := x.uid, gid := x.g.gid, grid := x.t.grid, space := x.gr.space, core := x.core,
    batch := x.g.mbatch, kind := k, done := 0, bits := 0, clipped := false, crecDone := false, page := none,
    pend := none, passed := none, error := 0, parked := none, worked := false }

/-- The same in the matrix FIFO. -/
def Ctx.matOp (x : Ctx) (id : Nat) (k : MatKind) : MatOp :=
  { id := id, team := x.g.team, group := x.uid, batch := x.g.mbatch, kind := k }

/-- The identity of the next operation is used up. -/
def nextOp (s : State) : State := { s with opCtr := s.opCtr + 1 }

/-- The fence at the head of a queue. -/
def headFence (q : List EngOp) : Option (Nat × BitVec 4 × Nat) :=
  match q with
  | o :: _ => match o.kind with
    | .qfence m => some (o.id, m, o.core)
    | _ => none
  | [] => none

/-- The fence at the head of a core's FIFO. -/
def fifoFence (c : Nat) (q : List MatOp) : Option (Nat × BitVec 4 × Nat) :=
  match q with
  | o :: _ => match o.kind with
    | .qfence m => some (o.id, m, c)
    | _ => none
  | [] => none

/-- Whether an entry is the reserved entry of a drain. -/
def EngOp.isDrain (o : EngOp) : Bool :=
  match o.kind with
  | .drain .. => true
  | _ => false

/-- Whether fence id of core c, naming the queues of m, may free: it stands at the head of each, and no drain posted before it
is incomplete (R267, R274). -/
def fenceReady (s : State) (c id : Nat) (m : BitVec 4) : Bool :=
  let k := coreAt s c
  let at_ (h : Option (Nat × BitVec 4 × Nat)) : Bool := h.any fun f => decide (f.1 = id)
  (!m.getLsbD 0 || (at_ (fifoFence c k.fifo) && !(k.copyq.any fun o => o.isDrain && decide (o.id < id))))
    && (!m.getLsbD 1 || at_ (headFence k.copyq))
    && (!m.getLsbD 2 || at_ (headFence (routeAt s (dieOfCore c))))
    && (!m.getLsbD 3 || at_ (headFence k.collq))

/-- A fence leaves the head of each queue that it names. -/
def popFence (s : State) (c : Nat) (m : BitVec 4) : State :=
  let s := modCore s c fun k =>
    { k with fifo := if m.getLsbD 0 then k.fifo.tail else k.fifo
             copyq := if m.getLsbD 1 then k.copyq.tail else k.copyq
             collq := if m.getLsbD 3 then k.collq.tail else k.collq }
  if m.getLsbD 2 then modRoute s (dieOfCore c) List.tail else s

/-- The fences at the heads of all queues. -/
def headFences (s : State) : List (Nat × BitVec 4 × Nat) :=
  s.cores.flatMap (fun e => (fifoFence e.1 e.2.fifo).toList ++ (headFence e.2.copyq).toList
      ++ (headFence e.2.collq).toList) ++ s.routeq.flatMap fun q => (headFence q).toList

/-- The fences at the heads free as long as one may, at most n of them (R267). -/
def freeUpTo : Nat → State → State
  | 0, s => s
  | n + 1, s =>
    match (headFences s).find? fun f => fenceReady s f.2.2 f.1 f.2.1 with
    | some f => freeUpTo n (popFence s f.2.2 f.2.1)
    | none => s

/-- The number of entries in all queues. -/
def queuedOps (s : State) : Nat :=
  (s.cores.map fun c => c.2.fifo.length + c.2.copyq.length + c.2.collq.length).sum + (s.routeq.map List.length).sum

/-- Free every fence that may free (R267). -/
def freeFences (s : State) : State := freeUpTo (queuedOps s) s

/-- After a queue has lost an operation of a team: fences free, and the groups that have ended and have no operation left return their
slots, that team's and those of teams whose fences have gone (R59, R272). -/
def queueMoved (s : State) (tu : Nat) : State :=
  let s := settle (freeFences s) tu
  s.teams.foldl (fun s e => settle s e.1) s

/-! ### Accumulator slots (R268 to R272, R322) -/

/-- Slot s of a core as a tile keyed by row × 64 + column. -/
def accTile (k : Core) (slot : Nat) : FMap 32 := (kget k.acc slot).getD []

/-- The slot that handle h of a group is bound to. -/
def boundSlot (s : State) (u h : Nat) : Option Nat :=
  match kget s.groups u with
  | some g => ((g.h.getD h none)).map (·.toNat)
  | none => none

/-- A handle is bound to a slot, or to none. -/
def setHandle (s : State) (u h : Nat) (b : Option (BitVec 5)) : State :=
  modGroup s u fun g => { g with h := g.h.set h b }

/-- Bind h of group u at its first write: the lowest-numbered free slot, cleared (R270); none when no slot is free. -/
def bindHandle (s : State) (c u h : Nat) : Option (Nat × State) :=
  match boundSlot s u h with
  | some n => some (n, s)
  | none =>
    match (coreAt s c).free with
    | n :: rest =>
      let s := modCore s c fun k => { k with free := rest, acc := kset k.acc n [] }
      some (n, setHandle s u h (some (BitVec.ofNat 5 n)))
    | [] => none

/-- A COLL that names handle h of group u and has not read its tile. -/
def collHolds (u h : Nat) (o : EngOp) : Bool :=
  decide (o.group = u) && match o.kind with
    | .coll _ _ h' _ none _ _ _ => decide (h' = h)
    | _ => false

/-- A queued COLL that names the handle keeps slot n off the free list. -/
def keepSlot (u h n : Nat) (o : EngOp) : EngOp :=
  match o.kind with
  | .coll d f h' keep none fl i w =>
    if o.group = u ∧ h' = h then { o with kind := .coll d f h' (keep ++ [n]) none fl i w } else o
  | _ => o

/-- Slots return to the free list, but for those that have been retired (R382); an operation that waits for a slot finds one (R270). -/
def returnSlots (s : State) (c : Nat) (l : List Nat) : State :=
  modCore s c fun k => freeSlots k (l.filter fun n => !s.badSlots.contains (c, n))

/-- AREL on handle h of group u (R280): the binding ends, and the slot frees, or is kept by a queued COLL (R322). -/
def releaseHandle (s : State) (c u h : Nat) : State :=
  match boundSlot s u h with
  | none => s
  | some n =>
    let s := setHandle s u h none
    if (coreAt s c).collq.any (collHolds u h) then
      modCore s c fun k => { k with collq := k.collq.map (keepSlot u h n) }
    else returnSlots s c [n]

/-! ### The matrix engine (R276 to R280) -/

/-- n registers of a lane's captured fragment as one number. -/
def fragWords (f : FMap 32) (lane base n : Nat) : Nat :=
  ofWords ((List.range n).map fun r => fget f (lane * 2048 + base + r))

/-- The elements of an operand as vectors (R277): rows of A or columns of B in the plain layout, K-rows in the transposed
one. -/
def fragVectors (e : Elem) (trans : Bool) (width k : Nat) (f : FMap 32) : List (List Exact) :=
  if trans then
    (List.range k).map fun i => streamValues e (fragWords f (i % width) (fragZ e * (i / width)) (fragZ e)) 64
  else
    (List.range 64).map fun i => streamValues e (fragWords f (i % width) (fragU e * (i / width)) (fragU e)) k

/-- Element (i, k) of an operand from its vectors. -/
def fragElem (trans : Bool) (l : List (List Exact)) (i k : Nat) : Exact :=
  if trans then (l.getD k []).getD i (exactInt 0) else (l.getD i []).getD k (exactInt 0)

/-- An E8M0 scale (R174); 0xFF reads as one (R173). -/
def scaleByte (n : Nat) : Exact := if n = 255 then .fin false 1 1 0 else .fin false 1 1 ((n : Int) - 127)

/-- Byte j of the scale scalar (R175). -/
def scaleAt (sl : FmtSlot) (v : DWord) (j : Nat) : Exact :=
  if sl.block then scaleByte (v.toNat / 2 ^ (8 * j) % 256) else .fin false 1 1 0

/-- The exact sum of products over 32 elements. -/
def blockSum (a b : Nat → Exact) (lo : Nat) : Exact :=
  (List.range 32).foldl (fun s k => s.add false ((a (lo + k)).mul (b (lo + k)))) (exactInt 0)

/-- One accumulation of a block sum (R278): the scaled sum is rounded, then the accumulator. -/
def accumulate (acc : Word) (s : Exact) : Word :=
  let r := narrowFloat fmt32 .rne false s
  BitVec.ofNat 32 (narrowFloat fmt32 .rne false ((fp32 acc).add false (fp32 (BitVec.ofNat 32 r.1)))).1

/-- The rows of a tile whose lane is in act (R278). -/
def actRows (act : DWord) (width : Nat) : List Nat := (List.range 64).filter fun i => act.getLsbD (i % width)

/-- A tile with f applied at every column of the rows of act. -/
def mapRows (act : DWord) (width : Nat) (f : Nat → Nat → Word → Word) (t : FMap 32) : FMap 32 :=
  (actRows act width).foldl (fun t i =>
    (List.range 64).foldl (fun t j => fset t (i * 64 + j) (f i j (fget t (i * 64 + j)))) t) t

/-- MMA on a tile (R278); k is K. -/
def mmaTile (m : MmaArgs) (t : FMap 32) : FMap 32 :=
  let k := (elemK m.fa.elem).getD 32
  let a := fragVectors m.fa.elem m.ta m.width k m.a
  let b := fragVectors m.fb.elem m.tb m.width k m.b
  let tt := (scaleOf m.fa).mul (scaleOf m.fb)
  mapRows m.act m.width (fun i j acc =>
    (List.range (k / 32)).foldl (fun acc kb =>
      let s := blockSum (fragElem m.ta a i) (fragElem m.tb b j) (32 * kb)
      accumulate acc (((s.mul (scaleAt m.fa m.scale (2 * kb))).mul (scaleAt m.fb m.scale (2 * kb + 1))).mul tt)) acc) t

/-- The second product of DMMA (R279): Xᵀ × G. X has B's slot. -/
def dmmaTile (m : MmaArgs) (t : FMap 32) : FMap 32 :=
  let g := fragVectors m.fa.elem m.ta m.width 64 m.a
  let xv := fragVectors m.fb.elem false m.width 64 m.x
  let tt := (scaleOf m.fa).mul (scaleOf m.fb)
  mapRows m.act m.width (fun i j acc =>
    (List.range 2).foldl (fun acc kb =>
      let s := blockSum (fun k => fragElem false xv k i) (fun k => fragElem m.ta g k j) (32 * kb)
      let sc := (scaleAt m.fa m.scale (2 * (j / 32))).mul (scaleAt m.fb m.scale (2 * (i / 32) + 1))
      accumulate acc ((s.mul sc).mul tt)) acc) t

/-- s with slot n of a core changed by f. -/
def modTile (s : State) (c n : Nat) (f : FMap 32 → FMap 32) : State :=
  modCore s c fun k => { k with acc := kset k.acc n (f (accTile k n)) }

/-- The slices that entry e of a group holds: its own, and those parked in the stack entries that it owns (R53, R339). -/
def Group.heldBy (g : Group) (e : Nat) : BitVec 16 :=
  g.spill.foldl (fun m f => if f.1.toNat = e then m ||| f.2 else m)
    (g.dstack.foldl (fun m d => if d.owner.toNat = e then m ||| d.mask ||| d.arrived else m) (g.split e).mask)

/-- ARD writes its registers in the slices of the entries that wait for it, and its result is outstanding no more (R53, R274, R280). -/
def deliverArd (s : State) (u id : Nat) (ws : List RegWrite) : State :=
  modGroup s u fun g =>
    let mine (e : Nat) : Bool := (g.split e).pend.any fun p => decide (p.await = some id)
    let g := g.writes (ws.filter fun w => (List.range 4).any fun e => mine e && (g.heldBy e).getLsbD (sliceOfWrite w))
    { g with splits := g.splits.map fun sp => { sp with pend := sp.pend.filter fun p => decide (p.await ≠ some id) } }

/-! ### Elements (R282, R283) -/

/-- The position of the i-th element of a tile: dimension 0 varies fastest. -/
def tilePos : List Nat → Nat → List Nat
  | [], _ => []
  | b :: bs, i => i % b :: tilePos bs (i / b)

/-- The number of elements of a tile. -/
def tileCount (box : List Nat) : Nat := box.foldl (· * ·) 1

/-- The classes of an element (R283); an element of the in class has its first stream bit. -/
inductive ElemClass where
  | edge | bound
  | in_ (bit : Nat)
  deriving DecidableEq, Repr

/-- The class of the element at tile position t. -/
def Shape.classify (sh : Shape) (t : List Nat) : ElemClass :=
  let c := (sh.origin.zip t).map fun p => p.1 + (p.2 : Int)
  if (c.zip sh.dims).any fun p => decide (p.1 < 0 ∨ (p.2 : Int) ≤ p.1) then .edge
  else
    let bit := elemBits sh.elem * ((c.zip sh.strides).map fun p => p.1.toNat * p.2).sum
    if 8 * sh.bound < bit + elemBits sh.elem then .bound else .in_ bit

/-- The byte count of an operation's arrival (R287, R288). -/
def Shape.arrivalBytes (sh : Shape) : Nat := (tileCount sh.box * elemBits sh.elem + 7) / 8

/-! ### Engine accesses (R222, R223, R373, R377) -/

/-- What an engine access answers; wait: a request must wait for a route (R409). -/
inductive Io where
  | ok (v : Nat) (s : State)
  | page (base : Nat) (s : State)
  | fault (s : State)
  | poison (d : Nat) (s : State)
  | wait (s : State)

/-- Nothing held. -/
def EngHeld.none : EngHeld := { held := [], sig := 0, writes := 0 }

/-- What the operation holds until its compare, and what its team holds (R377, R379). -/
def EngOp.own (o : EngOp) (s : State) : EngHeld :=
  (((kget s.teams o.team).bind fun t => kget t.eng o.id)).getD EngHeld.none
def EngOp.teamHeld (o : EngOp) (s : State) : KMap Byte := ((kget s.teams o.team).map (·.held)).getD []

/-- The operation's set stops to be replayed (R375). -/
def EngOp.replaying (o : EngOp) (s : State) : Bool := (kget s.grids o.grid.toNat).any (·.replaying)

/-- Whether the operation works for a twin that runs, and whether for a shadow. -/
def EngOp.paired (o : EngOp) (s : State) : Bool :=
  ((kget s.teams o.team).any fun t => t.twin.isSome && !t.ended) && !o.replaying s
def EngOp.shadow (o : EngOp) (s : State) : Bool := (kget s.teams o.team).any (·.shadow)

/-- Translate n bytes at va through the walk-ahead TLB of the operation's core; the lowest page that fails is named (R222). -/
def engCheck (o : EngOp) (s : State) (need : Need) (va n : Nat) (f : List Nat → State → Io) : Io :=
  let l := (List.range n).map fun i => (i, (va + i) % 2 ^ 64)
  let (r, miss, s) := checkEach o.core o.space true need s l
  let s := if (kget s.teams o.team).any (fun t => !t.shadow) then Machine.count s o.grid.toNat 12 miss else s
  let bad := r.any fun e => match e.2.2 with
    | .access _ => true
    | _ => false
  let pages := r.filterMap fun e => match e.2.2 with
    | .page b => some b
    | _ => none
  let pas := r.filterMap fun e => match e.2.2 with
    | .ok pa _ => some pa
    | _ => none
  if bad then .fault s
  else
    match pages with
    | b :: _ => .page b s
    | [] =>
      if pas.any (targetRefuses s) then .fault s
      else if pas.any (mustWait s o.core need) then .wait s
      else f pas s

/-- Bytes at physical addresses as the operation sees them: its own held writes, its team's, and memory. -/
def engBytes (o : EngOp) (s : State) (pas : List Nat) : List Byte :=
  pas.map fun pa => (kget (o.own s).held pa).getD ((kget (o.teamHeld s) pa).getD (fget s.mem pa))

/-- The bytes of an n-bit field at bit offset sb, merged into old. -/
def mergeBits (old sb n v : Nat) : Nat :=
  old % 2 ^ sb + 2 ^ sb * (v % 2 ^ n) + 2 ^ (sb + n) * (old / 2 ^ (sb + n))

/-- The signature of an engine's write: each 8-byte-aligned unit with its unwritten bytes as zero (R378). -/
def engSig (va : Nat) (l : List Byte) : DWord :=
  let last := va + l.length - 1
  (List.range (last / 8 - va / 8 + 1)).foldl (fun h k =>
    let u := (va / 8 + k) * 8
    let v := ofBytes ((List.range 8).map fun i => if va ≤ u + i ∧ u + i < va + l.length then l.getD (u + i - va) 0 else 0)
    h + sigOf u 8 v) 0

/-- An engine writes a byte through the L2 of its die. A stream that has not acquired the completion may still read the byte as it was
(R242, R432). -/
def engRaw (o : EngOp) (s : State) (pa : Nat) (b : Byte) : State :=
  storeRaw { s with behind := hideWrite (some (o.id, o.core)) s.behind pa (fget s.mem pa) b } (some o.core) .store pa [b]

/-- An engine writes n bytes of v into the local memory of a team, whose streams may not see them before they acquire the completion (R242). -/
def engLocal (o : EngOp) (s : State) (tu a n v : Nat) : State :=
  modTeam s tu fun t =>
    { t with behind := hideWrites (some (o.id, o.core)) t.mem t.behind a (toBytes n v), mem := writeN t.mem a n v }

/-- An engine performs the write of a byte, after the snapshot that its granule needs (R373). -/
def engPerform (o : EngOp) (s : State) (pa : Nat) (b : Byte) : State :=
  match kget s.teams o.team with
  | none => engRaw o s pa b
  | some tm =>
    let (ex, t) := snapshot s o.grid.toNat pa
    snapReport s (engRaw o t pa b) o.grid.toNat tm.num o.gid 0 ex

/-- An engine writes bytes at va: held for a twin until the operation's compare (R379), otherwise performed; a shadow writes nothing. -/
def engStore (o : EngOp) (s : State) (va : Nat) (pas : List Nat) (l : List Byte) : State :=
  if o.paired s then
    let h := o.own s
    let h : EngHeld :=
      { held := (pas.zip l).foldl (fun m p => kset m p.1 p.2) h.held, sig := h.sig + engSig va l
        writes := h.writes + ((va + l.length - 1) / 8 - va / 8 + 1) }
    modTeam s o.team fun t => { t with eng := kset t.eng o.id h }
  else if o.shadow s then s
  else (pas.zip l).foldl (fun s p => engPerform o s p.1 p.2) s

/-- The lines of an element reach the L2 of the engine's die. -/
def engTouch (o : EngOp) (s : State) (pas : List Nat) : State :=
  [pas.headD 0, pas.getLastD 0].foldl (fun s pa => l2Touch s (dieOfCore o.core) pa .load) s

/-- Read w bits at stream bit b from base address base. -/
def engRead (o : EngOp) (s : State) (loc : Bool) (base b w : Nat) : Io :=
  let a := base + b / 8
  let sb := b % 8
  let n := (sb + w + 7) / 8
  let out (l : List Byte) : Nat := ofBytes l / 2 ^ sb % 2 ^ w
  if loc then .ok (out (readList (((kget s.teams o.team).map (·.mem)).getD []) a n)) s
  else
    engCheck o s needR a n fun pas s =>
      match pas.findSome? fun pa => poisonAt s pa 1 with
      | some d => .poison d s
      | none => .ok (out (engBytes o s pas)) (engTouch o s pas)

/-- Write w bits at stream bit b from base address base: whole or not at all. -/
def engWrite (o : EngOp) (s : State) (loc : Bool) (base b w v : Nat) : Io :=
  let a := base + b / 8
  let sb := b % 8
  let n := (sb + w + 7) / 8
  if loc then
    .ok 0 (engLocal o s o.team a n (mergeBits (readN (((kget s.teams o.team).map (·.mem)).getD []) a n) sb w v))
  else
    engCheck o s needW a n fun pas s =>
      .ok 0 (engStore o s a pas (toBytes n (mergeBits (ofBytes (engBytes o s pas)) sb w v)))

/-! ### Operations that go element by element -/

/-- How far an operation has got: to its end, or suspended on a page, or to a request that waits for a route, or failed with an ERROR and
perhaps poison. -/
inductive Progress where
  | finished (o : EngOp) (s : State)
  | suspended (o : EngOp) (base : Nat) (s : State)
  | waiting (o : EngOp) (s : State)
  | failed (o : EngOp) (error : Nat) (poison : Option Nat) (s : State)

/-- What an access leads to: f goes on with its value. -/
def Io.andThen (r : Io) (o : EngOp) (f : Nat → State → Progress) : Progress :=
  match r with
  | .ok v s => f v s
  | .page b s => .suspended o b s
  | .wait s => .waiting o s
  | .fault s => .failed o 1 none s
  | .poison d s => .failed o 3 (some d) s

/-- The writes of an engine operation between two compares (R379). -/
def compareUnit : Nat := 4096

/-- Perform elements from the operation's own position, fuel of them; a twin's operation stops where it must compare (R379). -/
def runElems (step : EngOp → Nat → State → Progress) : Nat → EngOp → State → Progress
  | 0, o, s => .finished o s
  | fuel + 1, o, s =>
    if compareUnit ≤ (o.own s).writes then .finished o s
    else
      match step o o.done s with
      | .finished o s => runElems step fuel { o with done := o.done + 1 } s
      | r => r

/-- The result of one element that has been dealt with. -/
def wrote (o : EngOp) (bits : Nat) (clipped : Bool) : EngOp := { o with bits := o.bits + bits, clipped := o.clipped || clipped }

/-- One element of a tile copy (R288): dst and src are records of equal box. put writes the destination element. -/
def copyElem (dst src : Shape) (put : EngOp → State → Nat → Nat → Io) (o : EngOp) (i : Nat) (s : State) : Progress :=
  let t := tilePos dst.box i
  let from_ := src.classify t
  let to_ := dst.classify t
  let w := elemBits src.elem
  let clip := decide (from_ = .bound) || decide (to_ = .bound)
  let write (v : Nat) (s : State) : Progress :=
    match to_ with
    | .in_ b => (put o s b v).andThen o fun _ s => .finished (wrote o w clip) s
    | _ => .finished (wrote o 0 clip) s
  match from_ with
  | .in_ b => (engRead o s src.loc src.base b w).andThen o write
  | _ => write 0 s

/-- The value that a drain writes for an accumulator (R287): narrowed under the slot, SR in the engine form (R180). -/
def drainValue (o : EngOp) (s : State) (f : FmtSlot) (acc : Word) (row col : Nat) : Nat :=
  let num := ((kget s.teams o.team).map (·.num)).getD 0
  let ctr := acc.toNat * 2 ^ 32 + 2 ^ 31 + num % 2 ^ 13 * 2 ^ 18 + o.gid * 2 ^ 13 + row * 2 ^ 6 + col
  let rm : Rnd := match f.round.toNat with
    | 1 => .rz | 2 => .ru | 3 => .rd
    | 4 => .sr (rndx (BitVec.ofNat 64 ctr) f.srkey).toNat
    | _ => .rne
  (narrow f.elem rm f.sat ((fp32 acc).divBy (scaleOf f))).1

/-- The key of slot 0 of an operation's grid (R210). -/
def EngOp.slotKey (o : EngOp) (s : State) : DWord :=
  ((kget s.grids o.grid.toNat).map fun g => (slotAt g.launch.slots 0).srkey).getD 0

/-- An add of a drain to memory (R287): FP32 by .fadd, BF16 in the half that holds the element. An element that is not aligned to its size is
added to where it stands. DESIGN CHOICE (log 58). -/
def drainAdd (o : EngOp) (s : State) (sh : Shape) (b v : Nat) : Io :=
  let a := sh.base + b / 8
  let w := elemBits sh.elem
  let need : Need := { r := true, w := true, x := false, scope := some 2, atom := some (if w = 32 then 8 else 11) }
  engCheck o s need a (w / 8) fun pas s =>
    match pas.findSome? fun pa => poisonAt s pa 1 with
    | some d => .poison d s
    | none =>
    let pa := pas.headD 0
    let old := ofBytes (engBytes o s pas)
    let bfsr := match walkSpace s o.space a with
      | .leaf _ e _ _ => leafBfsr e
      | _ => false
    let new := if w = 32 then atomNew 8 4 false old v 0 none
      else
        let word := ofBytes (engBytes o s ((List.range 4).map fun i => pa / 4 * 4 + i))
        let half := pa / 2 % 2
        let r := atomNew 11 4 false word (v * 2 ^ (16 * half)) 0 (if bfsr then some (o.slotKey s) else none)
        r / 2 ^ (16 * half) % 2 ^ 16
    .ok 0 (engStore o s a pas (toBytes (w / 8) new))

/-- One element of a drained tile: (t0, t1) from column t0 of row t1 (R287). -/
def drainElem (sh : Shape) (f : FmtSlot) (add : Bool) (tile : FMap 32) (o : EngOp) (i : Nat) (s : State) : Progress :=
  let t := tilePos sh.box i
  let col := t.getD 0 0
  let row := t.getD 1 0
  match sh.classify t with
  | .edge => .finished o s
  | .bound => .finished (wrote o 0 true) s
  | .in_ b =>
    let v := drainValue o s f (fget tile (row * 64 + col)) row col
    (if add then drainAdd o s sh b v else engWrite o s sh.loc sh.base b (elemBits sh.elem) v).andThen o
      fun _ s => .finished (wrote o (elemBits sh.elem) false) s

/-! ### Completion (R286, R290) -/

/-- Byte 3 of an entry for an operation: asynchronous after its issuer stopped, and the shadow twin (R370). -/
def EngOp.flags (o : EngOp) (s : State) : Nat :=
  match kget s.teams o.team with
  | some t => (if t.ended || (kget s.groups o.group).all (·.ended) then 2 else 0) + (if t.shadow then 16 else 0)
  | none => 2

/-- An entry of the fault record for an operation; a host's copy has none. -/
def EngOp.report (o : EngOp) (s : State) (cause detail : Nat) (faddr : DWord) : State :=
  match kget s.teams o.team with
  | some t => Machine.report s o.grid.toNat t.num o.gid cause detail (o.flags s) 0 faddr false
  | none => s

/-- The record whose completion record an operation writes. -/
def EngOp.dst (o : EngOp) : Option Shape :=
  match o.kind with
  | .bcopy d _ _ | .bcopym _ d _ _ | .drain d _ _ _ _ _ | .host d _ _ _ | .coll d _ _ _ _ _ _ _ => some d
  | .route _ | .qfence _ => none

/-- The completion record's address: zero where there is none (R286). -/
def EngOp.crec (o : EngOp) : DWord :=
  match o.dst with
  | some d => if d.loc then 0 else d.crec
  | none => 0

/-- The write of the completion record waits for a route (R409). -/
def EngOp.crecAwaits (o : EngOp) (s : State) : Bool :=
  decide (o.crec ≠ 0) && (match checkWalk s.pkg (some (dieOfCore o.core)) o.crec.toNat needW (walkSpace s o.space o.crec.toNat) with
    | .ok pa _ => mustWait s o.core needW pa
    | _ => false)

/-- The completion record is written, once; a write that fails is dropped and reported (R286), and so is one of a
misaligned record. DEDUCED (log 47). -/
def writeCrec (o : EngOp) (err : Nat) (s : State) : EngOp × State :=
  if o.crec = 0 ∨ o.crecDone then ({ o with crecDone := true }, s)
  else
    let v := 1 + (if o.clipped then 2 else 0) + 2 ^ 8 * err + 2 ^ 32 * min ((o.bits + 7) / 8) 0xFFFFFFFF
    let a := o.crec.toNat
    let o' := { o with crecDone := true }
    if a % 8 ≠ 0 then (o', o.report s 0x4D 0 o.crec)
    else
      match engCheck o s needW a 8 fun pas s =>
          match pas.findSome? fun pa => poisonAt s pa 1 with
          | some d => .poison d s
          | none => .ok 0 (engStore o s a pas (toBytes 8 v)) with
      | .ok _ s => (o', s)
      | .page _ s | .fault s | .poison _ s | .wait s => (o', o.report s 0x4D 0 o.crec)

/-- A failure is recorded, and poison is also raised on the issuing team (R290, R372). -/
def reportFailure (o : EngOp) (err : Nat) (poison : Option Nat) (s : State) : State :=
  let s := o.report s 0x48 err o.crec
  match poison with
  | some d => endByFault s o.team o.group 16 o.gid 0x40 d false 0 0
  | none => s

end Sys2Proof.Machine
end

