-- ==== Sys2Proof/Machine/Async.lean ====
section
/-! DEFINITION. Class 110: asynchronous instructions, barriers, waits and counters (R91, R264 to R292, R391 to R406); COLL and SEQGO
stand in Collective. -/

namespace Sys2Proof.Machine

/-- An instruction that acts once per issue: a NOP with no active lane (R80). -/
def once (w : ExtArgs) (x : Ctx) (s : State) (act : Res) : Res := if (x.active w).isEmpty then .done s else act

/-- The core's matrix FIFO and copy queue are full (R264). -/
def fifoFull (s : State) (c : Nat) : Bool := decide (fifoDepth ≤ (coreAt s c).fifo.length)
def copyFull (s : State) (c : Nat) : Bool := decide (copyDepth ≤ (coreAt s c).copyq.length)
def routeFull (s : State) (c : Nat) : Bool := decide (routeDepth ≤ (routeAt s (dieOfCore c)).length)
def collFull (s : State) (c : Nat) : Bool := decide (collDepth ≤ (coreAt s c).collq.length)

/-- Post an operation into the matrix FIFO, or into the copy queue. -/
def postMat (x : Ctx) (s : State) (k : MatKind) : State :=
  nextOp (modCore s x.core fun q => { q with fifo := q.fifo ++ [x.matOp s.opCtr k] })
def postCopy (x : Ctx) (s : State) (k : EngKind) : State :=
  nextOp (modCore s x.core fun q => { q with copyq := q.copyq ++ [x.engOp s.opCtr k] })

/-- Post into the matrix FIFO, or stall while it is full. -/
def postOrStall (w : ExtArgs) (x : Ctx) (s : State) (k : MatKind) : Res :=
  once w x s (if fifoFull s x.core then .stall s else .done (postMat x s k))

/-! ### Matrix operations -/

/-- n registers of each lane of the stream from register base, as captured at issue (R53, R277). -/
def Ctx.fragment (x : Ctx) (base n : Nat) : FMap 32 :=
  x.lanes.foldl (fun m l => (List.range n).foldl (fun m r => fset m (l * 2048 + r) (x.v l (base + r))) m) []

/-- What MMA and DMMA capture (R278, R279). -/
def Ctx.mmaArgs (x : Ctx) (w : ExtArgs) (dmma : Bool) : MmaArgs :=
  let fa := x.slot w.fs
  let fb := x.slot (w.aux.extractLsb' 0 3)
  let ta := w.sub.getLsbD 0
  let tb := w.sub.getLsbD 1
  let nb := fragSize x.g.width fb.elem tb
  { ta := ta, tb := tb, fa := fa, fb := fb
    a := x.fragment w.a.toNat (fragSize x.g.width fa.elem ta)
    b := x.fragment w.b.toNat nb
    x := if dmma then x.fragment (w.b.toNat + nb) (fragSize x.g.width fb.elem false) else []
    scale := if elemK fa.elem = some 128 then x.lowPair w.s.toNat else (x.lowS w.s.toNat).zeroExtend 64
    act := laneMask (x.active w), width := x.g.width }

/-- MMA (R278). -/
def semMma (w : ExtArgs) (x : Ctx) (s : State) : Res := postOrStall w x s (.mma w.d.toNat (x.mmaArgs w false))

/-- DMMA (R279): hc is the weight-gradient handle. -/
def semDmmaTo (hc : Nat) (w : ExtArgs) (x : Ctx) (s : State) : Res :=
  postOrStall w x s (.dmma w.d.toNat hc (x.mmaArgs w true))

/-- AZERO (R280). -/
def semAzero (w : ExtArgs) (x : Ctx) (s : State) : Res :=
  postOrStall w x s (.azero w.d.toNat (laneMask (x.active w)) x.g.width)

/-- AREL (R280). -/
def semArel (w : ExtArgs) (x : Ctx) (s : State) : Res := postOrStall w x s (.arel w.d.toNat)

/-- The block of AWR and ARD (R280): the copy of the lowest-numbered issuing slice. DESIGN CHOICE (log 65). -/
def Ctx.block (x : Ctx) (w : ExtArgs) : Nat := (x.bS w x.low).toNat

/-- AWR (R280). -/
def semAwr (w : ExtArgs) (x : Ctx) (s : State) : Res :=
  let b := x.block w
  once w x s (
    if 256 ≤ b * x.g.width then .fault s 0x24 0 0
    else postOrStall w x s (.awr w.d.toNat ((x.active w).flatMap fun l =>
      (List.range 16).map fun j => (b / 4 * x.g.width + l, 16 * (b % 4) + j, x.v l (w.a.toNat + j)))))

/-- ARD (R280): its registers are bound now and written when it reaches the head of the FIFO. -/
def semArd (w : ExtArgs) (x : Ctx) (s : State) : Res :=
  let b := x.block w
  once w x s (
    if 256 ≤ b * x.g.width then .fault s 0x24 0 0
    else if fifoFull s x.core then .stall s
    else
      let dst := (x.active w).flatMap fun l =>
        (List.range 16).map fun j => (x.refV l (w.d.toNat + j), b / 4 * x.g.width + l, 16 * (b % 4) + j)
      let id := s.opCtr
      .done (modGroup (postMat x s (.ard w.a.toNat dst)) x.uid fun g =>
        g.addPending x.e { writes := [], await := some id }))

/-- A tile record of ADRAIN and COLL: rank ≥ 2, box 0 and 1 from 1 to 64, the others 1 (R287, R321). -/
def tileShape (sh : Shape) : Bool :=
  decide (2 ≤ sh.rank) && decide (sh.box.getD 0 0 ≤ 64) && decide (sh.box.getD 1 0 ≤ 64)
    && (sh.box.drop 2).all fun b => decide (b = 1)

/-- ADRAIN (R287): one entry in the FIFO and one reserved in the copy queue. -/
def semAdrain (w : ExtArgs) (x : Ctx) (s : State) : Res :=
  once w x s (
    if fifoFull s x.core || copyFull s x.core then .stall s
    else
      (readShape x s (x.lowPair w.a.toNat)).run fun sh s =>
        let f := x.slot w.fs
        let add := w.sub.getLsbD 0
        let word := x.lowS w.b.toNat
        if !tileShape sh || decide (f.elem ≠ sh.elem) || (add && (sh.loc || decide (f.elem ≠ .fp32 ∧ f.elem ≠ .bf16)))
            || !wordOk x.gr.launch.localSize word then .fault s 0x24 0 0
        else
          let id := s.opCtr
          .done (nextOp (modCore s x.core fun q =>
            { q with fifo := q.fifo ++ [x.matOp id (.adrain w.d.toNat)]
                     copyq := q.copyq ++ [x.engOp id (.drain sh f add word none false)] })))

/-- MFENCE (R273). -/
def semMfence (w : ExtArgs) (x : Ctx) (s : State) : Res :=
  once w x s (
    if 64 ≤ x.g.mopen then .stall s
    else
      let g := x.g.writes (x.wsAll w.d.toNat (x.g.mbatch.zeroExtend 32))
      .done (x.put s { g with mbatch := g.mbatch + 1, mopen := g.mopen + 1 }))

/-- MWAIT (R275): the stream stays at it until the batch has retired; S[a] is the copy of the lowest-numbered issuing slice. DESIGN CHOICE
(log 65). -/
def semMwait (w : ExtArgs) (x : Ctx) (s : State) : Res :=
  let v : Word := match w.lit with
    | some l => l.extractLsb' 0 32
    | none => x.lowS w.a.toNat
  let dist := (x.g.mbatch - v.extractLsb' 0 8).toNat
  once w x s (
    if 256 ≤ v.toNat then .fault s 0x24 0 0
    else if dist = 0 ∨ 128 < dist then .fault s 0x25 0 0
    else if dist ≤ x.g.mopen then .stall s
    else .done (acquire s x 4))

/-! ### Copies, QFENCE, ROUTE, SREC -/

/-- BCOPY (R288). -/
def semBcopy (w : ExtArgs) (x : Ctx) (s : State) : Res :=
  once w x s (
    if copyFull s x.core then .stall s
    else
      ((readShape x s (x.lowPair w.d.toNat)).bind fun dst s =>
        (readShape x s (x.lowPair w.a.toNat)).bind fun src s => .ok (dst, src) s).run fun p s =>
          let word := x.lowS w.b.toNat
          if p.1.box ≠ p.2.box ∨ elemBits p.1.elem ≠ elemBits p.2.elem ∨ ¬ wordOk x.gr.launch.localSize word then
            .fault s 0x24 0 0
          else .done (postCopy x s (.bcopy p.1 p.2 word)))

/-- BCOPYM (R289). -/
def semBcopym (w : ExtArgs) (x : Ctx) (s : State) : Res :=
  let mask := x.lowS w.d.toNat
  once w x s (
    if copyFull s x.core then .stall s
    else
      ((readShape x s (x.lowPair w.b.toNat)).bind fun dst s =>
        (readShape x s (x.lowPair w.a.toNat)).bind fun src s => .ok (dst, src) s).run fun p s =>
          if p.1.box ≠ p.2.box ∨ elemBits p.1.elem ≠ elemBits p.2.elem ∨ ¬ p.1.loc ∨ p.2.loc ∨ 256 ≤ mask.toNat
              ∨ ¬ wordOk x.gr.launch.localSize (p.1.crec.extractLsb' 0 32) then .fault s 0x24 0 0
          else .done (postCopy x s (.bcopym (mask.extractLsb' 0 8) p.1 p.2 none)))

/-- QFENCE (R267). -/
def semQfence (w : ExtArgs) (x : Ctx) (s : State) : Res :=
  let m := w.d.extractLsb' 0 4
  let has (i : Nat) : Bool := m.getLsbD i
  once w x s (
    if (has 0 && fifoFull s x.core) || (has 1 && copyFull s x.core) || (has 2 && routeFull s x.core)
        || (has 3 && collFull s x.core) then .stall s
    else
      let o := x.engOp s.opCtr (.qfence m)
      let s := modCore s x.core fun q =>
        { q with fifo := if has 0 then q.fifo ++ [x.matOp o.id (.qfence m)] else q.fifo
                 copyq := if has 1 then q.copyq ++ [o] else q.copyq
                 collq := if has 3 then q.collq ++ [o] else q.collq }
      let s := if has 2 then modRoute s (dieOfCore x.core) (· ++ [o]) else s
      .done (freeFences (nextOp s)))

/-- The replica table (R292): n entries of 16 bits from address a. -/
def readReplicas (x : Ctx) : Nat → Nat → List Nat → State → Got (List Nat)
  | 0, _, acc, s => .ok acc.reverse s
  | n + 1, a, acc, s => (getOperand x s (a % 2 ^ 64) 2 2).bind fun v s => readReplicas x n (a + 2) (v :: acc) s

/-- The parameter block's fields T, E, P, k, capacity, flags in order, and the rules of R292 on them. -/
def routeRules (expert : Bool) (v : Nat) : Bool :=
  let f (i : Nat) : Nat := fieldOf v (4 * i) 4
  let common := decide (1 ≤ f 0 ∧ f 0 ≤ 65536 ∧ 1 ≤ f 1 ∧ f 1 ≤ 1024 ∧ 1 ≤ f 2 ∧ f 2 ≤ 1024 ∧ v / 2 ^ 288 = 0)
    && (decide (fieldOf v 0x18 8 ≠ 0) || decide (f 2 = f 1))
  if expert then common && decide (1 ≤ f 3 ∧ f 3 ≤ f 0 ∧ f 4 = 0 ∧ f 5 = 0)
  else common && decide (1 ≤ f 3 ∧ f 3 ≤ 8 ∧ f 3 ≤ f 1 ∧ f 5 ≤ 1)

/-- The rules on the score record (R292). -/
def scoreRules (sh : Shape) (t e : Nat) : Bool :=
  let last := (e - 1) * sh.strides.getD 0 0 + (t - 1) * sh.strides.getD 1 0
  !sh.loc && decide (sh.rank = 2) && decide (sh.elem = .fp32) && decide (sh.dims.getD 0 0 = e)
    && decide (sh.dims.getD 1 0 = t) && decide (32 * last + 32 ≤ 8 * sh.bound)

/-- ROUTE (R292). -/
def semRoute (w : ExtArgs) (x : Ctx) (s : State) : Res :=
  let od := (x.lowPair w.d.toNat).toNat
  let pb := (x.lowPair w.b.toNat).toNat
  let expert := w.sub.getLsbD 0
  once w x s (
    if routeFull s x.core then .stall s
    else if od % 32 ≠ 0 ∨ pb % 64 ≠ 0 then .fault s 0x24 0 0
    else
      ((readShape x s (x.lowPair w.a.toNat)).bind fun sh s =>
        (getOperand x s pb 64 64).bind fun v s =>
          if !routeRules expert v || !scoreRules sh (fieldOf v 0 4) (fieldOf v 4 4)
              || !wordOk x.gr.launch.localSize (BitVec.ofNat 32 (fieldOf v 0x20 4)) then badOperand s
          else
            let e := fieldOf v 4 4
            let ra := fieldOf v 0x18 8
            (if ra = 0 then Got.ok (List.range e) s else readReplicas x e ra [] s).bind fun rep s =>
              if rep.any fun r => decide (fieldOf v 8 4 ≤ r) then badOperand s
              else
                (getOperand x s od 32 32).bind fun d s =>
                  .ok { expert := expert, t := fieldOf v 0 4, e := e, p := fieldOf v 8 4, k := fieldOf v 12 4,
                        capacity := fieldOf v 16 4, renorm := decide (fieldOf v 20 4 = 1), rep := rep,
                        word := BitVec.ofNat 32 (fieldOf v 0x20 4),
                        outs := (List.range 4).map fun i => BitVec.ofNat 64 (fieldOf d (8 * i) 8), score := sh } s
        : Got RouteArgs).run fun args s =>
          .done (nextOp (modRoute s (dieOfCore x.core) (· ++ [x.engOp s.opCtr (.route args)]))))

/-- SREC (R285). -/
def semSrec (w : ExtArgs) (x : Ctx) (s : State) : Res :=
  let rec_ := (x.lowPair w.d.toNat).toNat
  let i := (x.lowS w.a.toNat).toNat
  let v := (x.bS w x.low).toNat
  once w x s (
    if 31 < i ∨ rec_ % 128 ≠ 0 then .fault s 0x24 0 0
    else memAccess x s needW 4 [(x.low, rec_ + 4 * i)] (fun _ => x.lanes) fun acc s =>
      .done (acc.foldl (fun s a => x.write s a.va a.pa 4 v) s))

/-! ### Barriers (R392 to R395) -/

/-- Where a barrier object lies. -/
inductive BarLoc where
  | loc (off : Nat)
  | mem (va pa : Nat) (leaf : DWord)
  deriving DecidableEq, Repr

/-- The object that a barrier word names, with its contents, or the outcome that R392 gives; scope is the SCOPE to check, the
object's own where it is none. DEDUCED (log 38). -/
def barrierAt (x : Ctx) (s : State) (word : Word) (scope : Option Nat) : Got (BarLoc × Barrier) :=
  if !word.getLsbD 31 then
    let off := word.toNat
    if 2 ^ 19 ≤ off ∨ off % 8 ≠ 0 then badOperand s
    else if x.gr.launch.localSize < off + 16 then .stop (.fault s 0x21 0 0)
    else .ok (.loc off, barrierOf (readN x.t.mem off 16)) s
  else
    let va := (x.gr.launch.params.toNat + 16 * (word.toNat % 2 ^ 31)) % 2 ^ 64
    let need : Need := { r := true, w := true, x := false, scope := none, atom := some 0 }
    let before := s
    let (c, miss, s) := checkAccesses s x.core x.gr.space false need 16 [(x.low, va)]
    let s := x.count s 11 miss
    match c with
    | .fault cause d a => .stop (.fault s cause d (BitVec.ofNat 64 a))
    | .page _ base => .stop (.trap s ⟨1, 0, BitVec.ofNat 64 base, laneMask x.lanes, []⟩)
    | .ok l =>
      let (pa, leaf) := l.headD (0, 0)
      let b := barrierOf (ofBytes (overlay x.t.held pa (readList s.mem pa 16)))
      if !classOk s.pkg (some (dieOfCore x.core)) (leafCls leaf) pa { need with scope := some (scope.getD b.scope) } then
        .stop (.fault s 0x22 3 (BitVec.ofNat 64 va))
      else if targetRefuses s pa then
        .stop (.stall (modGroup s x.uid fun g =>
          g.modSplit x.e fun sp => { sp with refused := some (x.pc, BitVec.ofNat 64 va) }))
      else if mustWait s x.core need pa then .stop (.stall before)
      else .ok (.mem va pa leaf, b) (refreshL1 s x.core x.keys pa 16)

/-- An arrival of the stream at an object (R393): at a memory object only the primary twin's reaches it (R407). -/
def Ctx.arrive (x : Ctx) (s : State) (l : BarLoc) (da dt : Int) : State :=
  match l with
  | .loc off => arriveLocal s x.g.team off da dt
  | .mem _ pa _ =>
    if x.t.shadow then s
    else
      let v := ((barrierOf (readN s.mem pa 16)).arrive da dt).toNat
      let (ex, t) := snapshot s x.t.grid.toNat pa
      snapReport s (storeRaw t (some x.core) .atomic pa (toBytes 16 v)) x.t.grid.toNat x.t.num x.g.gid x.pc ex

/-- BINIT (R394): a relaxed write of the object, its upper half first. -/
def semBinit (w : ExtArgs) (x : Ctx) (s : State) : Res :=
  let v := x.bS w x.low
  let expa : Nat := v.toNat % 2 ^ 16
  let scope : Nat := v.toNat / 2 ^ 16 % 8
  once w x s (
    if expa = 0 ∨ scope = 7 ∨ 2 ^ 19 ≤ v.toNat then .fault s 0x24 0 0
    else
      (barrierAt x s (x.lowS w.a.toNat) (some scope)).run fun p s =>
        let b : Barrier := { arr := (expa : Int), tx := 0, expa := expa, scope := scope, phase := false, past := false }
        match p.1 with
        | .loc off => .done (modTeam s x.g.team fun t => { t with mem := writeN t.mem off 16 b.toNat })
        | .mem va pa _ =>
          .done (x.write (x.write s (va + 8) (pa + 8) 8 (b.toNat / 2 ^ 64)) va pa 8 (b.toNat % 2 ^ 64)))

/-- BARV and BARVX (R394): ok and the arrival are of the B value. -/
def semArrive (ok : Nat → Bool) (da dt : Nat → Int) (w : ExtArgs) (x : Ctx) (s : State) : Res :=
  let v := (x.bS w x.low).toNat
  once w x s (
    if !ok v then .fault s 0x24 0 0
    else (barrierAt x s (x.lowS w.a.toNat) none).run fun p s => .done (x.arrive s p.1 (da v) (dt v)))

def semBarv : ExtArgs → Ctx → State → Res :=
  semArrive (fun v => decide (v < 2 ^ 16)) (fun v => (v : Int)) fun _ => 0
def semBarvx : ExtArgs → Ctx → State → Res :=
  semArrive (fun v => decide (v < 2 ^ 31)) (fun _ => 1) fun v => (v : Int)

/-- Barrier arrivals are compare points where they act (R379). -/
def howCompare (w : ExtArgs) (how : IssueHow) : IssueHow := { how with compare := fun x => !(x.active w).isEmpty }

/-- The detail of poison in a memory object whose value goes to the stream (R372). -/
def barrierPoison (s : State) (l : BarLoc) : Option Nat :=
  match l with
  | .loc _ => none
  | .mem _ pa _ => poisonAt s pa 16

/-! ### Waits (R395 to R398) -/

/-- A timeout operand in ticks: units of 1,024, 0 meaning 2^32 of them (R396). -/
def timeoutTicks (v : Word) : Nat := 1024 * (if v = 0 then 2 ^ 32 else v.toNat)

/-- The stream is descheduled in a wait; its pc stays at the wait. -/
def Ctx.deschedule (x : Ctx) (s : State) (f : WaitFor) (t : Word) (len : Nat) : Res :=
  .flow (modGroup s x.uid fun g => g.modSplit x.e fun sp =>
    { sp with run := .wait { for_ := f, since := s.dtime, ticks := timeoutTicks t, len := len } })

/-- The length in bytes of an instruction of the uniform layout. -/
def formLen (isExt : Bool) (w : ExtArgs) : Nat := if isExt then (if w.lit.isSome then 20 else 12) else if w.lit.isSome then 12 else 4

/-- BWAIT (R395). -/
def semBwait (isExt : Bool) (w : ExtArgs) (x : Ctx) (s : State) : Res :=
  let p := x.lowS w.b.toNat
  let word := x.lowS w.a.toNat
  once w x s (
    if x.inH then .fault s 0x10 0 0
    else if 1 < p.toNat then .fault s 0x24 0 0
    else
      (barrierAt x s word none).run fun q s =>
        match barrierPoison s q.1 with
        | some d => .fault s 0x40 d 0
        | none =>
          if q.2.phase ≠ p.getLsbD 0 then .done (acquire s x q.2.scope)
          else x.deschedule s (.barrier word (p.getLsbD 0)) (x.lowS w.d.toNat) (formLen isExt w))

/-- BTEST (R395). -/
def semBtest (w : ExtArgs) (x : Ctx) (s : State) : Res :=
  let p := x.lowS w.b.toNat
  once w x s (
    if 1 < p.toNat then .fault s 0x24 0 0
    else
      (barrierAt x s (x.lowS w.a.toNat) none).run fun q s =>
        match barrierPoison s q.1 with
        | some d => .fault s 0x40 d 0
        | none =>
          let open_ := decide (q.2.phase ≠ p.getLsbD 0)
          let s := modGroup s x.uid fun g => g.writes (x.sl.flatMap fun k => x.wc k w.d.toNat open_)
          .done (if open_ then acquire s x q.2.scope else s))

/-- The widest scope of a leaf's class (R200, R231). -/
def widestScope (leaf : DWord) : Nat :=
  match leafCls leaf with
  | 0 => 3 | 1 => 2 | _ => 0

/-- The read of a WAITV (R398): the word, or what stops it. -/
def waitvRead (x : Ctx) (s : State) (va : Nat) : Got (Nat × DWord) :=
  let before := s
  let (c, miss, s) := checkAccesses s x.core x.gr.space false needR 4 [(x.low, va)]
  let s := x.count s 11 miss
  match c with
  | .fault cause d a => .stop (.fault s cause d (BitVec.ofNat 64 a))
  | .page _ base => .stop (.trap s ⟨1, 0, BitVec.ofNat 64 base, laneMask x.lanes, []⟩)
  | .ok l =>
    let (pa, leaf) := l.headD (0, 0)
    if targetRefuses s pa then
      .stop (.stall (modGroup s x.uid fun g =>
        g.modSplit x.e fun sp => { sp with refused := some (x.pc, BitVec.ofNat 64 va) }))
    else if mustWait s x.core needR pa then .stop (.stall before)
    else
      match poisonAt s pa 4 with
      | some d => .stop (.fault s 0x40 d 0)
      | none => .ok (ofBytes (overlay x.t.held pa (readList s.mem pa 4)), leaf) (refreshL1 s x.core x.keys pa 4)

/-- WAITV (R398). -/
def semWaitv (isExt : Bool) (w : ExtArgs) (x : Ctx) (s : State) : Res :=
  let va := x.lowPair w.a.toNat
  let code := w.sub.toNat
  let v := x.bS w x.low
  once w x s (
    if x.inH then .fault s 0x10 0 0
    else
      (waitvRead x s va.toNat).run fun p s =>
        if intCompare code (BitVec.ofNat 32 p.1) v then .done (acquire s x (widestScope p.2))
        else x.deschedule s (.value va code v) (x.lowS w.d.toNat) (formLen isExt w))

/-- A wait issues only when the stream's results have been written (R396). -/
def howWait (_ : ExtArgs) (how : IssueHow) : IssueHow := { how with wait := true }
def howBwait (w : ExtArgs) (how : IssueHow) : IssueHow := { howCompare w how with wait := true }

/-! ### Time and counters -/

/-- TSRD (R402). -/
def semTsrd (w : ExtArgs) (x : Ctx) (s : State) : Res :=
  once w x s (.done (x.put s (x.g.writes (x.sl.flatMap fun k => x.wss k w.d.toNat s.dtime))))

/-- CNTRD (R406). -/
def semCntrd (w : ExtArgs) (x : Ctx) (s : State) : Res :=
  let i := w.a.toNat
  let c := x.gr.counters.getD (i / 2) 0
  let v : Word := if i % 2 = 0 then c.extractLsb' 0 32 else c.extractLsb' 32 32
  once w x s (.done (x.put s (x.g.writes (x.wsAll w.d.toNat v))))

/-! ### The instructions -/

/-- MMA, base form. -/
def execMma (w : BaseArgs) (s : State) : Host.Outcome State Fault Refusal :=
  issue (howOp 0xC0 false (w.ext none)) (semMma (w.ext none)) s

/-- MMA, extended form. -/
def execMmaX (w : ExtArgs) (s : State) : Host.Outcome State Fault Refusal :=
  issue (howOp 0xC0 true w) (semMma w) s

/-- AZERO, base form. -/
def execAzero (w : BaseArgs) (s : State) : Host.Outcome State Fault Refusal :=
  issue (howOp 0xC2 false (w.ext none)) (semAzero (w.ext none)) s

/-- AZERO, extended form. -/
def execAzeroX (w : ExtArgs) (s : State) : Host.Outcome State Fault Refusal :=
  issue (howOp 0xC2 true w) (semAzero w) s

/-- AREL, base form. -/
def execArel (w : BaseArgs) (s : State) : Host.Outcome State Fault Refusal :=
  issue (howOp 0xC3 false (w.ext none)) (semArel (w.ext none)) s

/-- AREL, extended form. -/
def execArelX (w : ExtArgs) (s : State) : Host.Outcome State Fault Refusal :=
  issue (howOp 0xC3 true w) (semArel w) s

/-- ARD, base form. -/
def execArd (w : BaseArgs) (s : State) : Host.Outcome State Fault Refusal :=
  issue (howOp 0xC4 false (w.ext none)) (semArd (w.ext none)) s

/-- ARD, base form with a literal. -/
def execArdL (w : BaseArgs) (lit : DWord) (s : State) : Host.Outcome State Fault Refusal :=
  issue (howOp 0xC4 false (w.ext (some lit))) (semArd (w.ext (some lit))) s

/-- ARD, extended form. -/
def execArdX (w : ExtArgs) (s : State) : Host.Outcome State Fault Refusal :=
  issue (howOp 0xC4 true w) (semArd w) s

/-- AWR, base form. -/
def execAwr (w : BaseArgs) (s : State) : Host.Outcome State Fault Refusal :=
  issue (howOp 0xC5 false (w.ext none)) (semAwr (w.ext none)) s

/-- AWR, base form with a literal. -/
def execAwrL (w : BaseArgs) (lit : DWord) (s : State) : Host.Outcome State Fault Refusal :=
  issue (howOp 0xC5 false (w.ext (some lit))) (semAwr (w.ext (some lit))) s

/-- AWR, extended form. -/
def execAwrX (w : ExtArgs) (s : State) : Host.Outcome State Fault Refusal :=
  issue (howOp 0xC5 true w) (semAwr w) s

/-- ADRAIN, base form. -/
def execAdrain (w : BaseArgs) (s : State) : Host.Outcome State Fault Refusal :=
  issue (howOp 0xC6 false (w.ext none)) (semAdrain (w.ext none)) s

/-- ADRAIN, extended form. -/
def execAdrainX (w : ExtArgs) (s : State) : Host.Outcome State Fault Refusal :=
  issue (howOp 0xC6 true w) (semAdrain w) s

/-- MFENCE, base form. -/
def execMfence (w : BaseArgs) (s : State) : Host.Outcome State Fault Refusal :=
  issue (howOp 0xC7 false (w.ext none)) (semMfence (w.ext none)) s

/-- MFENCE, extended form. -/
def execMfenceX (w : ExtArgs) (s : State) : Host.Outcome State Fault Refusal :=
  issue (howOp 0xC7 true w) (semMfence w) s

/-- MWAIT, base form. -/
def execMwait (w : BaseArgs) (s : State) : Host.Outcome State Fault Refusal :=
  issue (howOp 0xC8 false (w.ext none)) (semMwait (w.ext none)) s

/-- MWAIT, base form with a literal. -/
def execMwaitL (w : BaseArgs) (lit : DWord) (s : State) : Host.Outcome State Fault Refusal :=
  issue (howOp 0xC8 false (w.ext (some lit))) (semMwait (w.ext (some lit))) s

/-- MWAIT, extended form. -/
def execMwaitX (w : ExtArgs) (s : State) : Host.Outcome State Fault Refusal :=
  issue (howOp 0xC8 true w) (semMwait w) s

/-- BCOPY, base form. -/
def execBcopy (w : BaseArgs) (s : State) : Host.Outcome State Fault Refusal :=
  issue (howOp 0xC9 false (w.ext none)) (semBcopy (w.ext none)) s

/-- BCOPY, extended form. -/
def execBcopyX (w : ExtArgs) (s : State) : Host.Outcome State Fault Refusal :=
  issue (howOp 0xC9 true w) (semBcopy w) s

/-- BCOPYM, base form. -/
def execBcopym (w : BaseArgs) (s : State) : Host.Outcome State Fault Refusal :=
  issue (howOp 0xCA false (w.ext none)) (semBcopym (w.ext none)) s

/-- BCOPYM, extended form. -/
def execBcopymX (w : ExtArgs) (s : State) : Host.Outcome State Fault Refusal :=
  issue (howOp 0xCA true w) (semBcopym w) s

/-- QFENCE, base form. -/
def execQfence (w : BaseArgs) (s : State) : Host.Outcome State Fault Refusal :=
  issue (howOp 0xCB false (w.ext none)) (semQfence (w.ext none)) s

/-- QFENCE, extended form. -/
def execQfenceX (w : ExtArgs) (s : State) : Host.Outcome State Fault Refusal :=
  issue (howOp 0xCB true w) (semQfence w) s

/-- ROUTE, base form. -/
def execRoute (w : BaseArgs) (s : State) : Host.Outcome State Fault Refusal :=
  issue (howOp 0xCC false (w.ext none)) (semRoute (w.ext none)) s

/-- ROUTE, extended form. -/
def execRouteX (w : ExtArgs) (s : State) : Host.Outcome State Fault Refusal :=
  issue (howOp 0xCC true w) (semRoute w) s

/-- SREC, base form. -/
def execSrec (w : BaseArgs) (s : State) : Host.Outcome State Fault Refusal :=
  issue (howOp 0xCF false (w.ext none)) (semSrec (w.ext none)) s

/-- SREC, base form with a literal. -/
def execSrecL (w : BaseArgs) (lit : DWord) (s : State) : Host.Outcome State Fault Refusal :=
  issue (howOp 0xCF false (w.ext (some lit))) (semSrec (w.ext (some lit))) s

/-- SREC, extended form. -/
def execSrecX (w : ExtArgs) (s : State) : Host.Outcome State Fault Refusal :=
  issue (howOp 0xCF true w) (semSrec w) s

/-- BINIT, base form. -/
def execBinit (w : BaseArgs) (s : State) : Host.Outcome State Fault Refusal :=
  issue (howOp 0xD0 false (w.ext none)) (semBinit (w.ext none)) s

/-- BINIT, base form with a literal. -/
def execBinitL (w : BaseArgs) (lit : DWord) (s : State) : Host.Outcome State Fault Refusal :=
  issue (howOp 0xD0 false (w.ext (some lit))) (semBinit (w.ext (some lit))) s

/-- BINIT, extended form. -/
def execBinitX (w : ExtArgs) (s : State) : Host.Outcome State Fault Refusal :=
  issue (howOp 0xD0 true w) (semBinit w) s

/-- BARV, base form. -/
def execBarv (w : BaseArgs) (s : State) : Host.Outcome State Fault Refusal :=
  issue (howCompare (w.ext none) (howOp 0xD1 false (w.ext none))) (semBarv (w.ext none)) s

/-- BARV, base form with a literal. -/
def execBarvL (w : BaseArgs) (lit : DWord) (s : State) : Host.Outcome State Fault Refusal :=
  issue (howCompare (w.ext (some lit)) (howOp 0xD1 false (w.ext (some lit)))) (semBarv (w.ext (some lit))) s

/-- BARV, extended form. -/
def execBarvX (w : ExtArgs) (s : State) : Host.Outcome State Fault Refusal :=
  issue (howCompare w (howOp 0xD1 true w)) (semBarv w) s

/-- BARVX, base form. -/
def execBarvx (w : BaseArgs) (s : State) : Host.Outcome State Fault Refusal :=
  issue (howCompare (w.ext none) (howOp 0xD2 false (w.ext none))) (semBarvx (w.ext none)) s

/-- BARVX, base form with a literal. -/
def execBarvxL (w : BaseArgs) (lit : DWord) (s : State) : Host.Outcome State Fault Refusal :=
  issue (howCompare (w.ext (some lit)) (howOp 0xD2 false (w.ext (some lit)))) (semBarvx (w.ext (some lit))) s

/-- BARVX, extended form. -/
def execBarvxX (w : ExtArgs) (s : State) : Host.Outcome State Fault Refusal :=
  issue (howCompare w (howOp 0xD2 true w)) (semBarvx w) s

/-- BTEST, base form. -/
def execBtest (w : BaseArgs) (s : State) : Host.Outcome State Fault Refusal :=
  issue (howOp 0xD4 false (w.ext none)) (semBtest (w.ext none)) s

/-- BTEST, extended form. -/
def execBtestX (w : ExtArgs) (s : State) : Host.Outcome State Fault Refusal :=
  issue (howOp 0xD4 true w) (semBtest w) s

/-- TSRD, base form. -/
def execTsrd (w : BaseArgs) (s : State) : Host.Outcome State Fault Refusal :=
  issue (howOp 0xD6 false (w.ext none)) (semTsrd (w.ext none)) s

/-- TSRD, extended form. -/
def execTsrdX (w : ExtArgs) (s : State) : Host.Outcome State Fault Refusal :=
  issue (howOp 0xD6 true w) (semTsrd w) s

/-- CNTRD, base form. -/
def execCntrd (w : BaseArgs) (s : State) : Host.Outcome State Fault Refusal :=
  issue (howOp 0xD7 false (w.ext none)) (semCntrd (w.ext none)) s

/-- CNTRD, extended form. -/
def execCntrdX (w : ExtArgs) (s : State) : Host.Outcome State Fault Refusal :=
  issue (howOp 0xD7 true w) (semCntrd w) s


/-- DMMA, base form: the weight gradient goes to H(d + 1). -/
def execDmma (w : BaseArgs) (s : State) : Host.Outcome State Fault Refusal :=
  issue (howOp 0xC1 false (w.ext none)) (semDmmaTo (w.d.toNat + 1) (w.ext none)) s
/-- DMMA, extended form. -/
def execDmmaX (w : ExtArgs) (s : State) : Host.Outcome State Fault Refusal :=
  issue (howOp 0xC1 true w) (semDmmaTo w.c.toNat w) s
/-- BWAIT, base form. -/
def execBwait (w : BaseArgs) (s : State) : Host.Outcome State Fault Refusal :=
  issue (howBwait (w.ext none) (howOp 0xD3 false (w.ext none))) (semBwait false (w.ext none)) s
/-- BWAIT, extended form. -/
def execBwaitX (w : ExtArgs) (s : State) : Host.Outcome State Fault Refusal :=
  issue (howBwait w (howOp 0xD3 true w)) (semBwait true w) s
/-- WAITV, base form. -/
def execWaitv (w : BaseArgs) (s : State) : Host.Outcome State Fault Refusal :=
  issue (howWait (w.ext none) (howOp 0xD5 false (w.ext none))) (semWaitv false (w.ext none)) s
/-- WAITV, base form with a literal. -/
def execWaitvL (w : BaseArgs) (lit : DWord) (s : State) : Host.Outcome State Fault Refusal :=
  issue (howWait (w.ext (some lit)) (howOp 0xD5 false (w.ext (some lit)))) (semWaitv false (w.ext (some lit))) s
/-- WAITV, extended form. -/
def execWaitvX (w : ExtArgs) (s : State) : Host.Outcome State Fault Refusal :=
  issue (howWait w (howOp 0xD5 true w)) (semWaitv true w) s

end Sys2Proof.Machine
end

