-- ==== Sys2Proof/Machine/Remote.lean ====
section
/-! DEFINITION. Remote writes as a package issues them (R324, R328), and CCTL, whose write-back acts on the L2s (R215, R249). -/

namespace Sys2Proof.Machine

/-! ### Credits (R328) -/

/-- Of the bulk credits of a grantor, one for each 256 bytes, as many as there are and as n parts still need are taken: how many parts
have none yet. -/
def takeCredits (s : State) (g : Grantor) (n : Nat) : Nat × State :=
  if creditFree s g then (0, s)
  else
    match kget s.peers (grantorKey g) with
    | some q =>
      let m := min n q.bulk
      (n - m, { s with peers := kset s.peers (grantorKey g) { q with bulk := q.bulk - m } })
    | none => (n, s)

/-- One bulk credit to package p is taken: none when there is none to take, or when the message must wait for a route (R409). -/
def takeBulk (s : State) (p : BitVec 12) : Option State :=
  if packageAwaited s p then none
  else
    match takeCredits s (.pkg p) 1 with
    | (0, s) => some s
    | _ => none

/-- The receive buffers of another package's message have drained: its credits go back (R328). -/
def returnCredits (s : State) (src : BitVec 12) (kind : String) (n : Nat) : State :=
  if creditFree s (.pkg src) then s else emit s (.coll kind src 0 n)

/-- A request or bulk message of another package that arrives in mark mode while the input buffers are more than half full is marked, and
the mark goes back with its acknowledgement (R329). -/
def echoMark (s : State) (src : BitVec 12) : State :=
  if markMode s && s.inHigh && src != s.pkg then emit s (.coll "mark" src 0 0) else s

/-! ### PUTI (R324) -/

/-- The set of grid h becomes non-replayable, and its record tells so (R374). -/
def noReplay (s : State) (x : Ctx) : State :=
  let h := x.t.grid.toNat
  snapReport s (markNonReplay s h) h x.t.num x.g.gid x.pc false

/-- The PID of a space (R330). -/
def pidOf (s : State) (space : Nat) : BitVec 12 := ((kget s.spaces space).map (·.pid)).getD 0

/-- PUTI (R324): the release has been made when it issues. -/
def semPuti (w : ExtArgs) (x : Ctx) (s : State) : Res :=
  let p := (x.lowS w.b.toNat).toNat
  let win := x.lowPair w.a.toNat
  once w x s (
    if 2303 < p then .fault s 0x24 0 0
    else
      match takeBulk s (BitVec.ofNat 12 p) with
      | none => .stall s
      | some s =>
        let s := noReplay s x
        let s := modGrid s x.t.grid.toNat fun g => { g with puts := g.puts + 1 }
        .done (emit s (.put
          { pid := pidOf s x.gr.space, src := s.pkg, dst := BitVec.ofNat 12 p, key := win.extractLsb' 32 32
            offset := win.extractLsb' 0 32, value := w.lit.getD 0, word := x.lowS w.d.toNat, putk := false
            issuer := .grid x.t.grid (BitVec.ofNat 32 x.t.num) (BitVec.ofNat 5 x.g.gid) })))

/-! ### The write-back of CCTL (R215, R249) -/

/-- The L2 of a die holds a line dirty no more: M becomes E, and O becomes S. -/
def cleanState : LineState → LineState
  | .modified => .excl
  | .owned => .shared
  | l => l

/-- The line is written back from whichever L2 of the package holds it dirty; memory holds its data already. -/
def writeBackLine (line : Nat) (s : State) : State :=
  { s with coh := { s.coh with l2 := s.coh.l2.map fun m => kmod m line cleanState } }

/-! ### The instructions -/

/-- PUTI, base form with a literal. -/
def execPuti (w : BaseArgs) (lit : DWord) (s : State) : Host.Outcome State Fault Refusal :=
  issue (howCompare (w.ext (some lit)) (howOp 0xAF false (w.ext (some lit)))) (semPuti (w.ext (some lit))) s

/-- PUTI, extended form. -/
def execPutiX (w : ExtArgs) (s : State) : Host.Outcome State Fault Refusal :=
  issue (howCompare w (howOp 0xAF true w)) (semPuti w) s

/-- CCTL, base form. -/
def execCctl (w : BaseArgs) (s : State) : Host.Outcome State Fault Refusal :=
  issue (howOp 0xAE false (w.ext none)) ((semCctl writeBackLine) (w.ext none)) s

/-- CCTL, base form with a literal. -/
def execCctlL (w : BaseArgs) (lit : DWord) (s : State) : Host.Outcome State Fault Refusal :=
  issue (howOp 0xAE false (w.ext (some lit))) ((semCctl writeBackLine) (w.ext (some lit))) s

/-- CCTL, extended form. -/
def execCctlX (w : ExtArgs) (s : State) : Host.Outcome State Fault Refusal :=
  issue (howOp 0xAE true w) ((semCctl writeBackLine) w) s


end Sys2Proof.Machine
end

