-- ==== Sys2Proof/Machine/Home.lean ====
section
/-! DEFINITION. The home of a line (R250 to R257): snoops at the L2s of this package, the lock-die directory, and how the home accepts,
serves and answers requests. -/

namespace Sys2Proof.Machine

/-- s with its coherence state changed. -/
def modCoh (s : State) (f : Coherence → Coherence) : State := { s with coh := f s.coh }

/-- s with a region's record changed. -/
def modRegion (s : State) (r : Nat) (f : Region → Region) : State :=
  modCoh s fun c => { c with regions := kset c.regions r (f (regionAt s r)) }

/-- A coherence message leaves. -/
def sendCoh (s : State) (kind : String) (src dst : CohNode) (line : Nat) (stamp : Stamp) (data : Payload := .none) : State :=
  emit s (.coh kind src dst line stamp data)

/-- This package as a node. -/
def selfNode (s : State) : CohNode := .pkg s.pkg

/-- A stamp for what carries none. -/
def noStamp (s : State) : Stamp := { time := s.dtime, pkg := s.pkg, tag := 0 }

/-- Whether a message is a coherence message of some kind about a line, by its source and its destination. -/
def OutMsg.isCoh (m : OutMsg) (kinds : List String) (src dst : CohNode → Bool) (line : Nat) : Bool :=
  match m with
  | .coh k a b l _ _ => kinds.contains k && src a && dst b && decide (l = line)
  | _ => false

/-- The first message sent here of some kinds about a line, and the state without it. -/
def takeCoh (s : State) (kinds : List String) (src dst : CohNode → Bool) (line : Nat) : Option State :=
  (s.outbox.find? fun m => m.isCoh kinds src dst line).map fun m => { s with outbox := s.outbox.erase m }

/-! ### Snoops at an L2 (R249) -/

/-- The answer of an L2 in a state to a forwarding snoop, and its new state. -/
def fwdAnswer (keep : Bool) (st : LineState) : String × LineState :=
  match keep, st with
  | _, .inv => ("InvAck", .inv)
  | true, .shared => ("DataFwd", .shared)
  | true, .excl => ("DataFwd", .shared)
  | true, .owned => ("DataFwd", .owned)
  | true, .modified => ("DataFwd", .owned)
  | false, .shared => ("InvAck", .inv)
  | false, _ => ("DataFwd", .inv)

/-- The answer of an L2 to Invalidate or BackInvalidate. -/
def invAnswer (st : LineState) : String × LineState :=
  match st with
  | .owned | .modified => ("DataFwd", .inv)
  | _ => ("InvAck", .inv)

/-- Whether a node snoops a line of this package itself: the switch that tracks its region, for itself or for a requester (R256). -/
def switchSnoops (s : State) (line : Nat) (from_ : CohNode) : Bool :=
  let g := regionAt s (regionOf line)
  g.tracked && (match from_ with
    | .switch n => n == g.switch
    | .pkg p => p != s.pkg
    | _ => false)

/-- The dirty data that an L2 gives up to Invalidate or BackInvalidate goes to the home as well, where that is not who asked (R249). -/
def dataHome (s : State) (kind answer : String) (n : Snoop) : State :=
  if answer = "DataFwd" ∧ (kind = "Invalidate" ∨ kind = "BackInvalidate") ∧ n.requester ≠ homeNode n.line then
    sendCoh s "DataHome" (.die n.die) (homeNode n.line) n.line (noStamp s)
  else s

/-- A snoop reaches an L2: for a line of this package it is one that the directory has sent, or that of the switch which tracks the
line's region; for other lines it comes from a switch or a home. -/
def snoopL2 (kind : String) (f : LineState → String × LineState) (n : Snoop) (s : State) :
    Option State :=
  let node : CohNode := .die n.die
  let got :=
    if ownLine s n.line then
      (takeCoh s [kind] (· == n.requester) (· == node) n.line).orElse fun _ =>
        if switchSnoops s n.line n.requester then some s else none
    else if homeNode n.line = .host then none
    else some s
  match got with
  | none => none
  | some s =>
    let r := f (l2At s n.die.toNat n.line)
    some (dataHome (sendCoh (setL2 s n.die.toNat n.line r.2) r.1 node n.requester n.line (noStamp s)) kind r.1 n)

/-! ### The home and the directory (R250 to R257) -/

/-- The packages that a set of SHADOW bits covers: those of the domain that may hold a line, but for this one and one other. -/
def coveredBy (s : State) (shadow : DWord) (except : CohNode) : List (BitVec 12) :=
  (List.range 64).flatMap fun k =>
    if shadow.getLsbD k then
      ((List.range 36).map fun i => BitVec.ofNat 12 (36 * k + i)).filter fun p =>
        decide (p ≠ s.pkg) && decide (CohNode.pkg p ≠ except) && present s p
    else []

/-- A snoop to every other package that may hold a line, but for the one that asks: to those that SHADOW covers where the region is
untracked (R257), and to the switch where it is tracked; a request that comes through the switch has met its snoops there (R256). -/
def awaySnoops (s : State) (line : Nat) (src : CohNode) (kind : String) : List (String × CohNode) :=
  let g := regionAt s (regionOf line)
  if !g.tracked then (coveredBy s g.shadow src).map fun p => (kind, .pkg p)
  else
    let asks := [(kind, CohNode.switch g.switch)]
    match src with
    | .pkg p => if p = s.pkg ∧ g.shadow ≠ 0 then asks else []
    | _ => if g.shadow = 0 then [] else asks

/-- No copy of a line that package p has had since its last grant is left (R259): it has given the line up, or it, or the switch that
tracks the line, has been told to invalidate it. -/
def goneFrom (s : State) (line : Nat) (p : BitVec 12) : Bool :=
  let g := regionAt s (regionOf line)
  s.coh.gone.contains (line, .pkg p) || (g.tracked && s.coh.gone.contains (line, .switch g.switch))

/-- The nodes that are told to invalidate a line, other than dies and the host, hold it no more. -/
def noteGone (line : Nat) (l : List CohNode) (s : State) : State :=
  let new := (l.map fun n => (line, n)).filter fun e => match e.2 with
    | .pkg _ | .switch _ => !s.coh.gone.contains e
    | _ => false
  modCoh s fun c => { c with gone := c.gone ++ new }

/-- A package, by itself or through a switch, may hold a line again. -/
def noteGrant (line : Nat) (p : BitVec 12) (s : State) : State :=
  modCoh s fun c => { c with gone := c.gone.filter fun e => match e.2 with
    | .pkg q => !(decide (e.1 = line) && q == p)
    | .switch _ => decide (e.1 ≠ line)
    | _ => true }

/-- The shadow bit of a package. -/
def shadowBit (p : BitVec 12) : DWord := BitVec.twoPow 64 (p.toNat / 36)

/-- The dies of a directory entry that hold S. -/
def DirEntry.sharers (e : Option DirEntry) : List (BitVec 2) :=
  match e with
  | some (.shared l) => l
  | some (.owned _ l) => l
  | none => []

/-- The die that owns a line by its entry. -/
def DirEntry.owner (e : Option DirEntry) : Option (BitVec 2) :=
  match e with
  | some (.owned d _) => some d
  | _ => none

/-- A set of sharers as an entry. -/
def sharedEntry (l : List (BitVec 2)) : Option DirEntry := if l.isEmpty then none else some (.shared l)

/-- What serving a request does: the snoops, the directory entry and the home L2's state after it, and the answer. -/
structure Plan where
  snoops : List (String × CohNode)
  dir : Option DirEntry
  home : LineState
  answer : String

/-- The home's own copy after another agent has read the line, and after it has lost it. -/
def afterRead (st : LineState) : LineState :=
  match st with
  | .modified => .owned
  | .excl => .shared
  | l => l

/-- The plan of R252 for a request of a die, and of R256 and R257 for one of another package. A read of a line that the host may hold
leaves the host's copy (R261), and so grants no E (R250). DEDUCED (log 31). -/
def planFor (s : State) (kind : CohKind) (r : CohReq) : Plan :=
  let home := BitVec.ofNat 2 (homeDie (r.line * 128))
  let e := kget s.coh.dir r.line
  let st := l2At s home.toNat r.line
  let reg := regionAt s (regionOf r.line)
  let me : Option (BitVec 2) := match r.src with
    | .die d => if d = home then none else some d
    | _ => none
  let byHome := decide (r.src = .die home)
  let host (k : String) : List (String × CohNode) := if s.coh.hostLines.contains r.line then [(k, .host)] else []
  let away := awaySnoops s r.line r.src
  let invs : List (String × CohNode) :=
    ((DirEntry.sharers e).filter fun d => decide (some d ≠ me)).map fun d => ("Invalidate", CohNode.die d)
  let fwd : List (String × CohNode) := match DirEntry.owner e with
    | some d => if some d = me then [] else [("FwdOwn", .die d)]
    | none => []
  let all := fwd ++ invs ++ away "Invalidate" ++ host "BISnpInv"
  let mine : Option DirEntry := me.map fun d => .owned d []
  let lost : LineState := if byHome then st else .inv
  let retry : Plan := { snoops := [], dir := e, home := st, answer := "Retry" }
  match kind with
  | .readShared =>
    let alone := decide (reg.shadow = 0) && !s.coh.hostLines.contains r.line && decide (e = none)
    match DirEntry.owner e with
    | some d =>
      let snoops := if some d = me then [] else [("FwdShared", CohNode.die d)]
      let l := DirEntry.sharers e
      { snoops := snoops ++ host "BISnpData"
        dir := some (.owned d (match me with
          | some q => if q = d ∨ l.contains q then l else l ++ [q]
          | none => l))
        home := afterRead st, answer := "DataS" }
    | none =>
      let l := DirEntry.sharers e
      match me with
      | some q =>
        if e = none ∧ ¬ s.coh.hostLines.contains r.line then
          { snoops := away "Invalidate", dir := some (.owned q []), home := .inv, answer := "DataE" }
        else { snoops := away "FwdShared" ++ host "BISnpData", dir := some (.shared (if l.contains q then l else l ++ [q]))
               home := afterRead st, answer := "DataS" }
      | none =>
        { snoops := away "FwdShared" ++ host "BISnpData", dir := e, home := afterRead st
          answer := if byHome && alone then "DataE" else "DataS" }
  | .readOwn => { snoops := all, dir := mine, home := lost, answer := "DataM" }
  | .upgrade =>
    let holds : Bool := match r.src with
      | .die d =>
        if d = home then decide (st ≠ .inv)
        else decide (DirEntry.owner e = some d) || (decide (DirEntry.owner e = none) && (DirEntry.sharers e).contains d)
      | .pkg p => (reg.tracked || decide (reg.shadow &&& shadowBit p ≠ 0)) && !goneFrom s r.line p
      | .host | .switch _ => false
    if holds then { snoops := all, dir := mine, home := lost, answer := "Ack" } else retry
  | .writeBack | .cleanEvict =>
    let l := (DirEntry.sharers e).filter fun d => decide (some d ≠ me)
    { snoops := []
      dir := match DirEntry.owner e with
        | some d => if some d = me then sharedEntry l else some (.owned d l)
        | none => sharedEntry l
      home := st, answer := "Ack" }
  | .atomic => { snoops := all, dir := none, home := lost, answer := "Ack" }

/-- s with the directory entry of a line set. -/
def setDir (s : State) (line : Nat) (e : Option DirEntry) : State :=
  modCoh s fun c => { c with dir := match e with
    | some e => kset c.dir line e
    | none => kdel c.dir line }

/-- The directory's sets (R251): 2,097,152 entries in 16 ways. -/
def dirSet (line : Nat) : Nat := line % 131072

/-- The entries that stand in the set of a line. -/
def dirWays (s : State) (line : Nat) : List (Nat × DirEntry) :=
  s.coh.dir.filter fun e => decide (dirSet e.1 = dirSet line)

/-- What another package's request does to its line at home, where it has every other copy at I (R250): dirty data or a store is
written, and an atomic performed (R209, R211). -/
def applyPayload (s : State) (r : CohReq) : State :=
  let pa (o : BitVec 7) : Nat := r.line * 128 + o.toNat
  match r.payload with
  | .none => s
  | .data o l => { s with mem := writeList s.mem (pa o) (l.take (128 - o.toNat)) }
  | .atomic o wide op unsigned v c key =>
    let n := if wide then 8 else 4
    if o.toNat % n ≠ 0 then s
    else { s with mem := writeN s.mem (pa o) n (atomNew op.toNat n unsigned (readN s.mem (pa o) n) v.toNat c.toNat key) }

/-- The answer to a request leaves; with one for another package the credit of its buffer goes back (R328). What the lock die of this
package has asked for itself has no answer (R313). -/
def answerReq (s : State) (r : CohReq) (answer : String) : State :=
  if r.src = selfNode s then s
  else
    let s := sendCoh s answer (selfNode s) r.src r.line r.stamp
    match r.src with
    | .pkg p => returnCredits s p "request credits" 1
    | _ => s

/-- A request after which its package holds no copy of the line: it has given the line up. -/
def CohKind.givesUp (k : CohKind) : Bool :=
  match k with
  | .writeBack | .cleanEvict | .atomic => true
  | .readShared | .readOwn | .upgrade => false

/-- The answer to a request that is served. One that another package's request is served with is kept for that request (R258), and takes effect
at home; Retry serves nothing. -/
def respond (s : State) (kind : CohKind) (r : CohReq) (answer : String) : State :=
  let s := answerReq s r answer
  match r.src with
  | .pkg p =>
    if answer = "Retry" ∨ p = s.pkg then s
    else
      let s := if kind.givesUp then noteGone r.line [.pkg p] s else noteGrant r.line p s
      modCoh (applyPayload s r) fun c => { c with served := (r.stamp, kind, answer) :: c.served }
  | _ => s

/-- To whom the snoops of a request are answered: the data of an atomic's goes home (R252). -/
def snoopSrc (s : State) (kind : CohKind) (r : CohReq) : CohNode := if kind = .atomic then selfNode s else r.src

/-- Snoops leave for those that must answer; the host's go over CXL. -/
def sendSnoops (s : State) (kind : CohKind) (r : CohReq) (line : Nat) (l : List (String × CohNode)) : State :=
  noteGone line ((l.filter fun p => p.1 == "Invalidate").map (·.2))
    (l.foldl (fun s p => sendCoh s p.1 (snoopSrc s kind r) p.2 line r.stamp) s)

/-- A grant stands until the nodes of l have answered. -/
def addGrant (s : State) (line : Nat) (role : GrantRole) (kind : CohKind) (r : CohReq) (l : List CohNode) (answer : String) :
    State :=
  let g : Grant :=
    { line := line, role := role, kind := kind, req := r, waits := l.map fun n => (n, 1), since := s.dtime
      reported := false, answer := answer }
  modCoh s fun c => { c with grants := c.grants ++ [g] }

/-- A die of this package. -/
def CohNode.isDie (n : CohNode) : Bool :=
  match n with
  | .die _ => true
  | _ => false

/-- The home's answer for a line is on its way to an L2 of this package. -/
def answerOut (s : State) (line : Nat) : Bool :=
  s.outbox.any fun m => m.isCoh ["DataS", "DataE", "DataM", "Ack"] (· == selfNode s) CohNode.isDie line

/-- A line at which the home may serve nothing more now (R250): answers are due for it, one of its own has not arrived, or its region is
being swept. -/
def lineBusy (s : State) (line : Nat) : Bool :=
  (s.coh.grants.any fun g => decide (g.line = line ∨ g.req.line = line ∨ (g.role = .sweep ∧ regionOf g.line = regionOf line)))
    || answerOut s line

/-- Whether a plan tracks a line that the directory does not hold, in a set that is full (R253). -/
def mustGiveUp (s : State) (line : Nat) (p : Plan) : Bool :=
  p.dir.isSome && (kget s.coh.dir line).isNone && decide (16 ≤ (dirWays s line).length)

/-- The entries of the set of a line that can be given up: a grant of their line is not on its way to an L2. -/
def victims (s : State) (line : Nat) : List (Nat × DirEntry) :=
  (dirWays s line).filter fun e => !lineBusy s e.1 && !s.coh.mshrs.any fun m => decide (m.line = e.1) && m.taken

/-- The answer that a request of another package has had before (R258): the ReadOwn that an Upgrade has become is another request (R259). -/
def servedBefore (s : State) (kind : CohKind) (r : CohReq) : Option String :=
  (s.coh.served.find? fun e => decide (e.1 = r.stamp ∧ e.2.1 = kind ∧ r.src = .pkg r.stamp.pkg)).map (·.2.2)

/-- A request that waits because its directory set is full and none of it can be given up now. -/
def setBlocked (s : State) (kind : CohKind) (r : CohReq) : Bool :=
  (servedBefore s kind r).isNone && mustGiveUp s r.line (planFor s kind r) && (victims s r.line).isEmpty

/-- The home serves a request (R252, R256, R257): one that was served before gets the same answer (R258); where the directory's set is
full, an entry is given up first (R253). DESIGN CHOICE (log 31). -/
def serve (s : State) (kind : CohKind) (r : CohReq) : State :=
  match servedBefore s kind r with
  | some answer => answerReq s r answer
  | none =>
    let p := planFor s kind r
    if mustGiveUp s r.line p then
      let (k, s) := pick s (victims s r.line).length
      let v := (victims s r.line).getD k (0, .shared [])
      let dies := (match DirEntry.owner (some v.2) with
        | some d => [d]
        | none => []) ++ DirEntry.sharers (some v.2)
      let s := dies.foldl (fun s d => sendCoh s "BackInvalidate" (selfNode s) (.die d) v.1 r.stamp) s
      addGrant s v.1 .back kind r (dies.map CohNode.die) ""
    else
      let s := setL2 (setDir s r.line p.dir) (homeDie (r.line * 128)) r.line p.home
      let s := if p.snoops.contains ("BISnpInv", .host) then modCoh s fun c => { c with hostLines := c.hostLines.filter (· ≠ r.line) }
        else s
      let s := match r.src with
        | .pkg q =>
          if (regionAt s (regionOf r.line)).tracked ∨ q = s.pkg then s
          else modRegion s (regionOf r.line) fun g => { g with shadow := g.shadow ||| shadowBit q, swept := false }
        | _ => s
      let s := sendSnoops s kind r r.line p.snoops
      if p.snoops.isEmpty then respond s kind r p.answer
      else addGrant s r.line .answer kind r (p.snoops.map (·.2)) p.answer

/-- The requests that the home has accepted for a line are served in order until one must wait (R250). -/
def pump : Nat → Nat → State → State
  | 0, _, s => s
  | fuel + 1, line, s =>
    if lineBusy s line then s
    else
      match s.coh.queue.find? fun q => decide (q.2.line = line) with
      | none => s
      | some q =>
        if setBlocked s q.1 q.2 then s
        else pump fuel line (serve (modCoh s fun c => { c with queue := c.queue.erase q }) q.1 q.2)

/-- Every waiting request of a line that may now be served is. -/
def pumpLine (s : State) (line : Nat) : State := pump s.coh.queue.length line s

/-- Every waiting request that may now be served is. -/
def pumpAll (s : State) : State := s.coh.queue.foldl (fun s q => pumpLine s q.2.line) s

/-- A region collects requests in its recovery window (R258). -/
def collecting (s : State) (line : Nat) : Bool := (kget s.coh.affected (regionOf line)).isSome

/-- The home accepts a request: from a package that it has declared lost it refuses it (R260). -/
def acceptReq (s : State) (kind : CohKind) (r : CohReq) : State :=
  let refused := match r.src with
    | .pkg p => s.coh.lost.contains p
    | _ => false
  if refused then answerReq s r "Refusal"
  else if collecting s r.line then modCoh s fun c => { c with collected := c.collected ++ [(kind, r)] }
  else pumpLine (modCoh s fun c => { c with queue := c.queue ++ [(kind, r)] }) r.line

/-- What the lock die itself asks of this package's home: an atomic or a store that is performed there (R211, R250). It waits behind what
is being served and what waits for the line. -/
def askHome (s : State) (line : Nat) : State :=
  let r : CohReq := { line := line, src := selfNode s, stamp := noStamp s, payload := .none }
  if collecting s line then modCoh s fun c => { c with collected := c.collected ++ [(.atomic, r)] }
  else if lineBusy s line || s.coh.queue.any (fun q => decide (q.2.line = line)) then
    modCoh s fun c => { c with queue := c.queue ++ [(.atomic, r)] }
  else serve s .atomic r

/-- A line of this package may be held elsewhere than by its home. -/
def heldAway (s : State) (line : Nat) : Bool := ownLine s line && !homeFree s line

/-- The lock die's store of n bytes at pa gets other copies of its lines to I (R250). -/
def askHomes (s : State) (pa n : Nat) : State :=
  (List.range ((pa + n + 127) / 128 - pa / 128)).foldl (fun s i => if heldAway s (pa / 128 + i) then askHome s (pa / 128 + i) else s) s

/-- The lock die writes bytes at pa: a stream that has not acquired may go on reading the old ones (R242, R336), and the line's other copies, or
its home, are told. -/
def lockWrite (s : State) (pa : Nat) (l : List Byte) : State :=
  tellAccess (askHomes { s with mem := writeList s.mem pa l, behind := hideWrites none s.mem s.behind pa l } pa l.length) true pa l.length l

/-- The lock die performs an atomic at pa, which makes it v (R211, R313): of a line of this package at its home, for which it is asked;
one of another package's takes a credit and brings its operand. None where it must wait. -/
def lockAtomic (s : State) (pa n v : Nat) (pay : Payload) : Option State :=
  let line := pa / 128
  let done (s : State) : State := { s with mem := writeN s.mem pa n v, behind := hideWrites none s.mem s.behind pa (toBytes n v) }
  match homeNode line with
  | .pkg p =>
    if p = s.pkg then some (done (if heldAway s line then askHome s line else s))
    else (takeRequest s p).map fun s => done (sendCoh s "AtomicAtHome" (selfNode s) (.pkg p) line (noStamp s) pay)
  | _ => some (done s)

/-- A request that this package's home may be sent: by an L2 of the package, as one that is in flight, or by another package of the
domain. -/
def offered (s : State) (kind : CohKind) (r : CohReq) : Option State :=
  if !ownLine s r.line || targetRefuses s (r.line * 128) then none
  else
    match r.src with
    | .die d =>
      (s.coh.mshrs.find? fun m => decide (m.die = d ∧ m.line = r.line ∧ m.kind = kind ∧ m.stamp = r.stamp ∧ m.taken = false)).map
        fun m => modCoh s fun c => { c with mshrs := c.mshrs.map fun n => if n = m then { n with taken := true } else n }
    | .pkg p => if p ≠ s.pkg ∧ r.stamp.pkg = p ∧ s.pkgs.contains p then some s else none
    | .host | .switch _ => none

/-- A request arrives at the home; one of another package may be marked (R329). -/
def atHome (kind : CohKind) (r : CohReq) (s : State) : Option State :=
  match offered s kind r with
  | some s =>
    some (acceptReq (match r.src with
      | .pkg p => echoMark s p
      | _ => s) kind r)
  | none => none

/-- A region is swept once no line of it waits (R257). -/
def sweepDone (s : State) (region : Nat) : State :=
  if s.coh.grants.any fun g => decide (g.role = .sweep ∧ regionOf g.line = region) then s
  else modRegion s region fun g => { g with shadow := 0, swept := true }

/-- A grant that waits for no one completes: its answer leaves, or the entry that it gave up is free and its request is served, or its
line is swept; then the requests behind it are served. -/
def completeGrant (s : State) (g : Grant) : State :=
  let s := modCoh s fun c => { c with grants := c.grants.erase g }
  pumpAll (match g.role with
    | .answer => respond s g.kind g.req g.answer
    | .back => serve (setDir s g.line none) g.kind g.req
    | .sweep => sweepDone s (regionOf g.line)
    | .silent => s)

/-- A node has answered for a line: the grant that waits for it does so no more. -/
def answered (s : State) (line : Nat) (n : CohNode) : State :=
  match s.coh.grants.find? fun g => decide (g.line = line) && g.waits.any fun w => w.1 == n with
  | none => s
  | some g =>
    let h := { g with waits := g.waits.filter fun w => w.1 != n }
    if h.waits.isEmpty then completeGrant s g
    else modCoh s fun c => { c with grants := c.grants.map fun x => if x = g then h else x }

end Sys2Proof.Machine
end

