-- ==== Sys2Proof/Machine/Sha3.lean ====
section
/-! DEFINITION. SHA3-256 (R17, R27, R414), with SHAKE128 and SHAKE256, of which ML-DSA-44 is made: Keccak as FIPS 202 has it. PRESUMED
(log 8). -/

namespace Sys2Proof.Machine

/-- The round constants. -/
def keccakRounds : List DWord :=
  [0x0000000000000001#64, 0x0000000000008082#64, 0x800000000000808A#64, 0x8000000080008000#64, 0x000000000000808B#64,
   0x0000000080000001#64, 0x8000000080008081#64, 0x8000000000008009#64, 0x000000000000008A#64, 0x0000000000000088#64,
   0x0000000080008009#64, 0x000000008000000A#64] ++
  [0x000000008000808B#64, 0x800000000000008B#64, 0x8000000000008089#64, 0x8000000000008003#64, 0x8000000000008002#64,
   0x8000000000000080#64, 0x000000000000800A#64, 0x800000008000000A#64, 0x8000000080008081#64, 0x8000000000008080#64,
   0x0000000080000001#64, 0x8000000080008008#64]

/-- The rotation of lane x + 5y. -/
def keccakTurns : List Nat :=
  [0, 1, 62, 28, 27, 36, 44, 6, 55, 20, 3, 10, 43, 25, 39, 41, 45, 15, 21, 8, 18, 2, 61, 56, 14]

/-- One round on a state of 25 lanes. -/
def keccakRound (a : List DWord) (rc : DWord) : List DWord :=
  let lane (l : List DWord) (x y : Nat) : DWord := l.getD (x % 5 + 5 * (y % 5)) 0
  let c := (List.range 5).map fun x => lane a x 0 ^^^ lane a x 1 ^^^ lane a x 2 ^^^ lane a x 3 ^^^ lane a x 4
  let d := (List.range 5).map fun x => c.getD ((x + 4) % 5) 0 ^^^ (c.getD ((x + 1) % 5) 0).rotateLeft 1
  let t := (List.range 25).map fun i => (a.getD i 0 ^^^ d.getD (i % 5) 0).rotateLeft (keccakTurns.getD i 0)
  let b := (List.range 25).map fun i => lane t (i % 5 + 3 * (i / 5)) (i % 5)
  let e := (List.range 25).map fun i => lane b i (i / 5) ^^^ (~~~(lane b (i % 5 + 1) (i / 5)) &&& lane b (i % 5 + 2) (i / 5))
  e.set 0 (e.getD 0 0 ^^^ rc)

/-- The permutation. -/
def keccakF (a : List DWord) : List DWord := keccakRounds.foldl keccakRound a

/-- A block of bytes added to a state. -/
def keccakAdd (a : List DWord) (l : List Byte) : List DWord :=
  a.zipIdx.map fun p => p.1 ^^^ BitVec.ofNat 64 (ofBytes ((l.drop (8 * p.2)).take 8))

/-- n blocks of a rate go into a state. -/
def keccakAbsorb (rate : Nat) : Nat → List DWord → List Byte → List DWord
  | 0, a, _ => a
  | n + 1, a, l => keccakAbsorb rate n (keccakF (keccakAdd a (l.take rate))) (l.drop rate)

/-- n blocks of a rate come out of a state. -/
def keccakSqueeze (rate : Nat) : Nat → List DWord → List Byte
  | 0, _ => []
  | n + 1, a => (a.flatMap fun v => toBytes 8 v.toNat).take rate ++ keccakSqueeze rate n (keccakF a)

/-- n bytes of the sponge of a rate, for a message with a suffix. -/
def keccak (rate : Nat) (suffix : Byte) (m : List Byte) (n : Nat) : List Byte :=
  let q := rate - m.length % rate
  let padded := m ++ if q = 1 then [suffix ||| 0x80] else suffix :: List.replicate (q - 2) 0 ++ [0x80]
  (keccakSqueeze rate ((n + rate - 1) / rate) (keccakAbsorb rate (padded.length / rate) (List.replicate 25 0) padded)).take n

/-- SHA3-256, as its 32 bytes and as a number. -/
def sha3Bytes (m : List Byte) : List Byte := keccak 136 0x06 m 32
def sha3 (m : List Byte) : BitVec 256 := BitVec.ofNat 256 (ofBytes (sha3Bytes m))

/-- n bytes of SHAKE128 and of SHAKE256. -/
def shake128 (m : List Byte) (n : Nat) : List Byte := keccak 168 0x1F m n
def shake256 (m : List Byte) (n : Nat) : List Byte := keccak 136 0x1F m n

end Sys2Proof.Machine
end

