-- ==== Sys2Proof/Machine/MlDsa.lean ====
section
/-! DEFINITION. ML-DSA-44 (R17, R27, R414) as FIPS 204 has it: keys, signatures and their verification, with an empty context. PRESUMED
(log 8). -/

namespace Sys2Proof.Machine

/-! ### Polynomials -/

/-- A polynomial of 256 coefficients modulo q, and a vector of them. -/
abbrev Poly := List Nat
abbrev PolyVec := List Poly

/-- The modulus q. -/
def dsaQ : Nat := 8380417

/-- a to the power n modulo q; bits bounds the bits of n. -/
def powQ : Nat → Nat → Nat → Nat
  | 0, _, _ => 1
  | bits + 1, a, n => (if n % 2 = 1 then a else 1) * powQ bits (a * a % dsaQ) (n / 2) % dsaQ

/-- The eight bits of a number in reverse. -/
def rev8 (n : Nat) : Nat := (List.range 8).foldl (fun r i => 2 * r + n / 2 ^ i % 2) 0

/-- The root of unity at node m of the transform, and its inverse. -/
def zetaAt (m : Nat) : Nat := powQ 9 1753 (rev8 m)
def zetaInv (m : Nat) : Nat := powQ 10 1753 (512 - rev8 m)

/-- The number-theoretic transform of a list of 2 to the power k coefficients, at node m. -/
def nttAt : Nat → Nat → Poly → Poly
  | 0, _, l => l
  | k + 1, m, l =>
    let z := zetaAt m
    let lo := l.take (2 ^ k)
    let hi := (l.drop (2 ^ k)).map fun v => z * v % dsaQ
    nttAt k (2 * m) (lo.zipWith (fun a b => (a + b) % dsaQ) hi)
      ++ nttAt k (2 * m + 1) (lo.zipWith (fun a b => (a + dsaQ - b) % dsaQ) hi)

/-- Its inverse, but for the factor of the length. -/
def inttAt : Nat → Nat → Poly → Poly
  | 0, _, l => l
  | k + 1, m, l =>
    let z := zetaInv m
    let lo := inttAt k (2 * m) (l.take (2 ^ k))
    let hi := inttAt k (2 * m + 1) (l.drop (2 ^ k))
    lo.zipWith (fun a b => (a + b) % dsaQ) hi ++ lo.zipWith (fun a b => z * (a + dsaQ - b) % dsaQ) hi

/-- The transform of a polynomial, and back. -/
def ntt (p : Poly) : Poly := nttAt 8 1 p
def intt (p : Poly) : Poly := (inttAt 8 1 p).map fun v => 8347681 * v % dsaQ

/-- Sums, differences and transformed products. -/
def polyAdd (a b : Poly) : Poly := a.zipWith (fun x y => (x + y) % dsaQ) b
def polySub (a b : Poly) : Poly := a.zipWith (fun x y => (x + dsaQ - y) % dsaQ) b
def polyMul (a b : Poly) : Poly := a.zipWith (fun x y => x * y % dsaQ) b
def vecAdd (a b : PolyVec) : PolyVec := a.zipWith polyAdd b
def vecSub (a b : PolyVec) : PolyVec := a.zipWith polySub b

/-- A matrix by a vector, and a vector by a polynomial, all transformed; the results are transformed back. -/
def matVec (a : List PolyVec) (v : PolyVec) : PolyVec :=
  a.map fun row => intt ((row.zipWith polyMul v).foldl polyAdd (List.replicate 256 0))
def scaleVec (c : Poly) (v : PolyVec) : PolyVec := v.map fun p => intt (polyMul c (ntt p))

/-- The size of a coefficient: its distance from 0 modulo q. -/
def sizeQ (v : Nat) : Nat := min v (dsaQ - v)

/-- Every coefficient of a vector is smaller than n. -/
def vecBelow (n : Nat) (v : PolyVec) : Bool := v.all fun p => p.all fun c => decide (sizeQ c < n)

/-! ### Sampling -/

/-- The uniform coefficients in a stream of bytes, three for one. -/
def uniformCoeffs : List Byte → Poly
  | a :: b :: c :: l =>
    let v := a.toNat + 2 ^ 8 * b.toNat + 2 ^ 16 * (c.toNat % 128)
    if v < dsaQ then v :: uniformCoeffs l else uniformCoeffs l
  | _ => []

/-- The matrix of a seed. -/
def expandA (rho : List Byte) : List PolyVec :=
  (List.range 4).map fun r => (List.range 4).map fun s =>
    (uniformCoeffs (shake128 (rho ++ [BitVec.ofNat 8 s, BitVec.ofNat 8 r]) 1512)).take 256

/-- The small coefficients in a stream of bytes, from half-bytes below 15. -/
def smallCoeffs : List Byte → Poly
  | [] => []
  | b :: l =>
    let half (n : Nat) : Poly := if n < 15 then [(dsaQ + 2 - n % 5) % dsaQ] else []
    half (b.toNat % 16) ++ half (b.toNat / 16) ++ smallCoeffs l

/-- The secret vectors of a seed. -/
def expandS (rho : List Byte) : PolyVec × PolyVec :=
  let p (r : Nat) : Poly := (smallCoeffs (shake256 (rho ++ toBytes 2 r) 544)).take 256
  ((List.range 4).map p, (List.range 4).map fun r => p (r + 4))

/-- The places of the nonzero coefficients of a challenge: place i on, with the signs that are left. -/
def ballFrom : List Byte → Nat → List Nat → Poly → Poly
  | _, _, [], c => c
  | [], _, _, c => c
  | b :: l, i, g :: gs, c =>
    if i < b.toNat then ballFrom l i (g :: gs) c
    else ballFrom l (i + 1) gs ((c.set i (c.getD b.toNat 0)).set b.toNat (if g = 1 then dsaQ - 1 else 1))

/-- The challenge of a digest: 39 coefficients are 1 or −1. -/
def sampleInBall (d : List Byte) : Poly :=
  let s := shake256 d 408
  let signs := (List.range 39).map fun i => ofBytes (s.take 8) / 2 ^ i % 2
  ballFrom (s.drop 8) 217 signs (List.replicate 256 0)

/-! ### Packing -/

/-- Numbers of w bits each as bytes, and back. -/
def packBits (w : Nat) (l : List Nat) : List Byte :=
  toBytes (w * l.length / 8) ((l.zipIdx.map fun p => p.1 * 2 ^ (w * p.2)).sum)
def unpackBits (w n : Nat) (l : List Byte) : List Nat :=
  let v := ofBytes l
  (List.range n).map fun i => v / 2 ^ (w * i) % 2 ^ w

/-- A list in n parts of k elements. -/
def partsOf {α : Type} (k : Nat) : Nat → List α → List (List α)
  | 0, _ => []
  | n + 1, l => l.take k :: partsOf k n (l.drop k)

/-- A vector of masks or responses: each coefficient is 2 to the power 17, less a number of 18 bits. -/
def unpackMasks (n : Nat) (l : List Byte) : PolyVec :=
  (partsOf 576 n l).map fun p => (unpackBits 18 256 p).map fun v => (2 ^ 17 + dsaQ - v) % dsaQ
def packMasks (z : PolyVec) : List Byte := z.flatMap fun p => packBits 18 (p.map fun v => (2 ^ 17 + dsaQ - v) % dsaQ)

/-! ### High and low bits -/

/-- The spacing of high bits, twice 95,232. -/
def dsaAlpha : Nat := 190464

/-- The high and the low part of a coefficient, the low one modulo q. -/
def decomposeQ (r : Nat) : Nat × Nat :=
  let m := r % dsaAlpha
  let low := if m ≤ 95232 then (m : Int) else (m : Int) - dsaAlpha
  if (r : Int) - low = dsaQ - 1 then (0, ((low - 1) % dsaQ).toNat)
  else ((((r : Int) - low) / dsaAlpha).toNat, (low % dsaQ).toNat)

/-- The high parts of a vector as they are digested. -/
def packHigh (w : PolyVec) : List Byte := w.flatMap fun p => packBits 6 p

/-- A high part with a hint. -/
def useHint (h : Bool) (r : Nat) : Nat :=
  let (hi, lo) := decomposeQ r
  if !h then hi else if 0 < lo ∧ lo < dsaQ / 2 then (hi + 1) % 44 else (hi + 43) % 44

/-- The hints of a signature: the places set of each polynomial, in rising order; none where they are ill-formed. -/
def unpackHints (l : List Byte) : Option (List (List Nat)) :=
  let places := (l.take 80).map (·.toNat)
  let ends := (l.drop 80).map (·.toNat)
  let starts := 0 :: ends
  let part (i : Nat) : List Nat := (places.take (ends.getD i 0)).drop (starts.getD i 0)
  let rising (p : List Nat) : Bool := (p.zip (p.drop 1)).all fun x => decide (x.1 < x.2)
  let ok := (List.range 4).all (fun i => decide (starts.getD i 0 ≤ ends.getD i 0 ∧ ends.getD i 0 ≤ 80) && rising (part i))
    && (places.drop (ends.getD 3 0)).all (· == 0)
  if ok then some ((List.range 4).map part) else none

/-! ### Keys, verification and signing -/

/-- A key pair as its seed gives it: the public seed and t, what is secret, and the public key's bytes. -/
structure DsaKey where
  rho : List Byte
  key : List Byte
  s1 : PolyVec
  s2 : PolyVec
  t0 : PolyVec
  pk : List Byte

/-- The high 10 bits of a coefficient, and what is left of it modulo q. -/
def powerRound (r : Nat) : Nat × Nat :=
  let m := r % 8192
  if m ≤ 4096 then (r / 8192, m) else (r / 8192 + 1, dsaQ + m - 8192)

/-- The key pair of a seed of 32 bytes. -/
def dsaKey (seed : List Byte) : DsaKey :=
  let l := shake256 (seed ++ [4, 4]) 128
  let rho := l.take 32
  let (s1, s2) := expandS ((l.drop 32).take 64)
  let t := vecAdd (matVec (expandA rho) (s1.map ntt)) s2
  { rho := rho, key := l.drop 96, s1 := s1, s2 := s2, t0 := t.map fun p => p.map fun v => (powerRound v).2
    pk := rho ++ t.flatMap fun p => packBits 10 (p.map fun v => (powerRound v).1) }

/-- The digest that stands for a message under a public key. -/
def dsaMessage (pk m : List Byte) : List Byte := shake256 (shake256 pk 64 ++ [0, 0] ++ m) 64

/-- Whether a signature of a message is good under a public key. -/
def dsaVerify (pk m sig : List Byte) : Bool :=
  let digest := sig.take 32
  let z := unpackMasks 4 (sig.drop 32)
  match unpackHints (sig.drop 2336) with
  | none => false
  | some h =>
    let t := (partsOf 320 4 (pk.drop 32)).map fun p => (unpackBits 10 256 p).map fun v => v * 8192 % dsaQ
    let w := vecSub (matVec (expandA (pk.take 32)) (z.map ntt)) (scaleVec (ntt (sampleInBall digest)) t)
    let w1 := w.zipWith (fun p g => p.zipIdx.map fun c => useHint (g.contains c.2) c.1) h
    vecBelow (2 ^ 17 - 78) z && shake256 (dsaMessage pk m ++ packHigh w1) 32 == digest

/-- One attempt at a signature, with masks numbered from n on; none where it is rejected. -/
def signAttempt (k : DsaKey) (a : List PolyVec) (mu seed : List Byte) (n : Nat) : Option (List Byte) :=
  let y := (List.range 4).flatMap fun r => unpackMasks 1 (shake256 (seed ++ toBytes 2 (n + r)) 576)
  let w := matVec a (y.map ntt)
  let digest := shake256 (mu ++ packHigh (w.map fun p => p.map fun v => (decomposeQ v).1)) 32
  let c := ntt (sampleInBall digest)
  let z := vecAdd y (scaleVec c k.s1)
  let r := vecSub w (scaleVec c k.s2)
  let low := r.map fun p => p.map fun v => (decomposeQ v).2
  let ct := scaleVec c k.t0
  let high (v : PolyVec) : PolyVec := v.map fun p => p.map fun x => (decomposeQ x).1
  let hints := ((high r).zip (high (vecAdd r ct))).map fun p =>
    (p.1.zip p.2).zipIdx.filterMap fun x => if x.1.1 = x.1.2 then none else some x.2
  let places := hints.flatten
  if vecBelow (2 ^ 17 - 78) z && vecBelow (95232 - 78) low && vecBelow 95232 ct && decide (places.length ≤ 80) then
    let ends := (List.range 4).map fun i => (hints.take (i + 1)).flatten.length
    some (digest ++ packMasks z ++ (places ++ List.replicate (80 - places.length) 0 ++ ends).map (BitVec.ofNat 8))
  else none

/-- The first attempt of fuel many that is not rejected. -/
def signFrom (k : DsaKey) (a : List PolyVec) (mu seed : List Byte) : Nat → Nat → List Byte
  | 0, _ => []
  | fuel + 1, n =>
    match signAttempt k a mu seed n with
    | some s => s
    | none => signFrom k a mu seed fuel (n + 4)

/-- The signature of a message under the key of a seed, with 32 random bytes. -/
def dsaSign (seed m random : List Byte) : List Byte :=
  let k := dsaKey seed
  let mu := dsaMessage k.pk m
  signFrom k (expandA k.rho) mu (shake256 (k.key ++ random ++ mu) 64) 814 0

end Sys2Proof.Machine
end

