-- ==== Sys2Proof/Machine/Sequencer.lean ====
section
/-! DEFINITION. The link sequencers: contexts and switches (R301, R302), chunks (R303, R306 to R310), the sixteen instructions (R304,
R311 to R315, R325) and their faults (R331 to R333). -/

namespace Sys2Proof.Machine

/-! ### Contexts -/

/-- Sequencer n, and its context k. -/
def seqAt (s : State) (n : Nat) : Sequencer := s.seqs.getD n Sequencer.init
def ctxAt (s : State) (n k : Nat) : SeqCtx := (seqAt s n).ctxs.getD k SeqCtx.init

/-- s with a sequencer or a context changed. -/
def modSeq (s : State) (n : Nat) (f : Sequencer → Sequencer) : State := { s with seqs := lmod s.seqs n f }
def modCtx (s : State) (n k : Nat) (f : SeqCtx → SeqCtx) : State := modSeq s n fun q => { q with ctxs := lmod q.ctxs k f }

/-- The collective that a context works for. -/
def collOf (s : State) (c : SeqCtx) : Option Collective := kget s.colls c.cid.toNat

/-- The next ready context, counting from the one that left (R302). -/
def nextReady (q : Sequencer) : Option Nat :=
  let from_ := match q.last with
    | some l => l + 1
    | none => 0
  ((List.range 4).map fun i => (from_ + i) % 4).find? fun k => decide ((q.ctxs.getD k SeqCtx.init).state = .ready)

/-- A sequencer that runs no context runs the next ready one. -/
def schedule (s : State) (n : Nat) : State :=
  modSeq s n fun q =>
    if q.run.isSome then q
    else
      match nextReady q with
      | some k => { q with run := some k, streak := 0, ctxs := lmod q.ctxs k fun c => { c with state := .running } }
      | none => q

/-- The route word of a context (R306). -/
def selfRoute (s : State) (n k : Nat) : Route := { pkg := s.pkg, sq := BitVec.ofNat 5 n, ctx := BitVec.ofNat 2 k }

/-! ### Faults (R331, R333) -/

/-- A write of bytes at a virtual address by the lock die, byte by byte; none where any of them faults or meets an uncorrectable error
(R320). -/
def sysWriteBytes (s : State) (space va : Nat) (l : List Byte) : Option State :=
  let pas := (List.range l.length).map fun i => sysAddr s space (va + i) 1 needW
  if pas.any fun p => p.all fun a => (poisonAt s a 1).isSome then none
  else some ((pas.zip l).foldl (fun s p => tellAccess { s with mem := fset s.mem (p.1.getD 0) p.2 } true (p.1.getD 0) 1 [p.2]) s)

/-- The collective fault record (R331). -/
def faultBytes (s : State) (n k cause addr : Nat) (pc : BitVec 11) (cid : BitVec 28) : List Byte :=
  toBytes 32 (cause + 2 ^ 8 * (n + 32 * k) + 2 ^ 16 * s.pkg.toNat + 2 ^ 32 * pc.toNat + 2 ^ 64 * s.dtime.toNat
    + 2 ^ 128 * addr + 2 ^ 192 * cid.toNat)

/-- The packages that an ABORT goes to: the origin, which sends it to every package of the collective (R333). It tells the cause, which
the done word of the origin needs. DEDUCED (log 28). -/
def sendAbort (s : State) (cid : BitVec 28) (cause : Nat) : State :=
  let l := ((kget s.colls cid.toNat).map (·.pkgs)).getD []
  if cid.extractLsb' 0 12 = s.pkg then l.foldl (fun s p => emit s (.coll "abort" p cid cause)) s
  else emit s (.coll "abort" (cid.extractLsb' 0 12) cid cause)

/-- A cause becomes the collective's first, and its record is written, once (R331, R320). -/
def recordFault (s : State) (cid : BitVec 28) (n k cause addr : Nat) (pc : BitVec 11) : State :=
  match kget s.colls cid.toNat with
  | none => s
  | some co =>
    if co.cause ≠ 0 then s
    else
      let co := { co with cause := cause }
      let (co, s) :=
        if co.recorded = true ∨ co.faultrec.toNat = 0 then ({ co with recorded := true }, s)
        else
          match sysWriteBytes s co.space co.faultrec.toNat (faultBytes s n k cause addr pc cid) with
          | some s => ({ co with recorded := true }, s)
          | none => ({ co with recorded := true, writeErr := true }, s)
      { s with colls := kset s.colls cid.toNat co }

/-- A context as a fault leaves it: its pc stands. -/
def SeqCtx.faultedBy (c : SeqCtx) (cause addr : Nat) : SeqCtx :=
  { c with state := .faulted, wait := .none, cause := cause, faultAt := addr, abort := false
           step := c.step && !c.halt, due := false }

/-- The running context leaves the sequencer, changed by f, and the next ready one runs (R302). -/
def leaveSeq (s : State) (n k : Nat) (f : SeqCtx → SeqCtx) : State :=
  schedule (modSeq s n fun q => { q with run := none, last := some k, ctxs := lmod q.ctxs k f }) n

/-- A context changes where it stands: it leaves the sequencer if it runs. -/
def moveCtx (s : State) (n k : Nat) (f : SeqCtx → SeqCtx) : State :=
  if (seqAt s n).run = some k then leaveSeq s n k f else modCtx s n k f

/-! ### Chunks (R303) -/

/-- The parts of a range within 64 KiB pages. -/
def rangeParts : Nat → Nat → Nat → List (Nat × Nat)
  | 0, _, _ => []
  | fuel + 1, va, n =>
    if n = 0 then []
    else
      let m := min n (65536 - va % 65536)
      (va, m) :: rangeParts fuel (va + m) (n - m)

/-- What a translation by a sequencer answers; await: the range lies in a package to which a route is waited for (R409). -/
inductive SeqTrans where
  | ok (g : Seg) (s : State)
  | page (va : Nat) (s : State)
  | fault (addr : Nat) (s : State)
  | await (s : State)

/-- Translate the parts of a range through the sequencer's buffer of 64 entries; every page before any byte moves. A part that is read lies in
another package's memory by a message to it (R327). -/
def transParts (n space : Nat) (need : Need) : List (Nat × Nat) → Seg → State → SeqTrans
  | [], g, s => .ok g.reverse s
  | (va, len) :: l, g, s =>
    if !inGridSpace va then .fault va s
    else
      let (w, _, tlb, s) := tlbLookup 64 (seqAt s n).tlb (seqAt s n).tlb space va (walkSpace s space va) s
      let s := modSeq s n fun q => { q with tlb := tlb }
      match checkWalk s.pkg none va need w with
      | .access _ => .fault va s
      | .page _ => .page va s
      | .ok pa _ =>
        if targetRefuses s pa then .fault va s
        else if accessAwaited s pa then .await s
        else transParts n space need l ((pa, len) :: g) (if need.r && need.atom.isNone then tellAccess s false pa len [] else s)

/-- A chunk's address range (R303). -/
def transChunk (n space : Nat) (need : Need) (va len : Nat) (s : State) : SeqTrans :=
  if va % 256 ≠ 0 then .fault va s else transParts n space need (rangeParts 34 va len) [] s

/-- The bytes of a range. -/
def readSeg (s : State) (g : Seg) : List Byte := g.flatMap fun p => readList s.mem p.1 p.2

/-- Bytes written to a range. -/
def writeSeg : State → Seg → List Byte → State
  | s, [], _ => s
  | s, (pa, n) :: g, l => writeSeg (lockWrite s pa (l.take n)) g (l.drop n)

/-- Whether a range holds a poisoned line. -/
def segPoison (s : State) (g : Seg) : Bool :=
  g.any fun p => s.poison.any fun e => decide (p.1 / 128 ≤ e.1 ∧ e.1 ≤ (p.1 + p.2 - 1) / 128)

/-- A chunk's length (R304). -/
def chunkLen (len : BitVec 12) : Nat := (len.toNat + 1) * 256

/-- Two ranges of n bytes overlap without being equal. -/
def crosses (a b n : Nat) : Bool := decide (a < b + n ∧ b < a + n ∧ a ≠ b)

/-- The elements of n bytes of a chunk as numbers, and back. -/
def elemsOf (n : Nat) : Nat → List Byte → List Nat
  | 0, _ => []
  | fuel + 1, l => if l.isEmpty then [] else ofBytes (l.take n) :: elemsOf n fuel (l.drop n)

/-- The combine of two elements (R308). -/
def combineElem (cmb x y : Nat) : Nat :=
  match cmb with
  | 0 => (fpAdd fmt32 .rne false (fp32 (BitVec.ofNat 32 x)) (fp32 (BitVec.ofNat 32 y))).1
  | 1 => (fpAdd fmtB16 .rne false (decodeFloat fmtB16 x) (decodeFloat fmtB16 y)).1
  | 2 => (x + y) % 2 ^ 32
  | 3 => (x + y) % 2 ^ 64
  | 4 => (fpMinMax true (BitVec.ofNat 32 x) (BitVec.ofNat 32 y)).1.toNat
  | _ => (fpMinMax false (BitVec.ofNat 32 x) (BitVec.ofNat 32 y)).1.toNat

/-- The element size of a combine. -/
def combineSize (cmb : Nat) : Nat := match cmb with
  | 1 => 2 | 3 => 8 | _ => 4

/-- Two chunks combined (R308). -/
def combineChunk (cmb : BitVec 3) (a b : List Byte) : List Byte :=
  let n := combineSize cmb.toNat
  ((elemsOf n a.length a).zip (elemsOf n b.length b)).flatMap fun p => toBytes n (combineElem cmb.toNat p.1 p.2)

/-! ### Faults that stand (R331, R333) -/

/-- Any subset of some bytes of a range is written (R331): which is free (R7). DESIGN CHOICE (log 6). -/
def someBytes (s : State) (g : Seg) (l : List Byte) : State :=
  ((g.flatMap fun p => (List.range p.2).map (p.1 + ·)).zip l).foldl (fun s p =>
    let (c, s) := pick s 2
    if c = 0 then s else lockWrite s p.1 [p.2]) s

/-- Bytes that another package has sent and the model does not know (R7). DESIGN CHOICE (log 6). -/
def freeBytes : Nat → State → List Byte × State
  | 0, s => ([], s)
  | n + 1, s =>
    let (c, s) := pick s 256
    let (l, s) := freeBytes n s
    (BitVec.ofNat 8 c :: l, s)

/-- What a receive makes of a chunk's data (R307). -/
def RxOp.result (op : RxOp) (s : State) (data : List Byte) : List Byte :=
  match op.cmb with
  | none => data
  | some c => combineChunk c (readSeg s op.loc) data

/-- The data of the chunk that may be on its way to a receive: that of a context of this package, as it sends it or has sent it, or of
another package's. -/
def inFlight (s : State) (n k : Nat) (op : RxOp) : Option (List Byte) × State :=
  let me := selfRoute s n k
  if op.src.pkg ≠ s.pkg then
    let (l, s) := freeBytes op.len s
    (some l, s)
  else
    match (ctxAt s op.src.sq.toNat op.src.ctx.toNat).wait with
    | .flow data _ dst tag _ _ => (if dst = me ∧ tag = op.tag then some data else none, s)
    | _ =>
      (s.outbox.findSome? fun m => match m with
        | .chunk c => if c.src = op.src ∧ c.dst = me ∧ c.tag = op.tag then some c.data else none
        | _ => none, s)

/-- Of a chunk that has been on its way from src, a receive of this package has any subset (R331). -/
def receivePart (s : State) (src dst : Route) (tag : BitVec 16) (data : List Byte) : State :=
  if dst.pkg ≠ s.pkg then s
  else
    match (ctxAt s dst.sq.toNat dst.ctx.toNat).wait with
    | .rx op (some _) _ _ =>
      if op.src = src ∧ op.tag = tag then someBytes s op.dst (op.result s (data.take op.len)) else s
    | _ => s

/-- Of what a forwarded chunk had still to store here, any subset is written (R331). -/
def someDue (s : State) (due : Option StoreDue) : State :=
  match due with
  | some d => someBytes s d.dst d.data
  | none => s

/-- The chunk of a context is abandoned: of what it had to write, of what was on its way to it, and of what it has sent to a context of
this package, any subset has been written (R331, R333, R336). -/
def abandon (s : State) (n k : Nat) : State :=
  let me := selfRoute s n k
  match (ctxAt s n k).wait with
  | .cvt dst out _ => someBytes s dst out
  | .flow data _ dst tag _ due => receivePart (someDue s due) me dst tag data
  | .done due => someDue s due
  | .sent dst tag due =>
    let s := someDue s due
    match s.outbox.findSome? fun m => match m with
        | .chunk c => if c.src = me ∧ c.dst = dst ∧ c.tag = tag then some c.data else none
        | _ => none with
    | some data => receivePart s me dst tag data
    | none => s
  | .rx op (some _) _ _ =>
    match inFlight s n k op with
    | (some data, s) => someBytes s op.dst (op.result s (data.take op.len))
    | (none, s) => s
  | .sred dst own count =>
    let (l, s) := if count = 1 then (own, s) else freeBytes own.length s
    someBytes s dst l
  | _ => s

/-- What a context that stops has sent, and what was for it, is in flight no more (R333). -/
def dropMessages (s : State) (n k : Nat) : State :=
  let me := selfRoute s n k
  let stays (m : OutMsg) : Bool := match m with
    | .ready m => !(m.src == me || m.dst == me)
    | .chunk m => !(m.src == me || m.dst == me)
    | _ => true
  { s with outbox := s.outbox.filter stays, issued := s.issued.filter fun i => stays i.msg }

/-- A chunk that has come and waits to be combined drains: the credits of another package's go back (R328). -/
def drainChunk (s : State) (w : SeqWait) : State :=
  match w with
  | .replay op data => returnCredits s op.src.pkg "bulk credits" (data.length / 256)
  | _ => s

/-- A fault that stands (R333): it is recorded and aborts the collective, but for one that an abort brought. -/
def seqFault (s : State) (n k cause addr : Nat) : State :=
  let c := ctxAt s n k
  if c.state = .idle ∨ c.state = .faulted then s
  else
    let s := if cause = 0x0A ∨ cause = 0x0B then abandon s n k else s
    let s := drainChunk (dropMessages s n k) c.wait
    let s := if cause = 0x0B then s
      else if (collOf s c).isSome then sendAbort (recordFault s c.cid n k cause addr c.pc) c.cid cause
      else s
    moveCtx s n k fun c => c.faultedBy cause addr

/-- A switch point: an abort that has reached the context stops it there (R333); else it goes on as f has it. -/
def atSwitch (f : SeqCtx → SeqCtx) (c : SeqCtx) : SeqCtx := if c.abort then c.faultedBy 0x0B 0 else f c

/-- A context that has come to the end of an instruction off the sequencer: halted, unless a step is due, or ready (R334). -/
def SeqCtx.rested (c : SeqCtx) : SeqCtx :=
  if c.halt then (if c.due then { c with state := .ready, due := false } else { c with state := .halted, step := false })
  else { c with state := .ready }

/-- A context that has ended its program: a step of it is over (R312, R334). -/
def SeqCtx.ended (c : SeqCtx) : SeqCtx := { c with state := .idle, step := c.step && !c.halt, due := false }

/-- A context whose instruction starts again: a step goes on with it (R334). -/
def SeqCtx.retried (c : SeqCtx) : SeqCtx := if c.halt && !c.step then { c with state := .halted } else { c with state := .ready }

/-- A chunk, a flag wait or the like is over: the context goes on at the next instruction (R302). -/
def seqComplete (s : State) (n k : Nat) : State :=
  schedule (modCtx s n k (atSwitch fun c => { c with wait := .none, pc := c.pc + 1 }.rested)) n

/-! ### Rendezvous (R306, R307) -/

/-- A route word (R306); none where it breaks the layout. -/
def routeOf (v : DWord) : Option Route :=
  let n := v.toNat
  if 2 ^ 19 ≤ n ∨ 2303 < n % 2 ^ 12 ∨ 23 < n / 2 ^ 12 % 32 then none
  else some { pkg := v.extractLsb' 0 12, sq := v.extractLsb' 12 5, ctx := v.extractLsb' 17 2 }

/-- The receiver's READY goes to the sender (R306). -/
def sendReady (s : State) (n k : Nat) (op : RxOp) : State :=
  let c := ctxAt s n k
  let s := emit s (.ready { src := selfRoute s n k, dst := op.src, pid := ((collOf s c).map (·.pid)).getD 0, tag := op.tag,
                            length := op.len, combine := op.cmb })
  modCtx s n k fun c => match c.wait with
    | .rx o _ _ f => { c with wait := .rx o (some s.dtime) false f }
    | _ => c

/-- A chunk leaves on its link for a context once each 256 bytes of it have had a bulk credit (R328); left tells how many have none, due
what is to be stored once it is acknowledged. A link that is down or has no route is cause 0x09 (R306), or is waited for (R409). -/
def sendChunk (s : State) (n k : Nat) (dst : Route) (tag : BitVec 16) (l : List Byte) (left lnk : Nat) (due : Option StoreDue) : State :=
  let c := ctxAt s n k
  let waitFor (s : State) (left : Nat) : State := modCtx s n k fun c => { c with wait := .flow l left dst tag lnk due }
  if !linkReaches s lnk dst.pkg then
    (if routeAwaited s [lnk] dst.pkg then waitFor s left else seqFault s n k 0x09 0)
  else
    match takeCredits s (.pkg dst.pkg) left with
    | (0, s) =>
      modCtx (emitOn s (some lnk)
          (.chunk { src := selfRoute s n k, dst := dst, pid := ((collOf s c).map (·.pid)).getD 0, tag := tag, data := l }))
        n k fun c => { c with wait := .sent dst tag due }
    | (left, s) => waitFor s left

/-- A link leads to a vendor switch (R310). -/
def leadsToSwitch (s : State) (link : Nat) : Bool := (s.links.getD link Link.init).up && !s.noSwitch.contains link

/-- A presentation waits for a link that has failed while route recovery was host-assisted (R409). -/
def switchAwaited (s : State) (link : Nat) : Bool :=
  let l := s.links.getD link Link.init
  !l.up && l.lost && !s.noSwitch.contains link

/-- A chunk is presented to the switch of a link in the same way (R310, R328). DESIGN CHOICE (log 41). -/
def offerSum (s : State) (n k : Nat) (dst : Seg) (own : List Byte) (count left link : Nat) (desc : DWord) : State :=
  let c := ctxAt s n k
  let waitFor (s : State) (left : Nat) : State := modCtx s n k fun c => { c with wait := .offer dst own count left link desc }
  if !leadsToSwitch s link then (if switchAwaited s link then waitFor s left else seqFault s n k 0x09 0)
  else
    match takeCredits s (.switch (BitVec.ofNat 5 link)) left with
    | (0, s) =>
      modCtx (emit s (.sred n k link desc (((collOf s c).map (·.pid)).getD 0) own)) n k fun c => { c with wait := .sred dst own count }
    | (left, s) => waitFor s left

/-- A mismatch: both contexts take cause 0x06 (R306). -/
def mismatch (s : State) (n k : Nat) (dst : Route) (tag : BitVec 16) : State :=
  seqFault (emit s (.nack { dst := dst, tag := tag, pidFault := false })) n k 0x06 0

/-- A context that waits to send takes the READY that its table holds for it. -/
def advanceCtx (s : State) (n k : Nat) : State :=
  let c := ctxAt s n k
  let from_ (r : Route) (tag : BitVec 16) := c.readys.find? fun m => decide (m.tag = tag ∧ m.src = r)
  let drop (s : State) (m : ReadyMsg) : State := modCtx s n k fun c => { c with readys := c.readys.erase m }
  if c.state ≠ .waiting then s
  else
    match c.wait with
    | .tx src len dst tag lnk =>
      match from_ dst tag with
      | none => s
      | some m =>
        if m.length ≠ len then mismatch (drop s m) n k dst tag
        else if segPoison s src then seqFault (receivePart (drop s m) (selfRoute s n k) dst tag (readSeg s src)) n k 0x0A 0
        else sendChunk (drop s m) n k dst tag (readSeg s src) (len / 256) lnk none
    | .flow data left dst tag lnk due => sendChunk s n k dst tag data left lnk due
    | .offer dst own count left link desc => offerSum s n k dst own count left link desc
    | .rx op none _ false =>
      match op.fwd with
      | none => sendReady s n k op
      | some r =>
        match from_ r op.tag with
        | none => s
        | some m =>
          if m.length ≠ op.len ∨ (m.combine.isSome ∧ m.combine ≠ op.cmb) then mismatch (drop s m) n k r op.tag
          else sendReady (modCtx (drop s m) n k fun c => { c with wait := .rx op none false true }) n k op
    | _ => s

/-- The acknowledgement to the sender of a chunk that every byte is written (R307). -/
def ackSender (s : State) (from_ me : Route) (tag : BitVec 16) : State :=
  if from_.pkg ≠ s.pkg then emit s (.coll "chunk written" from_.pkg (ctxAt s me.sq.toNat me.ctx.toNat).cid tag.toNat)
  else modCtx s from_.sq.toNat from_.ctx.toNat fun c => match c.wait with
    | .sent dst t due => if dst = me ∧ t = tag then { c with wait := .done due } else c
    | _ => c

/-- The receive buffers of a chunk of n bytes have drained: another package has its credits back (R328). -/
def drained (s : State) (from_ : Route) (n : Nat) : State := returnCredits s from_.pkg "bulk credits" (n / 256)

/-- What a forwarded chunk had still to do here is done: its bytes are written, and the sender of the chunk that was combined is told. -/
def finishDue (s : State) (n k : Nat) (due : Option StoreDue) : State :=
  match due with
  | some d => ackSender (writeSeg s d.dst d.data) d.src (selfRoute s n k) d.tag
  | none => s

/-- The 16 bytes of a log entry (R314). -/
def logBytes (s : State) (co : Collective) (op : RxOp) (pc : BitVec 11) : List Byte :=
  toBytes 16 (s.dtime.toNat + 2 ^ 64 * co.combines.toNat
    + 2 ^ 96 * (op.src.pkg.toNat + 2 ^ 12 * op.src.sq.toNat + 2 ^ 17 * op.src.ctx.toNat + 2 ^ 19 * pc.toNat))

/-- The forward of a receive cannot leave: its link is down or has no route, and nothing is waited for (R306). -/
def RxOp.cutOff (op : RxOp) (s : State) : Bool :=
  op.fwd.any fun r => !linkReaches s op.lnk r.pkg && !routeAwaited s [op.lnk] r.pkg

/-- A combine starts, and its bytes are written or forwarded (R307, R314). What an RXCF stores is written once the forward is
acknowledged, for until then a precise fault may stand, which writes no byte of the chunk (R331). A context counts as logging wherever its
log mode is not 0, be its record log full or its replay log used up. DESIGN CHOICE (log 68). -/
def startCombine (s : State) (n k : Nat) (op : RxOp) (cmb : BitVec 3) (data : List Byte) : State :=
  let c := ctxAt s n k
  match collOf s c with
  | none => s
  | some co =>
    let out := combineChunk cmb (readSeg s op.loc) data
    let s := drained s op.src data.length
    let quit (s : State) (cause : Nat) : State := seqFault (modCtx s n k fun c => { c with wait := .none }) n k cause 0
    if op.cutOff s then quit s 0x09
    else if segPoison s op.loc then quit (someBytes s op.dst out) 0x0A
    else
      let s := if op.log.isEmpty then s else writeSeg s op.log (logBytes s co op c.pc)
      let s := if op.log.isEmpty then s
        else modCtx s n k fun c =>
          { c with logpos := c.logpos + 16, logovf := c.logovf || decide (c.logsize ≤ c.logpos.toNat + 16) }
      let s := if c.logm = 0 then s
        else { s with colls := kset s.colls c.cid.toNat { co with combines := co.combines + 1 } }
      let me := selfRoute s n k
      match op.fwd with
      | none => modCtx (ackSender (writeSeg s op.dst out) op.src me op.tag) n k fun c => { c with wait := .done none }
      | some r =>
        if op.dst.isEmpty then sendChunk (ackSender s op.src me op.tag) n k r op.tag out (op.len / 256) op.lnk none
        else sendChunk s n k r op.tag out (op.len / 256) op.lnk (some { src := op.src, tag := op.tag, dst := op.dst, data := out })

/-- A chunk has arrived for a receive (R307): it is stored, or combined once the log's order allows it (R315). -/
def receiveChunk (s : State) (n k : Nat) (op : RxOp) (data : List Byte) : State :=
  match op.cmb with
  | none =>
    let s := ackSender (writeSeg (drained s op.src data.length) op.dst data) op.src (selfRoute s n k) op.tag
    modCtx s n k fun c => { c with wait := .done none }
  | some cmb =>
    let turn := match op.seq, collOf s (ctxAt s n k) with
      | some q, some co => decide (co.combines = q)
      | _, _ => true
    if turn then startCombine s n k op cmb data
    else modCtx s n k fun c => { c with wait := .replay op data, since := s.dtime }

/-! ### Issue -/

/-- The context that issues: its sequencer, number and contents, and its collective. -/
structure SCtx where
  sq : Nat
  cx : Nat
  c : SeqCtx
  coll : Collective
  deriving DecidableEq, Repr

/-- The context that the current sequencer runs; after 256 instructions it must switch first (R302). -/
def sctx? (s : State) : Option SCtx :=
  match s.curSeq with
  | none => none
  | some n =>
    match (seqAt s n).run with
    | none => none
    | some k =>
      let c := ctxAt s n k
      match collOf s c with
      | some co =>
        if c.state = .running ∧ (seqAt s n).streak < 256 then some { sq := n, cx := k, c := c, coll := co } else none
      | none => none

/-- K register i. -/
def SCtx.k (x : SCtx) (i : BitVec 4) : DWord := fget x.c.k i.toNat

/-- A context with K register i written. -/
def SeqCtx.setK (c : SeqCtx) (i : BitVec 4) (v : DWord) : SeqCtx := { c with k := fset c.k i.toNat v }

/-- What a sequencer instruction does. -/
inductive SeqRes where
  /-- It is done: the context goes on as c says. -/
  | go (c : SeqCtx) (s : State)
  /-- The context waits (a switch point). -/
  | wait (w : SeqWait) (s : State)
  /-- A page of its collective's space is not valid (R332). -/
  | page (va : Nat) (s : State)
  /-- A fault stands. -/
  | fault (cause addr : Nat) (s : State)
  /-- The context becomes idle. -/
  | stop (s : State)

/-- A context after an instruction that is no switch point: halted where HALT is set (R334). -/
def seqStepDone (s : State) (x : SCtx) (c : SeqCtx) : State :=
  if c.halt then leaveSeq s x.sq x.cx fun _ => atSwitch (fun c => { c with state := .halted, step := false }) c
  else modSeq s x.sq fun q => { q with streak := q.streak + 1, ctxs := lmod q.ctxs x.cx fun _ => c }

/-- The issue of an instruction by the running context of the current sequencer. -/
def issueSeq (body : SCtx → State → SeqRes) (s : State) : Host.Outcome State Fault Refusal :=
  match sctx? s with
  | none => .next s
  | some x =>
    let halt (s : State) (w : SeqWait) : State :=
      leaveSeq s x.sq x.cx (atSwitch fun c => { c with state := .waiting, wait := w, since := s.dtime })
    match body x s with
    | .go c s => .next (seqStepDone s x c)
    | .wait w s => .next (advanceCtx (halt s w) x.sq x.cx)
    | .page va s =>
      let s := halt s (.page va (hostMode s 0))
      .next (if hostMode s 0 then tellHost s "sequencer page" [x.sq, x.cx, va] else s)
    | .fault cause addr s => .next (seqFault s x.sq x.cx cause addr)
    | .stop s => .next (leaveSeq s x.sq x.cx (atSwitch SeqCtx.ended))

/-- The next instruction in sequence; after word 2,047 the 11-bit PC is 0. DESIGN CHOICE (log 40). -/
def SCtx.next (_ : SCtx) (c : SeqCtx) (s : State) : SeqRes := .go { c with pc := c.pc + 1 } s

/-- Go on with a translated range. -/
def SeqTrans.andThen (t : SeqTrans) (f : Seg → State → SeqRes) : SeqRes :=
  match t with
  | .ok g s => f g s
  | .page va s => .page va s
  | .await s => .wait .credit s
  | .fault a s => .fault 0x04 a s

/-- Translate a chunk in the collective's space. -/
def SCtx.chunk (x : SCtx) (need : Need) (va : DWord) (len : Nat) (s : State) (f : Seg → State → SeqRes) : SeqRes :=
  (transChunk x.sq x.coll.space need va.toNat len s).andThen f

/-- Translate n bytes that lie in one page. -/
def SCtx.word (x : SCtx) (need : Need) (va : DWord) (n : Nat) (s : State) (f : Nat → State → SeqRes) : SeqRes :=
  if va.toNat % n ≠ 0 then .fault 0x04 va.toNat s
  else (transParts x.sq x.coll.space need [(va.toNat, n)] [] s).andThen fun g s => f ((g.map (·.1)).headD 0) s

/-! ### The instructions (R307 to R315, R325) -/

/-- TXC. -/
def semTxc (a b : BitVec 4) (len : BitVec 12) (lnk : BitVec 5) (tag : BitVec 16) (x : SCtx) (s : State) : SeqRes :=
  match routeOf (x.k b) with
  | none => .fault 0x01 0 s
  | some r =>
    if 23 < lnk.toNat then .fault 0x01 0 s
    else if !linkReaches s lnk.toNat r.pkg && !routeAwaited s [lnk.toNat] r.pkg then .fault 0x09 0 s
    else x.chunk needR (x.k a) (chunkLen len) s fun g s => .wait (.tx g (chunkLen len) r tag lnk.toNat) s

/-- Where the next entry of a record log goes: nowhere outside record mode or when the log is full (R314). -/
def SCtx.recordAt (x : SCtx) (s : State) (f : Seg → State → SeqRes) : SeqRes :=
  if x.c.logm ≠ 1 ∨ x.c.logovf then f [] s
  else
    (transParts x.sq x.coll.space needW (rangeParts 3 (x.c.logbuf + x.c.logpos.toNat) 16) [] s).andThen f

/-- What the next entry of a replay log gives: its sequence, or a divergence (R315). LOGPOS has advanced. -/
def SCtx.replayEntry (x : SCtx) (src : Route) (s : State) (f : Option Word → State → SeqRes) : SeqRes :=
  if x.c.logm ≠ 2 ∨ x.c.logsize ≤ x.c.logpos.toNat then f none s
  else
    (transParts x.sq x.coll.space needR (rangeParts 3 (x.c.logbuf + x.c.logpos.toNat) 16) [] s).andThen fun g s =>
      if segPoison s g then .fault 0x0A 0 s
      else
        let v := ofBytes (readSeg s g)
        let me := src.pkg.toNat + 2 ^ 12 * src.sq.toNat + 2 ^ 17 * src.ctx.toNat + 2 ^ 19 * x.c.pc.toNat
        if v / 2 ^ 96 ≠ me then .fault 0x08 0 s
        else
          f (some (BitVec.ofNat 32 (v / 2 ^ 64)))
            (modCtx s x.sq x.cx fun c => { c with logpos := c.logpos + 16 })

/-- A receive waits for its chunk. -/
def rxWait (op : RxOp) (s : State) : SeqRes := .wait (.rx op none false false) s

/-- RXS. -/
def semRxs (d b : BitVec 4) (len : BitVec 12) (tag : BitVec 16) (x : SCtx) (s : State) : SeqRes :=
  match routeOf (x.k b) with
  | none => .fault 0x01 0 s
  | some r =>
    x.chunk needW (x.k d) (chunkLen len) s fun g s =>
      rxWait { dst := g, loc := [], len := chunkLen len, tag := tag, src := r, cmb := none, fwd := none, log := [],
               seq := none } s

/-- RXC. -/
def semRxc (d a b : BitVec 4) (len : BitVec 12) (cmb : BitVec 3) (tag : BitVec 16) (x : SCtx) (s : State) : SeqRes :=
  let n := chunkLen len
  match routeOf (x.k b) with
  | none => .fault 0x01 0 s
  | some r =>
    if 6 ≤ cmb.toNat then .fault 0x01 0 s
    else if crosses (x.k d).toNat (x.k a).toNat n then .fault 0x04 (x.k d).toNat s
    else
      x.chunk needR (x.k a) n s fun loc s => x.chunk needW (x.k d) n s fun dst s => x.recordAt s fun log s =>
        x.replayEntry r s fun q s =>
          rxWait { dst := dst, loc := loc, len := n, tag := tag, src := r, cmb := some cmb, fwd := none, log := log,
                   seq := q } s

/-- RXCF. -/
def semRxcf (d a b : BitVec 4) (len : BitVec 12) (lnk : BitVec 5) (cmb : BitVec 3) (sto : Bool) (tag : BitVec 16)
    (x : SCtx) (s : State) : SeqRes :=
  let n := chunkLen len
  match routeOf (x.k b), routeOf (x.k d) with
  | some r, some fwd =>
    if 6 ≤ cmb.toNat ∨ 23 < lnk.toNat then .fault 0x01 0 s
    else if !linkReaches s lnk.toNat fwd.pkg && !routeAwaited s [lnk.toNat] fwd.pkg then .fault 0x09 0 s
    else
      x.chunk { needR with w := sto } (x.k a) n s fun loc s => x.recordAt s fun log s => x.replayEntry r s fun q s =>
        rxWait { dst := if sto then loc else [], loc := loc, len := n, tag := tag, src := r, cmb := some cmb,
                 fwd := some fwd, log := log, seq := q, lnk := lnk.toNat } s
  | _, _ => .fault 0x01 0 s

/-- WFLG (R313). -/
def semWflg (a b : BitVec 4) (timeout : Word) (x : SCtx) (s : State) : SeqRes :=
  x.word needR (x.k a) 8 s fun pa s =>
    if (poisonAt s pa 8).isSome then .fault 0x0A (x.k a).toNat s
    else if (x.k b).toNat ≤ readN s.mem pa 8 then x.next x.c s
    else .wait (.flag pa (x.k b) (1024 * timeout.toNat)) s

/-- SFLG (R313): an add to a word that is poisoned meets an uncorrectable error (R331). -/
def semSflg (a b : BitVec 4) (mode : BitVec 2) (imm : Word) (x : SCtx) (s : State) : SeqRes :=
  let v := if mode = 0 then imm.zeroExtend 64 else x.k b
  if mode = 3 ∨ (mode = 0 ∧ b ≠ 0) ∨ (mode ≠ 0 ∧ imm ≠ 0) then .fault 0x01 0 s
  else
    let need : Need := if mode = 2 then needW else { needW with r := true, atom := some 0 }
    x.word need (x.k a) 8 s fun pa s =>
      if mode = 2 then x.next x.c (lockWrite s pa (toBytes 8 v.toNat))
      else if (poisonAt s pa 8).isSome then .fault 0x0A (x.k a).toNat s
      else
        match lockAtomic s pa 8 ((readN s.mem pa 8 + v.toNat) % 2 ^ 64) (.atomic (BitVec.ofNat 7 pa) true 0 false v 0 none) with
        | some s => x.next x.c s
        | none => .wait .credit s

/-- LOOPK (R312). -/
def semLoopk (d : BitVec 4) (target : BitVec 11) (x : SCtx) (s : State) : SeqRes :=
  let v := x.k d - 1
  .go { x.c.setK d v with pc := if v ≠ 0 then target else x.c.pc + 1 } s

/-- JMPK (R312). -/
def semJmpk (a : BitVec 4) (target : BitVec 11) (cond : BitVec 2) (x : SCtx) (s : State) : SeqRes :=
  if cond = 3 ∨ (cond = 0 ∧ a ≠ 0) then .fault 0x01 0 s
  else
    let taken := decide (cond = 0) || (decide (cond = 1) && decide (x.k a = 0)) || (decide (cond = 2) && decide (x.k a ≠ 0))
    .go { x.c with pc := if taken then target else x.c.pc + 1 } s

/-- SETK (R311). -/
def semSetk (d a : BitVec 4) (mode : BitVec 2) (imm : Word) (x : SCtx) (s : State) : SeqRes :=
  if (mode = 3 ∧ imm ≠ 0) ∨ (mode ≠ 3 ∧ a ≠ 0) then .fault 0x01 0 s
  else
    let v : DWord := match mode.toNat with
      | 0 => imm.signExtend 64
      | 1 => imm.zeroExtend 64
      | 2 => imm ++ loWord' (x.k d)
      | _ => x.k a
    x.next (x.c.setK d v) s
where
  /-- The low half of a register. -/
  loWord' (v : DWord) : Word := v.extractLsb' 0 32

/-- ADDK (R311). -/
def semAddk (d a b : BitVec 4) (mode : BitVec 2) (imm : Word) (x : SCtx) (s : State) : SeqRes :=
  let p := x.k a
  let q := x.k b
  if (mode = 0 ∧ b ≠ 0) ∨ ((mode = 1 ∨ mode = 3) ∧ imm ≠ 0) ∨ (mode = 2 ∧ imm = 0) then .fault 0x01 0 s
  else
    let v : DWord := match mode.toNat with
      | 0 => p + imm.signExtend 64
      | 1 => p + q
      | 2 => BitVec.ofNat 64 ((p.toNat + q.toNat) % imm.toNat)
      | _ => p - q
    x.next (x.c.setK d v) s

/-- An FP32 value as a block-fixed integer under exponent e, and whether it was clamped (R309). -/
def toBlockFixed (v : Word) (e : Int) : Nat × Bool :=
  let hi : Int := (2 ^ 51 - 1 : Nat)
  match fp32 v with
  | .nan _ => (0, false)
  | .inf neg => ((BitVec.ofInt 64 (if neg then -hi else hi)).toNat, true)
  | .fin neg num den k =>
    let i := (roundInt .rne neg num den (k - e)).1
    let c := max (-hi) (min hi i)
    ((BitVec.ofInt 64 c).toNat, decide (c ≠ i))

/-- A block-fixed integer as FP32 under exponent e (R309). -/
def ofBlockFixed (n : Nat) (e : Int) : Nat :=
  let v := (BitVec.ofNat 64 n).toInt
  (narrowFloat fmt32 .rne false (.fin (decide (v < 0)) v.natAbs 1 e)).1

/-- CVTB (R309). -/
def semCvtb (d a b : BitVec 4) (len : BitVec 12) (dir : Bool) (x : SCtx) (s : State) : SeqRes :=
  let n := chunkLen len
  let e := max (-1100) (min 1100 (x.k b).toInt)
  let (ns, nd) := if dir then (2 * n, n) else (n, 2 * n)
  let (src, dst) := ((x.k a).toNat, (x.k d).toNat)
  if 2047 < len.toNat then .fault 0x01 0 s
  else if src < dst + nd ∧ dst < src + ns then .fault 0x04 dst s
  else
    x.chunk needR (x.k a) ns s fun gs s => x.chunk needW (x.k d) nd s fun gd s =>
      let l := readSeg s gs
      let r := (elemsOf 4 l.length l).map fun v => toBlockFixed (BitVec.ofNat 32 v) e
      let out := if dir then (elemsOf 8 l.length l).flatMap fun v => toBytes 4 (ofBlockFixed v e)
        else r.flatMap fun p => toBytes 8 p.1
      if segPoison s gs then .fault 0x0A src (someBytes s gd out)
      else
        .wait (.cvt gd out (!dir && r.any (·.2))) s

/-- SRED (R310). A range K[d] that overlaps K[a] without being equal is as legal as an equal one. DESIGN CHOICE (log 41). -/
def semSred (d a b : BitVec 4) (len : BitVec 12) (lnk : BitVec 5) (x : SCtx) (s : State) : SeqRes :=
  let desc := x.k b
  let n := desc.toNat / 2 ^ 16 % 2 ^ 12
  if 23 < lnk.toNat ∨ 2 ^ 28 ≤ desc.toNat ∨ n < 1 ∨ 2304 < n then .fault 0x01 0 s
  else if !leadsToSwitch s lnk.toNat && !switchAwaited s lnk.toNat then .fault 0x09 0 s
  else
    x.chunk needR (x.k a) (chunkLen len) s fun gs s => x.chunk needW (x.k d) (chunkLen len) s fun gd s =>
      let own := readSeg s gs
      if segPoison s gs then
        let (l, s) := if n = 1 then (own, s) else freeBytes own.length s
        .fault 0x0A (x.k a).toNat (someBytes s gd l)
      else
        .wait (.offer gd own n (own.length / 256) lnk.toNat desc) s

/-- PUTK (R325). -/
def semPutk (d a b : BitVec 4) (x : SCtx) (s : State) : SeqRes :=
  let r := x.k d
  let p := r.toNat % 2 ^ 12
  if 2303 < p ∨ r.extractLsb' 12 20 ≠ 0 then .fault 0x01 0 s
  else
    match takeBulk s (BitVec.ofNat 12 p) with
    | none => .wait .credit s
    | some s =>
      x.next x.c (emit s (.put
        { pid := x.coll.pid, src := s.pkg, dst := BitVec.ofNat 12 p, key := (x.k a).extractLsb' 32 32
          offset := (x.k a).extractLsb' 0 32, value := x.k b, word := r.extractLsb' 32 32, putk := true
          issuer := .ctx (BitVec.ofNat 5 x.sq) (BitVec.ofNat 2 x.cx) x.c.cid x.c.pc }))

/-- LOGA (R314). -/
def semLoga (a b : BitVec 4) (mode : BitVec 2) (x : SCtx) (s : State) : SeqRes :=
  let buf := (x.k a).toNat
  let size := (x.k b).toNat
  if mode = 3 ∨ (mode = 0 ∧ (a ≠ 0 ∨ b ≠ 0)) ∨ (mode ≠ 0 ∧ (buf % 16 ≠ 0 ∨ size % 16 ≠ 0 ∨ size < 16)) then .fault 0x01 0 s
  else
    x.next { x.c with logm := mode, logpos := 0, logovf := false, logbuf := if mode = 0 then 0 else buf,
                      logsize := if mode = 0 then 0 else size } s

/-- SNOP (R312). -/
def execSnop (s : State) : Host.Outcome State Fault Refusal := issueSeq (fun x s => x.next x.c s) s
/-- TXC (R307). -/
def execTxc (a b : BitVec 4) (len : BitVec 12) (lnk : BitVec 5) (tag : BitVec 16) (s : State) :
    Host.Outcome State Fault Refusal := issueSeq (semTxc a b len lnk tag) s
/-- RXS (R307). -/
def execRxs (d b : BitVec 4) (len : BitVec 12) (tag : BitVec 16) (s : State) : Host.Outcome State Fault Refusal :=
  issueSeq (semRxs d b len tag) s
/-- RXC (R307). -/
def execRxc (d a b : BitVec 4) (len : BitVec 12) (cmb : BitVec 3) (tag : BitVec 16) (s : State) :
    Host.Outcome State Fault Refusal := issueSeq (semRxc d a b len cmb tag) s
/-- RXCF (R307). -/
def execRxcf (d a b : BitVec 4) (len : BitVec 12) (lnk : BitVec 5) (cmb : BitVec 3) (sto : Bool) (tag : BitVec 16)
    (s : State) : Host.Outcome State Fault Refusal := issueSeq (semRxcf d a b len lnk cmb sto tag) s
/-- WFLG (R313). -/
def execWflg (a b : BitVec 4) (timeout : Word) (s : State) : Host.Outcome State Fault Refusal :=
  issueSeq (semWflg a b timeout) s
/-- SFLG (R313). -/
def execSflg (a b : BitVec 4) (mode : BitVec 2) (imm : Word) (s : State) : Host.Outcome State Fault Refusal :=
  issueSeq (semSflg a b mode imm) s
/-- LOOPK (R312). -/
def execLoopk (d : BitVec 4) (target : BitVec 11) (s : State) : Host.Outcome State Fault Refusal :=
  issueSeq (semLoopk d target) s
/-- JMPK (R312). -/
def execJmpk (a : BitVec 4) (target : BitVec 11) (cond : BitVec 2) (s : State) : Host.Outcome State Fault Refusal :=
  issueSeq (semJmpk a target cond) s
/-- SETK (R311). -/
def execSetk (d a : BitVec 4) (mode : BitVec 2) (imm : Word) (s : State) : Host.Outcome State Fault Refusal :=
  issueSeq (semSetk d a mode imm) s
/-- ADDK (R311). -/
def execAddk (d a b : BitVec 4) (mode : BitVec 2) (imm : Word) (s : State) : Host.Outcome State Fault Refusal :=
  issueSeq (semAddk d a b mode imm) s
/-- CVTB (R309). DEDUCED (log 40). -/
def execCvtb (d a b : BitVec 4) (len : BitVec 12) (dir : Bool) (s : State) : Host.Outcome State Fault Refusal :=
  issueSeq (semCvtb d a b len dir) s
/-- SRED (R310). -/
def execSred (d a b : BitVec 4) (len : BitVec 12) (lnk : BitVec 5) (s : State) : Host.Outcome State Fault Refusal :=
  issueSeq (semSred d a b len lnk) s
/-- PUTK (R325). -/
def execPutk (d a b : BitVec 4) (s : State) : Host.Outcome State Fault Refusal := issueSeq (semPutk d a b) s
/-- LOGA (R314). DEDUCED (log 40). -/
def execLoga (a b : BitVec 4) (mode : BitVec 2) (s : State) : Host.Outcome State Fault Refusal :=
  issueSeq (semLoga a b mode) s
/-- SEQEND (R312). -/
def execSeqend (s : State) : Host.Outcome State Fault Refusal := issueSeq (fun _ s => .stop s) s

end Sys2Proof.Machine
end

