-- ==== Sys2Proof/Machine/Control.lean ====
section
/-! DEFINITION. Class 000: control instructions (R54, R61, R84, R85, R126 to R130, R341 to R351, R365 to R367, R386 to R390). -/

namespace Sys2Proof.Machine

/-- How a class 000 instruction issues. -/
def howCtl (i : Instr) (wait : Bool) : IssueHow :=
  { len := i.len, cls := 0, wait := wait, isYield := false, compare := fun _ => false, chk := fun c => rawCheck (some c) i }

/-! ### Branches -/

/-- R84: a legal target: canonical, bits [1:0] zero. -/
def targetOk (t : DWord) : Bool := canonical t.toNat && decide (t.toNat % 4 = 0)

/-- pc + 4 × sext(offset) (R84). -/
def offsetTarget {n : Nat} (pc : DWord) (off : BitVec n) : DWord := pc + off.signExtend 64 * 4

/-- R389: a taken branch to t pops loops until t lies in the top range. -/
def popLoops (t : DWord) : List LoopEntry → List LoopEntry
  | [] => []
  | l :: ls => if l.start.toNat ≤ t.toNat ∧ t.toNat ≤ l.stop.toNat then l :: ls else popLoops t ls

/-- The slices of l branch to t; in a handler the handler's pc does, and pops nothing (R389). -/
def branchTo (g : Group) (x : Ctx) (l : List Nat) (t : DWord) : Group :=
  if x.inH then { g with handler := g.handler.map fun h => { h with pc := t } }
  else g.modSlices l fun _ sl => { sl with pc := t, loops := popLoops t sl.loops }

/-- A uniform taken branch: the target is checked, then the stream goes there (R346). -/
def takeBranch (x : Ctx) (s : State) (t : DWord) : Res :=
  if targetOk t then .flow (x.put s (branchTo x.g x x.sl t)) else .fault s 0x12 0 0

/-- BRA (R346). -/
def semBra (t : Ctx → DWord) (x : Ctx) (s : State) : Res := takeBranch x s (t x)

/-- BCU (R346). -/
def semBcu (i : BitVec 3) (inv : Bool) (t : Ctx → DWord) (x : Ctx) (s : State) : Res :=
  let b (k : Nat) : Bool := x.c k i.toNat != inv
  if x.sl.all b then takeBranch x s (t x)
  else if x.sl.any b then .fault s 0x14 0 0
  else .done s

/-- JMPI (R346). -/
def semJmpi (a : BitVec 7) (x : Ctx) (s : State) : Res :=
  let t (k : Nat) : DWord := x.ss k a.toNat
  if !(x.sl.all fun k => targetOk (t k)) then .fault s 0x12 0 0
  else if !(x.sl.all fun k => decide (t k = t x.low)) then .fault s 0x13 0 0
  else takeBranch x s (t x.low)

/-- The instruction-buffer slots in use on a partition (R338). -/
def ibUsed (s : State) (core part : Nat) : Nat :=
  (s.groups.map fun e =>
    if e.2.part = part ∧ (kget s.teams e.2.team).any (fun t => decide (t.core = some core))
    then (e.2.splits.filter (·.valid)).length else 0).sum

/-- The rejoin address of a forward BC from the word before its target (R342). -/
def rejoinOf (t : DWord) (w : Word) : DWord :=
  if w.extractLsb' 0 2 = 0 ∧ w.extractLsb' 3 8 = 1 then offsetTarget (t - 4) (w.extractLsb' 11 21) else t

/-- The divergence of a BC (R343): on T the branch is taken, on F it falls through, r is the rejoin address. -/
def diverge (x : Ctx) (s : State) (j : Nat) (len : Nat) (tgt r : DWord) (tt ff : List Nat) : Res :=
  let g := x.g
  let m := sliceMask x.sl
  let jr := g.j.getD j ⟨false, 0, 0⟩
  let pcF := x.pc + BitVec.ofNat 64 len
  let move (g : Group) (l : List Nat) (t : DWord) : Group :=
    g.modSlices l fun _ sl => { sl with pc := t, loops := popLoops t sl.loops }
  let fall (g : Group) : Group :=
    g.modSlices ff fun _ sl => let r := loopBack x.pc pcF sl.loops; { sl with pc := r.1, loops := popLoops r.1 r.2 }
  let free := (List.range 4).find? fun k => !(g.split k).valid
  let ibFree := decide (ibUsed s x.core g.part < 24)
  let jOk := !jr.valid || (decide (m &&& jr.mask = m) && decide (jr.pc = r.extractLsb' 2 55))
  match free, ibFree && jOk with
  | some k, true =>
    let g := if jr.valid then g else { g with j := g.j.set j ⟨true, m, r.extractLsb' 2 55⟩ }
    let g := g.modSplit x.e fun sp => { sp with mask := sliceMask ff }
    let g := g.modSplit k fun _ => { Split.none with valid := true, mask := sliceMask tt, live := g.nregs }
    let part (onT : Bool) (ps : List Pending) : List Pending :=
      ps.map fun p => { p with writes := p.writes.filter fun w => tt.contains (sliceOfWrite w) == onT }
    let pend := (g.split x.e).pend
    let g := g.modSplit x.e fun sp => { sp with pend := part false pend }
    let g := g.modSplit k fun sp => { sp with pend := part true pend }
    .flow (x.count (x.put s (move (fall g) tt tgt)) 5 1)
  | _, _ =>
    if 16 ≤ g.dstack.length then .trap s ⟨4, 0, 0, laneMask x.lanes, []⟩
    else
      let d : DivEntry := { mask := sliceMask ff, arrived := 0, j := BitVec.ofNat 3 j, join := false,
                            owner := BitVec.ofNat 2 x.e, pc := pcF, rejoin := r }
      let g := { g with dstack := d :: g.dstack }
      let g := g.modSplit x.e fun sp => { sp with mask := sliceMask tt }
      let g := g.modSlices ff fun _ sl => { sl with loops := popLoops pcF sl.loops }
      .flow (x.count (x.put s (move g tt tgt)) 6 1)

/-- BC (R343). -/
def semBc (i : BitVec 3) (inv : Bool) (j : BitVec 3) (len : Nat) (tg : Ctx → DWord) (x : Ctx) (s : State) : Res :=
  let b (k : Nat) : Bool := x.c k i.toNat != inv
  let tt := x.sl.filter b
  let ff := x.sl.filter fun k => !b k
  let t := tg x
  if !tt.isEmpty && !targetOk t then .fault s 0x12 0 0
  else if tt.isEmpty then .done s
  else if ff.isEmpty then .flow (x.put s (branchTo x.g x x.sl t))
  else if x.inH then .fault s 0x30 0 0
  else if x.pc.toNat < t.toNat then
    match x.fetch s (t.toNat - 4) with
    | (.ok w, s) => diverge x s j.toNat len t (rejoinOf t w) tt ff
    | (r, s) => x.fetchFail s r
  else diverge x s j.toNat len t (x.pc + BitVec.ofNat 64 len) tt ff

/-! ### Calls (R126 to R130) -/

/-- The 32 words of a link record (R127). -/
def linkWords (ret : DWord) (n : Nat) (loops : List LoopEntry) : List Word :=
  let lo (d : DWord) : Word := d.extractLsb' 0 32
  let hi (d : DWord) : Word := d.extractLsb' 32 32
  let e := loops.reverse.flatMap fun l => [lo l.start, hi l.start, lo l.stop, hi l.stop, l.count, 0, 0]
  let all := [lo ret, hi ret, BitVec.ofNat 32 (n + 256 * loops.length), 0] ++ e
  (List.range 32).map fun k => all.getD k 0

/-- The stack register that word k of the link at logical index base of slice sl lies in (R127). -/
def linkRef (g : Group) (sl base k : Nat) : RegRef := .v (4 * sl + k % 4) ((base + k / 4) % g.alloc)

/-- How a call issues: a slide above N is illegal (R126); rawCheck checks it. -/
def howCall (i : Instr) (y : Bool) (_ : Nat) : IssueHow := howCtl i y

/-- CALL and CALLI (R128). In a handler the loop stacks are frozen: the link holds them and they stay (R389). DEDUCED (log 51). -/
def semCall (n : Nat) (len : Nat) (indirect : Bool) (tg : Ctx → Nat → DWord) (x : Ctx) (s : State) : Res :=
  let g := x.g
  let d := slideOf n
  let sl (k : Nat) : Slice := g.slice k
  let past (k : Nat) : Bool := decide ((sl k).rb + g.alloc < (sl k).wb + d + g.nregs)
  if !(x.sl.all fun k => targetOk (tg x k)) then .fault s 0x12 0 0
  else if indirect && !(x.sl.all fun k => decide (tg x k = tg x x.low)) then .fault s 0x13 0 0
  else if x.sl.any fun k => decide (2 ^ 20 < (sl k).wb + d + g.nregs) then .fault s 0x15 0 0
  else if x.sl.any past then
    let need := x.sl.filter past
    .trap s ⟨2, 0, 0, laneMask (need.flatMap sliceLanes),
      need.map fun k => (k, ((sl k).wb + d + g.nregs - (sl k).rb - g.alloc) / 8)⟩
  else
    let ret := x.pc + BitVec.ofNat 64 len
    let ws := x.sl.flatMap fun k =>
      ((linkWords ret (n % 256) (sl k).loops).zipIdx).map fun p =>
        (linkRef g k ((sl k).wb + d - 8) p.2, p.1)
    let g := (g.writes ws).modSlices x.sl fun _ q => { q with wb := q.wb + d, loops := if x.inH then q.loops else [] }
    let t := tg x x.low
    let g := if x.inH then { g with handler := g.handler.map fun h => { h with pc := t } } else g.setPc x.sl t
    .flow (x.put s g)

/-- A link record as read back (R129): n, the return address and the loops, or none when it is bad. -/
def readLink (g : Group) (k base wb : Nat) : Option (Nat × DWord × List LoopEntry) :=
  let w (i : Nat) : Word := g.reg (linkRef g k base i)
  let ret : DWord := w 1 ++ w 0
  let n := (w 2).toNat % 256
  let depth := (w 2).toNat / 256 % 8
  let entry (e : Nat) : LoopEntry :=
    { start := w (4 + 7 * e + 1) ++ w (4 + 7 * e), stop := w (4 + 7 * e + 3) ++ w (4 + 7 * e + 2),
      count := w (4 + 7 * e + 4) }
  let zeros := (List.range 28).all fun i =>
    decide (i / 7 < depth ∧ i % 7 < 5) || decide (w (4 + i) = 0)
  if (w 2).toNat / 2048 ≠ 0 ∨ w 3 ≠ 0 ∨ ¬ zeros ∨ wb < slideOf n ∨ 4 < depth ∨ ¬ targetOk ret then none
  else some (n, ret, ((List.range depth).map entry).reverse)

/-- RET (R129). In a handler the loop stacks stay as they are (R389). DEDUCED (log 51). -/
def semRet (x : Ctx) (s : State) : Res :=
  let g := x.g
  let fill (p : Nat → Nat) : Res :=         -- p: how far below rb the slice must read
    let need := x.sl.filter fun k => decide (0 < p k)
    .trap s ⟨3, 0, 0, laneMask (need.flatMap sliceLanes), need.map fun k => (k, p k / 8)⟩
  let wb (k : Nat) : Nat := (g.slice k).wb
  let rb (k : Nat) : Nat := (g.slice k).rb
  if x.sl.any fun k => decide (wb k = 0) then .fault s 0x16 0 0
  else if x.sl.any fun k => decide (wb k < rb k + 8) then fill fun k => rb k + 8 - wb k
  else
    let link (k : Nat) : Option (Nat × DWord × List LoopEntry) := readLink g k (wb k - 8) (wb k)
    let slide (k : Nat) : Nat := slideOf (((link k).map (·.1)).getD 0)
    let ret (k : Nat) : DWord := ((link k).map (·.2.1)).getD 0
    if x.sl.any fun k => (link k).isNone then .fault s 0x17 0 0
    else if !(x.sl.all fun k => decide (ret k = ret x.low)) then .fault s 0x17 0 0
    else if x.sl.any fun k => decide (wb k < rb k + slide k) then fill fun k => rb k + slide k - wb k
    else
      let g := g.modSlices x.sl fun k q =>
        { q with wb := q.wb - slide k, loops := if x.inH then q.loops else ((link k).map (·.2.2)).getD [] }
      let t := ret x.low
      let g := if x.inH then { g with handler := g.handler.map fun h => { h with pc := t } } else g.setPc x.sl t
      .flow (x.put s g)

/-! ### Rejoining (R347 to R350, R354) -/

/-- The stream's top resident stack entry (R339): its index and the entry. -/
def topEntry (g : Group) (e : Nat) : Option (Nat × DivEntry) :=
  (g.dstack.zipIdx.find? fun p => decide (p.1.owner.toNat = e)).map fun p => (p.2, p.1)

/-- A stack entry as 32 bytes (R339). -/
def divToNat (d : DivEntry) : Nat :=
  d.mask.toNat + 2 ^ 16 * d.arrived.toNat + 2 ^ 32 * d.j.toNat + 2 ^ 35 * (if d.join then 1 else 0)
    + 2 ^ 36 * d.owner.toNat + 2 ^ 64 * d.pc.toNat + 2 ^ 128 * d.rejoin.toNat

/-- A stack entry from its 32 bytes. -/
def divOfNat (n : Nat) : DivEntry :=
  { mask := BitVec.ofNat 16 n, arrived := BitVec.ofNat 16 (n / 2 ^ 16), j := BitVec.ofNat 3 (n / 2 ^ 32),
    join := decide (n / 2 ^ 35 % 2 = 1), owner := BitVec.ofNat 2 (n / 2 ^ 36), pc := BitVec.ofNat 64 (n / 2 ^ 64),
    rejoin := BitVec.ofNat 64 (n / 2 ^ 128) }

/-- What a refill ends in; wait: its read waits for a route (R409). -/
inductive Refill where
  | ok (s : State) (g : Group)
  | trap (s : State)
  | fault (s : State)
  | wait

/-- A spilled entry as it comes back: with the owner that merges have given it, and without the slices that have exited (R349,
R350). DEDUCED (log 51). -/
def unspilled (f : Option (BitVec 2 × BitVec 16)) (d : DivEntry) : DivEntry :=
  match f with
  | some (o, m) => { d with owner := o, mask := d.mask &&& m, arrived := d.arrived &&& m }
  | none => d

/-- The group after the newest spilled entry has been read back as d: an entry without slices is removed (R350). -/
def refilled (g : Group) (d : DivEntry) : Group :=
  let d := unspilled (g.spill[g.spcnt - 1]?) d
  { g with dstack := if d.mask = 0 ∧ d.arrived = 0 then g.dstack else g.dstack ++ [d]
           spcnt := g.spcnt - 1
           spill := g.spill.take (g.spcnt - 1) }

/-- R354: spilled entries come back to the bottom of the resident stack, newest spilled first, until the stream owns a
resident entry or none is left. -/
def refill (x : Ctx) : Nat → State → Group → Refill
  | 0, s, g => .ok s g
  | fuel + 1, s, g =>
    if (topEntry g x.e).isSome ∨ g.spcnt = 0 then .ok s g
    else if 16 ≤ g.dstack.length then .trap s
    else
      let a := g.spbase.toNat + 32 * (g.spcnt - 1)
      match checkAccesses s x.core x.gr.space false needR 32 [(0, a)] with
      | (.ok [(pa, _)], miss, s) =>
        let s := x.count s 11 miss
        if accessAwaited s pa then .wait
        else if targetRefuses s pa ∨ (poisonAt s pa 32).isSome then .fault s
        else
          let (l, hit, s) := loadBytes s x.core x.keys x.t.held false pa 32
          refill x fuel (x.count s (if hit then 9 else 10) 1) (refilled g (divOfNat (ofBytes l)))
      | (_, miss, s) => .fault (x.count s 11 miss)

/-- What REGANG (detail 1) or EXIT (detail 2) does with the refilled group; before is the state in which it issues. -/
def Refill.andThen (r : Refill) (before : State) (x : Ctx) (detail : Nat) (f : State → Group → Res) : Res :=
  match r with
  | .ok s g => f s g
  | .trap s => .trap s ⟨4, detail, 0, laneMask x.lanes, []⟩
  | .fault s => .fault s 0x32 1 0
  | .wait => .stall before

/-- The union of the masks of the entries that wait on J n. -/
def waitUnion (g : Group) (n : Nat) : BitVec 16 :=
  (g.splits.filter fun sp => sp.valid && sp.wait && decide (sp.wj.toNat = n)).foldl (fun m sp => m ||| sp.mask) 0

/-- The slices of a mask have equal loop stacks. -/
def loopsEqual (g : Group) (m : BitVec 16) : Bool :=
  let l := maskSlices m
  l.all fun k => decide ((g.slice k).loops = (g.slice (l.headD 0)).loops)

/-- A stream waits for the host's answer to a page fault (R216, R223). -/
def Split.asked (sp : Split) : Bool :=
  match sp.run with
  | .host _ _ => true
  | _ => false

/-- Whether the waiting entries cover J n's mask, and none of them runs a handler or waits for the host's answer (R223, R348). -/
def mergeDue (g : Group) (n : Nat) : Bool :=
  match g.j[n]? with
  | some jr =>
    jr.valid && decide (jr.mask ≠ 0) && decide (waitUnion g n = jr.mask) &&
      !(g.splits.zipIdx.any fun p => p.1.valid && p.1.wait && decide (p.1.wj.toNat = n) && (handlerOn g p.2 || p.1.asked))
  | none => false

/-- merge(N) of R349. -/
def merge (g : Group) (n : Nat) : Group :=
  let jr := g.j.getD n ⟨false, 0, 0⟩
  let low := (maskSlices jr.mask).headD 0
  let keep := ((g.splits.zipIdx.find? fun p => p.1.valid && p.1.mask.getLsbD low).map (·.2)).getD 0
  let onN (sp : Split) : Bool := sp.valid && sp.wait && decide (sp.wj.toNat = n)
  let gone := (g.splits.zipIdx.filter fun p => onN p.1 && decide (p.2 ≠ keep)).map (·.2)
  let pc : DWord := (jr.pc.zeroExtend 64) * 4 + 4
  let splits := g.splits.zipIdx.map fun p =>
    if p.2 = keep then { p.1 with mask := jr.mask, wait := false }
    else if gone.contains p.2 then Split.none else p.1
  let dstack := g.dstack.map fun d => if gone.contains d.owner.toNat then { d with owner := BitVec.ofNat 2 keep } else d
  let spill := g.spill.map fun f => if gone.contains f.1.toNat then (BitVec.ofNat 2 keep, f.2) else f
  ({ g with splits := splits, dstack := dstack, spill := spill, j := g.j.set n ⟨false, 0, 0⟩ }).setPc (maskSlices jr.mask) pc

/-- REGANG's effect after a refill (R348). -/
def regangOn (j : Nat) (x : Ctx) (s : State) (g : Group) : Res :=
  let m := sliceMask x.sl
  let second (g : Group) (m : BitVec 16) : Res :=
    let jr := g.j.getD j ⟨false, 0, 0⟩
    if jr.valid ∧ m &&& jr.mask ≠ 0 then
      if m &&& jr.mask ≠ m ∨ x.pc.extractLsb' 2 55 ≠ jr.pc then .fault s 0x18 0 0
      else
        let g := g.modSplit x.e fun sp => { sp with wait := true, wj := BitVec.ofNat 3 j, mask := m }
        if waitUnion g j = jr.mask ∧ ¬ loopsEqual g jr.mask then .fault s 0x19 0 0
        else .flow (x.put s (if mergeDue g j then merge g j else g))
    else
      let l := maskSlices m
      .flow (x.put s (if x.inH then advance g x 4 else g.setPc l (x.pc + 4)))
  match topEntry g x.e with
  | some (i, d) =>
    if d.j.toNat = j then
      if x.pc ≠ d.rejoin then .fault s 0x18 0 0
      else if !d.join then
        let g := { g with dstack := g.dstack.set i { d with arrived := m, join := true } }
        let g := g.modSplit x.e fun sp => { sp with mask := d.mask }
        .flow (x.put s (g.setPc (maskSlices d.mask) d.pc))
      else
        let m := m ||| d.arrived
        let g := { g with dstack := g.dstack.eraseIdx i }
        second (g.modSplit x.e fun sp => { sp with mask := m }) m
    else second g m
  | none => second g m

/-- REGANG (R348, R354). -/
def semRegang (j : BitVec 3) (x : Ctx) (s : State) : Res :=
  (refill x 4096 s x.g).andThen s x 1 (regangOn j.toNat x)

/-- The slices of m leave every J register and every stack entry, spilled ones too (R350). -/
def removeSlices (g : Group) (m : BitVec 16) : Group :=
  let left := g.spill.map fun f => (f.1, f.2 &&& ~~~m)
  let empty := (left.reverse.takeWhile fun f => decide (f.2 = 0)).length
  { g with
    spill := left.take (left.length - empty)
    spcnt := g.spcnt - empty
    j := g.j.map fun r => let k := r.mask &&& ~~~m
                          if r.valid ∧ k ≠ 0 then { r with mask := k } else if r.valid then ⟨false, 0, 0⟩ else r
    dstack := (g.dstack.map fun d => { d with mask := d.mask &&& ~~~m, arrived := d.arrived &&& ~~~m }).filter
      fun d => decide (d.mask ≠ 0 ∨ d.arrived ≠ 0) }

/-- Every merge that is due takes place (R350). -/
def mergeAll (g : Group) : Group := (List.range 8).foldl (fun g n => if mergeDue g n then merge g n else g) g

/-- EXIT's effect after a refill (R367); where the removal of its slices takes the stream's last resident entry, those that have been spilled
come back (R354). -/
def exitOn (x : Ctx) (s : State) (g : Group) : Res :=
  let m := sliceMask x.sl
  let r := removeSlices g m
  let bad := (List.range 8).any fun n =>
    match g.j[n]?, r.j[n]? with
    | some a, some b => a.valid && b.valid && decide (a.mask ≠ b.mask) && decide (waitUnion g n = b.mask)
        && !loopsEqual g b.mask
    | _, _ => false
  if bad then .fault s 0x19 0 0
  else
    (refill x 4096 s r).andThen s x 2 fun s r =>
      let pending := (r.dstack.zipIdx.find? fun p => decide (p.1.owner.toNat = x.e) && !p.1.join)
      let g := match pending with
        | some (d, i) =>
          let q := { r with dstack := r.dstack.set i { d with join := true, arrived := 0 } }
          (q.modSplit x.e fun sp => { sp with mask := d.mask }).setPc (maskSlices d.mask) d.pc
        | none => r.modSplit x.e fun _ => Split.none
      .flow (x.put s (mergeAll g))

/-- EXIT (R367, R354). -/
def semExit (x : Ctx) (s : State) : Res :=
  if x.inH then .fault s 0x30 0 0 else (refill x 4096 s x.g).andThen s x 2 (exitOn x)

/-- The stream owns at least one stack entry, resident or spilled (R351). -/
def ownsEntry (g : Group) (e : Nat) : Bool :=
  (topEntry g e).isSome || g.spill.any fun f => decide (f.1.toNat = e ∧ f.2 ≠ 0)

/-- SPLITQ (R351). -/
def semSplitq (d : BitVec 7) (x : Ctx) : List RegWrite × Flags :=
  let g := x.g
  let n := (g.splits.filter (·.valid)).length
  let v := (sliceMask x.sl).toNat + 2 ^ 16 * x.e + 2 ^ 18 * n + 2 ^ 21 * g.dstack.length
    + (if 0 < g.spcnt then 2 ^ 26 else 0) + (if ownsEntry g x.e then 2 ^ 27 else 0)
  (x.wsAll d.toNat (BitVec.ofNat 32 v), 0)

/-! ### Loops (R386 to R390) -/

/-- The byte length of an instruction from its word 0 (R71). -/
def wordBytes (w : Word) : Nat := 4 * lenWords (wordLen w)

/-- LOOP and LOOPI (R387): the body's last instruction at stop, the count of each slice. -/
def semLoop (stop : Ctx → DWord) (cnt : Ctx → Nat → Word) (x : Ctx) (s : State) : Res :=
  if x.inH then .fault s 0x10 0 0
  else
    let e := stop x
    match x.fetch s e.toNat with
    | (.ok w, s) =>
      let op := wordOp w
      if op / 32 = 7 ∨ (op / 32 = 0 ∧ op ≠ 0) then .fault s 0x10 9 0
      else if x.sl.any fun k => decide (4 ≤ (x.g.slice k).loops.length) then .fault s 0x10 9 0
      else if !(x.sl.all fun k => decide (cnt x k = cnt x x.low)) then .fault s 0x14 0 0
      else
        let c := cnt x x.low
        if c = 0 then .flow (x.put s (x.g.setPc x.sl (e + BitVec.ofNat 64 (wordBytes w))))
        else
          let l : LoopEntry := { start := x.pc + 4, stop := e, count := c }
          .flow (x.put s (x.g.modSlices x.sl fun _ q => { q with loops := l :: q.loops, pc := x.pc + 4 }))
    | (r, s) => x.fetchFail s r

/-- LEAVE (R390). -/
def semLeave (x : Ctx) (s : State) : Res :=
  if x.inH then .fault s 0x10 0 0
  else
    let top (k : Nat) : Option LoopEntry := (x.g.slice k).loops.head?
    if x.sl.all fun k => (top k).isNone then .done s
    else if !(x.sl.all fun k => decide (top k = top x.low)) then .fault s 0x13 0 0
    else
      match top x.low with
      | none => .done s
      | some e =>
        match x.fetch s e.stop.toNat with
        | (.ok w, s) =>
          .flow (x.put s (x.g.modSlices x.sl fun _ q =>
            { q with loops := q.loops.tail, pc := e.stop + BitVec.ofNat 64 (wordBytes w) }))
        | (r, s) => x.fetchFail s r

/-! ### YIELD, TRAP, BRK -/

/-- Whether the group has matrix operations that have not retired (R61); a QFENCE of it in the FIFO counts as one. DESIGN CHOICE
(log 65). -/
def matrixPending (s : State) (u : Nat) : Bool :=
  s.cores.any fun c => c.2.fifo.any (fun o => decide (o.group = u)) ||
    c.2.copyq.any fun o => decide (o.group = u) && match o.kind with
      | .drain .. => true
      | _ => false

/-- YIELD (R61): in a handler a NOP; otherwise the budget is reloaded and, while a request stands and no matrix operation is
pending, the stream parks after it. -/
def semYield (deadline : BitVec 12) (n : BitVec 9) (x : Ctx) (s : State) : Res :=
  if x.inH then .done s
  else
    let g := { x.g with budget := deadline.toNat }
    let g := g.modSplit x.e fun sp => { sp with live := 8 * n.toNat }
    if x.t.request && !matrixPending s x.uid then
      .done (x.put s (g.modSplit x.e fun sp => { sp with run := .park }))
    else .done (x.put s g)

/-- A TRAP raised in the handler writes a second entry for the trap that entered it (R365). -/
def semTrap (code : BitVec 8) (x : Ctx) (s : State) : Res :=
  if x.inH then
    let pc := (x.g.slice x.low).pc
    let c := x.g.fcause.toNat
    let s1 := streamFault s x 0x38 code.toNat 0
    .flow (report s1 x.t.grid.toNat x.t.num x.g.gid (c % 256) (c / 256 % 256)
      (1 + if x.t.shadow then 16 else 0) pc x.g.faddr (!hostMode s 1))
  else .fault s 0x38 code.toNat 0

/-- BRK (R366): with the debug interface enabled the group holds after it and the host is told; otherwise a NOP. -/
def semBrk (code : BitVec 8) (x : Ctx) (s : State) : Res :=
  if x.gr.debug then
    .done (tellHost (x.put s { x.g with hold := true }) "brk"
      [x.t.grid.toNat, x.t.num, x.g.gid, code.toNat, x.pc.toNat])
  else .done s

/-! ### The instructions -/

/-- The issue of a class 000 instruction. -/
def issueCtl (i : Instr) (y : Bool) (body : Ctx → State → Res) (s : State) : Host.Outcome State Fault Refusal :=
  issue (howCtl i y) body s

/-- NOP (R54). -/
def execNop (y : Bool) (s : State) : Host.Outcome State Fault Refusal :=
  issueCtl (.nop y) y (fun _ s => .done s) s
/-- BRA. -/
def execBra (y : Bool) (off : BitVec 21) (s : State) : Host.Outcome State Fault Refusal :=
  issueCtl (.bra y off) y (semBra fun x => offsetTarget x.pc off) s
/-- BRA with a literal target. -/
def execBraL (y : Bool) (tgt : DWord) (s : State) : Host.Outcome State Fault Refusal :=
  issueCtl (.braL y tgt) y (semBra fun _ => tgt) s
/-- BC. -/
def execBc (y : Bool) (i : BitVec 3) (inv : Bool) (j : BitVec 3) (off : BitVec 14) (s : State) :
    Host.Outcome State Fault Refusal :=
  issueCtl (.bc y i inv j off) y (semBc i inv j 4 fun x => offsetTarget x.pc off) s
/-- BC with a literal target. -/
def execBcL (y : Bool) (i : BitVec 3) (inv : Bool) (j : BitVec 3) (tgt : DWord) (s : State) :
    Host.Outcome State Fault Refusal :=
  issueCtl (.bcL y i inv j tgt) y (semBc i inv j 12 fun _ => tgt) s
/-- BCU. -/
def execBcu (y : Bool) (i : BitVec 3) (inv : Bool) (off : BitVec 14) (s : State) :
    Host.Outcome State Fault Refusal :=
  issueCtl (.bcu y i inv off) y (semBcu i inv fun x => offsetTarget x.pc off) s
/-- BCU with a literal target. -/
def execBcuL (y : Bool) (i : BitVec 3) (inv : Bool) (tgt : DWord) (s : State) :
    Host.Outcome State Fault Refusal :=
  issueCtl (.bcuL y i inv tgt) y (semBcu i inv fun _ => tgt) s
/-- JMPI. -/
def execJmpi (y : Bool) (a : BitVec 7) (s : State) : Host.Outcome State Fault Refusal :=
  issueCtl (.jmpi y a) y (semJmpi a) s
/-- CALL. -/
def execCall (y : Bool) (n : BitVec 8) (off : BitVec 13) (s : State) : Host.Outcome State Fault Refusal :=
  issue (howCall (.call y n off) y n.toNat) (semCall n.toNat 4 false fun x _ => offsetTarget x.pc off) s
/-- CALL with a literal target. -/
def execCallL (y : Bool) (n : BitVec 8) (tgt : DWord) (s : State) : Host.Outcome State Fault Refusal :=
  issue (howCall (.callL y n tgt) y n.toNat) (semCall n.toNat 12 false fun _ _ => tgt) s
/-- CALLI. -/
def execCalli (y : Bool) (n : BitVec 8) (a : BitVec 7) (s : State) : Host.Outcome State Fault Refusal :=
  issue (howCall (.calli y n a) y n.toNat) (semCall n.toNat 4 true fun x k => x.ss k a.toNat) s
/-- RET. -/
def execRet (y : Bool) (s : State) : Host.Outcome State Fault Refusal := issueCtl (.ret y) y semRet s
/-- REGANG: an implied wait (R347). -/
def execRegang (y : Bool) (j : BitVec 3) (s : State) : Host.Outcome State Fault Refusal :=
  issueCtl (.regang y j) true (semRegang j) s
/-- SPLITQ. -/
def execSplitq (y : Bool) (d : BitVec 7) (s : State) : Host.Outcome State Fault Refusal :=
  issueRegs (howCtl (.splitq y d) y) (semSplitq d) s
/-- LOOP. -/
def execLoop (y : Bool) (a : BitVec 7) (off : BitVec 14) (s : State) : Host.Outcome State Fault Refusal :=
  issueCtl (.loop y a off) y (semLoop (fun x => offsetTarget x.pc off) fun x k => x.s k a.toNat) s
/-- LOOPI. -/
def execLoopi (y : Bool) (count : BitVec 12) (off : BitVec 9) (s : State) : Host.Outcome State Fault Refusal :=
  issueCtl (.loopi y count off) y
    (semLoop (fun x => x.pc + off.zeroExtend 64 * 4) fun _ _ => count.zeroExtend 32) s
/-- LEAVE. -/
def execLeave (y : Bool) (s : State) : Host.Outcome State Fault Refusal := issueCtl (.leave y) y semLeave s

/-- What the end of a stream may settle: the group's team (R59). -/
def settleAfter (s : State) (o : Host.Outcome State Fault Refusal) : Host.Outcome State Fault Refusal :=
  match o, s.cur.bind fun c => (kget s.groups c.1).map (·.team) with
  | .next t, some tu => .next (settle t tu)
  | o, _ => o

/-- EXIT: an implied wait; under paired execution a compare point (R367). -/
def execExit (y : Bool) (s : State) : Host.Outcome State Fault Refusal :=
  settleAfter s (issue { howCtl (.exit y) true with compare := fun _ => true } semExit s)
/-- YIELD: an implied wait (R61). -/
def execYield (y : Bool) (deadline : BitVec 12) (n : BitVec 9) (s : State) : Host.Outcome State Fault Refusal :=
  issue { howCtl (.yield y deadline n) true with isYield := true } (semYield deadline n) s
/-- TRAP: an implied wait (R365). -/
def execTrap (y : Bool) (code : BitVec 8) (s : State) : Host.Outcome State Fault Refusal :=
  issueCtl (.trap y code) true (semTrap code) s
/-- BRK: an implied wait (R366). -/
def execBrk (y : Bool) (code : BitVec 8) (s : State) : Host.Outcome State Fault Refusal :=
  issueCtl (.brk y code) true (semBrk code) s

end Sys2Proof.Machine
end

