-- ==== Sys2Proof/Machine/Grids.lean ====
section
/-! DEFINITION. Launch records (R32, R33), their validation (R35), and the acceptance of a grid (R36, R55 to R58). -/

namespace Sys2Proof.Machine

/-- The role of group g (R32). -/
def roleOf (roles : Nat) (g : Nat) : Nat := roles / 2 ^ (2 * g) % 4

/-- The roles that the groups take. -/
def rolesUsed (roles groups : Nat) : List Nat :=
  (List.range 4).filter fun k => (List.range groups).any fun g => decide (roleOf roles g = k)

/-- The format slots of a record; none for an ill-formed one. -/
def recordSlots (v : Nat) : List (Option FmtSlot) :=
  (List.range 8).map fun n => fmtSlotOfBits (BitVec.ofNat 128 (fieldOf v (0x80 + 16 * n) 16))

/-- The fields of a record (R32). -/
def launchOf (v : Nat) : Launch :=
  { entry := BitVec.ofNat 64 (fieldOf v 0 8)
    tx := fieldOf v 8 4, ty := fieldOf v 0xC 2, tz := fieldOf v 0xE 2
    groups := fieldOf v 0x10 1
    width := 8 * 2 ^ (fieldOf v 0x11 1 % 4)
    policy := fieldOf v 0x12 1
    priority := fieldOf v 0x13 1
    localSize := fieldOf v 0x14 4
    budget0 := fieldOf v 0x18 2
    replayable := decide (fieldOf v 0x1A 1 % 2 = 1)
    paired := decide (fieldOf v 0x1A 1 / 2 % 2 = 1)
    roles := BitVec.ofNat 64 (fieldOf v 0x20 8)
    windows := (List.range 4).map fun k => (fieldOf v (0x28 + 4 * k) 2, fieldOf v (0x2A + 4 * k) 2)
    params := BitVec.ofNat 64 (fieldOf v 0x38 8)
    completion := BitVec.ofNat 64 (fieldOf v 0x40 8)
    faultrec := BitVec.ofNat 64 (fieldOf v 0x48 8)
    slots := (recordSlots v).map fun f => f.getD fmtSlotZero }

/-- N and A of group g. -/
def Launch.window (l : Launch) (g : Nat) : Nat × Nat := l.windows.getD (roleOf l.roles.toNat g) (0, 0)

/-- R33 on one role's window. -/
def windowOk (width : Nat) (w : Nat × Nat) : Bool :=
  decide (8 ≤ w.1 ∧ w.1 ≤ 2048 ∧ w.1 % 8 = 0 ∧ w.1 ≤ w.2 ∧ w.2 ≤ 2048 ∧ w.2 % 8 = 0 ∧ width * w.2 ≤ 16384)

/-- A partition's groups and register sum placed in a rising list. -/
def insertLoad (p : Nat × Nat) : List (Nat × Nat) → List (Nat × Nat)
  | [] => [p]
  | q :: l => if p.1 < q.1 ∨ (p.1 = q.1 ∧ p.2 ≤ q.2) then p :: q :: l else q :: insertLoad p l

/-- The ways in which the partitions of a core are loaded after one more group of c registers (R37): at most 16 groups and
16,384 registers each. -/
def packOne (l : List (List (Nat × Nat))) (c : Nat) : List (List (Nat × Nat)) :=
  (l.flatMap fun p => (List.range 8).filterMap fun k =>
    let q := p.getD k (0, 0)
    if q.1 < 16 ∧ q.2 + c ≤ 16384 then some (insertLoad (q.1 + 1, q.2 + c) (p.eraseIdx k)) else none).eraseDups

/-- Whether a team fits on an empty core (R35, R37). -/
def teamFits (l : Launch) : Bool :=
  !((((List.range l.groups).map fun g => l.width * (l.window g).2).foldl packOne [List.replicate 8 (0, 0)]).isEmpty)

/-- The handles that are in use. -/
def gridsFull (s : State) : Bool := decide (16384 ≤ s.grids.length)

/-- The status of a record's contents (R35): the lowest code whose check fails. -/
def recordStatus (s : State) (v depth : Nat) : Nat :=
  let f (off n : Nat) : Nat := fieldOf v off n
  let groups := f 0x10 1
  let l := launchOf v
  if 4 ≤ f 0x11 1 ∨ 1 < f 0x12 1 ∨ 8 ≤ f 0x13 1 ∨ 4 ≤ f 0x1A 1 ∨ f 0x1B 5 ≠ 0 ∨ f 0x20 8 / 2 ^ (2 * groups) ≠ 0
      ∨ f 0x50 48 ≠ 0 then 0x03
  else if !canonical (f 0 8) ∨ f 0 8 % 4 ≠ 0 then 0x04
  else if l.tx = 0 ∨ l.ty = 0 ∨ l.tz = 0 ∨ 2 ^ 32 - 1 < l.teams then 0x05
  else if groups < 1 ∨ 32 < groups then 0x06
  else if !((rolesUsed (f 0x20 8) groups).all fun k => windowOk l.width (l.windows.getD k (0, 0))) then 0x07
  else if f 0x14 4 % 256 ≠ 0 ∨ 524288 < f 0x14 4 then 0x08
  else if 4095 < f 0x18 2 then 0x09
  else if !teamFits l then 0x0A
  else if 9 < depth then 0x0B
  else if gridsFull s then 0x0C
  else
    match (List.range 8).find? fun n => ((recordSlots v).getD n none).isNone with
    | some n => 0x10 + n
    | none => 0

/-- The validation of a launch record by a command processor (R35): its status and, when it is 0, the fields. -/
def validate (s : State) (space : Nat) (addr : DWord) (depth : Nat) : Nat × Option Launch :=
  if addr.toNat % 256 ≠ 0 ∨ ¬ canonical addr.toNat then (0x01, none)
  else
    match sysRead s space addr.toNat 256 with
    | none => (0x02, none)
    | some v =>
      let st := recordStatus s v depth
      (st, if st = 0 then some (launchOf v) else none)

/-- The first handle from h on, cyclically, that is not in use. -/
def freeHandle (s : State) : Nat → Nat → Nat
  | 0, h => h % 16384
  | fuel + 1, h => if (kget s.grids (h % 16384)).isNone then h % 16384 else freeHandle s fuel (h + 1)

/-- The debug interface is enabled for grid h (R366, R410). -/
def debugOn (s : State) (h : Nat) : Bool :=
  decide ((s.mgmt.dbgctl.extractLsb' 0 14).toNat = h) && s.mgmt.dbgctl.getLsbD 16

/-- A grid is accepted (R36, R40, R57, R373): some free handle is its own. Domain bring-up ends (R410). DESIGN CHOICE (log 6). -/
def newGrid (s : State) (l : Launch) (space depth : Nat) (parent : Option Nat) (source : LaunchSource) :
    Nat × State :=
  let (c, s) := pick s 16384
  let h := freeHandle s 16384 c
  let up := parent.bind fun p => (kget s.grids p)
  let root := match up with
    | some g => if (kget s.grids g.root.toNat).any (·.launch.replayable) then g.root else BitVec.ofNat 14 h
    | none => BitVec.ofNat 14 h
  let g : Grid :=
    { launch := l, depth := depth, parent := parent.map (BitVec.ofNat 14), root := root,
      prio := match up with
        | some g => min l.priority g.prio
        | none => l.priority,
      order := s.gridCtr, space := space, phase := .accepted, next := 0, endedTeams := 0,
      counters := List.replicate 16 0, kids := [],
      fr := { last := none, count := 0, overflow := false, replays := 0, status := 0, flagBytes := [], dead := false },
      preq := false, awaitsApproval := hostMode s 2, source := source, snaps := [], nonReplay := false,
      replaying := false, debug := debugOn s h, puts := 0 }
  (h, { s with grids := kset s.grids h g, gridCtr := s.gridCtr + 1,
               mgmt := { s.mgmt with fabmode := s.mgmt.fabmode ||| 2 } })

end Sys2Proof.Machine
end

