-- ==== Sys2Proof/Machine/Pairs.lean ====
section
/-! DEFINITION. Paired execution: compares, held writes and mismatches (R377 to R381). -/

namespace Sys2Proof.Machine

/-- The identities of a pair from either twin: the primary first. -/
def pairOf (s : State) (tu : Nat) : Option (Nat × Nat) :=
  match kget s.teams tu with
  | some t => t.twin.map fun v => if t.shadow then (v, tu) else (tu, v)
  | none => none

/-- The slices of a team's groups, as agents that have seen a write. -/
def teamKeys (t : Team) : List Nat := t.groups.flatMap fun u => sliceKeys u (List.range 16)

/-- The bytes of a map of held writes are performed in the name of a team (R377), each granule snapshotted first. -/
def performHeld (s : State) (tu : Nat) : State :=
  match kget s.teams tu with
  | none => s
  | some t =>
    t.held.foldl (fun s p =>
      let (ex, u) := snapshot s t.grid.toNat p.1
      seeBytes (snapReport s (storeRaw u t.core .store p.1 [p.2]) t.grid.toNat t.num 0 0 ex) (teamKeys t) p.1 1) s

/-- A twin holds nothing, and its signature restarts (R377). -/
def clearHeld (s : State) (tu : Nat) : State := modTeam s tu fun t => { t with held := [], sig := 0, writes := 0 }

/-- The signatures of a pair agree (R377). -/
def sigsEqual (s : State) (p v : Nat) : Bool := ((kget s.teams p).map (·.sig)) == ((kget s.teams v).map (·.sig))

/-- The core of a team reads held writes that are memory's now, though its own were discarded: its L1 holds no older copy of them (R377). -/
def refreshHeld (s : State) (tu : Nat) (held : KMap Byte) : State :=
  match kget s.teams tu with
  | some t => match t.core with
    | some c => held.foldl (fun s p => refreshL1 s c (teamKeys t) p.1 1) s
    | none => s
  | none => s

/-- The compare of a pair whose signatures agree: the primary's held writes are performed, the shadow's discarded. -/
def comparePair (s : State) (p v : Nat) : State :=
  let s := performHeld s p
  clearHeld (clearHeld (refreshHeld s v (((kget s.teams v).map (·.held)).getD [])) p) v

/-- What the engine operations of a team hold is discarded. -/
def clearEng (s : State) (tu : Nat) : State := modTeam s tu fun t => { t with eng := [] }

/-- A mismatch at a stream of the primary: both twins' held writes are discarded, the entry is written for the primary and one for the shadow,
then replay or the end of the team (R381). -/
def mismatchPair (s : State) (p v gu e detail : Nat) : State :=
  let s := clearEng (clearEng (clearHeld (clearHeld s p) v) p) v
  match if setStopped s p then none else kget s.teams p with
  | some t =>
    let at_ := (kget s.groups gu).map fun g => (g.gid, (g.slice ((maskSlices (g.split e).mask).headD 0)).pc)
    let f := endingEntry s t gu ((at_.map (·.1)).getD 0) 0x41 detail false ((at_.map (·.2)).getD 0) 0
    let h := t.grid.toNat
    let s' := reportEntry s h f (!replays s h 0x41 && !hostMode s 1)
    endAfter (reportEntry s' h { f with flags := 16 } false) p t gu e f
  | none => s

/-- Where a stream stands: its pc and its slices. -/
def Group.stands (g : Group) (e : Nat) : DWord × BitVec 16 :=
  ((g.slice ((maskSlices (g.split e).mask).headD 0)).pc, (g.split e).mask)

/-- A stream is parked at a compare point. -/
def Split.atCompare (sp : Split) : Bool :=
  sp.valid && match sp.run with
    | .pair _ => true
    | _ => false

/-- The entries of a group that are parked at compare points. -/
def Group.comparing (g : Group) : List Nat := (List.range 4).filter fun e => (g.split e).atCompare

/-- The groups of a team, each with its contents. -/
def teamGroups (s : State) (tu : Nat) : List (Nat × Group) :=
  match kget s.teams tu with
  | some t => t.groups.filterMap fun u => (kget s.groups u).map fun g => (u, g)
  | none => []

/-- A group of a twin by its number. -/
def twinGroup (s : State) (v gid : Nat) : Option (Nat × Group) := (teamGroups s v).find? fun p => decide (p.2.gid = gid)

/-- The streams of the primary p, among those that a test picks of a group, that stand with such a one of the shadow's: group and entry of
each twin. -/
def meeting (pickIn : Group → List Nat) (s : State) (p v : Nat) : List (Nat × Nat × Nat × Nat) :=
  (teamGroups s p).flatMap fun x =>
    match twinGroup s v x.2.gid with
    | none => []
    | some y =>
      (pickIn x.2).filterMap fun e =>
        ((pickIn y.2).find? fun f => decide (x.2.stands e = y.2.stands f)).map fun f => (x.1, e, y.1, f)

/-- The streams of the primary p that stand at a compare point with the shadow's: group and entry of each twin (R379). -/
def matched (s : State) (p v : Nat) : List (Nat × Nat × Nat × Nat) := meeting Group.comparing s p v

/-- The entries of a group that a team is taken with at a compare point: parked at one, or at a YIELD (R379). -/
def Group.comparingTaken (g : Group) : List Nat :=
  (List.range 4).filter fun e => (g.split e).atCompare || ((g.split e).valid && decide ((g.split e).run = .park))

/-- The stream goes on: the compare before its instruction has been made. -/
def afterCompare (s : State) (u e : Nat) : State :=
  modGroup s u fun g => g.modSplit e fun sp => { sp with run := .run, compared := true }

end Sys2Proof.Machine
end

