-- ==== Sys2Proof/Machine/System.lean ====
section
/-! DEFINITION. Class 111: state and management registers, child grids, and the instructions of supervisor handlers (R55, R118 to
R121, R125, R133, R134, R202, R219 to R221, R352, R368, R399, R411). -/

namespace Sys2Proof.Machine

/-! ### State registers (R118 to R121) -/

/-- Whether a state register may be read in a handler only. -/
def handlerReg (n : Nat) : Bool := [18, 19, 20, 24, 25, 26].contains n

/-- The budget as GET reads it: after the GET's own issue (R400). -/
def Ctx.budgetAfter (x : Ctx) : Nat := if x.inH then x.g.budget else x.g.budget - 1

/-- The low and the high word of a pair. -/
def loWord (v : DWord) : Word := v.extractLsb' 0 32
def hiWord (v : DWord) : Word := v.extractLsb' 32 32

/-- State register n as slice k reads it. -/
def Ctx.stateReg (x : Ctx) (s : State) (n k : Nat) : Word :=
  let q := x.g.slice k
  let num (v : Nat) : Word := BitVec.ofNat 32 v
  match n with
  | 0 => num (4 * k)
  | 1 => num k
  | 2 => num x.g.gid
  | 3 => num x.t.num
  | 4 => x.t.grid.zeroExtend 32
  | 5 => num x.gr.depth
  | 6 => num x.g.width
  | 7 => num x.gr.launch.groups
  | 8 => loWord x.gr.launch.params
  | 9 => hiWord x.gr.launch.params
  | 10 => (coreAt s x.core).cycles
  | 11 => x.g.fstat.zeroExtend 32
  | 12 => num x.budgetAfter
  | 13 => x.g.mbatch.zeroExtend 32
  | 14 => num q.wb
  | 15 => num q.rb
  | 16 => num x.g.nregs
  | 17 => num x.g.alloc
  | 18 => num q.wneed
  | 19 => loWord x.g.fmask
  | 20 => hiWord x.g.fmask
  | 21 => x.g.scratch0
  | 22 => x.g.scratch1
  | 24 => x.g.fcause
  | 25 => loWord x.g.faddr
  | 26 => hiWord x.g.faddr
  | _ => 0

/-- GET (R125). -/
def semGet (w : ExtArgs) (x : Ctx) (s : State) : Res :=
  let n := w.a.toNat
  if handlerReg n && !x.inH then .fault s 0x11 0 0
  else .done (x.put s (x.g.writes (x.sl.flatMap fun k => x.ws k w.d.toNat (x.stateReg s n k))))

/-- A GET of fstat waits for the stream's results (R120). -/
def howGet (w : ExtArgs) (how : IssueHow) : IssueHow := { how with wait := w.y || decide (w.a.toNat = 11) }

/-- A PUT of fstat: flags that the stream's own earlier instructions are yet to raise are raised before it (R120). -/
def Group.putFstat (g : Group) (e : Nat) (v : BitVec 6) : Group :=
  ({ g with fstat := v } : Group).modSplit e fun sp => { sp with pend := sp.pend.map fun p => { p with flags := 0 } }

/-- PUT (R125): the copy of the lowest-numbered issuing slice. -/
def semPut (w : ExtArgs) (x : Ctx) (s : State) : Res :=
  let v := x.s x.low w.a.toNat
  let g := x.g
  .done (x.put s (match w.d.toNat with
    | 11 => g.putFstat x.e (v.extractLsb' 0 6)
    | 21 => { g with scratch0 := v }
    | 22 => { g with scratch1 := v }
    | _ => g))

/-! ### Management registers (R410, R411) -/

/-- Free 64 KiB frames of a die's first-touch pool (R410). -/
def poolFree (s : State) (die : Nat) : Nat := ((s.pools.getD die []).map fun f => f.2 / 65536).sum

/-- PARTID (R410). -/
def partId : Word := (Config.stepping.zeroExtend 32 <<< 16) ||| 0x9A

/-- What a handler on a core reads of management register n; none where it has no R. -/
def handlerRead (s : State) (core n : Nat) : Option Word :=
  match n with
  | 0 => some partId
  | 1 => some (s.pkg.zeroExtend 32)
  | 2 => some (loWord s.dtime)
  | 3 => some (hiWord s.dtime)
  | 4 => some (s.mgmt.fnmode.zeroExtend 32)
  | 9 => some (BitVec.ofNat 32 (poolFree s (dieOfCore core) % 2 ^ 24))
  | _ => none

/-- The number that SYSGET and SYSPUT name in field f: literal [15:0], or f; none where it is reserved or literal [31:16] is not
zero. -/
def mgmtNumber (w : ExtArgs) (f : BitVec 11) : Option Nat :=
  let n := match w.lit with
    | some v => v.toNat % 2 ^ 32
    | none => f.toNat
  if n < 22 then some n else none

/-- SYSGET (R411). -/
def semSysget (w : ExtArgs) (x : Ctx) (s : State) : Res :=
  if !x.inH then .fault s 0x11 0 0
  else
    match mgmtNumber w w.a with
    | none => .fault s 0x10 9 0
    | some n =>
      match handlerRead s x.core n with
      | none => .fault s 0x11 0 0
      | some v => .done (x.put s (x.g.writes (x.wsAll w.d.toNat v)))

/-- Every access of a handler's stream is performed before f: in a paired team that holds writes, its twin comes to the same instruction, and
the compare is made, first (R377, R411). DEDUCED (log 16). -/
def afterHeld (x : Ctx) (s : State) (f : State → Res) : Res :=
  match pairOf s x.g.team with
  | none => f s
  | some (p, v) =>
    let pcOf (g : Group) : Option DWord := g.handler.map (·.pc)
    let other := if p = x.g.team then v else p
    if x.t.held.isEmpty then f s
    else if (twinGroup s other x.g.gid).any fun y => decide (pcOf y.2 = pcOf x.g) then
      (if sigsEqual s p v then f (comparePair s p v)
       else .stall (mismatchPair s p v (((twinGroup s p x.g.gid).map (·.1)).getD x.uid) x.e 0))
    else .stall s

/-- SYSPUT (R411): HNOTE is the one register that a handler may write; the write raises a host interrupt (R410). -/
def semSysput (w : ExtArgs) (x : Ctx) (s : State) : Res :=
  if !x.inH then .fault s 0x11 0 0
  else
    match mgmtNumber w w.d with
    | none => .fault s 0x10 9 0
    | some n =>
      if n ≠ 8 then .fault s 0x11 0 0
      else
        let v := x.s x.low w.a.toNat
        afterHeld x s fun s => .done (tellHost { s with mgmt := { s.mgmt with hnote := v } } "hnote" [v.toNat])

/-! ### Child grids -/

/-- LAUNCH (R55): the release has been made when it issues; the result lands later. The command processor that validates the record takes
no event while it is replaced (R408, R415). -/
def semLaunch (w : BaseArgs) (x : Ctx) (s : State) : Res :=
  if x.g.gid ≠ 0 ∨ x.inH then .fault s 0x1A 0 0
  else if delayed s (cpOf s x.t.grid.toNat) then .stall s
  else
    let addr := x.lowPair w.a.toNat
    let land (s : State) (v : Nat) : Res :=
      .done (modGroup s x.uid fun g =>
        g.addPending x.e { writes := x.wsAll w.d.toNat (BitVec.ofNat 32 v), await := none })
    match validate s x.gr.space addr (x.gr.depth + 1) with
    | (_, some l) =>
      let (h, s) := newGrid s l x.gr.space (x.gr.depth + 1) (some x.t.grid.toNat) .child
      land s (h * 256)
    | (st, none) => land s st

/-- Whether handle h names a child of grid p that has not retired. -/
def liveChild (s : State) (p : BitVec 14) (h : Nat) : Bool :=
  (kget s.grids h).any fun g => decide (g.parent = some p)

/-- What CWAIT writes for handle h (R399): the STATUS of a child among the 32 most recently retired, else all ones. -/
def childStatus (gr : Grid) (h : Nat) : Word :=
  match gr.kids.find? fun k => decide (k.1.toNat = h) with
  | some k => BitVec.ofNat 32 k.2
  | none => 0xFFFFFFFF

/-- CWAIT (R399). -/
def semCwait (w : BaseArgs) (x : Ctx) (s : State) : Res :=
  let word := x.lowS w.a.toNat
  let h := word.toNat / 256
  let answer (s : State) (v : Word) : Res := .done (modGroup s x.uid fun g => g.writes (x.wsAll w.d.toNat v))
  if x.inH then .fault s 0x10 9 0
  else if word.extractLsb' 0 8 ≠ 0 then answer s 0xFFFFFFFF
  else if liveChild s x.t.grid h then x.deschedule s (.child word w.d.toNat) (x.lowS w.b.toNat) 4
  else
    let v := childStatus x.gr h
    answer (if v = 0xFFFFFFFF then s else acquire s x 0) v

/-! ### Handlers -/

/-- The operations suspended on a fault of the stream go on (R223); a page that its handler passed on is recorded (R221). -/
def resumeOp (u e : Nat) (passed : Option DWord) (o : EngOp) : EngOp :=
  if o.page.isSome ∧ o.pend = some (u, e) then { o with page := none, passed := passed } else o

/-- Every queued operation changed by f. -/
def mapOps (s : State) (f : EngOp → EngOp) : State :=
  { s with cores := kmapV (fun _ k => { k with copyq := k.copyq.map f, collq := k.collq.map f }) s.cores
           routeq := s.routeq.map fun q => q.map f }

/-- RTE (R220): the return from the handler; an engine that its fault had suspended goes on (R223), and a merge that waited for
the handler takes place. -/
def semRte (x : Ctx) (s : State) : Res :=
  match x.g.handler with
  | none => .fault s 0x11 0 0
  | some h =>
    if !x.inH then .fault s 0x11 0 0
    else
      let s := x.put s (mergeAll (returnFromTrap x.g))
      .flow (if h.engine then
          mapOps s (resumeOp x.uid x.e (if h.mapp = some 2 ∨ h.mapp = some 3 then some x.g.faddr else none))
        else s)

/-- A frame of a given size leaves a die's first-touch pool; which one is free (R219). DESIGN CHOICE (log 25). -/
def takeFrame (s : State) (die size : Nat) : Option (Nat × State) :=
  let l := s.pools.getD die []
  let fit := l.filter fun f => decide (f.2 = size)
  if fit.isEmpty then none
  else
    let (k, s) := pick s fit.length
    let f := fit.getD k (0, 0)
    some (f.1, { s with pools := lset s.pools die (l.erase f) })

/-- A page's frame becomes zero before any use of it (R219): no cache holds an older line of it, and no line is poisoned. -/
def zeroFrame (s : State) (base size : Nat) : State :=
  let out {α : Type} (m : KMap α) : KMap α :=
    m.filter fun e => decide (e.1 < base / 128) || decide ((base + size) / 128 ≤ e.1)
  { s with mem := fclear s.mem base size
           behind := s.behind.filter fun e => decide (e.1 < base) || decide (base + size ≤ e.1)
           poison := out s.poison
           cores := kmapV (fun _ k => { k with l1 := out k.l1, icache := out k.icache }) s.cores }

/-- A first-touch entry mapped on frame f (R219): FRAME, V and FT change, the other bits are kept. -/
def mappedEntry (e : DWord) (f : Nat) : DWord :=
  (e &&& 0xFFF000000000FF7F#64) ||| BitVec.ofNat 64 f ||| 1

/-- MAPP's work on an address (R219) with the pool of a die: the status and the state. -/
def mapPage (s : State) (space die va : Nat) (inspect : Bool) : Nat × State :=
  if !inGridSpace va then (3, s)
  else
    match walkSpace s space va with
    | .leaf _ _ _ _ => (1, s)
    | .bad _ _ => (3, s)
    | .invalid a e _ size first =>
      if !first then (3, s)
      else if inspect then (4, s)
      else
        match takeFrame s die size with
        | none => (2, s)
        | some (f, s) =>
          let s := zeroFrame s f size
          (0, { s with mem := writeN s.mem a 8 (mappedEntry e f).toNat })

/-- MAPP (R219). -/
def semMapp (w : BaseArgs) (x : Ctx) (s : State) : Res :=
  if !x.inH then .fault s 0x11 0 0
  else
    let flags := x.lowS w.b.toNat
    let (st, s) :=
      if flags.toNat / 2 ≠ 0 then (5, s)
      else mapPage s x.gr.space (dieOfCore x.core) (x.lowPair w.a.toNat).toNat (flags.getLsbD 0)
    .done (modGroup s x.uid fun g =>
      let g := g.writes (x.wsAll w.d.toNat (BitVec.ofNat 32 st))
      { g with handler := g.handler.map fun h => { h with mapp := some st } })

/-- Whether TLBI of a kind drops a translation (R202). -/
def tlbiDrops (kind a n : Nat) (t : TlbEntry) : Bool :=
  match kind with
  | 0 => decide (t.base ≤ a ∧ a < t.base + t.size)
  | 1 => decide (t.base < a + n * 65536 ∧ a < t.base + t.size ∧ 0 < n)
  | _ => true

/-- TLBI (R202): from every TLB of the package's cores. -/
def semTlbi (w : BaseArgs) (x : Ctx) (s : State) : Res :=
  if !x.inH then .fault s 0x11 0 0
  else
    let a := if w.d.toNat = 2 then 0 else (x.lowPair w.a.toNat).toNat
    let n := (x.lowS w.b.toNat).toNat
    let keep (t : TlbEntry) : Bool := !(decide (t.space = x.gr.space) && tlbiDrops w.d.toNat a n t)
    .done { s with cores := kmapV (fun _ k => { k with tlb := k.tlb.filter keep, wtlb := k.wtlb.filter keep }) s.cores }

/-! ### Spill and fill (R133, R134, R352) -/

/-- The physical addresses of 4-byte accesses, or none where any of them faults, is refused, or meets an uncorrectable error. -/
def spillAddrs (x : Ctx) (s : State) (n : Need) (align : Nat) (l : List (Nat × Nat)) : Option (List Nat) × State :=
  let (c, miss, s) := checkAccesses s x.core x.gr.space false n align l
  let s := x.count s 11 miss
  match c with
  | .ok r =>
    if r.any fun p => targetRefuses s p.1 || (poisonAt s p.1 align).isSome then (none, s)
    else (some (r.map (·.1)), s)
  | _ => (none, s)

/-- The image address of logical index i of lane l (R133). -/
def imageAddr (a width i l : Nat) : Nat := (a + 4 * (i * width + l)) % 2 ^ 64

/-- The (lane, logical index) pairs of c units of slice k from logical index lo. -/
def spillCells (k lo c : Nat) : List (Nat × Nat) :=
  (List.range (8 * c)).flatMap fun i => (sliceLanes k).map fun l => (l, lo + i)

/-- The reads of words at physical addresses by one instruction. -/
def readWords (x : Ctx) (s : State) (l : List Nat) : List Nat × State :=
  let (r, s) := loadEach x false 4 s (l.map fun a => { key := 0, va := a, pa := a, leaf := 0 })
  (r.map (·.2), s)

/-- Any part of the writes of an instruction that fails, each (address, value) of n bytes: what it could reach of them is free (R7, R134,
R352). DESIGN CHOICE (log 6). -/
def somePart (x : Ctx) (n : Nat) (l : List (Nat × Nat)) (s : State) : State :=
  l.foldl (fun s p =>
    let (c, s) := pick s 2
    if c = 0 ∨ ¬ inGridSpace p.1 ∨ p.1 % n ≠ 0 then s
    else
      match checkWalk s.pkg (some (dieOfCore x.core)) p.1 needW (walkSpace s x.gr.space p.1) with
      | .ok pa _ => if targetRefuses s pa then s else x.write s p.1 pa n p.2
      | _ => s) s

/-- WSPILL and WFILL (R133). -/
def semSpill (fill : Bool) (w : BaseArgs) (x : Ctx) (s : State) : Res :=
  let c := w.b.toNat
  let base (k : Nat) : Nat := (x.ss k w.a.toNat).toNat
  let q (k : Nat) : Slice := x.g.slice k
  let bad (k : Nat) : Bool := decide (base k % 256 ≠ 0)
    || (if fill then decide ((q k).rb < 8 * c) || decide ((q k).wneed < c) else decide ((q k).wb < (q k).rb + 8 * c))
  let cells (l : List Nat) : List ((Nat × Nat) × Nat) := l.flatMap fun k =>
    (spillCells k (if fill then (q k).rb - 8 * c else (q k).rb) c).map fun p => (p, imageAddr (base k) x.g.width p.2 p.1)
  let ref (p : Nat × Nat) : RegRef := .v p.1 (p.2 % x.g.alloc)
  let part (l : List Nat) (s : State) : State :=
    if fill then s else somePart x 4 ((cells l).map fun p => (p.2, (x.g.reg (ref p.1)).toNat)) s
  if !x.inH then .fault s 0x11 0 0
  else if x.sl.any bad then .fault (part (x.sl.filter fun k => !bad k) s) 0x31 0 0
  else
    let cells := cells x.sl
    match spillAddrs x s (if fill then needR else needW) 4 (cells.map fun p => (p.1.1, p.2)) with
    | (none, s) => .fault (part x.sl s) 0x31 0 0
    | (some pas, t) =>
      if pas.any (accessAwaited s) then .stall s
      else
      let s := t
      let moved (g : Group) : Group := g.modSlices x.sl fun _ sl =>
        { sl with rb := if fill then sl.rb - 8 * c else sl.rb + 8 * c, wneed := sl.wneed - c }
      if fill then
        let (vals, s) := readWords x s pas
        .done (modGroup s x.uid fun g =>
          moved (g.writes ((cells.zip vals).map fun p => (ref p.1.1, BitVec.ofNat 32 p.2))))
      else
        let s := (cells.zip pas).foldl (fun s p => x.write s p.1.2 p.2 4 (x.g.reg (ref p.1.1)).toNat) s
        .done (modGroup s x.uid moved)

/-- DSPILL (R352). -/
def semDspill (w : BaseArgs) (x : Ctx) (s : State) : Res :=
  let a := (x.lowPair w.a.toNat).toNat
  let c := w.b.toNat
  let g := x.g
  let gone := g.dstack.reverse.take c
  let out := gone.zipIdx.flatMap fun p =>
    (List.range 4).map fun i => ((a + 32 * (g.spcnt + p.2) + 8 * i) % 2 ^ 64, divToNat p.1 / 2 ^ (64 * i) % 2 ^ 64)
  if !x.inH then .fault s 0x11 0 0
  else if a % 256 ≠ 0 ∨ g.dstack.length < c ∨ (0 < g.spcnt ∧ a ≠ g.spbase.toNat) ∨ 4095 < g.spcnt + c then
    .fault (somePart x 8 out s) 0x32 0 0
  else
    match spillAddrs x s needW 8 (out.map fun p => (x.low, p.1)) with
    | (none, s) => .fault (somePart x 8 out s) 0x32 0 0
    | (some pas, t) =>
      if pas.any (accessAwaited s) then .stall s
      else
      let s := (out.zip pas).foldl (fun s p => x.write s p.1.1 p.2 8 p.1.2) t
      .done (modGroup s x.uid fun g =>
        { g with dstack := g.dstack.take (g.dstack.length - c), spcnt := g.spcnt + c, spbase := BitVec.ofNat 64 a
                 spill := g.spill.take g.spcnt ++ gone.map fun d => (d.owner, d.mask ||| d.arrived) })

/-- HALT (R368). -/
def semHalt (x : Ctx) (s : State) : Res := if x.inH then .fault s 0x39 0 0 else .fault s 0x11 0 0

/-! ### The instructions -/

/-- GET, base form. -/
def execGet (w : BaseArgs) (s : State) : Host.Outcome State Fault Refusal :=
  issue (howGet (w.ext none) (howOp 0xE0 false (w.ext none))) (semGet (w.ext none)) s

/-- GET, extended form. -/
def execGetX (w : ExtArgs) (s : State) : Host.Outcome State Fault Refusal :=
  issue (howGet w (howOp 0xE0 true w)) (semGet w) s

/-- PUT, base form. -/
def execPut (w : BaseArgs) (s : State) : Host.Outcome State Fault Refusal :=
  issue (howOp 0xE1 false (w.ext none)) (semPut (w.ext none)) s

/-- PUT, extended form. -/
def execPutX (w : ExtArgs) (s : State) : Host.Outcome State Fault Refusal :=
  issue (howOp 0xE1 true w) (semPut w) s

/-- SYSGET, base form. -/
def execSysget (w : BaseArgs) (s : State) : Host.Outcome State Fault Refusal :=
  issue (howOp 0xE2 false (w.ext none)) (semSysget (w.ext none)) s

/-- SYSGET, base form with a literal. -/
def execSysgetL (w : BaseArgs) (lit : DWord) (s : State) : Host.Outcome State Fault Refusal :=
  issue (howOp 0xE2 false (w.ext (some lit))) (semSysget (w.ext (some lit))) s

/-- SYSGET, extended form. -/
def execSysgetX (w : ExtArgs) (s : State) : Host.Outcome State Fault Refusal :=
  issue (howOp 0xE2 true w) (semSysget w) s

/-- SYSPUT, base form. -/
def execSysput (w : BaseArgs) (s : State) : Host.Outcome State Fault Refusal :=
  issue (howOp 0xE3 false (w.ext none)) (semSysput (w.ext none)) s

/-- SYSPUT, base form with a literal. -/
def execSysputL (w : BaseArgs) (lit : DWord) (s : State) : Host.Outcome State Fault Refusal :=
  issue (howOp 0xE3 false (w.ext (some lit))) (semSysput (w.ext (some lit))) s

/-- SYSPUT, extended form. -/
def execSysputX (w : ExtArgs) (s : State) : Host.Outcome State Fault Refusal :=
  issue (howOp 0xE3 true w) (semSysput w) s


/-- How a class 111 instruction of one form issues. -/
def howSys (op : Nat) (w : BaseArgs) : IssueHow := howOp op false (w.ext none)

/-- LAUNCH: a release, so a compare point (R379). -/
def execLaunch (w : BaseArgs) (s : State) : Host.Outcome State Fault Refusal :=
  issue { howSys 0xE4 w with compare := fun _ => true } (semLaunch w) s
/-- CWAIT: an implied wait (R396). -/
def execCwait (w : BaseArgs) (s : State) : Host.Outcome State Fault Refusal :=
  issue { howSys 0xE5 w with wait := true } (semCwait w) s
/-- How RTE and HALT issue: they have no operand. -/
def howBare (wait : Bool) : IssueHow :=
  { len := 4, cls := 7, wait := wait, isYield := false, compare := fun _ => false, chk := fun _ => none }

/-- RTE. -/
def execRte (y : Bool) (s : State) : Host.Outcome State Fault Refusal := issue (howBare y) semRte s
/-- MAPP. -/
def execMapp (w : BaseArgs) (s : State) : Host.Outcome State Fault Refusal := issue (howSys 0xE7 w) (semMapp w) s
/-- TLBI. -/
def execTlbi (w : BaseArgs) (s : State) : Host.Outcome State Fault Refusal := issue (howSys 0xE8 w) (semTlbi w) s
/-- WSPILL. -/
def execWspill (w : BaseArgs) (s : State) : Host.Outcome State Fault Refusal :=
  issue (howSys 0xE9 w) (semSpill false w) s
/-- WFILL. -/
def execWfill (w : BaseArgs) (s : State) : Host.Outcome State Fault Refusal := issue (howSys 0xEA w) (semSpill true w) s
/-- DSPILL. -/
def execDspill (w : BaseArgs) (s : State) : Host.Outcome State Fault Refusal := issue (howSys 0xEB w) (semDspill w) s
/-- HALT: an implied wait (R368), whatever its marker. -/
def execHalt (_ : Bool) (s : State) : Host.Outcome State Fault Refusal := issue (howBare true) semHalt s

end Sys2Proof.Machine
end

