-- ==== Sys2Proof/Machine/Collective.lean ====
section
/-! DEFINITION. Collectives: the launch packet and its entries (R316), the launch on the origin and on the other packages (R317), SEQGO
(R318) and COLL (R321). -/

namespace Sys2Proof.Machine

/-! ### Reads of a launch (R317, R332) -/

/-- What a read of a launch answers: its value, nothing where it cannot be read, or a wait for the host's page. -/
inductive LaunchRead where
  | ok (v : Nat) (s : State)
  | bad (s : State)
  | wait (s : State)

/-- A page fault of a launch is resolved as a sequencer's is (R332): the lock die maps a first-touch page, or the host is asked and has
either answered or not. -/
def launchPage (s : State) (space die va : Nat) : Option Bool × State :=
  if hostMode s 0 then
    let (c, s) := pick s 2
    if c = 0 then (none, tellHost s "launch page" [space, va]) else (some false, s)
  else
    let (st, s) := mapPage s space die va false
    (some (decide (st ≤ 1)), s)

/-- Read the parts of a range, in order. A part on a page of class DC is read as any other. DESIGN CHOICE (log 62). -/
def launchParts (space die : Nat) : List (Nat × Nat) → List Byte → State → LaunchRead
  | [], l, s => .ok (ofBytes l) s
  | (va, n) :: ps, l, s =>
    if !inGridSpace va then .bad s
    else
      let go (pa : Nat) (s : State) : LaunchRead :=
        if targetRefuses s pa || segPoison s [(pa, n)] then .bad s
        else launchParts space die ps (l ++ readList s.mem pa n) s
      match checkWalk s.pkg none va needR (walkSpace s space va) with
      | .ok pa _ => go pa s
      | .access _ => .bad s
      | .page _ =>
        match launchPage s space die va with
        | (none, s) => .wait s
        | (some false, s) => .bad s
        | (some true, s) =>
          match checkWalk s.pkg none va needR (walkSpace s space va) with
          | .ok pa _ => go pa s
          | _ => .bad s

/-- Read n bytes at va. -/
def launchRead (space die va n : Nat) (s : State) : LaunchRead :=
  launchParts space die (rangeParts (n / 65536 + 2) va n) [] s

/-! ### The packet and the entries (R316) -/

/-- A launch packet's fields. -/
structure Packet where
  npkg : Nat
  debug : Bool
  timeout : Nat
  plist : Nat
  table : Nat
  doneAt : DWord
  faultrec : DWord
  deriving DecidableEq, Repr

/-- The packet's fields, and whether each is in its range. -/
def packetOf (v : Nat) : Packet × Bool :=
  let p : Packet :=
    { npkg := fieldOf v 0 2, debug := decide (fieldOf v 2 2 % 2 = 1), timeout := fieldOf v 4 4, plist := fieldOf v 8 8
      table := fieldOf v 0x10 8, doneAt := BitVec.ofNat 64 (fieldOf v 0x18 8), faultrec := BitVec.ofNat 64 (fieldOf v 0x20 8) }
  (p, decide (fieldOf v 2 2 < 2 ∧ 1 ≤ p.timeout ∧ fieldOf v 0x28 24 = 0))

/-- An entry of the table, for the link that is its place. -/
structure SeqEntry where
  link : Nat
  code : Nat
  kinit : Nat
  words : Nat
  offset : Nat
  ctx : Nat
  zeros : Bool
  deriving DecidableEq, Repr

/-- The fields of an entry. -/
def entryOf (link v : Nat) : SeqEntry :=
  { link := link, code := fieldOf v 0 8, kinit := fieldOf v 8 8, words := fieldOf v 0x10 2, offset := fieldOf v 0x12 2
    ctx := fieldOf v 0x14 1, zeros := decide (fieldOf v 0x15 11 = 0) }

/-- Every field of an entry is in its range. -/
def SeqEntry.ok (e : SeqEntry) : Bool :=
  e.zeros && (decide (e.words = 0) ||
    decide (e.code % 8 = 0 ∧ e.words ≤ 2048 ∧ e.offset + e.words ≤ 2048 ∧ e.ctx ≤ 3))

/-- A context holds its load range: it works for a collective that has not stopped it (R317). -/
def SeqCtx.holds (c : SeqCtx) : Bool :=
  c.held || decide (c.state = .ready ∨ c.state = .running ∨ c.state = .waiting ∨ c.state = .halted)

/-- Status 0x05 of an entry: its context is not idle, or its range meets that of a running context. -/
def SeqEntry.clash (e : SeqEntry) (s : State) : Bool :=
  let c := ctxAt s e.link e.ctx
  decide (c.state ≠ .idle) || c.held
    || (seqAt s e.link).ctxs.any fun c =>
        c.holds && decide (e.offset < c.lo + c.words ∧ c.lo < e.offset + e.words)

/-- An entry with its program and its K registers. -/
structure Loaded where
  e : SeqEntry
  code : Nat
  k : Nat
  deriving DecidableEq, Repr

/-- What a package answers to a launch: the codes of the checks that fail, or a wait for the host. -/
inductive LoadRes where
  | done (codes : List Nat) (l : List Loaded) (s : State)
  | wait (s : State)

/-- The own entries, each with its program and K values, as read. -/
def loadEntries (space : Nat) (p : Packet) (pos : Nat) : List Nat → List Nat → List Loaded → State → LoadRes
  | [], codes, l, s => .done codes l s
  | link :: ls, codes, l, s =>
    match launchRead space (link / 6) (p.table + 32 * (24 * pos + link)) 32 s with
    | .wait s => .wait s
    | .bad s => loadEntries space p pos ls (0x02 :: codes) l s
    | .ok v s =>
      let e := entryOf link v
      if !e.ok then loadEntries space p pos ls (0x03 :: codes) l s
      else if e.words = 0 then loadEntries space p pos ls codes l s
      else
        let codes := (if (s.links.getD link Link.init).up then [] else [0x04]) ++ (if e.clash s then [0x05] else []) ++ codes
        match launchRead space (link / 6) e.code (8 * e.words) s with
        | .wait s => .wait s
        | .bad s => loadEntries space p pos ls (0x02 :: codes) l s
        | .ok code s =>
          if e.kinit = 0 then loadEntries space p pos ls codes (⟨e, code, 0⟩ :: l) s
          else
            match launchRead space (link / 6) e.kinit 128 s with
            | .wait s => .wait s
            | .bad s => loadEntries space p pos ls (0x02 :: codes) l s
            | .ok k s => loadEntries space p pos ls codes (⟨e, code, k⟩ :: l) s

/-- A context is loaded and held (R316): CLAMP and HALT are cleared. -/
def loadCtx (cid : BitVec 28) (s : State) (x : Loaded) : State :=
  let words (n v : Nat) : List (Nat × DWord) := (List.range n).map fun i => (i, BitVec.ofNat 64 (v / 2 ^ (64 * i)))
  modSeq s x.e.link fun q =>
    { q with
      imem := fsetAll q.imem ((words x.e.words x.code).map fun p => (x.e.offset + p.1, p.2))
      ctxs := lmod q.ctxs x.e.ctx fun c =>
        { c with pc := BitVec.ofNat 11 x.e.offset, halt := false, clamp := false, cid := cid, k := fsetAll [] (words 16 x.k)
                 lo := x.e.offset, words := x.e.words, wait := .none, readys := [], cause := 0, faultAt := 0, abort := false
                 held := true } }

/-- The least of a list of codes; 0 for none. -/
def leastCode (l : List Nat) : Nat := l.foldl (fun a b => if a = 0 ∨ b < a then b else a) 0

/-- The package checks and loads its own entries and holds its contexts (R317): with a code other than 0 nothing is loaded. -/
inductive PackRes where
  | done (status : Nat) (p : Packet) (pkgs : List (BitVec 12)) (s : State)
  | wait (s : State)

/-- A package's part of a launch: the packet, its list, its table entries; more gives the codes of the checks that only the origin
makes. A page fault on the packet or its list takes a frame of die 0's pool. DESIGN CHOICE (log 62). -/
def loadPackage (space : Nat) (packet : DWord) (cid : BitVec 28) (source : Option (Nat × Nat))
    (more : State → List (BitVec 12) → List Nat) (s : State) : PackRes :=
  let zero : Packet := (packetOf 0).1
  if packet.toNat % 64 ≠ 0 ∨ ¬ canonical packet.toNat then .done 0x01 zero [] s
  else
    match launchRead space 0 packet.toNat 64 s with
    | .wait s => .wait s
    | .bad s => .done 0x02 zero [] s
    | .ok v s =>
      let (p, ok) := packetOf v
      if p.npkg < 1 ∨ 2304 < p.npkg then .done 0x03 p [] s
      else
        match launchRead space 0 p.plist (2 * p.npkg) s with
        | .wait s => .wait s
        | .bad s => .done 0x02 p [] s
        | .ok v s =>
          let nums := (List.range p.npkg).map fun i => v / 2 ^ (16 * i) % 2 ^ 16
          let pkgs := nums.map (BitVec.ofNat 12)
          let codes := (if ok && decide nums.Nodup then [] else [0x03])
            ++ (if nums.any fun n => decide (4095 < n) then [0x04] else []) ++ more s pkgs
            ++ (if 64 ≤ s.colls.length then [0x06] else [])
          let own := nums.idxOf s.pkg.toNat
          match loadEntries space p own (if own < p.npkg then List.range 24 else []) codes [] s with
          | .wait s => .wait s
          | .done codes l s =>
            let st := leastCode codes
            if st ≠ 0 then .done st p pkgs s
            else
              let s := l.foldl (loadCtx cid) s
              let co : Collective :=
                { space := space, pid := pidOf s space, debug := p.debug, timeout := p.timeout, pkgs := pkgs
                  doneAt := p.doneAt, faultrec := p.faultrec, ctxs := (l.map fun x => (x.e.link, x.e.ctx)).reverse
                  started := false, cause := 0, recorded := false, writeErr := false, combines := 0, source := source }
              .done 0 p pkgs { s with colls := kset s.colls cid.toNat co }

/-- Commit (R317): the held contexts start. -/
def commitColl (s : State) (cid : Nat) : State :=
  match kget s.colls cid with
  | none => s
  | some co =>
    let s := { s with colls := kset s.colls cid { co with started := true } }
    co.ctxs.foldl (fun s p =>
      schedule (modCtx s p.1 p.2 fun c => { c with state := .ready, held := false }) p.1) s

/-- Cancel (R317): the held contexts stay idle, and the table entry is free. -/
def cancelColl (s : State) (cid : Nat) : State :=
  match kget s.colls cid with
  | none => s
  | some co =>
    let s := { s with colls := kdel s.colls cid }
    co.ctxs.foldl (fun s p => modCtx s p.1 p.2 fun c => { c with held := false }) s

/-- What the origin's launch answers. -/
inductive CollRes where
  | status (st : Nat) (cid : BitVec 28) (s : State)
  | wait (s : State)

/-- The launch of a collective by this package, its origin (R317). The answers of other packages are free. DESIGN CHOICE (log 29). -/
def launchColl (space : Nat) (packet : DWord) (source : Option (Nat × Nat)) (s : State) : CollRes :=
  let cid : BitVec 28 := (BitVec.ofNat 16 s.collCtr) ++ s.pkg
  let more (s : State) (l : List (BitVec 12)) : List Nat := if l.all (present s) then [] else [0x04]
  match loadPackage space packet cid source more s with
  | .wait s => .wait s
  | .done st _ pkgs s =>
    let s := { s with collCtr := s.collCtr + 1 }
    let others := pkgs.filter fun p => p != s.pkg && present s p
    let s := others.foldl (fun s p =>
      emit s (.launch p { cid := cid, pid := pidOf s space, space := space, packet := packet })) s
    let (answer, s) := if others.isEmpty then (0, s) else pick s 7
    let st := leastCode ([st, answer].filter (· ≠ 0))
    let tell (kind : String) (s : State) : State := others.foldl (fun s p => emit s (.coll kind p cid 0)) s
    if st = 0 then .status 0 cid (commitColl (tell "commit" s) cid.toNat)
    else .status st cid (cancelColl (tell "cancel" s) cid.toNat)

/-! ### SEQGO and COLL -/

/-- SEQGO (R318): a page fault on the packet enters the handler, and it executes again. -/
def semSeqgo (w : ExtArgs) (x : Ctx) (s : State) : Res :=
  let p := x.lowPair w.a.toNat
  let go (s : State) : Res :=
    match launchColl x.gr.space p none s with
    | .wait s => .stall s
    | .status st _ s =>
      let s := noReplay s x
      .done (modGroup s x.uid fun g => g.writes (x.wsAll w.d.toNat (BitVec.ofNat 32 st)))
  once w x s (
    if p.toNat % 64 ≠ 0 then go s
    else
      let (c, miss, s) := checkAccesses s x.core x.gr.space false needR 64 [(x.low, p.toNat)]
      let s := x.count s 11 miss
      match c with
      | .page _ base => .trap s ⟨1, 0, BitVec.ofNat 64 base, laneMask x.lanes, []⟩
      | _ => go s)

/-- Whether a collective's flag lies on a page of class NC, where R321 has none. A flag that no page maps is met by the operation.
DEDUCED (log 50). -/
def flagOnNC (s : State) (space va : Nat) : Bool :=
  match walkSpace s space va with
  | .leaf _ e _ _ => decide (leafCls e = 0)
  | _ => false

/-- COLL (R321). -/
def semColl (w : ExtArgs) (x : Ctx) (s : State) : Res :=
  let d := (x.lowPair w.a.toNat).toNat
  let word := x.lowS w.b.toNat
  once w x s (
    if collFull s x.core then .stall s
    else if d % 32 ≠ 0 ∨ ¬ canonical d then .fault s 0x24 0 0
    else
      ((getOperand x s d 32 32).bind fun v s =>
        if fieldOf v 8 8 % 8 ≠ 0 ∨ fieldOf v 0x18 8 ≠ 0 ∨ ¬ wordOk x.gr.launch.localSize word then badOperand s
        else
          (readShape x s (BitVec.ofNat 64 (fieldOf v 0 8))).bind fun sh s =>
            if sh.loc ∨ ¬ tileShape sh ∨ (sh.elem ≠ .fp32 ∧ sh.elem ≠ .bf16) ∨ flagOnNC s x.gr.space (fieldOf v 8 8) then badOperand s
            else .ok (v, sh) s).run
        fun r s =>
          let k := EngKind.coll r.2 (x.slot (r.2.slot)) w.d.toNat [] none (BitVec.ofNat 64 (fieldOf r.1 8 8))
            (BitVec.ofNat 64 (fieldOf r.1 0x10 8)) word
          .done (nextOp (modCore (noReplay s x) x.core fun q => { q with collq := q.collq ++ [x.engOp s.opCtr k] })))

/-- SEQGO, base form. -/
def execSeqgo (w : BaseArgs) (s : State) : Host.Outcome State Fault Refusal :=
  issue (howOp 0xCE false (w.ext none)) (semSeqgo (w.ext none)) s

/-- SEQGO, extended form. -/
def execSeqgoX (w : ExtArgs) (s : State) : Host.Outcome State Fault Refusal :=
  issue (howOp 0xCE true w) (semSeqgo w) s

/-- COLL, base form. -/
def execColl (w : BaseArgs) (s : State) : Host.Outcome State Fault Refusal :=
  issue (howOp 0xCD false (w.ext none)) (semColl (w.ext none)) s

/-- COLL, extended form. -/
def execCollX (w : ExtArgs) (s : State) : Host.Outcome State Fault Refusal :=
  issue (howOp 0xCD true w) (semColl w) s


end Sys2Proof.Machine
end

