-- ==== Sys2Proof/Machine/Rings.lean ====
section
/-! DEFINITION. Command rings (R297, R298, R412, R413): their entries, the start and the completion of each kind, and the
host's writes to them. -/

namespace Sys2Proof.Machine

/-! ### Controllers (R408, R414, R415) -/

/-- Controller n serves events: an image runs, and no replacement is under way (R415). -/
def serving (s : State) (n : Nat) : Bool :=
  (ctlAt s n).running.isSome && !delayed s n

/-- All eight controllers run an image (R414). -/
def allRun (s : State) : Bool := s.ctls.all fun c => c.running.isSome

/-! ### Rings -/

/-- Ring r. -/
def ringAt (s : State) (r : Nat) : Ring := (kget s.rings r).getD Ring.init

/-- s with ring r changed. -/
def modRing (s : State) (r : Nat) (f : Ring → Ring) : State := { s with rings := kset s.rings r (f (ringAt s r)) }

/-- An index of a ring. -/
def Ring.wrap (q : Ring) (n : Nat) : Nat := n % 2 ^ q.log

/-- The physical address of entry i (R412). -/
def Ring.entryAt (q : Ring) (i : Nat) : Nat := (q.base.toNat + 64 * i) % 2 ^ 52

/-- The doorbell (R412): the host writes the tail. -/
def ringDoorbell (s : State) (r : Nat) (v : Word) : State :=
  modRing s r fun q => { q with tail := BitVec.ofNat 32 (q.wrap v.toNat) }

/-- An address-space record (R413); none when it is ill-formed. -/
def spaceOf (v : Nat) : Option Space :=
  let root := fieldOf v 0 8
  let handlers := (List.range 4).map fun i => fieldOf v (0x10 + 8 * i) 8
  if root % 8192 ≠ 0 ∨ 2 ^ 52 ≤ root ∨ fieldOf v 8 8 < 1 ∨ 4095 < fieldOf v 8 8
      ∨ handlers.any (fun h => !canonical h || decide (h % 4 ≠ 0)) then none
  else
    let pool := BitVec.ofNat 64 (fieldOf v 0x38 8)
    some { root := root, pid := BitVec.ofNat 12 (fieldOf v 8 8), handlers := handlers.map (BitVec.ofNat 64)
           save := BitVec.ofNat 64 (fieldOf v 0x30 8), snapFree := if pool = 0 then [] else Config.snapPool pool }

/-- The record of an enabled ring is read, and gives the ring a space of its own (R413); an ill-formed record disables it. -/
def bindRing (s : State) (r : Nat) : State :=
  let a := (ringAt s r).rspace.toNat
  match (if a % 64 ≠ 0 ∨ 2 ^ 52 ≤ a ∨ targetRefuses s a ∨ (poisonAt s a 64).isSome then none
         else spaceOf (readN s.mem a 64)) with
  | none => modRing s r fun q => { q with enabled := false, bad := true }
  | some sp =>
    let k := max 1 (kfresh s.spaces)
    modRing { s with spaces := kset s.spaces k sp } r fun q => { q with enabled := true, bad := false, space := k }

/-- The host enables a ring that is disabled; its command processor reads the record when it serves events (R408, R415). -/
def ringEnable (s : State) (r : Nat) : State :=
  if (ringAt s r).enabled then s
  else if delayed s (ringCp r) then queueFor (modRing s r fun q => { q with enabled := true }) (ringCp r) (.enable r)
  else bindRing s r

/-- The host disables a ring: an enable that waits for the command processor is over. -/
def ringDisable (s : State) (r : Nat) : State :=
  modCtl (modRing s r fun q => { q with enabled := false }) (ringCp r) fun c => { c with queue := c.queue.filter (· != .enable r) }

/-- The host restarts a stopped ring (R298, R412). -/
def ringRestart (s : State) (r : Nat) : State := modRing s r fun q => { q with stopped := false }

/-! ### Entries (R297) -/

/-- An entry's fields. -/
structure RingEntry where
  kind : Nat
  stopOnError : Bool
  arg0 : DWord
  arg1 : DWord
  arg2 : Nat
  doneAt : DWord
  value : DWord
  ok : Bool
  deriving DecidableEq, Repr

/-- The fields of an entry, and whether it is well-formed (R298): a misaligned address of any kind is an ill-formed entry. DEDUCED
(log 21). -/
def entryFields (v : Nat) : RingEntry :=
  let kind := fieldOf v 0 1
  let arg0 := fieldOf v 8 8
  let arg2 := fieldOf v 0x18 8
  let done := fieldOf v 0x20 8
  { kind := kind, stopOnError := decide (fieldOf v 1 1 % 2 = 1), arg0 := BitVec.ofNat 64 arg0
    arg1 := BitVec.ofNat 64 (fieldOf v 0x10 8), arg2 := arg2, doneAt := BitVec.ofNat 64 done
    value := BitVec.ofNat 64 (fieldOf v 0x28 8)
    ok := decide (1 ≤ kind ∧ kind ≤ 6 ∧ fieldOf v 1 1 < 2 ∧ fieldOf v 2 2 = 0 ∧ fieldOf v 0x30 16 = 0 ∧ done % 8 = 0)
      && (decide (kind = 4) || decide (arg2 = 0)) && (!decide (kind = 4 ∨ kind = 5) || decide (arg0 % 8 = 0))
      && (!decide (kind = 1) || decide (arg0 % 256 = 0)) && (!decide (kind = 3) || decide (arg0 % 64 = 0)) }

/-- The status field of an entry is written; a write that fails is dropped (R298). -/
def writeStatus (s : State) (q : Ring) (i st code : Nat) : State :=
  let a := q.entryAt i + 4
  if targetRefuses s a then s else { s with mem := writeN s.mem a 4 (st + 2 ^ 8 * code) }

/-- The completion of entry i of ring r (R298): status, then done; a rejected entry does nothing but report. lost tells of a write
that the entry's collective dropped (R320). -/
def completeEntry (s : State) (r i v st code : Nat) (lost : Bool) : State :=
  let q := ringAt s r
  let e := entryFields v
  let (st, code) := if lost then (3, 0xFE) else (st, code)
  let s := writeStatus s q i st code
  let (st, s) :=
    if st = 4 ∨ e.doneAt = 0 then (st, s)
    else
      match sysWriteClean s q.space e.doneAt.toNat 8 e.value.toNat with
      | some s => (st, s)
      | none => (3, writeStatus s q i 3 0xFE)
  modRing s r fun q =>
    { q with stopped := q.stopped || (e.stopOnError && decide (3 ≤ st))
             starts := q.starts.filter fun x => x.1 != i
             waits := q.waits.filter fun x => x.1 != i }

/-- An entry that has started completes: its bytes are those with which it started. -/
def finishNow (s : State) (r i st code : Nat) (lost : Bool) : State :=
  match (ringAt s r).starts.find? fun x => x.1 == i with
  | some x => completeEntry s r i x.2 st code lost
  | none => s

/-- The same, by the ring's command processor when it serves events (R408, R415). -/
def finishEntry (s : State) (r i st code : Nat) (lost : Bool) : State :=
  if delayed s (ringCp r) then queueFor s (ringCp r) (.finish r i st code lost) else finishNow s r i st code lost

/-- Entry i starts and does not complete at once. -/
def beginEntry (s : State) (r i v : Nat) : State :=
  modRing (writeStatus s (ringAt s r) i 1 0) r fun q => { q with starts := q.starts ++ [(i, v)] }

/-- The head entry of ring r, when its processor may start it: its index and its bytes (R298, R412, R415). -/
def headEntry (s : State) (r : Nat) : Option (Nat × Nat) :=
  let q := ringAt s r
  let i := q.wrap q.head.toNat
  if q.enabled ∧ ¬ q.stopped ∧ i ≠ q.wrap q.tail.toNat ∧ serving s (ringCp r) ∧ ¬ targetRefuses s (q.entryAt i) then
    some (i, readN s.mem (q.entryAt i) 64)
  else none

/-- The start of the head entry of ring r as an entry of a kind: f gives its effect, or none where it cannot start yet. A malformed entry
is rejected with code 0xFD, whatever its kind. -/
def startEntry (s : State) (r kind : Nat) (f : Nat → Nat → RingEntry → State → Option State) :
    Option State :=
  match headEntry s r with
  | none => none
  | some (i, v) =>
    let e := entryFields v
    let s := modRing s r fun q => { q with head := BitVec.ofNat 32 (q.wrap (i + 1)) }
    if !e.ok then some (completeEntry s r i v 4 0xFD false)
    else if e.kind ≠ kind then none
    else
      match f i v e s with
      | some s => some s
      | none => none

/-! ### Reads by a command processor -/

/-- A read of n bytes by a command processor: the value, or the ERROR of R286 for what stops it. -/
def cpRead (s : State) (space va n : Nat) : Nat ⊕ Nat :=
  if !inGridSpace va || va % n ≠ 0 then .inr 1
  else
    match checkWalk s.pkg none va needR (walkSpace s space va) with
    | .access _ => .inr 1
    | .page _ => .inr 2
    | .ok pa _ =>
      if targetRefuses s pa then .inr 1
      else if (poisonAt s pa n).isSome then .inr 3
      else .inl (readN s.mem pa n)

/-- The element formats of a host copy's records: no grid gives them (R298). DESIGN CHOICE (log 22). -/
def hostElems (n : Nat) : Option Elem := elemOfCode (Config.hostSlot n % 11)

/-- The extents that lie in memory (R282), read by a command processor. -/
def cpDyn (s : State) (space : Nat) : List Nat → Nat → List Nat → List Nat ⊕ Nat
  | [], _, dims => .inl dims
  | k :: ks, a, dims =>
    match cpRead s space (a % 2 ^ 64) 4 with
    | .inl v => cpDyn s space ks (a + 4) (dims.set k v)
    | .inr e => .inr e

/-- A copy entry's record: its shape, an ERROR, or none where it is ill-formed. -/
def cpShape (s : State) (space : Nat) (a : DWord) : Option (Shape ⊕ Nat) :=
  if a.toNat % 128 ≠ 0 ∨ ¬ canonical a.toNat then none
  else
    match cpRead s space a.toNat 128 with
    | .inr e => some (.inr e)
    | .inl v =>
      match parseShape hostElems 0 v with
      | none => none
      | some r =>
        if r.sh.loc then none
        else if r.dyn = 0 then some (.inl r.sh)
        else
          match cpDyn s space ((List.range 5).filter fun k => decide (r.dynsel / 2 ^ k % 2 = 1)) r.dyn r.sh.dims with
          | .inl dims => some (.inl { r.sh with dims := dims })
          | .inr e => some (.inr e)

/-! ### The commands (R298, R319) -/

/-- CMD_LAUNCH. -/
def startLaunch (r i v : Nat) (e : RingEntry) (s : State) : Option State :=
  let q := ringAt s r
  if !allRun s then none
  else
    match validate s q.space e.arg0 0 with
    | (_, some l) => some (newGrid (beginEntry s r i v) l q.space 0 none (.ring r i)).2
    | (st, none) => some (completeEntry s r i v 4 st false)

/-- The queue entry of a host copy: no team posted it. -/
def hostOp (s : State) (space core : Nat) (k : EngKind) : EngOp :=
  { id := s.opCtr, team := 0, group := 0, gid := 0, grid := 0, space := space, core := core, batch := 0, kind := k, done := 0
    bits := 0, clipped := false, crecDone := false, page := none, pend := none, passed := none, error := 0, parked := none
    worked := false }

/-- CMD_COPY on the barge of a core. Records that are ill-formed, or whose boxes or widths differ, reject the entry as a malformed one is
rejected. DESIGN CHOICE (log 21). -/
def startCopy (r core i v : Nat) (e : RingEntry) (s : State) : Option State :=
  let q := ringAt s r
  if coreCount ≤ core ∨ copyFull s core then none
  else
    match cpShape s q.space e.arg1, cpShape s q.space e.arg0 with
    | some (.inl dst), some (.inl src) =>
      if dst.box ≠ src.box ∨ elemBits dst.elem ≠ elemBits src.elem then some (completeEntry s r i v 4 0xFD false)
      else
        let o := hostOp s q.space core (.host dst src r i)
        some (nextOp (modCore (beginEntry s r i v) core fun k => { k with copyq := k.copyq ++ [o] }))
    | some (.inr c), some _ | some (.inl _), some (.inr c) => some (completeEntry s r i v 3 c false)
    | _, _ => some (completeEntry s r i v 4 0xFD false)

/-- CMD_SEQUENCER_START (R319). -/
def startSeq (r i v : Nat) (e : RingEntry) (s : State) : Option State :=
  match launchColl (ringAt s r).space e.arg0 (some (r, i)) s with
  | .status st _ s => some (if st = 0 then beginEntry s r i v else completeEntry s r i v 3 st false)
  | .wait s => some (modRing s r fun q => { q with head := BitVec.ofNat 32 i })

/-- A wait entry reads its word: it completes, or waits on. -/
def readWait (r i : Nat) (e : RingEntry) (s : State) : Option State :=
  match cpRead s (ringAt s r).space e.arg0.toNat 8 with
  | .inr _ => some (finishEntry s r i 3 0x02 false)
  | .inl v => if e.arg1.toNat ≤ v then some (finishEntry s r i 2 0 false) else none

/-- CMD_WAIT. -/
def startWait (r i v : Nat) (e : RingEntry) (s : State) : Option State :=
  let s := beginEntry s r i v
  match readWait r i e s with
  | some s => some s
  | none => some (modRing s r fun q => { q with waits := q.waits ++ [(i, s.dtime)] })

/-- CMD_SIGNAL. -/
def startSignal (r i v : Nat) (e : RingEntry) (s : State) : Option State :=
  match sysWrite s (ringAt s r).space e.arg0.toNat 8 e.arg1.toNat with
  | some s => some (completeEntry s r i v 2 0 false)
  | none => some (completeEntry s r i v 3 0x02 false)

/-- CMD_FENCE: every earlier entry has completed. -/
def startFence (r i v : Nat) (_ : RingEntry) (s : State) : Option State :=
  if (ringAt s r).starts.isEmpty then some (completeEntry s r i v 2 0 false) else none

/-- A wait entry that stands, with its fields and the tick of its start. -/
def standingWait (s : State) (r i : Nat) : Option (RingEntry × DWord) :=
  let q := ringAt s r
  if delayed s (ringCp r) then none
  else
    match q.waits.find? (fun x => x.1 == i), q.starts.find? (fun x => x.1 == i) with
    | some w, some x => some (entryFields x.2, w.2)
    | _, _ => none

/-! ### The events -/

/-- DOORBELL (R412). -/
def execDoorbell (ring : BitVec 6) (tail : Word) (s : State) : Host.Outcome State Fault Refusal :=
  .next (ringDoorbell s ring.toNat tail)
/-- RING_ENABLE (R413). -/
def execRingEnable (ring : BitVec 6) (s : State) : Host.Outcome State Fault Refusal := .next (ringEnable s ring.toNat)
/-- RING_RESTART (R412). -/
def execRingRestart (ring : BitVec 6) (s : State) : Host.Outcome State Fault Refusal := .next (ringRestart s ring.toNat)
/-- CMD_LAUNCH. DEDUCED (log 21). -/
def execCmdLaunch (ring : BitVec 6) (s : State) : Host.Outcome State Fault Refusal :=
  happens s (startEntry s ring.toNat 1 (startLaunch ring.toNat))
/-- CMD_COPY. -/
def execCmdCopy (ring : BitVec 6) (core : Nat) (s : State) : Host.Outcome State Fault Refusal :=
  happens s (startEntry s ring.toNat 2 (startCopy ring.toNat core))
/-- CMD_SEQUENCER_START. -/
def execCmdSequencerStart (ring : BitVec 6) (s : State) : Host.Outcome State Fault Refusal :=
  happens s (startEntry s ring.toNat 3 (startSeq ring.toNat))
/-- CMD_WAIT. -/
def execCmdWait (ring : BitVec 6) (s : State) : Host.Outcome State Fault Refusal :=
  happens s (startEntry s ring.toNat 4 (startWait ring.toNat))
/-- CMD_SIGNAL. -/
def execCmdSignal (ring : BitVec 6) (s : State) : Host.Outcome State Fault Refusal :=
  happens s (startEntry s ring.toNat 5 (startSignal ring.toNat))
/-- CMD_FENCE. -/
def execCmdFence (ring : BitVec 6) (s : State) : Host.Outcome State Fault Refusal :=
  happens s (startEntry s ring.toNat 6 (startFence ring.toNat))

/-- CMD_WAIT_SATISFIED: the word is at or above arg1, or its read has failed. -/
def execCmdWaitSatisfied (ring : BitVec 6) (idx : Nat) (s : State) : Host.Outcome State Fault Refusal :=
  happens s <|
  match standingWait s ring.toNat idx with
  | none => none
  | some (e, _) =>
    match readWait ring.toNat idx e s with
    | some s => some s
    | none => none

/-- CMD_WAIT_TIMEOUT. -/
def execCmdWaitTimeout (ring : BitVec 6) (idx : Nat) (s : State) : Host.Outcome State Fault Refusal :=
  happens s <|
  match standingWait s ring.toNat idx with
  | none => none
  | some (e, since) =>
    whenOk (decide (e.arg2 ≠ 0) && decide (e.arg2 ≤ (s.dtime - since).toNat))
      fun _ => finishEntry s ring.toNat idx 3 0x01 false

end Sys2Proof.Machine
end

