-- ==== Sys2Proof/Machine/Manage.lean ====
section
/-! DEFINITION. Device reset (R224, R299, R335), boot and attestation (R414), management registers (R409, R410, R383), pre-emption requests by PREQ
(R62), live replacement of firmware (R415), islands (R416), and the debug interface (R334, R357, R366). -/

namespace Sys2Proof.Machine

/-! ### Device reset and the package number -/

/-- The keys of a map within a package's own device memory, moved from package number p to q; what the map held for q is gone. unit
is the number of keys per package. -/
def renumber {α : Type} (unit p q : Nat) (m : List (Nat × α)) : List (Nat × α) :=
  if p = q then m
  else
    let own := (m.filter fun e => decide (e.1 / unit = p)).map fun e => (e.1 % unit + q * unit, e.2)
    let rest := m.filter fun e => decide (e.1 / unit ≠ p ∧ e.1 / unit ≠ q)
    rest.filter (fun e => decide (e.1 / unit < q)) ++ own ++ rest.filter fun e => decide (q < e.1 / unit)

/-- The package takes number q, if a package may have it (R21): its device memory answers there (R191, R410). DEDUCED (log 23). -/
def setPkg (s : State) (q : BitVec 12) : State :=
  if 2304 ≤ q.toNat then s
  else
  { s with pkg := q
           pkgs := q :: (s.pkgs.filter fun p => p != s.pkg && p != q)
           mem := renumber (2 ^ 40) s.pkg.toNat q.toNat s.mem
           poison := renumber (2 ^ 33) s.pkg.toNat q.toNat s.poison }

/-- DEVICE_RESET: every field as at reset, but for memory and its poison, the turns to come, what the host denies, and the counters of
free choices and identities. -/
def execDeviceReset (s : State) : Host.Outcome State Fault Refusal :=
  let t := setPkg s 0
  .next { State.reset with
    agenda := s.agenda
    freeCtr := s.freeCtr
    outbox := s.outbox.filter fun m => match m with
      | .hostReport _ _ => true
      | _ => false
    denied := s.denied
    noRoute := s.noRoute
    noSwitch := s.noSwitch
    mem := t.mem
    poison := t.poison
    uidCtr := s.uidCtr
    opCtr := s.opCtr }

/-! ### Images and attestation (R414) -/

/-- Bytes off to off + n − 1 of a list. -/
def imageField (i : Image) (off n : Nat) : Nat := ofBytes ((i.header.drop off).take n)

/-- The digest of an image's body as its header gives it, and its security version. -/
def imageId (i : Image) : BitVec 256 × Nat := (BitVec.ofNat 256 (imageField i 0x10 32), imageField i 8 4)

/-- The 32 bytes of a seed or a digest. -/
def bytes32 (v : BitVec 256) : List Byte := toBytes 32 v.toNat

/-- The digest of the vendor's public key, in the fuses. -/
def keyDigest : BitVec 256 := sha3 (dsaKey (bytes32 Config.vendorSeed)).pk

/-- The identity public key of the package, and its signature by the vendor over its digest (R27). DESIGN CHOICE (log 8). -/
def identityKey : List Byte := (dsaKey (bytes32 Config.identitySeed)).pk
def identitySig : List Byte := dsaSign (bytes32 Config.vendorSeed) (sha3Bytes identityKey) (bytes32 Config.identityRandom)

/-- Whether an image is accepted for controller n. -/
def imageOk (s : State) (n : Nat) (i : Image) : Bool :=
  decide (i.header.length = 64) && decide (imageField i 0 4 = 0x57465950) && decide (imageField i 4 1 = n)
    && decide (imageField i 5 3 = 0) && decide (imageField i 0x30 16 = 0) && decide (imageField i 0xC 4 = i.body.length)
    && decide (i.key.length = 1312) && decide (i.sig.length = 2420)
    && decide (sha3 i.key = keyDigest) && dsaVerify i.key (sha3Bytes i.header) i.sig
    && decide ((sha3 i.body).toNat = imageField i 0x10 32) && decide (s.mgmt.minver ≤ imageField i 8 4)

/-- BOOT_IMAGE_CHECK: controller 0 first, which then checks the others' images (R408), but not while it is replaced (R415). -/
def execBootImageCheck (img : Image) (s : State) : Host.Outcome State Fault Refusal :=
  happens s <|
  let n := img.target.toNat
  whenOk ((ctlAt s n).running.isNone && (decide (n = 0) || ((ctlAt s 0).running.isSome && !delayed s 0))) fun _ =>
    if imageOk s n img then modCtl s n fun c => { c with running := some (imageId img) }
    else tellHost s "image refused" [n]

/-- What a report holds of a controller: its running image, and one in probation. -/
def Controller.attested (c : Controller) : List (BitVec 256 × Nat) :=
  c.running.toList ++ (if c.state = .probation then c.other.toList else [])

/-- The bytes of an attestation report: PARTID, the identity key, the nonce, and each image's digest and security version. -/
def attestationBytes (s : State) (nonce : BitVec 256) : List Byte :=
  toBytes 4 partId.toNat ++ identityKey ++ toBytes 32 nonce.toNat
    ++ (s.ctls.flatMap Controller.attested).flatMap fun i => toBytes 32 i.1.toNat ++ toBytes 4 i.2

/-- The report, signed by ML-DSA-44 with the identity key over its digest (R414), and beside it the package identity, which is signed too
(R27): when and how that is given the spec does not say. DESIGN CHOICE (log 64). -/
def attest (s : State) (nonce : BitVec 256) : State :=
  let body := attestationBytes s nonce
  let sig := dsaSign (bytes32 Config.identitySeed) (sha3Bytes body) (bytes32 (Config.signRandom s.freeCtr))
  let s := tellHost { s with freeCtr := s.freeCtr + 1 } "identity" ((identityKey ++ identitySig).map (·.toNat))
  tellHost s "attestation" ((body ++ sig).map (·.toNat))

/-- ATTESTATION_REQUEST: by controller 0, for which it waits while that is replaced (R415). -/
def execAttestationRequest (nonce : BitVec 256) (s : State) : Host.Outcome State Fault Refusal :=
  happens s <|
  whenOk (ctlAt s 0).running.isSome fun _ => if delayed s 0 then queueFor s 0 (.attest nonce) else attest s nonce

/-! ### Management registers (R409, R410) -/

/-- A retirement table entry as R383 lays it out, and back. -/
def Retired.toNat (r : Retired) : Nat :=
  (if r.valid then 1 else 0) + 2 * r.kind.toNat + (if r.spared then 16 else 0) + 2 ^ 8 * r.unit_.toNat
    + 2 ^ 24 * r.row.toNat
def retiredOf (v : Nat) : Retired :=
  { valid := decide (v % 2 = 1), kind := BitVec.ofNat 3 (v / 2), spared := decide (v / 16 % 2 = 1)
    unit_ := BitVec.ofNat 16 (v / 2 ^ 8 % 2 ^ 13), row := BitVec.ofNat 32 (v / 2 ^ 24) }

/-- An entry that nothing has written. -/
def Retired.none : Retired := retiredOf 0

/-- The entry at an index. -/
def retiredAt (s : State) (i : Nat) : Retired := (kget s.retired i).getD Retired.none

/-- A half of the retirement table entry that RETIDX names is written. -/
def writeRetired (s : State) (hi : Bool) (v : Word) : State :=
  let old := (retiredAt s s.mgmt.retidx).toNat
  let new := if hi then old % 2 ^ 32 + 2 ^ 32 * v.toNat else old / 2 ^ 32 * 2 ^ 32 + v.toNat
  { s with retired := kset s.retired s.mgmt.retidx (retiredOf new) }

/-- A handle is approved (R409). -/
def lapprove (s : State) (h : Nat) : State := modGrid s h fun g => { g with awaitsApproval := false }

/-- A stream that is no longer parked at a YIELD. -/
def RunState.unparked (r : RunState) : RunState :=
  match r with
  | .park => .run
  | .host page _ => .host page false
  | r => r

/-- Parked streams of a team continue after their YIELD when no request stands (R62). -/
def unpark (s : State) (tu : Nat) : State :=
  match kget s.teams tu with
  | none => s
  | some t =>
    if t.request then s
    else t.groups.foldl (fun s u => modGroup s u fun g =>
      { g with splits := g.splits.map fun sp => { sp with run := sp.run.unparked } }) s

/-- The teams of a grid, by identity. -/
def teamsOf (s : State) (h : Nat) : List Nat := (s.teams.filter fun e => decide (e.2.grid.toNat = h)).map (·.1)

/-- A request of the host stands on a grid (R62, R410). -/
def preqRaise (s : State) (h : Nat) : State :=
  (teamsOf s h).foldl (fun s tu => modTeam s tu fun t =>
      if t.core.isSome then { t with request := true, forGrid := none } else t)
    (modGrid s h fun g => { g with preq := true })

/-- The host withdraws its request. -/
def preqWithdraw (s : State) (h : Nat) : State :=
  (teamsOf s h).foldl (fun s tu =>
      unpark (modTeam s tu fun t => if t.forGrid.isNone then { t with request := false } else t) tu)
    (modGrid s h fun g => { g with preq := false })

/-- The cluster-pair islands: 0 to 11 of each die's 15 (R23). -/
def pairIsland (i : Nat) : Bool := decide (i < 60 ∧ i % 15 < 12)

/-- The first of the 16 cores of a cluster-pair island. -/
def islandCore (i : Nat) : Nat := 192 * (i / 15) + 16 * (i % 15)

/-- s with island i changed. -/
def modIsland (s : State) (i : Nat) (f : Island → Island) : State := { s with islands := lmod s.islands i f }

/-- The clock of a step (R416). -/
def stepClock (k : Nat) : Nat := 940 * (16 - k) / 16

/-- A clock step of island i (R416). -/
def islandStep (s : State) (i k : Nat) : State := modIsland s i fun x => { x with step := k, mhz := stepClock k }

/-- A limit sets a cluster pair's clock (R25): lower, or back up to its step's at most. -/
def limitClock (s : State) (i mhz : Nat) : Option State :=
  whenOk (pairIsland i && decide (0 < mhz) && decide (mhz ≤ stepClock (s.islands.getD i Island.init).step)) fun _ =>
    modIsland s i fun x => { x with mhz := mhz }

/-- Whether a core of the island holds a team. -/
def islandHolds (s : State) (i : Nat) : Bool :=
  s.teams.any fun e => e.2.core.any fun c => decide (islandCore i ≤ c ∧ c < islandCore i + 16)

/-- A gate write: one that the island does not allow is ignored (R416). -/
def islandGate (s : State) (i : Nat) (gate : Bool) : State :=
  if gate && (!pairIsland i || islandHolds s i) then s else modIsland s i fun x => { x with gate := gate }

/-- A write of the step, the gate or both of island i. -/
def writeIsland (s : State) (i : Nat) (step : Option Nat) (gate : Option Bool) : State :=
  let s := match step with
    | some k => islandStep s i k
    | none => s
  match gate with
  | some b => islandGate s i b
  | none => s

/-- A write of ISLCTL for the island that ISLSEL names: the power controller's, for which it waits while that is replaced (R408, R415). -/
def islandCtl (s : State) (step : Option Nat) (gate : Option Bool) : State :=
  let i := s.mgmt.islsel
  if delayed s 1 then queueFor s 1 (.island i step gate) else writeIsland s i step gate

/-! ### Live replacement (R415) -/

/-- The structure and row of a tracked row as numbers. -/
def rowWords (r : RowId) : List Nat :=
  match r with
  | .regFile c p row => [0, c, p, row]
  | .local c row => [1, c, row]
  | .accum c n => [2, c, n]
  | .l2 d w => [3, d.toNat, w]
  | .l1 c f => [4, c, f]
  | .icache c f => [5, c, f]
  | .tag c f => [6, c, f]
  | .device t f => [7, t, f]

/-- A flag in its place. -/
def bitAt (b : Bool) (n : Nat) : Nat := if b then 2 ^ n else 0

/-- A format slot (R177). -/
def slotBits (f : FmtSlot) : Nat :=
  ((List.range 11).find? fun n => decide (elemOfCode n = some f.elem)).getD 0 + bitAt f.block 8 + 2 ^ 16 * f.round.toNat
    + bitAt f.sat 24 + bitAt f.tsen 25 + 2 ^ 32 * f.tscale.toNat + 2 ^ 64 * f.srkey.toNat

/-- The launch record's fields as numbers. -/
def Launch.words (l : Launch) : List Nat :=
  [l.entry.toNat, l.tx, l.ty, l.tz, l.groups, l.width, l.policy, l.priority, l.localSize, l.budget0, if l.replayable then 1 else 0,
    if l.paired then 1 else 0, l.roles.toNat, l.params.toNat, l.completion.toNat, l.faultrec.toNat]
    ++ l.windows.flatMap (fun w => [w.1, w.2]) ++ l.slots.map slotBits

/-- An entry of the grid table of a grid that has not finished its launch: of one that is pending, all that its dispatch needs (R36, R41). -/
def gridWords (h : Nat) (g : Grid) : List Nat :=
  [h, g.prio, g.order, g.next] ++
    if g.phase = .accepted then
      [g.depth, (g.parent.map (·.toNat + 1)).getD 0, g.root.toNat, g.space, if g.preq then 1 else 0, if g.awaitsApproval then 1 else 0]
        ++ g.launch.words
    else []

/-- The live tables that a hand-over record carries. -/
def liveTables (s : State) : List Nat :=
  s.rings.flatMap (fun e => [e.1, e.2.head.toNat, e.2.tail.toNat]) ++ s.grids.flatMap (fun e => gridWords e.1 e.2)
    ++ s.peers.flatMap (fun e => [e.1, e.2.reqs, e.2.bulk, e.2.num, e.2.den])
    ++ s.noRoute.flatMap (fun e => [e.1, e.2]) ++ s.slew.toList.map (·.toNat)
    ++ s.pools.map (·.length) ++ s.retired.flatMap (fun e => [e.1, e.2.toNat])
    ++ s.ec.flatMap fun e => rowWords e.row ++ e.stamps.map (·.toNat)

/-- Another controller is out of idle. -/
def otherBusy (s : State) (n : Nat) : Bool :=
  (List.range 8).any fun k => k != n && decide ((ctlAt s k).state ≠ .idle)

/-- A command that is refused: the code, and from idle, where no other controller is out of it, the state of a refusal. -/
def fwRefuse (s : State) (n code : Nat) : State :=
  modCtl s n fun c => { c with state := if c.state = .idle ∧ ¬ otherBusy s n then .refused else c.state, code := code }

/-- FWCMD 1. -/
def fwLoad (s : State) (img : Image) : State :=
  let n := s.mgmt.fwsel
  if (ctlAt s n).state ≠ .idle then fwRefuse s n 3
  else if otherBusy s n then fwRefuse s n 2
  else if imageOk s n img then modCtl s n fun c => { c with other := some (imageId img), state := .loaded }
  else fwRefuse s n 1

/-- FWCMD 2: the running image stops taking events and writes its private words. -/
def fwHandOver (s : State) (priv : List Byte) : State :=
  let n := s.mgmt.fwsel
  if otherBusy s n then fwRefuse s n 2
  else if (ctlAt s n).state ≠ .loaded then fwRefuse s n 3
  else modCtl s n fun c => { c with state := .handOver, priv := priv }

/-- The live tables have been captured, and the new image starts from the record: in probation, and its time to signal runs. -/
def imageStarts (s : State) (n : Nat) : State :=
  if (ctlAt s n).state ≠ .handOver then s
  else modCtl s n fun c =>
    { c with running := c.other, other := c.running, state := .probation, since := s.dtime, capture := liveTables s }

/-- FWCMD 3. -/
def fwAbandon (s : State) : State :=
  let n := s.mgmt.fwsel
  let st := (ctlAt s n).state
  if st = .loaded ∨ st = .rolledBack ∨ st = .refused then
    modCtl s n fun c => { c with other := none, state := .idle, code := 0 }
  else fwRefuse s n 3

/-- Firmware gives a die's pool frames (R219). -/
def poolFrames (s : State) (die : Nat) (l : List (Nat × Nat)) : State := { s with pools := lmod s.pools die fun p => p ++ l }

/-- The same, by the memory controller, for which it waits while that is replaced (R408, R415). -/
def addFrames (s : State) (die : Nat) (l : List (Nat × Nat)) : State :=
  if delayed s 3 then queueFor s 3 (.frames die l) else poolFrames s die l

/-- The turn that serves an event that has waited, where it takes one of its own. -/
def Waiting.turn (w : Waiting) : Option Turn :=
  match w with
  | .crossing r h => some (.crossing r h)
  | .routes l => some (.setRoutes l)
  | .switchDown n => some (.switchDown n)
  | .host .. | .entry .. | .enable .. | .finish .. | .attest .. | .power .. | .frames .. | .island .. | .linkDown .. => none

/-- One event that has waited is served. In hardware mode the report of a link's failure changes nothing here: the controller writes what
routes it chooses (Turn.setRoutes). -/
def serveOne (s : State) (w : Waiting) : State :=
  match w with
  | .host kind args => tellHost s kind args
  | .entry h e time ends => writeEntry s h e time ends
  | .enable r => bindRing s r
  | .finish r i st code lost => finishNow s r i st code lost
  | .crossing .. | .routes .. | .switchDown .. | .linkDown .. => s
  | .attest nonce => attest s nonce
  | .power i mhz => (limitClock s i.toNat mhz).getD s
  | .frames die l => poolFrames s die l
  | .island i step gate => writeIsland s i step gate

/-- The events of a queue are served in the order raised; one that takes a turn of its own comes next, and the rest after it. -/
def serveList (n : Nat) : List Waiting → State → State
  | [], s => s
  | w :: l, s =>
    match w.turn with
    | some t =>
      { modCtl s n (fun c => { c with queue := l }) with agenda := t :: if l.isEmpty then s.agenda else .serve n :: s.agenda }
    | none => serveList n l (serveOne s w)

/-- The events that waited in a controller's input queue are served (R415). -/
def serveQueue (s : State) (n : Nat) : State := serveList n (ctlAt s n).queue (modCtl s n fun c => { c with queue := [] })

/-- The ticks that a new image has (R410). -/
def aliveTicks (s : State) : Nat := s.mgmt.alivedl * 2 ^ 20

/-- An image of nothing. -/
def Image.none : Image := { target := 0, header := [], body := [], sig := [], key := [] }

/-- A write of FWCMD (R410, R415): load of the image that the host has named, hand over, abandon. -/
def fwCommand (s : State) (k : Nat) : State :=
  match k with
  | 1 => fwLoad s (s.mgmt.image.getD Image.none)
  | 2 => fwHandOver { s with freeCtr := s.freeCtr + 1 } (Config.privWords s.freeCtr)
  | 3 => fwAbandon s
  | _ => s

/-- FW_LOAD. -/
def execFwLoad (img : Image) (s : State) : Host.Outcome State Fault Refusal := .next (fwLoad s img)
/-- FW_HAND_OVER. -/
def execFwHandOver (priv : List Byte) (s : State) : Host.Outcome State Fault Refusal := .next (fwHandOver s priv)
/-- FW_ABANDON. -/
def execFwAbandon (s : State) : Host.Outcome State Fault Refusal := .next (fwAbandon s)
/-- FW_ALIVE: in time, the replacement commits. -/
def execFwAlive (ctl : BitVec 3) (s : State) : Host.Outcome State Fault Refusal :=
  happens s <|
  let n := ctl.toNat
  let c := ctlAt s n
  whenOk (decide (c.state = .probation) && decide ((s.dtime - c.since).toNat < aliveTicks s)) fun _ =>
    serveQueue (modCtl s n fun c => { c with state := .idle, other := none, code := 0 }) n
/-- ALIVE_DEADLINE_EXPIRY: the old image starts again from a fresh capture. -/
def execAliveDeadlineExpiry (ctl : BitVec 3) (s : State) : Host.Outcome State Fault Refusal :=
  happens s <|
  let n := ctl.toNat
  let c := ctlAt s n
  whenOk (decide (c.state = .probation) && decide (aliveTicks s ≤ (s.dtime - c.since).toNat)) fun _ =>
    serveQueue (modCtl s n fun c =>
      { c with running := c.other, other := c.running, state := .rolledBack, capture := liveTables s }) n

/-! ### The debug interface (R357, R366) -/

/-- The groups of a grid that are resident. -/
def groupsOf (s : State) (h : Nat) : List Nat :=
  (s.teams.filter fun e => decide (e.2.grid.toNat = h) && e.2.core.isSome).flatMap fun e => e.2.groups

/-- The debug interface is enabled for grid h: a step holds its groups and lets some ready entries issue one instruction. -/
def stepGroups (s : State) (h : Nat) (which : Nat → Bool) : State :=
  (groupsOf s h).foldl (fun s u => modGroup s u fun g =>
    { g with
      hold := true
      splits := g.splits.zipIdx.map fun p =>
        let ready := p.1.valid && (handlerOn g p.2 || (decide (p.1.run = .run) && !p.1.wait))
        { p.1 with step := ready && which p.2 } }) s

/-- Every held stream of grid h becomes ready (R366). -/
def debugResume (s : State) (h : Nat) : State :=
  (groupsOf s h).foldl (fun s u => modGroup s u fun g =>
    { g with hold := false, splits := g.splits.map fun sp => { sp with step := false } }) s

/-- GROUP_STEP. -/
def execGroupStep (handle : BitVec 14) (s : State) : Host.Outcome State Fault Refusal :=
  happens s <|
  whenOk (debugOn s handle.toNat) fun _ => stepGroups s handle.toNat fun _ => true
/-- STREAM_STEP. -/
def execStreamStep (handle : BitVec 14) (entry : BitVec 2) (s : State) : Host.Outcome State Fault Refusal :=
  happens s <|
  whenOk (debugOn s handle.toNat) fun _ => stepGroups s handle.toNat fun e => decide (e = entry.toNat)
/-- DEBUG_RESUME. -/
def execDebugResume (handle : BitVec 14) (s : State) : Host.Outcome State Fault Refusal :=
  .next (debugResume s handle.toNat)

/-! ### Halts and steps of contexts (R334) -/

/-- Whether a halt stops a context in its wait: no chunk of it flows. -/
def SeqWait.idle (w : SeqWait) : Bool :=
  match w with
  | .tx .. | .flag .. | .credit => true
  | .rx op Option.none _ false => op.fwd.isSome
  | _ => false

/-- The context stops at its instruction boundary, or in a wait. -/
def SeqCtx.halted (c : SeqCtx) : SeqCtx :=
  if c.state = .running ∨ c.state = .ready ∨ (c.state = .waiting ∧ c.wait.idle) then { c with state := .halted } else c

/-- A step begins (R334): of a context that has halted, or that halts when its chunk in flight is over; one that waits for a page goes on as it
is. -/
def SeqCtx.stepped (c : SeqCtx) : SeqCtx :=
  let page := match c.wait with
    | .page .. => true
    | _ => false
  { c with step := true, due := c.due || (decide (c.state = .waiting) && !page) }

/-- A halted context goes on. -/
def SeqCtx.resumed (c : SeqCtx) : SeqCtx :=
  if c.state ≠ .halted then c
  else if c.wait = .none ∨ c.wait = .credit then { c with state := .ready, wait := .none } else { c with state := .waiting }

/-- A context goes on, and the sequencer runs it when it is free. -/
def resumeCtx (s : State) (n k : Nat) (f : SeqCtx → SeqCtx) : State :=
  advanceCtx (schedule (modCtx s n k fun c => (f c).resumed) n) n k

/-- SEQ_HALT (R334). HALT = 0 leaves STEP as it is (R301), and a STEP that was written before acts once HALT is set. DESIGN CHOICE (log 70). -/
def execSeqHalt (sq : BitVec 5) (ctx : BitVec 2) (halt : Bool) (s : State) : Host.Outcome State Fault Refusal :=
  let n := sq.toNat
  let k := ctx.toNat
  .next (if !halt then resumeCtx s n k fun c => { c with halt := false, due := false }
         else if (ctxAt s n k).halt then s
         else
           let s := moveCtx s n k fun c => atSwitch SeqCtx.halted { c with halt := true }
           if (ctxAt s n k).step then resumeCtx s n k SeqCtx.stepped else s)
/-- SEQ_STEP (R301, R334): STEP is set, and with HALT = 1 the context runs one instruction, and halts again; a step under way goes on.
DESIGN CHOICE (log 70). -/
def execSeqStep (sq : BitVec 5) (ctx : BitVec 2) (s : State) : Host.Outcome State Fault Refusal :=
  let n := sq.toNat
  let k := ctx.toNat
  let c := ctxAt s n k
  .next (if c.halt && (!c.step || decide (c.state = .halted)) then resumeCtx s n k SeqCtx.stepped
         else modCtx s n k fun c => { c with step := true })

/-! ### Writes to registers (R410, R412) -/

/-- The debug register (R357, R366, R410): the interface's handle and enable; a write of bit 21 resumes the grid, one of bit 17 steps
its groups, and one of bit 18 steps the entry of bits 20 and 19. DEDUCED (log 43). -/
def writeDbgctl (s : State) (v : Word) : State :=
  let s := { s with mgmt := { s.mgmt with dbgctl := v &&& 0x3F3FFF } }
  let s := { s with grids := kmapV (fun h g => { g with debug := debugOn s h }) s.grids }
  let h := v.toNat % 2 ^ 14
  if v.getLsbD 21 then debugResume s h
  else if v.getLsbD 16 && v.getLsbD 17 then stepGroups s h fun _ => true
  else if v.getLsbD 16 && v.getLsbD 18 then stepGroups s h fun e => decide (e = v.toNat / 2 ^ 19 % 4)
  else s

/-- A write to a management register by firmware (fw) or by the host; what they may not write is ignored. -/
def mgmtWrite (s : State) (fw : Bool) (n : Nat) (v : Word) : State :=
  let m := s.mgmt
  let set (m : Mgmt) : State := { s with mgmt := m }
  match n with
  | 1 => if m.fabmode.getLsbD 1 then s else setPkg s (v.extractLsb' 0 12)
  | 4 => set { m with fnmode := v.extractLsb' 0 5 }
  | 5 => let k := v.toNat % 16; if 2 ≤ k ∧ k ≤ 8 then set { m with ecthr := k } else s
  | 6 => let k := v.toNat % 2 ^ 24; if 1 ≤ k ∧ k ≤ 2 ^ 23 then set { m with ecwin := k } else s
  | 7 => if m.fabmode.getLsbD 1 then s else set { m with fabmode := BitVec.ofNat 2 (v.toNat % 2) }
  | 10 => if fw then s else lapprove s (v.toNat % 2 ^ 14)
  | 11 => if v.getLsbD 31 then preqRaise s (v.toNat % 2 ^ 14) else preqWithdraw s (v.toNat % 2 ^ 14)
  | 12 => set { m with fwsel := v.toNat % 8 }
  | 13 => if fw then s else fwCommand s (v.toNat % 4)
  | 15 => let k := v.toNat % 2 ^ 11; if 1 ≤ k ∧ k ≤ 1024 then set { m with alivedl := k } else s
  | 16 => set { m with islsel := v.toNat % 64 }
  | 17 => islandCtl s (some (v.toNat % 16)) (some (v.getLsbD 4))
  | 18 => set { m with retidx := v.toNat % 1024 }
  | 19 => writeRetired s false v
  | 20 => writeRetired s true v
  | 21 => if fw then s else writeDbgctl s v
  | _ => s

/-- A 32-bit half of a 64-bit register. -/
def putHalf (d : DWord) (hi : Bool) (v : Word) : DWord :=
  if hi then v ++ d.extractLsb' 0 32 else d.extractLsb' 32 32 ++ v

/-- A host's write to word k of a ring's register block (R412). -/
def ringWrite (s : State) (r k : Nat) (v : Word) : State :=
  let q := ringAt s r
  let quiet (f : Ring → Ring) : State := if q.enabled then s else modRing s r f
  match k with
  | 0 => quiet fun q => { q with base := putHalf q.base false v &&& 0xFFFFFFFFFFFFFFC0#64 }
  | 1 => quiet fun q => { q with base := putHalf q.base true v }
  | 2 => let k := v.toNat % 16; if 4 ≤ k ∧ k ≤ 12 then quiet fun q => { q with log := k } else s
  | 3 => ringDoorbell s r v
  | 5 =>
    let s := if v.getLsbD 2 then ringRestart s r else s
    if v.getLsbD 0 then ringEnable s r else ringDisable s r
  | 6 => quiet fun q => { q with rspace := putHalf q.rspace false v }
  | 7 => quiet fun q => { q with rspace := putHalf q.rspace true v }
  | _ => s

/-- MGMT_REGISTER_WRITE at a byte offset of BAR0. -/
def execMgmtRegisterWrite (fw : Bool) (off v : Word) (s : State) : Host.Outcome State Fault Refusal :=
  let n := off.toNat
  .next (if n % 4 ≠ 0 then s
         else if n < 0x10000 then mgmtWrite s fw (n / 4) v
         else if n < 0x10800 ∧ ¬ fw then ringWrite s ((n - 0x10000) / 32) (n % 32 / 4) v
         else s)

/-- LAPPROVE (R409). -/
def execLapprove (handle : BitVec 14) (s : State) : Host.Outcome State Fault Refusal := .next (lapprove s handle.toNat)
/-- PREQ_RAISE (R62). -/
def execPreqRaise (handle : BitVec 14) (s : State) : Host.Outcome State Fault Refusal := .next (preqRaise s handle.toNat)
/-- PREQ_WITHDRAW (R62). -/
def execPreqWithdraw (handle : BitVec 14) (s : State) : Host.Outcome State Fault Refusal :=
  .next (preqWithdraw s handle.toNat)
/-- ISLAND_STEP (R416). -/
def execIslandStep (k : BitVec 4) (s : State) : Host.Outcome State Fault Refusal :=
  .next (islandCtl s (some k.toNat) none)
/-- ISLAND_GATE (R416). -/
def execIslandGate (gate : Bool) (s : State) : Host.Outcome State Fault Refusal :=
  .next (islandCtl s none (some gate))

/-- A host's read of word k of a ring's register block (R412): the reserved bits, and [2], which restarts, read zero. -/
def ringRead (s : State) (r k : Nat) : Word :=
  let q := ringAt s r
  match k with
  | 0 => q.base.extractLsb' 0 32
  | 1 => q.base.extractLsb' 32 32
  | 2 => BitVec.ofNat 32 (q.log % 16)
  | 3 => q.tail
  | 4 => q.head
  | 5 => BitVec.ofNat 32 ((if q.enabled then 1 else 0) + (if q.stopped then 2 else 0) + (if q.bad then 8 else 0))
  | 6 => q.rspace.extractLsb' 0 32
  | 7 => q.rspace.extractLsb' 32 32
  | _ => 0

/-- A host's read of a management register: what grants the host no R reads zero (R410). -/
def hostRead (s : State) (n : Nat) : Word :=
  let num (v : Nat) : Word := BitVec.ofNat 32 v
  match n with
  | 5 => num s.mgmt.ecthr
  | 6 => num s.mgmt.ecwin
  | 7 => s.mgmt.fabmode.zeroExtend 32
  | 8 => s.mgmt.hnote
  | 9 => num (poolFree s 0 % 2 ^ 24)
  | 12 => num s.mgmt.fwsel
  | 14 =>
    let c := ctlAt s s.mgmt.fwsel
    let st := match c.state with
      | .idle => 0 | .loaded => 1 | .handOver => 2 | .probation => 3 | .rolledBack => 4 | .refused => 5
    num (st + 2 ^ 8 * c.code)
  | 15 => num s.mgmt.alivedl
  | 16 => num s.mgmt.islsel
  | 17 => let i := s.islands.getD s.mgmt.islsel Island.init
          num (i.step + (if i.gate then 16 else 0) + 2 ^ 16 * i.mhz)
  | 18 => num s.mgmt.retidx
  | 19 => num ((retiredAt s s.mgmt.retidx).toNat % 2 ^ 32)
  | 20 => num ((retiredAt s s.mgmt.retidx).toNat / 2 ^ 32)
  | 21 => s.mgmt.dbgctl
  | _ => (handlerRead s 0 n).getD 0

/-- A host's read at a byte offset of BAR0 (R410, R412). -/
def barRead (s : State) (off : Nat) : Word :=
  if off % 4 ≠ 0 then 0
  else if off < 0x10000 then hostRead s (off / 4)
  else if off < 0x10800 then ringRead s ((off - 0x10000) / 32) (off % 32 / 4)
  else 0

/-- The island in which controller n runs, in the order of R23 (R408). -/
def ctlIsland (n : Nat) : Nat := if n < 4 then 63 else 62

end Sys2Proof.Machine
end

