-- ==== Sys2Proof/Machine/Coherence.lean ====
section
/-! DEFINITION. The coherence protocol (R247 to R262): what an L2 of this package does on answers, regions and switches, recovery, lost
packages, and the host's accesses over CXL. Memory itself holds one value per byte (R233); these events move the states. -/

namespace Sys2Proof.Machine

/-! ### Answers at a requester (R249) -/

/-- A request of an L2 of this package. -/
def mshrOf (s : State) (die : BitVec 2) (line : Nat) (f : Mshr → Bool) : Option Mshr :=
  s.coh.mshrs.find? fun m => decide (m.die = die ∧ m.line = line) && f m

/-- A response reaches an L2: from the home here, as sent, or from elsewhere. -/
def response (s : State) (kind : String) (die : BitVec 2) (line : Nat) : Option State :=
  if ownLine s line then takeCoh s [kind] (fun _ => true) (· == .die die) line else some s

/-- A request is over. -/
def dropMshr (s : State) (m : Mshr) : State := modCoh s fun c => { c with mshrs := c.mshrs.erase m }

/-- After an answer has changed a line, the requests that wait for one of its L2, or for a tag, are tried, and the home serves what it may. -/
def afterAnswer (s : State) : State := pumpAll (retryBacklog s)

/-- The response that grants a state. -/
def dataName (st : LineState) : Option String :=
  match st with
  | .shared => some "DataS"
  | .excl => some "DataE"
  | .modified => some "DataM"
  | _ => none

/-- A grant of a state answers a kind of request. -/
def grants (st : LineState) (k : CohKind) : Bool :=
  match st, k with
  | .shared, .readShared | .excl, .readShared | .modified, .readOwn => true
  | _, _ => false

/-! ### Lost packages (R260) -/

/-- A fabric error is reported to the host and recorded for each grid: no home knows whose access it serves. -/
def fabricError (s : State) (detail line p : Nat) : State :=
  let s := ctlTell s 2 "fabric error" [detail, line, p]
  (s.grids.map (·.1)).foldl (fun s h => report s h 0 0 0x4A detail 0 0 0 false) s

/-- The grants that wait for a node, all of them answered at once. -/
def answerAll : Nat → CohNode → State → State
  | 0, _, s => s
  | fuel + 1, n, s =>
    match s.coh.grants.find? fun g => g.waits.any fun w => w.1 == n with
    | none => s
    | some g => answerAll fuel n (answered s g.line n)

/-- A package is declared lost over a line. DESIGN CHOICE (log 31). -/
def declareLost (s : State) (line : Nat) (p : BitVec 12) : State :=
  let s := fabricError s 1 line p.toNat
  let s := ctlTell s 2 "withdraw routes" [p.toNat]
  let (k, s) := pick s 2
  let s := { s with poison := kset s.poison line (4 + k) }
  let s := modCoh s fun c => { c with lost := p :: c.lost }
  answerAll (s.coh.grants.map fun g => g.waits.length).sum (.pkg p) s

/-! ### The events -/

/-- READ_SHARED. -/
def execReadShared (r : CohReq) (s : State) : Host.Outcome State Fault Refusal := happens s (atHome .readShared r s)
/-- READ_OWN. -/
def execReadOwn (r : CohReq) (s : State) : Host.Outcome State Fault Refusal := happens s (atHome .readOwn r s)
/-- UPGRADE. -/
def execUpgrade (r : CohReq) (s : State) : Host.Outcome State Fault Refusal := happens s (atHome .upgrade r s)
/-- WRITE_BACK. -/
def execWriteBack (r : CohReq) (s : State) : Host.Outcome State Fault Refusal := happens s (atHome .writeBack r s)
/-- CLEAN_EVICT. -/
def execCleanEvict (r : CohReq) (s : State) : Host.Outcome State Fault Refusal := happens s (atHome .cleanEvict r s)
/-- ATOMIC_AT_HOME. -/
def execAtomicAtHome (r : CohReq) (s : State) : Host.Outcome State Fault Refusal := happens s (atHome .atomic r s)
/-- FWD_SHARED. -/
def execFwdShared (n : Snoop) (s : State) : Host.Outcome State Fault Refusal :=
  happens s (snoopL2 "FwdShared" (fwdAnswer true) n s)
/-- FWD_OWN. -/
def execFwdOwn (n : Snoop) (s : State) : Host.Outcome State Fault Refusal :=
  happens s (snoopL2 "FwdOwn" (fwdAnswer false) n s)
/-- INVALIDATE. -/
def execInvalidate (n : Snoop) (s : State) : Host.Outcome State Fault Refusal :=
  happens s (snoopL2 "Invalidate" invAnswer n s)
/-- BACK_INVALIDATE. -/
def execBackInvalidate (n : Snoop) (s : State) : Host.Outcome State Fault Refusal :=
  happens s (snoopL2 "BackInvalidate" invAnswer n s)

/-- DATA_RESPONSE. -/
def execDataResponse (die : BitVec 2) (line : Nat) (st : LineState) (s : State) : Host.Outcome State Fault Refusal :=
  happens s <|
  match mshrOf s die line fun m => grants st m.kind, (dataName st).bind fun k => response s k die line with
  | some m, some s => some (afterAnswer (l2Put (dropMshr s m) die.toNat line st))
  | _, _ => none

/-- A request is sent again with its stamp, which is that of its first issue (R258); an Upgrade of a line that has gone is sent as a ReadOwn
(R259). -/
def sendAgain (s : State) (m : Mshr) : State :=
  let kind := if m.kind = .upgrade ∧ l2At s m.die.toNat m.line = .inv then .readOwn else m.kind
  let n : Mshr := { m with kind := kind, sentAt := s.dtime, taken := false, unsent := false }
  sendReq (modCoh s fun c => { c with mshrs := c.mshrs.map fun x => if x = m then n else x }) n

/-- A request that Ack answers. -/
def CohKind.acked (k : CohKind) : Bool :=
  match k with
  | .upgrade | .writeBack | .cleanEvict | .atomic => true
  | .readShared | .readOwn => false

/-- ACK: an upgrade is accepted, or an eviction or an atomic is done. Where a snoop has taken the line of the Upgrade meanwhile, it is asked for
with its data (R249, R259). -/
def execAck (die : BitVec 2) (line : Nat) (s : State) : Host.Outcome State Fault Refusal :=
  happens s <|
  match mshrOf s die line fun m => m.kind.acked, response s "Ack" die line with
  | some m, some s =>
    some (afterAnswer (if m.kind ≠ .upgrade then dropMshr s m
      else if l2At s die.toNat line = .inv then sendAgain s m
      else setL2 (dropMshr s m) die.toNat line .modified))
  | _, _ => none

/-- RETRY: the request is sent again. -/
def execRetry (die : BitVec 2) (line : Nat) (s : State) : Host.Outcome State Fault Refusal :=
  happens s <|
  match mshrOf s die line fun _ => true, response s "Retry" die line with
  | some m, some s => some (sendAgain s m)
  | _, _ => none

/-- SNOOP_RESPONSE: an answer that nothing waits for is discarded (R260). -/
def execSnoopResponse (line : Nat) (src : CohNode) (data : Bool) (s : State) : Host.Outcome State Fault Refusal :=
  happens s <|
  match src with
  | .die d =>
    match takeCoh s [if data then "DataFwd" else "InvAck"] (· == .die d) (fun _ => true) line with
    | some s => some (answered s line src)
    | none => none
  | .pkg _ | .switch _ => some (answered s line src)
  | .host => none

/-- L2_EVICTION: of a home line no request tells. -/
def execL2Eviction (die : BitVec 2) (line : Nat) (s : State) : Host.Outcome State Fault Refusal :=
  happens s <|
  let busy := s.coh.mshrs.any fun m => decide (m.die = die ∧ m.line = line)
  whenOk (!busy && decide (l2At s die.toNat line ≠ .inv)) fun _ => l2Evict s die.toNat line

/-- A region of this package's device memory. -/
def ownRegion (s : State) (r : Nat) : Bool := ownLine s (r * 32)

/-- A sweep of a region is under way. -/
def sweeping (s : State) (region : Nat) : Bool :=
  s.coh.grants.any fun g => decide (g.role = .sweep ∧ regionOf g.line = region)

/-- Lines of a region may be granted again by a switch, unseen by the home. -/
def forgetGone (s : State) (region : Nat) : State :=
  modCoh s fun c => { c with gone := c.gone.filter fun e => decide (regionOf e.1 ≠ region) }

/-- SHADOW_NOTE (R255): the switch gets its Ack. Where a sweep is under way the note waits for its end. DEDUCED (log 31). -/
def execShadowNote (region : Nat) (m : ShadowMsg) (s : State) : Host.Outcome State Fault Refusal :=
  happens s <|
  whenOk (ownRegion s region && !sweeping s region) fun _ =>
    sendCoh (modRegion (forgetGone s region) region fun g => { g with shadow := g.shadow ||| shadowBit m.pkg, swept := false })
      "Ack" (selfNode s) (.switch m.switch) (region * 32) (noStamp s)

/-- TRACK (R257): accepted only after a sweep. -/
def execTrack (region : Nat) (switch : BitVec 12) (s : State) : Host.Outcome State Fault Refusal :=
  happens s <|
  whenOk (ownRegion s region && !delayed s 3) fun _ =>
    let g := regionAt s region
    if g.swept && !g.tracked then modRegion (forgetGone s region) region fun g => { g with tracked := true, switch := switch } else s

/-- UNTRACK (R257): the switch gets its acknowledgement. -/
def execUntrack (region : Nat) (s : State) : Host.Outcome State Fault Refusal :=
  happens s <|
  whenOk (ownRegion s region) fun _ =>
    sendCoh (modRegion s region fun g => { g with tracked := false })
      "Ack" (selfNode s) (.switch (regionAt s region).switch) (region * 32) (noStamp s)

/-- REGION_SWEEP (R257): Invalidates go out for its 32 lines; SHADOW is cleared once all are answered. -/
def execRegionSweep (region : Nat) (s : State) : Host.Outcome State Fault Refusal :=
  happens s <|
  let g := regionAt s region
  whenOk (ownRegion s region && !delayed s 3 && !g.tracked && !(s.coh.grants.any fun x => decide (regionOf x.line = region))) fun _ =>
    let l := (coveredBy s g.shadow .host).map CohNode.pkg
    if l.isEmpty then modRegion s region fun g => { g with shadow := 0, swept := true }
    else
      (List.range 32).foldl (fun s k =>
        let r : CohReq := { line := region * 32 + k, src := selfNode s, stamp := noStamp s, payload := .none }
        addGrant (sendSnoops s .readOwn r r.line (l.map fun n => ("Invalidate", n))) r.line .sweep .readOwn r l "") s

/-- REQUEST_REISSUE (R258): directly to the home. -/
def execRequestReissue (tag : BitVec 12) (s : State) : Host.Outcome State Fault Refusal :=
  happens s <|
  match s.coh.mshrs.find? fun m => decide (m.stamp.tag = tag) with
  | none => none
  | some m =>
    whenOk (!ownLine s m.line && decide (homeNode m.line ≠ .host) && decide (50000 ≤ (s.dtime - m.sentAt).toNat)) fun _ =>
      let n : Mshr := { m with sentAt := s.dtime }
      sendReq (modCoh s fun c => { c with mshrs := c.mshrs.map fun x => if x = m then n else x }) n

/-- A grant that waits for a switch which has failed waits for the packages that SHADOW covers in its place, from now on (R257, R258, R260). -/
def waitByShadow (switch : BitVec 12) (s : State) (g : Grant) : State :=
  if g.waits.any fun w => w.1 == .switch switch then
    let l := (coveredBy s (regionAt s (regionOf g.line)).shadow g.req.src).map CohNode.pkg
    let h := { g with waits := g.waits ++ l.map (fun n => (n, 1)), late := g.late ++ l.map fun n => (n, s.dtime) }
    let s := modCoh s fun c => { c with grants := c.grants.map fun x => if x = g then h else x }
    answered (sendSnoops s g.kind g.req g.line (l.map fun n => ("Invalidate", n))) g.line (.switch switch)
  else s

/-- A switch has failed (R258, R409): its regions are untracked, and their windows open; in host-assisted mode the host is told. -/
def switchFailed (s : State) (switch : BitVec 12) : State :=
  let hit (g : Region) : Bool := g.tracked && decide (g.switch = switch)
  let s := modCoh s fun c =>
    { c with
      affected := (c.regions.filter fun e => hit e.2).foldl (fun m e => kset m e.1 (s.dtime + 100000)) c.affected
      regions := c.regions.map fun e => if hit e.2 then (e.1, { e.2 with tracked := false }) else e }
  let s := s.coh.grants.foldl (waitByShadow switch) s
  if hostMode s 3 then ctlTell s 2 "switch down" [switch.toNat] else s

/-- SWITCH_FAILURE: the fabric controller's report, for which it waits while that is replaced (R408, R415). -/
def execSwitchFailure (switch : BitVec 12) (s : State) : Host.Outcome State Fault Refusal :=
  .next (if delayed s 2 then queueFor s 2 (.switchDown switch) else switchFailed s switch)

/-- Stamp order (R258). -/
def stampLe (a b : Stamp) : Bool :=
  decide (a.time.toNat < b.time.toNat) || (decide (a.time = b.time) &&
    (decide (a.pkg.toNat < b.pkg.toNat) || (decide (a.pkg = b.pkg) && decide (a.tag.toNat ≤ b.tag.toNat))))

/-- A request placed in a list that is in stamp order. -/
def insertReq (q : CohKind × CohReq) : List (CohKind × CohReq) → List (CohKind × CohReq)
  | [] => [q]
  | x :: l => if stampLe q.2.stamp x.2.stamp then q :: x :: l else x :: insertReq q l

/-- RECOVERY_WINDOW_END (R258): what the closed windows have collected is served in the order of stamps. -/
def execRecoveryWindowEnd (s : State) : Host.Outcome State Fault Refusal :=
  happens s <|
  let past (e : Nat × DWord) : Bool := decide (e.2.toNat ≤ s.dtime.toNat)
  whenOk (s.coh.affected.any past) fun _ =>
    let s := modCoh s fun c => { c with affected := c.affected.filter fun e => !past e }
    let (now, later) := s.coh.collected.partition fun q => !collecting s q.2.line
    let l := now.foldr insertReq []
    let s := modCoh s fun c => { c with collected := later, queue := c.queue ++ l }
    l.foldl (fun s q => pumpLine s q.2.line) s

/-- INVALIDATE_RESEND (R260): after the fourth send the package is lost. -/
def execInvalidateResend (line : Nat) (pkg : BitVec 12) (s : State) : Host.Outcome State Fault Refusal :=
  happens s <|
  let n : CohNode := .pkg pkg
  match s.coh.grants.find? fun g => decide (g.line = line) && g.waits.any fun w => w.1 == n with
  | none => none
  | some g =>
    let k := ((g.waits.find? fun w => w.1 == n).map (·.2)).getD 1
    whenOk (decide (50000 * k ≤ (s.dtime - g.startOf n).toNat)) fun _ =>
      if 4 ≤ k then declareLost s line pkg
      else
        let h := { g with waits := g.waits.map (fun w => if w.1 = n then (w.1, k + 1) else w), reported := true }
        let s := modCoh s fun c => { c with grants := c.grants.map fun x => if x = g then h else x }
        let s := sendCoh s "Invalidate" (snoopSrc s g.kind g.req) n line g.req.stamp
        if g.reported then s else fabricError s 0 line pkg.toNat

/-- The answer of an L2 to a snoop of the host (R261). -/
def hostAnswer (kind : HostSnoop) (st : LineState) : String × LineState :=
  match kind, st with
  | _, .inv => ("RspIHitI", .inv)
  | .invalidate, .modified => ("RspIFwdM", .inv)
  | .invalidate, .owned => ("RspIFwdM", .inv)
  | .invalidate, _ => ("RspIHitSE", .inv)
  | .data, .modified => ("RspSFwdM", .shared)
  | .data, .owned => ("RspSFwdM", .shared)
  | .data, _ => ("RspSHitSE", .shared)
  | .current, .modified => ("RspVFwdV", .modified)
  | .current, .owned => ("RspVFwdV", .owned)
  | .current, l => ("RspVHitV", l)

/-- HOST_SNOOP (R261). PRESUMED (log 32). -/
def execHostSnoop (die : BitVec 2) (line : Nat) (kind : HostSnoop) (s : State) : Host.Outcome State Fault Refusal :=
  happens s <|
  whenOk (decide (homeNode line = .host)) fun _ =>
    let r := hostAnswer kind (l2At s die.toNat line)
    sendCoh (setL2 s die.toNat line r.2) r.1 (.die die) .host line (noStamp s)

/-- BISNP_RESPONSE (R261): the host's dirty data is in memory, which holds one value per byte. -/
def execBisnpResponse (line : Nat) (_ : Bool) (s : State) : Host.Outcome State Fault Refusal :=
  happens s <|
  match takeCoh s ["BISnpInv", "BISnpData"] (fun _ => true) (· == .host) line with
  | some s => some (answered s line .host)
  | none => none

/-- The copies of a line in this package give way to the host's access: a read leaves copies that only read, a write leaves none. -/
def yieldToHost (s : State) (line : Nat) (write : Bool) : State :=
  let s := modCoh s fun c => { c with l2 := c.l2.map fun m => kmod m line afterRead }
  if write then
    let s := modCoh s fun c => { c with l2 := c.l2.map fun m => kdel m line, hostLines := c.hostLines.filter (· ≠ line) }
    let s := setDir s line none
    let r : CohReq := { line := line, src := .host, stamp := noStamp s, payload := .none }
    let l := awaySnoops s line .host "Invalidate"
    let s := sendSnoops s .readOwn r line l
    if l.isEmpty then s else addGrant s line .silent .readOwn r (l.map (·.2)) ""
  else
    let s := modCoh s fun c => { c with hostLines := if c.hostLines.contains line then c.hostLines else line :: c.hostLines }
    match kget s.coh.dir line with
    | some (.owned d l) => if l2At s d.toNat line = .shared then setDir s line (some (.shared (d :: l))) else s
    | _ => s

/-- HOST_MEMORY_ACCESS (R262): a read of n bytes, answered with their value or as poison, or a write. The home serves it in its turn (R250).
DEDUCED (log 45). -/
def execHostMemoryAccess (pa : BitVec 52) (n : Nat) (data : Option (List Byte)) (s : State) :
    Host.Outcome State Fault Refusal :=
  happens s <|
  let a := pa.toNat
  whenOk (decide (0 < n) && ownLine s (a / 128) && decide (a / 128 = (a + n - 1) / 128) && !targetRefuses s a
      && !lineBusy s (a / 128)) fun _ =>
    match data with
    | some l => yieldToHost { s with mem := writeList s.mem a (l.take n) } (a / 128) true
    | none =>
      let s := yieldToHost s (a / 128) false
      if (poisonAt s a n).isSome then tellHost s "poison" [a]
      else tellHost s "data" [a, ofBytes (readList s.mem a n)]

end Sys2Proof.Machine
end

