-- ==== Sys2Proof/Machine/Scalar.lean ====
section
/-! DEFINITION. Class 001: scalar and condition instructions (R86, R124, R141 to R145). -/

namespace Sys2Proof.Machine

/-- The two scalar sources of a slice. -/
def scal2 (w : ExtArgs) (f : Word → Word → Word) (x : Ctx) : List RegWrite × Flags :=
  sliceOp w (fun x k => f (x.s k w.a.toNat) (x.bS w k)) x

/-- Bits [63:32] of the exact product, signed or unsigned (R141, R147). -/
def mulHigh {n : Nat} (unsigned : Bool) (a b : BitVec n) : BitVec n :=
  if unsigned then BitVec.ofNat n (a.toNat * b.toNat / 2 ^ n)
  else BitVec.ofInt n (a.toInt * b.toInt / (2 ^ n : Nat))

/-- A left shift; zero when the count reaches the width (R141, R147). -/
def shiftL {n : Nat} (a : BitVec n) (c : Word) : BitVec n := if n ≤ c.toNat then 0 else a <<< c.toNat

/-- A right shift filling with zero. -/
def shiftR {n : Nat} (a : BitVec n) (c : Word) : BitVec n := if n ≤ c.toNat then 0 else a >>> c.toNat

/-- A right shift filling with the sign bit. -/
def shiftA {n : Nat} (a : BitVec n) (c : Word) : BitVec n := a.sshiftRight (min c.toNat n)

/-- The smaller or larger of two values, signed or unsigned. -/
def minMax {n : Nat} (max unsigned : Bool) (a b : BitVec n) : BitVec n :=
  let lt := if unsigned then decide (a.toNat < b.toNat) else decide (a.toInt < b.toInt)
  if lt != max then a else b

/-- The number of 1 bits. -/
def popCount {n : Nat} (a : BitVec n) : Nat := (List.range n).foldl (fun c i => if a.getLsbD i then c + 1 else c) 0

def semSmov (w : ExtArgs) : Ctx → List RegWrite × Flags := sliceOp w fun x k => x.s k w.a.toNat
def semSadd (w : ExtArgs) : Ctx → List RegWrite × Flags := scal2 w fun a b => a + b
def semSsub (w : ExtArgs) : Ctx → List RegWrite × Flags := scal2 w fun a b => a - b
def semSmul (w : ExtArgs) : Ctx → List RegWrite × Flags := scal2 w fun a b => a * b
def semSmulh (w : ExtArgs) : Ctx → List RegWrite × Flags := scal2 w (mulHigh (w.sub.getLsbD 0))
def semSand (w : ExtArgs) : Ctx → List RegWrite × Flags := scal2 w fun a b => a &&& b
def semSor (w : ExtArgs) : Ctx → List RegWrite × Flags := scal2 w fun a b => a ||| b
def semSxor (w : ExtArgs) : Ctx → List RegWrite × Flags := scal2 w fun a b => a ^^^ b
def semSshl (w : ExtArgs) : Ctx → List RegWrite × Flags := scal2 w shiftL
def semSshr (w : ExtArgs) : Ctx → List RegWrite × Flags := scal2 w shiftR
def semSsra (w : ExtArgs) : Ctx → List RegWrite × Flags := scal2 w shiftA
def semSmin (w : ExtArgs) : Ctx → List RegWrite × Flags := scal2 w (minMax false (w.sub.getLsbD 0))
def semSmax (w : ExtArgs) : Ctx → List RegWrite × Flags := scal2 w (minMax true (w.sub.getLsbD 0))

/-- SSEL (R142): by the condition that AUX names; the base form by C0. -/
def semSsel (w : ExtArgs) : Ctx → List RegWrite × Flags :=
  sliceOp w fun x k => if x.c k (auxSel w) then x.s k w.a.toNat else x.bS w k

/-- SPOPC (R142). -/
def semSpopc (w : ExtArgs) : Ctx → List RegWrite × Flags :=
  sliceOp w fun x k => BitVec.ofNat 32 (popCount (x.s k w.a.toNat))

/-- SCMP (R143). -/
def semScmp (w : ExtArgs) (x : Ctx) : List RegWrite × Flags :=
  (x.sl.flatMap fun k =>
    let t := intCompare (cdCode w) (x.s k w.a.toNat) (x.bS w k)
    x.wc k (cdDest w) (combineBit (combOf w) t (x.c k (auxSel w) != auxInv w)), 0)

/-- VOTE (R144): ballot, all and any over the lanes of the stream. -/
def semVote (w : ExtArgs) (x : Ctx) : List RegWrite × Flags :=
  let p (l : Nat) : Bool := x.p l w.a.toNat
  let r := match w.sub.toNat with
    | 0 =>
      let m := laneMask (x.lanes.filter p)
      if x.g.width = 64 then x.sl.flatMap fun k => x.wss k w.d.toNat m
      else x.wsAll w.d.toNat (m.extractLsb' 0 32)
    | 1 => x.sl.flatMap fun k => x.wc k w.d.toNat (x.lanes.all p)
    | _ => x.sl.flatMap fun k => x.wc k w.d.toNat (x.lanes.any p)
  (r, 0)

/-- CAND, COR and CXOR (R145). -/
def condLogic (w : ExtArgs) (f : Bool → Bool → Bool) (x : Ctx) : List RegWrite × Flags :=
  (x.sl.flatMap fun k =>
    x.wc k w.d.toNat (f (x.c k w.a.toNat != w.sub.getLsbD 0) (x.c k w.b.toNat != w.sub.getLsbD 1)), 0)

def semCand (w : ExtArgs) : Ctx → List RegWrite × Flags := condLogic w and
def semCor (w : ExtArgs) : Ctx → List RegWrite × Flags := condLogic w or
def semCxor (w : ExtArgs) : Ctx → List RegWrite × Flags := condLogic w bne

/-- SETC (R145). -/
def semSetc (w : ExtArgs) (x : Ctx) : List RegWrite × Flags :=
  (x.sl.flatMap fun k => x.wc k w.d.toNat (decide (x.s k w.a.toNat ≠ 0)), 0)

/-- How SLI issues. -/
def howSli (y : Bool) (d : BitVec 7) (lit : Bool) : IssueHow :=
  { len := if lit then 12 else 4, cls := 1, wait := y, isYield := false, compare := fun _ => false,
    chk := fun c => rawCheck (some c) (.sli y d 0) }

/-- SLI (R124): the value into S[d] of each issuing slice. -/
def semSli (d : BitVec 7) (v : Word) (x : Ctx) : List RegWrite × Flags := (x.wsAll d.toNat v, 0)

/-- SLI, base form: the sign-extended immediate. -/
def execSli (y : Bool) (d : BitVec 7) (imm : BitVec 14) (s : State) : Host.Outcome State Fault Refusal :=
  issueRegs (howSli y d false) (semSli d (imm.signExtend 32)) s

/-- SLI, base form with a literal: literal [31:0]. -/
def execSliL (y : Bool) (d : BitVec 7) (lit : DWord) (s : State) : Host.Outcome State Fault Refusal :=
  issueRegs (howSli y d true) (semSli d (lit.extractLsb' 0 32)) s

/-- SMOV, base form. -/
def execSmov (w : BaseArgs) (s : State) : Host.Outcome State Fault Refusal :=
  issueRegs (howOp 0x21 false (w.ext none)) (semSmov (w.ext none)) s

/-- SMOV, extended form. -/
def execSmovX (w : ExtArgs) (s : State) : Host.Outcome State Fault Refusal :=
  issueRegs (howOp 0x21 true w) (semSmov w) s

/-- SADD, base form. -/
def execSadd (w : BaseArgs) (s : State) : Host.Outcome State Fault Refusal :=
  issueRegs (howOp 0x22 false (w.ext none)) (semSadd (w.ext none)) s

/-- SADD, base form with a literal. -/
def execSaddL (w : BaseArgs) (lit : DWord) (s : State) : Host.Outcome State Fault Refusal :=
  issueRegs (howOp 0x22 false (w.ext (some lit))) (semSadd (w.ext (some lit))) s

/-- SADD, extended form. -/
def execSaddX (w : ExtArgs) (s : State) : Host.Outcome State Fault Refusal :=
  issueRegs (howOp 0x22 true w) (semSadd w) s

/-- SSUB, base form. -/
def execSsub (w : BaseArgs) (s : State) : Host.Outcome State Fault Refusal :=
  issueRegs (howOp 0x23 false (w.ext none)) (semSsub (w.ext none)) s

/-- SSUB, base form with a literal. -/
def execSsubL (w : BaseArgs) (lit : DWord) (s : State) : Host.Outcome State Fault Refusal :=
  issueRegs (howOp 0x23 false (w.ext (some lit))) (semSsub (w.ext (some lit))) s

/-- SSUB, extended form. -/
def execSsubX (w : ExtArgs) (s : State) : Host.Outcome State Fault Refusal :=
  issueRegs (howOp 0x23 true w) (semSsub w) s

/-- SMUL, base form. -/
def execSmul (w : BaseArgs) (s : State) : Host.Outcome State Fault Refusal :=
  issueRegs (howOp 0x24 false (w.ext none)) (semSmul (w.ext none)) s

/-- SMUL, base form with a literal. -/
def execSmulL (w : BaseArgs) (lit : DWord) (s : State) : Host.Outcome State Fault Refusal :=
  issueRegs (howOp 0x24 false (w.ext (some lit))) (semSmul (w.ext (some lit))) s

/-- SMUL, extended form. -/
def execSmulX (w : ExtArgs) (s : State) : Host.Outcome State Fault Refusal :=
  issueRegs (howOp 0x24 true w) (semSmul w) s

/-- SMULH, base form. -/
def execSmulh (w : BaseArgs) (s : State) : Host.Outcome State Fault Refusal :=
  issueRegs (howOp 0x25 false (w.ext none)) (semSmulh (w.ext none)) s

/-- SMULH, base form with a literal. -/
def execSmulhL (w : BaseArgs) (lit : DWord) (s : State) : Host.Outcome State Fault Refusal :=
  issueRegs (howOp 0x25 false (w.ext (some lit))) (semSmulh (w.ext (some lit))) s

/-- SMULH, extended form. -/
def execSmulhX (w : ExtArgs) (s : State) : Host.Outcome State Fault Refusal :=
  issueRegs (howOp 0x25 true w) (semSmulh w) s

/-- SAND, base form. -/
def execSand (w : BaseArgs) (s : State) : Host.Outcome State Fault Refusal :=
  issueRegs (howOp 0x26 false (w.ext none)) (semSand (w.ext none)) s

/-- SAND, base form with a literal. -/
def execSandL (w : BaseArgs) (lit : DWord) (s : State) : Host.Outcome State Fault Refusal :=
  issueRegs (howOp 0x26 false (w.ext (some lit))) (semSand (w.ext (some lit))) s

/-- SAND, extended form. -/
def execSandX (w : ExtArgs) (s : State) : Host.Outcome State Fault Refusal :=
  issueRegs (howOp 0x26 true w) (semSand w) s

/-- SOR, base form. -/
def execSor (w : BaseArgs) (s : State) : Host.Outcome State Fault Refusal :=
  issueRegs (howOp 0x27 false (w.ext none)) (semSor (w.ext none)) s

/-- SOR, base form with a literal. -/
def execSorL (w : BaseArgs) (lit : DWord) (s : State) : Host.Outcome State Fault Refusal :=
  issueRegs (howOp 0x27 false (w.ext (some lit))) (semSor (w.ext (some lit))) s

/-- SOR, extended form. -/
def execSorX (w : ExtArgs) (s : State) : Host.Outcome State Fault Refusal :=
  issueRegs (howOp 0x27 true w) (semSor w) s

/-- SXOR, base form. -/
def execSxor (w : BaseArgs) (s : State) : Host.Outcome State Fault Refusal :=
  issueRegs (howOp 0x28 false (w.ext none)) (semSxor (w.ext none)) s

/-- SXOR, base form with a literal. -/
def execSxorL (w : BaseArgs) (lit : DWord) (s : State) : Host.Outcome State Fault Refusal :=
  issueRegs (howOp 0x28 false (w.ext (some lit))) (semSxor (w.ext (some lit))) s

/-- SXOR, extended form. -/
def execSxorX (w : ExtArgs) (s : State) : Host.Outcome State Fault Refusal :=
  issueRegs (howOp 0x28 true w) (semSxor w) s

/-- SSHL, base form. -/
def execSshl (w : BaseArgs) (s : State) : Host.Outcome State Fault Refusal :=
  issueRegs (howOp 0x29 false (w.ext none)) (semSshl (w.ext none)) s

/-- SSHL, base form with a literal. -/
def execSshlL (w : BaseArgs) (lit : DWord) (s : State) : Host.Outcome State Fault Refusal :=
  issueRegs (howOp 0x29 false (w.ext (some lit))) (semSshl (w.ext (some lit))) s

/-- SSHL, extended form. -/
def execSshlX (w : ExtArgs) (s : State) : Host.Outcome State Fault Refusal :=
  issueRegs (howOp 0x29 true w) (semSshl w) s

/-- SSHR, base form. -/
def execSshr (w : BaseArgs) (s : State) : Host.Outcome State Fault Refusal :=
  issueRegs (howOp 0x2A false (w.ext none)) (semSshr (w.ext none)) s

/-- SSHR, base form with a literal. -/
def execSshrL (w : BaseArgs) (lit : DWord) (s : State) : Host.Outcome State Fault Refusal :=
  issueRegs (howOp 0x2A false (w.ext (some lit))) (semSshr (w.ext (some lit))) s

/-- SSHR, extended form. -/
def execSshrX (w : ExtArgs) (s : State) : Host.Outcome State Fault Refusal :=
  issueRegs (howOp 0x2A true w) (semSshr w) s

/-- SSRA, base form. -/
def execSsra (w : BaseArgs) (s : State) : Host.Outcome State Fault Refusal :=
  issueRegs (howOp 0x2B false (w.ext none)) (semSsra (w.ext none)) s

/-- SSRA, base form with a literal. -/
def execSsraL (w : BaseArgs) (lit : DWord) (s : State) : Host.Outcome State Fault Refusal :=
  issueRegs (howOp 0x2B false (w.ext (some lit))) (semSsra (w.ext (some lit))) s

/-- SSRA, extended form. -/
def execSsraX (w : ExtArgs) (s : State) : Host.Outcome State Fault Refusal :=
  issueRegs (howOp 0x2B true w) (semSsra w) s

/-- SMIN, base form. -/
def execSmin (w : BaseArgs) (s : State) : Host.Outcome State Fault Refusal :=
  issueRegs (howOp 0x2C false (w.ext none)) (semSmin (w.ext none)) s

/-- SMIN, base form with a literal. -/
def execSminL (w : BaseArgs) (lit : DWord) (s : State) : Host.Outcome State Fault Refusal :=
  issueRegs (howOp 0x2C false (w.ext (some lit))) (semSmin (w.ext (some lit))) s

/-- SMIN, extended form. -/
def execSminX (w : ExtArgs) (s : State) : Host.Outcome State Fault Refusal :=
  issueRegs (howOp 0x2C true w) (semSmin w) s

/-- SMAX, base form. -/
def execSmax (w : BaseArgs) (s : State) : Host.Outcome State Fault Refusal :=
  issueRegs (howOp 0x2D false (w.ext none)) (semSmax (w.ext none)) s

/-- SMAX, base form with a literal. -/
def execSmaxL (w : BaseArgs) (lit : DWord) (s : State) : Host.Outcome State Fault Refusal :=
  issueRegs (howOp 0x2D false (w.ext (some lit))) (semSmax (w.ext (some lit))) s

/-- SMAX, extended form. -/
def execSmaxX (w : ExtArgs) (s : State) : Host.Outcome State Fault Refusal :=
  issueRegs (howOp 0x2D true w) (semSmax w) s

/-- SSEL, base form. -/
def execSsel (w : BaseArgs) (s : State) : Host.Outcome State Fault Refusal :=
  issueRegs (howOp 0x2E false (w.ext none)) (semSsel (w.ext none)) s

/-- SSEL, base form with a literal. -/
def execSselL (w : BaseArgs) (lit : DWord) (s : State) : Host.Outcome State Fault Refusal :=
  issueRegs (howOp 0x2E false (w.ext (some lit))) (semSsel (w.ext (some lit))) s

/-- SSEL, extended form. -/
def execSselX (w : ExtArgs) (s : State) : Host.Outcome State Fault Refusal :=
  issueRegs (howOp 0x2E true w) (semSsel w) s

/-- SPOPC, base form. -/
def execSpopc (w : BaseArgs) (s : State) : Host.Outcome State Fault Refusal :=
  issueRegs (howOp 0x2F false (w.ext none)) (semSpopc (w.ext none)) s

/-- SPOPC, extended form. -/
def execSpopcX (w : ExtArgs) (s : State) : Host.Outcome State Fault Refusal :=
  issueRegs (howOp 0x2F true w) (semSpopc w) s

/-- SCMP, base form. -/
def execScmp (w : BaseArgs) (s : State) : Host.Outcome State Fault Refusal :=
  issueRegs (howOp 0x30 false (w.ext none)) (semScmp (w.ext none)) s

/-- SCMP, base form with a literal. -/
def execScmpL (w : BaseArgs) (lit : DWord) (s : State) : Host.Outcome State Fault Refusal :=
  issueRegs (howOp 0x30 false (w.ext (some lit))) (semScmp (w.ext (some lit))) s

/-- SCMP, extended form. -/
def execScmpX (w : ExtArgs) (s : State) : Host.Outcome State Fault Refusal :=
  issueRegs (howOp 0x30 true w) (semScmp w) s

/-- VOTE, base form. -/
def execVote (w : BaseArgs) (s : State) : Host.Outcome State Fault Refusal :=
  issueRegs (howOp 0x31 false (w.ext none)) (semVote (w.ext none)) s

/-- VOTE, extended form. -/
def execVoteX (w : ExtArgs) (s : State) : Host.Outcome State Fault Refusal :=
  issueRegs (howOp 0x31 true w) (semVote w) s

/-- CAND, base form. -/
def execCand (w : BaseArgs) (s : State) : Host.Outcome State Fault Refusal :=
  issueRegs (howOp 0x32 false (w.ext none)) (semCand (w.ext none)) s

/-- CAND, extended form. -/
def execCandX (w : ExtArgs) (s : State) : Host.Outcome State Fault Refusal :=
  issueRegs (howOp 0x32 true w) (semCand w) s

/-- COR, base form. -/
def execCor (w : BaseArgs) (s : State) : Host.Outcome State Fault Refusal :=
  issueRegs (howOp 0x33 false (w.ext none)) (semCor (w.ext none)) s

/-- COR, extended form. -/
def execCorX (w : ExtArgs) (s : State) : Host.Outcome State Fault Refusal :=
  issueRegs (howOp 0x33 true w) (semCor w) s

/-- CXOR, base form. -/
def execCxor (w : BaseArgs) (s : State) : Host.Outcome State Fault Refusal :=
  issueRegs (howOp 0x34 false (w.ext none)) (semCxor (w.ext none)) s

/-- CXOR, extended form. -/
def execCxorX (w : ExtArgs) (s : State) : Host.Outcome State Fault Refusal :=
  issueRegs (howOp 0x34 true w) (semCxor w) s

/-- SETC, base form. -/
def execSetc (w : BaseArgs) (s : State) : Host.Outcome State Fault Refusal :=
  issueRegs (howOp 0x35 false (w.ext none)) (semSetc (w.ext none)) s

/-- SETC, extended form. -/
def execSetcX (w : ExtArgs) (s : State) : Host.Outcome State Fault Refusal :=
  issueRegs (howOp 0x35 true w) (semSetc w) s


end Sys2Proof.Machine
end

