-- ==== Sys2Proof/Machine/VecInt.lean ====
section
/-! DEFINITION. Class 010: vector integer instructions (R87, R123, R146 to R153). -/

namespace Sys2Proof.Machine

/-- A two-source operation at the width of T (R146): 32-bit or 64-bit values per active lane. -/
def vecT (w : ExtArgs) (f : {n : Nat} → BitVec n → BitVec n → BitVec n) (x : Ctx) : List RegWrite × Flags :=
  if tWide w then laneOp64 w (fun x l => f (x.a64 w l) (x.b64 w l)) x
  else laneOp32 w (fun x l => f (x.a32 w l) (x.b32 w l)) x

/-- A shift at the width of T: the count is 32 bits at every type (R140). -/
def vecShift (w : ExtArgs) (f : {n : Nat} → BitVec n → Word → BitVec n) (x : Ctx) : List RegWrite × Flags :=
  if tWide w then laneOp64 w (fun x l => f (x.a64 w l) (x.b32 w l)) x
  else laneOp32 w (fun x l => f (x.a32 w l) (x.b32 w l)) x

/-- A one-source operation at the width of T. -/
def vecT1 (w : ExtArgs) (f : {n : Nat} → BitVec n → BitVec n) (x : Ctx) : List RegWrite × Flags :=
  if tWide w then laneOp64 w (fun x l => f (x.a64 w l)) x
  else laneOp32 w (fun x l => f (x.a32 w l)) x

/-- R147: an exact sum or difference clamped to the range of the type, with SA where it clamps. -/
def clampTo (n : Nat) (unsigned : Bool) (v : Int) : BitVec n × Flags :=
  let lo : Int := if unsigned then 0 else -(2 ^ (n - 1) : Nat)
  let hi : Int := if unsigned then (2 ^ n : Nat) - 1 else (2 ^ (n - 1) : Nat) - 1
  if v < lo then (BitVec.ofInt n lo, flagSA) else if hi < v then (BitVec.ofInt n hi, flagSA)
  else (BitVec.ofInt n v, 0)

/-- An n-bit value as an integer, signed or unsigned. -/
def valT {n : Nat} (unsigned : Bool) (a : BitVec n) : Int := if unsigned then a.toNat else a.toInt

/-- IADD and ISUB (R147): wrapping, or clamped with SAT. -/
def addSub (w : ExtArgs) (sub : Bool) (x : Ctx) : List RegWrite × Flags :=
  let u := tUnsigned w
  let op {n : Nat} (a b : BitVec n) : BitVec n × Flags :=
    if w.sat then clampTo n u (if sub then valT u a - valT u b else valT u a + valT u b)
    else (if sub then a - b else a + b, 0)
  if tWide w then
    perLane (x.active w) fun l => let r := op (x.a64 w l) (x.b64 w l); (x.wvv l w.d.toNat r.1, r.2)
  else perLane (x.active w) fun l => let r := op (x.a32 w l) (x.b32 w l); (x.wv l w.d.toNat r.1, r.2)

def semIadd (w : ExtArgs) : Ctx → List RegWrite × Flags := addSub w false
def semIsub (w : ExtArgs) : Ctx → List RegWrite × Flags := addSub w true
def semImul (w : ExtArgs) : Ctx → List RegWrite × Flags := vecT w fun a b => a * b
def semImulh (w : ExtArgs) : Ctx → List RegWrite × Flags := vecT w (mulHigh (tUnsigned w))
def semImin (w : ExtArgs) : Ctx → List RegWrite × Flags := vecT w (minMax false (tUnsigned w))
def semImax (w : ExtArgs) : Ctx → List RegWrite × Flags := vecT w (minMax true (tUnsigned w))
def semAnd (w : ExtArgs) : Ctx → List RegWrite × Flags := vecT w fun a b => a &&& b
def semOr (w : ExtArgs) : Ctx → List RegWrite × Flags := vecT w fun a b => a ||| b
def semXor (w : ExtArgs) : Ctx → List RegWrite × Flags := vecT w fun a b => a ^^^ b
def semShl (w : ExtArgs) : Ctx → List RegWrite × Flags := vecShift w shiftL
def semShr (w : ExtArgs) : Ctx → List RegWrite × Flags := vecShift w shiftR
def semSra (w : ExtArgs) : Ctx → List RegWrite × Flags := vecShift w shiftA

/-- IMAD (R148). -/
def semImad (w : ExtArgs) (x : Ctx) : List RegWrite × Flags :=
  if tWide w then laneOp64 w (fun x l => x.a64 w l * x.b64 w l + x.c64 w l) x
  else laneOp32 w (fun x l => x.a32 w l * x.b32 w l + x.c32 w l) x

/-- IMADW (R148): extended 32-bit factors and a 64-bit sum. -/
def semImadw (w : ExtArgs) : Ctx → List RegWrite × Flags :=
  let ext (a : Word) : DWord := if tUnsigned w then a.zeroExtend 64 else a.signExtend 64
  laneOp64 w fun x l => ext (x.a32 w l) * ext (x.b32 w l) + x.c64 w l

/-- IABS (R149): the most negative value yields itself. -/
def semIabs (w : ExtArgs) : Ctx → List RegWrite × Flags :=
  vecT1 w fun a => if !tUnsigned w && decide (a.toInt < 0) then -a else a

def semIneg (w : ExtArgs) : Ctx → List RegWrite × Flags := vecT1 w fun a => -a
def semNot (w : ExtArgs) : Ctx → List RegWrite × Flags := vecT1 w fun a => ~~~a
def semBrev (w : ExtArgs) : Ctx → List RegWrite × Flags := vecT1 w fun a => a.reverse

/-- The number of zero bits above the highest 1 bit (R149). -/
def leadingZeros {n : Nat} (a : BitVec n) : Nat := if a = 0 then n else n - 1 - a.toNat.log2

/-- POPC (R149): one register at every type. -/
def semPopc (w : ExtArgs) : Ctx → List RegWrite × Flags :=
  laneOp32 w fun x l => BitVec.ofNat 32 (if tWide w then popCount (x.a64 w l) else popCount (x.a32 w l))

/-- CLZ (R149). -/
def semClz (w : ExtArgs) : Ctx → List RegWrite × Flags :=
  laneOp32 w fun x l => BitVec.ofNat 32 (if tWide w then leadingZeros (x.a64 w l) else leadingZeros (x.a32 w l))

/-- MOV (R123). -/
def semMov (w : ExtArgs) (x : Ctx) : List RegWrite × Flags :=
  if tWide w then laneOp64 w (fun x l => x.a64 w l) x else laneOp32 w (fun x l => x.a32 w l) x

/-- The end of a bit field cut at bit 31 (R150). -/
def fieldEnd (desc : Word) : Nat := min (desc.toNat % 256 + desc.toNat / 256 % 256) 32

/-- BFE on words (R150). -/
def bfeWord (sign : Bool) (a desc : Word) : Word :=
  let pos := desc.toNat % 256
  let e := fieldEnd desc
  if e ≤ pos then 0
  else
    let f := a.toNat / 2 ^ pos % 2 ^ (e - pos)
    if sign then BitVec.ofInt 32 (signedOf (e - pos) f) else BitVec.ofNat 32 f

/-- BFI on words (R150). -/
def bfiWord (a desc c : Word) : Word :=
  let pos := desc.toNat % 256
  let e := fieldEnd desc
  if e ≤ pos then c
  else
    let m := 2 ^ (e - pos)
    let lo := c.toNat % 2 ^ pos
    BitVec.ofNat 32 (c.toNat / 2 ^ e * 2 ^ e + a.toNat % m * 2 ^ pos + lo)

def semBfe (w : ExtArgs) : Ctx → List RegWrite × Flags :=
  laneOp32 w fun x l => bfeWord (w.sub.getLsbD 0) (x.a32 w l) (x.b32 w l)
def semBfi (w : ExtArgs) : Ctx → List RegWrite × Flags :=
  laneOp32 w fun x l => bfiWord (x.a32 w l) (x.b32 w l) (x.c32 w l)

/-- ICMPP (R151). -/
def semIcmpp (w : ExtArgs) (x : Ctx) : List RegWrite × Flags :=
  ((x.active w).flatMap fun l =>
    let t := if w.sub.getLsbD 0 then intCompare (cdCode w) (x.a64 w l) (x.b64 w l)
      else intCompare (cdCode w) (x.a32 w l) (x.b32 w l)
    x.wp l (cdDest w) (combineBit (combOf w) t (x.p l (auxSel w) != auxInv w)), 0)

/-- SEL (R152). -/
def semSel (w : ExtArgs) : Ctx → List RegWrite × Flags :=
  laneOp32 w fun x l => if x.p l (auxSel w) != auxInv w then x.a32 w l else x.b32 w l

/-- PSET (R153). -/
def semPset (w : ExtArgs) (x : Ctx) : List RegWrite × Flags :=
  ((x.active w).flatMap fun l =>
    let a := x.p l w.a.toNat
    let b := x.p l w.b.toNat
    let r := match w.sub.toNat with
      | 0 => a && b | 1 => a || b | 2 => a != b | 3 => a && !b | _ => a
    x.wp l w.d.toNat r, 0)

/-- How a base MOVI issues. -/
def howMovi (y : Bool) (d : BitVec 7) (lit : Bool) : IssueHow :=
  { len := if lit then 12 else 4, cls := 2, wait := y, isYield := false, compare := fun _ => false,
    chk := fun c => rawCheck (some c) (.movi y d 0) }

/-- MOVI into every lane of the stream: a base word is unguarded (R76, R123). -/
def semMovi (d : BitVec 7) (v : Word) (x : Ctx) : List RegWrite × Flags :=
  (x.lanes.flatMap fun l => x.wv l d.toNat v, 0)

/-- MOVI, base form. -/
def execMovi (y : Bool) (d : BitVec 7) (imm : BitVec 14) (s : State) : Host.Outcome State Fault Refusal :=
  issueRegs (howMovi y d false) (semMovi d (imm.signExtend 32)) s

/-- MOVI, base form with a literal. -/
def execMoviL (y : Bool) (d : BitVec 7) (lit : DWord) (s : State) : Host.Outcome State Fault Refusal :=
  issueRegs (howMovi y d true) (semMovi d (lit.extractLsb' 0 32)) s

/-- MOVI, extended form: the literal, or zero without one; a pair with SUB[0] (R123). -/
def semMoviX (w : ExtArgs) (x : Ctx) : List RegWrite × Flags :=
  let v := w.lit.getD 0
  if w.sub.getLsbD 0 then laneOp64 w (fun _ _ => v) x else laneOp32 w (fun _ _ => v.extractLsb' 0 32) x

/-- MOVI, extended form. -/
def execMoviX (w : ExtArgs) (s : State) : Host.Outcome State Fault Refusal :=
  issueRegs (howOp 0x55 true w) (semMoviX w) s

/-- IADD, base form. -/
def execIadd (w : BaseArgs) (s : State) : Host.Outcome State Fault Refusal :=
  issueRegs (howOp 0x40 false (w.ext none)) (semIadd (w.ext none)) s

/-- IADD, base form with a literal. -/
def execIaddL (w : BaseArgs) (lit : DWord) (s : State) : Host.Outcome State Fault Refusal :=
  issueRegs (howOp 0x40 false (w.ext (some lit))) (semIadd (w.ext (some lit))) s

/-- IADD, extended form. -/
def execIaddX (w : ExtArgs) (s : State) : Host.Outcome State Fault Refusal :=
  issueRegs (howOp 0x40 true w) (semIadd w) s

/-- ISUB, base form. -/
def execIsub (w : BaseArgs) (s : State) : Host.Outcome State Fault Refusal :=
  issueRegs (howOp 0x41 false (w.ext none)) (semIsub (w.ext none)) s

/-- ISUB, base form with a literal. -/
def execIsubL (w : BaseArgs) (lit : DWord) (s : State) : Host.Outcome State Fault Refusal :=
  issueRegs (howOp 0x41 false (w.ext (some lit))) (semIsub (w.ext (some lit))) s

/-- ISUB, extended form. -/
def execIsubX (w : ExtArgs) (s : State) : Host.Outcome State Fault Refusal :=
  issueRegs (howOp 0x41 true w) (semIsub w) s

/-- IMUL, base form. -/
def execImul (w : BaseArgs) (s : State) : Host.Outcome State Fault Refusal :=
  issueRegs (howOp 0x42 false (w.ext none)) (semImul (w.ext none)) s

/-- IMUL, base form with a literal. -/
def execImulL (w : BaseArgs) (lit : DWord) (s : State) : Host.Outcome State Fault Refusal :=
  issueRegs (howOp 0x42 false (w.ext (some lit))) (semImul (w.ext (some lit))) s

/-- IMUL, extended form. -/
def execImulX (w : ExtArgs) (s : State) : Host.Outcome State Fault Refusal :=
  issueRegs (howOp 0x42 true w) (semImul w) s

/-- IMULH, base form. -/
def execImulh (w : BaseArgs) (s : State) : Host.Outcome State Fault Refusal :=
  issueRegs (howOp 0x43 false (w.ext none)) (semImulh (w.ext none)) s

/-- IMULH, base form with a literal. -/
def execImulhL (w : BaseArgs) (lit : DWord) (s : State) : Host.Outcome State Fault Refusal :=
  issueRegs (howOp 0x43 false (w.ext (some lit))) (semImulh (w.ext (some lit))) s

/-- IMULH, extended form. -/
def execImulhX (w : ExtArgs) (s : State) : Host.Outcome State Fault Refusal :=
  issueRegs (howOp 0x43 true w) (semImulh w) s

/-- IMIN, base form. -/
def execImin (w : BaseArgs) (s : State) : Host.Outcome State Fault Refusal :=
  issueRegs (howOp 0x44 false (w.ext none)) (semImin (w.ext none)) s

/-- IMIN, base form with a literal. -/
def execIminL (w : BaseArgs) (lit : DWord) (s : State) : Host.Outcome State Fault Refusal :=
  issueRegs (howOp 0x44 false (w.ext (some lit))) (semImin (w.ext (some lit))) s

/-- IMIN, extended form. -/
def execIminX (w : ExtArgs) (s : State) : Host.Outcome State Fault Refusal :=
  issueRegs (howOp 0x44 true w) (semImin w) s

/-- IMAX, base form. -/
def execImax (w : BaseArgs) (s : State) : Host.Outcome State Fault Refusal :=
  issueRegs (howOp 0x45 false (w.ext none)) (semImax (w.ext none)) s

/-- IMAX, base form with a literal. -/
def execImaxL (w : BaseArgs) (lit : DWord) (s : State) : Host.Outcome State Fault Refusal :=
  issueRegs (howOp 0x45 false (w.ext (some lit))) (semImax (w.ext (some lit))) s

/-- IMAX, extended form. -/
def execImaxX (w : ExtArgs) (s : State) : Host.Outcome State Fault Refusal :=
  issueRegs (howOp 0x45 true w) (semImax w) s

/-- AND, base form. -/
def execAnd (w : BaseArgs) (s : State) : Host.Outcome State Fault Refusal :=
  issueRegs (howOp 0x46 false (w.ext none)) (semAnd (w.ext none)) s

/-- AND, base form with a literal. -/
def execAndL (w : BaseArgs) (lit : DWord) (s : State) : Host.Outcome State Fault Refusal :=
  issueRegs (howOp 0x46 false (w.ext (some lit))) (semAnd (w.ext (some lit))) s

/-- AND, extended form. -/
def execAndX (w : ExtArgs) (s : State) : Host.Outcome State Fault Refusal :=
  issueRegs (howOp 0x46 true w) (semAnd w) s

/-- OR, base form. -/
def execOr (w : BaseArgs) (s : State) : Host.Outcome State Fault Refusal :=
  issueRegs (howOp 0x47 false (w.ext none)) (semOr (w.ext none)) s

/-- OR, base form with a literal. -/
def execOrL (w : BaseArgs) (lit : DWord) (s : State) : Host.Outcome State Fault Refusal :=
  issueRegs (howOp 0x47 false (w.ext (some lit))) (semOr (w.ext (some lit))) s

/-- OR, extended form. -/
def execOrX (w : ExtArgs) (s : State) : Host.Outcome State Fault Refusal :=
  issueRegs (howOp 0x47 true w) (semOr w) s

/-- XOR, base form. -/
def execXor (w : BaseArgs) (s : State) : Host.Outcome State Fault Refusal :=
  issueRegs (howOp 0x48 false (w.ext none)) (semXor (w.ext none)) s

/-- XOR, base form with a literal. -/
def execXorL (w : BaseArgs) (lit : DWord) (s : State) : Host.Outcome State Fault Refusal :=
  issueRegs (howOp 0x48 false (w.ext (some lit))) (semXor (w.ext (some lit))) s

/-- XOR, extended form. -/
def execXorX (w : ExtArgs) (s : State) : Host.Outcome State Fault Refusal :=
  issueRegs (howOp 0x48 true w) (semXor w) s

/-- SHL, base form. -/
def execShl (w : BaseArgs) (s : State) : Host.Outcome State Fault Refusal :=
  issueRegs (howOp 0x49 false (w.ext none)) (semShl (w.ext none)) s

/-- SHL, base form with a literal. -/
def execShlL (w : BaseArgs) (lit : DWord) (s : State) : Host.Outcome State Fault Refusal :=
  issueRegs (howOp 0x49 false (w.ext (some lit))) (semShl (w.ext (some lit))) s

/-- SHL, extended form. -/
def execShlX (w : ExtArgs) (s : State) : Host.Outcome State Fault Refusal :=
  issueRegs (howOp 0x49 true w) (semShl w) s

/-- SHR, base form. -/
def execShr (w : BaseArgs) (s : State) : Host.Outcome State Fault Refusal :=
  issueRegs (howOp 0x4A false (w.ext none)) (semShr (w.ext none)) s

/-- SHR, base form with a literal. -/
def execShrL (w : BaseArgs) (lit : DWord) (s : State) : Host.Outcome State Fault Refusal :=
  issueRegs (howOp 0x4A false (w.ext (some lit))) (semShr (w.ext (some lit))) s

/-- SHR, extended form. -/
def execShrX (w : ExtArgs) (s : State) : Host.Outcome State Fault Refusal :=
  issueRegs (howOp 0x4A true w) (semShr w) s

/-- SRA, base form. -/
def execSra (w : BaseArgs) (s : State) : Host.Outcome State Fault Refusal :=
  issueRegs (howOp 0x4B false (w.ext none)) (semSra (w.ext none)) s

/-- SRA, base form with a literal. -/
def execSraL (w : BaseArgs) (lit : DWord) (s : State) : Host.Outcome State Fault Refusal :=
  issueRegs (howOp 0x4B false (w.ext (some lit))) (semSra (w.ext (some lit))) s

/-- SRA, extended form. -/
def execSraX (w : ExtArgs) (s : State) : Host.Outcome State Fault Refusal :=
  issueRegs (howOp 0x4B true w) (semSra w) s

/-- IMAD, base form. -/
def execImad (w : BaseArgs) (s : State) : Host.Outcome State Fault Refusal :=
  issueRegs (howOp 0x4C false (w.ext none)) (semImad (w.ext none)) s

/-- IMAD, base form with a literal. -/
def execImadL (w : BaseArgs) (lit : DWord) (s : State) : Host.Outcome State Fault Refusal :=
  issueRegs (howOp 0x4C false (w.ext (some lit))) (semImad (w.ext (some lit))) s

/-- IMAD, extended form. -/
def execImadX (w : ExtArgs) (s : State) : Host.Outcome State Fault Refusal :=
  issueRegs (howOp 0x4C true w) (semImad w) s

/-- IMADW, base form. -/
def execImadw (w : BaseArgs) (s : State) : Host.Outcome State Fault Refusal :=
  issueRegs (howOp 0x4D false (w.ext none)) (semImadw (w.ext none)) s

/-- IMADW, base form with a literal. -/
def execImadwL (w : BaseArgs) (lit : DWord) (s : State) : Host.Outcome State Fault Refusal :=
  issueRegs (howOp 0x4D false (w.ext (some lit))) (semImadw (w.ext (some lit))) s

/-- IMADW, extended form. -/
def execImadwX (w : ExtArgs) (s : State) : Host.Outcome State Fault Refusal :=
  issueRegs (howOp 0x4D true w) (semImadw w) s

/-- IABS, base form. -/
def execIabs (w : BaseArgs) (s : State) : Host.Outcome State Fault Refusal :=
  issueRegs (howOp 0x4E false (w.ext none)) (semIabs (w.ext none)) s

/-- IABS, extended form. -/
def execIabsX (w : ExtArgs) (s : State) : Host.Outcome State Fault Refusal :=
  issueRegs (howOp 0x4E true w) (semIabs w) s

/-- INEG, base form. -/
def execIneg (w : BaseArgs) (s : State) : Host.Outcome State Fault Refusal :=
  issueRegs (howOp 0x4F false (w.ext none)) (semIneg (w.ext none)) s

/-- INEG, extended form. -/
def execInegX (w : ExtArgs) (s : State) : Host.Outcome State Fault Refusal :=
  issueRegs (howOp 0x4F true w) (semIneg w) s

/-- NOT, base form. -/
def execNot (w : BaseArgs) (s : State) : Host.Outcome State Fault Refusal :=
  issueRegs (howOp 0x50 false (w.ext none)) (semNot (w.ext none)) s

/-- NOT, extended form. -/
def execNotX (w : ExtArgs) (s : State) : Host.Outcome State Fault Refusal :=
  issueRegs (howOp 0x50 true w) (semNot w) s

/-- POPC, base form. -/
def execPopc (w : BaseArgs) (s : State) : Host.Outcome State Fault Refusal :=
  issueRegs (howOp 0x51 false (w.ext none)) (semPopc (w.ext none)) s

/-- POPC, extended form. -/
def execPopcX (w : ExtArgs) (s : State) : Host.Outcome State Fault Refusal :=
  issueRegs (howOp 0x51 true w) (semPopc w) s

/-- CLZ, base form. -/
def execClz (w : BaseArgs) (s : State) : Host.Outcome State Fault Refusal :=
  issueRegs (howOp 0x52 false (w.ext none)) (semClz (w.ext none)) s

/-- CLZ, extended form. -/
def execClzX (w : ExtArgs) (s : State) : Host.Outcome State Fault Refusal :=
  issueRegs (howOp 0x52 true w) (semClz w) s

/-- BREV, base form. -/
def execBrev (w : BaseArgs) (s : State) : Host.Outcome State Fault Refusal :=
  issueRegs (howOp 0x53 false (w.ext none)) (semBrev (w.ext none)) s

/-- BREV, extended form. -/
def execBrevX (w : ExtArgs) (s : State) : Host.Outcome State Fault Refusal :=
  issueRegs (howOp 0x53 true w) (semBrev w) s

/-- MOV, base form. -/
def execMov (w : BaseArgs) (s : State) : Host.Outcome State Fault Refusal :=
  issueRegs (howOp 0x54 false (w.ext none)) (semMov (w.ext none)) s

/-- MOV, extended form. -/
def execMovX (w : ExtArgs) (s : State) : Host.Outcome State Fault Refusal :=
  issueRegs (howOp 0x54 true w) (semMov w) s

/-- BFE, base form. -/
def execBfe (w : BaseArgs) (s : State) : Host.Outcome State Fault Refusal :=
  issueRegs (howOp 0x56 false (w.ext none)) (semBfe (w.ext none)) s

/-- BFE, base form with a literal. -/
def execBfeL (w : BaseArgs) (lit : DWord) (s : State) : Host.Outcome State Fault Refusal :=
  issueRegs (howOp 0x56 false (w.ext (some lit))) (semBfe (w.ext (some lit))) s

/-- BFE, extended form. -/
def execBfeX (w : ExtArgs) (s : State) : Host.Outcome State Fault Refusal :=
  issueRegs (howOp 0x56 true w) (semBfe w) s

/-- BFI, base form. -/
def execBfi (w : BaseArgs) (s : State) : Host.Outcome State Fault Refusal :=
  issueRegs (howOp 0x57 false (w.ext none)) (semBfi (w.ext none)) s

/-- BFI, base form with a literal. -/
def execBfiL (w : BaseArgs) (lit : DWord) (s : State) : Host.Outcome State Fault Refusal :=
  issueRegs (howOp 0x57 false (w.ext (some lit))) (semBfi (w.ext (some lit))) s

/-- BFI, extended form. -/
def execBfiX (w : ExtArgs) (s : State) : Host.Outcome State Fault Refusal :=
  issueRegs (howOp 0x57 true w) (semBfi w) s

/-- ICMPP, base form. -/
def execIcmpp (w : BaseArgs) (s : State) : Host.Outcome State Fault Refusal :=
  issueRegs (howOp 0x58 false (w.ext none)) (semIcmpp (w.ext none)) s

/-- ICMPP, base form with a literal. -/
def execIcmppL (w : BaseArgs) (lit : DWord) (s : State) : Host.Outcome State Fault Refusal :=
  issueRegs (howOp 0x58 false (w.ext (some lit))) (semIcmpp (w.ext (some lit))) s

/-- ICMPP, extended form. -/
def execIcmppX (w : ExtArgs) (s : State) : Host.Outcome State Fault Refusal :=
  issueRegs (howOp 0x58 true w) (semIcmpp w) s

/-- SEL, base form. -/
def execSel (w : BaseArgs) (s : State) : Host.Outcome State Fault Refusal :=
  issueRegs (howOp 0x59 false (w.ext none)) (semSel (w.ext none)) s

/-- SEL, base form with a literal. -/
def execSelL (w : BaseArgs) (lit : DWord) (s : State) : Host.Outcome State Fault Refusal :=
  issueRegs (howOp 0x59 false (w.ext (some lit))) (semSel (w.ext (some lit))) s

/-- SEL, extended form. -/
def execSelX (w : ExtArgs) (s : State) : Host.Outcome State Fault Refusal :=
  issueRegs (howOp 0x59 true w) (semSel w) s

/-- PSET, base form. -/
def execPset (w : BaseArgs) (s : State) : Host.Outcome State Fault Refusal :=
  issueRegs (howOp 0x5A false (w.ext none)) (semPset (w.ext none)) s

/-- PSET, extended form. -/
def execPsetX (w : ExtArgs) (s : State) : Host.Outcome State Fault Refusal :=
  issueRegs (howOp 0x5A true w) (semPset w) s


end Sys2Proof.Machine
end

