-- ==== Sys2Proof/Machine/VecFp.lean ====
section
/-! DEFINITION. Class 011: vector floating point and packed 16-bit instructions (R88, R154 to R160, R187, R188). -/

namespace Sys2Proof.Machine

/-- Source A as an FP32 word after its sign modifiers SUB[0] and SUB[3] (R88). -/
def fA (w : ExtArgs) (x : Ctx) (l : Nat) : Word := signMod (w.sub.getLsbD 0) (w.sub.getLsbD 3) (x.a32 w l)

/-- Source B after SUB[1] and SUB[4]. -/
def fB (w : ExtArgs) (x : Ctx) (l : Nat) : Word := signMod (w.sub.getLsbD 1) (w.sub.getLsbD 4) (x.b32 w l)

/-- Source C after SUB[2] and SUB[5]. -/
def fC (w : ExtArgs) (x : Ctx) (l : Nat) : Word := signMod (w.sub.getLsbD 2) (w.sub.getLsbD 5) (x.c32 w l)

def semFadd (w : ExtArgs) : Ctx → List RegWrite × Flags :=
  laneOpF w fun x l => fpAdd fmt32 (rmOf w) w.sat (fp32 (fA w x l)) (fp32 (fB w x l))
def semFsub (w : ExtArgs) : Ctx → List RegWrite × Flags :=
  laneOpF w fun x l => fpAdd fmt32 (rmOf w) w.sat (fp32 (fA w x l)) (fp32 (fB w x l)).neg
def semFmul (w : ExtArgs) : Ctx → List RegWrite × Flags :=
  laneOpF w fun x l => fpMul fmt32 (rmOf w) w.sat (fp32 (fA w x l)) (fp32 (fB w x l))
def semFfma (w : ExtArgs) : Ctx → List RegWrite × Flags :=
  laneOpF w fun x l => fpFma fmt32 (rmOf w) w.sat (fp32 (fA w x l)) (fp32 (fB w x l)) (fp32 (fC w x l))
def semFmin (w : ExtArgs) : Ctx → List RegWrite × Flags :=
  laneOpF w fun x l => let r := fpMinMax false (fA w x l) (fB w x l); (r.1.toNat, r.2)
def semFmax (w : ExtArgs) : Ctx → List RegWrite × Flags :=
  laneOpF w fun x l => let r := fpMinMax true (fA w x l) (fB w x l); (r.1.toNat, r.2)
def semFmaxa (w : ExtArgs) : Ctx → List RegWrite × Flags :=
  laneOpF w fun x l => let r := fpMaxA (fA w x l) (fB w x l); (r.1.toNat, r.2)

/-- A transcendental rounded to nearest, with the flag it raises itself (R157). -/
def transc (w : ExtArgs) (f : Exact → Exact × Flags) : Ctx → List RegWrite × Flags :=
  laneOpF w fun x l =>
    let r := f (fp32 (fA w x l))
    let c := round154 fmt32 .rne w.sat r.1
    (c.1, c.2 ||| r.2)

def semFrcp (w : ExtArgs) : Ctx → List RegWrite × Flags := transc w fpRcp
def semFrsq (w : ExtArgs) : Ctx → List RegWrite × Flags := transc w fpRsq
def semFsqrt (w : ExtArgs) : Ctx → List RegWrite × Flags := transc w fpSqrt
def semFexp2 (w : ExtArgs) : Ctx → List RegWrite × Flags := laneOpF w fun x l => fpExp2 w.sat (fA w x l)
def semFlog2 (w : ExtArgs) : Ctx → List RegWrite × Flags := laneOpF w fun x l => fpLog2 w.sat (fA w x l)

/-- FCMPP (R158). -/
def semFcmpp (w : ExtArgs) (x : Ctx) : List RegWrite × Flags :=
  perLane (x.active w) fun l =>
    let r := fpCompare (cdCode w) (fp32 (x.a32 w l)) (fp32 (x.b32 w l))
    (x.wp l (cdDest w) (combineBit (combOf w) r.1 (x.p l (auxSel w) != auxInv w)), r.2)

def semFclass (w : ExtArgs) : Ctx → List RegWrite × Flags := laneOp32 w fun x l => fpClass (fA w x l)

/-- FSCALE (R187). -/
def semFscale (w : ExtArgs) : Ctx → List RegWrite × Flags :=
  laneOpF w fun x l => fpScale (rmOf w) w.sat (fp32 (x.a32 w l)) (x.b32 w l).toInt

/-- The format of a packed 16-bit instruction (R160). -/
def halfFmt (w : ExtArgs) : FloatFmt := if w.sub.getLsbD 0 then fmtB16 else fmt16

/-- A packed 16-bit operation of two or three sources; SUB[3:1] negate them. -/
def halfOp (w : ExtArgs) (f : Exact → Exact → Exact → Nat × Flags) (x : Ctx) : List RegWrite × Flags :=
  perLane (x.active w) fun l =>
    let el (v : Word) (e k : Nat) : Exact := halfElem (halfFmt w) v e (w.sub.getLsbD k)
    let r := halfPair fun e => f (el (x.a32 w l) e 1) (el (x.b32 w l) e 2) (el (x.c32 w l) e 3)
    (x.wv l w.d.toNat r.1, r.2)

def semHadd2 (w : ExtArgs) : Ctx → List RegWrite × Flags :=
  halfOp w fun a b _ => fpAdd (halfFmt w) (rmOf w) w.sat a b
def semHmul2 (w : ExtArgs) : Ctx → List RegWrite × Flags :=
  halfOp w fun a b _ => fpMul (halfFmt w) (rmOf w) w.sat a b
def semHfma2 (w : ExtArgs) : Ctx → List RegWrite × Flags :=
  halfOp w fun a b c => fpFma (halfFmt w) (rmOf w) w.sat a b c

/-- Elements per register of FDOT4 (R188). -/
def dotElems (e : Elem) : Nat :=
  match elemBits e with
  | 32 => 1 | 16 => 2 | 8 => 4 | 6 => 5 | _ => 8

/-- FDOT4 (R188): SR reads as RNE. -/
def semFdot4 (w : ExtArgs) : Ctx → List RegWrite × Flags :=
  laneOpF w fun x l =>
    let sl := x.slot w.fs
    let rm : Rnd := match x.rmSlot w sl.round 0 0 l 0 with
      | .sr _ => .rne
      | r => r
    let k := dotElems sl.elem
    let a := streamValues sl.elem (x.v l w.a.toNat).toNat k
    let b := streamValues sl.elem (x.v l w.b.toNat).toNat k
    fpDot rm (w.sat || sl.sat) (scaleOf sl) (a.zip b) (fp32 (x.c32 w l))

/-- FADD, base form. -/
def execFadd (w : BaseArgs) (s : State) : Host.Outcome State Fault Refusal :=
  issueRegs (howOp 0x60 false (w.ext none)) (semFadd (w.ext none)) s

/-- FADD, base form with a literal. -/
def execFaddL (w : BaseArgs) (lit : DWord) (s : State) : Host.Outcome State Fault Refusal :=
  issueRegs (howOp 0x60 false (w.ext (some lit))) (semFadd (w.ext (some lit))) s

/-- FADD, extended form. -/
def execFaddX (w : ExtArgs) (s : State) : Host.Outcome State Fault Refusal :=
  issueRegs (howOp 0x60 true w) (semFadd w) s

/-- FSUB, base form. -/
def execFsub (w : BaseArgs) (s : State) : Host.Outcome State Fault Refusal :=
  issueRegs (howOp 0x61 false (w.ext none)) (semFsub (w.ext none)) s

/-- FSUB, base form with a literal. -/
def execFsubL (w : BaseArgs) (lit : DWord) (s : State) : Host.Outcome State Fault Refusal :=
  issueRegs (howOp 0x61 false (w.ext (some lit))) (semFsub (w.ext (some lit))) s

/-- FSUB, extended form. -/
def execFsubX (w : ExtArgs) (s : State) : Host.Outcome State Fault Refusal :=
  issueRegs (howOp 0x61 true w) (semFsub w) s

/-- FMUL, base form. -/
def execFmul (w : BaseArgs) (s : State) : Host.Outcome State Fault Refusal :=
  issueRegs (howOp 0x62 false (w.ext none)) (semFmul (w.ext none)) s

/-- FMUL, base form with a literal. -/
def execFmulL (w : BaseArgs) (lit : DWord) (s : State) : Host.Outcome State Fault Refusal :=
  issueRegs (howOp 0x62 false (w.ext (some lit))) (semFmul (w.ext (some lit))) s

/-- FMUL, extended form. -/
def execFmulX (w : ExtArgs) (s : State) : Host.Outcome State Fault Refusal :=
  issueRegs (howOp 0x62 true w) (semFmul w) s

/-- FMIN, base form. -/
def execFmin (w : BaseArgs) (s : State) : Host.Outcome State Fault Refusal :=
  issueRegs (howOp 0x63 false (w.ext none)) (semFmin (w.ext none)) s

/-- FMIN, base form with a literal. -/
def execFminL (w : BaseArgs) (lit : DWord) (s : State) : Host.Outcome State Fault Refusal :=
  issueRegs (howOp 0x63 false (w.ext (some lit))) (semFmin (w.ext (some lit))) s

/-- FMIN, extended form. -/
def execFminX (w : ExtArgs) (s : State) : Host.Outcome State Fault Refusal :=
  issueRegs (howOp 0x63 true w) (semFmin w) s

/-- FMAX, base form. -/
def execFmax (w : BaseArgs) (s : State) : Host.Outcome State Fault Refusal :=
  issueRegs (howOp 0x64 false (w.ext none)) (semFmax (w.ext none)) s

/-- FMAX, base form with a literal. -/
def execFmaxL (w : BaseArgs) (lit : DWord) (s : State) : Host.Outcome State Fault Refusal :=
  issueRegs (howOp 0x64 false (w.ext (some lit))) (semFmax (w.ext (some lit))) s

/-- FMAX, extended form. -/
def execFmaxX (w : ExtArgs) (s : State) : Host.Outcome State Fault Refusal :=
  issueRegs (howOp 0x64 true w) (semFmax w) s

/-- FMAXA, base form. -/
def execFmaxa (w : BaseArgs) (s : State) : Host.Outcome State Fault Refusal :=
  issueRegs (howOp 0x65 false (w.ext none)) (semFmaxa (w.ext none)) s

/-- FMAXA, base form with a literal. -/
def execFmaxaL (w : BaseArgs) (lit : DWord) (s : State) : Host.Outcome State Fault Refusal :=
  issueRegs (howOp 0x65 false (w.ext (some lit))) (semFmaxa (w.ext (some lit))) s

/-- FMAXA, extended form. -/
def execFmaxaX (w : ExtArgs) (s : State) : Host.Outcome State Fault Refusal :=
  issueRegs (howOp 0x65 true w) (semFmaxa w) s

/-- FFMA, base form. -/
def execFfma (w : BaseArgs) (s : State) : Host.Outcome State Fault Refusal :=
  issueRegs (howOp 0x66 false (w.ext none)) (semFfma (w.ext none)) s

/-- FFMA, base form with a literal. -/
def execFfmaL (w : BaseArgs) (lit : DWord) (s : State) : Host.Outcome State Fault Refusal :=
  issueRegs (howOp 0x66 false (w.ext (some lit))) (semFfma (w.ext (some lit))) s

/-- FFMA, extended form. -/
def execFfmaX (w : ExtArgs) (s : State) : Host.Outcome State Fault Refusal :=
  issueRegs (howOp 0x66 true w) (semFfma w) s

/-- FRCP, base form. -/
def execFrcp (w : BaseArgs) (s : State) : Host.Outcome State Fault Refusal :=
  issueVar (howOp 0x67 false (w.ext none)) (semFrcp (w.ext none)) s

/-- FRCP, extended form. -/
def execFrcpX (w : ExtArgs) (s : State) : Host.Outcome State Fault Refusal :=
  issueVar (howOp 0x67 true w) (semFrcp w) s

/-- FRSQ, base form. -/
def execFrsq (w : BaseArgs) (s : State) : Host.Outcome State Fault Refusal :=
  issueVar (howOp 0x68 false (w.ext none)) (semFrsq (w.ext none)) s

/-- FRSQ, extended form. -/
def execFrsqX (w : ExtArgs) (s : State) : Host.Outcome State Fault Refusal :=
  issueVar (howOp 0x68 true w) (semFrsq w) s

/-- FSQRT, base form. -/
def execFsqrt (w : BaseArgs) (s : State) : Host.Outcome State Fault Refusal :=
  issueVar (howOp 0x69 false (w.ext none)) (semFsqrt (w.ext none)) s

/-- FSQRT, extended form. -/
def execFsqrtX (w : ExtArgs) (s : State) : Host.Outcome State Fault Refusal :=
  issueVar (howOp 0x69 true w) (semFsqrt w) s

/-- FEXP2, base form. -/
def execFexp2 (w : BaseArgs) (s : State) : Host.Outcome State Fault Refusal :=
  issueVar (howOp 0x6A false (w.ext none)) (semFexp2 (w.ext none)) s

/-- FEXP2, extended form. -/
def execFexp2X (w : ExtArgs) (s : State) : Host.Outcome State Fault Refusal :=
  issueVar (howOp 0x6A true w) (semFexp2 w) s

/-- FLOG2, base form. -/
def execFlog2 (w : BaseArgs) (s : State) : Host.Outcome State Fault Refusal :=
  issueVar (howOp 0x6B false (w.ext none)) (semFlog2 (w.ext none)) s

/-- FLOG2, extended form. -/
def execFlog2X (w : ExtArgs) (s : State) : Host.Outcome State Fault Refusal :=
  issueVar (howOp 0x6B true w) (semFlog2 w) s

/-- FCMPP, base form. -/
def execFcmpp (w : BaseArgs) (s : State) : Host.Outcome State Fault Refusal :=
  issueRegs (howOp 0x6C false (w.ext none)) (semFcmpp (w.ext none)) s

/-- FCMPP, base form with a literal. -/
def execFcmppL (w : BaseArgs) (lit : DWord) (s : State) : Host.Outcome State Fault Refusal :=
  issueRegs (howOp 0x6C false (w.ext (some lit))) (semFcmpp (w.ext (some lit))) s

/-- FCMPP, extended form. -/
def execFcmppX (w : ExtArgs) (s : State) : Host.Outcome State Fault Refusal :=
  issueRegs (howOp 0x6C true w) (semFcmpp w) s

/-- FCLASS, base form. -/
def execFclass (w : BaseArgs) (s : State) : Host.Outcome State Fault Refusal :=
  issueRegs (howOp 0x6D false (w.ext none)) (semFclass (w.ext none)) s

/-- FCLASS, extended form. -/
def execFclassX (w : ExtArgs) (s : State) : Host.Outcome State Fault Refusal :=
  issueRegs (howOp 0x6D true w) (semFclass w) s

/-- FSCALE, base form. -/
def execFscale (w : BaseArgs) (s : State) : Host.Outcome State Fault Refusal :=
  issueRegs (howOp 0x6E false (w.ext none)) (semFscale (w.ext none)) s

/-- FSCALE, base form with a literal. -/
def execFscaleL (w : BaseArgs) (lit : DWord) (s : State) : Host.Outcome State Fault Refusal :=
  issueRegs (howOp 0x6E false (w.ext (some lit))) (semFscale (w.ext (some lit))) s

/-- FSCALE, extended form. -/
def execFscaleX (w : ExtArgs) (s : State) : Host.Outcome State Fault Refusal :=
  issueRegs (howOp 0x6E true w) (semFscale w) s

/-- HADD2, base form. -/
def execHadd2 (w : BaseArgs) (s : State) : Host.Outcome State Fault Refusal :=
  issueRegs (howOp 0x6F false (w.ext none)) (semHadd2 (w.ext none)) s

/-- HADD2, base form with a literal. -/
def execHadd2L (w : BaseArgs) (lit : DWord) (s : State) : Host.Outcome State Fault Refusal :=
  issueRegs (howOp 0x6F false (w.ext (some lit))) (semHadd2 (w.ext (some lit))) s

/-- HADD2, extended form. -/
def execHadd2X (w : ExtArgs) (s : State) : Host.Outcome State Fault Refusal :=
  issueRegs (howOp 0x6F true w) (semHadd2 w) s

/-- HMUL2, base form. -/
def execHmul2 (w : BaseArgs) (s : State) : Host.Outcome State Fault Refusal :=
  issueRegs (howOp 0x70 false (w.ext none)) (semHmul2 (w.ext none)) s

/-- HMUL2, base form with a literal. -/
def execHmul2L (w : BaseArgs) (lit : DWord) (s : State) : Host.Outcome State Fault Refusal :=
  issueRegs (howOp 0x70 false (w.ext (some lit))) (semHmul2 (w.ext (some lit))) s

/-- HMUL2, extended form. -/
def execHmul2X (w : ExtArgs) (s : State) : Host.Outcome State Fault Refusal :=
  issueRegs (howOp 0x70 true w) (semHmul2 w) s

/-- HFMA2, base form. -/
def execHfma2 (w : BaseArgs) (s : State) : Host.Outcome State Fault Refusal :=
  issueRegs (howOp 0x71 false (w.ext none)) (semHfma2 (w.ext none)) s

/-- HFMA2, base form with a literal. -/
def execHfma2L (w : BaseArgs) (lit : DWord) (s : State) : Host.Outcome State Fault Refusal :=
  issueRegs (howOp 0x71 false (w.ext (some lit))) (semHfma2 (w.ext (some lit))) s

/-- HFMA2, extended form. -/
def execHfma2X (w : ExtArgs) (s : State) : Host.Outcome State Fault Refusal :=
  issueRegs (howOp 0x71 true w) (semHfma2 w) s

/-- FDOT4, base form. -/
def execFdot4 (w : BaseArgs) (s : State) : Host.Outcome State Fault Refusal :=
  issueRegs (howOp 0x72 false (w.ext none)) (semFdot4 (w.ext none)) s

/-- FDOT4, extended form. -/
def execFdot4X (w : ExtArgs) (s : State) : Host.Outcome State Fault Refusal :=
  issueRegs (howOp 0x72 true w) (semFdot4 w) s


end Sys2Proof.Machine
end

