-- ==== Sys2Proof/Machine/Convert.lean ====
section
/-! DEFINITION. Class 100: conversion, cross-lane and random instructions (R89, R161 to R166, R182 to R186). -/

namespace Sys2Proof.Machine

/-- CVT (R182): narrow by the slot's scale, or widen one element. -/
def semCvt (w : ExtArgs) (x : Ctx) : List RegWrite × Flags :=
  let sl := x.slot w.fs
  let t := scaleOf sl
  perLane (x.active w) fun l =>
    let a := x.v l w.a.toNat
    let r :=
      if w.sub.getLsbD 0 then
        let v := valueOf sl.elem (a.toNat % 2 ^ elemBits sl.elem)
        let (c, fl) := narrowFloat fmt32 .rne false (v.quiet.mul t)
        (c, fl ||| flagIf v.isSig flagIV)
      else narrow sl.elem (x.rmSlot w sl.round sl.srkey a l 0) (w.sat || sl.sat) ((fp32 a).divBy t)
    (x.wv l w.d.toNat (BitVec.ofNat 32 r.1), r.2)

/-- CVTF (R183): FP32 to and from the 16-bit formats. -/
def semCvtf (w : ExtArgs) (x : Ctx) : List RegWrite × Flags :=
  let f : Elem := if w.sub.getLsbD 0 then .bf16 else .fp16
  perLane (x.active w) fun l =>
    let a := x.v l w.a.toNat
    let r :=
      if w.sub.getLsbD 1 then
        narrowFloat fmt32 .rne false (valueOf f (a.toNat % 2 ^ 16))
      else narrow f (x.rmSlot w 0 (x.slot 0).srkey a l 0) w.sat (fp32 a)
    (x.wv l w.d.toNat (BitVec.ofNat 32 r.1), r.2)

/-- CVTI (R184). -/
def semCvti (w : ExtArgs) (x : Ctx) : List RegWrite × Flags :=
  perLane (x.active w) fun l =>
    let a := x.v l w.a.toNat
    let r : Word × Flags := match w.sub.toNat with
      | 0 => fpToInt false (rmOf w) w.sat (fp32 a)
      | 1 => fpToInt true (rmOf w) w.sat (fp32 a)
      | 2 => let c := narrowFloat fmt32 (rmOf w) false (exactInt a.toInt); (BitVec.ofNat 32 c.1, c.2)
      | _ => let c := narrowFloat fmt32 (rmOf w) false (exactInt a.toNat); (BitVec.ofNat 32 c.1, c.2)
    (x.wv l w.d.toNat r.1, r.2)

/-- The registers of a packed stream from register r as one number (R176, R185). -/
def packedBits (x : Ctx) (l r : Nat) (e : Elem) : Nat :=
  (List.range (packRegs (elemBits e))).foldl (fun n i => n + (x.v l (r + i)).toNat * 2 ^ (32 * i)) 0

/-- PACK (R185): only the registers that hold bits of the two elements are written. Stochastic rounding of an element takes the bits of the
register that the element comes from (R180). DESIGN CHOICE (log 60). -/
def semPack (w : ExtArgs) (x : Ctx) : List RegWrite × Flags :=
  let sl := x.slot w.fs
  let b := elemBits sl.elem
  let pos := w.aux.toNat
  perLane (x.active w) fun l =>
    let one (v : Word) (e : Nat) : Nat × Flags :=
      narrow sl.elem (x.rmSlot w sl.round sl.srkey v l e) (w.sat || sl.sat) ((fp32 v).divBy (scaleOf sl))
    let y0 := one (x.v l w.a.toNat) 0
    let y1 := one (x.v l w.b.toNat) 1
    let old := packedBits x l w.d.toNat sl.elem
    let lo := 2 ^ (b * pos)
    let hi := 2 ^ (b * (pos + 2))
    let new := old / hi * hi + (y1.1 * 2 ^ b + y0.1) * lo + old % lo
    let regs := (List.range (packRegs b)).filter fun i =>
      decide (b * pos < 32 * (i + 1) ∧ 32 * i < b * (pos + 2))
    (regs.flatMap fun i => x.wv l (w.d.toNat + i) (BitVec.ofNat 32 (new / 2 ^ (32 * i))), y0.2 ||| y1.2)

/-- UNPACK (R185). -/
def semUnpack (w : ExtArgs) (x : Ctx) : List RegWrite × Flags :=
  let sl := x.slot w.fs
  let pos := w.aux.toNat
  perLane (x.active w) fun l =>
    let vals := streamValues sl.elem (packedBits x l w.a.toNat sl.elem) (pos + 2)
    let one (i : Nat) : Nat × Flags :=
      let v := vals.getD (pos + i) (exactInt 0)
      let (c, fl) := narrowFloat fmt32 .rne false (v.quiet.mul (scaleOf sl))
      (c, fl ||| flagIf v.isSig flagIV)
    let y0 := one 0
    let y1 := one 1
    (x.wv l w.d.toNat (BitVec.ofNat 32 y0.1) ++ x.wv l (w.d.toNat + 1) (BitVec.ofNat 32 y1.1), y0.2 ||| y1.2)

/-- QSCALE (R186): the exact product narrowed once; the product of a finite value and the scale +0 is +0 (R429), another zero has
the sign of its factors, and one of 0 and an infinity narrows as a NaN and sets IV. DESIGN CHOICE (log 61). -/
def semQscale (w : ExtArgs) (x : Ctx) : List RegWrite × Flags :=
  let sl := x.slot w.fs
  perLane (x.active w) fun l =>
    let a := x.v l w.a.toNat
    let p := fp32 a
    let q := fp32 (x.b32 w l)
    let r := match p with
      | .fin .. => if x.b32 w l = 0 then exactInt 0 else p.mul q
      | _ => p.mul q
    let (c, fl) := narrow sl.elem (x.rmSlot w sl.round sl.srkey a l 0) (w.sat || sl.sat) r
    (x.wv l w.d.toNat (BitVec.ofNat 32 c), fl ||| invalidOp [p, q] r)

/-! ### Cross-lane (R161 to R165) -/

/-- The value of Vr that a cross-lane instruction reads from lane j: zero outside the issuing stream (R161). -/
def crossRead (x : Ctx) (r j : Nat) : Word := if x.lanes.contains j then x.v j r else 0

/-- SHFL (R162). -/
def semShfl (w : ExtArgs) : Ctx → List RegWrite × Flags :=
  laneOp32 w fun x l =>
    let k := (x.b32 w l).toNat
    let n := x.g.width
    let j : Int := match w.sub.toNat with
      | 0 => (k % n : Nat)
      | 1 => (l : Int) - k
      | 2 => (l : Int) + k
      | _ => (l ^^^ (k % n) : Nat)
    if j < 0 ∨ (n : Int) ≤ j then x.v l w.a.toNat else crossRead x w.a.toNat j.toNat

/-- BCAST (R163). -/
def semBcast (w : ExtArgs) : Ctx → List RegWrite × Flags := laneOp32 w fun x _ => crossRead x w.a.toNat w.b.toNat

/-- One combining step of LRED and LSCAN (R164). -/
def redCombine (op : Nat) (a b : Word) : Word × Flags :=
  match op with
  | 0 => (a + b, 0)
  | 1 => let r := fpAdd fmt32 .rne false (fp32 a) (fp32 b); (BitVec.ofNat 32 r.1, r.2)
  | 2 => (minMax false false a b, 0)
  | 3 => (minMax true false a b, 0)
  | 4 => fpMinMax false a b
  | 5 => fpMinMax true a b
  | 6 => (a &&& b, 0)
  | _ => (a ||| b, 0)

/-- first of R164: a signalling NaN becomes the default NaN for the FP operations. -/
def redFirst (op : Nat) (a : Word) : Word × Flags :=
  if (op = 1 ∨ op = 4 ∨ op = 5) ∧ (fp32 a).isSig then (0x7FC00000, flagIV) else (a, 0)

/-- The identity of an exclusive scan (R164). -/
def redIdentity (op : Nat) : Word :=
  match op with
  | 0 => 0 | 1 => 0x80000000 | 2 => 0x7FFFFFFF | 3 => 0x80000000
  | 4 => 0x7F800000 | 5 => 0xFF800000 | 6 => 0xFFFFFFFF | _ => 0

/-- The inclusive prefixes over a list of values, in order. -/
def scanList (op : Nat) : Option Word → List Word → List Word × Flags
  | _, [] => ([], 0)
  | acc, v :: l =>
    let (r, fl) := match acc with
      | none => redFirst op v
      | some a => redCombine op a v
    let (rs, fs) := scanList op (some r) l
    (r :: rs, fl ||| fs)

/-- LRED (R164): the last prefix, to every active lane. -/
def semLred (w : ExtArgs) (x : Ctx) : List RegWrite × Flags :=
  let ls := x.active w
  let (r, fl) := scanList w.sub.toNat none (ls.map fun l => x.v l w.a.toNat)
  match r.getLast? with
  | none => ([], 0)
  | some v => (ls.flatMap fun l => x.wv l w.d.toNat v, fl)

/-- LSCAN (R164): each active lane its prefix, or with SUB[3] the prefix before it. -/
def semLscan (w : ExtArgs) (x : Ctx) : List RegWrite × Flags :=
  let ls := x.active w
  let op := w.sub.toNat % 8
  let (r, fl) := scanList op none (ls.map fun l => x.v l w.a.toNat)
  let r := if w.sub.getLsbD 3 then redIdentity op :: r else r
  ((ls.zip r).flatMap fun p => x.wv p.1 w.d.toNat p.2, fl)

/-- ELECT (R165): the lowest active lane. -/
def semElect (w : ExtArgs) (x : Ctx) : List RegWrite × Flags :=
  let ls := x.active w
  (ls.flatMap fun l => x.wp l w.d.toNat (decide (ls.head? = some l)), 0)

/-- RNDX (R166): the counter pair of the lane under the key pair of its slice. -/
def semRndx (w : ExtArgs) : Ctx → List RegWrite × Flags :=
  laneOp32 w fun x l => rndx (x.vv l w.a.toNat) (x.ss (l / 4) w.b.toNat)

/-- CVT, base form. -/
def execCvt (w : BaseArgs) (s : State) : Host.Outcome State Fault Refusal :=
  issueRegs (howOp 0x80 false (w.ext none)) (semCvt (w.ext none)) s

/-- CVT, extended form. -/
def execCvtX (w : ExtArgs) (s : State) : Host.Outcome State Fault Refusal :=
  issueRegs (howOp 0x80 true w) (semCvt w) s

/-- CVTF, base form. -/
def execCvtf (w : BaseArgs) (s : State) : Host.Outcome State Fault Refusal :=
  issueRegs (howOp 0x81 false (w.ext none)) (semCvtf (w.ext none)) s

/-- CVTF, extended form. -/
def execCvtfX (w : ExtArgs) (s : State) : Host.Outcome State Fault Refusal :=
  issueRegs (howOp 0x81 true w) (semCvtf w) s

/-- CVTI, base form. -/
def execCvti (w : BaseArgs) (s : State) : Host.Outcome State Fault Refusal :=
  issueRegs (howOp 0x82 false (w.ext none)) (semCvti (w.ext none)) s

/-- CVTI, extended form. -/
def execCvtiX (w : ExtArgs) (s : State) : Host.Outcome State Fault Refusal :=
  issueRegs (howOp 0x82 true w) (semCvti w) s

/-- PACK, base form. -/
def execPack (w : BaseArgs) (s : State) : Host.Outcome State Fault Refusal :=
  issueRegs (howOp 0x83 false (w.ext none)) (semPack (w.ext none)) s

/-- PACK, extended form. -/
def execPackX (w : ExtArgs) (s : State) : Host.Outcome State Fault Refusal :=
  issueRegs (howOp 0x83 true w) (semPack w) s

/-- UNPACK, base form. -/
def execUnpack (w : BaseArgs) (s : State) : Host.Outcome State Fault Refusal :=
  issueRegs (howOp 0x84 false (w.ext none)) (semUnpack (w.ext none)) s

/-- UNPACK, extended form. -/
def execUnpackX (w : ExtArgs) (s : State) : Host.Outcome State Fault Refusal :=
  issueRegs (howOp 0x84 true w) (semUnpack w) s

/-- QSCALE, base form. -/
def execQscale (w : BaseArgs) (s : State) : Host.Outcome State Fault Refusal :=
  issueRegs (howOp 0x85 false (w.ext none)) (semQscale (w.ext none)) s

/-- QSCALE, extended form. -/
def execQscaleX (w : ExtArgs) (s : State) : Host.Outcome State Fault Refusal :=
  issueRegs (howOp 0x85 true w) (semQscale w) s

/-- SHFL, base form. -/
def execShfl (w : BaseArgs) (s : State) : Host.Outcome State Fault Refusal :=
  issueVar (howOp 0x86 false (w.ext none)) (semShfl (w.ext none)) s

/-- SHFL, base form with a literal. -/
def execShflL (w : BaseArgs) (lit : DWord) (s : State) : Host.Outcome State Fault Refusal :=
  issueVar (howOp 0x86 false (w.ext (some lit))) (semShfl (w.ext (some lit))) s

/-- SHFL, extended form. -/
def execShflX (w : ExtArgs) (s : State) : Host.Outcome State Fault Refusal :=
  issueVar (howOp 0x86 true w) (semShfl w) s

/-- BCAST, base form. -/
def execBcast (w : BaseArgs) (s : State) : Host.Outcome State Fault Refusal :=
  issueVar (howOp 0x87 false (w.ext none)) (semBcast (w.ext none)) s

/-- BCAST, extended form. -/
def execBcastX (w : ExtArgs) (s : State) : Host.Outcome State Fault Refusal :=
  issueVar (howOp 0x87 true w) (semBcast w) s

/-- LRED, base form. -/
def execLred (w : BaseArgs) (s : State) : Host.Outcome State Fault Refusal :=
  issueVar (howOp 0x88 false (w.ext none)) (semLred (w.ext none)) s

/-- LRED, extended form. -/
def execLredX (w : ExtArgs) (s : State) : Host.Outcome State Fault Refusal :=
  issueVar (howOp 0x88 true w) (semLred w) s

/-- LSCAN, base form. -/
def execLscan (w : BaseArgs) (s : State) : Host.Outcome State Fault Refusal :=
  issueVar (howOp 0x89 false (w.ext none)) (semLscan (w.ext none)) s

/-- LSCAN, extended form. -/
def execLscanX (w : ExtArgs) (s : State) : Host.Outcome State Fault Refusal :=
  issueVar (howOp 0x89 true w) (semLscan w) s

/-- ELECT, base form. -/
def execElect (w : BaseArgs) (s : State) : Host.Outcome State Fault Refusal :=
  issueVar (howOp 0x8A false (w.ext none)) (semElect (w.ext none)) s

/-- ELECT, extended form. -/
def execElectX (w : ExtArgs) (s : State) : Host.Outcome State Fault Refusal :=
  issueVar (howOp 0x8A true w) (semElect w) s

/-- RNDX, base form. -/
def execRndx (w : BaseArgs) (s : State) : Host.Outcome State Fault Refusal :=
  issueVar (howOp 0x8B false (w.ext none)) (semRndx (w.ext none)) s

/-- RNDX, extended form. -/
def execRndxX (w : ExtArgs) (s : State) : Host.Outcome State Fault Refusal :=
  issueVar (howOp 0x8B true w) (semRndx w) s


end Sys2Proof.Machine
end

