-- ==== Sys2Proof/Machine/Dispatcher.lean ====
section
/-! DEFINITION. The dispatcher: placement (R37 to R41, R112, R338), pre-emption and resume (R62 to R67, R135, R356), results that land
(R52), yield overruns (R60), retirement (R58), and the host's answers (R216, R364). -/

namespace Sys2Proof.Machine

/-! ### Placement (R37, R38, R338) -/

/-- What a partition holds: groups, registers, instruction-buffer slots. -/
abbrev Load := Nat × Nat × Nat

/-- The load of a partition of a core. -/
def partLoad (s : State) (c part : Nat) : Load :=
  let l := s.groups.filter fun e => decide (e.2.part = part) && (kget s.teams e.2.team).any fun t => decide (t.core = some c)
  (l.length, (l.map fun e => e.2.width * e.2.alloc).sum, (l.map fun e => (e.2.splits.filter (·.valid)).length).sum)

/-- A partition takes one more group of n registers and b instruction-buffer slots. -/
def addLoad (p : Load) (n b : Nat) : Option Load :=
  if p.1 < 16 ∧ p.2.1 + n ≤ 16384 ∧ p.2.2 + b ≤ 24 then some (p.1 + 1, p.2.1 + n, p.2.2 + b) else none

/-- Whether a core may take a team of local bytes besides its partitions: it exists, is not gated, and has room. -/
def coreOpen (s : State) (c localSize : Nat) : Bool :=
  let l := s.teams.filter fun e => decide (e.2.core = some c)
  let loc := (l.map fun e => ((kget s.grids e.2.grid.toNat).map (·.launch.localSize)).getD 0).sum
  decide (c < coreCount) && !(s.islands.getD (15 * (c / 192) + c % 192 / 16) Island.init).gate && decide (l.length < 16)
    && decide (loc + localSize ≤ 524288)

/-- The slice offsets that a group of a width may have (R38). -/
def offsetOk (width off : Nat) : Bool :=
  match width with
  | 8 => decide (off % 2 = 0 ∧ off ≤ 6)
  | 16 => decide (off = 0 ∨ off = 4)
  | _ => decide (off = 0)

/-- The placement of groups on a core: each has a partition and an offset, a number of registers and of instruction-buffer slots.
DESIGN CHOICE (log 14). -/
def placeOk (s : State) (c localSize width : Nat) (l : List ((Nat × Nat) × Nat × Nat)) : Bool :=
  coreOpen s c localSize && l.all (fun g => decide (g.1.1 < 8) && offsetOk width g.1.2)
    && (List.range 8).all fun p =>
        ((l.filter fun g => decide (g.1.1 = p)).foldl
          (fun (acc : Option Load) g => acc.bind fun q => addLoad q g.2.1 g.2.2) (some (partLoad s c p))).isSome

/-- Whether some placement of the groups exists on a core. -/
def someplace : List (Nat × Nat) → List Load → Bool
  | [], _ => true
  | g :: gs, l => (List.range 8).any fun p =>
      match addLoad (l.getD p (16, 0, 0)) g.1 g.2 with
      | some q => someplace gs (l.set p q)
      | none => false

/-- The registers and instruction-buffer slots of the groups of a launch's new team. -/
def launchNeeds (l : Launch) : List (Nat × Nat) := (List.range l.groups).map fun g => (l.width * (l.window g).2, 1)

/-- The groups of a taken team as they need room (R356). -/
def teamNeeds (s : State) (tu : Nat) : List (Nat × Nat) :=
  (teamGroups s tu).map fun p => (p.2.width * p.2.alloc, (p.2.splits.filter (·.valid)).length)

/-- The accumulator slots that a taken team needs (R65). -/
def teamSlots (s : State) (tu : Nat) : Nat := ((teamGroups s tu).map fun p => p.2.saved.length).sum

/-- Whether a core could take groups of these needs. -/
def coreFits (s : State) (c localSize slots : Nat) (needs : List (Nat × Nat)) : Bool :=
  coreOpen s c localSize && decide (slots ≤ (coreAt s c).free.length)
    && someplace needs ((List.range 8).map (partLoad s c))

/-- The cluster of a core (R17). -/
def clusterOf (c : Nat) : Nat := c / 8

/-- A set of needs can be placed: on a core, or for a pair on cores of two clusters (R41). -/
def canPlace (s : State) (paired : Bool) (localSize slots : Nat) (needs : List (Nat × Nat)) : Bool :=
  let l := (List.range coreCount).filter fun c => coreFits s c localSize slots needs
  if paired then l.any fun c => decide (clusterOf c ≠ clusterOf (l.headD 0)) else !l.isEmpty

/-- The dispatcher may place or resume teams of the grid (R62, R375, R409). -/
def Grid.open (g : Grid) : Bool :=
  !g.awaitsApproval && !g.preq && !g.replaying && decide (g.phase = .accepted ∨ g.phase = .running)

/-- The grid has a next team to place. -/
def Grid.queued (g : Grid) : Bool := g.open && decide (g.next < g.launch.teams)

/-- The primaries of taken teams of a grid. -/
def takenOf (s : State) (h : Nat) : List Nat :=
  (s.teams.filter fun e => decide (e.2.grid.toNat = h) && e.2.core.isNone && !e.2.shadow && !e.2.ended).map (·.1)

/-- A queued team of grid h cannot be placed (R62, R67). -/
def blocked (s : State) (h : Nat) : Bool :=
  match kget s.grids h with
  | none => false
  | some g =>
    (g.queued && !canPlace s g.launch.paired g.launch.localSize 0 (launchNeeds g.launch))
      || (g.open && (takenOf s h).any fun tu =>
            !canPlace s g.launch.paired g.launch.localSize (teamSlots s tu) (teamNeeds s tu))

/-- Grid a comes before grid b in the dispatcher's order (R40). -/
def Grid.before (a b : Grid) : Bool := decide (b.prio < a.prio) || (decide (a.prio = b.prio) && decide (a.order < b.order))

/-- The next team of a launch fits with core c among its places: alone, or for a pair with a core of another cluster (R40, R41). -/
def nextFits (s : State) (l : Launch) (c : Nat) : Bool :=
  let fits (d : Nat) : Bool := coreFits s d l.localSize 0 (launchNeeds l)
  fits c && (!l.paired || (List.range coreCount).any fun d => decide (clusterOf d ≠ clusterOf c) && fits d)

/-- No grid that comes before has a team that fits with the place (R40). -/
def turnOf (s : State) (g : Grid) (c : Nat) : Bool :=
  !(s.grids.any fun e => e.2.queued && e.2.before g && nextFits s e.2.launch c)

/-- A group as it starts (R109, R112, R121, R337). -/
def newGroup (l : Launch) (tu gid : Nat) (at_ : Nat × Nat) : Group :=
  let w := l.width
  let n := w / 4
  let sl : Slice := { pc := l.entry, c := [], s := [], loops := [], wb := 0, rb := 0, wneed := 0 }
  { team := tu, gid := gid, width := w, nregs := (l.window gid).1, alloc := (l.window gid).2, part := at_.1, off := at_.2
    slices := List.replicate n sl
    v := fsetAll [] ((List.range w).map fun k => (k * 2048, BitVec.ofNat 32 k))
    p := []
    splits := { Split.none with valid := true, mask := sliceMask (List.range n) } :: List.replicate 3 Split.none
    h := List.replicate 16 none, j := List.replicate 8 ⟨false, 0, 0⟩, dstack := [], spcnt := 0, spill := [], spbase := 0, fstat := 0
    budget := l.budget0, mbatch := 0, mopen := 0, scratch0 := 0, scratch1 := 0, fmask := 0, fcause := 0, faddr := 0
    handler := none, hold := false, saved := [] }

/-- A team that starts has seen the writes of engine operations that have completed, and those of sequencers (R55, R231). DEDUCED (log 42). -/
def seeStart (s : State) (t : Team) : State :=
  { s with behind := seeAll (t.groups.flatMap fun u => sliceKeys u (List.range 16))
                       (fun v => v.op.all fun o => !opLive s o.1) s.behind }

/-- A team as it starts on a core, with identities from uid on: the team's own, then its groups'. The launch's release is ordered before
its accesses, and the core's L1 holds no older line (R55, R231). DEDUCED (log 42). -/
def startTeam (s : State) (h : Nat) (g : Grid) (place : Place) (shadow : Bool) (uid : Nat) (twin : Option Nat) : State :=
  let l := g.launch
  let us := (List.range l.groups).map fun k => (uid + 1 + k, newGroup l uid k (place.parts.getD k (0, 0)))
  let t : Team :=
    { grid := BitVec.ofNat 14 h, num := g.next, core := some place.core, groups := us.map (·.1), mem := [], behind := [], tags := []
      request := false, forGrid := none, taking := false, shadow := shadow, twin := twin, held := [], sig := 0, writes := 0
      eng := [], fwd := [], stop := none, ended := false }
  let s := seeStart (dropL1 s place.core) t
  { s with teams := kset s.teams uid t
           groups := us.foldl (fun m p => kset m p.1 p.2) s.groups
           uidCtr := max s.uidCtr (uid + 1 + l.groups) }

/-- The groups of a launch at a place. -/
def launchPlace (l : Launch) (p : Place) : List ((Nat × Nat) × Nat × Nat) := p.parts.zip (launchNeeds l)

/-- DISPATCH_TEAM (R40, R41, R58), by the grid's command processor (R408). -/
def execDispatchTeam (handle : BitVec 14) (place : Place) (twin : Option Place) (s : State) :
    Host.Outcome State Fault Refusal :=
  happens s <|
  match kget s.grids handle.toNat with
  | none => none
  | some g =>
    let l := g.launch
    let fits (s : State) (p : Place) : Bool :=
      decide (p.parts.length = l.groups) && placeOk s p.core l.localSize l.width (launchPlace l p)
    let go (s : State) : State :=
      modGrid s handle.toNat fun g => { g with next := g.next + 1, phase := .running }
    let u := s.uidCtr
    if delayed s (cpOf s handle.toNat) || !g.queued || !fits s place || !turnOf s g place.core || !(twin.all fun q => turnOf s g q.core) then none
    else
      match l.paired, twin with
      | false, none => some (go (startTeam s handle.toNat g place false u none))
      | true, some q =>
        let v := u + 1 + l.groups
        let s := startTeam s handle.toNat g place false u (some v)
        whenOk (fits s q && decide (clusterOf q.core ≠ clusterOf place.core)) fun _ =>
          go (startTeam s handle.toNat g q true v (some u))
      | _, _ => none

/-! ### Pre-emption (R62 to R67) -/

/-- A request on a team and its twin. -/
def request (s : State) (tu : Nat) (h : BitVec 14) : State :=
  let one (s : State) (u : Nat) : State := modTeam s u fun t => { t with request := true, forGrid := some h }
  match pairOf s tu with
  | some (p, v) => one (one s p) v
  | none => one s tu

/-- The grid of a team. -/
def gridOf (s : State) (tu : Nat) : Option Grid := (kget s.teams tu).bind fun t => kget s.grids t.grid.toNat

/-- The dispatcher withdraws a request of its own: parked streams continue (R62). It is the command processor's, and while that is replaced there
is none (R408, R415). -/
def withdraw (s : State) (tu : Nat) : State :=
  let one (s : State) (u : Nat) : State :=
    match kget s.teams u with
    | some t =>
      if t.request && t.forGrid.isSome then
        unpark (modTeam s u fun t => { t with request := ((kget s.grids t.grid.toNat).any (·.preq)), forGrid := none }) u
      else s
    | none => s
  if ((kget s.teams tu).map (·.grid.toNat)).any fun h => delayed s (cpOf s h) then s
  else
    match pairOf s tu with
    | some (p, v) => one (one s p) v
    | none => one s tu

/-- DISPATCHER_PREEMPT (R62). -/
def execDispatcherPreempt (team : Nat) (forGrid : BitVec 14) (s : State) : Host.Outcome State Fault Refusal :=
  happens s <|
  match kget s.teams team, gridOf s team, kget s.grids forGrid.toNat with
  | some t, some g, some f =>
    whenOk (!delayed s (cpOf s forGrid.toNat) && t.core.isSome && !t.request && !t.ended && decide (g.prio < f.prio) && blocked s forGrid.toNat)
      fun _ => request s team forGrid
  | _, _, _ => none

/-- A stream has stopped (R63): at a YIELD, in a wait, at a REGANG, or at a compare point. -/
def Split.stopped (sp : Split) : Bool :=
  !sp.valid || (sp.pend.isEmpty && sp.trap.isNone && sp.refused.isNone && (sp.wait || match sp.run with
    | .park | .wait _ | .pair _ => true
    | .run | .host _ _ => false))

/-- A stream waits in a scheduler-visible wait. -/
def Split.waiting (sp : Split) : Bool :=
  match sp.run with
  | .wait _ => true
  | _ => false

/-- Every stream of a team has stopped, no result is outstanding and no operation incomplete (R63). -/
def teamStopped (s : State) (tu : Nat) : Bool :=
  match kget s.teams tu with
  | none => false
  | some t =>
    t.core.isSome && !t.ended && t.stop.isNone && (teamGroups s tu).all fun p =>
      p.2.handler.isNone && p.2.splits.all Split.stopped && !hasPosted s p.1

/-- The live count that a group is saved with (R64, R356). -/
def Group.liveCount (g : Group) : Nat :=
  let l := g.splits.filter fun sp => sp.valid && !sp.wait
  if l.isEmpty ∨ l.any (fun sp => decide (sp.run ≠ .park)) then g.nregs else l.foldl (fun n sp => max n sp.live) 0

/-- Whether physical register k of a lane lies in the saved range of its slice (R64). -/
def Group.saves (g : Group) (lane k : Nat) : Bool :=
  let sl := g.slice (lane / 4)
  let from_ := (k + g.alloc - sl.rb % g.alloc) % g.alloc
  decide (from_ < sl.wb - sl.rb + g.liveCount)

/-- Registers that are not saved hold their old values or zero (R61, R66, R135). -/
def Group.forget (g : Group) (base : Nat) : Group :=
  { g with v := g.v.filter fun e => g.saves (e.1 / 2048) (e.1 % 2048) || decide (Config.free (base + e.1) % 2 = 0) }

/-- The tiles of a group's bound handles. -/
def Group.tiles (g : Group) (k : Core) : KMap (FMap 32) :=
  g.h.zipIdx.filterMap fun p => p.1.map fun n => (p.2, accTile k n.toNat)

/-- A group as it is saved (R64, R66, R397): a stream taken in a wait regains its unit of budget and executes the wait again, as does one at
a compare point; a budget of 4,095 that regains a unit becomes 0. DESIGN CHOICE (log 15). -/
def Group.taken (g : Group) (k : Core) (base : Nat) : Group :=
  let units := (g.splits.filter fun sp => sp.valid && sp.waiting).length
  let f := g.forget base
  { f with
    saved := g.tiles k
    h := List.replicate 16 none
    budget := (g.budget + units) % 4096
    mopen := 0
    fmask := 0
    fcause := 0
    faddr := 0
    slices := g.slices.map fun sl => { sl with wneed := 0 }
    splits := g.splits.map fun sp => { sp with run := .run, compared := false, step := false } }

/-- Bytes of the grid's context save area take the image of what is saved (R64, R413): which and with what values is the firmware's
layout. DESIGN CHOICE (log 15). -/
def saveImage (s : State) (h : Nat) : State :=
  match (kget s.grids h).bind fun g => kget s.spaces g.space with
  | some sp =>
    if sp.save = 0 then s
    else
      { s with mem := writeList s.mem ((sp.save.toNat + Config.free s.freeCtr) % 2 ^ 52) (Config.saveImage s.freeCtr)
               freeCtr := s.freeCtr + 1 }
  | none => s

/-- A team is taken: its core is free (R64, R65). -/
def takeTeam (s : State) (tu : Nat) : State :=
  match kget s.teams tu with
  | none => s
  | some t =>
    match t.core with
    | none => s
    | some c =>
      let s := t.groups.foldl (fun s u =>
        match kget s.groups u with
        | none => s
        | some g =>
          let s := { s with groups := kset s.groups u (g.taken (coreAt s c) s.freeCtr), freeCtr := s.freeCtr + 2 ^ 17 }
          returnSlots s c g.slots) (saveImage s t.grid.toNat)
      let s := modTeam s tu fun t => { t with core := none, request := false, forGrid := none, taking := false }
      if t.shadow then s else count s t.grid.toNat 14 1

/-- The twins stand at the same points. -/
def standTogether (s : State) (p v : Nat) : Bool :=
  (teamGroups s p).all fun x => (twinGroup s v x.2.gid).any fun y =>
    decide ((List.range 4).map x.2.stands = (List.range 4).map y.2.stands)
      && decide (x.2.splits.map (·.valid) = y.2.splits.map (·.valid))

/-- Where the twins stand together as they are taken: the first shared compare point, or where every stream stands with the other twin's. -/
def takePoint (s : State) (p v : Nat) : Option (Nat × Nat) :=
  match meeting Group.comparingTaken s p v with
  | m :: _ => some (m.1, m.2.1)
  | [] => if standTogether s p v then some (((teamGroups s p).map (·.1)).headD 0, 0) else none

/-- A team is taken, or a pair once both twins have stopped (R63, R70): where a stream of both stands at one compare point, or every stream
at one place, after the compare (R379), and otherwise with what each holds. DESIGN CHOICE (log 16). -/
def takeAll (s : State) (tu : Nat) : Option State :=
  match pairOf s tu with
  | none => if teamStopped s tu then some (takeTeam s tu) else none
  | some (p, v) =>
    if teamStopped s p && teamStopped s v then
      match takePoint s p v with
      | none => some (takeTeam (takeTeam s p) v)
      | some (u, e) =>
        some (if sigsEqual s p v then takeTeam (takeTeam (comparePair s p v) p) v else mismatchPair s p v u e 0)
    else none

/-- TEAM_TAKEN (R63). -/
def execTeamTaken (team : Nat) (s : State) : Host.Outcome State Fault Refusal :=
  happens s <|
  match kget s.teams team with
  | some t =>
    match t.request && !delayed s (cpOf s t.grid.toNat), takeAll s team with
    | true, some s => some s
    | _, _ => none
  | none => none

/-- Every stream of a team is stopped in a scheduler-visible wait. -/
def allWait (s : State) (tu : Nat) : Bool := (teamGroups s tu).all fun p => p.2.splits.all fun sp => !sp.valid || sp.waiting

/-- SWAP_OUT (R67): a pair goes when the streams of both twins wait. -/
def execSwapOut (team : Nat) (forGrid : BitVec 14) (s : State) : Host.Outcome State Fault Refusal :=
  happens s <|
  match kget s.teams team, gridOf s team, kget s.grids forGrid.toNat with
  | some t, some g, some f =>
    if !delayed s (cpOf s t.grid.toNat) && !t.request && decide (g.prio ≤ f.prio) && blocked s forGrid.toNat
        && allWait s team && t.twin.all (allWait s) then
      match takeAll s team with
      | some s => some s
      | none => none
    else none
  | _, _, _ => none

/-- A resumed group's handles are bound to slots of its new core (R65). -/
def rebind (s : State) (c u : Nat) : State :=
  match kget s.groups u with
  | none => s
  | some g =>
    let s := g.saved.foldl (fun s p =>
      match (coreAt s c).free with
      | n :: rest =>
        setHandle (modCore s c fun k => { k with free := rest, acc := kset k.acc n p.2 }) u p.1 (some (BitVec.ofNat 5 n))
      | [] => s) s
    modGroup s u fun g => { g with saved := [] }

/-- A taken team on a place: offsets are kept, partitions may change (R65). -/
def resumePlace (s : State) (tu : Nat) (p : Place) : Option (List ((Nat × Nat) × Nat × Nat)) :=
  let gs := (teamGroups s tu).map (·.2)
  if p.parts.length = gs.length ∧ p.parts.map (·.2) = gs.map (·.off) then some (p.parts.zip (teamNeeds s tu)) else none

/-- Whether a taken team fits a place. -/
def resumeOk (s : State) (tu : Nat) (g : Grid) (p : Place) : Bool :=
  (resumePlace s tu p).any fun l => placeOk s p.core g.launch.localSize g.launch.width l
    && decide (teamSlots s tu ≤ (coreAt s p.core).free.length)

/-- A taken team is resident again; its core's L1 holds no line (R241). -/
def resumeTeam (s : State) (tu : Nat) (p : Place) : State :=
  match kget s.teams tu with
  | none => s
  | some t =>
    let s := modTeam (dropL1 s p.core) tu fun t => { t with core := some p.core }
    (t.groups.zip p.parts).foldl (fun s x =>
      rebind (modGroup s x.1 fun g => { g with part := x.2.1 }) p.core x.1) s

/-- TEAM_RESUME (R65, R41): the order of R40 is for placing, and resuming takes no turn in it. DESIGN CHOICE (log 14). -/
def execTeamResume (team : Nat) (place : Place) (twin : Option Place) (s : State) :
    Host.Outcome State Fault Refusal :=
  happens s <|
  match kget s.teams team, gridOf s team with
  | some t, some g =>
    if delayed s (cpOf s t.grid.toNat) || t.core.isSome || t.shadow || t.ended || g.preq || g.replaying || !resumeOk s team g place then none
    else
      match t.twin, twin with
      | none, none => some (resumeTeam s team place)
      | some v, some q =>
        let s := resumeTeam s team place
        whenOk (resumeOk s v g q && decide (clusterOf q.core ≠ clusterOf place.core)) fun _ => resumeTeam s v q
      | _, _ => none
  | _, _ => none

/-! ### Results and budgets -/

/-- RESULT_WRITEBACK (R52): the k-th outstanding result of a stream lands; poisoned data raises its fault (R372). -/
def execResultWriteback (group : Nat) (entry : BitVec 2) (k : Nat) (s : State) : Host.Outcome State Fault Refusal :=
  happens s <|
  match kget s.groups group with
  | none => none
  | some g =>
    match (g.split entry.toNat).pend[k]? with
    | none => none
    | some p =>
      whenOk ((g.split entry.toNat).valid && p.await.isNone) fun _ =>
        let e := entry.toNat
        let g' := (if p.bad.isSome then g else g.land p).modSplit e fun sp => { sp with pend := sp.pend.eraseIdx k }
        let s := { s with groups := kset s.groups group g' }
        match p.bad with
        | none => s
        | some b => endByFault s g.team group e g.gid 0x40 b.detail b.inH b.pc 0

/-- The stream would issue an instruction other than YIELD that passes the decode checks (R60, R94). -/
def wouldIssue (x : Ctx) (w : Word) (s : State) : Bool × State :=
  match x.fetchMore (lenWords (wordLen w) - 1) (x.pc.toNat + 4) s [w] with
  | (.inr l, s) => (passes x.dec (wordsOf l) && wordOp w != 0x0E, s)
  | (.inl _, s) => (false, s)

/-- YIELD_OVERRUN (R60): the stream would issue an instruction other than YIELD with a budget of 0. -/
def execYieldOverrun (group : Nat) (entry : BitVec 2) (s : State) : Host.Outcome State Fault Refusal :=
  happens s <|
  match ctxOf s group entry.toNat with
  | none => none
  | some x =>
    match x.fetch s x.pc.toNat with
    | (.ok w, s) =>
      let (ok, s) := wouldIssue x w s
      whenOk (decide (x.g.budget = 0) && !x.inH && ok && (x.g.split x.e).trap.isNone && resultsReady x.g x.e)
        fun _ => streamFault s x 0x1B 0 0
    | _ => none

/-! ### Retirement (R58, R371, R399) -/

/-- The status of a retired grid goes to its parent: the 32 most recent are kept (R399). -/
def tellParent (s : State) (h : Nat) (g : Grid) : State :=
  match g.parent with
  | none => s
  | some p => modGrid s p.toNat fun q =>
      { q with kids := ((BitVec.ofNat 14 h, g.fr.status) :: q.kids).take 32 }

/-- The arrival at the completion object (R58, R393); none where it faults or meets poison. -/
def completionArrival (s : State) (g : Grid) : Option State :=
  let a := g.launch.completion.toNat
  if a = 0 then some s
  else
    match sysAddr s g.space a 16 { needW with r := true, atom := some 0 } with
    | none => none
    | some pa =>
      if (poisonAt s pa 16).isSome then none
      else some { s with mem := writeN s.mem pa 16 ((barrierOf (readN s.mem pa 16)).arrive 1 0).toNat }

/-- The copies of a grid's snapshot table return to the pool (R374). -/
def releaseCopies (s : State) (h : Nat) (g : Grid) : State :=
  modGrid { s with spaces := kmod s.spaces g.space fun sp => { sp with snapFree := sp.snapFree ++ g.snaps.map (·.copy) } } h
    fun g => { g with snaps := [] }

/-- Grid h may retire: all its teams and children have gone, and its remote writes are acknowledged (R58, R371). -/
def canRetire (s : State) (h : Nat) (g : Grid) : Bool :=
  decide (g.next = g.launch.teams) && decide (g.endedTeams = g.launch.teams) && !g.replaying && decide (g.puts = 0)
    && (teamsOf s h).isEmpty && !delayed s (cpOf s h) && !(s.grids.any fun e => decide (e.2.parent = some (BitVec.ofNat 14 h)))

/-- GRID_RETIRE (R58). -/
def execGridRetire (handle : BitVec 14) (s : State) : Host.Outcome State Fault Refusal :=
  happens s <|
  let h := handle.toNat
  match kget s.grids h with
  | none => none
  | some g =>
    whenOk (canRetire s h g) fun _ =>
      let s := releaseCopies s h g
      let s := match completionArrival s g with
        | some s => s
        | none => report s h 0 0 0x4D 1 0 0 0 false
      let st := ((kget s.grids h).map (·.fr.status)).getD 0
      let s := tellParent s h g
      let s := { s with grids := kdel s.grids h }
      match g.source with
      | .ring r i => finishEntry s r i (if st = 0 then 2 else 3) (st % 256) false
      | .child => s

/-! ### The host's answers (R216, R364) -/

/-- HOST_PAGE_ANSWER (R216): the stream executes its instruction again, or an engine its element and the stream stands as before (R223),
or the team ends; a merge that waited for the answer is made, and one for a set that has stopped to be replayed comes too late (R375). -/
def execHostPageAnswer (group : Nat) (entry : BitVec 2) (mapped : Bool) (s : State) :
    Host.Outcome State Fault Refusal :=
  happens s <|
  let e := entry.toNat
  match kget s.groups group with
  | none => none
  | some g =>
    if setStopped s g.team then none
    else
    match (g.split e).run with
    | .host page parked =>
      let s := mapOps (modGroup s group fun g => g.modSplit e fun sp => { sp with run := if parked then .park else .run })
        (resumeOp group e none)
      some (if mapped then modGroup s group mergeAll
             else endByFault s g.team group e g.gid 0x28 0 false (g.stands e).1 page)
    | _ => none

/-- The stream of a held team goes on after its TRAP or HALT, which has issued (R364, R368). -/
def resumeHeld (g : Group) (e : Nat) : Group :=
  if handlerOn g e then { g with handler := g.handler.map fun h => { h with pc := h.pc + 4 } }
  else
    let g := g.modSlices (maskSlices (g.split e).mask) fun _ sl =>
      let r := loopBack sl.pc (sl.pc + 4) sl.loops
      { sl with pc := r.1, loops := r.2 }
    { g with budget := g.budget - 1 }

/-- A held team is let go: it and its twin hold on only for a cause of the twin's own (R41, R364). -/
def letGo (s : State) (tu : Nat) : State :=
  let twin := (kget s.teams tu).bind (·.twin)
  let other := twin.bind fun v => (kget s.teams v).bind (·.stop)
  let stays := other.filter (·.own)
  let s := modTeam s tu fun t => { t with stop := stays.map fun h => { h with resumable := false, own := false } }
  match twin with
  | some v => modTeam s v fun t => { t with stop := stays }
  | none => s

/-- The stream of a held team has issued its TRAP or HALT (R364, R405). -/
def heldIssued (s : State) (tu : Nat) (h : Held) : State :=
  let s := modGroup s h.group fun g => resumeHeld g h.entry
  match kget s.teams tu with
  | some t => if t.shadow then s else count (count s t.grid.toNat 0 1) t.grid.toNat 3 1
  | none => s

/-- HOST_FAULT_ANSWER (R364). -/
def execHostFaultAnswer (team : Nat) (resume : Bool) (s : State) : Host.Outcome State Fault Refusal :=
  happens s <|
  match ((kget s.teams team).bind (·.stop)).filter fun h => h.own && !setStopped s team with
  | none => none
  | some h =>
    if resume then
      whenOk h.resumable fun _ => heldIssued (letGo s team) team h
    else
      let s := match kget s.teams team with
        | some t => setStatus s t.grid.toNat h.cause
        | none => s
      some (endTwins s team)

end Sys2Proof.Machine
end

