-- ==== Sys2Proof/Machine/Routing.lean ====
section
/-! DEFINITION. What ROUTE computes from a score tensor (R293 to R295). -/

namespace Sys2Proof.Machine

/-- FP32 sums, differences and quotients under RNE (R293); R294 states no quotient of two zeros, which is a free value. DESIGN CHOICE
(log 57). -/
def add32 (a b : Word) : Word := BitVec.ofNat 32 (fpAdd fmt32 .rne false (fp32 a) (fp32 b)).1
def sub32 (a b : Word) : Word := BitVec.ofNat 32 (fpAdd fmt32 .rne false (fp32 a) (fp32 b).neg).1
def div32 (a b : Word) : Word :=
  match fp32 a, fp32 b with
  | .fin _ 0 _ _, .fin _ 0 _ _ => Config.zeroByZero a b
  | .nan _, _ => 0x7FC00000
  | x, y => BitVec.ofNat 32 (narrowFloat fmt32 .rne false (x.divBy y)).1

/-- a > b as FP32. -/
def above32 (a b : Word) : Bool := decide (0 < (fp32 a).cmp (fp32 b))

/-- The softmax of one token over its experts (R293). -/
def softmax (scores : List Word) : List Word :=
  let s := scores.map fun w => if (fp32 w).isNan then 0xFF800000 else w
  let m := s.foldl (fun m w => if above32 w m then w else m) 0xFF800000
  if m = 0xFF800000 then s.map fun _ => 0
  else
    let q := if m = 0x7F800000 then s.map fun w => if w = 0x7F800000 then 0x3F800000 else 0
      else s.map fun w => routeExp (sub32 w m)
    let sum := match q with
      | [] => 0
      | x :: xs => xs.foldl add32 x
    q.map fun x => div32 x sum

/-- Indexes in descending order of their weights, the lower index first among equals. -/
def insertRank (w : Nat → Word) (i : Nat) : List Nat → List Nat
  | [] => [i]
  | j :: l => if above32 (w i) (w j) then i :: j :: l else j :: insertRank w i l
def rank (w : List Word) : List Nat :=
  (List.range w.length).foldl (fun l i => insertRank (fun k => w.getD k 0) i l) []

/-- What routing has assigned: the entries' experts or tokens with their weights, and the two counts. -/
structure Routed where
  idx : List (List (Nat × Word))
  hist : List Nat
  cov : List Nat
  deriving DecidableEq, Repr

/-- A count raised by one. -/
def bump (l : List Nat) (k : Nat) : List Nat := l.modify k (· + 1)

/-- A weight added into an entry. -/
def addWeight (l : List (Nat × Word)) (k : Nat) (p : Word) : List (Nat × Word) :=
  l.modify k fun e => (e.1, add32 e.2 p)

/-- One selection of a token (R294): the experts left, the entries so far and the counts. -/
def selectOne (a : RouteArgs) (p : List Word) : List Nat → List (Nat × Word) → List Nat →
    List Nat × List (Nat × Word) × List Nat
  | [], es, hist => ([], es ++ [(0xFFFF, 0)], hist)
  | e :: rest, es, hist =>
    let r := a.rep.getD e 0
    match es.findIdx? fun x => decide (x.1 = r) with
    | some i => (rest, addWeight es i (p.getD e 0) ++ [(0xFFFF, 0)], hist)
    | none =>
      if a.capacity = 0 ∨ hist.getD r 0 < a.capacity then (rest, es ++ [(r, p.getD e 0)], bump hist r)
      else selectOne a p rest es hist

/-- The k selections of a token. -/
def selectAll (a : RouteArgs) (p : List Word) : Nat → List Nat → List (Nat × Word) → List Nat →
    List (Nat × Word) × List Nat
  | 0, _, es, hist => (es, hist)
  | n + 1, rest, es, hist =>
    let (rest, es, hist) := selectOne a p rest es hist
    selectAll a p n rest es hist

/-- The valid weights are divided by their sum (R294). -/
def renormalise (es : List (Nat × Word)) : List (Nat × Word) :=
  match (es.filter fun e => decide (e.1 ≠ 0xFFFF)).map (·.2) with
  | [] => es
  | w :: ws =>
    let sum := ws.foldl add32 w
    es.map fun e => if e.1 = 0xFFFF then e else (e.1, div32 e.2 sum)

/-- Token choice (R294) on the weights of each token. -/
def tokenChoice (a : RouteArgs) (p : List (List Word)) : Routed :=
  p.foldl (fun r pt =>
    let (es, hist) := selectAll a pt a.k (rank pt) [] r.hist
    { idx := r.idx ++ [if a.renorm then renormalise es else es], hist := hist
      cov := r.cov ++ [(es.filter fun e => decide (e.1 ≠ 0xFFFF)).length] })
    { idx := [], hist := List.replicate a.p 0, cov := [] }

/-- One entry (e, j) of expert choice: token t of weight w (R295). -/
def chooseToken (a : RouteArgs) (e t : Nat) (w : Word) (r : Routed) (col : List (Nat × Word)) :
    Routed × List (Nat × Word) :=
  let same := (List.range e).find? fun e' =>
    decide (a.rep.getD e' 0 = a.rep.getD e 0) && (r.idx.getD e' []).any fun x => decide (x.1 = t)
  match same with
  | some e' =>
    ({ r with idx := r.idx.modify e' fun l => l.map fun x => if x.1 = t then (x.1, add32 x.2 w) else x },
      col ++ [(0xFFFFFFFF, 0)])
  | none => ({ r with hist := bump r.hist (a.rep.getD e 0), cov := bump r.cov t }, col ++ [(t, w)])

/-- Expert choice (R295). -/
def expertChoice (a : RouteArgs) (p : List (List Word)) : Routed :=
  (List.range a.e).foldl (fun r e =>
    let w := p.map fun pt => pt.getD e 0
    let (r, col) := ((rank w).take a.k).foldl (fun acc t => chooseToken a e t (w.getD t 0) acc.1 acc.2) (r, [])
    { r with idx := r.idx ++ [col] })
    { idx := [], hist := List.replicate a.p 0, cov := List.replicate a.t 0 }

/-- The scores in the order in which ROUTE reads them: expert and token. -/
def routePairs (a : RouteArgs) : List (Nat × Nat) :=
  (List.range a.t).flatMap fun t => (List.range a.e).map fun e => (e, t)

/-- The number of entries of ROUTE's two tables, the byte sizes of its outputs' elements and their numbers (R292). -/
def routeSizes (a : RouteArgs) : List (Nat × Nat) :=
  let n := if a.expert then a.e * min a.k a.t else a.t * a.k
  [(if a.expert then 4 else 2, n), (4, n), (4, a.p), (1, a.t)]

/-- The addresses of the outputs that are wanted, in the order of routeWrites. -/
def routeCells (a : RouteArgs) : List Nat :=
  (routeSizes a).zipIdx.flatMap fun x =>
    let base := (a.outs.getD x.2 0).toNat
    if base = 0 then [] else (List.range x.1.2).map fun i => (base + x.1.1 * i) % 2 ^ 64

/-- The bytes of the outputs that are wanted: the byte count of the arrival (R290, R296). -/
def routeBytes (a : RouteArgs) : Nat :=
  ((routeSizes a).zipIdx.map fun x => if a.outs.getD x.2 0 = 0 then 0 else x.1.1 * x.1.2).sum

/-- The outputs that are wanted as (address, bytes, value) writes (R292). -/
def routeWrites (a : RouteArgs) (r : Routed) : List (Nat × Nat × Nat) :=
  let out (k n : Nat) (l : List Nat) : List (Nat × Nat × Nat) :=
    let base := (a.outs.getD k 0).toNat
    if base = 0 then [] else l.zipIdx.map fun x => ((base + n * x.2) % 2 ^ 64, n, x.1)
  let es := r.idx.flatten
  out 0 (if a.expert then 4 else 2) (es.map (·.1)) ++ out 1 4 (es.map fun e => e.2.toNat) ++ out 2 4 r.hist
    ++ out 3 1 (r.cov.map (min 255))

end Sys2Proof.Machine
end

