-- ==== Sys2Proof/Machine/Engines.lean ====
section
/-! DEFINITION. What the engines do: the matrix FIFO (R270, R271, R274), batches (R273), the barge (R287 to R290), the sluice (R293 to R296), the
collective queue (R321, R322), and the delivery of their page faults (R221, R223). -/

namespace Sys2Proof.Machine

/-! ### The matrix FIFO -/

/-- A counter of a team's grid grows by one, but for a shadow's event (R405). -/
def countTeam (s : State) (tu c : Nat) : State :=
  match kget s.teams tu with
  | some t => if t.shadow then s else count s t.grid.toNat c 1
  | none => s

/-- The head operation leaves the FIFO: it has completed. -/
def popFifo (s : State) (c : Nat) (o : MatOp) : State :=
  queueMoved (countTeam (modCore s c fun k => { k with fifo := k.fifo.tail, starve := none }) o.team 8) o.team

/-- A slot of AWR's block takes a value. -/
def writeBlock (vals : List (Nat × Nat × Word)) (t : FMap 32) : FMap 32 :=
  fsetAll t (vals.map fun v => (v.1 * 64 + v.2.1, v.2.2))

/-- What the engine does with the operation at the head (R278 to R280); none while it waits for a slot, with the handles that it has bound. -/
def performMat (s : State) (c : Nat) (o : MatOp) : State × Bool :=
  let u := o.group
  let onTile (h : Nat) (f : FMap 32 → FMap 32) : State × Bool :=
    match bindHandle s c u h with
    | some (n, s) => (modTile s c n f, true)
    | none => (s, false)
  match o.kind with
  | .mma h m => onTile h (mmaTile m)
  | .dmma h hc m =>
    match bindHandle s c u h with
    | none => (s, false)
    | some (n, s) =>
      match bindHandle s c u hc with
      | none => (s, false)
      | some (n', s) => (modTile (modTile s c n (mmaTile m)) c n' (dmmaTile m), true)
  | .azero h act w => onTile h (mapRows act w fun _ _ _ => 0)
  | .awr h vals => onTile h (writeBlock vals)
  | .arel h => (releaseHandle s c u h, true)
  | .ard h dst =>
    let t := match boundSlot s u h with
      | some n => accTile (coreAt s c) n
      | none => []
    (deliverArd s u o.id (dst.map fun d => (d.1, fget t (d.2.1 * 64 + d.2.2))), true)
  | .adrain _ | .qfence _ => (s, false)

/-- Whether an operation is one that MATRIX_FIFO_HEAD performs. -/
def MatOp.performs (o : MatOp) : Bool :=
  match o.kind with
  | .adrain _ | .qfence _ => false
  | _ => true

/-- MATRIX_FIFO_HEAD (R270): the operation is performed, or starts to wait for a slot. -/
def execMatrixFifoHead (core : Nat) (s : State) : Host.Outcome State Fault Refusal :=
  happens s <|
  match (coreAt s core).fifo with
  | [] => none
  | o :: _ =>
    if !o.performs then none
    else
      match performMat s core o with
      | (s, true) => some (popFifo s core o)
      | (s, false) =>
        some (if (coreAt s core).starve.isSome then s else modCore s core fun k => { k with starve := some s.dtime })

/-- The ticks that an operation waits for a slot (R271). -/
def starveLimit : Nat := 1048576

/-- A fence that a team's removal takes from the FIFO no longer stands there. -/
def dropFence (ids : List Nat) (o : EngOp) : EngOp :=
  match o.kind with
  | .qfence m => if ids.contains o.id then { o with kind := .qfence (m &&& 0xE) } else o
  | _ => o

/-- The reserved entry of a removed ADRAIN fails as aborted (R271). -/
def abortDrain (ids : List Nat) (o : EngOp) : EngOp :=
  match o.kind with
  | .drain d f a w none _ => if ids.contains o.id then { o with kind := .drain d f a w none true } else o
  | _ => o

/-- ACCUMULATOR_STARVATION (R271): the free list has stayed empty for the limit (R70). DEDUCED (log 18). -/
def execAccumulatorStarvation (core : Nat) (s : State) : Host.Outcome State Fault Refusal :=
  happens s <|
  let k := coreAt s core
  match k.fifo, k.starve with
  | o :: _, some since =>
    whenOk (decide (starveLimit ≤ (s.dtime - since).toNat) && k.free.isEmpty) fun _ =>
      let ids := (k.fifo.filter fun x => decide (x.team = o.team)).map (·.id)
      let s := mapOps (modCore s core fun k =>
        { k with fifo := k.fifo.filter fun x => !decide (x.team = o.team), starve := none })
        fun x => dropFence ids (abortDrain ids x)
      let s := (teamGroups s o.team).foldl (fun s p =>
        (List.range 16).foldl (fun s h => releaseHandle s core p.1 h) s) s
      let gid := ((kget s.groups o.group).map (·.gid)).getD 0
      queueMoved (endByFault s o.team o.group 16 gid 0x26 0 false 0 0) o.team
  | _, _ => none

/-- An operation of a group's batch is incomplete (R269, R274): one in the matrix FIFO, or a drain that the barge has not written; the
copy, routing and collective queues report their own operations themselves (R291). -/
def batchOpen (s : State) (u : Nat) (b : BitVec 8) : Bool :=
  s.cores.any fun c => c.2.fifo.any (fun o => decide (o.group = u ∧ o.batch = b))
    || c.2.copyq.any fun o => o.isDrain && decide (o.group = u ∧ o.batch = b)

/-- BATCH_RETIRE (R273): the group's oldest outstanding batch. -/
def execBatchRetire (group : Nat) (s : State) : Host.Outcome State Fault Refusal :=
  happens s <|
  match kget s.groups group with
  | none => none
  | some g =>
    whenOk (decide (g.mopen ≠ 0) && !batchOpen s group (g.mbatch - BitVec.ofNat 8 g.mopen)) fun _ =>
      modGroup s group fun g => { g with mopen := g.mopen - 1 }

/-- ADRAIN_HAND_OVER (R287): an unbound handle drains zeros. The drain completes later (R274). -/
def execAdrainHandOver (core : Nat) (s : State) : Host.Outcome State Fault Refusal :=
  happens s <|
  match (coreAt s core).fifo with
  | o :: _ =>
    match o.kind with
    | .adrain h =>
      let t := match boundSlot s o.group h with
        | some n => accTile (coreAt s core) n
        | none => []
      let give (x : EngOp) : EngOp :=
        match x.kind with
        | .drain d f a w none false => if x.id = o.id then { x with kind := .drain d f a w (some t) false } else x
        | _ => x
      let s := modCore s core fun k => { k with fifo := k.fifo.tail, copyq := k.copyq.map give }
      some (queueMoved s o.team)
    | _ => none
  | [] => none

/-! ### Completion -/

/-- An arrival at a receiving team of a BCOPYM, if it has not ended (R289). -/
def arriveAt (s : State) (word : Word) (bytes tu : Nat) : State :=
  if (kget s.teams tu).any (fun t => !t.ended) then arriveWord s tu word bytes else s

/-- The completion arrival of an operation (R266, R289), a failed ROUTE's with the bytes that it wrote (R291), or the completion of a host's
entry (R298). DESIGN CHOICE (log 65). -/
def EngOp.arrive (o : EngOp) (s : State) : State :=
  match o.kind with
  | .bcopy d _ w | .drain d _ _ w _ _ | .coll d _ _ _ _ _ _ w => arriveWord s o.team w d.arrivalBytes
  | .bcopym _ d _ l => (l.getD []).foldl (fun s tu => arriveAt s (d.crec.extractLsb' 0 32) d.arrivalBytes tu) s
  | .route a => arriveWord s o.team a.word (if o.error = 0 then routeBytes a else (o.bits + 7) / 8)
  | .host _ _ r i => finishEntry s r i (if o.error = 0 then 2 else 3) o.error false
  | .qfence _ => s

/-- Where an engine's operation stands. -/
inductive EngQueue where
  | copy (core : Nat)
  | route (die : Nat)
  | coll (core : Nat)
  deriving DecidableEq, Repr

/-- The entries of a queue. -/
def EngQueue.get (q : EngQueue) (s : State) : List EngOp :=
  match q with
  | .copy c => (coreAt s c).copyq
  | .route d => routeAt s d
  | .coll c => (coreAt s c).collq

/-- s with a queue changed by f. -/
def EngQueue.mod (q : EngQueue) (s : State) (f : List EngOp → List EngOp) : State :=
  match q with
  | .copy c => modCore s c fun k => { k with copyq := f k.copyq }
  | .route d => modRoute s d f
  | .coll c => modCore s c fun k => { k with collq := f k.collq }

/-- The head of a queue is replaced. -/
def EngQueue.put (q : EngQueue) (o : EngOp) (s : State) : State := q.mod s fun l => o :: l.tail

/-- What an operation of a primary has held is performed, a shadow's is discarded; nothing is held any more (R377, R379). -/
def performOwn (o : EngOp) (s : State) : State :=
  let s := if o.shadow s then refreshHeld s o.team (o.own s).held else (o.own s).held.foldl (fun s p => engPerform o s p.1 p.2) s
  modTeam s o.team fun t => { t with eng := kdel t.eng o.id }

/-- The operation's arrival is made, and its entry leaves the queue; a drain that has written its tile completes (R274). -/
def EngQueue.depart (q : EngQueue) (o : EngOp) (s : State) : State :=
  let s := q.mod (o.arrive (performOwn o s)) List.tail
  queueMoved (if o.isDrain && decide (o.error = 0) then countTeam s o.team 8 else s) o.team

/-- A twin's operation parks at its compare (R379); worked: only its completion remains. -/
def EngQueue.park (q : EngQueue) (o : EngOp) (worked : Bool) (s : State) : State :=
  q.put { o with parked := some s.dtime, worked := worked } s

/-- The operation fails as it leaves (R290): a twin's, after the compare of what it still holds (R379). -/
def EngQueue.lastFail (q : EngQueue) (o : EngOp) (err : Nat) (poison : Option Nat) (s : State) : State :=
  let (o, s) := writeCrec { o with error := err, crecDone := false } err (reportFailure o err poison s)
  if o.paired s && decide ((o.own s).writes ≠ 0) then q.park o true s else q.depart o s

/-- A page that the handler of a stream had passed on faults again (R221). -/
def EngQueue.passOn (q : EngQueue) (o : EngOp) (base : Nat) (s : State) : State :=
  let s := q.lastFail o 2 none (countTeam s o.team 13)
  match o.pend with
  | none => s
  | some (u, e) =>
    match kget s.groups u with
    | none => s
    | some g => endByFault s o.team u e g.gid 0x28 1 false (g.stands e).1 (BitVec.ofNat 64 base)

/-- The advance of a COLL's flag (R321): an atomic add at the widest scope of its class, by the primary alone (R380). -/
def advanceFlag (flag inc : DWord) (o : EngOp) (s : State) : Progress :=
  let need : Need := { r := true, w := true, x := false, scope := none, atom := some 0 }
  (engCheck o s need flag.toNat 8 fun pas s =>
    match pas.findSome? fun pa => poisonAt s pa 1 with
    | some d => .poison d s
    | none =>
      let v := (ofBytes (engBytes o s pas) + inc.toNat) % 2 ^ 64
      .ok 0 ((pas.zip (toBytes 8 v)).foldl (fun s p => engPerform o s p.1 p.2) s)).andThen o fun _ s => .finished o s

/-- The operation leaves its queue; a COLL that has not failed first advances its flag (R321). -/
def EngQueue.leave (q : EngQueue) (o : EngOp) (s : State) : State :=
  match o.kind with
  | .coll _ _ _ _ _ flag inc _ =>
    if o.error ≠ 0 ∨ o.shadow s then q.depart o s
    else
      match advanceFlag flag inc o s with
      | .finished o s => q.depart o s
      | .failed o err poison s => q.lastFail o err poison s
      | .suspended o base s =>
        if o.passed = some (BitVec.ofNat 64 base) ∧ ¬ hostMode s 0 then q.passOn o base s
        else q.put { o with page := some (BitVec.ofNat 64 base), pend := none, passed := none, worked := true } s
      | .waiting o s => q.put { o with worked := true } s
  | _ => q.depart o s

/-- The operation completes (R286): its record, its arrival, and its entry leaves the queue; a twin's, after the compare of what it
still holds (R379). -/
def EngQueue.complete (q : EngQueue) (o : EngOp) (s : State) : State :=
  let (o, s) := writeCrec o o.error s
  if o.paired s && decide ((o.own s).writes ≠ 0) then q.park o true s else q.leave o s

/-- The operation fails (R290). -/
def EngQueue.fail (q : EngQueue) (o : EngOp) (err : Nat) (poison : Option Nat) (s : State) : State :=
  q.complete { o with error := err, crecDone := false } (reportFailure o err poison s)

/-- The end of an engine's work on its head operation o. -/
def EngQueue.settle (q : EngQueue) (o : EngOp) (p : Progress) : State :=
  match p with
  | .finished o s => q.complete { o with passed := none } s
  | .failed o err poison s => q.fail o err poison s
  | .suspended o' base s =>
    if o.passed = some (BitVec.ofNat 64 base) ∧ o'.done = o.done ∧ ¬ hostMode s 0 then q.passOn o' base s
    else q.put { o' with page := some (BitVec.ofNat 64 base), pend := none, passed := none } s
  | .waiting o' s => q.put (if o'.done = o.done then o' else { o' with passed := none }) s

/-- The engine works on the head of a queue, n elements in all, from where the operation stands, for at most k elements where most
gives a bound; it parks at a compare of paired execution. The operations of a queue follow one another whole, so that a copy reads what a
drain before it has written (R243, R300). DESIGN CHOICE (log 65). -/
def EngQueue.run (q : EngQueue) (most : Option Nat) (o : EngOp) (n : Nat) (step : EngOp → Nat → State → Progress) (s : State) :
    State :=
  match runElems step (min (most.getD (n - o.done)) (n - o.done)) o s with
  | .finished p s =>
    let p := if p.done = o.done then p else { p with passed := none }
    if n ≤ p.done then q.settle o (.finished p s)
    else if compareUnit ≤ (p.own s).writes then q.park p false s
    else q.put p s
  | r => q.settle o r

/-- The head of a queue, when its engine can work on it: it waits for no page, for no route of its completion record, and at no compare while
its team runs. -/
def EngQueue.head (q : EngQueue) (s : State) : Option EngOp :=
  match q.get s with
  | o :: _ => if o.page.isNone && (o.parked.isNone || !o.paired s) && !o.crecAwaits s then some o else none
  | [] => none

/-- The engine's work on the head of a queue; an operation of which only the completion remains completes. -/
def EngQueue.work (q : EngQueue) (s : State) (f : EngOp → Option State) : Option State :=
  (q.head s).bind fun o => if o.worked then some (q.leave o s) else f o

/-! ### The barge -/

/-- The barge stores a drained tile (R287). -/
def bargeDrain (most : Option Nat) (core : Nat) (s : State) : Option State :=
  let q := EngQueue.copy core
  q.work s fun o =>
    match o.kind with
    | .drain d f add _ (some tile) false => some (q.run most o (tileCount d.box) (drainElem d f add tile) s)
    | _ => none

/-- BARGE_DRAIN (R287). -/
def execBargeDrain (core : Nat) (s : State) : Host.Outcome State Fault Refusal := happens s (bargeDrain none core s)

/-- ABORTED_DRAIN (R271). -/
def execAbortedDrain (core : Nat) (s : State) : Host.Outcome State Fault Refusal :=
  happens s <|
  let q := EngQueue.copy core
  q.work s fun o =>
    match o.kind with
    | .drain _ _ _ _ _ true => some (q.fail o 4 none s)
    | _ => none

/-- The barge copies a tile (R288, R298). -/
def bargeCopy (most : Option Nat) (core : Nat) (s : State) : Option State :=
  let q := EngQueue.copy core
  let go (o : EngOp) (d src : Shape) : State :=
    q.run most o (tileCount d.box)
      (copyElem d src fun o s b v => engWrite o s d.loc d.base b (elemBits d.elem) v) s
  q.work s fun o =>
    match o.kind with
    | .bcopy d src _ => some (go o d src)
    | .host d src _ _ => some (go o d src)
    | _ => none

/-- BCOPY_PERFORM (R288, R298). -/
def execBcopyPerform (core : Nat) (s : State) : Host.Outcome State Fault Refusal := happens s (bargeCopy none core s)

/-- The receivers of a BCOPYM (R289): the teams of its grid on the named cores of its cluster, of its own twin kind. -/
def receivers (s : State) (o : EngOp) (mask : BitVec 8) : List Nat :=
  let shadow := (kget s.teams o.team).any (·.shadow)
  (s.teams.filter fun e => decide (e.2.grid = o.grid) && (e.2.shadow == shadow) && !e.2.ended && e.2.core.any fun c =>
    decide (clusterOf c = clusterOf o.core) && mask.getLsbD (c % 8)).map (·.1)

/-- An element of a BCOPYM goes into the local memory of each receiver. -/
def multiWrite (o : EngOp) (l : List Nat) (d : Shape) (s : State) (b v : Nat) : Io :=
  let w := elemBits d.elem
  let a := d.base + b / 8
  let n := (b % 8 + w + 7) / 8
  .ok 0 (l.foldl (fun s tu =>
    engLocal o s tu a n (mergeBits (readN (((kget s.teams tu).map (·.mem)).getD []) a n) (b % 8) w v)) s)

/-- The barge copies a tile into the local memories of a cluster (R289). -/
def bargeMulti (most : Option Nat) (core : Nat) (s : State) : Option State :=
  let q := EngQueue.copy core
  q.work s fun o =>
    match o.kind with
    | .bcopym mask d src l =>
      let l := l.getD (receivers s o mask)
      let o := { o with kind := .bcopym mask d src (some l) }
      some (q.run most o (if mask = 0 then 0 else tileCount d.box) (copyElem d src fun o s b v => multiWrite o l d s b v) s)
    | _ => none

/-- BCOPYM_PERFORM (R289). -/
def execBcopymPerform (core : Nat) (s : State) : Host.Outcome State Fault Refusal := happens s (bargeMulti none core s)

/-! ### The sluice -/

/-- The scores of all tokens, each over its experts. -/
def readScores (o : EngOp) (a : RouteArgs) : List (Nat × Nat) → List Word → State → Progress ⊕ (List Word × State)
  | [], acc, s => .inr (acc.reverse, s)
  | (e, t) :: l, acc, s =>
    let bit := 32 * (e * a.score.strides.getD 0 0 + t * a.score.strides.getD 1 0)
    match engRead o s false a.score.base bit 32 with
    | .ok v s => readScores o a l (BitVec.ofNat 32 v :: acc) s
    | .page b s => .inl (.suspended o b s)
    | .wait s => .inl (.waiting o s)
    | .fault s => .inl (.failed o 1 none s)
    | .poison d s => .inl (.failed o 3 (some d) s)

/-- Every page of a list of writes is checked before any byte is written. -/
def checkWrites (o : EngOp) : List (Nat × Nat × Nat) → State → Progress
  | [], s => .finished o s
  | (a, n, _) :: l, s => (engCheck o s needW a n fun _ s => .ok 0 s).andThen o fun _ s => checkWrites o l s

/-- One output of ROUTE. -/
def routeElem (l : List (Nat × Nat × Nat)) (o : EngOp) (i : Nat) (s : State) : Progress :=
  match l[i]? with
  | some (a, n, v) => (engWrite o s false a 0 (8 * n) v).andThen o fun _ s => .finished (wrote o (8 * n) false) s
  | none => .finished o s

/-- ROUTE reads the scores, computes, and checks its outputs' pages (R293 to R296): the operation then holds its outputs. -/
def routeRead (a : RouteArgs) (o : EngOp) (s : State) : Progress :=
  match readScores o a (routePairs a) [] s with
  | .inl p => p
  | .inr (w, s) =>
    let p := (List.range a.t).map fun t => softmax ((w.drop (t * a.e)).take a.e)
    let out := routeWrites a (if a.expert then expertChoice a p else tokenChoice a p)
    checkWrites { o with kind := .route { a with out := some out } } out s

/-- ROUTE's work: its outputs are ready, or it reads first; then it writes them, in units of paired execution (R379). -/
def routeWork (most : Option Nat) (die : Nat) (a : RouteArgs) (o : EngOp) (s : State) : State :=
  let q := EngQueue.route die
  match a.out with
  | some l => q.run most o l.length (routeElem l) s
  | none =>
    match routeRead a o s with
    | .finished p s =>
      match p.kind with
      | .route b => q.run most p (b.out.getD []).length (routeElem (b.out.getD [])) s
      | _ => q.settle o (.finished p s)
    | r => q.settle o r

/-- The sluice routes (R296). -/
def sluiceRoute (most : Option Nat) (die : Nat) (s : State) : Option State :=
  (EngQueue.route die).work s fun o =>
    match o.kind with
    | .route a => some (routeWork most die a o s)
    | _ => none

/-- ROUTE_PERFORM (R296). -/
def execRoutePerform (die : BitVec 2) (s : State) : Host.Outcome State Fault Refusal := happens s (sluiceRoute none die.toNat s)

/-! ### The collective queue -/

/-- The tile that a COLL reads (R322): that of the slot its handle names, zeros where it is unbound. A slot that only this COLL kept
frees. -/
def readCollTile (core : Nat) (o : EngOp) (s : State) : EngOp × State :=
  match o.kind with
  | .coll d f h keep none fl i w =>
    let tile := match boundSlot s o.group h with
      | some n => accTile (coreAt s core) n
      | none => []
    let o := { o with kind := .coll d f h [] (some tile) fl i w }
    let s := (EngQueue.coll core).put o s
    let kept (n : Nat) (x : EngOp) : Bool :=
      match x.kind with
      | .coll _ _ _ k none _ _ _ => k.contains n
      | _ => false
    (o, returnSlots s core (keep.filter fun n => !(coreAt s core).collq.any (kept n)))
  | _ => (o, s)

/-- One element of a COLL of n tile elements: then comes the completion record (R321). -/
def collElem (d : Shape) (f : FmtSlot) (tile : FMap 32) (n : Nat) (o : EngOp) (i : Nat) (s : State) : Progress :=
  if i < n then drainElem d f false tile o i s
  else let (o, s) := writeCrec o 0 s; .finished o s

/-- A COLL at the head of the collective queue is performed (R321). -/
def collWork (most : Option Nat) (core : Nat) (s : State) : Option State :=
  let q := EngQueue.coll core
  q.work s fun o =>
    let (o, s) := readCollTile core o s
    match o.kind with
    | .coll d f _ _ (some tile) _ _ _ =>
      let n := tileCount d.box
      some (q.run most o (n + 1) (collElem d f tile n) s)
    | _ => none

/-- COLL_PERFORM (R321). -/
def execCollPerform (core : Nat) (s : State) : Host.Outcome State Fault Refusal := happens s (collWork none core s)

/-! ### Engine page faults (R221, R223) -/

/-- The queue of an engine. -/
def queueOf (e : EngineId) : EngQueue :=
  match e with
  | .barge c => .copy c
  | .sluice d => .route d.toNat
  | .coll c => .coll c

/-- The stream of a group that takes an engine fault: that of its lowest-numbered slice among those of the valid entries; a slice that waits on
the divergence stack belongs to none. DESIGN CHOICE (log 20). -/
def faultStream (g : Group) : Option Nat :=
  (List.range 16).findSome? fun k => (List.range 4).find? fun e => (g.split e).valid && (g.split e).mask.getLsbD k

/-- The group that takes the page fault of an operation: its own, else the lowest-numbered running group of the team. -/
def faultGroup (s : State) (o : EngOp) : Option (Nat × Group × Nat) :=
  let l := (teamGroups s o.team).filterMap fun p => (faultStream p.2).map fun e => (p.1, p.2, e)
  match l.find? fun p => decide (p.1 = o.group) with
  | some p => some p
  | none => l.head?

/-- A stream takes an engine's page fault at its boundary: a wait that it interrupts is executed again, and a stream that is parked at a
YIELD stays so (R223). -/
def deliver (s : State) (t : Team) (u : Nat) (g : Group) (e : Nat) (page : DWord) : State :=
  if hostMode s 0 then
    ctlTell (modGroup s u fun g => g.modSplit e fun sp => { sp with run := .host page (decide (sp.run = .park)) })
      (cpOf s t.grid.toNat) "page" [t.grid.toNat, t.num, g.gid, e, page.toNat]
  else
    let lanes := (maskSlices (g.split e).mask).flatMap sliceLanes
    let tr : Trap := { cause := 1, detail := 2, faddr := page, fmask := laneMask lanes, need := [] }
    modGroup s u fun g =>
      (g.enterHandler e (handlerAddr s t.grid.toNat 1) tr).modSplit e fun sp =>
        { sp with run := if sp.waiting then .run else sp.run }

/-- ENGINE_FAULT_DELIVERY (R223): with no running group the operation fails, as it does while its set stops for a replay (R375); with no
handler the team ends as well (R362). A stream that waits for the host takes it after the answer. DEDUCED (log 20). -/
def execEngineFaultDelivery (eng : EngineId) (s : State) : Host.Outcome State Fault Refusal :=
  happens s <|
  let q := queueOf eng
  match q.get s with
  | [] => none
  | o :: _ =>
    match o.page, kget s.teams o.team with
    | none, _ => none
    | some _, none => some (q.fail { o with page := none } 2 none s)
    | some page, some t =>
      match (if t.ended || o.replaying s then none else faultGroup s o), t.core with
      | none, _ | _, none => some (q.fail { o with page := none } 2 none (countTeam s o.team 13))
      | some (u, g, e), some c =>
        let s' := countTeam s o.team 13
        if o.pend.isSome || t.stop.isSome || partitionBusy s c g.part || (g.split e).asked then none
        else if handlerAddr s t.grid.toNat 1 = 0 ∧ ¬ hostMode s 0 then
          some (q.fail { o with page := none } 2 none
            (endByFault s' o.team u e g.gid 1 2 false (g.stands e).1 page))
        else some (q.put { o with pend := some (u, e) } (deliver s' t u g e page))

/-! ### Compares of paired execution (R379, R381) -/

/-- The operations of a queue that wait at a compare for a team's group number. -/
def parkedIn (s : State) (tu gid : Nat) (q : EngQueue) : Option EngOp :=
  (q.get s).find? fun o => decide (o.team = tu ∧ o.gid = gid) && o.parked.isSome

/-- The queues of a core that hold its teams' operations. -/
def queuesOf (c : Nat) : List EngQueue := [.copy c, .route (dieOfCore c), .coll c]

/-- The virtual address of the i-th element of a tile in memory. -/
def Shape.elemAt (sh : Shape) (i : Nat) : Option Nat :=
  if sh.loc ∨ tileCount sh.box ≤ i then none
  else
    match sh.classify (tilePos sh.box i) with
    | .in_ b => some ((sh.base + b / 8) % 2 ^ 64)
    | _ => none

/-- The address of the i-th element that ROUTE processes: its scores, then its outputs. -/
def RouteArgs.elemAt (a : RouteArgs) (i : Nat) : Option Nat :=
  match (routePairs a)[i]? with
  | some (e, t) => some ((a.score.base + 4 * (e * a.score.strides.getD 0 0 + t * a.score.strides.getD 1 0)) % 2 ^ 64)
  | none => (routeCells a)[i - (routePairs a).length]?

/-- The virtual addresses of the k-th element after the one that an engine processes, one for each record or table that it walks ahead
in (R201). -/
def EngOp.ahead (o : EngOp) (k : Nat) : List (Option Nat) :=
  match o.kind with
  | .bcopy d src _ | .bcopym _ d src _ | .host d src _ _ => [d.elemAt (o.done + k), src.elemAt (o.done + k)]
  | .drain d _ _ _ _ _ => [d.elemAt (o.done + k)]
  | .route a => [a.elemAt ((if a.out.isSome then (routePairs a).length else 0) + o.done + k)]
  | .coll .. | .qfence _ => []

/-- The base of the page that holds va, of the page's own size. -/
def pageOf (s : State) (space va : Nat) : Nat :=
  match walkSpace s space va with
  | .leaf _ _ base _ | .invalid _ _ base _ _ | .bad _ base => base

/-- The walk-ahead TLB walks for the n-th element after the one that its engine processes, where that lies within the next 32 pages: it
raises nothing, and only a page that translates is kept (R201); its misses are counted (R405). -/
def walkAhead (q : EngQueue) (n : Nat) (s : State) : State :=
  match (q.get s).head? with
  | none => s
  | some o => (List.range (o.ahead n).length).foldl (fun s j =>
      let at_ (k : Nat) : Option Nat := ((o.ahead k).getD j none).filter fun va => inGridSpace va
      let page (k : Nat) : Option Nat := (at_ k).map (pageOf s o.space)
      let pages := (((List.range (n + 1)).filterMap page).eraseDups).filter fun p => !(page 0 == some p)
      match at_ n with
      | some va =>
        if 32 < pages.length then s
        else
          let (_, hit, t) := translate s o.core true o.space va
          if hit then t else countTeam t o.team 12
      | none => s) s

/-- An engine works on at most n elements of its operation (R242). -/
def engineTurn (e : EngineId) (n : Nat) (s : State) : Option State :=
  match e with
  | .barge c => ((bargeDrain (some n) c s).orElse fun _ => bargeCopy (some n) c s).orElse fun _ => bargeMulti (some n) c s
  | .coll c => collWork (some n) c s
  | .sluice d => sluiceRoute (some n) d.toNat s

/-- The engine operations of the pair that stand at a compare: the queue and the operation of each twin (R379). -/
def matchedOps (s : State) (p v : Nat) : List ((EngQueue × EngOp) × EngQueue × EngOp) :=
  match (kget s.teams p).bind (·.core), (kget s.teams v).bind (·.core) with
  | some c, some d =>
    ((queuesOf c).zip (queuesOf d)).flatMap fun q => (List.range 32).filterMap fun gid =>
      match parkedIn s p gid q.1, parkedIn s v gid q.2 with
      | some o, some w => if o.worked = w.worked then some ((q.1, o), q.2, w) else none
      | _, _ => none
  | _, _ => []

/-- An operation goes on after its compare: its held writes are performed or discarded; one of which only the completion remains leaves. -/
def opAfterCompare (q : EngQueue) (o : EngOp) (s : State) : State :=
  let s := performOwn o s
  if o.worked then q.leave { o with parked := none } s
  else q.mod s fun l => l.map fun x => if x.id = o.id then { x with parked := none } else x

/-- The compare of two engine operations (R379). -/
def compareOps (a b : EngQueue × EngOp) (s : State) : State :=
  if (a.2.own s).sig = (b.2.own s).sig then opAfterCompare b.1 b.2 (opAfterCompare a.1 a.2 s)
  else mismatchPair s a.2.team b.2.team a.2.group 16 0

/-- PAIR_COMPARE: at the first matched point of the streams, or of the engines, or when every group of both twins has ended and left.
DEDUCED (log 16). -/
def execPairCompare (team : Nat) (s : State) : Host.Outcome State Fault Refusal :=
  happens s <|
  match if setStopped s team then none else pairOf s team with
  | none => none
  | some (p, v) =>
    match matched s p v with
    | (u, e, w, f) :: _ =>
      some (if sigsEqual s p v then afterCompare (afterCompare (comparePair s p v) u e) w f
             else mismatchPair s p v u e 0)
    | [] =>
      match matchedOps s p v with
      | (a, b) :: _ => some (compareOps a b s)
      | [] =>
      whenOk ((teamGroups s p).isEmpty && (teamGroups s v).isEmpty) fun _ =>
        if sigsEqual s p v then
          let s := comparePair s p v
          match kget s.teams p, kget s.teams v with
          | some t, some w => removeTeam (removeTeam s p t) v w
          | _, _ => s
        else mismatchPair s p v 0 0 0

/-- The ticks that a twin waits for the other (R381). -/
def pairLimit : Nat := 1048576

/-- A time of parking is past the limit. -/
def pastPair (s : State) (since : DWord) : Bool := decide (pairLimit ≤ (s.dtime - since).toNat)

/-- The first operation of a team that has been parked at a compare for the limit: its group. -/
def overdueOp (s : State) (tu : Nat) : Option Nat :=
  match (kget s.teams tu).bind (·.core) with
  | none => none
  | some c => ((queuesOf c).flatMap fun q => q.get s).findSome? fun o =>
      if o.team = tu ∧ o.parked.any (pastPair s) then some o.group else none

/-- The first stream of a team that has been parked at a compare point for the limit. -/
def overdue (s : State) (tu : Nat) : Option (Nat × Nat) :=
  (teamGroups s tu).findSome? fun x =>
    (x.2.comparing.find? fun e => match (x.2.split e).run with
      | .pair since => pastPair s since
      | _ => false).map fun e => (x.1, e)

/-- A team has not ended, is not held for the host (R364), and its set has not stopped to be replayed (R375). -/
def runsFree (s : State) (tu : Nat) : Bool := ((kget s.teams tu).any fun t => !t.ended && t.stop.isNone) && !setStopped s tu

/-- PAIR_TIMEOUT: a twin that has not arrived (R381); not while the pair is held, nor when it has ended. -/
def execPairTimeout (team : Nat) (s : State) : Host.Outcome State Fault Refusal :=
  happens s <|
  match pairOf s team, overdue s team, overdueOp s team with
  | some (p, v), some (u, e), _ =>
    whenOk ((matched s p v).isEmpty && runsFree s p && runsFree s v) fun _ =>
      let gid := ((kget s.groups u).map (·.gid)).getD 0
      mismatchPair s p v (((twinGroup s p gid).map (·.1)).getD u) e 1
  | some (p, v), none, some u =>
    whenOk ((matchedOps s p v).isEmpty && runsFree s p && runsFree s v) fun _ =>
      let gid := ((kget s.groups u).map (·.gid)).getD 0
      mismatchPair s p v (((twinGroup s p gid).map (·.1)).getD u) 16 1
  | _, _, _ => none

end Sys2Proof.Machine
end

