-- ==== Sys2Proof/Machine/Errors.lean ====
section
/-! DEFINITION. Replay (R375, R376), corrected and uncorrectable errors (R372, R382, R383, R403, R404), and the power limit (R25). -/

namespace Sys2Proof.Machine

/-! ### Replay -/

/-- A team of the set is gone: its groups, and the slots that they bound. -/
def dropTeam (s : State) (tu : Nat) : State :=
  match kget s.teams tu with
  | none => s
  | some t =>
    let s := t.groups.foldl (fun s u =>
      match kget s.groups u, t.core with
      | some g, some c => returnSlots { s with groups := kdel s.groups u } c g.slots
      | some _, none => { s with groups := kdel s.groups u }
      | none, _ => s) s
    { s with teams := kdel s.teams tu }

/-- The copies of a grid's table go back over their granules, and the table is clear. -/
def restoreSnaps (s : State) (h : Nat) : State :=
  match kget s.grids h with
  | none => s
  | some g =>
    let s := g.snaps.foldl (fun s x => copyGranuleOf s x.copy x.gran) s
    releaseCopies s h g

/-- The launch starts again from its accepted record, with the same handle. -/
def restart (g : Grid) : Grid :=
  { g with
    phase := .accepted
    next := 0
    endedTeams := 0
    kids := []
    preq := false
    replaying := false
    fr := { g.fr with replays := g.fr.replays + 1 } }

/-- Every operation that the set posted has completed or failed. -/
def setQuiet (s : State) (l : List Nat) : Bool :=
  s.groups.all fun e => !((kget s.teams e.2.team).any fun t => l.contains t.grid.toNat) || !hasPosted s e.1

/-- REPLAY (R375), by the command processor of the grid (R408): the steps that follow the wait. DEDUCED (log 34). -/
def execReplay (handle : BitVec 14) (s : State) : Host.Outcome State Fault Refusal :=
  happens s <|
  let h := handle.toNat
  match kget s.grids h with
  | none => none
  | some g =>
    let l := setOf s h
    whenOk (g.replaying && decide (g.root.toNat = h) && setQuiet s l && !delayed s (cpOf s h)) fun _ =>
      let s := (l.flatMap (teamsOf s)).foldl dropTeam s
      let s := restoreSnaps s h
      let s := { s with grids := s.grids.filter fun e => decide (e.1 = h) || !l.contains e.1 }
      frWrite (modGrid s h restart) h none

/-! ### Rows (R382, R383, R403) -/

/-- Two rows lie in one instance of a structure. DEDUCED (log 35). -/
def sameInstance (a b : RowId) : Bool :=
  match a, b with
  | .regFile c p _, .regFile d q _ => decide (c = d ∧ p = q)
  | .local c _, .local d _ => decide (c = d)
  | .accum c _, .accum d _ => decide (c = d)
  | .l2 d _, .l2 e _ => decide (d = e)
  | .l1 c _, .l1 d _ => decide (c = d)
  | .icache c _, .icache d _ => decide (c = d)
  | .tag c _, .tag d _ => decide (c = d)
  | .device t _, .device u _ => decide (t = u)
  | _, _ => false

/-- A core as UNIT holds it. DEDUCED (log 37). -/
def unitOfCore (c : Nat) : Nat := c / 192 + 4 * (c % 192)

/-- The retirement table entry of a row (R383). -/
def retirement (s : State) (r : RowId) : Retired :=
  let mk (kind unit row : Nat) : Retired :=
    { valid := true, kind := BitVec.ofNat 3 kind, spared := false, unit_ := BitVec.ofNat 16 unit, row := BitVec.ofNat 32 row }
  match r with
  | .regFile c p row => mk 0 (unitOfCore c + 2 ^ 10 * p) row
  | .local c row => mk 1 (unitOfCore c) row
  | .accum c n => mk 2 (unitOfCore c) n
  | .l2 d w => mk 3 d.toNat w
  | .l1 c f => mk 4 (unitOfCore c) f
  | .icache c f => mk 4 (unitOfCore c) f
  | .tag c f => mk 4 (unitOfCore c) f
  | .device st f => mk 5 (st / 3 + 4 * st) (s.pkg.toNat * 2 ^ 24 + f)

/-- The first index of the retirement table that is not valid. -/
def freeRetired (s : State) : Option Nat := (List.range 1024).find? fun i => !(retiredAt s i).valid

/-- The entry goes into the table; when it is full the host alone is told. -/
def recordRetired (s : State) (e : Retired) : State :=
  match freeRetired s with
  | some i => { s with retired := kset s.retired i e }
  | none => tellHost s "retirement" [e.toNat]

/-- The frames of a size from a base on, but for the one that holds address a. -/
def framesBut (base size n a : Nat) : List (Nat × Nat) :=
  ((List.range n).map fun k => (base + k * size, size)).filter fun x => decide (a < x.1 ∨ x.1 + x.2 ≤ a)

/-- A frame without the 64 KiB frame at address a: what is left of it, as frames of the page sizes (R197). -/
def splitFrame (x : Nat × Nat) (a : Nat) : List (Nat × Nat) :=
  let small (base : Nat) : List (Nat × Nat) := framesBut base 65536 32 a
  if x.2 = 2 ^ 21 then small x.1
  else if x.2 = 2 ^ 29 then framesBut x.1 (2 ^ 21) 256 a ++ small (a / 2 ^ 21 * 2 ^ 21)
  else []

/-- A 64 KiB frame of device memory leaves the pools; one that no pool holds may be mapped, and the host is told. -/
def retireFrame (s : State) (f : Nat) : State :=
  let a := s.pkg.toNat * 2 ^ 40 + f * 65536
  let hit (x : Nat × Nat) : Bool := decide (x.1 ≤ a ∧ a < x.1 + x.2)
  if s.pools.any fun p => p.any hit then
    { s with pools := s.pools.map fun p => p.flatMap fun x => if hit x then splitFrame x a else [x] }
  else tellHost s "frame retired" [a]

/-- A way frame of an L2, one of those in service, is disabled: the line that it may hold is written back first (R382). -/
def disableL2 (s : State) (die : Nat) : State :=
  let (k, s) := pick s (l2Lines - s.coh.l2Off.getD die 0)
  let s := match (s.coh.l2.getD die [])[k]? with
    | some e => l2Evict s die e.1
    | none => s
  { s with coh := { s.coh with l2Off := lmod s.coh.l2Off die (· + 1) } }

/-- A frame of a core's L1, one of those in service, is disabled, with the line that it may hold. -/
def disableL1 (s : State) (c : Nat) : State :=
  let (k, s) := pick s (coreAt s c).l1Cap
  modCore s c fun q => { q with l1 := q.l1.eraseIdx k, l1Off := q.l1Off + 1 }

/-- The same of a core's instruction cache. -/
def disableIcache (s : State) (c : Nat) : State :=
  let (k, s) := pick s (coreAt s c).icacheCap
  modCore s c fun q => { q with icache := q.icache.eraseIdx k, icOff := q.icOff + 1 }

/-- A row crosses (R382, R404): reported only, where that was raised in host-assisted mode (R409). -/
def crossRow (s : State) (r : RowId) (host : Bool) : State :=
  if host then tellHost s "crossing" [(retirement s r).toNat]
  else
    let s := recordRetired s (retirement s r)
    match r with
    | .accum c n =>
      let s := { s with badSlots := (c, n) :: s.badSlots }
      modCore s c fun k => { k with free := k.free.filter (· ≠ n) }
    | .device _ f => retireFrame s f
    | .l2 d _ => disableL2 s d.toNat
    | .l1 c _ | .tag c _ => disableL1 s c
    | .icache c _ => disableIcache s c
    | .regFile .. | .local .. => s

/-- A crossing reaches the memory controller, and waits while that is replaced (R408, R415). -/
def cross (s : State) (r : RowId) : State :=
  if delayed s 3 then queueFor s 3 (.crossing r (hostMode s 4)) else crossRow s r (hostMode s 4)

/-- DTIME[43:20], the unit of stamps. -/
def stampNow (s : State) : BitVec 24 := s.dtime.extractLsb' 20 24

/-- The age of a row's newest stamp. -/
def EcRow.age (e : EcRow) (now : BitVec 24) : Nat := (now - e.stamps.getLastD 0).toNat

/-- The row of an instance that is evicted: the one whose newest stamp is the oldest. -/
def oldest (l : List EcRow) (now : BitVec 24) : Option EcRow :=
  l.foldl (fun b e => match b with
    | none => some e
    | some x => if x.age now < e.age now then some e else b) none

/-- The tracked rows with room for one more of the instance of r. -/
def ecRoom (s : State) (r : RowId) : List EcRow :=
  let l := s.ec.filter fun e => sameInstance e.row r
  if l.length < 64 then s.ec
  else
    match oldest l (stampNow s) with
    | some e => s.ec.erase e
    | none => s.ec

/-- A corrected error in a row (R404). -/
def corrected (s : State) (r : RowId) : State :=
  let now := stampNow s
  let old := (s.ec.find? fun e => e.row == r)
  let rest := match old with
    | some e => s.ec.erase e
    | none => ecRoom s r
  let stamps := ((old.map (·.stamps)).getD []).filter fun t => decide ((now - t).toNat ≤ s.mgmt.ecwin)
  if s.mgmt.ecthr ≤ stamps.length + 1 then cross { s with ec := rest } r
  else { s with ec := rest ++ [{ row := r, stamps := stamps ++ [now] }] }

/-- A row exists. -/
def rowOk (r : RowId) : Bool :=
  match r with
  | .regFile c p row => decide (c < coreCount ∧ p < 8 ∧ row < 32)
  | .local c row => decide (c < coreCount ∧ row < 512)
  | .accum c n => decide (c < coreCount ∧ n < 32)
  | .l2 _ _ => true
  | .l1 c f => decide (c < coreCount ∧ f < 1024)
  | .icache c _ | .tag c _ => decide (c < coreCount)
  | .device t f => decide (t < 12 ∧ f < 0xC00000)

/-- CORRECTED_ERROR (R404, R405): a grid's access counts it. -/
def execCorrectedError (e : RowId) (handle : Option (BitVec 14)) (s : State) : Host.Outcome State Fault Refusal :=
  happens s <|
  whenOk (rowOk e) fun _ =>
    let s := match handle with
      | some h => count s h.toNat 15 1
      | none => s
    corrected s e

/-- A row that an uncorrectable error shows crosses at once (R404): its own tracked entry is cleared. -/
def crossNow (s : State) (r : RowId) : State := cross { s with ec := s.ec.filter fun e => e.row != r } r

/-- UNCORRECTABLE_ERROR (R372): a line is poisoned, or the team that read the structure takes cause 0x40; the pc tells whether the reader was
the group's handler (R370). -/
def execUncorrectableError (e : ErrorSite) (s : State) : Host.Outcome State Fault Refusal :=
  happens s <|
  match e with
  | .line line device =>
    let held := s.coh.l2.any fun m => (kget m line).isSome
    whenOk (if device then ownLine s line && !targetRefuses s (line * 128) else ownLine s line || held) fun _ =>
      let t := { s with poison := kset s.poison line (if device then 5 else 4) }
      if device then crossNow t (.device (stackOf (line * 128)) (line / 512 % 2 ^ 24))
      else
        let (w, t) := pick t (2 ^ 32)
        crossNow t (.l2 (BitVec.ofNat 2 (homeDie (line * 128))) w)
  | .structure_ kind team pc group =>
    match kget s.teams team, (teamGroups s team).find? fun p => decide (p.2.gid = group.toNat) with
    | some t, some (u, g) =>
      match t.core with
      | none => none
      | some c =>
        let row (r : Nat) : Option RowId := match kind.toNat with
          | 1 => some (.regFile c g.part (r % 32))
          | 2 => some (.local c (r % 512))
          | 3 => some (.accum c (r % 32))
          | 6 => some (.tag c (r % 256))
          | _ => none
        match row 0 with
        | none => none
        | some _ =>
          whenOk (!t.ended && t.stop.isNone && !setStopped s team) fun _ =>
            let (r, s) := pick s (2 ^ 32)
            let s := match row r with
              | some r => crossNow s r
              | none => s
            endByFault s team u 0 g.gid 0x40 kind.toNat (g.handler.any fun h => decide (h.pc = pc)) pc 0
    | _, _ => none

/-- ROW_SPARE (R382), by the memory controller (R408): a spare takes the row when its partition, or its core, holds nothing, while spares
last. -/
def execRowSpare (idx : BitVec 10) (s : State) : Host.Outcome State Fault Refusal :=
  happens s <|
  let i := idx.toNat
  let e := retiredAt s i
  let core := 192 * (e.unit_.toNat % 4) + e.unit_.toNat / 4 % 256
  let used := (s.retired.filter fun x => x.2.valid && x.2.spared && x.2.kind == e.kind && x.2.unit_ == e.unit_).length
  let free :=
    if e.kind = 0 then decide ((partLoad s core (e.unit_.toNat / 2 ^ 10 % 8)).1 = 0) && decide (used < 4)
    else decide (e.kind = 1) && !(s.teams.any fun x => decide (x.2.core = some core)) && decide (used < 8)
  whenOk (e.valid && !e.spared && free && !delayed s 3) fun _ => { s with retired := kset s.retired i { e with spared := true } }

/-! ### Power (R25) -/

/-- POWER_LIMIT, by the power controller (R408), for which it waits while that is replaced (R415). DEDUCED (log 36). -/
def execPowerLimit (island : BitVec 6) (mhz : BitVec 16) (s : State) : Host.Outcome State Fault Refusal :=
  happens s <|
  (limitClock s island.toNat mhz.toNat).map fun t => if delayed s 1 then queueFor s 1 (.power island mhz.toNat) else t

end Sys2Proof.Machine
end

