-- ==== Sys2Proof/Machine/FabricEvents.lean ====
section
/-! DEFINITION. The fabric: flits and links (R20, R327, R409), remote writes at their target and their acknowledgements (R324 to R326,
R330), credits and rates (R328, R329), domain bring-up and domain time (R401, R414); and what firmware or the outside world
writes with no step of its own. -/

namespace Sys2Proof.Machine

/-! ### Links -/

/-- s with a link changed. -/
def modLink (s : State) (n : Nat) (f : Link → Link) : State := { s with links := lmod s.links n f }

/-- The KINDs of R327. -/
def kindKnown (k : Nat) : Bool := [1, 2, 3, 4, 0x10, 0x11, 0x12, 0x13, 0x14, 0x15, 0x16, 0x17].contains k

/-- A header as its fields (R327). -/
def wireOf (h : List Byte) : WireMsg :=
  let n (i k : Nat) : Nat := ofBytes ((h.drop i).take k)
  { kind := BitVec.ofNat 8 (n 0 1), sub := BitVec.ofNat 8 (n 1 1), pid := BitVec.ofNat 12 (n 2 2), lane := BitVec.ofNat 4 (n 2 2 / 2 ^ 12)
    src := BitVec.ofNat 12 (n 4 2), dst := BitVec.ofNat 12 (n 6 2), stamp := BitVec.ofNat 64 (n 8 8), tag := BitVec.ofNat 16 (n 16 2)
    sq := BitVec.ofNat 5 (n 18 2), ctx := BitVec.ofNat 2 (n 18 2 / 32), length := n 20 4, addr := BitVec.ofNat 64 (n 24 8), payload := [] }

/-- A message whose last byte has come is received, or, where its KIND is reserved, discarded and counted. -/
def Link.settle (l : Link) : Link :=
  match l.cur with
  | some m =>
    if 0 < l.body then l
    else if kindKnown m.kind.toNat then { l with cur := none, got := l.got ++ [m] }
    else { l with cur := none, errors := l.errors + 1 }
  | none => l

/-- The message stream goes through a link's parser: headers of 32 bytes, each followed by its payload. -/
def parseStream : Link → List Byte → Link
  | l, [] => l
  | l, b :: bs =>
    match l.cur with
    | some m =>
      parseStream ({ l with body := l.body - 1, cur := some { m with payload := m.payload ++ [b] } }).settle bs
    | none =>
      let h := l.head ++ [b]
      if h.length < 32 then parseStream { l with head := h } bs
      else
        let m := wireOf h
        parseStream ({ l with head := [], cur := some m, body := m.length }).settle bs

/-- A flit is good: its CRC, and the sequence that the link expects. -/
def flitGood (l : Link) (flit : List Byte) : Bool :=
  decide (ofBytes (flit.drop 248) = (Config.crc64 (flit.take 248)).toNat)
    && decide (ofBytes (flit.take 2) % 4096 = l.seq.toNat)

/-- A context that a credit has held goes on. -/
def creditCtx (s : State) (n k : Nat) : State :=
  let c := ctxAt s n k
  if c.state ≠ .waiting then s
  else
    match c.wait with
    | .credit => schedule (modCtx s n k (atSwitch fun c => { c with wait := .none }.retried)) n
    | .flow .. | .offer .. => advanceCtx s n k
    | _ => s

/-- Every context and every request that a credit or a route may have held is tried again. -/
def wakeSenders (s : State) : State :=
  retryUnsent (((List.range 24).flatMap fun n => (List.range 4).map fun k => (n, k)).foldl (fun s p => creditCtx s p.1 p.2) s)

/-- The fabric or the host writes routes: what has no route from then on (R409). The fabric controller does so, for which it waits while that is
replaced (R408, R415). -/
def setRoutes (s : State) (l : List (Nat × Nat)) : State :=
  if delayed s 2 then queueFor s 2 (.routes l)
  else
    let kept := s.hostRoutes.filter fun e => l.contains e
    let new := if hostMode s 3 then l.filter fun e => !s.noRoute.contains e else []
    wakeSenders { s with noRoute := l, hostRoutes := kept ++ new }

/-- FLIT_RECEIVE (R327): a flit that is not good is replayed, which nothing above the link sees. DEDUCED (log 27). -/
def execFlitReceive (link : BitVec 5) (flit : List Byte) (s : State) : Host.Outcome State Fault Refusal :=
  happens s <|
  let n := link.toNat
  let l := s.links.getD n Link.init
  whenOk (l.up && decide (flit.length = 256)) fun _ =>
    if flitGood l flit then
      modLink s n fun l =>
        parseStream { l with seq := l.seq + 1, owed := l.owed + 1, acked := BitVec.ofNat 12 (ofBytes (flit.take 8) / 2 ^ 12)
                             credits := l.credits + ofBytes (flit.take 8) / 2 ^ 24 % 2 ^ 8 } ((flit.drop 8).take 240)
    else s

/-- LINK_DOWN (R20, R409): what was to leave on the link, and has no other way to wait for, has its fault now (R306). The report of it
waits while the fabric controller is replaced (R415). -/
def execLinkDown (link : BitVec 5) (s : State) : Host.Outcome State Fault Refusal :=
  happens s <|
  let n := link.toNat
  whenOk (s.links.getD n Link.init).up fun _ =>
    let s := wakeSenders (modLink s n fun l => { l with up := false, lost := hostMode s 3 })
    if hostMode s 3 then ctlTell s 2 "link down" [n] else if delayed s 2 then queueFor s 2 (.linkDown n) else s

/-- LINK_UP (R20): the link trains. -/
def execLinkUp (link : BitVec 5) (s : State) : Host.Outcome State Fault Refusal :=
  happens s <|
  let n := link.toNat
  whenOk (decide (n < 24) && !(s.links.getD n Link.init).up) fun _ =>
    wakeSenders (modLink s n fun l =>
      { l with up := true, lost := false, seq := 0, acked := 0, credits := Config.linkCredits, txSeq := 0, owed := 0
               head := [], cur := none, body := 0 })

/-! ### Remote writes at the target (R324, R326, R330) -/

/-- An acknowledgement to the issuer's package, with the credit of the buffer that has drained (R328). -/
def sendPutAck (s : State) (issuer : PutIssuer) (dst : BitVec 12) (detail : Option Nat) : State :=
  returnCredits (emit s (.putAck { issuer := issuer, dst := dst, detail := detail.map (BitVec.ofNat 8) })) dst "bulk credits" 1

/-- The window that a key selects. -/
def windowAt (s : State) (k : Nat) : Window := (kget s.windows (k % 256)).getD Window.init

/-- The space of a partition. -/
def spaceOfPid (s : State) (pid : BitVec 12) : Option Nat := (s.spaces.find? fun e => e.2.pid == pid).map (·.1)

/-- The checks of R324. -/
def windowAdmits (w : Window) (m : PutMsg) : Bool :=
  w.valid && w.w && decide (w.key = m.key) && decide (w.pid = m.pid) && decide (m.offset.toNat % 8 = 0)
    && decide (m.offset.toNat + 8 ≤ w.size.toNat)

/-- Whether a message has come from its package: another one, or this one as it was sent. -/
def putArrives (s : State) (m : PutMsg) : Option State :=
  if m.src = s.pkg then
    if s.outbox.contains (.put m) then some { s with outbox := s.outbox.erase (.put m) } else none
  else if present s m.src then some s
  else none

/-- PUT_MESSAGE (R324): the write is made whole or not at all; with NOTIFY its acknowledgement follows the notification. -/
def execPutMessage (m : PutMsg) (s : State) : Host.Outcome State Fault Refusal :=
  happens s <|
  if m.dst ≠ s.pkg then none
  else
    match putArrives s m with
    | none => none
    | some s =>
      let s := echoMark s m.src
      let w := windowAt s m.key.toNat
      if !windowAdmits w m then
        let s := if w.valid && w.pid != m.pid then { s with protErrs := s.protErrs + 1 } else s
        some (sendPutAck s m.issuer m.src (some 0))
      else
        match (spaceOfPid s w.pid).bind fun sp =>
            sysWrite s sp ((w.base.toNat + m.offset.toNat) % 2 ^ 64) 8 m.value.toNat with
        | none => some (sendPutAck s m.issuer m.src (some 1))
        | some s =>
          some (if w.notify then
              { s with notes := s.notes ++ [{ win := m.key.toNat % 256, word := m.word, src := m.src, putk := m.putk,
                                              offset := m.offset, issuer := m.issuer }] }
            else sendPutAck s m.issuer m.src none)

/-- The 16 bytes of a notification entry (R326). -/
def noteBytes (n : Note) (prod : DWord) : Nat :=
  n.word.toNat + 2 ^ 32 * (n.src.toNat + 2 ^ 12 * (if n.putk then 2 else 1)) + 2 ^ 64 * n.offset.toNat
    + 2 ^ 96 * ((prod.toNat + 1) % 2 ^ 32)

/-- NOTIFY_APPEND (R326): once the ring has room; an append whose ring cannot be reached is dropped and acknowledged as failing.
DEDUCED (log 26). -/
def execNotifyAppend (win : BitVec 8) (s : State) : Host.Outcome State Fault Refusal :=
  happens s <|
  match s.notes.find? fun n => n.win == win.toNat with
  | none => none
  | some n =>
    let w := windowAt s win.toNat
    let drop (s : State) : State := { s with notes := s.notes.erase n }
    let fail : Option State := some (sendPutAck (drop s) n.issuer n.src (some 1))
    match spaceOfPid s w.pid with
    | none => fail
    | some sp =>
      match sysRead s sp w.nqcons.toNat 8 with
      | none => fail
      | some cons =>
        if 2 ^ w.nqlog.toNat ≤ (w.nqprod.toNat + 2 ^ 64 - cons) % 2 ^ 64 then none
        else
          match sysWrite s sp ((w.nqbase.toNat + 16 * (w.nqprod.toNat % 2 ^ w.nqlog.toNat)) % 2 ^ 64) 16 (noteBytes n w.nqprod) with
          | none => fail
          | some s =>
            let s := { s with windows := kset s.windows win.toNat { w with nqprod := w.nqprod + 1 } }
            some (sendPutAck (drop s) n.issuer n.src none)

/-- A failing remote write of a grid is recorded (R324, R361); the second flag tells that its team has gone. -/
def recordPut (s : State) (h team gid detail : Nat) : State :=
  let there := s.teams.any fun e => decide (e.2.grid.toNat = h ∧ e.2.num = team) && !e.2.ended
  report s h team gid 0x49 detail (if there then 0 else 2) 0 0 false

/-- The acknowledgement of a remote write comes: its own package's leaves the outbox, and one of another package's answers the oldest of
the issuer's writes that it can answer. Only a write to an absent package fails with detail 2, and the fabric answers for that package
(R324, R361). -/
def ackArrives (s : State) (m : PutAckMsg) : Option State :=
  if s.outbox.contains (.putAck m) then some { s with outbox := s.outbox.erase (.putAck m) }
  else
    let answers (o : OutMsg) : Bool := match o with
      | .put p | .wired _ (.put p) => p.issuer == m.issuer && p.dst != s.pkg && present s p.dst == decide (m.detail ≠ some 2)
      | _ => false
    (s.outbox.reverse.find? answers).map fun o => { s with outbox := s.outbox.erase o, issued := s.issued.filter fun i => i.msg != o }

/-- PUT_ACK (R324, R325, R330, R371): a failing write of a sequencer context is recorded for the collective that it served, while that
stands. -/
def execPutAck (m : PutAckMsg) (s : State) : Host.Outcome State Fault Refusal :=
  happens s <|
  match if m.dst = s.pkg then ackArrives s m else none with
  | none => none
  | some t =>
    match m.issuer with
    | .grid h team gid =>
      whenOk ((kget s.grids h.toNat).any fun g => decide (0 < g.puts)) fun _ =>
        let t := modGrid t h.toNat fun g => { g with puts := g.puts - 1 }
        match m.detail with
        | some d => recordPut t h.toNat team.toNat gid.toNat d.toNat
        | none => t
    | .ctx sq k cid pc => some (if m.detail.isSome then recordFault t cid sq.toNat k.toNat 0x05 0 pc else t)

/-! ### Credits and rates (R328, R329) -/

/-- CREDIT_RETURN. -/
def execCreditReturn (g : Grantor) (requests bulk : Nat) (s : State) : Host.Outcome State Fault Refusal :=
  happens s <|
  match kget s.peers (grantorKey g) with
  | none => none
  | some p =>
    whenOk (!markMode s) fun _ =>
      let q := { p with reqs := min 8 (p.reqs + requests), bulk := min 32 (p.bulk + bulk) }
      wakeSenders { s with peers := kset s.peers (grantorKey g) q }

/-- A rate halved, at least 1/256. -/
def Peer.halve (p : Peer) : Peer :=
  if 2 * p.den ≤ 256 * p.num then { p with den := 2 * p.den } else { p with num := 1, den := 256 }

/-- A rate risen by 1/64, at most 1. -/
def Peer.raise (p : Peer) : Peer :=
  let n := p.num * 64 + p.den
  let d := p.den * 64
  if d ≤ n then { p with num := 1, den := 1 } else { p with num := n / n.gcd d, den := d / n.gcd d }

/-- MARK_ECHO: a halving at most once per 2,000 ticks. -/
def execMarkEcho (pkg : BitVec 12) (s : State) : Host.Outcome State Fault Refusal :=
  happens s <|
  match kget s.peers pkg.toNat with
  | none => none
  | some p =>
    whenOk (markMode s) fun _ =>
      let again := p.cut.all fun t => decide (2000 ≤ (s.dtime - t).toNat)
      let q := { (if again then p.halve else p) with quiet := s.dtime, cut := if again then some s.dtime else p.cut }
      { s with peers := kset s.peers pkg.toNat q }

/-- RATE_RECOVERY. -/
def execRateRecovery (pkg : BitVec 12) (s : State) : Host.Outcome State Fault Refusal :=
  happens s <|
  match kget s.peers pkg.toNat with
  | none => none
  | some p =>
    whenOk (markMode s && decide (2000 ≤ (s.dtime - p.quiet).toNat)) fun _ =>
      { s with peers := kset s.peers pkg.toNat { p.raise with quiet := p.quiet + 2000 } }

/-! ### Domain bring-up and domain time (R26, R401, R414) -/

/-- A rejoining package's L2s hold no line of another package (R260). -/
def dropForeign (s : State) : State :=
  let foreign (line : Nat) : Bool := !ownLine s line && decide (homeNode line ≠ .host)
  let c := { s.coh with l2 := s.coh.l2.map (fun m => m.filter fun e => !foreign e.1)
                        mshrs := s.coh.mshrs.filter fun m => !foreign m.line
                        backlog := s.coh.backlog.filter fun e => !foreign e.2.1 }
  retryBacklog { s with coh := c }

/-- The credits that bring-up grants (R328): those of the packages that join, and, the first time, those of the switch of each link.
DESIGN CHOICE (log 41). -/
def grantPeers (s : State) (others fresh : List (BitVec 12)) (now : DWord) (first : Bool) : KMap Peer :=
  let kept := s.peers.filter fun e => decide (4096 ≤ e.1) || others.any fun p => decide (p.toNat = e.1)
  let keys := fresh.map (·.toNat) ++ if first then (List.range 24).map (4096 + ·) else []
  keys.foldl (fun m k => kset m k (Peer.init now)) kept

/-- DOMAIN_BRING_UP: until it ends, DTIME is set from the fabric and every peer gets its credits; after that, only the packages that join
or rejoin do. It is the fabric controller's (R408). DTIME never moves backwards. DEDUCED (log 33). -/
def execDomainBringUp (b : BringUp) (s : State) : Host.Outcome State Fault Refusal :=
  happens s <|
  let done := s.mgmt.fabmode.getLsbD 1
  whenOk (allRun s && !delayed s 2 && b.pkgs.all (fun p => decide (p.toNat < 2304)) && decide b.pkgs.Nodup
      && (done || decide (s.dtime.toNat ≤ b.time.toNat))) fun _ =>
    let others := b.pkgs.filter fun p => p != s.pkg
    let fresh := others.filter fun p => !done || !present s p
    let s := if b.rejoin then dropForeign s else s
    let now := if done then s.dtime else b.time
    { s with
      dtime := now
      slew := if done then s.slew else some now
      pkgs := s.pkg :: others
      peers := grantPeers s others fresh now (!done)
      coh := { s.coh with lost := s.coh.lost.filter (fun p => !others.contains p)
                          lostBy := if b.rejoin then [] else s.coh.lostBy } }

/-- n ticks pass: domain time advances once bring-up has set it, and is 0 until then (R401). -/
def passTicks (s : State) (n : Nat) : State :=
  if s.slew.isSome then { s with dtime := s.dtime + BitVec.ofNat 64 n } else s

/-- DTIME_SYNC: the fabric, by its controller (R408), corrects a drift by moving time on, by no more than its bound and no faster than 1
tick per 10,000 since it did so last (R401). -/
def execDtimeSync (ticks : Nat) (s : State) : Host.Outcome State Fault Refusal :=
  happens s <|
  match s.slew with
  | none => none
  | some t =>
    whenOk (!delayed s 2 && decide (ticks ≤ 250) && decide (10000 * ticks ≤ (s.dtime - t).toNat)) fun _ =>
      let now := s.dtime + BitVec.ofNat 64 ticks
      { s with dtime := now, slew := some now }

/-! ### Writes that have no step of their own -/

/-- The host or another package writes memory: the coherent value of each byte changes (R233, R262). An access outside what it can
reach changes nothing. -/
def outsideWrite (s : State) (pa : Nat) (l : List Byte) : State :=
  if pa + l.length ≤ 2 ^ 52 ∧ ¬ targetRefuses s pa ∧ (l.isEmpty = true ∨ ¬ targetRefuses s (pa + l.length - 1)) then
    { s with mem := writeList s.mem pa l }
  else s

/-- Firmware or the host fills a window table entry (R323): all but the append count, which it only reads. -/
def setWindow (s : State) (n : Nat) (w : Window) : State :=
  { s with windows := kset s.windows (n % 256) { w with nqprod := (windowAt s n).nqprod } }

end Sys2Proof.Machine
end

