-- ==== Sys2Proof/Machine/SeqEvents.lean ====
section
/-! DEFINITION. What comes to the contexts of the link sequencers from outside their programs: READY, CHUNK and NACK messages (R306,
R307), completions and timeouts (R302, R306, R313, R315), pages (R332), the switch's sums (R310), launches, aborts and ends of
collectives (R317, R320, R333). -/

namespace Sys2Proof.Machine

/-! ### Messages -/

/-- A message that another package sent, or one of this package's own, which leaves the outbox. -/
def arrive (s : State) (src : BitVec 12) (m : OutMsg) : Option State :=
  if src = s.pkg then (if s.outbox.contains m then some { s with outbox := s.outbox.erase m } else none)
  else if present s src then some s
  else none

/-- A route names a context of this package. -/
def isHere (s : State) (r : Route) : Bool := decide (r.pkg = s.pkg ∧ r.sq.toNat < 24)

/-- A message whose PID is not the collective's (R330): the context takes cause 0x05, and so does its partner. -/
def pidFault (s : State) (n k : Nat) (src : Route) (tag : BitVec 16) : State :=
  emit (seqFault s n k 0x05 0) (.nack { dst := src, tag := tag, pidFault := true })

/-- A context belongs to a collective with another PID. -/
def pidDiffers (s : State) (n k : Nat) (pid : BitVec 12) : Bool :=
  (collOf s (ctxAt s n k)).any fun co => co.pid != pid

/-- READY_MESSAGE (R306): held, and matched at once where its sender waits for it; refused where the table is full. -/
def execReadyMessage (m : ReadyMsg) (s : State) : Host.Outcome State Fault Refusal :=
  happens s <|
  let n := m.dst.sq.toNat
  let k := m.dst.ctx.toNat
  if !isHere s m.dst then none
  else
    match arrive s m.src.pkg (.ready m) with
    | none => none
    | some s =>
      if pidDiffers s n k m.pid then some (pidFault s n k m.src m.tag)
      else if 64 ≤ (ctxAt s n k).readys.length then
        some (if m.src.pkg = s.pkg then
            modCtx s m.src.sq.toNat m.src.ctx.toNat fun c => match c.wait with
              | .rx op t _ f => { c with wait := .rx op t true f }
              | _ => c
          else emit s (.coll "ready refused" m.src.pkg (ctxAt s n k).cid m.tag.toNat))
      else some (advanceCtx (modCtx s n k fun c => { c with readys := c.readys ++ [m] }) n k)

/-- READY_RETRY (R306). DEDUCED (log 28). -/
def execReadyRetry (sq : BitVec 5) (ctx : BitVec 2) (s : State) : Host.Outcome State Fault Refusal :=
  happens s <|
  let n := sq.toNat
  let k := ctx.toNat
  match (ctxAt s n k).wait with
  | .rx op (some t) refused _ =>
    whenOk ((refused || op.src.pkg != s.pkg) && decide ((ctxAt s n k).state = .waiting)
        && decide (1024 ≤ (s.dtime - t).toNat)) fun _ => sendReady s n k op
  | _ => none

/-- CHUNK_MESSAGE (R307, R330): a chunk that no receive waits for is discarded. -/
def execChunkMessage (m : ChunkMsg) (s : State) : Host.Outcome State Fault Refusal :=
  happens s <|
  let n := m.dst.sq.toNat
  let k := m.dst.ctx.toNat
  if !isHere s m.dst then none
  else
    match arrive s m.src.pkg (.chunk m) with
    | none => none
    | some s =>
      let s := echoMark s m.src.pkg
      let gone := drained s m.src m.data.length
      if pidDiffers s n k m.pid then some (pidFault gone n k m.src m.tag)
      else
        match (ctxAt s n k).wait with
        | .rx op (some _) _ _ =>
          some (if op.src = m.src ∧ op.tag = m.tag ∧ op.len = m.data.length ∧ (ctxAt s n k).state = .waiting then
            receiveChunk s n k op m.data else gone)
        | _ => some gone

/-- NACK_MESSAGE (R306, R330). -/
def execNackMessage (m : NackMsg) (s : State) : Host.Outcome State Fault Refusal :=
  happens s <|
  let n := m.dst.sq.toNat
  let k := m.dst.ctx.toNat
  let own := s.outbox.contains (.nack m)
  let t := if own then { s with outbox := s.outbox.erase (.nack m) } else s
  whenOk (isHere s m.dst && (own || decide (1 < s.pkgs.length))) fun _ =>
    let c := ctxAt t n k
    if m.pidFault then
      match c.wait with
      | .tx _ _ _ tag _ | .flow _ _ _ tag _ _ | .sent _ tag _ => if tag = m.tag then seqFault t n k 0x05 0 else t
      | .rx op _ _ _ => if op.tag = m.tag then seqFault t n k 0x05 0 else t
      | _ => t
    else
      match c.wait with
      | .rx op _ _ _ => if op.tag = m.tag then seqFault t n k 0x06 0 else t
      | _ => t

/-! ### Completions, limits and timeouts -/

/-- CHUNK_COMPLETE (R302, R315): the bytes are written or acknowledged; or a combine's turn in the log has come. -/
def execChunkComplete (sq : BitVec 5) (ctx : BitVec 2) (s : State) : Host.Outcome State Fault Refusal :=
  happens s <|
  let n := sq.toNat
  let k := ctx.toNat
  let c := ctxAt s n k
  if c.state ≠ .waiting then none
  else
    match c.wait with
    | .done due => some (seqComplete (finishDue s n k due) n k)
    | .cvt dst out clamp =>
      some (seqComplete (modCtx (writeSeg s dst out) n k fun c => { c with clamp := c.clamp || clamp }) n k)
    | .sent dst _ due => whenOk (dst.pkg != s.pkg) fun _ => seqComplete (finishDue s n k due) n k
    | .replay op data =>
      match op.cmb, op.seq, collOf s c with
      | some cmb, some q, some co => whenOk (decide (co.combines = q)) fun _ => startCombine s n k op cmb data
      | _, _, _ => none
    | _ => none

/-- CONTEXT_RUN_LIMIT (R302): the context leaves, ready. -/
def execContextRunLimit (sq : BitVec 5) (s : State) : Host.Outcome State Fault Refusal :=
  happens s <|
  let n := sq.toNat
  match (seqAt s n).run with
  | none => none
  | some k =>
    whenOk (decide (256 ≤ (seqAt s n).streak)) fun _ => leaveSeq s n k (atSwitch fun c => { c with state := .ready })

/-- A context has waited for a number of ticks, where its collective has timeouts. -/
def waitedFor (s : State) (c : SeqCtx) (ticks : Collective → Nat) : Bool :=
  decide (c.state = .waiting) && (collOf s c).any fun co => !co.debug && decide (ticks co ≤ (s.dtime - c.since).toNat)

/-- The ticks of a collective's timeout (R316). -/
def Collective.ticks (co : Collective) : Nat := 1024 * co.timeout

/-- The other contexts of a context's rendezvous, with the tag; a forward's receiver is one, too. -/
def SeqWait.partners (w : SeqWait) : List (Route × BitVec 16) :=
  match w with
  | .tx _ _ dst tag _ | .flow _ _ dst tag _ _ | .sent dst tag _ => [(dst, tag)]
  | .rx op _ _ _ => (op.src :: op.fwd.toList).map fun r => (r, op.tag)
  | _ => []

/-- The partners of this package's context that wait for it in turn take a cause. -/
def faultPartners (s : State) (me : Route) (l : List (Route × BitVec 16)) (cause : Nat) : State :=
  l.foldl (fun s p =>
    if isHere s p.1 && (ctxAt s p.1.sq.toNat p.1.ctx.toNat).wait.partners.contains (me, p.2) then
      seqFault s p.1.sq.toNat p.1.ctx.toNat cause 0
    else s) s

/-- RENDEZVOUS_TIMEOUT (R306, R310): both ends take cause 0x07. -/
def execRendezvousTimeout (sq : BitVec 5) (ctx : BitVec 2) (s : State) : Host.Outcome State Fault Refusal :=
  happens s <|
  let n := sq.toNat
  let k := ctx.toNat
  let c := ctxAt s n k
  let open_ := match c.wait with
    | .tx .. | .flow .. | .sent .. | .rx .. | .offer .. | .sred .. => true
    | _ => false
  whenOk (open_ && waitedFor s c Collective.ticks) fun _ =>
    faultPartners (seqFault s n k 0x07 0) (selfRoute s n k) c.wait.partners 0x07

/-- COMBINE_REPLAY_TIMEOUT (R315). -/
def execCombineReplayTimeout (sq : BitVec 5) (ctx : BitVec 2) (s : State) : Host.Outcome State Fault Refusal :=
  happens s <|
  let c := ctxAt s sq.toNat ctx.toNat
  let open_ := match c.wait with
    | .replay .. => true
    | _ => false
  whenOk (open_ && waitedFor s c Collective.ticks) fun _ => seqFault s sq.toNat ctx.toNat 0x08 0

/-- WFLG_TIMEOUT (R313). -/
def execWflgTimeout (sq : BitVec 5) (ctx : BitVec 2) (s : State) : Host.Outcome State Fault Refusal :=
  happens s <|
  let c := ctxAt s sq.toNat ctx.toNat
  match c.wait with
  | .flag _ _ ticks =>
    whenOk (decide (ticks ≠ 0) && waitedFor s c fun _ => ticks) fun _ => seqFault s sq.toNat ctx.toNat 0x07 0
  | _ => none

/-- WFLG_RECHECK (R313): the flag is read again. -/
def execWflgRecheck (sq : BitVec 5) (ctx : BitVec 2) (s : State) : Host.Outcome State Fault Refusal :=
  happens s <|
  let n := sq.toNat
  let k := ctx.toNat
  let c := ctxAt s n k
  match c.wait with
  | .flag pa v _ =>
    whenOk (decide (c.state = .waiting)) fun _ =>
      if (poisonAt s pa 8).isSome then seqFault s n k 0x0A 0
      else if v.toNat ≤ readN s.mem pa 8 then seqComplete s n k
      else s
  | _ => none

/-- SEQ_PAGE_RESOLVED (R332): by the lock die, or in host-assisted mode by the host. -/
def execSeqPageResolved (sq : BitVec 5) (ctx : BitVec 2) (mapped : Bool) (s : State) :
    Host.Outcome State Fault Refusal :=
  happens s <|
  let n := sq.toNat
  let k := ctx.toNat
  let c := ctxAt s n k
  match c.wait, collOf s c with
  | .page va host, some co =>
    whenOk (decide (c.state = .waiting)) fun _ =>
      let (ok, s) :=
        if host then (mapped, s)
        else
          let (st, s) := mapPage s co.space (n / 6) va false
          (decide (st ≤ 1), s)
      if ok then schedule (modCtx s n k (atSwitch fun c => { c with wait := .none }.retried)) n
      else seqFault s n k 0x03 va
  | _, _ => none

/-- SRED_RESULT (R310): with one contributor the sum is its own chunk. One whose PID does not match is discarded (R330). -/
def execSredResult (sq : BitVec 5) (ctx : BitVec 2) (m : SumMsg) (s : State) :
    Host.Outcome State Fault Refusal :=
  happens s <|
  let n := sq.toNat
  let k := ctx.toNat
  let c := ctxAt s n k
  match c.wait with
  | .sred dst own count =>
    whenOk (decide (c.state = .waiting) && decide (m.data.length = own.length) && (count != 1 || m.data == own)) fun _ =>
      if pidDiffers s n k m.pid then seqFault (modCtx s n k fun c => { c with wait := .none }) n k 0x05 0
      else seqComplete (writeSeg s dst m.data) n k
  | _ => none

/-! ### Collectives (R317, R320, R333) -/

/-- The package whose launch a CID names (R301). -/
def originOf (cid : BitVec 28) : BitVec 12 := cid.extractLsb' 0 12

/-- COLLECTIVE_LAUNCH_MESSAGE (R317): the package answers the origin with its lowest code; where it waits for the host, the message is
to come again. -/
def execCollectiveLaunchMessage (m : LaunchMsg) (s : State) : Host.Outcome State Fault Refusal :=
  happens s <|
  let o := originOf m.cid
  whenOk (o != s.pkg && present s o && (kget s.colls m.cid.toNat).isNone
      && ((kget s.spaces m.space).any fun sp => sp.pid == m.pid)) fun _ =>
    match loadPackage m.space m.packet m.cid none (fun _ _ => []) s with
    | .wait s => s
    | .done st _ _ s => emit s (.coll "answer" o m.cid st)

/-- A collective of another package's that is loaded here and has not started. -/
def heldFor (s : State) (cid : BitVec 28) : Bool :=
  originOf cid != s.pkg && (kget s.colls cid.toNat).any fun co => !co.started

/-- COLLECTIVE_COMMIT. -/
def execCollectiveCommit (cid : BitVec 28) (s : State) : Host.Outcome State Fault Refusal :=
  happens s <|
  whenOk (heldFor s cid) fun _ => commitColl s cid.toNat

/-- COLLECTIVE_CANCEL. -/
def execCollectiveCancel (cid : BitVec 28) (s : State) : Host.Outcome State Fault Refusal :=
  happens s <|
  whenOk (heldFor s cid) fun _ => cancelColl s cid.toNat

/-- An abort reaches a context: the running one stops at its next switch point, any other at once (R333). -/
def abortCtx (cid : BitVec 28) (s : State) (p : Nat × Nat) : State :=
  let c := ctxAt s p.1 p.2
  if c.cid ≠ cid then s
  else
    match c.state with
    | .running => modCtx s p.1 p.2 fun c => { c with abort := true }
    | .ready | .waiting | .halted => seqFault s p.1 p.2 0x0B 0
    | .idle | .faulted => s

/-- The contexts of a collective stop. -/
def abortAll (s : State) (cid : BitVec 28) (co : Collective) : State := co.ctxs.foldl (abortCtx cid) s

/-- ABORT_MESSAGE (R333): one that this package sent as the origin, or another package's. The origin sends it on. The cause of another
package's fault is the first where this package knows none, and that package has written the record. DEDUCED (log 28). -/
def execAbortMessage (m : AbortMsg) (s : State) : Host.Outcome State Fault Refusal :=
  happens s <|
  let cid := m.cid
  let cause := m.cause.toNat
  let own : OutMsg := .coll "abort" s.pkg cid cause
  match kget s.colls cid.toNat with
  | none => some { s with outbox := s.outbox.erase own }
  | some co =>
    if s.outbox.contains own then some (abortAll { s with outbox := s.outbox.erase own } cid co)
    else
      whenOk (co.pkgs.any (fun p => p != s.pkg) && decide (1 ≤ cause ∧ cause ≤ 10)) fun _ =>
        let co := if co.cause = 0 then { co with cause := cause, recorded := true } else co
        let s := { s with colls := kset s.colls cid.toNat co }
        let s := if originOf cid = s.pkg then
            (co.pkgs.filter (· ≠ s.pkg)).foldl (fun s p => emit s (.coll "abort" p cid cause)) s
          else s
        abortAll s cid co

/-- A context of a collective has ended or stopped. -/
def ctxOver (s : State) (cid : BitVec 28) (p : Nat × Nat) : Bool :=
  let c := ctxAt s p.1 p.2
  decide (c.cid ≠ cid) || (decide (c.state = .idle) && !c.held) || decide (c.state = .faulted)

/-- The done word (R320): a write that fails is dropped. -/
def writeDone (s : State) (co : Collective) : State × Bool :=
  if co.doneAt = 0 then (s, co.writeErr)
  else
    match sysAddr s co.space co.doneAt.toNat 8 needW with
    | none => (s, true)
    | some pa =>
      if (poisonAt s pa 8).isSome then (s, true)
      else ({ s with mem := writeN s.mem pa 8 (1 + 256 * co.cause) }, co.writeErr)

/-- A context that stopped with the collective is idle again. -/
def freeCtx (cid : BitVec 28) (s : State) (p : Nat × Nat) : State :=
  modCtx s p.1 p.2 fun c => if c.cid = cid ∧ c.state = .faulted then { c with state := .idle } else c

/-- COLLECTIVE_END (R320, R319). -/
def execCollectiveEnd (cid : BitVec 28) (s : State) : Host.Outcome State Fault Refusal :=
  happens s <|
  match kget s.colls cid.toNat with
  | none => none
  | some co =>
    whenOk (co.started && co.ctxs.all (ctxOver s cid)) fun _ =>
      let (s, lost) := if originOf cid = s.pkg then writeDone s co else (s, false)
      let s := co.ctxs.foldl (freeCtx cid) { s with colls := kdel s.colls cid.toNat }
      match co.source with
      | some (r, i) => finishEntry s r i (if co.cause = 0 then 2 else 3) co.cause lost
      | none => s

/-! ### Writes to contexts and to instruction memory (R301, R334) -/

/-- A write to a context is made where it is halted. -/
def whileHalted (s : State) (n k : Nat) (f : State → State) : State :=
  if (ctxAt s n k).state = .halted then f s else s

/-- A register, or the program counter. -/
def setCtxK (s : State) (n k i : Nat) (v : DWord) : State :=
  whileHalted s n k fun s => modCtx s n k fun c => { c with k := fset c.k (i % 16) v }
def setCtxPc (s : State) (n k : Nat) (pc : BitVec 11) : State :=
  whileHalted s n k fun s => modCtx s n k fun c => { c with pc := pc }

/-- A word of the instruction memory is written while no context of the sequencer runs (R301). DEDUCED (log 54). -/
def setSeqWord (s : State) (n i : Nat) (w : DWord) : State :=
  if (seqAt s n).run.isSome then s else modSeq s n fun q => { q with imem := fset q.imem (i % 2048) w }

end Sys2Proof.Machine
end

