-- ==== Sys2Proof/Machine/Waits.lean ====
section
/-! DEFINITION. The ends of scheduler-visible waits (R396, R398, R399), and the refusal of an access by its target (R191). -/

namespace Sys2Proof.Machine

/-- A descheduled stream: what it waits for, and the stream as it stands when it is ready again, in the state that has it ready. -/
def waiting (s : State) (u e : Nat) : Option (Wait × Ctx × State) :=
  match (kget s.groups u).map fun g => (g.split e).run with
  | some (RunState.wait w) =>
    let t := modGroup s u fun g => g.modSplit e fun sp => { sp with run := .run }
    (ctxOf t u e).map fun x => (w, x, t)
  | _ => none

/-- The wait is over: the stream goes on after it. -/
def endWait (w : Wait) (x : Ctx) (s : State) : State := modGroup s x.uid fun g => advance g x w.len

/-- What a read of a wait that has been stopped leads to: a fault, a trap, or, where the target refuses it or it must wait for a route
(R191, R409), the wait that goes on standing. -/
def stopWait (w : Wait) (x : Ctx) (r : Res) : State :=
  match r with
  | .fault s c d a => streamFault s x c d a
  | .trap s t => takeTrap s x.uid x.e t
  | .done s | .flow s | .stall s => modGroup s x.uid fun g => g.modSplit x.e fun sp => { sp with run := .wait w }

/-- WAIT_WAKE (R395, R398, R399): the condition holds. DEDUCED (log 30). -/
def execWaitWake (group : Nat) (entry : BitVec 2) (s : State) : Host.Outcome State Fault Refusal :=
  happens s <|
  match waiting s group entry.toNat with
  | none => none
  | some (w, x, t) =>
    match w.for_ with
    | .barrier word phase =>
      match barrierAt x t word none with
      | .ok q t =>
        match barrierPoison t q.1 with
        | some d => some (streamFault t x 0x40 d 0)
        | none => whenOk (decide (q.2.phase ≠ phase)) fun _ => endWait w x (acquire t x q.2.scope)
      | .stop r => some (stopWait w x r)
    | .value addr code v =>
      match waitvRead x t addr.toNat with
      | .ok p t =>
        whenOk (intCompare code (BitVec.ofNat 32 p.1) v) fun _ => endWait w x (acquire t x (widestScope p.2))
      | .stop r => some (stopWait w x r)
    | .child word d =>
      let h := word.toNat / 256
      whenOk (!liveChild t x.t.grid h) fun _ =>
        let v := childStatus x.gr h
        let t := if v = 0xFFFFFFFF then t else acquire t x 0
        endWait w x (modGroup t x.uid fun g => g.writes (x.wsAll d v))

/-- WAITV_RECHECK (R398): the stream continues where the word satisfies the compare, and waits on otherwise. -/
def execWaitvRecheck (group : Nat) (entry : BitVec 2) (s : State) : Host.Outcome State Fault Refusal :=
  happens s <|
  match waiting s group entry.toNat with
  | none => none
  | some (w, x, t) =>
    match w.for_ with
    | .value addr code v =>
      match waitvRead x t addr.toNat with
      | .ok p t =>
        some (if intCompare code (BitVec.ofNat 32 p.1) v then endWait w x (acquire t x (widestScope p.2))
               else modGroup t x.uid fun g => g.modSplit x.e fun sp => { sp with run := .wait w })
      | .stop r => some (stopWait w x r)
    | _ => none

/-- The detail of cause 0x27 (R361). -/
def WaitFor.detail (f : WaitFor) : Nat :=
  match f with
  | .value .. => 0
  | .barrier .. => 1
  | .child .. => 2

/-- WAIT_TIMEOUT (R396). -/
def execWaitTimeout (group : Nat) (entry : BitVec 2) (s : State) : Host.Outcome State Fault Refusal :=
  happens s <|
  match waiting s group entry.toNat with
  | none => none
  | some (w, x, t) =>
    whenOk (decide (w.ticks ≤ (s.dtime - w.since).toNat)) fun _ => streamFault t x 0x27 w.for_.detail 0

/-- REFUSED_BY_TARGET (R191, R361): the access fault names the instruction and its address; in a handler it is a handler fault
(R218). DEDUCED (log 17). -/
def execRefusedByTarget (group : Nat) (entry : BitVec 2) (s : State) : Host.Outcome State Fault Refusal :=
  happens s <|
  let e := entry.toNat
  match kget s.groups group with
  | none => none
  | some g =>
    match (g.split e).refused with
    | none => none
    | some (pc, va) =>
      let t := modGroup s group fun g => g.modSplit e fun sp => { sp with refused := none }
      some (if handlerOn g e then endByFault t g.team group e g.gid 0x30 0x22 true pc va
             else endByFault t g.team group e g.gid 0x22 4 false pc va)

end Sys2Proof.Machine
end

