-- ==== Sys2Proof/Machine/Dispatch.lean ====
section
/-! DEFINITION. Every instruction and event of the opcode table and its meaning. -/

namespace Sys2Proof.Machine

/-- The meaning of an instruction or event. -/
def exec (i : Instr) (s : State) : Host.Outcome State Fault Refusal :=
  match i with
  | .nop y => Sys2Proof.Machine.execNop y s
  | .bra y off => Sys2Proof.Machine.execBra y off s
  | .braL y tgt => Sys2Proof.Machine.execBraL y tgt s
  | .bc y i' inv j off => Sys2Proof.Machine.execBc y i' inv j off s
  | .bcL y i' inv j tgt => Sys2Proof.Machine.execBcL y i' inv j tgt s
  | .bcu y i' inv off => Sys2Proof.Machine.execBcu y i' inv off s
  | .bcuL y i' inv tgt => Sys2Proof.Machine.execBcuL y i' inv tgt s
  | .jmpi y a => Sys2Proof.Machine.execJmpi y a s
  | .call y n off => Sys2Proof.Machine.execCall y n off s
  | .callL y n tgt => Sys2Proof.Machine.execCallL y n tgt s
  | .calli y n a => Sys2Proof.Machine.execCalli y n a s
  | .ret y => Sys2Proof.Machine.execRet y s
  | .regang y j => Sys2Proof.Machine.execRegang y j s
  | .splitq y d => Sys2Proof.Machine.execSplitq y d s
  | .loop y a off => Sys2Proof.Machine.execLoop y a off s
  | .loopi y count off => Sys2Proof.Machine.execLoopi y count off s
  | .leave y => Sys2Proof.Machine.execLeave y s
  | .exit y => Sys2Proof.Machine.execExit y s
  | .yield y deadline n => Sys2Proof.Machine.execYield y deadline n s
  | .trap y code => Sys2Proof.Machine.execTrap y code s
  | .brk y code => Sys2Proof.Machine.execBrk y code s
  | .sli y d imm => Sys2Proof.Machine.execSli y d imm s
  | .sliL y d lit => Sys2Proof.Machine.execSliL y d lit s
  | .smov w => Sys2Proof.Machine.execSmov w s
  | .smovX w => Sys2Proof.Machine.execSmovX w s
  | .sadd w => Sys2Proof.Machine.execSadd w s
  | .saddX w => Sys2Proof.Machine.execSaddX w s
  | .saddL w lit => Sys2Proof.Machine.execSaddL w lit s
  | .ssub w => Sys2Proof.Machine.execSsub w s
  | .ssubX w => Sys2Proof.Machine.execSsubX w s
  | .ssubL w lit => Sys2Proof.Machine.execSsubL w lit s
  | .smul w => Sys2Proof.Machine.execSmul w s
  | .smulX w => Sys2Proof.Machine.execSmulX w s
  | .smulL w lit => Sys2Proof.Machine.execSmulL w lit s
  | .smulh w => Sys2Proof.Machine.execSmulh w s
  | .smulhX w => Sys2Proof.Machine.execSmulhX w s
  | .smulhL w lit => Sys2Proof.Machine.execSmulhL w lit s
  | .sand w => Sys2Proof.Machine.execSand w s
  | .sandX w => Sys2Proof.Machine.execSandX w s
  | .sandL w lit => Sys2Proof.Machine.execSandL w lit s
  | .sor w => Sys2Proof.Machine.execSor w s
  | .sorX w => Sys2Proof.Machine.execSorX w s
  | .sorL w lit => Sys2Proof.Machine.execSorL w lit s
  | .sxor w => Sys2Proof.Machine.execSxor w s
  | .sxorX w => Sys2Proof.Machine.execSxorX w s
  | .sxorL w lit => Sys2Proof.Machine.execSxorL w lit s
  | .sshl w => Sys2Proof.Machine.execSshl w s
  | .sshlX w => Sys2Proof.Machine.execSshlX w s
  | .sshlL w lit => Sys2Proof.Machine.execSshlL w lit s
  | .sshr w => Sys2Proof.Machine.execSshr w s
  | .sshrX w => Sys2Proof.Machine.execSshrX w s
  | .sshrL w lit => Sys2Proof.Machine.execSshrL w lit s
  | .ssra w => Sys2Proof.Machine.execSsra w s
  | .ssraX w => Sys2Proof.Machine.execSsraX w s
  | .ssraL w lit => Sys2Proof.Machine.execSsraL w lit s
  | .smin w => Sys2Proof.Machine.execSmin w s
  | .sminX w => Sys2Proof.Machine.execSminX w s
  | .sminL w lit => Sys2Proof.Machine.execSminL w lit s
  | .smax w => Sys2Proof.Machine.execSmax w s
  | .smaxX w => Sys2Proof.Machine.execSmaxX w s
  | .smaxL w lit => Sys2Proof.Machine.execSmaxL w lit s
  | .ssel w => Sys2Proof.Machine.execSsel w s
  | .sselX w => Sys2Proof.Machine.execSselX w s
  | .sselL w lit => Sys2Proof.Machine.execSselL w lit s
  | .spopc w => Sys2Proof.Machine.execSpopc w s
  | .spopcX w => Sys2Proof.Machine.execSpopcX w s
  | .scmp w => Sys2Proof.Machine.execScmp w s
  | .scmpX w => Sys2Proof.Machine.execScmpX w s
  | .scmpL w lit => Sys2Proof.Machine.execScmpL w lit s
  | .vote w => Sys2Proof.Machine.execVote w s
  | .voteX w => Sys2Proof.Machine.execVoteX w s
  | .cand w => Sys2Proof.Machine.execCand w s
  | .candX w => Sys2Proof.Machine.execCandX w s
  | .cor w => Sys2Proof.Machine.execCor w s
  | .corX w => Sys2Proof.Machine.execCorX w s
  | .cxor w => Sys2Proof.Machine.execCxor w s
  | .cxorX w => Sys2Proof.Machine.execCxorX w s
  | .setc w => Sys2Proof.Machine.execSetc w s
  | .setcX w => Sys2Proof.Machine.execSetcX w s
  | .iadd w => Sys2Proof.Machine.execIadd w s
  | .iaddX w => Sys2Proof.Machine.execIaddX w s
  | .iaddL w lit => Sys2Proof.Machine.execIaddL w lit s
  | .isub w => Sys2Proof.Machine.execIsub w s
  | .isubX w => Sys2Proof.Machine.execIsubX w s
  | .isubL w lit => Sys2Proof.Machine.execIsubL w lit s
  | .imul w => Sys2Proof.Machine.execImul w s
  | .imulX w => Sys2Proof.Machine.execImulX w s
  | .imulL w lit => Sys2Proof.Machine.execImulL w lit s
  | .imulh w => Sys2Proof.Machine.execImulh w s
  | .imulhX w => Sys2Proof.Machine.execImulhX w s
  | .imulhL w lit => Sys2Proof.Machine.execImulhL w lit s
  | .imin w => Sys2Proof.Machine.execImin w s
  | .iminX w => Sys2Proof.Machine.execIminX w s
  | .iminL w lit => Sys2Proof.Machine.execIminL w lit s
  | .imax w => Sys2Proof.Machine.execImax w s
  | .imaxX w => Sys2Proof.Machine.execImaxX w s
  | .imaxL w lit => Sys2Proof.Machine.execImaxL w lit s
  | .and w => Sys2Proof.Machine.execAnd w s
  | .andX w => Sys2Proof.Machine.execAndX w s
  | .andL w lit => Sys2Proof.Machine.execAndL w lit s
  | .or w => Sys2Proof.Machine.execOr w s
  | .orX w => Sys2Proof.Machine.execOrX w s
  | .orL w lit => Sys2Proof.Machine.execOrL w lit s
  | .xor w => Sys2Proof.Machine.execXor w s
  | .xorX w => Sys2Proof.Machine.execXorX w s
  | .xorL w lit => Sys2Proof.Machine.execXorL w lit s
  | .shl w => Sys2Proof.Machine.execShl w s
  | .shlX w => Sys2Proof.Machine.execShlX w s
  | .shlL w lit => Sys2Proof.Machine.execShlL w lit s
  | .shr w => Sys2Proof.Machine.execShr w s
  | .shrX w => Sys2Proof.Machine.execShrX w s
  | .shrL w lit => Sys2Proof.Machine.execShrL w lit s
  | .sra w => Sys2Proof.Machine.execSra w s
  | .sraX w => Sys2Proof.Machine.execSraX w s
  | .sraL w lit => Sys2Proof.Machine.execSraL w lit s
  | .imad w => Sys2Proof.Machine.execImad w s
  | .imadX w => Sys2Proof.Machine.execImadX w s
  | .imadL w lit => Sys2Proof.Machine.execImadL w lit s
  | .imadw w => Sys2Proof.Machine.execImadw w s
  | .imadwX w => Sys2Proof.Machine.execImadwX w s
  | .imadwL w lit => Sys2Proof.Machine.execImadwL w lit s
  | .iabs w => Sys2Proof.Machine.execIabs w s
  | .iabsX w => Sys2Proof.Machine.execIabsX w s
  | .ineg w => Sys2Proof.Machine.execIneg w s
  | .inegX w => Sys2Proof.Machine.execInegX w s
  | .not w => Sys2Proof.Machine.execNot w s
  | .notX w => Sys2Proof.Machine.execNotX w s
  | .popc w => Sys2Proof.Machine.execPopc w s
  | .popcX w => Sys2Proof.Machine.execPopcX w s
  | .clz w => Sys2Proof.Machine.execClz w s
  | .clzX w => Sys2Proof.Machine.execClzX w s
  | .brev w => Sys2Proof.Machine.execBrev w s
  | .brevX w => Sys2Proof.Machine.execBrevX w s
  | .mov w => Sys2Proof.Machine.execMov w s
  | .movX w => Sys2Proof.Machine.execMovX w s
  | .movi y d imm => Sys2Proof.Machine.execMovi y d imm s
  | .moviX w => Sys2Proof.Machine.execMoviX w s
  | .moviL y d lit => Sys2Proof.Machine.execMoviL y d lit s
  | .bfe w => Sys2Proof.Machine.execBfe w s
  | .bfeX w => Sys2Proof.Machine.execBfeX w s
  | .bfeL w lit => Sys2Proof.Machine.execBfeL w lit s
  | .bfi w => Sys2Proof.Machine.execBfi w s
  | .bfiX w => Sys2Proof.Machine.execBfiX w s
  | .bfiL w lit => Sys2Proof.Machine.execBfiL w lit s
  | .icmpp w => Sys2Proof.Machine.execIcmpp w s
  | .icmppX w => Sys2Proof.Machine.execIcmppX w s
  | .icmppL w lit => Sys2Proof.Machine.execIcmppL w lit s
  | .sel w => Sys2Proof.Machine.execSel w s
  | .selX w => Sys2Proof.Machine.execSelX w s
  | .selL w lit => Sys2Proof.Machine.execSelL w lit s
  | .pset w => Sys2Proof.Machine.execPset w s
  | .psetX w => Sys2Proof.Machine.execPsetX w s
  | .fadd w => Sys2Proof.Machine.execFadd w s
  | .faddX w => Sys2Proof.Machine.execFaddX w s
  | .faddL w lit => Sys2Proof.Machine.execFaddL w lit s
  | .fsub w => Sys2Proof.Machine.execFsub w s
  | .fsubX w => Sys2Proof.Machine.execFsubX w s
  | .fsubL w lit => Sys2Proof.Machine.execFsubL w lit s
  | .fmul w => Sys2Proof.Machine.execFmul w s
  | .fmulX w => Sys2Proof.Machine.execFmulX w s
  | .fmulL w lit => Sys2Proof.Machine.execFmulL w lit s
  | .fmin w => Sys2Proof.Machine.execFmin w s
  | .fminX w => Sys2Proof.Machine.execFminX w s
  | .fminL w lit => Sys2Proof.Machine.execFminL w lit s
  | .fmax w => Sys2Proof.Machine.execFmax w s
  | .fmaxX w => Sys2Proof.Machine.execFmaxX w s
  | .fmaxL w lit => Sys2Proof.Machine.execFmaxL w lit s
  | .fmaxa w => Sys2Proof.Machine.execFmaxa w s
  | .fmaxaX w => Sys2Proof.Machine.execFmaxaX w s
  | .fmaxaL w lit => Sys2Proof.Machine.execFmaxaL w lit s
  | .ffma w => Sys2Proof.Machine.execFfma w s
  | .ffmaX w => Sys2Proof.Machine.execFfmaX w s
  | .ffmaL w lit => Sys2Proof.Machine.execFfmaL w lit s
  | .frcp w => Sys2Proof.Machine.execFrcp w s
  | .frcpX w => Sys2Proof.Machine.execFrcpX w s
  | .frsq w => Sys2Proof.Machine.execFrsq w s
  | .frsqX w => Sys2Proof.Machine.execFrsqX w s
  | .fsqrt w => Sys2Proof.Machine.execFsqrt w s
  | .fsqrtX w => Sys2Proof.Machine.execFsqrtX w s
  | .fexp2 w => Sys2Proof.Machine.execFexp2 w s
  | .fexp2X w => Sys2Proof.Machine.execFexp2X w s
  | .flog2 w => Sys2Proof.Machine.execFlog2 w s
  | .flog2X w => Sys2Proof.Machine.execFlog2X w s
  | .fcmpp w => Sys2Proof.Machine.execFcmpp w s
  | .fcmppX w => Sys2Proof.Machine.execFcmppX w s
  | .fcmppL w lit => Sys2Proof.Machine.execFcmppL w lit s
  | .fclass w => Sys2Proof.Machine.execFclass w s
  | .fclassX w => Sys2Proof.Machine.execFclassX w s
  | .fscale w => Sys2Proof.Machine.execFscale w s
  | .fscaleX w => Sys2Proof.Machine.execFscaleX w s
  | .fscaleL w lit => Sys2Proof.Machine.execFscaleL w lit s
  | .hadd2 w => Sys2Proof.Machine.execHadd2 w s
  | .hadd2X w => Sys2Proof.Machine.execHadd2X w s
  | .hadd2L w lit => Sys2Proof.Machine.execHadd2L w lit s
  | .hmul2 w => Sys2Proof.Machine.execHmul2 w s
  | .hmul2X w => Sys2Proof.Machine.execHmul2X w s
  | .hmul2L w lit => Sys2Proof.Machine.execHmul2L w lit s
  | .hfma2 w => Sys2Proof.Machine.execHfma2 w s
  | .hfma2X w => Sys2Proof.Machine.execHfma2X w s
  | .hfma2L w lit => Sys2Proof.Machine.execHfma2L w lit s
  | .fdot4 w => Sys2Proof.Machine.execFdot4 w s
  | .fdot4X w => Sys2Proof.Machine.execFdot4X w s
  | .cvt w => Sys2Proof.Machine.execCvt w s
  | .cvtX w => Sys2Proof.Machine.execCvtX w s
  | .cvtf w => Sys2Proof.Machine.execCvtf w s
  | .cvtfX w => Sys2Proof.Machine.execCvtfX w s
  | .cvti w => Sys2Proof.Machine.execCvti w s
  | .cvtiX w => Sys2Proof.Machine.execCvtiX w s
  | .pack w => Sys2Proof.Machine.execPack w s
  | .packX w => Sys2Proof.Machine.execPackX w s
  | .unpack w => Sys2Proof.Machine.execUnpack w s
  | .unpackX w => Sys2Proof.Machine.execUnpackX w s
  | .qscale w => Sys2Proof.Machine.execQscale w s
  | .qscaleX w => Sys2Proof.Machine.execQscaleX w s
  | .shfl w => Sys2Proof.Machine.execShfl w s
  | .shflX w => Sys2Proof.Machine.execShflX w s
  | .shflL w lit => Sys2Proof.Machine.execShflL w lit s
  | .bcast w => Sys2Proof.Machine.execBcast w s
  | .bcastX w => Sys2Proof.Machine.execBcastX w s
  | .lred w => Sys2Proof.Machine.execLred w s
  | .lredX w => Sys2Proof.Machine.execLredX w s
  | .lscan w => Sys2Proof.Machine.execLscan w s
  | .lscanX w => Sys2Proof.Machine.execLscanX w s
  | .elect w => Sys2Proof.Machine.execElect w s
  | .electX w => Sys2Proof.Machine.execElectX w s
  | .rndx w => Sys2Proof.Machine.execRndx w s
  | .rndxX w => Sys2Proof.Machine.execRndxX w s
  | .ld w => Sys2Proof.Machine.execLd w s
  | .ldX w => Sys2Proof.Machine.execLdX w s
  | .ldL w lit => Sys2Proof.Machine.execLdL w lit s
  | .st w => Sys2Proof.Machine.execSt w s
  | .stX w => Sys2Proof.Machine.execStX w s
  | .stL w lit => Sys2Proof.Machine.execStL w lit s
  | .ldl w => Sys2Proof.Machine.execLdl w s
  | .ldlX w => Sys2Proof.Machine.execLdlX w s
  | .ldlL w lit => Sys2Proof.Machine.execLdlL w lit s
  | .stl w => Sys2Proof.Machine.execStl w s
  | .stlX w => Sys2Proof.Machine.execStlX w s
  | .stlL w lit => Sys2Proof.Machine.execStlL w lit s
  | .sld w => Sys2Proof.Machine.execSld w s
  | .sldX w => Sys2Proof.Machine.execSldX w s
  | .sldL w lit => Sys2Proof.Machine.execSldL w lit s
  | .sst w => Sys2Proof.Machine.execSst w s
  | .sstX w => Sys2Proof.Machine.execSstX w s
  | .sstL w lit => Sys2Proof.Machine.execSstL w lit s
  | .atom w => Sys2Proof.Machine.execAtom w s
  | .atomX w => Sys2Proof.Machine.execAtomX w s
  | .atomL w lit => Sys2Proof.Machine.execAtomL w lit s
  | .atoml w => Sys2Proof.Machine.execAtoml w s
  | .atomlX w => Sys2Proof.Machine.execAtomlX w s
  | .atomlL w lit => Sys2Proof.Machine.execAtomlL w lit s
  | .red w => Sys2Proof.Machine.execRed w s
  | .redX w => Sys2Proof.Machine.execRedX w s
  | .redL w lit => Sys2Proof.Machine.execRedL w lit s
  | .fence y scope kind => Sys2Proof.Machine.execFence y scope kind s
  | .fenceX w => Sys2Proof.Machine.execFenceX w s
  | .tagq w => Sys2Proof.Machine.execTagq w s
  | .tagqX w => Sys2Proof.Machine.execTagqX w s
  | .tagset w => Sys2Proof.Machine.execTagset w s
  | .tagsetX w => Sys2Proof.Machine.execTagsetX w s
  | .tagclr w => Sys2Proof.Machine.execTagclr w s
  | .tagclrX w => Sys2Proof.Machine.execTagclrX w s
  | .pref w => Sys2Proof.Machine.execPref w s
  | .prefX w => Sys2Proof.Machine.execPrefX w s
  | .prefL w lit => Sys2Proof.Machine.execPrefL w lit s
  | .cctl w => Sys2Proof.Machine.execCctl w s
  | .cctlX w => Sys2Proof.Machine.execCctlX w s
  | .cctlL w lit => Sys2Proof.Machine.execCctlL w lit s
  | .puti w lit => Sys2Proof.Machine.execPuti w lit s
  | .putiX w => Sys2Proof.Machine.execPutiX w s
  | .mma w => Sys2Proof.Machine.execMma w s
  | .mmaX w => Sys2Proof.Machine.execMmaX w s
  | .dmma w => Sys2Proof.Machine.execDmma w s
  | .dmmaX w => Sys2Proof.Machine.execDmmaX w s
  | .azero w => Sys2Proof.Machine.execAzero w s
  | .azeroX w => Sys2Proof.Machine.execAzeroX w s
  | .arel w => Sys2Proof.Machine.execArel w s
  | .arelX w => Sys2Proof.Machine.execArelX w s
  | .ard w => Sys2Proof.Machine.execArd w s
  | .ardX w => Sys2Proof.Machine.execArdX w s
  | .ardL w lit => Sys2Proof.Machine.execArdL w lit s
  | .awr w => Sys2Proof.Machine.execAwr w s
  | .awrX w => Sys2Proof.Machine.execAwrX w s
  | .awrL w lit => Sys2Proof.Machine.execAwrL w lit s
  | .adrain w => Sys2Proof.Machine.execAdrain w s
  | .adrainX w => Sys2Proof.Machine.execAdrainX w s
  | .mfence w => Sys2Proof.Machine.execMfence w s
  | .mfenceX w => Sys2Proof.Machine.execMfenceX w s
  | .mwait w => Sys2Proof.Machine.execMwait w s
  | .mwaitX w => Sys2Proof.Machine.execMwaitX w s
  | .mwaitL w lit => Sys2Proof.Machine.execMwaitL w lit s
  | .bcopy w => Sys2Proof.Machine.execBcopy w s
  | .bcopyX w => Sys2Proof.Machine.execBcopyX w s
  | .bcopym w => Sys2Proof.Machine.execBcopym w s
  | .bcopymX w => Sys2Proof.Machine.execBcopymX w s
  | .qfence w => Sys2Proof.Machine.execQfence w s
  | .qfenceX w => Sys2Proof.Machine.execQfenceX w s
  | .route w => Sys2Proof.Machine.execRoute w s
  | .routeX w => Sys2Proof.Machine.execRouteX w s
  | .coll w => Sys2Proof.Machine.execColl w s
  | .collX w => Sys2Proof.Machine.execCollX w s
  | .seqgo w => Sys2Proof.Machine.execSeqgo w s
  | .seqgoX w => Sys2Proof.Machine.execSeqgoX w s
  | .srec w => Sys2Proof.Machine.execSrec w s
  | .srecX w => Sys2Proof.Machine.execSrecX w s
  | .srecL w lit => Sys2Proof.Machine.execSrecL w lit s
  | .binit w => Sys2Proof.Machine.execBinit w s
  | .binitX w => Sys2Proof.Machine.execBinitX w s
  | .binitL w lit => Sys2Proof.Machine.execBinitL w lit s
  | .barv w => Sys2Proof.Machine.execBarv w s
  | .barvX w => Sys2Proof.Machine.execBarvX w s
  | .barvL w lit => Sys2Proof.Machine.execBarvL w lit s
  | .barvx w => Sys2Proof.Machine.execBarvx w s
  | .barvxX w => Sys2Proof.Machine.execBarvxX w s
  | .barvxL w lit => Sys2Proof.Machine.execBarvxL w lit s
  | .bwait w => Sys2Proof.Machine.execBwait w s
  | .bwaitX w => Sys2Proof.Machine.execBwaitX w s
  | .btest w => Sys2Proof.Machine.execBtest w s
  | .btestX w => Sys2Proof.Machine.execBtestX w s
  | .waitv w => Sys2Proof.Machine.execWaitv w s
  | .waitvX w => Sys2Proof.Machine.execWaitvX w s
  | .waitvL w lit => Sys2Proof.Machine.execWaitvL w lit s
  | .tsrd w => Sys2Proof.Machine.execTsrd w s
  | .tsrdX w => Sys2Proof.Machine.execTsrdX w s
  | .cntrd w => Sys2Proof.Machine.execCntrd w s
  | .cntrdX w => Sys2Proof.Machine.execCntrdX w s
  | .get w => Sys2Proof.Machine.execGet w s
  | .getX w => Sys2Proof.Machine.execGetX w s
  | .put w => Sys2Proof.Machine.execPut w s
  | .putX w => Sys2Proof.Machine.execPutX w s
  | .sysget w => Sys2Proof.Machine.execSysget w s
  | .sysgetX w => Sys2Proof.Machine.execSysgetX w s
  | .sysgetL w lit => Sys2Proof.Machine.execSysgetL w lit s
  | .sysput w => Sys2Proof.Machine.execSysput w s
  | .sysputX w => Sys2Proof.Machine.execSysputX w s
  | .sysputL w lit => Sys2Proof.Machine.execSysputL w lit s
  | .launch w => Sys2Proof.Machine.execLaunch w s
  | .cwait w => Sys2Proof.Machine.execCwait w s
  | .rte y => Sys2Proof.Machine.execRte y s
  | .mapp w => Sys2Proof.Machine.execMapp w s
  | .tlbi w => Sys2Proof.Machine.execTlbi w s
  | .wspill w => Sys2Proof.Machine.execWspill w s
  | .wfill w => Sys2Proof.Machine.execWfill w s
  | .dspill w => Sys2Proof.Machine.execDspill w s
  | .halt y => Sys2Proof.Machine.execHalt y s
  | .snop => Sys2Proof.Machine.execSnop s
  | .txc a b len lnk tag => Sys2Proof.Machine.execTxc a b len lnk tag s
  | .rxs d b len tag => Sys2Proof.Machine.execRxs d b len tag s
  | .rxc d a b len cmb tag => Sys2Proof.Machine.execRxc d a b len cmb tag s
  | .rxcf d a b len lnk cmb sto tag => Sys2Proof.Machine.execRxcf d a b len lnk cmb sto tag s
  | .wflg a b timeout => Sys2Proof.Machine.execWflg a b timeout s
  | .sflg a b mode imm => Sys2Proof.Machine.execSflg a b mode imm s
  | .loopk d target => Sys2Proof.Machine.execLoopk d target s
  | .jmpk a target cond => Sys2Proof.Machine.execJmpk a target cond s
  | .setk d a mode imm => Sys2Proof.Machine.execSetk d a mode imm s
  | .addk d a b mode imm => Sys2Proof.Machine.execAddk d a b mode imm s
  | .cvtb d a b len dir => Sys2Proof.Machine.execCvtb d a b len dir s
  | .sred d a b len lnk => Sys2Proof.Machine.execSred d a b len lnk s
  | .putk d a b => Sys2Proof.Machine.execPutk d a b s
  | .loga a b mode => Sys2Proof.Machine.execLoga a b mode s
  | .seqend => Sys2Proof.Machine.execSeqend s
  | .deviceReset => Sys2Proof.Machine.execDeviceReset s
  | .bootImageCheck img => Sys2Proof.Machine.execBootImageCheck img s
  | .attestationRequest nonce => Sys2Proof.Machine.execAttestationRequest nonce s
  | .doorbell ring tail => Sys2Proof.Machine.execDoorbell ring tail s
  | .ringEnable ring => Sys2Proof.Machine.execRingEnable ring s
  | .ringRestart ring => Sys2Proof.Machine.execRingRestart ring s
  | .cmdLaunch ring => Sys2Proof.Machine.execCmdLaunch ring s
  | .cmdCopy ring core => Sys2Proof.Machine.execCmdCopy ring core s
  | .cmdSequencerStart ring => Sys2Proof.Machine.execCmdSequencerStart ring s
  | .cmdWait ring => Sys2Proof.Machine.execCmdWait ring s
  | .cmdWaitTimeout ring idx => Sys2Proof.Machine.execCmdWaitTimeout ring idx s
  | .cmdSignal ring => Sys2Proof.Machine.execCmdSignal ring s
  | .cmdFence ring => Sys2Proof.Machine.execCmdFence ring s
  | .mgmtRegisterWrite fw off v => Sys2Proof.Machine.execMgmtRegisterWrite fw off v s
  | .lapprove handle => Sys2Proof.Machine.execLapprove handle s
  | .preqRaise handle => Sys2Proof.Machine.execPreqRaise handle s
  | .preqWithdraw handle => Sys2Proof.Machine.execPreqWithdraw handle s
  | .fwLoad img => Sys2Proof.Machine.execFwLoad img s
  | .fwHandOver priv => Sys2Proof.Machine.execFwHandOver priv s
  | .fwAbandon => Sys2Proof.Machine.execFwAbandon s
  | .fwAlive ctl => Sys2Proof.Machine.execFwAlive ctl s
  | .aliveDeadlineExpiry ctl => Sys2Proof.Machine.execAliveDeadlineExpiry ctl s
  | .islandStep k => Sys2Proof.Machine.execIslandStep k s
  | .islandGate gate => Sys2Proof.Machine.execIslandGate gate s
  | .groupStep handle => Sys2Proof.Machine.execGroupStep handle s
  | .streamStep handle entry => Sys2Proof.Machine.execStreamStep handle entry s
  | .debugResume handle => Sys2Proof.Machine.execDebugResume handle s
  | .seqHalt sq ctx halt => Sys2Proof.Machine.execSeqHalt sq ctx halt s
  | .seqStep sq ctx => Sys2Proof.Machine.execSeqStep sq ctx s
  | .dispatchTeam handle place twin => Sys2Proof.Machine.execDispatchTeam handle place twin s
  | .dispatcherPreempt team forGrid => Sys2Proof.Machine.execDispatcherPreempt team forGrid s
  | .teamTaken team => Sys2Proof.Machine.execTeamTaken team s
  | .swapOut team forGrid => Sys2Proof.Machine.execSwapOut team forGrid s
  | .teamResume team place twin => Sys2Proof.Machine.execTeamResume team place twin s
  | .resultWriteback group entry k => Sys2Proof.Machine.execResultWriteback group entry k s
  | .yieldOverrun group entry => Sys2Proof.Machine.execYieldOverrun group entry s
  | .gridRetire handle => Sys2Proof.Machine.execGridRetire handle s
  | .engineFaultDelivery eng => Sys2Proof.Machine.execEngineFaultDelivery eng s
  | .hostPageAnswer group entry mapped => Sys2Proof.Machine.execHostPageAnswer group entry mapped s
  | .hostFaultAnswer team resume => Sys2Proof.Machine.execHostFaultAnswer team resume s
  | .matrixFifoHead core => Sys2Proof.Machine.execMatrixFifoHead core s
  | .accumulatorStarvation core => Sys2Proof.Machine.execAccumulatorStarvation core s
  | .batchRetire group => Sys2Proof.Machine.execBatchRetire group s
  | .adrainHandOver core => Sys2Proof.Machine.execAdrainHandOver core s
  | .bargeDrain core => Sys2Proof.Machine.execBargeDrain core s
  | .abortedDrain core => Sys2Proof.Machine.execAbortedDrain core s
  | .bcopyPerform core => Sys2Proof.Machine.execBcopyPerform core s
  | .bcopymPerform core => Sys2Proof.Machine.execBcopymPerform core s
  | .routePerform die => Sys2Proof.Machine.execRoutePerform die s
  | .collPerform core => Sys2Proof.Machine.execCollPerform core s
  | .waitWake group entry => Sys2Proof.Machine.execWaitWake group entry s
  | .waitvRecheck group entry => Sys2Proof.Machine.execWaitvRecheck group entry s
  | .waitTimeout group entry => Sys2Proof.Machine.execWaitTimeout group entry s
  | .readShared r => Sys2Proof.Machine.execReadShared r s
  | .readOwn r => Sys2Proof.Machine.execReadOwn r s
  | .upgrade r => Sys2Proof.Machine.execUpgrade r s
  | .writeBack r => Sys2Proof.Machine.execWriteBack r s
  | .cleanEvict r => Sys2Proof.Machine.execCleanEvict r s
  | .atomicAtHome r => Sys2Proof.Machine.execAtomicAtHome r s
  | .fwdShared n => Sys2Proof.Machine.execFwdShared n s
  | .fwdOwn n => Sys2Proof.Machine.execFwdOwn n s
  | .invalidate n => Sys2Proof.Machine.execInvalidate n s
  | .backInvalidate n => Sys2Proof.Machine.execBackInvalidate n s
  | .dataResponse die line st => Sys2Proof.Machine.execDataResponse die line st s
  | .ack die line => Sys2Proof.Machine.execAck die line s
  | .retry die line => Sys2Proof.Machine.execRetry die line s
  | .snoopResponse line src data => Sys2Proof.Machine.execSnoopResponse line src data s
  | .l2Eviction die line => Sys2Proof.Machine.execL2Eviction die line s
  | .shadowNote region m => Sys2Proof.Machine.execShadowNote region m s
  | .track region switch => Sys2Proof.Machine.execTrack region switch s
  | .untrack region => Sys2Proof.Machine.execUntrack region s
  | .regionSweep region => Sys2Proof.Machine.execRegionSweep region s
  | .requestReissue tag => Sys2Proof.Machine.execRequestReissue tag s
  | .switchFailure switch => Sys2Proof.Machine.execSwitchFailure switch s
  | .recoveryWindowEnd => Sys2Proof.Machine.execRecoveryWindowEnd s
  | .invalidateResend line pkg => Sys2Proof.Machine.execInvalidateResend line pkg s
  | .hostSnoop die line kind => Sys2Proof.Machine.execHostSnoop die line kind s
  | .bisnpResponse line dirty => Sys2Proof.Machine.execBisnpResponse line dirty s
  | .hostMemoryAccess pa n data => Sys2Proof.Machine.execHostMemoryAccess pa n data s
  | .flitReceive link flit => Sys2Proof.Machine.execFlitReceive link flit s
  | .linkDown link => Sys2Proof.Machine.execLinkDown link s
  | .readyMessage m => Sys2Proof.Machine.execReadyMessage m s
  | .readyRetry sq ctx => Sys2Proof.Machine.execReadyRetry sq ctx s
  | .chunkMessage m => Sys2Proof.Machine.execChunkMessage m s
  | .nackMessage m => Sys2Proof.Machine.execNackMessage m s
  | .rendezvousTimeout sq ctx => Sys2Proof.Machine.execRendezvousTimeout sq ctx s
  | .sredResult sq ctx m => Sys2Proof.Machine.execSredResult sq ctx m s
  | .putMessage m => Sys2Proof.Machine.execPutMessage m s
  | .notifyAppend win => Sys2Proof.Machine.execNotifyAppend win s
  | .putAck m => Sys2Proof.Machine.execPutAck m s
  | .creditReturn grantor requests bulk => Sys2Proof.Machine.execCreditReturn grantor requests bulk s
  | .markEcho pkg => Sys2Proof.Machine.execMarkEcho pkg s
  | .rateRecovery pkg => Sys2Proof.Machine.execRateRecovery pkg s
  | .collectiveLaunchMessage m => Sys2Proof.Machine.execCollectiveLaunchMessage m s
  | .collectiveCommit cid => Sys2Proof.Machine.execCollectiveCommit cid s
  | .collectiveCancel cid => Sys2Proof.Machine.execCollectiveCancel cid s
  | .abortMessage m => Sys2Proof.Machine.execAbortMessage m s
  | .chunkComplete sq ctx => Sys2Proof.Machine.execChunkComplete sq ctx s
  | .contextRunLimit sq => Sys2Proof.Machine.execContextRunLimit sq s
  | .wflgTimeout sq ctx => Sys2Proof.Machine.execWflgTimeout sq ctx s
  | .seqPageResolved sq ctx mapped => Sys2Proof.Machine.execSeqPageResolved sq ctx mapped s
  | .collectiveEnd cid => Sys2Proof.Machine.execCollectiveEnd cid s
  | .replay handle => Sys2Proof.Machine.execReplay handle s
  | .pairCompare team => Sys2Proof.Machine.execPairCompare team s
  | .pairTimeout team => Sys2Proof.Machine.execPairTimeout team s
  | .uncorrectableError e => Sys2Proof.Machine.execUncorrectableError e s
  | .correctedError e handle => Sys2Proof.Machine.execCorrectedError e handle s
  | .rowSpare idx => Sys2Proof.Machine.execRowSpare idx s
  | .powerLimit island mhz => Sys2Proof.Machine.execPowerLimit island mhz s
  | .dtimeSync ticks => Sys2Proof.Machine.execDtimeSync ticks s
  | .linkUp link => Sys2Proof.Machine.execLinkUp link s
  | .domainBringUp b => Sys2Proof.Machine.execDomainBringUp b s
  | .wflgRecheck sq ctx => Sys2Proof.Machine.execWflgRecheck sq ctx s
  | .cmdWaitSatisfied ring idx => Sys2Proof.Machine.execCmdWaitSatisfied ring idx s
  | .refusedByTarget group entry => Sys2Proof.Machine.execRefusedByTarget group entry s
  | .combineReplayTimeout sq ctx => Sys2Proof.Machine.execCombineReplayTimeout sq ctx s

end Sys2Proof.Machine
end

