-- ==== Sys2Proof/Machine/Reads.lean ====
section
/-! DEFINITION. What firmware and the host read beside the registers of BAR0 (R6): link sequencers (R301), windows (R323), the debug
interface (R337, R339, R400), and tables of grids and errors (R177, R373, R403, R405). A reserved field reads as zero. -/

namespace Sys2Proof.Machine

/-- The STATE field of a control word. -/
def SeqState.code (st : SeqState) : Nat :=
  match st with
  | .idle => 0 | .ready => 1 | .running => 2 | .waiting => 3 | .halted => 4 | .faulted => 5

/-- A context's control word (R301). -/
def SeqCtx.control (c : SeqCtx) : Nat :=
  c.pc.toNat + 2 ^ 11 * c.state.code + bitAt c.halt 14 + bitAt c.step 15 + bitAt c.clamp 16 + 2 ^ 17 * c.logm.toNat
    + bitAt c.logovf 19 + 2 ^ 32 * c.cid.toNat + 2 ^ 64 * c.logpos.toNat

/-- A window table entry (R323). -/
def Window.toNat (w : Window) : Nat :=
  bitAt w.valid 0 + bitAt w.w 1 + bitAt w.notify 2 + 2 ^ 32 * w.key.toNat + 2 ^ 64 * w.base.toNat + 2 ^ 128 * w.size.toNat
    + 2 ^ 192 * w.pid.toNat + 2 ^ 208 * w.nqlog.toNat + 2 ^ 256 * w.nqbase.toNat + 2 ^ 320 * w.nqcons.toNat
    + 2 ^ 384 * w.nqprod.toNat

/-- A split table entry (R337). -/
def Split.toNat (sp : Split) : Nat := bitAt sp.valid 0 + bitAt sp.wait 1 + 2 ^ 2 * sp.wj.toNat + 2 ^ 8 * sp.mask.toNat

/-- A rejoin register (R117), and the control word of a group's divergence stack (R340). -/
def Rejoin.toNat (j : Rejoin) : Nat := bitAt j.valid 0 + 2 * j.mask.toNat + 2 ^ 17 * j.pc.toNat
def Group.stackWord (g : Group) : Nat := g.dstack.length + 2 ^ 5 * g.spcnt + 2 ^ 32 * g.spbase.toNat

/-- A tracked row (R403). -/
def rowEntry (s : State) (e : EcRow) : Nat :=
  1 + 2 * (retirement s e.row).row.toNat + 2 ^ 33 * e.stamps.length
    + (e.stamps.zipIdx.map fun p => 2 ^ (36 + 24 * p.2) * p.1.toNat).sum

/-- A snapshot table entry (R373). -/
def Snap.toNat (x : Snap) : Nat := 1 + 2 ^ 16 * x.gran + 2 ^ 80 * x.copy

/-- A group that the debug interface shows: its grid is the one that the interface is enabled for (R366, R410). -/
def shownGroup (s : State) (u : Nat) : Option Group :=
  (kget s.groups u).filter fun g => (kget s.teams g.team).any fun t => debugOn s t.grid.toNat

/-- A context has stopped, or none of a collective runs in it: its registers can be read (R301, R320). -/
def SeqState.readable (c : SeqState) : Bool :=
  match c with
  | .idle | .halted | .faulted => true
  | .ready | .running | .waiting => false

/-- The value of a state item, where its map grants the read now. -/
def itemValue (s : State) (p : Probe) : Option Nat :=
  match p with
  | .seqWord n i => if (seqAt s n).run.isSome then none else some (fget (seqAt s n).imem (i % 2048)).toNat
  | .seqK n k i => if (ctxAt s n k).state.readable then some (fget (ctxAt s n k).k (i % 16)).toNat else none
  | .seqControl n k => some (ctxAt s n k).control
  | .window n => some (windowAt s n).toNat
  | .split u e => (shownGroup s u).map fun g => (g.split e).toNat
  | .stack u n => ((shownGroup s u).bind fun g => g.dstack[n]?).map divToNat
  | .rejoin u n => (((shownGroup s u).filter (·.hold)).bind fun g => g.j[n]?).map Rejoin.toNat
  | .stackControl u => ((shownGroup s u).filter (·.hold)).map Group.stackWord
  | .budget u => (shownGroup s u).map (·.budget)
  | .counter h n => (kget s.grids h).map fun g => (g.counters.getD n 0).toNat
  | .slot h n => (kget s.grids h).map fun g => slotBits (g.launch.slots.getD n fmtSlotZero)
  | .row n => (s.ec[n]?).map (rowEntry s)
  | .snapshot h n => ((kget s.grids h).bind fun g => g.snaps[n]?).map Snap.toNat

/-- Firmware or the host reads a state item. -/
def readItem (s : State) (p : Probe) : State :=
  match itemValue s p with
  | some v => tellHost s "read" [v]
  | none => s

end Sys2Proof.Machine
end

