-- ==== Sys2Proof/Machine/Wire.lean ====
section
/-! DEFINITION. The message stream of the links (R327): a message as its header and payload, the flits that carry the stream of this
package, and what a message that has come whole is to the package. -/

namespace Sys2Proof.Machine

/-! ### What leaves -/

/-- The 32 bytes of a message's header (R327). -/
def WireMsg.header (m : WireMsg) : List Byte :=
  [m.kind, m.sub] ++ toBytes 2 (m.pid.toNat + 2 ^ 12 * m.lane.toNat) ++ toBytes 2 m.src.toNat ++ toBytes 2 m.dst.toNat
    ++ toBytes 8 m.stamp.toNat ++ toBytes 2 m.tag.toNat ++ toBytes 2 (m.sq.toNat + 32 * m.ctx.toNat) ++ toBytes 4 m.length
    ++ toBytes 8 m.addr.toNat

/-- The hash lane of a physical address (R245). -/
def laneOf (a : DWord) : BitVec 4 := a.extractLsb' 7 4 ^^^ a.extractLsb' 11 4 ^^^ a.extractLsb' 15 4 ^^^ a.extractLsb' 19 4

/-- What is kept of a message that waits for a link: of the oldest, where several are alike. -/
def issuedOf (s : State) (m : OutMsg) : Option Issued := s.issued.reverse.find? fun i => i.msg == m

/-- A message of a kind to a package with a payload, issued at a time, its other fields zero. -/
def wireTo (s : State) (time : DWord) (kind : Nat) (dst : BitVec 12) (payload : List Byte) : WireMsg :=
  { kind := BitVec.ofNat 8 kind, sub := 0, pid := 0, lane := 0, src := s.pkg, dst := dst, stamp := time, tag := 0, sq := 0
    ctx := 0, length := payload.length, addr := 0, payload := payload }

/-- The issuer of a remote write as numbers. -/
def issuerWords (i : PutIssuer) : List Nat :=
  match i with
  | .grid h team gid => [0, h.toNat, team.toNat, gid.toNat]
  | .ctx sq k cid pc => [1, sq.toNat, k.toNat, cid.toNat, pc.toNat]

/-- The coherence messages that bring the bytes of their line (R248). -/
def bringsLine (kind : String) : Bool := ["DataS", "DataE", "DataM", "DataFwd", "DataHome", "WriteBack"].contains kind

/-- What a coherence message brings: the bytes of its line, an atomic's operands, or the bytes that are stored at the home. -/
def cohBytes (s : State) (code : Nat) (kind : String) (line : Nat) (data : Payload) : List Byte :=
  match data with
  | .atomic _ wide op uns v c key =>
    Config.wireBody code [if wide then 1 else 0, op.toNat, if uns then 1 else 0, v.toNat, c.toNat, if key.isSome then 1 else 0,
      (key.getD 0).toNat]
  | .data _ l => Config.wireBody code ([2, l.length] ++ l.map (·.toNat))
  | .none => if bringsLine kind then readList s.mem (line * 128) 128 else Config.wireBody code [line]

/-- Where in its line a message's bytes lie. -/
def payloadOffset (p : Payload) : Nat :=
  match p with
  | .data o _ => o.toNat
  | .atomic o .. => o.toNat
  | .none => 0

/-- A message of this package as a link carries it; none for what is no message of R327's list, or for no other package. The places of the
fields that the header has none for are open: Config.wireBody gives such a payload. DESIGN CHOICE (log 27). -/
def wireOut (s : State) (m : OutMsg) : Option WireMsg :=
  let time := ((issuedOf s m).map (·.time)).getD s.dtime
  let wire (kind : Nat) (dst : BitVec 12) (l : List Byte) : WireMsg := wireTo s time kind dst l
  let body (kind : Nat) (dst : BitVec 12) (l : List Nat) : WireMsg := wire kind dst (Config.wireBody kind l)
  let w : Option WireMsg := match m with
  | .ready r =>
    let l := [r.src.sq.toNat, r.src.ctx.toNat, r.length, ((r.combine.map fun c => c.toNat + 1).getD 0)]
    some { body 0x10 r.dst.pkg l with pid := r.pid, tag := r.tag, sq := r.dst.sq, ctx := r.dst.ctx }
  | .chunk c => some { wire 0x11 c.dst.pkg c.data with pid := c.pid, tag := c.tag, sq := c.dst.sq, ctx := c.dst.ctx }
  | .nack n =>
    some { body 0x12 n.dst.pkg [if n.pidFault then 1 else 0] with tag := n.tag, sq := n.dst.sq, ctx := n.dst.ctx }
  | .sred sq k _ desc pid data =>
    some { wire 0x13 s.pkg data with pid := pid, sq := BitVec.ofNat 5 sq, ctx := BitVec.ofNat 2 k, addr := desc }
  | .put p =>
    let l := [p.value.toNat, p.word.toNat, if p.putk then 1 else 0] ++ issuerWords p.issuer
    some { body 0x14 p.dst l with pid := p.pid, addr := p.key ++ p.offset }
  | .putAck a => some (body 0x15 a.dst (((a.detail.map fun d => d.toNat + 1).getD 0) :: issuerWords a.issuer))
  | .launch dst l =>
    some { body 0x16 dst [l.cid.toNat, l.space] with sub := Config.wireSub "launch", pid := l.pid, addr := l.packet }
  | .coll "abort" dst cid code => some (body 0x17 dst [cid.toNat, code])
  | .coll kind dst cid code =>
    if ["answer", "commit", "cancel"].contains kind then
      some { body 0x16 dst [cid.toNat, code] with sub := Config.wireSub kind }
    else none
  | .coh kind src (.pkg p) line stamp data =>
    let code := if kind = "AtomicAtHome" ∧ src = selfNode s then 0x03 else 0x04
    some { wire code p (cohBytes s code kind line data) with
      sub := Config.wireSub kind, stamp := stamp.time, tag := stamp.tag.zeroExtend 16
      addr := BitVec.ofNat 64 (line * 128 + payloadOffset data) }
  | .access true dst a _ data => some { wire 0x02 dst data with addr := BitVec.ofNat 64 a }
  | .access false dst a n _ => some { body 0x01 dst [n] with addr := BitVec.ofNat 64 a }
  | _ => none
  w.map fun w => { w with lane := laneOf w.addr }

/-- The link whose switch a chunk is presented to. -/
def OutMsg.sumLink (m : OutMsg) : Option Nat :=
  match m with
  | .sred _ _ n .. => some n
  | _ => none

/-- A read or a write of another package's memory takes a request credit as it leaves (R328); other messages have had theirs. -/
def leaveCredit (s : State) (m : OutMsg) : Option State :=
  match m with
  | .access _ dst .. => takeRequest s dst
  | _ => some s

/-- Whether a link leads where a message goes: to its package, or to the switch that sums; a chunk's is the one that its instruction names
(R306). -/
def mayTake (s : State) (link : Nat) (m : OutMsg) (w : WireMsg) : Bool :=
  match m.sumLink with
  | some l => decide (l = link) && leadsToSwitch s link
  | none => w.dst != s.pkg && linkReaches s link w.dst && ((issuedOf s m).bind (·.link)).all (· == link)

/-- A read, a write, an atomic or a coherence message: an access to a line. -/
def WireMsg.isAccess (m : WireMsg) : Bool := decide (1 ≤ m.kind.toNat ∧ m.kind.toNat ≤ 4)

/-- Two messages of one destination and hash lane, which keep their order; accesses to different lines come in either (R245). -/
def sameLane (s : State) (a b : OutMsg) : Bool :=
  match wireOut s a, wireOut s b with
  | some v, some w => decide (a.sumLink = b.sumLink) && v.dst == w.dst && v.lane == w.lane &&
      !(v.isAccess && w.isAccess && decide (v.addr.toNat / 128 ≠ w.addr.toNat / 128))
  | _, _ => false

/-- The messages of which a link's stream still holds bytes, n in all, among those that have gone into it, the newest first. -/
def inStream (s : State) (link : Nat) : Nat → List OutMsg → List OutMsg
  | _, [] => []
  | n, m :: l =>
    match m with
    | .wired k m =>
      if k ≠ link then inStream s link n l
      else if n = 0 then []
      else m :: inStream s link (n - (32 + ((wireOut s m).map (·.payload.length)).getD 0)) l
    | _ => inStream s link n l

/-- Another link that leads to the same package still holds a message with which m keeps its order; a chunk has its link named. -/
def heldElsewhere (s : State) (link : Nat) (m : OutMsg) (dst : BitVec 12) : Bool :=
  ((issuedOf s m).bind (·.link)).isNone && (List.range 24).any fun n => decide (n ≠ link) && linkReaches s n dst &&
    (inStream s n (s.links.getD n Link.init).out.length s.outbox).any (sameLane s m)

/-- A message can leave: it has its credit, and some link leads where it goes. -/
def canLeave (s : State) (m : OutMsg) : Bool :=
  (leaveCredit s m).isSome && (wireOut s m).any fun w => (List.range 24).any fun n => mayTake s n m w

/-- A message is the oldest that can leave of those that it keeps in order with. -/
def firstOfLane (s : State) (m : OutMsg) : Bool :=
  (s.outbox.reverse.find? fun x => sameLane s m x && canLeave s x) == some m

/-- A list, which holds the newest first, without the oldest that f admits. -/
def eraseOldest {α : Type} (f : α → Bool) : List α → List α
  | [] => []
  | x :: l => if l.any f then x :: eraseOldest f l else if f x then l else x :: l

/-- A message goes into the stream of a link, in the order of its lane. -/
def packMsg (s : State) (link : Nat) (m : OutMsg) : State :=
  match wireOut s m with
  | none => s
  | some w =>
    if mayTake s link m w && firstOfLane s m && !heldElsewhere s link m w.dst then
      match leaveCredit s m with
      | none => s
      | some s =>
        { modLink s link fun l => { l with out := l.out ++ w.header ++ w.payload } with
          outbox := .wired link m :: eraseOldest (· == m) s.outbox
          issued := eraseOldest (fun i => i.msg == m) s.issued }
    else s

/-- The bytes of a flit before its CRC. -/
def flitBody (l : Link) : List Byte :=
  toBytes 8 (l.txSeq.toNat + 2 ^ 12 * (l.seq - 1).toNat + 2 ^ 24 * min l.owed 255) ++ l.out.take 240

/-- A flit leaves on a link that is up, has a credit, and has 240 bytes of stream to send: the spec gives no filling. -/
def sendFlit (s : State) (link : Nat) : State :=
  let l := s.links.getD link Link.init
  if l.up ∧ 0 < l.credits ∧ 240 ≤ l.out.length then
    let flit := flitBody l ++ toBytes 8 (Config.crc64 (flitBody l)).toNat
    emit (modLink s link fun l =>
      { l with txSeq := l.txSeq + 1, credits := l.credits - 1, owed := l.owed - min l.owed 255, out := l.out.drop 240 })
      (.link "flit" link (flit.map (·.toNat)))
  else s

/-! ### What comes -/

/-- Two messages are pieces of one chunk. -/
def WireMsg.sameChunk (a b : WireMsg) : Bool :=
  a.kind == b.kind && a.src == b.src && a.dst == b.dst && a.tag == b.tag && a.sq == b.sq && a.ctx == b.ctx

/-- A piece of a chunk in its place among others, by its offset (R327). -/
def insertPiece (m : WireMsg) : List WireMsg → List WireMsg
  | [] => [m]
  | x :: l => if m.addr.toNat < x.addr.toNat then m :: x :: l else x :: insertPiece m l

/-- The receive that waits for a chunk. -/
def receiveFor (s : State) (m : WireMsg) : Option RxOp :=
  match (ctxAt s m.sq.toNat m.ctx.toNat).wait with
  | .rx op (some _) _ _ => if op.tag = m.tag ∧ op.src.pkg = m.src then some op else none
  | _ => none

/-- The first message that a link has received is taken from it: a chunk with all its pieces, once they are as long as the receive that
waits for it. -/
def takeGot (s : State) (link : Nat) : Option (WireMsg × State) :=
  let l := s.links.getD link Link.init
  match l.got with
  | [] => none
  | m :: rest =>
    if m.kind ≠ 0x11 then some (m, modLink s link fun l => { l with got := rest })
    else
      let (pieces, others) := l.got.partition m.sameChunk
      let data := (pieces.foldr insertPiece []).flatMap (·.payload)
      if (receiveFor s m).any fun op => decide (data.length < op.len) then none
      else some ({ m with payload := data, length := data.length }, modLink s link fun l => { l with got := others })

/-- The issuer that an acknowledgement or a write names. -/
def issuerOf (f : Nat → Nat) (k : Nat) : PutIssuer :=
  if f k % 2 = 0 then .grid (BitVec.ofNat 14 (f (k + 1))) (BitVec.ofNat 32 (f (k + 2))) (BitVec.ofNat 5 (f (k + 3)))
  else .ctx (BitVec.ofNat 5 (f (k + 1))) (BitVec.ofNat 2 (f (k + 2))) (BitVec.ofNat 28 (f (k + 3))) (BitVec.ofNat 11 (f (k + 4)))

/-- The kinds of coherence request, in the order of R248. -/
noncomputable def cohInstr (k : CohKind) (r : CohReq) : Instr :=
  match k with
  | .readShared => .readShared r
  | .readOwn => .readOwn r
  | .upgrade => .upgrade r
  | .writeBack => .writeBack r
  | .cleanEvict => .cleanEvict r
  | .atomic => .atomicAtHome r

/-- A request as a message carries it: its data follows the header. -/
def wireReq (m : WireMsg) (f : Nat → Nat) (atomic : Bool) : CohReq :=
  let at_ := BitVec.ofNat 7 m.addr.toNat
  { line := m.addr.toNat / 128, src := .pkg m.src, stamp := { time := m.stamp, pkg := m.src, tag := m.tag.extractLsb' 0 12 }
    payload := if atomic && f 0 / 2 % 2 == 1 then .data at_ ((List.range (f 1 % 129)).map fun i => BitVec.ofNat 8 (f (2 + i)))
               else if atomic then
                 .atomic at_ (f 0 % 2 == 1) (BitVec.ofNat 4 (f 1)) (f 2 % 2 == 1) (BitVec.ofNat 64 (f 3)) (BitVec.ofNat 64 (f 4))
                   (if f 5 % 2 = 0 then none else some (BitVec.ofNat 64 (f 6)))
               else if m.payload.isEmpty then .none else .data at_ m.payload }

/-- A coherence message by the name that its subtype stands for (R248). -/
noncomputable def wireCoh (s : State) (m : WireMsg) (f : Nat → Nat) : Option Instr :=
  let line := m.addr.toNat / 128
  let die := ((s.coh.mshrs.find? fun x => decide (x.stamp.tag = m.tag.extractLsb' 0 12)).map (·.die)).getD 0
  let snoop : Snoop := { die := BitVec.ofNat 2 (f 0), line := line, requester := .pkg m.src }
  let is (kind : String) : Bool := m.sub == Config.wireSub kind
  match [CohKind.readShared, .readOwn, .upgrade, .writeBack, .cleanEvict, .atomic].find? fun k => is k.name with
  | some k => some (cohInstr k (wireReq m f (decide (k = .atomic))))
  | none =>
    if is "FwdShared" then some (.fwdShared snoop)
    else if is "FwdOwn" then some (.fwdOwn snoop)
    else if is "Invalidate" then some (.invalidate snoop)
    else if is "BackInvalidate" then some (.backInvalidate snoop)
    else if is "DataS" then some (.dataResponse die line .shared)
    else if is "DataE" then some (.dataResponse die line .excl)
    else if is "DataM" then some (.dataResponse die line .modified)
    else if is "Ack" then some (.ack die line)
    else if is "Retry" then some (.retry die line)
    else if is "DataFwd" then some (.snoopResponse line (.pkg m.src) true)
    else if is "InvAck" then some (.snoopResponse line (.pkg m.src) false)
    else none

/-- What a message that has come is to the package: an event row of the opcode table. The fields that the header has no place for are
open: Config.wireField reads the k-th of them in the payload of a kind. DESIGN CHOICE (log 27). -/
noncomputable def wireIn (s : State) (m : WireMsg) : Option Instr :=
  let f (k : Nat) : Nat := Config.wireField m.kind.toNat m.payload k
  let here : Route := { pkg := m.dst, sq := m.sq, ctx := m.ctx }
  match m.kind.toNat with
  | 0x03 => some (.atomicAtHome (wireReq m f true))
  | 0x04 => wireCoh s m f
  | 0x10 =>
    some (.readyMessage { src := { pkg := m.src, sq := BitVec.ofNat 5 (f 0), ctx := BitVec.ofNat 2 (f 1) }, dst := here, pid := m.pid
                          tag := m.tag, length := f 2, combine := if f 3 = 0 then none else some (BitVec.ofNat 3 (f 3 - 1)) })
  | 0x11 =>
    let src := ((receiveFor s m).map (·.src)).getD { pkg := m.src, sq := BitVec.ofNat 5 (f 0), ctx := BitVec.ofNat 2 (f 1) }
    some (.chunkMessage { src := src, dst := here, pid := m.pid, tag := m.tag, data := m.payload })
  | 0x12 => some (.nackMessage { dst := here, tag := m.tag, pidFault := f 0 % 2 == 1 })
  | 0x13 => some (.sredResult m.sq m.ctx { pid := m.pid, data := m.payload })
  | 0x14 =>
    some (.putMessage { pid := m.pid, src := m.src, dst := m.dst, key := m.addr.extractLsb' 32 32, offset := m.addr.extractLsb' 0 32
                        value := BitVec.ofNat 64 (f 0), word := BitVec.ofNat 32 (f 1), putk := f 2 % 2 == 1, issuer := issuerOf f 3 })
  | 0x15 =>
    some (.putAck { issuer := issuerOf f 1, dst := m.dst, detail := if f 0 = 0 then none else some (BitVec.ofNat 8 (f 0 - 1)) })
  | 0x16 =>
    let cid := BitVec.ofNat 28 (f 0)
    if m.sub = Config.wireSub "launch" then
      some (.collectiveLaunchMessage { cid := cid, pid := m.pid, space := f 1, packet := m.addr })
    else if m.sub = Config.wireSub "commit" then some (.collectiveCommit cid)
    else if m.sub = Config.wireSub "cancel" then some (.collectiveCancel cid)
    else none
  | 0x17 => some (.abortMessage { cid := BitVec.ofNat 28 (f 0), cause := BitVec.ofNat 8 (f 1) })
  | _ => none

/-- A read or a write of this package's memory by another: a read is answered with the bytes. It is a request: it may be marked, and its credit
goes back (R328, R329). -/
def wireAccess (s : State) (link : Nat) (m : WireMsg) : State :=
  let served (s : State) : State := returnCredits (echoMark s m.src) m.src "request credits" 1
  match m.kind.toNat with
  | 0x01 =>
    served (emit s (.link "data" link ((readList s.mem m.addr.toNat (Config.wireField 1 m.payload 0 % 257)).map (·.toNat))))
  | 0x02 => served (outsideWrite s m.addr.toNat m.payload)
  | _ => s

end Sys2Proof.Machine
end

