-- ==== Sys2Proof/Machine/Run.lean ====
section
/-! DEFINITION. How an agent takes its turn: a stream fetches, decodes and issues (R72, R93, R94), a sequencer context executes the
word at its program counter (R302, R304), and the turns that are no instruction take effect. Then how an instruction is put
where the next step fetches it. -/

namespace Sys2Proof.Machine

/-- An illegal word (R93, R94): the fault comes after the wait of its marker. -/
def illegalHow (y : Bool) (order : Nat) : IssueHow :=
  { len := 4, cls := 0, wait := y, isYield := false, compare := fun _ => false, chk := fun _ => some order }

/-- The issue of an illegal word. DEDUCED (log 13). -/
def issueIllegal (y : Bool) (order : Nat) (s : State) : Host.Outcome State Fault Refusal :=
  issue (illegalHow y order) (fun _ s => .stall s) s

/-- A fetch that fails (R72). -/
def fetchStop (x : Ctx) (r : Fetched) (s : State) : State :=
  match x.fetchFail s r with
  | .fault s c d a => streamFault s x c d a
  | .trap s t => takeTrap s x.uid x.e t
  | .done s | .flow s | .stall s => s

/-- What a stream's fetch gives: the words of an instruction, or what the failed fetch leads to. Where word 0 alone is illegal nothing
more is fetched. -/
noncomputable def fetchInstr (x : Ctx) (s : State) : (State ⊕ List Word) × State :=
  match x.fetch s x.pc.toNat with
  | (.ok w, s) =>
    match decode [w] with
    | .reject n =>
      if n ≤ 3 then (.inr [w], s)
      else
        match x.fetchMore (lenWords (wordLen w) - 1) (x.pc.toNat + 4) s [w] with
        | (.inr l, s) => (.inr l, s)
        | (.inl r, s) => (.inl (fetchStop x r s), s)
    | .ok _ =>
      match x.fetchMore (lenWords (wordLen w) - 1) (x.pc.toNat + 4) s [w] with
      | (.inr l, s) => (.inr l, s)
      | (.inl r, s) => (.inl (fetchStop x r s), s)
  | (r, s) => (.inl (fetchStop x r s), s)

/-- The current stream fetches its next instruction, decodes it, and issues it. A trap that waits its turn comes first (R122). -/
noncomputable def runStream (s : State) : Host.Outcome State Fault Refusal :=
  match ctx? s with
  | none => .next s
  | some x =>
    if !x.inH && (x.g.split x.e).trap.isSome then .next (takeWaitingTrap s x)
    else
      match fetchInstr x s with
      | (.inl t, _) => .next t
      | (.inr l, s) =>
        match decode l with
        | .ok i => exec i s
        | .reject n => issueIllegal (wordY (l.getD 0 0)) n s

/-- The running context of the current sequencer executes the word at its program counter (R302, R304, R331). -/
noncomputable def runSeq (s : State) : Host.Outcome State Fault Refusal :=
  match sctx? s with
  | none => .next s
  | some x =>
    let pc := x.c.pc.toNat
    if pc < x.c.lo ∨ x.c.lo + x.c.words ≤ pc then .next (seqFault s x.sq x.cx 0x02 0)
    else
      match decodeSeq (fget (seqAt s x.sq).imem pc) with
      | some i => exec i s
      | none => .next (seqFault s x.sq x.cx 0x01 0)

/-- An event row of the opcode table: no group instruction, and no sequencer instruction. -/
def isEvent (i : Instr) : Bool := decide (i.parts = .event)

/-- The stream of entry e of group u issues its next instruction. -/
noncomputable def runAs (u e : Nat) (s : State) : Host.Outcome State Fault Refusal := runStream { s with cur := some (u, e) }

/-- The team of a group. -/
def teamOf (s : State) (u : Nat) : Option Nat := (kget s.groups u).map (·.team)

/-- A team runs: it has not ended, and does not hold for the host. -/
def teamRuns (s : State) (tu : Nat) : Bool := (kget s.teams tu).any fun t => !t.ended && t.stop.isNone

/-- s with the teams, groups and cores as they were in before, and the count of the ended teams of grid h. -/
def teamsBack (before s : State) (h : Nat) : State :=
  let s := { s with teams := before.teams, groups := before.groups, cores := before.cores }
  match kget before.grids h with
  | some b => modGrid s h fun g => { g with endedTeams := b.endedTeams, phase := b.phase }
  | none => s

/-- What the host is to answer for a team that holds after each of two issues of one cycle: the first's, unless that is its twin's cause
alone (R41, R364, R384). -/
def firstHeld (a c : Option Held) : Option Held := if a.any (·.own) || !c.any (·.own) then a.or c else c

/-- The second of two issues of one cycle, where the first has led from s to a. Where that has ended or holds the second's own team, a
fault of the second that would have done so is recorded as well, and what the host is to answer stays the first's (R384). -/
noncomputable def thenOther (s a : State) (v f : Nat) : Host.Outcome State Fault Refusal :=
  match (teamOf s v).bind fun tu => (kget s.teams tu).map fun t => (tu, t) with
  | none => .next a
  | some (tu, t) =>
    if teamRuns a tu then runAs v f a
    else
      match runAs v f (teamsBack s a t.grid.toNat) with
      | .next c =>
        if teamRuns c tu then .next a
        else .next ((tu :: t.twin.toList).foldl (fun c w =>
          modTeam c w fun t => { t with stop := firstHeld ((kget a.teams w).bind (·.stop)) t.stop }) c)
      | r => r

/-- The order of two issues in one cycle: by the team's number, the group's, and the split table entry, which is
how the lower split is read (R300, R371, R384). DESIGN CHOICE (log 65). -/
def issueRank (s : State) (u e : Nat) : Nat :=
  match kget s.groups u with
  | some g => (((kget s.teams g.team).map (·.num)).getD 0) * 128 + g.gid * 4 + e
  | none => 0

/-- The issue has closed a batch of group u (R273). -/
def closesBatch (s a : State) (u : Nat) : Bool := (kget s.groups u).map (·.mbatch) != (kget a.groups u).map (·.mbatch)

/-- Two streams issue in one cycle: the effects come in the order of issueRank, but that an operation posted in the cycle in which its group
closes a batch joins the next (R300). -/
noncomputable def runBoth (u e v f : Nat) (s : State) : Host.Outcome State Fault Refusal :=
  let swap := decide (issueRank s v f < issueRank s u e)
  let p := if swap then (v, f) else (u, e)
  let q := if swap then (u, e) else (v, f)
  match runAs p.1 p.2 s, runAs q.1 q.2 s with
  | .next a, .next b =>
    if p = q then .next a
    else if p.1 = q.1 ∧ closesBatch s b q.1 ∧ ¬ closesBatch s a p.1 then thenOther s b p.1 p.2
    else thenOther s a q.1 q.2
  | .next a, _ => .next a
  | _, r => r

/-- The first message that a link has received is handed on (R327). -/
noncomputable def deliverFrom (link : Nat) (s : State) : Host.Outcome State Fault Refusal :=
  match takeGot s link with
  | none => .next s
  | some (m, t) =>
    match wireIn t m with
    | some i => exec i t
    | none => .next (wireAccess t link m)

/-- A turn is taken. -/
noncomputable def takeTurn (t : Turn) (s : State) : Host.Outcome State Fault Refusal :=
  match t with
  | .issue u e => runStream { s with cur := some (u, e) }
  | .seq n => runSeq { s with curSeq := some n }
  | .event i => if isEvent i then exec i s else .next s
  | .ticks n => .next (passTicks s n)
  | .cycles c n => .next (modCore s c fun k => { k with cycles := k.cycles + BitVec.ofNat 32 n })
  | .parked h n => .next (count s h 4 n)
  | .outside pa l => .next (outsideWrite s pa l)
  | .setWindow n w => .next (setWindow s n w)
  | .setRoutes l => .next (setRoutes s l)
  | .addFrames die l => .next (addFrames s die l)
  | .setK n k i v => .next (setCtxK s n k i v)
  | .setSeqPc n k pc => .next (setCtxPc s n k pc)
  | .setSeqWord n i w => .next (setSeqWord s n i w)
  | .setSwitches l => .next { s with noSwitch := l }
  | .inputFill b => .next { s with inHigh := b }
  | .refusedBy p => .next { s with coh := { s.coh with lostBy := p :: s.coh.lostBy } }
  | .withdraw tu => .next (withdraw s tu)
  | .both u e v f => runBoth u e v f s
  | .engine g n => happens s (engineTurn g n s)
  | .walkAhead g n => .next (match g with
      | .barge c => walkAhead (.copy c) n s
      | .sluice d => walkAhead (.route d.toNat) n s
      | .coll _ => s)
  | .hostRead off => .next (tellHost s "register" [off, (barRead s off).toNat])
  | .nameImage img => .next { s with mgmt := { s.mgmt with image := some img } }
  | .setMinver v => .next (if (ctlAt s 0).running.isSome then s else { s with mgmt := { s.mgmt with minver := v } })
  | .crossing r host => .next (crossRow s r host)
  | .switchDown n => execSwitchFailure n s
  | .serve n => .next (serveQueue s n)
  | .imageStarts n => .next (imageStarts s n)
  | .read p => .next (readItem s p)
  | .pack l m => .next (packMsg s l m)
  | .sendFlit l => .next (sendFlit s l)
  | .deliver l => deliverFrom l s

/-- A step with no turn to come: the current stream goes on, or a tick passes. -/
noncomputable def runOn (s : State) : Host.Outcome State Fault Refusal :=
  match s.cur with
  | some _ => runStream s
  | none => .next (passTicks s 1)

/-! ### Placing an instruction -/

/-- The physical addresses of n words of code from va, where all of them can be fetched. -/
def codeAt (s : State) (core space : Nat) (va : Nat) : Nat → Option (List Nat)
  | 0 => some []
  | n + 1 =>
    match if inGridSpace va then checkWalk s.pkg (some (dieOfCore core)) va needX (walkSpace s space va) else .access 0 with
    | .ok pa _ => if targetRefuses s pa then none else (codeAt s core space (va + 4) n).map fun l => pa :: l
    | _ => none

/-- Words written at physical addresses, where the core's caches hold no older copy of them. -/
def putCode (s : State) (core : Nat) (l : List (Nat × Word)) : State :=
  let s := { s with mem := l.foldl (fun m p => writeN m p.1 4 p.2.toNat) s.mem }
  modCore s core fun k =>
    { k with icache := l.foldl (fun m p => kdel m (p.1 / 128)) k.icache, tlb := [] }

/-- The words of an instruction whose bits are w, as the longest has them. -/
def fiveWords (w : Nat) : List Word := (List.range 5).map fun k => BitVec.ofNat 32 (w / 2 ^ (32 * k))

/-- The base of this package's device memory. -/
def ownBase (s : State) : Nat := s.pkg.toNat * 2 ^ 40

/-- A page table of three levels at 0x2000 of device memory that maps the first 512 MiB of grid space to the first 512 MiB of device
memory, with every right and class DC (R197, R198). -/
def bootTable (s : State) : Memory :=
  let b := ownBase s
  writeN (writeN (writeN s.mem (b + 0x2000) 8 (b + 0x4001)) (b + 0x4000) 8 (b + 0x5001)) (b + 0x5000) 8 (b + 0x3F)

/-- The launch that a placed instruction runs in: one team of one 8-lane group with a window of 128 registers. -/
def bootLaunch : Launch :=
  { entry := 0x10000, tx := 1, ty := 1, tz := 1, groups := 1, width := 8, policy := 0, priority := 0, localSize := 4096
    budget0 := 4095, replayable := false, paired := false, roles := 0, windows := [(128, 128)], params := 0x20000
    completion := 0, faultrec := 0, slots := List.replicate 8 fmtSlotZero }

/-- The grid of that launch, with its one team placed. -/
def bootGrid : Grid :=
  { launch := bootLaunch, depth := 0, parent := none, root := 0, prio := 0, order := 0, space := 1, phase := .running, next := 0
    endedTeams := 0, counters := List.replicate 16 0, kids := []
    fr := { last := none, count := 0, overflow := false, replays := 0, status := 0, flagBytes := [], dead := false }
    preq := false, awaitsApproval := false, source := .child, snaps := [], nonReplay := false, replaying := false, debug := false
    puts := 0 }

/-- A launch from outside: a space, a grid, and its team on core 0, whose group's stream issues next at 0x10000 (R28, R32, R413).
DESIGN CHOICE (log 5). -/
def bootStream (s : State) (l : List Word) : State :=
  let u := s.uidCtr
  let s := { s with mem := bootTable s
                    spaces := kset s.spaces 1 { root := ownBase s + 0x2000, pid := 1, handlers := [0, 0, 0, 0], save := 0,
                                                snapFree := [] } }
  let s := startTeam { s with grids := kset s.grids 0 { bootGrid with next := 0 } } 0 bootGrid { core := 0, parts := [(0, 0)] } false
    u none
  let s := modGrid s 0 fun g => { g with next := 1 }
  let s := putCode s 0 ((List.range 5).zip l |>.map fun p => (ownBase s + 0x10000 + 4 * p.1, p.2))
  { s with agenda := [.issue (u + 1) 0] }

/-- The collective of a placed sequencer word. -/
def bootColl : Collective :=
  { space := 1, pid := 1, debug := false, timeout := 1, pkgs := [], doneAt := 0, faultrec := 0, ctxs := [(0, 0)]
    started := true, cause := 0, recorded := false, writeErr := false, combines := 0, source := none }

/-- A collective from outside: context 0 of sequencer 0 runs the word next (R301, R316). DESIGN CHOICE (log 5). -/
def bootSeq (s : State) (w : DWord) : State :=
  let s := { s with mem := bootTable s
                    spaces := kset s.spaces 1 { root := ownBase s + 0x2000, pid := 1, handlers := [0, 0, 0, 0], save := 0,
                                                snapFree := [] }
                    colls := kset s.colls 0 bootColl }
  let s := modSeq s 0 fun q =>
    { q with
      imem := fset q.imem 0 w
      run := some 0
      streak := 0
      ctxs := lmod q.ctxs 0 fun _ => { SeqCtx.init with state := .running, words := 1 } }
  { s with agenda := [.seq 0] }

/-- An instruction is put where the current stream fetches next, if it can fetch there now. -/
def placeHere (s : State) (l : List Word) : Option State :=
  match s.agenda, ctx? s with
  | [], some x => (codeAt s x.core x.gr.space x.pc.toNat 5).map fun pas => putCode s x.core (pas.zip l)
  | _, _ => none

/-- An instruction of words l is the one that the next step runs. -/
def placeWords (s : State) (l : List Word) : State := (placeHere s l).getD (bootStream s l)

end Sys2Proof.Machine
end

