-- ==== Sys2Proof/Machine/Step.lean ====
section
/-! DEFINITION. The step of the machine. -/

namespace Sys2Proof.Machine

/-- One step: the next turn is taken, or the current stream goes on. -/
noncomputable def step (s : State) : Host.Outcome State Fault Refusal :=
  match s.agenda with
  | [] => runOn s
  | t :: rest => takeTurn t { s with agenda := rest }

/-- s with the instruction whose low nbits bits are w, and whose other bits are zero, stored where step fetches its next instruction:
at the current stream's program counter, or, where no stream can fetch, in a program that has been launched from outside. A word of
64 bits is a sequencer's. DESIGN CHOICE (log 5). -/
def State.withFetchWord (s : State) (nbits w : Nat) : State :=
  if nbits = 64 then bootSeq s (BitVec.ofNat 64 w) else placeWords s (fiveWords (w % 2 ^ nbits))

end Sys2Proof.Machine
end

