-- ==== Sys2Proof/Laws/Encoding.lean ====
section
/-! SUPPORT. The fields of a packed word read back (R71 to R77, R304): what the round trip of each instruction cites. -/

set_option Elab.async false

namespace Sys2Proof.Laws

/-- The low bits of a concatenation. -/
theorem extract_low {n m : Nat} (a : BitVec n) (b : BitVec m) : (a ++ b).extractLsb' 0 m = b := by
  apply BitVec.eq_of_getLsbD_eq; intro i hi
  simp [BitVec.getLsbD_append, hi]

/-- A field that lies in the high part of a concatenation. -/
theorem extract_high {n m k l : Nat} (a : BitVec n) (b : BitVec m) (h : m ≤ k) :
    (a ++ b).extractLsb' k l = a.extractLsb' (k - m) l := by
  apply BitVec.eq_of_getLsbD_eq; intro i hi
  simp only [BitVec.getLsbD_extractLsb', BitVec.getLsbD_append]
  have : ¬ (k + i < m) := by omega
  simp [hi, this, show k + i - m = k - m + i by omega]

/-- A field that lies in the low part of a concatenation. -/
theorem extract_part {n m k l : Nat} (a : BitVec n) (b : BitVec m) (h : k + l ≤ m) :
    (a ++ b).extractLsb' k l = b.extractLsb' k l := by
  apply BitVec.eq_of_getLsbD_eq; intro i hi
  simp only [BitVec.getLsbD_extractLsb', BitVec.getLsbD_append]
  have : k + i < m := by omega
  simp [hi, this]

/-- A field of all bits. -/
theorem extract_all {n : Nat} (a : BitVec n) : a.extractLsb' 0 n = a := by
  apply BitVec.eq_of_getLsbD_eq; intro i hi
  simp [hi]

/-- The two halves of a field. -/
theorem extract_join {n k m l : Nat} (a : BitVec n) :
    a.extractLsb' (k + m) l ++ a.extractLsb' k m = a.extractLsb' k (l + m) := by
  apply BitVec.eq_of_getLsbD_eq; intro i hi
  simp only [BitVec.getLsbD_extractLsb', BitVec.getLsbD_append]
  by_cases h : i < m
  · simp [h, hi]
  · simp [h, hi, show i - m < l by omega, show k + m + (i - m) = k + i by omega]

/-- A bit above the low part. -/
theorem bit_high {n m k : Nat} (a : BitVec n) (b : BitVec m) (h : m ≤ k) : (a ++ b).getLsbD k = a.getLsbD (k - m) := by
  rw [BitVec.getLsbD_append]
  have : ¬ k < m := by omega
  simp [this]

/-- A bit in the low part. -/
theorem bit_low {n m k : Nat} (a : BitVec n) (b : BitVec m) (h : k < m) : (a ++ b).getLsbD k = b.getLsbD k := by
  rw [BitVec.getLsbD_append]; simp [h]

/-- LEN, OP and Y of word 0, whatever stands above them. -/
theorem wordLen_pack (hi : BitVec 21) (op : Nat) (y : Bool) (len : BitVec 2) :
    wordLen (hi ++ BitVec.ofNat 8 op ++ BitVec.ofBool y ++ len) = len.toNat := by
  unfold wordLen; rw [extract_low]

theorem wordY_pack (hi : BitVec 21) (op : Nat) (y : Bool) (len : BitVec 2) :
    wordY (hi ++ BitVec.ofNat 8 op ++ BitVec.ofBool y ++ len) = y := by
  unfold wordY
  rw [bit_high _ _ (by decide), bit_low _ _ (by decide)]
  cases y <;> rfl

theorem wordOp_pack (hi : BitVec 21) (op : Nat) (y : Bool) (len : BitVec 2) :
    wordOp (hi ++ BitVec.ofNat 8 op ++ BitVec.ofBool y ++ len) = op % 256 := by
  unfold wordOp
  rw [extract_high _ _ (by decide), extract_high _ _ (by decide)]
  show (((hi ++ BitVec.ofNat 8 op).extractLsb' 0 8).toNat) = _
  rw [extract_low]; simp

theorem bits_pack (hi : BitVec 21) (op : Nat) (y : Bool) (len : BitVec 2) :
    (hi ++ BitVec.ofNat 8 op ++ BitVec.ofBool y ++ len).extractLsb' 11 21 = hi := by
  rw [extract_high _ _ (by decide), extract_high _ _ (by decide), extract_high _ _ (by decide)]
  exact extract_all hi

/-- A field of bits [31:11]. -/
theorem field_pack (hi : BitVec 21) (op : Nat) (y : Bool) (len : BitVec 2) (k l : Nat) :
    (hi ++ BitVec.ofNat 8 op ++ BitVec.ofBool y ++ len).extractLsb' (k + 11) l = hi.extractLsb' k l := by
  rw [extract_high _ _ (by omega), extract_high _ _ (by omega), extract_high _ _ (by omega)]
  rfl

/-! ### Words of the uniform layout -/

theorem wordLen_base (len : BitVec 2) (op : Nat) (w : BaseArgs) : wordLen (packBase len op w) = len.toNat :=
  wordLen_pack (w.b ++ w.a ++ w.d) op w.y len

theorem wordOp_base (len : BitVec 2) (op : Nat) (w : BaseArgs) : wordOp (packBase len op w) = op % 256 :=
  wordOp_pack (w.b ++ w.a ++ w.d) op w.y len

/-- The fields of a base word read back. -/
theorem baseFields_pack (len : BitVec 2) (op : Nat) (w : BaseArgs) : baseFields (packBase len op w) = w := by
  have h (k l : Nat) : (packBase len op w).extractLsb' (k + 11) l = (w.b ++ w.a ++ w.d).extractLsb' k l :=
    field_pack (w.b ++ w.a ++ w.d) op w.y len k l
  have hy : wordY (packBase len op w) = w.y := wordY_pack (w.b ++ w.a ++ w.d) op w.y len
  have hd : (packBase len op w).extractLsb' 11 7 = w.d := (h 0 7).trans (extract_low _ _)
  have ha : (packBase len op w).extractLsb' 18 7 = w.a := by
    refine (h 7 7).trans ?_
    rw [extract_high _ _ (by decide)]; exact extract_low _ _
  have hb : (packBase len op w).extractLsb' 25 7 = w.b := by
    refine (h 14 7).trans ?_
    rw [extract_high _ _ (by decide), extract_high _ _ (by decide)]; exact extract_all _
  unfold baseFields
  rw [hy, hd, ha, hb]

theorem wordLen_ext (len : BitVec 2) (op : Nat) (w : ExtArgs) : wordLen (packExt0 len op w) = len.toNat :=
  wordLen_pack (w.sub ++ w.d) op w.y len

theorem wordOp_ext (len : BitVec 2) (op : Nat) (w : ExtArgs) : wordOp (packExt0 len op w) = op % 256 :=
  wordOp_pack (w.sub ++ w.d) op w.y len

/-- The fields of an extended instruction read back. -/
theorem extFields_pack (len : BitVec 2) (op : Nat) (w : ExtArgs) (lit : Option DWord) :
    extFields (packExt0 len op w) (packExt1 w) (packExt2 w) lit = { w with lit := lit } := by
  have h (k l : Nat) : (packExt0 len op w).extractLsb' (k + 11) l = (w.sub ++ w.d).extractLsb' k l :=
    field_pack (w.sub ++ w.d) op w.y len k l
  have hy : wordY (packExt0 len op w) = w.y := wordY_pack (w.sub ++ w.d) op w.y len
  have hd : (packExt0 len op w).extractLsb' 11 11 = w.d := (h 0 11).trans (extract_low _ _)
  have hs : (packExt0 len op w).extractLsb' 22 10 = w.sub := by
    refine (h 11 10).trans ?_
    rw [extract_high _ _ (by decide)]; exact extract_all _
  have ha : (packExt1 w).extractLsb' 0 11 = w.a := extract_low _ _
  have hb : (packExt1 w).extractLsb' 11 11 = w.b := by
    unfold packExt1
    rw [extract_high _ _ (by decide)]; exact extract_low _ _
  have hc1 : (packExt1 w).extractLsb' 22 10 = w.c.extractLsb' 0 10 := by
    unfold packExt1
    rw [extract_high _ _ (by decide), extract_high _ _ (by decide)]; exact extract_all _
  have hc0 : (packExt2 w).extractLsb' 0 1 = w.c.extractLsb' 10 1 := extract_low _ _
  have hc : ((packExt2 w).extractLsb' 0 1 ++ (packExt1 w).extractLsb' 22 10 : BitVec 11) = w.c := by
    rw [hc0, hc1]
    exact (extract_join (k := 0) (m := 10) (l := 1) w.c).trans (extract_all _)
  have hss : (packExt2 w).extractLsb' 1 7 = w.s := by
    unfold packExt2
    rw [extract_high _ _ (by decide)]; exact extract_low _ _
  have hsp : (packExt2 w).extractLsb' 8 2 = w.sp := by
    unfold packExt2
    rw [extract_high _ _ (by decide), extract_high _ _ (by decide)]; exact extract_low _ _
  have hfs : (packExt2 w).extractLsb' 10 3 = w.fs := by
    unfold packExt2
    rw [extract_high _ _ (by decide), extract_high _ _ (by decide), extract_high _ _ (by decide)]; exact extract_low _ _
  have hg : (packExt2 w).extractLsb' 13 3 = w.g := by
    unfold packExt2
    rw [extract_high _ _ (by decide), extract_high _ _ (by decide), extract_high _ _ (by decide),
      extract_high _ _ (by decide)]
    exact extract_low _ _
  have bool (b : Bool) : (BitVec.ofBool b).getLsbD 0 = b := by cases b <;> rfl
  have hgn : (packExt2 w).getLsbD 16 = w.gn := by
    unfold packExt2
    rw [bit_high _ _ (by decide), bit_high _ _ (by decide), bit_high _ _ (by decide), bit_high _ _ (by decide),
      bit_high _ _ (by decide), bit_low _ _ (by decide)]
    exact bool _
  have hrm : (packExt2 w).extractLsb' 17 3 = w.rm := by
    unfold packExt2
    rw [extract_high _ _ (by decide), extract_high _ _ (by decide), extract_high _ _ (by decide),
      extract_high _ _ (by decide), extract_high _ _ (by decide), extract_high _ _ (by decide)]
    exact extract_low _ _
  have hsat : (packExt2 w).getLsbD 20 = w.sat := by
    unfold packExt2
    rw [bit_high _ _ (by decide), bit_high _ _ (by decide), bit_high _ _ (by decide), bit_high _ _ (by decide),
      bit_high _ _ (by decide), bit_high _ _ (by decide), bit_high _ _ (by decide), bit_low _ _ (by decide)]
    exact bool _
  have hsh : (packExt2 w).extractLsb' 21 3 = w.sh := by
    unfold packExt2
    rw [extract_high _ _ (by decide), extract_high _ _ (by decide), extract_high _ _ (by decide),
      extract_high _ _ (by decide), extract_high _ _ (by decide), extract_high _ _ (by decide),
      extract_high _ _ (by decide), extract_high _ _ (by decide)]
    exact extract_low _ _
  have haux : (packExt2 w).extractLsb' 24 8 = w.aux := by
    unfold packExt2
    rw [extract_high _ _ (by decide), extract_high _ _ (by decide), extract_high _ _ (by decide),
      extract_high _ _ (by decide), extract_high _ _ (by decide), extract_high _ _ (by decide),
      extract_high _ _ (by decide), extract_high _ _ (by decide), extract_high _ _ (by decide)]
    exact extract_all _
  unfold extFields
  rw [hy, hd, hs, ha, hb, hc, hss, hsp, hfs, hg, hgn, hrm, hsat, hsh, haux]

/-- The halves of a literal. -/
theorem lit_join (l : DWord) : (l.extractLsb' 32 32 ++ l.extractLsb' 0 32 : DWord) = l :=
  (extract_join (k := 0) (m := 32) (l := 32) l).trans (extract_all _)

/-! ### Decoding what was encoded, by the shape of the opcode's row -/

theorem base_of_BLX {f : BaseArgs → Instr} {g : BaseArgs → DWord → Instr} {h : ExtArgs → Instr} {op : Nat}
    (ho : op % 256 = op) (hd : ∀ q : Words, wordOp q.w0 = op → decodeWords q = decBLX f g h q) (w : BaseArgs) :
    decode [packBase 0 op w] = .ok (f w) := by
  show decodeWords { w0 := packBase 0 op w, w1 := 0, w2 := 0, w3 := 0, w4 := 0 } = _
  rw [hd { w0 := packBase 0 op w, w1 := 0, w2 := 0, w3 := 0, w4 := 0 } ((wordOp_base 0 op w).trans ho)]
  simp [decBLX, wordLen_base, baseFields_pack]

theorem lit_of_BLX {f : BaseArgs → Instr} {g : BaseArgs → DWord → Instr} {h : ExtArgs → Instr} {op : Nat}
    (ho : op % 256 = op) (hd : ∀ q : Words, wordOp q.w0 = op → decodeWords q = decBLX f g h q) (w : BaseArgs) (l : DWord) :
    decode (packBase 1 op w :: packLit l) = .ok (g w l) := by
  show decodeWords { w0 := packBase 1 op w, w1 := l.extractLsb' 0 32, w2 := l.extractLsb' 32 32, w3 := 0, w4 := 0 } = _
  rw [hd { w0 := packBase 1 op w, w1 := l.extractLsb' 0 32, w2 := l.extractLsb' 32 32, w3 := 0, w4 := 0 } ((wordOp_base 1 op w).trans ho)]
  simp [decBLX, wordLen_base, baseFields_pack, litOf, lit_join]

/-- The words of an extended instruction. -/
def extWords (op : Nat) (w : ExtArgs) : List Word :=
  match w.lit with
  | none => [packExt0 2 op w, packExt1 w, packExt2 w]
  | some l => [packExt0 3 op w, packExt1 w, packExt2 w] ++ packLit l

theorem ext_of_BLX {f : BaseArgs → Instr} {g : BaseArgs → DWord → Instr} {h : ExtArgs → Instr} {op : Nat}
    (ho : op % 256 = op) (hd : ∀ q : Words, wordOp q.w0 = op → decodeWords q = decBLX f g h q) (w : ExtArgs) :
    decode (extWords op w) = .ok (h w) := by
  unfold extWords
  rcases hl : w.lit with _ | l
  · show decodeWords { w0 := packExt0 2 op w, w1 := packExt1 w, w2 := packExt2 w, w3 := 0, w4 := 0 } = _
    rw [hd { w0 := packExt0 2 op w, w1 := packExt1 w, w2 := packExt2 w, w3 := 0, w4 := 0 } ((wordOp_ext 2 op w).trans ho)]
    simp [decBLX, wordLen_ext, extOf, extFields_pack, ← hl]
  · show decodeWords { w0 := packExt0 3 op w, w1 := packExt1 w, w2 := packExt2 w, w3 := l.extractLsb' 0 32,
                       w4 := l.extractLsb' 32 32 } = _
    rw [hd { w0 := packExt0 3 op w, w1 := packExt1 w, w2 := packExt2 w, w3 := l.extractLsb' 0 32,
                       w4 := l.extractLsb' 32 32 } ((wordOp_ext 3 op w).trans ho)]
    simp [decBLX, wordLen_ext, extOf, extFields_pack, lit_join, ← hl]

theorem base_of_BX {f : BaseArgs → Instr} {h : ExtArgs → Instr} {op : Nat} (ho : op % 256 = op)
    (hd : ∀ q : Words, wordOp q.w0 = op → decodeWords q = decBX f h q) (w : BaseArgs) :
    decode [packBase 0 op w] = .ok (f w) := by
  show decodeWords { w0 := packBase 0 op w, w1 := 0, w2 := 0, w3 := 0, w4 := 0 } = _
  rw [hd { w0 := packBase 0 op w, w1 := 0, w2 := 0, w3 := 0, w4 := 0 } ((wordOp_base 0 op w).trans ho)]
  simp [decBX, wordLen_base, baseFields_pack]

theorem ext_of_BX {f : BaseArgs → Instr} {h : ExtArgs → Instr} {op : Nat} (ho : op % 256 = op)
    (hd : ∀ q : Words, wordOp q.w0 = op → decodeWords q = decBX f h q) (w : ExtArgs) (hl : w.lit = none) :
    decode (extWords op w) = .ok (h w) := by
  unfold extWords
  rw [hl]
  show decodeWords { w0 := packExt0 2 op w, w1 := packExt1 w, w2 := packExt2 w, w3 := 0, w4 := 0 } = _
  rw [hd { w0 := packExt0 2 op w, w1 := packExt1 w, w2 := packExt2 w, w3 := 0, w4 := 0 } ((wordOp_ext 2 op w).trans ho)]
  simp [decBX, wordLen_ext, extOf, extFields_pack, ← hl]

theorem base_of_B {f : BaseArgs → Instr} {op : Nat} (ho : op % 256 = op)
    (hd : ∀ q : Words, wordOp q.w0 = op → decodeWords q = decB f q) (w : BaseArgs) :
    decode [packBase 0 op w] = .ok (f w) := by
  show decodeWords { w0 := packBase 0 op w, w1 := 0, w2 := 0, w3 := 0, w4 := 0 } = _
  rw [hd { w0 := packBase 0 op w, w1 := 0, w2 := 0, w3 := 0, w4 := 0 } ((wordOp_base 0 op w).trans ho)]
  simp [decB, wordLen_base, baseFields_pack]

theorem lit_of_LX {g : BaseArgs → DWord → Instr} {h : ExtArgs → Instr} {op : Nat} (ho : op % 256 = op)
    (hd : ∀ q : Words, wordOp q.w0 = op → decodeWords q = decLX g h q) (w : BaseArgs) (l : DWord) :
    decode (packBase 1 op w :: packLit l) = .ok (g w l) := by
  show decodeWords { w0 := packBase 1 op w, w1 := l.extractLsb' 0 32, w2 := l.extractLsb' 32 32, w3 := 0, w4 := 0 } = _
  rw [hd { w0 := packBase 1 op w, w1 := l.extractLsb' 0 32, w2 := l.extractLsb' 32 32, w3 := 0, w4 := 0 } ((wordOp_base 1 op w).trans ho)]
  simp [decLX, wordLen_base, baseFields_pack, litOf, lit_join]

theorem ext_of_LX {g : BaseArgs → DWord → Instr} {h : ExtArgs → Instr} {op : Nat} (ho : op % 256 = op)
    (hd : ∀ q : Words, wordOp q.w0 = op → decodeWords q = decLX g h q) (w : ExtArgs) (hn : w.lit ≠ none) :
    decode (extWords op w) = .ok (h w) := by
  unfold extWords
  rcases hl : w.lit with _ | l
  · exact absurd hl hn
  · show decodeWords { w0 := packExt0 3 op w, w1 := packExt1 w, w2 := packExt2 w, w3 := l.extractLsb' 0 32,
                       w4 := l.extractLsb' 32 32 } = _
    rw [hd { w0 := packExt0 3 op w, w1 := packExt1 w, w2 := packExt2 w, w3 := l.extractLsb' 0 32,
                       w4 := l.extractLsb' 32 32 } ((wordOp_ext 3 op w).trans ho)]
    simp [decLX, wordLen_ext, extOf, extFields_pack, lit_join, ← hl]

theorem raw_of_decRaw {f : Bool → BitVec 21 → Decoded} {op : Nat} (ho : op % 256 = op)
    (hd : ∀ q : Words, wordOp q.w0 = op → decodeWords q = decRaw f q) (y : Bool) (b : BitVec 21) :
    decode [packRaw 0 op y b] = f y b := by
  have ho' : wordOp (packRaw 0 op y b) = op := (wordOp_pack b op y 0).trans ho
  show decodeWords { w0 := packRaw 0 op y b, w1 := 0, w2 := 0, w3 := 0, w4 := 0 } = _
  rw [hd { w0 := packRaw 0 op y b, w1 := 0, w2 := 0, w3 := 0, w4 := 0 } ho']
  have hl : wordLen (packRaw 0 op y b) = 0 := wordLen_pack b op y 0
  have hy : wordY (packRaw 0 op y b) = y := wordY_pack b op y 0
  have hb : (packRaw 0 op y b).extractLsb' 11 21 = b := bits_pack b op y 0
  unfold decRaw
  simp only [hl, hy, hb]

theorem raw_of_decRawL {f : Bool → BitVec 21 → Decoded} {g : Bool → BitVec 21 → DWord → Decoded} {op : Nat}
    (ho : op % 256 = op) (hd : ∀ q : Words, wordOp q.w0 = op → decodeWords q = decRawL f g q) (y : Bool) (b : BitVec 21) :
    decode [packRaw 0 op y b] = f y b := by
  have ho' : wordOp (packRaw 0 op y b) = op := (wordOp_pack b op y 0).trans ho
  show decodeWords { w0 := packRaw 0 op y b, w1 := 0, w2 := 0, w3 := 0, w4 := 0 } = _
  rw [hd { w0 := packRaw 0 op y b, w1 := 0, w2 := 0, w3 := 0, w4 := 0 } ho']
  have hl : wordLen (packRaw 0 op y b) = 0 := wordLen_pack b op y 0
  have hy : wordY (packRaw 0 op y b) = y := wordY_pack b op y 0
  have hb : (packRaw 0 op y b).extractLsb' 11 21 = b := bits_pack b op y 0
  unfold decRawL
  simp only [hl, hy, hb]

theorem rawLit_of_decRawL {f : Bool → BitVec 21 → Decoded} {g : Bool → BitVec 21 → DWord → Decoded} {op : Nat}
    (ho : op % 256 = op) (hd : ∀ q : Words, wordOp q.w0 = op → decodeWords q = decRawL f g q) (y : Bool) (b : BitVec 21)
    (l : DWord) : decode (packRaw 1 op y b :: packLit l) = g y b l := by
  have ho' : wordOp (packRaw 1 op y b) = op := (wordOp_pack b op y 1).trans ho
  show decodeWords { w0 := packRaw 1 op y b, w1 := l.extractLsb' 0 32, w2 := l.extractLsb' 32 32, w3 := 0, w4 := 0 } = _
  rw [hd { w0 := packRaw 1 op y b, w1 := l.extractLsb' 0 32, w2 := l.extractLsb' 32 32, w3 := 0, w4 := 0 } ho']
  have hl : wordLen (packRaw 1 op y b) = 1 := wordLen_pack b op y 1
  have hy : wordY (packRaw 1 op y b) = y := wordY_pack b op y 1
  have hb : (packRaw 1 op y b).extractLsb' 11 21 = b := bits_pack b op y 1
  unfold decRawL
  simp only [hl, hy, hb, litOf, lit_join]

/-- A well-formed extended instruction without a literal position carries no literal (R93, order 3). -/
theorem lit_none {op : Nat} {e : Bool} {cx : Option DecodeCtx} {w : ExtArgs} {r : OpRow} (h : opCheck op e cx w = none)
    (hr : opRow op = some r) (hl : r.lit = .no) : w.lit = none := by
  unfold opCheck at h
  rw [hr] at h
  by_contra hn
  have : w.lit.isSome = true := Option.isSome_iff_ne_none.mpr hn
  simp [hl, this] at h

/-- A well-formed extended instruction that requires a literal carries one (R93, order 3). -/
theorem lit_some {op : Nat} {e : Bool} {cx : Option DecodeCtx} {w : ExtArgs} {r : OpRow} (h : opCheck op e cx w = none)
    (hr : opRow op = some r) (hl : r.lit = .required) : w.lit ≠ none := by
  unfold opCheck at h
  rw [hr] at h
  intro hn
  simp [hl, hn] at h

/-! ### Sequencer words (R304) -/

theorem seq_sop (sop d a b : BitVec 4) (hi : BitVec 48) : (seqWord sop d a b hi).extractLsb' 0 4 = sop := by
  unfold seqWord; rw [extract_part _ _ (by decide)]; exact extract_low _ _

theorem seq_d (sop d a b : BitVec 4) (hi : BitVec 48) : (seqWord sop d a b hi).extractLsb' 4 4 = d := by
  unfold seqWord; rw [extract_part _ _ (by decide), extract_high _ _ (by decide)]; exact extract_low _ _

theorem seq_a (sop d a b : BitVec 4) (hi : BitVec 48) : (seqWord sop d a b hi).extractLsb' 8 4 = a := by
  unfold seqWord
  rw [extract_part _ _ (by decide), extract_high _ _ (by decide), extract_high _ _ (by decide)]; exact extract_low _ _

theorem seq_b (sop d a b : BitVec 4) (hi : BitVec 48) : (seqWord sop d a b hi).extractLsb' 12 4 = b := by
  unfold seqWord
  rw [extract_part _ _ (by decide), extract_high _ _ (by decide), extract_high _ _ (by decide),
    extract_high _ _ (by decide)]
  exact extract_all _

theorem seq_hi (sop d a b : BitVec 4) (hi : BitVec 48) (k l : Nat) (h : 16 ≤ k) :
    (seqWord sop d a b hi).extractLsb' k l = hi.extractLsb' (k - 16) l := by
  unfold seqWord; rw [extract_high _ _ h]

theorem seq_bit (sop d a b : BitVec 4) (hi : BitVec 48) (k : Nat) (h : 16 ≤ k) :
    (seqWord sop d a b hi).getLsbD k = hi.getLsbD (k - 16) := by
  unfold seqWord; rw [bit_high _ _ h]

/-- A field of zeros. -/
theorem extract_zero {n : Nat} (k l : Nat) : (0 : BitVec n).extractLsb' k l = 0 := by
  apply BitVec.eq_of_getLsbD_eq; intro i hi
  simp

end Sys2Proof.Laws
end

