-- ==== Sys2Proof/Laws/PerInstr.lean ====
section
/-! SUPPORT. The round trip of every instruction: the decoder reads the words of a well-formed instruction as that
instruction (R71 to R94, R304). -/

set_option Elab.async false
set_option linter.unusedSimpArgs false

namespace Sys2Proof.Laws.RoundTrip

/-- The decoder gives i back from its words: a group instruction from encode, a sequencer instruction from encodeSeq; an
event row has no words. -/
def Statement (i : Instr) : Prop :=
  i.wellFormed = true →
    match i.parts with
    | .event => True
    | .seq _ => decodeSeq (encodeSeq i) = some i
    | _ => decode (encode i) = .ok i

theorem check_none {i : Instr} (h : i.wellFormed = true) : instrCheck none i = none := by
  simpa [Instr.wellFormed] using h

/-! ### The decoder's row of each opcode -/

theorem op00 (q : Words) (h : wordOp q.w0 = 0x00) : decodeWords q = decRaw (fun y b => zeroBits (b == 0) (.nop y)) q := by
  simp only [decodeWords, h]; rfl

theorem op07 (q : Words) (h : wordOp q.w0 = 0x07) : decodeWords q = decRaw (fun y b => zeroBits (b == 0) (.ret y)) q := by
  simp only [decodeWords, h]; rfl

theorem op0C (q : Words) (h : wordOp q.w0 = 0x0C) : decodeWords q = decRaw (fun y b => zeroBits (b == 0) (.leave y)) q := by
  simp only [decodeWords, h]; rfl

theorem op0D (q : Words) (h : wordOp q.w0 = 0x0D) : decodeWords q = decRaw (fun y b => zeroBits (b == 0) (.exit y)) q := by
  simp only [decodeWords, h]; rfl

theorem op21 (q : Words) (h : wordOp q.w0 = 0x21) : decodeWords q = decBX .smov .smovX q := by
  simp only [decodeWords, h]; rfl

theorem op22 (q : Words) (h : wordOp q.w0 = 0x22) : decodeWords q = decBLX .sadd .saddL .saddX q := by
  simp only [decodeWords, h]; rfl

theorem op23 (q : Words) (h : wordOp q.w0 = 0x23) : decodeWords q = decBLX .ssub .ssubL .ssubX q := by
  simp only [decodeWords, h]; rfl

theorem op24 (q : Words) (h : wordOp q.w0 = 0x24) : decodeWords q = decBLX .smul .smulL .smulX q := by
  simp only [decodeWords, h]; rfl

theorem op25 (q : Words) (h : wordOp q.w0 = 0x25) : decodeWords q = decBLX .smulh .smulhL .smulhX q := by
  simp only [decodeWords, h]; rfl

theorem op26 (q : Words) (h : wordOp q.w0 = 0x26) : decodeWords q = decBLX .sand .sandL .sandX q := by
  simp only [decodeWords, h]; rfl

theorem op27 (q : Words) (h : wordOp q.w0 = 0x27) : decodeWords q = decBLX .sor .sorL .sorX q := by
  simp only [decodeWords, h]; rfl

theorem op28 (q : Words) (h : wordOp q.w0 = 0x28) : decodeWords q = decBLX .sxor .sxorL .sxorX q := by
  simp only [decodeWords, h]; rfl

theorem op29 (q : Words) (h : wordOp q.w0 = 0x29) : decodeWords q = decBLX .sshl .sshlL .sshlX q := by
  simp only [decodeWords, h]; rfl

theorem op2A (q : Words) (h : wordOp q.w0 = 0x2A) : decodeWords q = decBLX .sshr .sshrL .sshrX q := by
  simp only [decodeWords, h]; rfl

theorem op2B (q : Words) (h : wordOp q.w0 = 0x2B) : decodeWords q = decBLX .ssra .ssraL .ssraX q := by
  simp only [decodeWords, h]; rfl

theorem op2C (q : Words) (h : wordOp q.w0 = 0x2C) : decodeWords q = decBLX .smin .sminL .sminX q := by
  simp only [decodeWords, h]; rfl

theorem op2D (q : Words) (h : wordOp q.w0 = 0x2D) : decodeWords q = decBLX .smax .smaxL .smaxX q := by
  simp only [decodeWords, h]; rfl

theorem op2E (q : Words) (h : wordOp q.w0 = 0x2E) : decodeWords q = decBLX .ssel .sselL .sselX q := by
  simp only [decodeWords, h]; rfl

theorem op2F (q : Words) (h : wordOp q.w0 = 0x2F) : decodeWords q = decBX .spopc .spopcX q := by
  simp only [decodeWords, h]; rfl

theorem op30 (q : Words) (h : wordOp q.w0 = 0x30) : decodeWords q = decBLX .scmp .scmpL .scmpX q := by
  simp only [decodeWords, h]; rfl

theorem op31 (q : Words) (h : wordOp q.w0 = 0x31) : decodeWords q = decBX .vote .voteX q := by
  simp only [decodeWords, h]; rfl

theorem op32 (q : Words) (h : wordOp q.w0 = 0x32) : decodeWords q = decBX .cand .candX q := by
  simp only [decodeWords, h]; rfl

theorem op33 (q : Words) (h : wordOp q.w0 = 0x33) : decodeWords q = decBX .cor .corX q := by
  simp only [decodeWords, h]; rfl

theorem op34 (q : Words) (h : wordOp q.w0 = 0x34) : decodeWords q = decBX .cxor .cxorX q := by
  simp only [decodeWords, h]; rfl

theorem op35 (q : Words) (h : wordOp q.w0 = 0x35) : decodeWords q = decBX .setc .setcX q := by
  simp only [decodeWords, h]; rfl

theorem op40 (q : Words) (h : wordOp q.w0 = 0x40) : decodeWords q = decBLX .iadd .iaddL .iaddX q := by
  simp only [decodeWords, h]; rfl

theorem op41 (q : Words) (h : wordOp q.w0 = 0x41) : decodeWords q = decBLX .isub .isubL .isubX q := by
  simp only [decodeWords, h]; rfl

theorem op42 (q : Words) (h : wordOp q.w0 = 0x42) : decodeWords q = decBLX .imul .imulL .imulX q := by
  simp only [decodeWords, h]; rfl

theorem op43 (q : Words) (h : wordOp q.w0 = 0x43) : decodeWords q = decBLX .imulh .imulhL .imulhX q := by
  simp only [decodeWords, h]; rfl

theorem op44 (q : Words) (h : wordOp q.w0 = 0x44) : decodeWords q = decBLX .imin .iminL .iminX q := by
  simp only [decodeWords, h]; rfl

theorem op45 (q : Words) (h : wordOp q.w0 = 0x45) : decodeWords q = decBLX .imax .imaxL .imaxX q := by
  simp only [decodeWords, h]; rfl

theorem op46 (q : Words) (h : wordOp q.w0 = 0x46) : decodeWords q = decBLX .and .andL .andX q := by
  simp only [decodeWords, h]; rfl

theorem op47 (q : Words) (h : wordOp q.w0 = 0x47) : decodeWords q = decBLX .or .orL .orX q := by
  simp only [decodeWords, h]; rfl

theorem op48 (q : Words) (h : wordOp q.w0 = 0x48) : decodeWords q = decBLX .xor .xorL .xorX q := by
  simp only [decodeWords, h]; rfl

theorem op49 (q : Words) (h : wordOp q.w0 = 0x49) : decodeWords q = decBLX .shl .shlL .shlX q := by
  simp only [decodeWords, h]; rfl

theorem op4A (q : Words) (h : wordOp q.w0 = 0x4A) : decodeWords q = decBLX .shr .shrL .shrX q := by
  simp only [decodeWords, h]; rfl

theorem op4B (q : Words) (h : wordOp q.w0 = 0x4B) : decodeWords q = decBLX .sra .sraL .sraX q := by
  simp only [decodeWords, h]; rfl

theorem op4C (q : Words) (h : wordOp q.w0 = 0x4C) : decodeWords q = decBLX .imad .imadL .imadX q := by
  simp only [decodeWords, h]; rfl

theorem op4D (q : Words) (h : wordOp q.w0 = 0x4D) : decodeWords q = decBLX .imadw .imadwL .imadwX q := by
  simp only [decodeWords, h]; rfl

theorem op4E (q : Words) (h : wordOp q.w0 = 0x4E) : decodeWords q = decBX .iabs .iabsX q := by
  simp only [decodeWords, h]; rfl

theorem op4F (q : Words) (h : wordOp q.w0 = 0x4F) : decodeWords q = decBX .ineg .inegX q := by
  simp only [decodeWords, h]; rfl

theorem op50 (q : Words) (h : wordOp q.w0 = 0x50) : decodeWords q = decBX .not .notX q := by
  simp only [decodeWords, h]; rfl

theorem op51 (q : Words) (h : wordOp q.w0 = 0x51) : decodeWords q = decBX .popc .popcX q := by
  simp only [decodeWords, h]; rfl

theorem op52 (q : Words) (h : wordOp q.w0 = 0x52) : decodeWords q = decBX .clz .clzX q := by
  simp only [decodeWords, h]; rfl

theorem op53 (q : Words) (h : wordOp q.w0 = 0x53) : decodeWords q = decBX .brev .brevX q := by
  simp only [decodeWords, h]; rfl

theorem op54 (q : Words) (h : wordOp q.w0 = 0x54) : decodeWords q = decBX .mov .movX q := by
  simp only [decodeWords, h]; rfl

theorem op56 (q : Words) (h : wordOp q.w0 = 0x56) : decodeWords q = decBLX .bfe .bfeL .bfeX q := by
  simp only [decodeWords, h]; rfl

theorem op57 (q : Words) (h : wordOp q.w0 = 0x57) : decodeWords q = decBLX .bfi .bfiL .bfiX q := by
  simp only [decodeWords, h]; rfl

theorem op58 (q : Words) (h : wordOp q.w0 = 0x58) : decodeWords q = decBLX .icmpp .icmppL .icmppX q := by
  simp only [decodeWords, h]; rfl

theorem op59 (q : Words) (h : wordOp q.w0 = 0x59) : decodeWords q = decBLX .sel .selL .selX q := by
  simp only [decodeWords, h]; rfl

theorem op5A (q : Words) (h : wordOp q.w0 = 0x5A) : decodeWords q = decBX .pset .psetX q := by
  simp only [decodeWords, h]; rfl

theorem op60 (q : Words) (h : wordOp q.w0 = 0x60) : decodeWords q = decBLX .fadd .faddL .faddX q := by
  simp only [decodeWords, h]; rfl

theorem op61 (q : Words) (h : wordOp q.w0 = 0x61) : decodeWords q = decBLX .fsub .fsubL .fsubX q := by
  simp only [decodeWords, h]; rfl

theorem op62 (q : Words) (h : wordOp q.w0 = 0x62) : decodeWords q = decBLX .fmul .fmulL .fmulX q := by
  simp only [decodeWords, h]; rfl

theorem op63 (q : Words) (h : wordOp q.w0 = 0x63) : decodeWords q = decBLX .fmin .fminL .fminX q := by
  simp only [decodeWords, h]; rfl

theorem op64 (q : Words) (h : wordOp q.w0 = 0x64) : decodeWords q = decBLX .fmax .fmaxL .fmaxX q := by
  simp only [decodeWords, h]; rfl

theorem op65 (q : Words) (h : wordOp q.w0 = 0x65) : decodeWords q = decBLX .fmaxa .fmaxaL .fmaxaX q := by
  simp only [decodeWords, h]; rfl

theorem op66 (q : Words) (h : wordOp q.w0 = 0x66) : decodeWords q = decBLX .ffma .ffmaL .ffmaX q := by
  simp only [decodeWords, h]; rfl

theorem op67 (q : Words) (h : wordOp q.w0 = 0x67) : decodeWords q = decBX .frcp .frcpX q := by
  simp only [decodeWords, h]; rfl

theorem op68 (q : Words) (h : wordOp q.w0 = 0x68) : decodeWords q = decBX .frsq .frsqX q := by
  simp only [decodeWords, h]; rfl

theorem op69 (q : Words) (h : wordOp q.w0 = 0x69) : decodeWords q = decBX .fsqrt .fsqrtX q := by
  simp only [decodeWords, h]; rfl

theorem op6A (q : Words) (h : wordOp q.w0 = 0x6A) : decodeWords q = decBX .fexp2 .fexp2X q := by
  simp only [decodeWords, h]; rfl

theorem op6B (q : Words) (h : wordOp q.w0 = 0x6B) : decodeWords q = decBX .flog2 .flog2X q := by
  simp only [decodeWords, h]; rfl

theorem op6C (q : Words) (h : wordOp q.w0 = 0x6C) : decodeWords q = decBLX .fcmpp .fcmppL .fcmppX q := by
  simp only [decodeWords, h]; rfl

theorem op6D (q : Words) (h : wordOp q.w0 = 0x6D) : decodeWords q = decBX .fclass .fclassX q := by
  simp only [decodeWords, h]; rfl

theorem op6E (q : Words) (h : wordOp q.w0 = 0x6E) : decodeWords q = decBLX .fscale .fscaleL .fscaleX q := by
  simp only [decodeWords, h]; rfl

theorem op6F (q : Words) (h : wordOp q.w0 = 0x6F) : decodeWords q = decBLX .hadd2 .hadd2L .hadd2X q := by
  simp only [decodeWords, h]; rfl

theorem op70 (q : Words) (h : wordOp q.w0 = 0x70) : decodeWords q = decBLX .hmul2 .hmul2L .hmul2X q := by
  simp only [decodeWords, h]; rfl

theorem op71 (q : Words) (h : wordOp q.w0 = 0x71) : decodeWords q = decBLX .hfma2 .hfma2L .hfma2X q := by
  simp only [decodeWords, h]; rfl

theorem op72 (q : Words) (h : wordOp q.w0 = 0x72) : decodeWords q = decBX .fdot4 .fdot4X q := by
  simp only [decodeWords, h]; rfl

theorem op80 (q : Words) (h : wordOp q.w0 = 0x80) : decodeWords q = decBX .cvt .cvtX q := by
  simp only [decodeWords, h]; rfl

theorem op81 (q : Words) (h : wordOp q.w0 = 0x81) : decodeWords q = decBX .cvtf .cvtfX q := by
  simp only [decodeWords, h]; rfl

theorem op82 (q : Words) (h : wordOp q.w0 = 0x82) : decodeWords q = decBX .cvti .cvtiX q := by
  simp only [decodeWords, h]; rfl

theorem op83 (q : Words) (h : wordOp q.w0 = 0x83) : decodeWords q = decBX .pack .packX q := by
  simp only [decodeWords, h]; rfl

theorem op84 (q : Words) (h : wordOp q.w0 = 0x84) : decodeWords q = decBX .unpack .unpackX q := by
  simp only [decodeWords, h]; rfl

theorem op85 (q : Words) (h : wordOp q.w0 = 0x85) : decodeWords q = decBX .qscale .qscaleX q := by
  simp only [decodeWords, h]; rfl

theorem op86 (q : Words) (h : wordOp q.w0 = 0x86) : decodeWords q = decBLX .shfl .shflL .shflX q := by
  simp only [decodeWords, h]; rfl

theorem op87 (q : Words) (h : wordOp q.w0 = 0x87) : decodeWords q = decBX .bcast .bcastX q := by
  simp only [decodeWords, h]; rfl

theorem op88 (q : Words) (h : wordOp q.w0 = 0x88) : decodeWords q = decBX .lred .lredX q := by
  simp only [decodeWords, h]; rfl

theorem op89 (q : Words) (h : wordOp q.w0 = 0x89) : decodeWords q = decBX .lscan .lscanX q := by
  simp only [decodeWords, h]; rfl

theorem op8A (q : Words) (h : wordOp q.w0 = 0x8A) : decodeWords q = decBX .elect .electX q := by
  simp only [decodeWords, h]; rfl

theorem op8B (q : Words) (h : wordOp q.w0 = 0x8B) : decodeWords q = decBX .rndx .rndxX q := by
  simp only [decodeWords, h]; rfl

theorem opA0 (q : Words) (h : wordOp q.w0 = 0xA0) : decodeWords q = decBLX .ld .ldL .ldX q := by
  simp only [decodeWords, h]; rfl

theorem opA1 (q : Words) (h : wordOp q.w0 = 0xA1) : decodeWords q = decBLX .st .stL .stX q := by
  simp only [decodeWords, h]; rfl

theorem opA2 (q : Words) (h : wordOp q.w0 = 0xA2) : decodeWords q = decBLX .ldl .ldlL .ldlX q := by
  simp only [decodeWords, h]; rfl

theorem opA3 (q : Words) (h : wordOp q.w0 = 0xA3) : decodeWords q = decBLX .stl .stlL .stlX q := by
  simp only [decodeWords, h]; rfl

theorem opA4 (q : Words) (h : wordOp q.w0 = 0xA4) : decodeWords q = decBLX .sld .sldL .sldX q := by
  simp only [decodeWords, h]; rfl

theorem opA5 (q : Words) (h : wordOp q.w0 = 0xA5) : decodeWords q = decBLX .sst .sstL .sstX q := by
  simp only [decodeWords, h]; rfl

theorem opA6 (q : Words) (h : wordOp q.w0 = 0xA6) : decodeWords q = decBLX .atom .atomL .atomX q := by
  simp only [decodeWords, h]; rfl

theorem opA7 (q : Words) (h : wordOp q.w0 = 0xA7) : decodeWords q = decBLX .atoml .atomlL .atomlX q := by
  simp only [decodeWords, h]; rfl

theorem opA8 (q : Words) (h : wordOp q.w0 = 0xA8) : decodeWords q = decBLX .red .redL .redX q := by
  simp only [decodeWords, h]; rfl

theorem opAA (q : Words) (h : wordOp q.w0 = 0xAA) : decodeWords q = decBX .tagq .tagqX q := by
  simp only [decodeWords, h]; rfl

theorem opAB (q : Words) (h : wordOp q.w0 = 0xAB) : decodeWords q = decBX .tagset .tagsetX q := by
  simp only [decodeWords, h]; rfl

theorem opAC (q : Words) (h : wordOp q.w0 = 0xAC) : decodeWords q = decBX .tagclr .tagclrX q := by
  simp only [decodeWords, h]; rfl

theorem opAD (q : Words) (h : wordOp q.w0 = 0xAD) : decodeWords q = decBLX .pref .prefL .prefX q := by
  simp only [decodeWords, h]; rfl

theorem opAE (q : Words) (h : wordOp q.w0 = 0xAE) : decodeWords q = decBLX .cctl .cctlL .cctlX q := by
  simp only [decodeWords, h]; rfl

theorem opAF (q : Words) (h : wordOp q.w0 = 0xAF) : decodeWords q = decLX .puti .putiX q := by
  simp only [decodeWords, h]; rfl

theorem opC0 (q : Words) (h : wordOp q.w0 = 0xC0) : decodeWords q = decBX .mma .mmaX q := by
  simp only [decodeWords, h]; rfl

theorem opC1 (q : Words) (h : wordOp q.w0 = 0xC1) : decodeWords q = decBX .dmma .dmmaX q := by
  simp only [decodeWords, h]; rfl

theorem opC2 (q : Words) (h : wordOp q.w0 = 0xC2) : decodeWords q = decBX .azero .azeroX q := by
  simp only [decodeWords, h]; rfl

theorem opC3 (q : Words) (h : wordOp q.w0 = 0xC3) : decodeWords q = decBX .arel .arelX q := by
  simp only [decodeWords, h]; rfl

theorem opC4 (q : Words) (h : wordOp q.w0 = 0xC4) : decodeWords q = decBLX .ard .ardL .ardX q := by
  simp only [decodeWords, h]; rfl

theorem opC5 (q : Words) (h : wordOp q.w0 = 0xC5) : decodeWords q = decBLX .awr .awrL .awrX q := by
  simp only [decodeWords, h]; rfl

theorem opC6 (q : Words) (h : wordOp q.w0 = 0xC6) : decodeWords q = decBX .adrain .adrainX q := by
  simp only [decodeWords, h]; rfl

theorem opC7 (q : Words) (h : wordOp q.w0 = 0xC7) : decodeWords q = decBX .mfence .mfenceX q := by
  simp only [decodeWords, h]; rfl

theorem opC8 (q : Words) (h : wordOp q.w0 = 0xC8) : decodeWords q = decBLX .mwait .mwaitL .mwaitX q := by
  simp only [decodeWords, h]; rfl

theorem opC9 (q : Words) (h : wordOp q.w0 = 0xC9) : decodeWords q = decBX .bcopy .bcopyX q := by
  simp only [decodeWords, h]; rfl

theorem opCA (q : Words) (h : wordOp q.w0 = 0xCA) : decodeWords q = decBX .bcopym .bcopymX q := by
  simp only [decodeWords, h]; rfl

theorem opCB (q : Words) (h : wordOp q.w0 = 0xCB) : decodeWords q = decBX .qfence .qfenceX q := by
  simp only [decodeWords, h]; rfl

theorem opCC (q : Words) (h : wordOp q.w0 = 0xCC) : decodeWords q = decBX .route .routeX q := by
  simp only [decodeWords, h]; rfl

theorem opCD (q : Words) (h : wordOp q.w0 = 0xCD) : decodeWords q = decBX .coll .collX q := by
  simp only [decodeWords, h]; rfl

theorem opCE (q : Words) (h : wordOp q.w0 = 0xCE) : decodeWords q = decBX .seqgo .seqgoX q := by
  simp only [decodeWords, h]; rfl

theorem opCF (q : Words) (h : wordOp q.w0 = 0xCF) : decodeWords q = decBLX .srec .srecL .srecX q := by
  simp only [decodeWords, h]; rfl

theorem opD0 (q : Words) (h : wordOp q.w0 = 0xD0) : decodeWords q = decBLX .binit .binitL .binitX q := by
  simp only [decodeWords, h]; rfl

theorem opD1 (q : Words) (h : wordOp q.w0 = 0xD1) : decodeWords q = decBLX .barv .barvL .barvX q := by
  simp only [decodeWords, h]; rfl

theorem opD2 (q : Words) (h : wordOp q.w0 = 0xD2) : decodeWords q = decBLX .barvx .barvxL .barvxX q := by
  simp only [decodeWords, h]; rfl

theorem opD3 (q : Words) (h : wordOp q.w0 = 0xD3) : decodeWords q = decBX .bwait .bwaitX q := by
  simp only [decodeWords, h]; rfl

theorem opD4 (q : Words) (h : wordOp q.w0 = 0xD4) : decodeWords q = decBX .btest .btestX q := by
  simp only [decodeWords, h]; rfl

theorem opD5 (q : Words) (h : wordOp q.w0 = 0xD5) : decodeWords q = decBLX .waitv .waitvL .waitvX q := by
  simp only [decodeWords, h]; rfl

theorem opD6 (q : Words) (h : wordOp q.w0 = 0xD6) : decodeWords q = decBX .tsrd .tsrdX q := by
  simp only [decodeWords, h]; rfl

theorem opD7 (q : Words) (h : wordOp q.w0 = 0xD7) : decodeWords q = decBX .cntrd .cntrdX q := by
  simp only [decodeWords, h]; rfl

theorem opE0 (q : Words) (h : wordOp q.w0 = 0xE0) : decodeWords q = decBX .get .getX q := by
  simp only [decodeWords, h]; rfl

theorem opE1 (q : Words) (h : wordOp q.w0 = 0xE1) : decodeWords q = decBX .put .putX q := by
  simp only [decodeWords, h]; rfl

theorem opE2 (q : Words) (h : wordOp q.w0 = 0xE2) : decodeWords q = decBLX .sysget .sysgetL .sysgetX q := by
  simp only [decodeWords, h]; rfl

theorem opE3 (q : Words) (h : wordOp q.w0 = 0xE3) : decodeWords q = decBLX .sysput .sysputL .sysputX q := by
  simp only [decodeWords, h]; rfl

theorem opE4 (q : Words) (h : wordOp q.w0 = 0xE4) : decodeWords q = decB .launch q := by
  simp only [decodeWords, h]; rfl

theorem opE5 (q : Words) (h : wordOp q.w0 = 0xE5) : decodeWords q = decB .cwait q := by
  simp only [decodeWords, h]; rfl

theorem opE6 (q : Words) (h : wordOp q.w0 = 0xE6) : decodeWords q = decRaw (fun y b => zeroBits (b == 0) (.rte y)) q := by
  simp only [decodeWords, h]; rfl

theorem opE7 (q : Words) (h : wordOp q.w0 = 0xE7) : decodeWords q = decB .mapp q := by
  simp only [decodeWords, h]; rfl

theorem opE8 (q : Words) (h : wordOp q.w0 = 0xE8) : decodeWords q = decB .tlbi q := by
  simp only [decodeWords, h]; rfl

theorem opE9 (q : Words) (h : wordOp q.w0 = 0xE9) : decodeWords q = decB .wspill q := by
  simp only [decodeWords, h]; rfl

theorem opEA (q : Words) (h : wordOp q.w0 = 0xEA) : decodeWords q = decB .wfill q := by
  simp only [decodeWords, h]; rfl

theorem opEB (q : Words) (h : wordOp q.w0 = 0xEB) : decodeWords q = decB .dspill q := by
  simp only [decodeWords, h]; rfl

theorem opEC (q : Words) (h : wordOp q.w0 = 0xEC) : decodeWords q = decRaw (fun y b => zeroBits (b == 0) (.halt y)) q := by
  simp only [decodeWords, h]; rfl

theorem op01 (q : Words) (h : wordOp q.w0 = 0x01) : decodeWords q = decRawL (fun y b => .ok (.bra y b)) (fun y b l => litZero (b == 0) (.braL y l)) q := by
  simp only [decodeWords, h]; rfl

theorem op02 (q : Words) (h : wordOp q.w0 = 0x02) : decodeWords q = decRawL (fun y b => .ok (.bc y (b.extractLsb' 0 3) (b.getLsbD 3) (b.extractLsb' 4 3) (b.extractLsb' 7 14))) (fun y b l => litZero (b.extractLsb' 7 14 == 0) (.bcL y (b.extractLsb' 0 3) (b.getLsbD 3) (b.extractLsb' 4 3) l)) q := by
  simp only [decodeWords, h]; rfl

theorem op03 (q : Words) (h : wordOp q.w0 = 0x03) : decodeWords q = decRawL (fun y b => zeroBits (b.extractLsb' 4 3 == 0) (.bcu y (b.extractLsb' 0 3) (b.getLsbD 3) (b.extractLsb' 7 14))) (fun y b l => if b.extractLsb' 7 14 ≠ 0 then .reject 7 else zeroBits (b.extractLsb' 4 3 == 0) (.bcuL y (b.extractLsb' 0 3) (b.getLsbD 3) l)) q := by
  simp only [decodeWords, h]; rfl

theorem op04 (q : Words) (h : wordOp q.w0 = 0x04) : decodeWords q = decRaw (fun y b => zeroBits (b.extractLsb' 0 7 == 0 && b.extractLsb' 14 7 == 0) (.jmpi y (b.extractLsb' 7 7))) q := by
  simp only [decodeWords, h]; rfl

theorem op05 (q : Words) (h : wordOp q.w0 = 0x05) : decodeWords q = decRawL (fun y b => .ok (.call y (b.extractLsb' 0 8) (b.extractLsb' 8 13))) (fun y b l => litZero (b.extractLsb' 8 13 == 0) (.callL y (b.extractLsb' 0 8) l)) q := by
  simp only [decodeWords, h]; rfl

theorem op06 (q : Words) (h : wordOp q.w0 = 0x06) : decodeWords q = decRaw (fun y b => zeroBits (b.extractLsb' 15 6 == 0) (.calli y (b.extractLsb' 0 8) (b.extractLsb' 8 7))) q := by
  simp only [decodeWords, h]; rfl

theorem op08 (q : Words) (h : wordOp q.w0 = 0x08) : decodeWords q = decRaw (fun y b => zeroBits (b.extractLsb' 3 18 == 0) (.regang y (b.extractLsb' 0 3))) q := by
  simp only [decodeWords, h]; rfl

theorem op09 (q : Words) (h : wordOp q.w0 = 0x09) : decodeWords q = decRaw (fun y b => zeroBits (b.extractLsb' 7 14 == 0) (.splitq y (b.extractLsb' 0 7))) q := by
  simp only [decodeWords, h]; rfl

theorem op0A (q : Words) (h : wordOp q.w0 = 0x0A) : decodeWords q = decRaw (fun y b => .ok (.loop y (b.extractLsb' 0 7) (b.extractLsb' 7 14))) q := by
  simp only [decodeWords, h]; rfl

theorem op0B (q : Words) (h : wordOp q.w0 = 0x0B) : decodeWords q = decRaw (fun y b => .ok (.loopi y (b.extractLsb' 0 12) (b.extractLsb' 12 9))) q := by
  simp only [decodeWords, h]; rfl

theorem op0E (q : Words) (h : wordOp q.w0 = 0x0E) : decodeWords q = decRaw (fun y b => .ok (.yield y (b.extractLsb' 0 12) (b.extractLsb' 12 9))) q := by
  simp only [decodeWords, h]; rfl

theorem op0F (q : Words) (h : wordOp q.w0 = 0x0F) : decodeWords q = decRaw (fun y b => zeroBits (b.extractLsb' 8 13 == 0) (.trap y (b.extractLsb' 0 8))) q := by
  simp only [decodeWords, h]; rfl

theorem op10 (q : Words) (h : wordOp q.w0 = 0x10) : decodeWords q = decRaw (fun y b => zeroBits (b.extractLsb' 8 13 == 0) (.brk y (b.extractLsb' 0 8))) q := by
  simp only [decodeWords, h]; rfl

theorem op20 (q : Words) (h : wordOp q.w0 = 0x20) : decodeWords q = decRawL (fun y b => .ok (.sli y (b.extractLsb' 0 7) (b.extractLsb' 7 14))) (fun y b l => litZero (b.extractLsb' 7 14 == 0) (.sliL y (b.extractLsb' 0 7) l)) q := by
  simp only [decodeWords, h]; rfl

/-! ### The instructions -/

theorem nop (y : Bool) : Statement (.nop y) := by
  intro _
  show decode [packRaw 0 0x00 y 0] = _
  rw [raw_of_decRaw rfl op00]; rfl

theorem bra (y : Bool) (off : BitVec 21) : Statement (.bra y off) := by
  intro _
  show decode [packRaw 0 0x01 y (off)] = _
  rw [raw_of_decRawL rfl op01]

theorem braL (y : Bool) (tgt : DWord) : Statement (.braL y tgt) := by
  intro _
  show decode (packRaw 1 0x01 y (0) :: packLit tgt) = _
  rw [rawLit_of_decRawL rfl op01]
  simp only [litZero, beq_self_eq_true, if_true]

theorem bc (y : Bool) (i : BitVec 3) (inv : Bool) (j : BitVec 3) (off : BitVec 14) : Statement (.bc y i inv j off) := by
  intro _
  show decode [packRaw 0 0x02 y (off ++ j ++ BitVec.ofBool inv ++ i)] = _
  rw [raw_of_decRawL rfl op02]
  have h0 : BitVec.extractLsb' (n := 21) 0 3 (off ++ j ++ BitVec.ofBool inv ++ i) = i :=
    extract_low (off ++ j ++ BitVec.ofBool inv) (i)
  have h1 : BitVec.getLsbD (w := 21) (off ++ j ++ BitVec.ofBool inv ++ i) 3 = inv :=
    (bit_high (off ++ j ++ BitVec.ofBool inv) (i) (by decide)).trans ((bit_low (off ++ j) (BitVec.ofBool inv) (by decide)).trans (by cases inv <;> rfl))
  have h2 : BitVec.extractLsb' (n := 21) 4 3 (off ++ j ++ BitVec.ofBool inv ++ i) = j :=
    (extract_high (off ++ j ++ BitVec.ofBool inv) (i) (by decide)).trans ((extract_high (off ++ j) (BitVec.ofBool inv) (by decide)).trans (extract_low (off) (j)))
  have h3 : BitVec.extractLsb' (n := 21) 7 14 (off ++ j ++ BitVec.ofBool inv ++ i) = off :=
    (extract_high (off ++ j ++ BitVec.ofBool inv) (i) (by decide)).trans ((extract_high (off ++ j) (BitVec.ofBool inv) (by decide)).trans ((extract_high (off) (j) (by decide)).trans (extract_all _)))
  simp only [zeroBits, litZero, beq_self_eq_true, if_true, Bool.and_self, ne_eq, not_true_eq_false, if_false, h0, h1, h2, h3]

theorem bcL (y : Bool) (i : BitVec 3) (inv : Bool) (j : BitVec 3) (tgt : DWord) : Statement (.bcL y i inv j tgt) := by
  intro _
  show decode (packRaw 1 0x02 y ((0 : BitVec 14) ++ j ++ BitVec.ofBool inv ++ i) :: packLit tgt) = _
  rw [rawLit_of_decRawL rfl op02]
  have h0 : BitVec.extractLsb' (n := 21) 0 3 ((0 : BitVec 14) ++ j ++ BitVec.ofBool inv ++ i) = i :=
    extract_low ((0 : BitVec 14) ++ j ++ BitVec.ofBool inv) (i)
  have h1 : BitVec.getLsbD (w := 21) ((0 : BitVec 14) ++ j ++ BitVec.ofBool inv ++ i) 3 = inv :=
    (bit_high ((0 : BitVec 14) ++ j ++ BitVec.ofBool inv) (i) (by decide)).trans ((bit_low ((0 : BitVec 14) ++ j) (BitVec.ofBool inv) (by decide)).trans (by cases inv <;> rfl))
  have h2 : BitVec.extractLsb' (n := 21) 4 3 ((0 : BitVec 14) ++ j ++ BitVec.ofBool inv ++ i) = j :=
    (extract_high ((0 : BitVec 14) ++ j ++ BitVec.ofBool inv) (i) (by decide)).trans ((extract_high ((0 : BitVec 14) ++ j) (BitVec.ofBool inv) (by decide)).trans (extract_low ((0 : BitVec 14)) (j)))
  have h3 : BitVec.extractLsb' (n := 21) 7 14 ((0 : BitVec 14) ++ j ++ BitVec.ofBool inv ++ i) = (0 : BitVec 14) :=
    (extract_high ((0 : BitVec 14) ++ j ++ BitVec.ofBool inv) (i) (by decide)).trans ((extract_high ((0 : BitVec 14) ++ j) (BitVec.ofBool inv) (by decide)).trans ((extract_high ((0 : BitVec 14)) (j) (by decide)).trans (extract_all _)))
  simp only [zeroBits, litZero, beq_self_eq_true, if_true, Bool.and_self, ne_eq, not_true_eq_false, if_false, h0, h1, h2, h3]

theorem bcu (y : Bool) (i : BitVec 3) (inv : Bool) (off : BitVec 14) : Statement (.bcu y i inv off) := by
  intro _
  show decode [packRaw 0 0x03 y (off ++ (0 : BitVec 3) ++ BitVec.ofBool inv ++ i)] = _
  rw [raw_of_decRawL rfl op03]
  have h0 : BitVec.extractLsb' (n := 21) 0 3 (off ++ (0 : BitVec 3) ++ BitVec.ofBool inv ++ i) = i :=
    extract_low (off ++ (0 : BitVec 3) ++ BitVec.ofBool inv) (i)
  have h1 : BitVec.getLsbD (w := 21) (off ++ (0 : BitVec 3) ++ BitVec.ofBool inv ++ i) 3 = inv :=
    (bit_high (off ++ (0 : BitVec 3) ++ BitVec.ofBool inv) (i) (by decide)).trans ((bit_low (off ++ (0 : BitVec 3)) (BitVec.ofBool inv) (by decide)).trans (by cases inv <;> rfl))
  have h2 : BitVec.extractLsb' (n := 21) 4 3 (off ++ (0 : BitVec 3) ++ BitVec.ofBool inv ++ i) = (0 : BitVec 3) :=
    (extract_high (off ++ (0 : BitVec 3) ++ BitVec.ofBool inv) (i) (by decide)).trans ((extract_high (off ++ (0 : BitVec 3)) (BitVec.ofBool inv) (by decide)).trans (extract_low (off) ((0 : BitVec 3))))
  have h3 : BitVec.extractLsb' (n := 21) 7 14 (off ++ (0 : BitVec 3) ++ BitVec.ofBool inv ++ i) = off :=
    (extract_high (off ++ (0 : BitVec 3) ++ BitVec.ofBool inv) (i) (by decide)).trans ((extract_high (off ++ (0 : BitVec 3)) (BitVec.ofBool inv) (by decide)).trans ((extract_high (off) ((0 : BitVec 3)) (by decide)).trans (extract_all _)))
  simp only [zeroBits, litZero, beq_self_eq_true, if_true, Bool.and_self, ne_eq, not_true_eq_false, if_false, h0, h1, h2, h3]

theorem bcuL (y : Bool) (i : BitVec 3) (inv : Bool) (tgt : DWord) : Statement (.bcuL y i inv tgt) := by
  intro _
  show decode (packRaw 1 0x03 y ((0 : BitVec 14) ++ (0 : BitVec 3) ++ BitVec.ofBool inv ++ i) :: packLit tgt) = _
  rw [rawLit_of_decRawL rfl op03]
  have h0 : BitVec.extractLsb' (n := 21) 0 3 ((0 : BitVec 14) ++ (0 : BitVec 3) ++ BitVec.ofBool inv ++ i) = i :=
    extract_low ((0 : BitVec 14) ++ (0 : BitVec 3) ++ BitVec.ofBool inv) (i)
  have h1 : BitVec.getLsbD (w := 21) ((0 : BitVec 14) ++ (0 : BitVec 3) ++ BitVec.ofBool inv ++ i) 3 = inv :=
    (bit_high ((0 : BitVec 14) ++ (0 : BitVec 3) ++ BitVec.ofBool inv) (i) (by decide)).trans ((bit_low ((0 : BitVec 14) ++ (0 : BitVec 3)) (BitVec.ofBool inv) (by decide)).trans (by cases inv <;> rfl))
  have h2 : BitVec.extractLsb' (n := 21) 4 3 ((0 : BitVec 14) ++ (0 : BitVec 3) ++ BitVec.ofBool inv ++ i) = (0 : BitVec 3) :=
    (extract_high ((0 : BitVec 14) ++ (0 : BitVec 3) ++ BitVec.ofBool inv) (i) (by decide)).trans ((extract_high ((0 : BitVec 14) ++ (0 : BitVec 3)) (BitVec.ofBool inv) (by decide)).trans (extract_low ((0 : BitVec 14)) ((0 : BitVec 3))))
  have h3 : BitVec.extractLsb' (n := 21) 7 14 ((0 : BitVec 14) ++ (0 : BitVec 3) ++ BitVec.ofBool inv ++ i) = (0 : BitVec 14) :=
    (extract_high ((0 : BitVec 14) ++ (0 : BitVec 3) ++ BitVec.ofBool inv) (i) (by decide)).trans ((extract_high ((0 : BitVec 14) ++ (0 : BitVec 3)) (BitVec.ofBool inv) (by decide)).trans ((extract_high ((0 : BitVec 14)) ((0 : BitVec 3)) (by decide)).trans (extract_all _)))
  simp only [zeroBits, litZero, beq_self_eq_true, if_true, Bool.and_self, ne_eq, not_true_eq_false, if_false, h0, h1, h2, h3]

theorem jmpi (y : Bool) (a : BitVec 7) : Statement (.jmpi y a) := by
  intro _
  show decode [packRaw 0 0x04 y ((0 : BitVec 7) ++ a ++ (0 : BitVec 7))] = _
  rw [raw_of_decRaw rfl op04]
  have h0 : BitVec.extractLsb' (n := 21) 0 7 ((0 : BitVec 7) ++ a ++ (0 : BitVec 7)) = (0 : BitVec 7) :=
    extract_low ((0 : BitVec 7) ++ a) ((0 : BitVec 7))
  have h1 : BitVec.extractLsb' (n := 21) 7 7 ((0 : BitVec 7) ++ a ++ (0 : BitVec 7)) = a :=
    (extract_high ((0 : BitVec 7) ++ a) ((0 : BitVec 7)) (by decide)).trans (extract_low ((0 : BitVec 7)) (a))
  have h2 : BitVec.extractLsb' (n := 21) 14 7 ((0 : BitVec 7) ++ a ++ (0 : BitVec 7)) = (0 : BitVec 7) :=
    (extract_high ((0 : BitVec 7) ++ a) ((0 : BitVec 7)) (by decide)).trans ((extract_high ((0 : BitVec 7)) (a) (by decide)).trans (extract_all _))
  simp only [zeroBits, litZero, beq_self_eq_true, if_true, Bool.and_self, ne_eq, not_true_eq_false, if_false, h0, h1, h2]

theorem call (y : Bool) (n : BitVec 8) (off : BitVec 13) : Statement (.call y n off) := by
  intro _
  show decode [packRaw 0 0x05 y (off ++ n)] = _
  rw [raw_of_decRawL rfl op05]
  have h0 : BitVec.extractLsb' (n := 21) 0 8 (off ++ n) = n :=
    extract_low (off) (n)
  have h1 : BitVec.extractLsb' (n := 21) 8 13 (off ++ n) = off :=
    (extract_high (off) (n) (by decide)).trans (extract_all _)
  simp only [zeroBits, litZero, beq_self_eq_true, if_true, Bool.and_self, ne_eq, not_true_eq_false, if_false, h0, h1]

theorem callL (y : Bool) (n : BitVec 8) (tgt : DWord) : Statement (.callL y n tgt) := by
  intro _
  show decode (packRaw 1 0x05 y ((0 : BitVec 13) ++ n) :: packLit tgt) = _
  rw [rawLit_of_decRawL rfl op05]
  have h0 : BitVec.extractLsb' (n := 21) 0 8 ((0 : BitVec 13) ++ n) = n :=
    extract_low ((0 : BitVec 13)) (n)
  have h1 : BitVec.extractLsb' (n := 21) 8 13 ((0 : BitVec 13) ++ n) = (0 : BitVec 13) :=
    (extract_high ((0 : BitVec 13)) (n) (by decide)).trans (extract_all _)
  simp only [zeroBits, litZero, beq_self_eq_true, if_true, Bool.and_self, ne_eq, not_true_eq_false, if_false, h0, h1]

theorem calli (y : Bool) (n : BitVec 8) (a : BitVec 7) : Statement (.calli y n a) := by
  intro _
  show decode [packRaw 0 0x06 y ((0 : BitVec 6) ++ a ++ n)] = _
  rw [raw_of_decRaw rfl op06]
  have h0 : BitVec.extractLsb' (n := 21) 0 8 ((0 : BitVec 6) ++ a ++ n) = n :=
    extract_low ((0 : BitVec 6) ++ a) (n)
  have h1 : BitVec.extractLsb' (n := 21) 8 7 ((0 : BitVec 6) ++ a ++ n) = a :=
    (extract_high ((0 : BitVec 6) ++ a) (n) (by decide)).trans (extract_low ((0 : BitVec 6)) (a))
  have h2 : BitVec.extractLsb' (n := 21) 15 6 ((0 : BitVec 6) ++ a ++ n) = (0 : BitVec 6) :=
    (extract_high ((0 : BitVec 6) ++ a) (n) (by decide)).trans ((extract_high ((0 : BitVec 6)) (a) (by decide)).trans (extract_all _))
  simp only [zeroBits, litZero, beq_self_eq_true, if_true, Bool.and_self, ne_eq, not_true_eq_false, if_false, h0, h1, h2]

theorem ret (y : Bool) : Statement (.ret y) := by
  intro _
  show decode [packRaw 0 0x07 y 0] = _
  rw [raw_of_decRaw rfl op07]; rfl

theorem regang (y : Bool) (j : BitVec 3) : Statement (.regang y j) := by
  intro _
  show decode [packRaw 0 0x08 y ((0 : BitVec 18) ++ j)] = _
  rw [raw_of_decRaw rfl op08]
  have h0 : BitVec.extractLsb' (n := 21) 0 3 ((0 : BitVec 18) ++ j) = j :=
    extract_low ((0 : BitVec 18)) (j)
  have h1 : BitVec.extractLsb' (n := 21) 3 18 ((0 : BitVec 18) ++ j) = (0 : BitVec 18) :=
    (extract_high ((0 : BitVec 18)) (j) (by decide)).trans (extract_all _)
  simp only [zeroBits, litZero, beq_self_eq_true, if_true, Bool.and_self, ne_eq, not_true_eq_false, if_false, h0, h1]

theorem splitq (y : Bool) (d : BitVec 7) : Statement (.splitq y d) := by
  intro _
  show decode [packRaw 0 0x09 y ((0 : BitVec 14) ++ d)] = _
  rw [raw_of_decRaw rfl op09]
  have h0 : BitVec.extractLsb' (n := 21) 0 7 ((0 : BitVec 14) ++ d) = d :=
    extract_low ((0 : BitVec 14)) (d)
  have h1 : BitVec.extractLsb' (n := 21) 7 14 ((0 : BitVec 14) ++ d) = (0 : BitVec 14) :=
    (extract_high ((0 : BitVec 14)) (d) (by decide)).trans (extract_all _)
  simp only [zeroBits, litZero, beq_self_eq_true, if_true, Bool.and_self, ne_eq, not_true_eq_false, if_false, h0, h1]

theorem loop (y : Bool) (a : BitVec 7) (off : BitVec 14) : Statement (.loop y a off) := by
  intro _
  show decode [packRaw 0 0x0A y (off ++ a)] = _
  rw [raw_of_decRaw rfl op0A]
  have h0 : BitVec.extractLsb' (n := 21) 0 7 (off ++ a) = a :=
    extract_low (off) (a)
  have h1 : BitVec.extractLsb' (n := 21) 7 14 (off ++ a) = off :=
    (extract_high (off) (a) (by decide)).trans (extract_all _)
  simp only [zeroBits, litZero, beq_self_eq_true, if_true, Bool.and_self, ne_eq, not_true_eq_false, if_false, h0, h1]

theorem loopi (y : Bool) (count : BitVec 12) (off : BitVec 9) : Statement (.loopi y count off) := by
  intro _
  show decode [packRaw 0 0x0B y (off ++ count)] = _
  rw [raw_of_decRaw rfl op0B]
  have h0 : BitVec.extractLsb' (n := 21) 0 12 (off ++ count) = count :=
    extract_low (off) (count)
  have h1 : BitVec.extractLsb' (n := 21) 12 9 (off ++ count) = off :=
    (extract_high (off) (count) (by decide)).trans (extract_all _)
  simp only [zeroBits, litZero, beq_self_eq_true, if_true, Bool.and_self, ne_eq, not_true_eq_false, if_false, h0, h1]

theorem leave (y : Bool) : Statement (.leave y) := by
  intro _
  show decode [packRaw 0 0x0C y 0] = _
  rw [raw_of_decRaw rfl op0C]; rfl

theorem exit (y : Bool) : Statement (.exit y) := by
  intro _
  show decode [packRaw 0 0x0D y 0] = _
  rw [raw_of_decRaw rfl op0D]; rfl

theorem yield (y : Bool) (deadline : BitVec 12) (n : BitVec 9) : Statement (.yield y deadline n) := by
  intro _
  show decode [packRaw 0 0x0E y (n ++ deadline)] = _
  rw [raw_of_decRaw rfl op0E]
  have h0 : BitVec.extractLsb' (n := 21) 0 12 (n ++ deadline) = deadline :=
    extract_low (n) (deadline)
  have h1 : BitVec.extractLsb' (n := 21) 12 9 (n ++ deadline) = n :=
    (extract_high (n) (deadline) (by decide)).trans (extract_all _)
  simp only [zeroBits, litZero, beq_self_eq_true, if_true, Bool.and_self, ne_eq, not_true_eq_false, if_false, h0, h1]

theorem trap (y : Bool) (code : BitVec 8) : Statement (.trap y code) := by
  intro _
  show decode [packRaw 0 0x0F y ((0 : BitVec 13) ++ code)] = _
  rw [raw_of_decRaw rfl op0F]
  have h0 : BitVec.extractLsb' (n := 21) 0 8 ((0 : BitVec 13) ++ code) = code :=
    extract_low ((0 : BitVec 13)) (code)
  have h1 : BitVec.extractLsb' (n := 21) 8 13 ((0 : BitVec 13) ++ code) = (0 : BitVec 13) :=
    (extract_high ((0 : BitVec 13)) (code) (by decide)).trans (extract_all _)
  simp only [zeroBits, litZero, beq_self_eq_true, if_true, Bool.and_self, ne_eq, not_true_eq_false, if_false, h0, h1]

theorem brk (y : Bool) (code : BitVec 8) : Statement (.brk y code) := by
  intro _
  show decode [packRaw 0 0x10 y ((0 : BitVec 13) ++ code)] = _
  rw [raw_of_decRaw rfl op10]
  have h0 : BitVec.extractLsb' (n := 21) 0 8 ((0 : BitVec 13) ++ code) = code :=
    extract_low ((0 : BitVec 13)) (code)
  have h1 : BitVec.extractLsb' (n := 21) 8 13 ((0 : BitVec 13) ++ code) = (0 : BitVec 13) :=
    (extract_high ((0 : BitVec 13)) (code) (by decide)).trans (extract_all _)
  simp only [zeroBits, litZero, beq_self_eq_true, if_true, Bool.and_self, ne_eq, not_true_eq_false, if_false, h0, h1]

theorem sli (y : Bool) (d : BitVec 7) (imm : BitVec 14) : Statement (.sli y d imm) := by
  intro _
  show decode [packRaw 0 0x20 y (imm ++ d)] = _
  rw [raw_of_decRawL rfl op20]
  have h0 : BitVec.extractLsb' (n := 21) 0 7 (imm ++ d) = d :=
    extract_low (imm) (d)
  have h1 : BitVec.extractLsb' (n := 21) 7 14 (imm ++ d) = imm :=
    (extract_high (imm) (d) (by decide)).trans (extract_all _)
  simp only [zeroBits, litZero, beq_self_eq_true, if_true, Bool.and_self, ne_eq, not_true_eq_false, if_false, h0, h1]

theorem sliL (y : Bool) (d : BitVec 7) (lit : DWord) : Statement (.sliL y d lit) := by
  intro _
  show decode (packRaw 1 0x20 y ((0 : BitVec 14) ++ d) :: packLit lit) = _
  rw [rawLit_of_decRawL rfl op20]
  have h0 : BitVec.extractLsb' (n := 21) 0 7 ((0 : BitVec 14) ++ d) = d :=
    extract_low ((0 : BitVec 14)) (d)
  have h1 : BitVec.extractLsb' (n := 21) 7 14 ((0 : BitVec 14) ++ d) = (0 : BitVec 14) :=
    (extract_high ((0 : BitVec 14)) (d) (by decide)).trans (extract_all _)
  simp only [zeroBits, litZero, beq_self_eq_true, if_true, Bool.and_self, ne_eq, not_true_eq_false, if_false, h0, h1]

theorem smov (w : BaseArgs) : Statement (.smov w) := by
  intro _; exact base_of_BX rfl op21 w

theorem smovX (w : ExtArgs) : Statement (.smovX w) := by
  intro h; exact ext_of_BX rfl op21 w (lit_none (op := 0x21) (e := true) (check_none h) rfl rfl)

theorem sadd (w : BaseArgs) : Statement (.sadd w) := by
  intro _; exact base_of_BLX rfl op22 w

theorem saddX (w : ExtArgs) : Statement (.saddX w) := by
  intro _; exact ext_of_BLX rfl op22 w

theorem saddL (w : BaseArgs) (lit : DWord) : Statement (.saddL w lit) := by
  intro _; exact lit_of_BLX rfl op22 w lit

theorem ssub (w : BaseArgs) : Statement (.ssub w) := by
  intro _; exact base_of_BLX rfl op23 w

theorem ssubX (w : ExtArgs) : Statement (.ssubX w) := by
  intro _; exact ext_of_BLX rfl op23 w

theorem ssubL (w : BaseArgs) (lit : DWord) : Statement (.ssubL w lit) := by
  intro _; exact lit_of_BLX rfl op23 w lit

theorem smul (w : BaseArgs) : Statement (.smul w) := by
  intro _; exact base_of_BLX rfl op24 w

theorem smulX (w : ExtArgs) : Statement (.smulX w) := by
  intro _; exact ext_of_BLX rfl op24 w

theorem smulL (w : BaseArgs) (lit : DWord) : Statement (.smulL w lit) := by
  intro _; exact lit_of_BLX rfl op24 w lit

theorem smulh (w : BaseArgs) : Statement (.smulh w) := by
  intro _; exact base_of_BLX rfl op25 w

theorem smulhX (w : ExtArgs) : Statement (.smulhX w) := by
  intro _; exact ext_of_BLX rfl op25 w

theorem smulhL (w : BaseArgs) (lit : DWord) : Statement (.smulhL w lit) := by
  intro _; exact lit_of_BLX rfl op25 w lit

theorem sand (w : BaseArgs) : Statement (.sand w) := by
  intro _; exact base_of_BLX rfl op26 w

theorem sandX (w : ExtArgs) : Statement (.sandX w) := by
  intro _; exact ext_of_BLX rfl op26 w

theorem sandL (w : BaseArgs) (lit : DWord) : Statement (.sandL w lit) := by
  intro _; exact lit_of_BLX rfl op26 w lit

theorem sor (w : BaseArgs) : Statement (.sor w) := by
  intro _; exact base_of_BLX rfl op27 w

theorem sorX (w : ExtArgs) : Statement (.sorX w) := by
  intro _; exact ext_of_BLX rfl op27 w

theorem sorL (w : BaseArgs) (lit : DWord) : Statement (.sorL w lit) := by
  intro _; exact lit_of_BLX rfl op27 w lit

theorem sxor (w : BaseArgs) : Statement (.sxor w) := by
  intro _; exact base_of_BLX rfl op28 w

theorem sxorX (w : ExtArgs) : Statement (.sxorX w) := by
  intro _; exact ext_of_BLX rfl op28 w

theorem sxorL (w : BaseArgs) (lit : DWord) : Statement (.sxorL w lit) := by
  intro _; exact lit_of_BLX rfl op28 w lit

theorem sshl (w : BaseArgs) : Statement (.sshl w) := by
  intro _; exact base_of_BLX rfl op29 w

theorem sshlX (w : ExtArgs) : Statement (.sshlX w) := by
  intro _; exact ext_of_BLX rfl op29 w

theorem sshlL (w : BaseArgs) (lit : DWord) : Statement (.sshlL w lit) := by
  intro _; exact lit_of_BLX rfl op29 w lit

theorem sshr (w : BaseArgs) : Statement (.sshr w) := by
  intro _; exact base_of_BLX rfl op2A w

theorem sshrX (w : ExtArgs) : Statement (.sshrX w) := by
  intro _; exact ext_of_BLX rfl op2A w

theorem sshrL (w : BaseArgs) (lit : DWord) : Statement (.sshrL w lit) := by
  intro _; exact lit_of_BLX rfl op2A w lit

theorem ssra (w : BaseArgs) : Statement (.ssra w) := by
  intro _; exact base_of_BLX rfl op2B w

theorem ssraX (w : ExtArgs) : Statement (.ssraX w) := by
  intro _; exact ext_of_BLX rfl op2B w

theorem ssraL (w : BaseArgs) (lit : DWord) : Statement (.ssraL w lit) := by
  intro _; exact lit_of_BLX rfl op2B w lit

theorem smin (w : BaseArgs) : Statement (.smin w) := by
  intro _; exact base_of_BLX rfl op2C w

theorem sminX (w : ExtArgs) : Statement (.sminX w) := by
  intro _; exact ext_of_BLX rfl op2C w

theorem sminL (w : BaseArgs) (lit : DWord) : Statement (.sminL w lit) := by
  intro _; exact lit_of_BLX rfl op2C w lit

theorem smax (w : BaseArgs) : Statement (.smax w) := by
  intro _; exact base_of_BLX rfl op2D w

theorem smaxX (w : ExtArgs) : Statement (.smaxX w) := by
  intro _; exact ext_of_BLX rfl op2D w

theorem smaxL (w : BaseArgs) (lit : DWord) : Statement (.smaxL w lit) := by
  intro _; exact lit_of_BLX rfl op2D w lit

theorem ssel (w : BaseArgs) : Statement (.ssel w) := by
  intro _; exact base_of_BLX rfl op2E w

theorem sselX (w : ExtArgs) : Statement (.sselX w) := by
  intro _; exact ext_of_BLX rfl op2E w

theorem sselL (w : BaseArgs) (lit : DWord) : Statement (.sselL w lit) := by
  intro _; exact lit_of_BLX rfl op2E w lit

theorem spopc (w : BaseArgs) : Statement (.spopc w) := by
  intro _; exact base_of_BX rfl op2F w

theorem spopcX (w : ExtArgs) : Statement (.spopcX w) := by
  intro h; exact ext_of_BX rfl op2F w (lit_none (op := 0x2F) (e := true) (check_none h) rfl rfl)

theorem scmp (w : BaseArgs) : Statement (.scmp w) := by
  intro _; exact base_of_BLX rfl op30 w

theorem scmpX (w : ExtArgs) : Statement (.scmpX w) := by
  intro _; exact ext_of_BLX rfl op30 w

theorem scmpL (w : BaseArgs) (lit : DWord) : Statement (.scmpL w lit) := by
  intro _; exact lit_of_BLX rfl op30 w lit

theorem vote (w : BaseArgs) : Statement (.vote w) := by
  intro _; exact base_of_BX rfl op31 w

theorem voteX (w : ExtArgs) : Statement (.voteX w) := by
  intro h; exact ext_of_BX rfl op31 w (lit_none (op := 0x31) (e := true) (check_none h) rfl rfl)

theorem cand (w : BaseArgs) : Statement (.cand w) := by
  intro _; exact base_of_BX rfl op32 w

theorem candX (w : ExtArgs) : Statement (.candX w) := by
  intro h; exact ext_of_BX rfl op32 w (lit_none (op := 0x32) (e := true) (check_none h) rfl rfl)

theorem cor (w : BaseArgs) : Statement (.cor w) := by
  intro _; exact base_of_BX rfl op33 w

theorem corX (w : ExtArgs) : Statement (.corX w) := by
  intro h; exact ext_of_BX rfl op33 w (lit_none (op := 0x33) (e := true) (check_none h) rfl rfl)

theorem cxor (w : BaseArgs) : Statement (.cxor w) := by
  intro _; exact base_of_BX rfl op34 w

theorem cxorX (w : ExtArgs) : Statement (.cxorX w) := by
  intro h; exact ext_of_BX rfl op34 w (lit_none (op := 0x34) (e := true) (check_none h) rfl rfl)

theorem setc (w : BaseArgs) : Statement (.setc w) := by
  intro _; exact base_of_BX rfl op35 w

theorem setcX (w : ExtArgs) : Statement (.setcX w) := by
  intro h; exact ext_of_BX rfl op35 w (lit_none (op := 0x35) (e := true) (check_none h) rfl rfl)

theorem iadd (w : BaseArgs) : Statement (.iadd w) := by
  intro _; exact base_of_BLX rfl op40 w

theorem iaddX (w : ExtArgs) : Statement (.iaddX w) := by
  intro _; exact ext_of_BLX rfl op40 w

theorem iaddL (w : BaseArgs) (lit : DWord) : Statement (.iaddL w lit) := by
  intro _; exact lit_of_BLX rfl op40 w lit

theorem isub (w : BaseArgs) : Statement (.isub w) := by
  intro _; exact base_of_BLX rfl op41 w

theorem isubX (w : ExtArgs) : Statement (.isubX w) := by
  intro _; exact ext_of_BLX rfl op41 w

theorem isubL (w : BaseArgs) (lit : DWord) : Statement (.isubL w lit) := by
  intro _; exact lit_of_BLX rfl op41 w lit

theorem imul (w : BaseArgs) : Statement (.imul w) := by
  intro _; exact base_of_BLX rfl op42 w

theorem imulX (w : ExtArgs) : Statement (.imulX w) := by
  intro _; exact ext_of_BLX rfl op42 w

theorem imulL (w : BaseArgs) (lit : DWord) : Statement (.imulL w lit) := by
  intro _; exact lit_of_BLX rfl op42 w lit

theorem imulh (w : BaseArgs) : Statement (.imulh w) := by
  intro _; exact base_of_BLX rfl op43 w

theorem imulhX (w : ExtArgs) : Statement (.imulhX w) := by
  intro _; exact ext_of_BLX rfl op43 w

theorem imulhL (w : BaseArgs) (lit : DWord) : Statement (.imulhL w lit) := by
  intro _; exact lit_of_BLX rfl op43 w lit

theorem imin (w : BaseArgs) : Statement (.imin w) := by
  intro _; exact base_of_BLX rfl op44 w

theorem iminX (w : ExtArgs) : Statement (.iminX w) := by
  intro _; exact ext_of_BLX rfl op44 w

theorem iminL (w : BaseArgs) (lit : DWord) : Statement (.iminL w lit) := by
  intro _; exact lit_of_BLX rfl op44 w lit

theorem imax (w : BaseArgs) : Statement (.imax w) := by
  intro _; exact base_of_BLX rfl op45 w

theorem imaxX (w : ExtArgs) : Statement (.imaxX w) := by
  intro _; exact ext_of_BLX rfl op45 w

theorem imaxL (w : BaseArgs) (lit : DWord) : Statement (.imaxL w lit) := by
  intro _; exact lit_of_BLX rfl op45 w lit

theorem and (w : BaseArgs) : Statement (.and w) := by
  intro _; exact base_of_BLX rfl op46 w

theorem andX (w : ExtArgs) : Statement (.andX w) := by
  intro _; exact ext_of_BLX rfl op46 w

theorem andL (w : BaseArgs) (lit : DWord) : Statement (.andL w lit) := by
  intro _; exact lit_of_BLX rfl op46 w lit

theorem or (w : BaseArgs) : Statement (.or w) := by
  intro _; exact base_of_BLX rfl op47 w

theorem orX (w : ExtArgs) : Statement (.orX w) := by
  intro _; exact ext_of_BLX rfl op47 w

theorem orL (w : BaseArgs) (lit : DWord) : Statement (.orL w lit) := by
  intro _; exact lit_of_BLX rfl op47 w lit

theorem xor (w : BaseArgs) : Statement (.xor w) := by
  intro _; exact base_of_BLX rfl op48 w

theorem xorX (w : ExtArgs) : Statement (.xorX w) := by
  intro _; exact ext_of_BLX rfl op48 w

theorem xorL (w : BaseArgs) (lit : DWord) : Statement (.xorL w lit) := by
  intro _; exact lit_of_BLX rfl op48 w lit

theorem shl (w : BaseArgs) : Statement (.shl w) := by
  intro _; exact base_of_BLX rfl op49 w

theorem shlX (w : ExtArgs) : Statement (.shlX w) := by
  intro _; exact ext_of_BLX rfl op49 w

theorem shlL (w : BaseArgs) (lit : DWord) : Statement (.shlL w lit) := by
  intro _; exact lit_of_BLX rfl op49 w lit

theorem shr (w : BaseArgs) : Statement (.shr w) := by
  intro _; exact base_of_BLX rfl op4A w

theorem shrX (w : ExtArgs) : Statement (.shrX w) := by
  intro _; exact ext_of_BLX rfl op4A w

theorem shrL (w : BaseArgs) (lit : DWord) : Statement (.shrL w lit) := by
  intro _; exact lit_of_BLX rfl op4A w lit

theorem sra (w : BaseArgs) : Statement (.sra w) := by
  intro _; exact base_of_BLX rfl op4B w

theorem sraX (w : ExtArgs) : Statement (.sraX w) := by
  intro _; exact ext_of_BLX rfl op4B w

theorem sraL (w : BaseArgs) (lit : DWord) : Statement (.sraL w lit) := by
  intro _; exact lit_of_BLX rfl op4B w lit

theorem imad (w : BaseArgs) : Statement (.imad w) := by
  intro _; exact base_of_BLX rfl op4C w

theorem imadX (w : ExtArgs) : Statement (.imadX w) := by
  intro _; exact ext_of_BLX rfl op4C w

theorem imadL (w : BaseArgs) (lit : DWord) : Statement (.imadL w lit) := by
  intro _; exact lit_of_BLX rfl op4C w lit

theorem imadw (w : BaseArgs) : Statement (.imadw w) := by
  intro _; exact base_of_BLX rfl op4D w

theorem imadwX (w : ExtArgs) : Statement (.imadwX w) := by
  intro _; exact ext_of_BLX rfl op4D w

theorem imadwL (w : BaseArgs) (lit : DWord) : Statement (.imadwL w lit) := by
  intro _; exact lit_of_BLX rfl op4D w lit

theorem iabs (w : BaseArgs) : Statement (.iabs w) := by
  intro _; exact base_of_BX rfl op4E w

theorem iabsX (w : ExtArgs) : Statement (.iabsX w) := by
  intro h; exact ext_of_BX rfl op4E w (lit_none (op := 0x4E) (e := true) (check_none h) rfl rfl)

theorem ineg (w : BaseArgs) : Statement (.ineg w) := by
  intro _; exact base_of_BX rfl op4F w

theorem inegX (w : ExtArgs) : Statement (.inegX w) := by
  intro h; exact ext_of_BX rfl op4F w (lit_none (op := 0x4F) (e := true) (check_none h) rfl rfl)

theorem not (w : BaseArgs) : Statement (.not w) := by
  intro _; exact base_of_BX rfl op50 w

theorem notX (w : ExtArgs) : Statement (.notX w) := by
  intro h; exact ext_of_BX rfl op50 w (lit_none (op := 0x50) (e := true) (check_none h) rfl rfl)

theorem popc (w : BaseArgs) : Statement (.popc w) := by
  intro _; exact base_of_BX rfl op51 w

theorem popcX (w : ExtArgs) : Statement (.popcX w) := by
  intro h; exact ext_of_BX rfl op51 w (lit_none (op := 0x51) (e := true) (check_none h) rfl rfl)

theorem clz (w : BaseArgs) : Statement (.clz w) := by
  intro _; exact base_of_BX rfl op52 w

theorem clzX (w : ExtArgs) : Statement (.clzX w) := by
  intro h; exact ext_of_BX rfl op52 w (lit_none (op := 0x52) (e := true) (check_none h) rfl rfl)

theorem brev (w : BaseArgs) : Statement (.brev w) := by
  intro _; exact base_of_BX rfl op53 w

theorem brevX (w : ExtArgs) : Statement (.brevX w) := by
  intro h; exact ext_of_BX rfl op53 w (lit_none (op := 0x53) (e := true) (check_none h) rfl rfl)

theorem mov (w : BaseArgs) : Statement (.mov w) := by
  intro _; exact base_of_BX rfl op54 w

theorem movX (w : ExtArgs) : Statement (.movX w) := by
  intro h; exact ext_of_BX rfl op54 w (lit_none (op := 0x54) (e := true) (check_none h) rfl rfl)

theorem movi (y : Bool) (d : BitVec 7) (imm : BitVec 14) : Statement (.movi y d imm) := by
  intro _
  show decode [packRaw 0 0x55 y (imm ++ d)] = _
  have ho : wordOp (packRaw 0 0x55 y (imm ++ d)) = 0x55 := wordOp_pack (imm ++ d) 0x55 y 0
  have hl : wordLen (packRaw 0 0x55 y (imm ++ d)) = 0 := wordLen_pack (imm ++ d) 0x55 y 0
  have hy : wordY (packRaw 0 0x55 y (imm ++ d)) = y := wordY_pack (imm ++ d) 0x55 y 0
  have hd : (packRaw 0 0x55 y (imm ++ d)).extractLsb' 11 7 = d := by
    refine (field_pack (imm ++ d) 0x55 y 0 0 7).trans ?_; exact extract_low _ _
  have hi : (packRaw 0 0x55 y (imm ++ d)).extractLsb' 18 14 = imm := by
    refine (field_pack (imm ++ d) 0x55 y 0 7 14).trans ?_
    rw [extract_high _ _ (by decide)]; exact extract_all _
  show decodeWords { w0 := packRaw 0 0x55 y (imm ++ d), w1 := 0, w2 := 0, w3 := 0, w4 := 0 } = _
  simp only [decodeWords, ho]
  simp only [decodeClass2, hl, hy, hd, hi]

theorem moviX (w : ExtArgs) : Statement (.moviX w) := by
  intro _
  show decode (extWords 0x55 w) = _
  unfold extWords
  rcases hl : w.lit with _ | l
  · show decodeWords { w0 := packExt0 2 0x55 w, w1 := packExt1 w, w2 := packExt2 w, w3 := 0, w4 := 0 } = _
    simp only [decodeWords, wordOp_ext]
    simp [decodeClass2, wordLen_ext, extOf, extFields_pack, ← hl]
  · show decodeWords { w0 := packExt0 3 0x55 w, w1 := packExt1 w, w2 := packExt2 w, w3 := l.extractLsb' 0 32,
                       w4 := l.extractLsb' 32 32 } = _
    simp only [decodeWords, wordOp_ext]
    simp [decodeClass2, wordLen_ext, extOf, extFields_pack, lit_join, ← hl]

theorem moviL (y : Bool) (d : BitVec 7) (lit : DWord) : Statement (.moviL y d lit) := by
  intro _
  show decode (packRaw 1 0x55 y ((0 : BitVec 14) ++ d) :: packLit lit) = _
  have ho : wordOp (packRaw 1 0x55 y ((0 : BitVec 14) ++ d)) = 0x55 := wordOp_pack ((0 : BitVec 14) ++ d) 0x55 y 1
  have hl : wordLen (packRaw 1 0x55 y ((0 : BitVec 14) ++ d)) = 1 := wordLen_pack ((0 : BitVec 14) ++ d) 0x55 y 1
  have hy : wordY (packRaw 1 0x55 y ((0 : BitVec 14) ++ d)) = y := wordY_pack ((0 : BitVec 14) ++ d) 0x55 y 1
  have hd : (packRaw 1 0x55 y ((0 : BitVec 14) ++ d)).extractLsb' 11 7 = d := by
    refine (field_pack ((0 : BitVec 14) ++ d) 0x55 y 1 0 7).trans ?_; exact extract_low _ _
  have hi : (packRaw 1 0x55 y ((0 : BitVec 14) ++ d)).extractLsb' 18 14 = 0 := by
    refine (field_pack ((0 : BitVec 14) ++ d) 0x55 y 1 7 14).trans ?_
    rw [extract_high _ _ (by decide)]; exact extract_all _
  show decodeWords { w0 := packRaw 1 0x55 y ((0 : BitVec 14) ++ d), w1 := lit.extractLsb' 0 32,
                     w2 := lit.extractLsb' 32 32, w3 := 0, w4 := 0 } = _
  simp only [decodeWords, ho]
  simp only [decodeClass2, hl, hy, hd, hi, litOf, lit_join, litZero, beq_self_eq_true, if_true]

theorem bfe (w : BaseArgs) : Statement (.bfe w) := by
  intro _; exact base_of_BLX rfl op56 w

theorem bfeX (w : ExtArgs) : Statement (.bfeX w) := by
  intro _; exact ext_of_BLX rfl op56 w

theorem bfeL (w : BaseArgs) (lit : DWord) : Statement (.bfeL w lit) := by
  intro _; exact lit_of_BLX rfl op56 w lit

theorem bfi (w : BaseArgs) : Statement (.bfi w) := by
  intro _; exact base_of_BLX rfl op57 w

theorem bfiX (w : ExtArgs) : Statement (.bfiX w) := by
  intro _; exact ext_of_BLX rfl op57 w

theorem bfiL (w : BaseArgs) (lit : DWord) : Statement (.bfiL w lit) := by
  intro _; exact lit_of_BLX rfl op57 w lit

theorem icmpp (w : BaseArgs) : Statement (.icmpp w) := by
  intro _; exact base_of_BLX rfl op58 w

theorem icmppX (w : ExtArgs) : Statement (.icmppX w) := by
  intro _; exact ext_of_BLX rfl op58 w

theorem icmppL (w : BaseArgs) (lit : DWord) : Statement (.icmppL w lit) := by
  intro _; exact lit_of_BLX rfl op58 w lit

theorem sel (w : BaseArgs) : Statement (.sel w) := by
  intro _; exact base_of_BLX rfl op59 w

theorem selX (w : ExtArgs) : Statement (.selX w) := by
  intro _; exact ext_of_BLX rfl op59 w

theorem selL (w : BaseArgs) (lit : DWord) : Statement (.selL w lit) := by
  intro _; exact lit_of_BLX rfl op59 w lit

theorem pset (w : BaseArgs) : Statement (.pset w) := by
  intro _; exact base_of_BX rfl op5A w

theorem psetX (w : ExtArgs) : Statement (.psetX w) := by
  intro h; exact ext_of_BX rfl op5A w (lit_none (op := 0x5A) (e := true) (check_none h) rfl rfl)

theorem fadd (w : BaseArgs) : Statement (.fadd w) := by
  intro _; exact base_of_BLX rfl op60 w

theorem faddX (w : ExtArgs) : Statement (.faddX w) := by
  intro _; exact ext_of_BLX rfl op60 w

theorem faddL (w : BaseArgs) (lit : DWord) : Statement (.faddL w lit) := by
  intro _; exact lit_of_BLX rfl op60 w lit

theorem fsub (w : BaseArgs) : Statement (.fsub w) := by
  intro _; exact base_of_BLX rfl op61 w

theorem fsubX (w : ExtArgs) : Statement (.fsubX w) := by
  intro _; exact ext_of_BLX rfl op61 w

theorem fsubL (w : BaseArgs) (lit : DWord) : Statement (.fsubL w lit) := by
  intro _; exact lit_of_BLX rfl op61 w lit

theorem fmul (w : BaseArgs) : Statement (.fmul w) := by
  intro _; exact base_of_BLX rfl op62 w

theorem fmulX (w : ExtArgs) : Statement (.fmulX w) := by
  intro _; exact ext_of_BLX rfl op62 w

theorem fmulL (w : BaseArgs) (lit : DWord) : Statement (.fmulL w lit) := by
  intro _; exact lit_of_BLX rfl op62 w lit

theorem fmin (w : BaseArgs) : Statement (.fmin w) := by
  intro _; exact base_of_BLX rfl op63 w

theorem fminX (w : ExtArgs) : Statement (.fminX w) := by
  intro _; exact ext_of_BLX rfl op63 w

theorem fminL (w : BaseArgs) (lit : DWord) : Statement (.fminL w lit) := by
  intro _; exact lit_of_BLX rfl op63 w lit

theorem fmax (w : BaseArgs) : Statement (.fmax w) := by
  intro _; exact base_of_BLX rfl op64 w

theorem fmaxX (w : ExtArgs) : Statement (.fmaxX w) := by
  intro _; exact ext_of_BLX rfl op64 w

theorem fmaxL (w : BaseArgs) (lit : DWord) : Statement (.fmaxL w lit) := by
  intro _; exact lit_of_BLX rfl op64 w lit

theorem fmaxa (w : BaseArgs) : Statement (.fmaxa w) := by
  intro _; exact base_of_BLX rfl op65 w

theorem fmaxaX (w : ExtArgs) : Statement (.fmaxaX w) := by
  intro _; exact ext_of_BLX rfl op65 w

theorem fmaxaL (w : BaseArgs) (lit : DWord) : Statement (.fmaxaL w lit) := by
  intro _; exact lit_of_BLX rfl op65 w lit

theorem ffma (w : BaseArgs) : Statement (.ffma w) := by
  intro _; exact base_of_BLX rfl op66 w

theorem ffmaX (w : ExtArgs) : Statement (.ffmaX w) := by
  intro _; exact ext_of_BLX rfl op66 w

theorem ffmaL (w : BaseArgs) (lit : DWord) : Statement (.ffmaL w lit) := by
  intro _; exact lit_of_BLX rfl op66 w lit

theorem frcp (w : BaseArgs) : Statement (.frcp w) := by
  intro _; exact base_of_BX rfl op67 w

theorem frcpX (w : ExtArgs) : Statement (.frcpX w) := by
  intro h; exact ext_of_BX rfl op67 w (lit_none (op := 0x67) (e := true) (check_none h) rfl rfl)

theorem frsq (w : BaseArgs) : Statement (.frsq w) := by
  intro _; exact base_of_BX rfl op68 w

theorem frsqX (w : ExtArgs) : Statement (.frsqX w) := by
  intro h; exact ext_of_BX rfl op68 w (lit_none (op := 0x68) (e := true) (check_none h) rfl rfl)

theorem fsqrt (w : BaseArgs) : Statement (.fsqrt w) := by
  intro _; exact base_of_BX rfl op69 w

theorem fsqrtX (w : ExtArgs) : Statement (.fsqrtX w) := by
  intro h; exact ext_of_BX rfl op69 w (lit_none (op := 0x69) (e := true) (check_none h) rfl rfl)

theorem fexp2 (w : BaseArgs) : Statement (.fexp2 w) := by
  intro _; exact base_of_BX rfl op6A w

theorem fexp2X (w : ExtArgs) : Statement (.fexp2X w) := by
  intro h; exact ext_of_BX rfl op6A w (lit_none (op := 0x6A) (e := true) (check_none h) rfl rfl)

theorem flog2 (w : BaseArgs) : Statement (.flog2 w) := by
  intro _; exact base_of_BX rfl op6B w

theorem flog2X (w : ExtArgs) : Statement (.flog2X w) := by
  intro h; exact ext_of_BX rfl op6B w (lit_none (op := 0x6B) (e := true) (check_none h) rfl rfl)

theorem fcmpp (w : BaseArgs) : Statement (.fcmpp w) := by
  intro _; exact base_of_BLX rfl op6C w

theorem fcmppX (w : ExtArgs) : Statement (.fcmppX w) := by
  intro _; exact ext_of_BLX rfl op6C w

theorem fcmppL (w : BaseArgs) (lit : DWord) : Statement (.fcmppL w lit) := by
  intro _; exact lit_of_BLX rfl op6C w lit

theorem fclass (w : BaseArgs) : Statement (.fclass w) := by
  intro _; exact base_of_BX rfl op6D w

theorem fclassX (w : ExtArgs) : Statement (.fclassX w) := by
  intro h; exact ext_of_BX rfl op6D w (lit_none (op := 0x6D) (e := true) (check_none h) rfl rfl)

theorem fscale (w : BaseArgs) : Statement (.fscale w) := by
  intro _; exact base_of_BLX rfl op6E w

theorem fscaleX (w : ExtArgs) : Statement (.fscaleX w) := by
  intro _; exact ext_of_BLX rfl op6E w

theorem fscaleL (w : BaseArgs) (lit : DWord) : Statement (.fscaleL w lit) := by
  intro _; exact lit_of_BLX rfl op6E w lit

theorem hadd2 (w : BaseArgs) : Statement (.hadd2 w) := by
  intro _; exact base_of_BLX rfl op6F w

theorem hadd2X (w : ExtArgs) : Statement (.hadd2X w) := by
  intro _; exact ext_of_BLX rfl op6F w

theorem hadd2L (w : BaseArgs) (lit : DWord) : Statement (.hadd2L w lit) := by
  intro _; exact lit_of_BLX rfl op6F w lit

theorem hmul2 (w : BaseArgs) : Statement (.hmul2 w) := by
  intro _; exact base_of_BLX rfl op70 w

theorem hmul2X (w : ExtArgs) : Statement (.hmul2X w) := by
  intro _; exact ext_of_BLX rfl op70 w

theorem hmul2L (w : BaseArgs) (lit : DWord) : Statement (.hmul2L w lit) := by
  intro _; exact lit_of_BLX rfl op70 w lit

theorem hfma2 (w : BaseArgs) : Statement (.hfma2 w) := by
  intro _; exact base_of_BLX rfl op71 w

theorem hfma2X (w : ExtArgs) : Statement (.hfma2X w) := by
  intro _; exact ext_of_BLX rfl op71 w

theorem hfma2L (w : BaseArgs) (lit : DWord) : Statement (.hfma2L w lit) := by
  intro _; exact lit_of_BLX rfl op71 w lit

theorem fdot4 (w : BaseArgs) : Statement (.fdot4 w) := by
  intro _; exact base_of_BX rfl op72 w

theorem fdot4X (w : ExtArgs) : Statement (.fdot4X w) := by
  intro h; exact ext_of_BX rfl op72 w (lit_none (op := 0x72) (e := true) (check_none h) rfl rfl)

theorem cvt (w : BaseArgs) : Statement (.cvt w) := by
  intro _; exact base_of_BX rfl op80 w

theorem cvtX (w : ExtArgs) : Statement (.cvtX w) := by
  intro h; exact ext_of_BX rfl op80 w (lit_none (op := 0x80) (e := true) (check_none h) rfl rfl)

theorem cvtf (w : BaseArgs) : Statement (.cvtf w) := by
  intro _; exact base_of_BX rfl op81 w

theorem cvtfX (w : ExtArgs) : Statement (.cvtfX w) := by
  intro h; exact ext_of_BX rfl op81 w (lit_none (op := 0x81) (e := true) (check_none h) rfl rfl)

theorem cvti (w : BaseArgs) : Statement (.cvti w) := by
  intro _; exact base_of_BX rfl op82 w

theorem cvtiX (w : ExtArgs) : Statement (.cvtiX w) := by
  intro h; exact ext_of_BX rfl op82 w (lit_none (op := 0x82) (e := true) (check_none h) rfl rfl)

theorem pack (w : BaseArgs) : Statement (.pack w) := by
  intro _; exact base_of_BX rfl op83 w

theorem packX (w : ExtArgs) : Statement (.packX w) := by
  intro h; exact ext_of_BX rfl op83 w (lit_none (op := 0x83) (e := true) (check_none h) rfl rfl)

theorem unpack (w : BaseArgs) : Statement (.unpack w) := by
  intro _; exact base_of_BX rfl op84 w

theorem unpackX (w : ExtArgs) : Statement (.unpackX w) := by
  intro h; exact ext_of_BX rfl op84 w (lit_none (op := 0x84) (e := true) (check_none h) rfl rfl)

theorem qscale (w : BaseArgs) : Statement (.qscale w) := by
  intro _; exact base_of_BX rfl op85 w

theorem qscaleX (w : ExtArgs) : Statement (.qscaleX w) := by
  intro h; exact ext_of_BX rfl op85 w (lit_none (op := 0x85) (e := true) (check_none h) rfl rfl)

theorem shfl (w : BaseArgs) : Statement (.shfl w) := by
  intro _; exact base_of_BLX rfl op86 w

theorem shflX (w : ExtArgs) : Statement (.shflX w) := by
  intro _; exact ext_of_BLX rfl op86 w

theorem shflL (w : BaseArgs) (lit : DWord) : Statement (.shflL w lit) := by
  intro _; exact lit_of_BLX rfl op86 w lit

theorem bcast (w : BaseArgs) : Statement (.bcast w) := by
  intro _; exact base_of_BX rfl op87 w

theorem bcastX (w : ExtArgs) : Statement (.bcastX w) := by
  intro h; exact ext_of_BX rfl op87 w (lit_none (op := 0x87) (e := true) (check_none h) rfl rfl)

theorem lred (w : BaseArgs) : Statement (.lred w) := by
  intro _; exact base_of_BX rfl op88 w

theorem lredX (w : ExtArgs) : Statement (.lredX w) := by
  intro h; exact ext_of_BX rfl op88 w (lit_none (op := 0x88) (e := true) (check_none h) rfl rfl)

theorem lscan (w : BaseArgs) : Statement (.lscan w) := by
  intro _; exact base_of_BX rfl op89 w

theorem lscanX (w : ExtArgs) : Statement (.lscanX w) := by
  intro h; exact ext_of_BX rfl op89 w (lit_none (op := 0x89) (e := true) (check_none h) rfl rfl)

theorem elect (w : BaseArgs) : Statement (.elect w) := by
  intro _; exact base_of_BX rfl op8A w

theorem electX (w : ExtArgs) : Statement (.electX w) := by
  intro h; exact ext_of_BX rfl op8A w (lit_none (op := 0x8A) (e := true) (check_none h) rfl rfl)

theorem rndx (w : BaseArgs) : Statement (.rndx w) := by
  intro _; exact base_of_BX rfl op8B w

theorem rndxX (w : ExtArgs) : Statement (.rndxX w) := by
  intro h; exact ext_of_BX rfl op8B w (lit_none (op := 0x8B) (e := true) (check_none h) rfl rfl)

theorem ld (w : BaseArgs) : Statement (.ld w) := by
  intro _; exact base_of_BLX rfl opA0 w

theorem ldX (w : ExtArgs) : Statement (.ldX w) := by
  intro _; exact ext_of_BLX rfl opA0 w

theorem ldL (w : BaseArgs) (lit : DWord) : Statement (.ldL w lit) := by
  intro _; exact lit_of_BLX rfl opA0 w lit

theorem st (w : BaseArgs) : Statement (.st w) := by
  intro _; exact base_of_BLX rfl opA1 w

theorem stX (w : ExtArgs) : Statement (.stX w) := by
  intro _; exact ext_of_BLX rfl opA1 w

theorem stL (w : BaseArgs) (lit : DWord) : Statement (.stL w lit) := by
  intro _; exact lit_of_BLX rfl opA1 w lit

theorem ldl (w : BaseArgs) : Statement (.ldl w) := by
  intro _; exact base_of_BLX rfl opA2 w

theorem ldlX (w : ExtArgs) : Statement (.ldlX w) := by
  intro _; exact ext_of_BLX rfl opA2 w

theorem ldlL (w : BaseArgs) (lit : DWord) : Statement (.ldlL w lit) := by
  intro _; exact lit_of_BLX rfl opA2 w lit

theorem stl (w : BaseArgs) : Statement (.stl w) := by
  intro _; exact base_of_BLX rfl opA3 w

theorem stlX (w : ExtArgs) : Statement (.stlX w) := by
  intro _; exact ext_of_BLX rfl opA3 w

theorem stlL (w : BaseArgs) (lit : DWord) : Statement (.stlL w lit) := by
  intro _; exact lit_of_BLX rfl opA3 w lit

theorem sld (w : BaseArgs) : Statement (.sld w) := by
  intro _; exact base_of_BLX rfl opA4 w

theorem sldX (w : ExtArgs) : Statement (.sldX w) := by
  intro _; exact ext_of_BLX rfl opA4 w

theorem sldL (w : BaseArgs) (lit : DWord) : Statement (.sldL w lit) := by
  intro _; exact lit_of_BLX rfl opA4 w lit

theorem sst (w : BaseArgs) : Statement (.sst w) := by
  intro _; exact base_of_BLX rfl opA5 w

theorem sstX (w : ExtArgs) : Statement (.sstX w) := by
  intro _; exact ext_of_BLX rfl opA5 w

theorem sstL (w : BaseArgs) (lit : DWord) : Statement (.sstL w lit) := by
  intro _; exact lit_of_BLX rfl opA5 w lit

theorem atom (w : BaseArgs) : Statement (.atom w) := by
  intro _; exact base_of_BLX rfl opA6 w

theorem atomX (w : ExtArgs) : Statement (.atomX w) := by
  intro _; exact ext_of_BLX rfl opA6 w

theorem atomL (w : BaseArgs) (lit : DWord) : Statement (.atomL w lit) := by
  intro _; exact lit_of_BLX rfl opA6 w lit

theorem atoml (w : BaseArgs) : Statement (.atoml w) := by
  intro _; exact base_of_BLX rfl opA7 w

theorem atomlX (w : ExtArgs) : Statement (.atomlX w) := by
  intro _; exact ext_of_BLX rfl opA7 w

theorem atomlL (w : BaseArgs) (lit : DWord) : Statement (.atomlL w lit) := by
  intro _; exact lit_of_BLX rfl opA7 w lit

theorem red (w : BaseArgs) : Statement (.red w) := by
  intro _; exact base_of_BLX rfl opA8 w

theorem redX (w : ExtArgs) : Statement (.redX w) := by
  intro _; exact ext_of_BLX rfl opA8 w

theorem redL (w : BaseArgs) (lit : DWord) : Statement (.redL w lit) := by
  intro _; exact lit_of_BLX rfl opA8 w lit

theorem fence (y : Bool) (scope : BitVec 3) (kind : BitVec 2) : Statement (.fence y scope kind) := by
  intro _
  show decode [packRaw 0 0xA9 y ((0 : BitVec 16) ++ kind ++ scope)] = _
  have ho : wordOp (packRaw 0 0xA9 y ((0 : BitVec 16) ++ kind ++ scope)) = 0xA9 :=
    wordOp_pack ((0 : BitVec 16) ++ kind ++ scope) 0xA9 y 0
  have hl : wordLen (packRaw 0 0xA9 y ((0 : BitVec 16) ++ kind ++ scope)) = 0 :=
    wordLen_pack ((0 : BitVec 16) ++ kind ++ scope) 0xA9 y 0
  have hy : wordY (packRaw 0 0xA9 y ((0 : BitVec 16) ++ kind ++ scope)) = y :=
    wordY_pack ((0 : BitVec 16) ++ kind ++ scope) 0xA9 y 0
  have h1 : (packRaw 0 0xA9 y ((0 : BitVec 16) ++ kind ++ scope)).extractLsb' 11 3 = scope := by
    refine (field_pack ((0 : BitVec 16) ++ kind ++ scope) 0xA9 y 0 0 3).trans ?_; exact extract_low _ _
  have h2 : (packRaw 0 0xA9 y ((0 : BitVec 16) ++ kind ++ scope)).extractLsb' 14 2 = kind := by
    refine (field_pack ((0 : BitVec 16) ++ kind ++ scope) 0xA9 y 0 3 2).trans ?_
    rw [extract_high _ _ (by decide)]; exact extract_low _ _
  have h3 : (packRaw 0 0xA9 y ((0 : BitVec 16) ++ kind ++ scope)).extractLsb' 16 16 = 0 := by
    refine (field_pack ((0 : BitVec 16) ++ kind ++ scope) 0xA9 y 0 5 16).trans ?_
    rw [extract_high _ _ (by decide), extract_high _ _ (by decide)]; exact extract_all _
  show decodeWords { w0 := packRaw 0 0xA9 y ((0 : BitVec 16) ++ kind ++ scope), w1 := 0, w2 := 0, w3 := 0, w4 := 0 } = _
  simp only [decodeWords, ho]
  simp only [decodeClass5, hl, hy, h1, h2, h3, zeroBits, beq_self_eq_true, if_true]

theorem fenceX (w : ExtArgs) : Statement (.fenceX w) := by
  intro h
  have hn : w.lit = none := lit_none (op := 0xA9) (e := true) (check_none h) rfl rfl
  show decode (extWords 0xA9 w) = _
  unfold extWords
  rw [hn]
  show decodeWords { w0 := packExt0 2 0xA9 w, w1 := packExt1 w, w2 := packExt2 w, w3 := 0, w4 := 0 } = _
  simp only [decodeWords, wordOp_ext]
  simp [decodeClass5, wordLen_ext, extOf, extFields_pack, ← hn]

theorem tagq (w : BaseArgs) : Statement (.tagq w) := by
  intro _; exact base_of_BX rfl opAA w

theorem tagqX (w : ExtArgs) : Statement (.tagqX w) := by
  intro h; exact ext_of_BX rfl opAA w (lit_none (op := 0xAA) (e := true) (check_none h) rfl rfl)

theorem tagset (w : BaseArgs) : Statement (.tagset w) := by
  intro _; exact base_of_BX rfl opAB w

theorem tagsetX (w : ExtArgs) : Statement (.tagsetX w) := by
  intro h; exact ext_of_BX rfl opAB w (lit_none (op := 0xAB) (e := true) (check_none h) rfl rfl)

theorem tagclr (w : BaseArgs) : Statement (.tagclr w) := by
  intro _; exact base_of_BX rfl opAC w

theorem tagclrX (w : ExtArgs) : Statement (.tagclrX w) := by
  intro h; exact ext_of_BX rfl opAC w (lit_none (op := 0xAC) (e := true) (check_none h) rfl rfl)

theorem pref (w : BaseArgs) : Statement (.pref w) := by
  intro _; exact base_of_BLX rfl opAD w

theorem prefX (w : ExtArgs) : Statement (.prefX w) := by
  intro _; exact ext_of_BLX rfl opAD w

theorem prefL (w : BaseArgs) (lit : DWord) : Statement (.prefL w lit) := by
  intro _; exact lit_of_BLX rfl opAD w lit

theorem cctl (w : BaseArgs) : Statement (.cctl w) := by
  intro _; exact base_of_BLX rfl opAE w

theorem cctlX (w : ExtArgs) : Statement (.cctlX w) := by
  intro _; exact ext_of_BLX rfl opAE w

theorem cctlL (w : BaseArgs) (lit : DWord) : Statement (.cctlL w lit) := by
  intro _; exact lit_of_BLX rfl opAE w lit

theorem puti (w : BaseArgs) (lit : DWord) : Statement (.puti w lit) := by
  intro _; exact lit_of_LX rfl opAF w lit

theorem putiX (w : ExtArgs) : Statement (.putiX w) := by
  intro h; exact ext_of_LX rfl opAF w (lit_some (op := 0xAF) (e := true) (check_none h) rfl rfl)

theorem mma (w : BaseArgs) : Statement (.mma w) := by
  intro _; exact base_of_BX rfl opC0 w

theorem mmaX (w : ExtArgs) : Statement (.mmaX w) := by
  intro h; exact ext_of_BX rfl opC0 w (lit_none (op := 0xC0) (e := true) (check_none h) rfl rfl)

theorem dmma (w : BaseArgs) : Statement (.dmma w) := by
  intro _; exact base_of_BX rfl opC1 w

theorem dmmaX (w : ExtArgs) : Statement (.dmmaX w) := by
  intro h; exact ext_of_BX rfl opC1 w (lit_none (op := 0xC1) (e := true) (check_none h) rfl rfl)

theorem azero (w : BaseArgs) : Statement (.azero w) := by
  intro _; exact base_of_BX rfl opC2 w

theorem azeroX (w : ExtArgs) : Statement (.azeroX w) := by
  intro h; exact ext_of_BX rfl opC2 w (lit_none (op := 0xC2) (e := true) (check_none h) rfl rfl)

theorem arel (w : BaseArgs) : Statement (.arel w) := by
  intro _; exact base_of_BX rfl opC3 w

theorem arelX (w : ExtArgs) : Statement (.arelX w) := by
  intro h; exact ext_of_BX rfl opC3 w (lit_none (op := 0xC3) (e := true) (check_none h) rfl rfl)

theorem ard (w : BaseArgs) : Statement (.ard w) := by
  intro _; exact base_of_BLX rfl opC4 w

theorem ardX (w : ExtArgs) : Statement (.ardX w) := by
  intro _; exact ext_of_BLX rfl opC4 w

theorem ardL (w : BaseArgs) (lit : DWord) : Statement (.ardL w lit) := by
  intro _; exact lit_of_BLX rfl opC4 w lit

theorem awr (w : BaseArgs) : Statement (.awr w) := by
  intro _; exact base_of_BLX rfl opC5 w

theorem awrX (w : ExtArgs) : Statement (.awrX w) := by
  intro _; exact ext_of_BLX rfl opC5 w

theorem awrL (w : BaseArgs) (lit : DWord) : Statement (.awrL w lit) := by
  intro _; exact lit_of_BLX rfl opC5 w lit

theorem adrain (w : BaseArgs) : Statement (.adrain w) := by
  intro _; exact base_of_BX rfl opC6 w

theorem adrainX (w : ExtArgs) : Statement (.adrainX w) := by
  intro h; exact ext_of_BX rfl opC6 w (lit_none (op := 0xC6) (e := true) (check_none h) rfl rfl)

theorem mfence (w : BaseArgs) : Statement (.mfence w) := by
  intro _; exact base_of_BX rfl opC7 w

theorem mfenceX (w : ExtArgs) : Statement (.mfenceX w) := by
  intro h; exact ext_of_BX rfl opC7 w (lit_none (op := 0xC7) (e := true) (check_none h) rfl rfl)

theorem mwait (w : BaseArgs) : Statement (.mwait w) := by
  intro _; exact base_of_BLX rfl opC8 w

theorem mwaitX (w : ExtArgs) : Statement (.mwaitX w) := by
  intro _; exact ext_of_BLX rfl opC8 w

theorem mwaitL (w : BaseArgs) (lit : DWord) : Statement (.mwaitL w lit) := by
  intro _; exact lit_of_BLX rfl opC8 w lit

theorem bcopy (w : BaseArgs) : Statement (.bcopy w) := by
  intro _; exact base_of_BX rfl opC9 w

theorem bcopyX (w : ExtArgs) : Statement (.bcopyX w) := by
  intro h; exact ext_of_BX rfl opC9 w (lit_none (op := 0xC9) (e := true) (check_none h) rfl rfl)

theorem bcopym (w : BaseArgs) : Statement (.bcopym w) := by
  intro _; exact base_of_BX rfl opCA w

theorem bcopymX (w : ExtArgs) : Statement (.bcopymX w) := by
  intro h; exact ext_of_BX rfl opCA w (lit_none (op := 0xCA) (e := true) (check_none h) rfl rfl)

theorem qfence (w : BaseArgs) : Statement (.qfence w) := by
  intro _; exact base_of_BX rfl opCB w

theorem qfenceX (w : ExtArgs) : Statement (.qfenceX w) := by
  intro h; exact ext_of_BX rfl opCB w (lit_none (op := 0xCB) (e := true) (check_none h) rfl rfl)

theorem route (w : BaseArgs) : Statement (.route w) := by
  intro _; exact base_of_BX rfl opCC w

theorem routeX (w : ExtArgs) : Statement (.routeX w) := by
  intro h; exact ext_of_BX rfl opCC w (lit_none (op := 0xCC) (e := true) (check_none h) rfl rfl)

theorem coll (w : BaseArgs) : Statement (.coll w) := by
  intro _; exact base_of_BX rfl opCD w

theorem collX (w : ExtArgs) : Statement (.collX w) := by
  intro h; exact ext_of_BX rfl opCD w (lit_none (op := 0xCD) (e := true) (check_none h) rfl rfl)

theorem seqgo (w : BaseArgs) : Statement (.seqgo w) := by
  intro _; exact base_of_BX rfl opCE w

theorem seqgoX (w : ExtArgs) : Statement (.seqgoX w) := by
  intro h; exact ext_of_BX rfl opCE w (lit_none (op := 0xCE) (e := true) (check_none h) rfl rfl)

theorem srec (w : BaseArgs) : Statement (.srec w) := by
  intro _; exact base_of_BLX rfl opCF w

theorem srecX (w : ExtArgs) : Statement (.srecX w) := by
  intro _; exact ext_of_BLX rfl opCF w

theorem srecL (w : BaseArgs) (lit : DWord) : Statement (.srecL w lit) := by
  intro _; exact lit_of_BLX rfl opCF w lit

theorem binit (w : BaseArgs) : Statement (.binit w) := by
  intro _; exact base_of_BLX rfl opD0 w

theorem binitX (w : ExtArgs) : Statement (.binitX w) := by
  intro _; exact ext_of_BLX rfl opD0 w

theorem binitL (w : BaseArgs) (lit : DWord) : Statement (.binitL w lit) := by
  intro _; exact lit_of_BLX rfl opD0 w lit

theorem barv (w : BaseArgs) : Statement (.barv w) := by
  intro _; exact base_of_BLX rfl opD1 w

theorem barvX (w : ExtArgs) : Statement (.barvX w) := by
  intro _; exact ext_of_BLX rfl opD1 w

theorem barvL (w : BaseArgs) (lit : DWord) : Statement (.barvL w lit) := by
  intro _; exact lit_of_BLX rfl opD1 w lit

theorem barvx (w : BaseArgs) : Statement (.barvx w) := by
  intro _; exact base_of_BLX rfl opD2 w

theorem barvxX (w : ExtArgs) : Statement (.barvxX w) := by
  intro _; exact ext_of_BLX rfl opD2 w

theorem barvxL (w : BaseArgs) (lit : DWord) : Statement (.barvxL w lit) := by
  intro _; exact lit_of_BLX rfl opD2 w lit

theorem bwait (w : BaseArgs) : Statement (.bwait w) := by
  intro _; exact base_of_BX rfl opD3 w

theorem bwaitX (w : ExtArgs) : Statement (.bwaitX w) := by
  intro h; exact ext_of_BX rfl opD3 w (lit_none (op := 0xD3) (e := true) (check_none h) rfl rfl)

theorem btest (w : BaseArgs) : Statement (.btest w) := by
  intro _; exact base_of_BX rfl opD4 w

theorem btestX (w : ExtArgs) : Statement (.btestX w) := by
  intro h; exact ext_of_BX rfl opD4 w (lit_none (op := 0xD4) (e := true) (check_none h) rfl rfl)

theorem waitv (w : BaseArgs) : Statement (.waitv w) := by
  intro _; exact base_of_BLX rfl opD5 w

theorem waitvX (w : ExtArgs) : Statement (.waitvX w) := by
  intro _; exact ext_of_BLX rfl opD5 w

theorem waitvL (w : BaseArgs) (lit : DWord) : Statement (.waitvL w lit) := by
  intro _; exact lit_of_BLX rfl opD5 w lit

theorem tsrd (w : BaseArgs) : Statement (.tsrd w) := by
  intro _; exact base_of_BX rfl opD6 w

theorem tsrdX (w : ExtArgs) : Statement (.tsrdX w) := by
  intro h; exact ext_of_BX rfl opD6 w (lit_none (op := 0xD6) (e := true) (check_none h) rfl rfl)

theorem cntrd (w : BaseArgs) : Statement (.cntrd w) := by
  intro _; exact base_of_BX rfl opD7 w

theorem cntrdX (w : ExtArgs) : Statement (.cntrdX w) := by
  intro h; exact ext_of_BX rfl opD7 w (lit_none (op := 0xD7) (e := true) (check_none h) rfl rfl)

theorem get (w : BaseArgs) : Statement (.get w) := by
  intro _; exact base_of_BX rfl opE0 w

theorem getX (w : ExtArgs) : Statement (.getX w) := by
  intro h; exact ext_of_BX rfl opE0 w (lit_none (op := 0xE0) (e := true) (check_none h) rfl rfl)

theorem put (w : BaseArgs) : Statement (.put w) := by
  intro _; exact base_of_BX rfl opE1 w

theorem putX (w : ExtArgs) : Statement (.putX w) := by
  intro h; exact ext_of_BX rfl opE1 w (lit_none (op := 0xE1) (e := true) (check_none h) rfl rfl)

theorem sysget (w : BaseArgs) : Statement (.sysget w) := by
  intro _; exact base_of_BLX rfl opE2 w

theorem sysgetX (w : ExtArgs) : Statement (.sysgetX w) := by
  intro _; exact ext_of_BLX rfl opE2 w

theorem sysgetL (w : BaseArgs) (lit : DWord) : Statement (.sysgetL w lit) := by
  intro _; exact lit_of_BLX rfl opE2 w lit

theorem sysput (w : BaseArgs) : Statement (.sysput w) := by
  intro _; exact base_of_BLX rfl opE3 w

theorem sysputX (w : ExtArgs) : Statement (.sysputX w) := by
  intro _; exact ext_of_BLX rfl opE3 w

theorem sysputL (w : BaseArgs) (lit : DWord) : Statement (.sysputL w lit) := by
  intro _; exact lit_of_BLX rfl opE3 w lit

theorem launch (w : BaseArgs) : Statement (.launch w) := by
  intro _; exact base_of_B rfl opE4 w

theorem cwait (w : BaseArgs) : Statement (.cwait w) := by
  intro _; exact base_of_B rfl opE5 w

theorem rte (y : Bool) : Statement (.rte y) := by
  intro _
  show decode [packRaw 0 0xE6 y 0] = _
  rw [raw_of_decRaw rfl opE6]; rfl

theorem mapp (w : BaseArgs) : Statement (.mapp w) := by
  intro _; exact base_of_B rfl opE7 w

theorem tlbi (w : BaseArgs) : Statement (.tlbi w) := by
  intro _; exact base_of_B rfl opE8 w

theorem wspill (w : BaseArgs) : Statement (.wspill w) := by
  intro _; exact base_of_B rfl opE9 w

theorem wfill (w : BaseArgs) : Statement (.wfill w) := by
  intro _; exact base_of_B rfl opEA w

theorem dspill (w : BaseArgs) : Statement (.dspill w) := by
  intro _; exact base_of_B rfl opEB w

theorem halt (y : Bool) : Statement (.halt y) := by
  intro _
  show decode [packRaw 0 0xEC y 0] = _
  rw [raw_of_decRaw rfl opEC]; rfl

theorem snop : Statement .snop := by
  intro h
  have hc := check_none h
  have hs : seqCheck (.snop) = true := by simpa [instrCheck, Instr.parts] using hc
  rfl

theorem txc (a b : BitVec 4) (len : BitVec 12) (lnk : BitVec 5) (tag : BitVec 16) : Statement (.txc a b len lnk tag) := by
  intro h
  have hc := check_none h
  have hs : seqCheck (.txc a b len lnk tag) = true := by simpa [instrCheck, Instr.parts] using hc
  have h0 : BitVec.extractLsb' (n := 48) 0 12 (tag ++ (0 : BitVec 15) ++ lnk ++ len) = len :=
    extract_low (tag ++ (0 : BitVec 15) ++ lnk) (len)
  have h1 : BitVec.extractLsb' (n := 48) 12 5 (tag ++ (0 : BitVec 15) ++ lnk ++ len) = lnk :=
    (extract_high (tag ++ (0 : BitVec 15) ++ lnk) (len) (by decide)).trans (extract_low (tag ++ (0 : BitVec 15)) (lnk))
  have h2 : BitVec.extractLsb' (n := 48) 17 15 (tag ++ (0 : BitVec 15) ++ lnk ++ len) = (0 : BitVec 15) :=
    (extract_high (tag ++ (0 : BitVec 15) ++ lnk) (len) (by decide)).trans ((extract_high (tag ++ (0 : BitVec 15)) (lnk) (by decide)).trans (extract_low (tag) ((0 : BitVec 15))))
  have h3 : BitVec.extractLsb' (n := 48) 32 16 (tag ++ (0 : BitVec 15) ++ lnk ++ len) = tag :=
    (extract_high (tag ++ (0 : BitVec 15) ++ lnk) (len) (by decide)).trans ((extract_high (tag ++ (0 : BitVec 15)) (lnk) (by decide)).trans ((extract_high (tag) ((0 : BitVec 15)) (by decide)).trans (extract_all _)))
  show decodeSeq (seqWord 1 0 a b (tag ++ (0 : BitVec 15) ++ lnk ++ len)) = _
  simp only [decodeSeq, seqDec, seq_sop, seq_d, seq_a, seq_b, seq_hi, seq_bit, Nat.reduceLeDiff, Nat.reduceSub, h0, h1, h2, h3,
    beq_self_eq_true, Bool.and_self, if_true]
  simp [hs]

theorem rxs (d b : BitVec 4) (len : BitVec 12) (tag : BitVec 16) : Statement (.rxs d b len tag) := by
  intro h
  have hc := check_none h
  have hs : seqCheck (.rxs d b len tag) = true := by simpa [instrCheck, Instr.parts] using hc
  have h0 : BitVec.extractLsb' (n := 48) 0 12 (tag ++ (0 : BitVec 20) ++ len) = len :=
    extract_low (tag ++ (0 : BitVec 20)) (len)
  have h1 : BitVec.extractLsb' (n := 48) 12 20 (tag ++ (0 : BitVec 20) ++ len) = (0 : BitVec 20) :=
    (extract_high (tag ++ (0 : BitVec 20)) (len) (by decide)).trans (extract_low (tag) ((0 : BitVec 20)))
  have h2 : BitVec.extractLsb' (n := 48) 32 16 (tag ++ (0 : BitVec 20) ++ len) = tag :=
    (extract_high (tag ++ (0 : BitVec 20)) (len) (by decide)).trans ((extract_high (tag) ((0 : BitVec 20)) (by decide)).trans (extract_all _))
  show decodeSeq (seqWord 2 d 0 b (tag ++ (0 : BitVec 20) ++ len)) = _
  simp only [decodeSeq, seqDec, seq_sop, seq_d, seq_a, seq_b, seq_hi, seq_bit, Nat.reduceLeDiff, Nat.reduceSub, h0, h1, h2,
    beq_self_eq_true, Bool.and_self, if_true]
  simp [hs]

theorem rxc (d a b : BitVec 4) (len : BitVec 12) (cmb : BitVec 3) (tag : BitVec 16) : Statement (.rxc d a b len cmb tag) := by
  intro h
  have hc := check_none h
  have hs : seqCheck (.rxc d a b len cmb tag) = true := by simpa [instrCheck, Instr.parts] using hc
  have h0 : BitVec.extractLsb' (n := 48) 0 12 (tag ++ (0 : BitVec 12) ++ cmb ++ (0 : BitVec 5) ++ len) = len :=
    extract_low (tag ++ (0 : BitVec 12) ++ cmb ++ (0 : BitVec 5)) (len)
  have h1 : BitVec.extractLsb' (n := 48) 12 5 (tag ++ (0 : BitVec 12) ++ cmb ++ (0 : BitVec 5) ++ len) = (0 : BitVec 5) :=
    (extract_high (tag ++ (0 : BitVec 12) ++ cmb ++ (0 : BitVec 5)) (len) (by decide)).trans (extract_low (tag ++ (0 : BitVec 12) ++ cmb) ((0 : BitVec 5)))
  have h2 : BitVec.extractLsb' (n := 48) 17 3 (tag ++ (0 : BitVec 12) ++ cmb ++ (0 : BitVec 5) ++ len) = cmb :=
    (extract_high (tag ++ (0 : BitVec 12) ++ cmb ++ (0 : BitVec 5)) (len) (by decide)).trans ((extract_high (tag ++ (0 : BitVec 12) ++ cmb) ((0 : BitVec 5)) (by decide)).trans (extract_low (tag ++ (0 : BitVec 12)) (cmb)))
  have h3 : BitVec.extractLsb' (n := 48) 20 12 (tag ++ (0 : BitVec 12) ++ cmb ++ (0 : BitVec 5) ++ len) = (0 : BitVec 12) :=
    (extract_high (tag ++ (0 : BitVec 12) ++ cmb ++ (0 : BitVec 5)) (len) (by decide)).trans ((extract_high (tag ++ (0 : BitVec 12) ++ cmb) ((0 : BitVec 5)) (by decide)).trans ((extract_high (tag ++ (0 : BitVec 12)) (cmb) (by decide)).trans (extract_low (tag) ((0 : BitVec 12)))))
  have h4 : BitVec.extractLsb' (n := 48) 32 16 (tag ++ (0 : BitVec 12) ++ cmb ++ (0 : BitVec 5) ++ len) = tag :=
    (extract_high (tag ++ (0 : BitVec 12) ++ cmb ++ (0 : BitVec 5)) (len) (by decide)).trans ((extract_high (tag ++ (0 : BitVec 12) ++ cmb) ((0 : BitVec 5)) (by decide)).trans ((extract_high (tag ++ (0 : BitVec 12)) (cmb) (by decide)).trans ((extract_high (tag) ((0 : BitVec 12)) (by decide)).trans (extract_all _))))
  show decodeSeq (seqWord 3 d a b (tag ++ (0 : BitVec 12) ++ cmb ++ (0 : BitVec 5) ++ len)) = _
  simp only [decodeSeq, seqDec, seq_sop, seq_d, seq_a, seq_b, seq_hi, seq_bit, Nat.reduceLeDiff, Nat.reduceSub, h0, h1, h2, h3, h4,
    beq_self_eq_true, Bool.and_self, if_true]
  simp [hs]

theorem rxcf (d a b : BitVec 4) (len : BitVec 12) (lnk : BitVec 5) (cmb : BitVec 3) (sto : Bool) (tag : BitVec 16) : Statement (.rxcf d a b len lnk cmb sto tag) := by
  intro h
  have hc := check_none h
  have hs : seqCheck (.rxcf d a b len lnk cmb sto tag) = true := by simpa [instrCheck, Instr.parts] using hc
  have h0 : BitVec.extractLsb' (n := 48) 0 12 (tag ++ (0 : BitVec 11) ++ BitVec.ofBool sto ++ cmb ++ lnk ++ len) = len :=
    extract_low (tag ++ (0 : BitVec 11) ++ BitVec.ofBool sto ++ cmb ++ lnk) (len)
  have h1 : BitVec.extractLsb' (n := 48) 12 5 (tag ++ (0 : BitVec 11) ++ BitVec.ofBool sto ++ cmb ++ lnk ++ len) = lnk :=
    (extract_high (tag ++ (0 : BitVec 11) ++ BitVec.ofBool sto ++ cmb ++ lnk) (len) (by decide)).trans (extract_low (tag ++ (0 : BitVec 11) ++ BitVec.ofBool sto ++ cmb) (lnk))
  have h2 : BitVec.extractLsb' (n := 48) 17 3 (tag ++ (0 : BitVec 11) ++ BitVec.ofBool sto ++ cmb ++ lnk ++ len) = cmb :=
    (extract_high (tag ++ (0 : BitVec 11) ++ BitVec.ofBool sto ++ cmb ++ lnk) (len) (by decide)).trans ((extract_high (tag ++ (0 : BitVec 11) ++ BitVec.ofBool sto ++ cmb) (lnk) (by decide)).trans (extract_low (tag ++ (0 : BitVec 11) ++ BitVec.ofBool sto) (cmb)))
  have h3 : BitVec.getLsbD (w := 48) (tag ++ (0 : BitVec 11) ++ BitVec.ofBool sto ++ cmb ++ lnk ++ len) 20 = sto :=
    (bit_high (tag ++ (0 : BitVec 11) ++ BitVec.ofBool sto ++ cmb ++ lnk) (len) (by decide)).trans ((bit_high (tag ++ (0 : BitVec 11) ++ BitVec.ofBool sto ++ cmb) (lnk) (by decide)).trans ((bit_high (tag ++ (0 : BitVec 11) ++ BitVec.ofBool sto) (cmb) (by decide)).trans ((bit_low (tag ++ (0 : BitVec 11)) (BitVec.ofBool sto) (by decide)).trans (by cases sto <;> rfl))))
  have h4 : BitVec.extractLsb' (n := 48) 21 11 (tag ++ (0 : BitVec 11) ++ BitVec.ofBool sto ++ cmb ++ lnk ++ len) = (0 : BitVec 11) :=
    (extract_high (tag ++ (0 : BitVec 11) ++ BitVec.ofBool sto ++ cmb ++ lnk) (len) (by decide)).trans ((extract_high (tag ++ (0 : BitVec 11) ++ BitVec.ofBool sto ++ cmb) (lnk) (by decide)).trans ((extract_high (tag ++ (0 : BitVec 11) ++ BitVec.ofBool sto) (cmb) (by decide)).trans ((extract_high (tag ++ (0 : BitVec 11)) (BitVec.ofBool sto) (by decide)).trans (extract_low (tag) ((0 : BitVec 11))))))
  have h5 : BitVec.extractLsb' (n := 48) 32 16 (tag ++ (0 : BitVec 11) ++ BitVec.ofBool sto ++ cmb ++ lnk ++ len) = tag :=
    (extract_high (tag ++ (0 : BitVec 11) ++ BitVec.ofBool sto ++ cmb ++ lnk) (len) (by decide)).trans ((extract_high (tag ++ (0 : BitVec 11) ++ BitVec.ofBool sto ++ cmb) (lnk) (by decide)).trans ((extract_high (tag ++ (0 : BitVec 11) ++ BitVec.ofBool sto) (cmb) (by decide)).trans ((extract_high (tag ++ (0 : BitVec 11)) (BitVec.ofBool sto) (by decide)).trans ((extract_high (tag) ((0 : BitVec 11)) (by decide)).trans (extract_all _)))))
  show decodeSeq (seqWord 4 d a b (tag ++ (0 : BitVec 11) ++ BitVec.ofBool sto ++ cmb ++ lnk ++ len)) = _
  simp only [decodeSeq, seqDec, seq_sop, seq_d, seq_a, seq_b, seq_hi, seq_bit, Nat.reduceLeDiff, Nat.reduceSub, h0, h1, h2, h3, h4, h5,
    beq_self_eq_true, Bool.and_self, if_true]
  simp [hs]

theorem wflg (a b : BitVec 4) (timeout : Word) : Statement (.wflg a b timeout) := by
  intro h
  have hc := check_none h
  have hs : seqCheck (.wflg a b timeout) = true := by simpa [instrCheck, Instr.parts] using hc
  have h0 : BitVec.extractLsb' (n := 48) 0 16 (timeout ++ (0 : BitVec 16)) = (0 : BitVec 16) :=
    extract_low (timeout) ((0 : BitVec 16))
  have h1 : BitVec.extractLsb' (n := 48) 16 32 (timeout ++ (0 : BitVec 16)) = timeout :=
    (extract_high (timeout) ((0 : BitVec 16)) (by decide)).trans (extract_all _)
  show decodeSeq (seqWord 5 0 a b (timeout ++ (0 : BitVec 16))) = _
  simp only [decodeSeq, seqDec, seq_sop, seq_d, seq_a, seq_b, seq_hi, seq_bit, Nat.reduceLeDiff, Nat.reduceSub, h0, h1,
    beq_self_eq_true, Bool.and_self, if_true]
  simp [hs]

theorem sflg (a b : BitVec 4) (mode : BitVec 2) (imm : Word) : Statement (.sflg a b mode imm) := by
  intro h
  have hc := check_none h
  have hs : seqCheck (.sflg a b mode imm) = true := by simpa [instrCheck, Instr.parts] using hc
  have h0 : BitVec.extractLsb' (n := 48) 0 2 (imm ++ (0 : BitVec 14) ++ mode) = mode :=
    extract_low (imm ++ (0 : BitVec 14)) (mode)
  have h1 : BitVec.extractLsb' (n := 48) 2 14 (imm ++ (0 : BitVec 14) ++ mode) = (0 : BitVec 14) :=
    (extract_high (imm ++ (0 : BitVec 14)) (mode) (by decide)).trans (extract_low (imm) ((0 : BitVec 14)))
  have h2 : BitVec.extractLsb' (n := 48) 16 32 (imm ++ (0 : BitVec 14) ++ mode) = imm :=
    (extract_high (imm ++ (0 : BitVec 14)) (mode) (by decide)).trans ((extract_high (imm) ((0 : BitVec 14)) (by decide)).trans (extract_all _))
  show decodeSeq (seqWord 6 0 a b (imm ++ (0 : BitVec 14) ++ mode)) = _
  simp only [decodeSeq, seqDec, seq_sop, seq_d, seq_a, seq_b, seq_hi, seq_bit, Nat.reduceLeDiff, Nat.reduceSub, h0, h1, h2,
    beq_self_eq_true, Bool.and_self, if_true]
  simp [hs]

theorem loopk (d : BitVec 4) (target : BitVec 11) : Statement (.loopk d target) := by
  intro h
  have hc := check_none h
  have hs : seqCheck (.loopk d target) = true := by simpa [instrCheck, Instr.parts] using hc
  have h0 : BitVec.extractLsb' (n := 48) 0 11 ((0 : BitVec 37) ++ target) = target :=
    extract_low ((0 : BitVec 37)) (target)
  have h1 : BitVec.extractLsb' (n := 48) 11 37 ((0 : BitVec 37) ++ target) = (0 : BitVec 37) :=
    (extract_high ((0 : BitVec 37)) (target) (by decide)).trans (extract_all _)
  show decodeSeq (seqWord 7 d 0 0 ((0 : BitVec 37) ++ target)) = _
  simp only [decodeSeq, seqDec, seq_sop, seq_d, seq_a, seq_b, seq_hi, seq_bit, Nat.reduceLeDiff, Nat.reduceSub, h0, h1,
    beq_self_eq_true, Bool.and_self, if_true]
  simp [hs]

theorem jmpk (a : BitVec 4) (target : BitVec 11) (cond : BitVec 2) : Statement (.jmpk a target cond) := by
  intro h
  have hc := check_none h
  have hs : seqCheck (.jmpk a target cond) = true := by simpa [instrCheck, Instr.parts] using hc
  have h0 : BitVec.extractLsb' (n := 48) 0 11 ((0 : BitVec 34) ++ cond ++ (0 : BitVec 1) ++ target) = target :=
    extract_low ((0 : BitVec 34) ++ cond ++ (0 : BitVec 1)) (target)
  have h1 : BitVec.extractLsb' (n := 48) 11 1 ((0 : BitVec 34) ++ cond ++ (0 : BitVec 1) ++ target) = (0 : BitVec 1) :=
    (extract_high ((0 : BitVec 34) ++ cond ++ (0 : BitVec 1)) (target) (by decide)).trans (extract_low ((0 : BitVec 34) ++ cond) ((0 : BitVec 1)))
  have h2 : BitVec.extractLsb' (n := 48) 12 2 ((0 : BitVec 34) ++ cond ++ (0 : BitVec 1) ++ target) = cond :=
    (extract_high ((0 : BitVec 34) ++ cond ++ (0 : BitVec 1)) (target) (by decide)).trans ((extract_high ((0 : BitVec 34) ++ cond) ((0 : BitVec 1)) (by decide)).trans (extract_low ((0 : BitVec 34)) (cond)))
  have h3 : BitVec.extractLsb' (n := 48) 14 34 ((0 : BitVec 34) ++ cond ++ (0 : BitVec 1) ++ target) = (0 : BitVec 34) :=
    (extract_high ((0 : BitVec 34) ++ cond ++ (0 : BitVec 1)) (target) (by decide)).trans ((extract_high ((0 : BitVec 34) ++ cond) ((0 : BitVec 1)) (by decide)).trans ((extract_high ((0 : BitVec 34)) (cond) (by decide)).trans (extract_all _)))
  show decodeSeq (seqWord 8 0 a 0 ((0 : BitVec 34) ++ cond ++ (0 : BitVec 1) ++ target)) = _
  simp only [decodeSeq, seqDec, seq_sop, seq_d, seq_a, seq_b, seq_hi, seq_bit, Nat.reduceLeDiff, Nat.reduceSub, h0, h1, h2, h3,
    beq_self_eq_true, Bool.and_self, if_true]
  simp [hs]

theorem setk (d a : BitVec 4) (mode : BitVec 2) (imm : Word) : Statement (.setk d a mode imm) := by
  intro h
  have hc := check_none h
  have hs : seqCheck (.setk d a mode imm) = true := by simpa [instrCheck, Instr.parts] using hc
  have h0 : BitVec.extractLsb' (n := 48) 0 2 (imm ++ (0 : BitVec 14) ++ mode) = mode :=
    extract_low (imm ++ (0 : BitVec 14)) (mode)
  have h1 : BitVec.extractLsb' (n := 48) 2 14 (imm ++ (0 : BitVec 14) ++ mode) = (0 : BitVec 14) :=
    (extract_high (imm ++ (0 : BitVec 14)) (mode) (by decide)).trans (extract_low (imm) ((0 : BitVec 14)))
  have h2 : BitVec.extractLsb' (n := 48) 16 32 (imm ++ (0 : BitVec 14) ++ mode) = imm :=
    (extract_high (imm ++ (0 : BitVec 14)) (mode) (by decide)).trans ((extract_high (imm) ((0 : BitVec 14)) (by decide)).trans (extract_all _))
  show decodeSeq (seqWord 9 d a 0 (imm ++ (0 : BitVec 14) ++ mode)) = _
  simp only [decodeSeq, seqDec, seq_sop, seq_d, seq_a, seq_b, seq_hi, seq_bit, Nat.reduceLeDiff, Nat.reduceSub, h0, h1, h2,
    beq_self_eq_true, Bool.and_self, if_true]
  simp [hs]

theorem addk (d a b : BitVec 4) (mode : BitVec 2) (imm : Word) : Statement (.addk d a b mode imm) := by
  intro h
  have hc := check_none h
  have hs : seqCheck (.addk d a b mode imm) = true := by simpa [instrCheck, Instr.parts] using hc
  have h0 : BitVec.extractLsb' (n := 48) 0 2 (imm ++ (0 : BitVec 14) ++ mode) = mode :=
    extract_low (imm ++ (0 : BitVec 14)) (mode)
  have h1 : BitVec.extractLsb' (n := 48) 2 14 (imm ++ (0 : BitVec 14) ++ mode) = (0 : BitVec 14) :=
    (extract_high (imm ++ (0 : BitVec 14)) (mode) (by decide)).trans (extract_low (imm) ((0 : BitVec 14)))
  have h2 : BitVec.extractLsb' (n := 48) 16 32 (imm ++ (0 : BitVec 14) ++ mode) = imm :=
    (extract_high (imm ++ (0 : BitVec 14)) (mode) (by decide)).trans ((extract_high (imm) ((0 : BitVec 14)) (by decide)).trans (extract_all _))
  show decodeSeq (seqWord 10 d a b (imm ++ (0 : BitVec 14) ++ mode)) = _
  simp only [decodeSeq, seqDec, seq_sop, seq_d, seq_a, seq_b, seq_hi, seq_bit, Nat.reduceLeDiff, Nat.reduceSub, h0, h1, h2,
    beq_self_eq_true, Bool.and_self, if_true]
  simp [hs]

theorem cvtb (d a b : BitVec 4) (len : BitVec 12) (dir : Bool) : Statement (.cvtb d a b len dir) := by
  intro h
  have hc := check_none h
  have hs : seqCheck (.cvtb d a b len dir) = true := by simpa [instrCheck, Instr.parts] using hc
  have h0 : BitVec.extractLsb' (n := 48) 0 12 ((0 : BitVec 30) ++ BitVec.ofBool dir ++ (0 : BitVec 5) ++ len) = len :=
    extract_low ((0 : BitVec 30) ++ BitVec.ofBool dir ++ (0 : BitVec 5)) (len)
  have h1 : BitVec.extractLsb' (n := 48) 12 5 ((0 : BitVec 30) ++ BitVec.ofBool dir ++ (0 : BitVec 5) ++ len) = (0 : BitVec 5) :=
    (extract_high ((0 : BitVec 30) ++ BitVec.ofBool dir ++ (0 : BitVec 5)) (len) (by decide)).trans (extract_low ((0 : BitVec 30) ++ BitVec.ofBool dir) ((0 : BitVec 5)))
  have h2 : BitVec.getLsbD (w := 48) ((0 : BitVec 30) ++ BitVec.ofBool dir ++ (0 : BitVec 5) ++ len) 17 = dir :=
    (bit_high ((0 : BitVec 30) ++ BitVec.ofBool dir ++ (0 : BitVec 5)) (len) (by decide)).trans ((bit_high ((0 : BitVec 30) ++ BitVec.ofBool dir) ((0 : BitVec 5)) (by decide)).trans ((bit_low ((0 : BitVec 30)) (BitVec.ofBool dir) (by decide)).trans (by cases dir <;> rfl)))
  have h3 : BitVec.extractLsb' (n := 48) 18 30 ((0 : BitVec 30) ++ BitVec.ofBool dir ++ (0 : BitVec 5) ++ len) = (0 : BitVec 30) :=
    (extract_high ((0 : BitVec 30) ++ BitVec.ofBool dir ++ (0 : BitVec 5)) (len) (by decide)).trans ((extract_high ((0 : BitVec 30) ++ BitVec.ofBool dir) ((0 : BitVec 5)) (by decide)).trans ((extract_high ((0 : BitVec 30)) (BitVec.ofBool dir) (by decide)).trans (extract_all _)))
  show decodeSeq (seqWord 11 d a b ((0 : BitVec 30) ++ BitVec.ofBool dir ++ (0 : BitVec 5) ++ len)) = _
  simp only [decodeSeq, seqDec, seq_sop, seq_d, seq_a, seq_b, seq_hi, seq_bit, Nat.reduceLeDiff, Nat.reduceSub, h0, h1, h2, h3,
    beq_self_eq_true, Bool.and_self, if_true]
  simp [hs]

theorem sred (d a b : BitVec 4) (len : BitVec 12) (lnk : BitVec 5) : Statement (.sred d a b len lnk) := by
  intro h
  have hc := check_none h
  have hs : seqCheck (.sred d a b len lnk) = true := by simpa [instrCheck, Instr.parts] using hc
  have h0 : BitVec.extractLsb' (n := 48) 0 12 ((0 : BitVec 31) ++ lnk ++ len) = len :=
    extract_low ((0 : BitVec 31) ++ lnk) (len)
  have h1 : BitVec.extractLsb' (n := 48) 12 5 ((0 : BitVec 31) ++ lnk ++ len) = lnk :=
    (extract_high ((0 : BitVec 31) ++ lnk) (len) (by decide)).trans (extract_low ((0 : BitVec 31)) (lnk))
  have h2 : BitVec.extractLsb' (n := 48) 17 31 ((0 : BitVec 31) ++ lnk ++ len) = (0 : BitVec 31) :=
    (extract_high ((0 : BitVec 31) ++ lnk) (len) (by decide)).trans ((extract_high ((0 : BitVec 31)) (lnk) (by decide)).trans (extract_all _))
  show decodeSeq (seqWord 12 d a b ((0 : BitVec 31) ++ lnk ++ len)) = _
  simp only [decodeSeq, seqDec, seq_sop, seq_d, seq_a, seq_b, seq_hi, seq_bit, Nat.reduceLeDiff, Nat.reduceSub, h0, h1, h2,
    beq_self_eq_true, Bool.and_self, if_true]
  simp [hs]

theorem putk (d a b : BitVec 4) : Statement (.putk d a b) := by
  intro h
  have hc := check_none h
  have hs : seqCheck (.putk d a b) = true := by simpa [instrCheck, Instr.parts] using hc
  have h0 : BitVec.extractLsb' (n := 48) 0 48 0 = 0 := extract_all _
  show decodeSeq (seqWord 13 d a b 0) = _
  simp only [decodeSeq, seqDec, seq_sop, seq_d, seq_a, seq_b, seq_hi, seq_bit, Nat.reduceLeDiff, Nat.reduceSub, h0,
    beq_self_eq_true, Bool.and_self, if_true]
  simp [hs]

theorem loga (a b : BitVec 4) (mode : BitVec 2) : Statement (.loga a b mode) := by
  intro h
  have hc := check_none h
  have hs : seqCheck (.loga a b mode) = true := by simpa [instrCheck, Instr.parts] using hc
  have h0 : BitVec.extractLsb' (n := 48) 0 2 ((0 : BitVec 46) ++ mode) = mode :=
    extract_low ((0 : BitVec 46)) (mode)
  have h1 : BitVec.extractLsb' (n := 48) 2 46 ((0 : BitVec 46) ++ mode) = (0 : BitVec 46) :=
    (extract_high ((0 : BitVec 46)) (mode) (by decide)).trans (extract_all _)
  show decodeSeq (seqWord 14 0 a b ((0 : BitVec 46) ++ mode)) = _
  simp only [decodeSeq, seqDec, seq_sop, seq_d, seq_a, seq_b, seq_hi, seq_bit, Nat.reduceLeDiff, Nat.reduceSub, h0, h1,
    beq_self_eq_true, Bool.and_self, if_true]
  simp [hs]

theorem seqend : Statement .seqend := by
  intro h
  have hc := check_none h
  have hs : seqCheck (.seqend) = true := by simpa [instrCheck, Instr.parts] using hc
  rfl

theorem deviceReset : Statement .deviceReset := by
  intro _; trivial

theorem bootImageCheck (img : Image) : Statement (.bootImageCheck img) := by
  intro _; trivial

theorem attestationRequest (nonce : BitVec 256) : Statement (.attestationRequest nonce) := by
  intro _; trivial

theorem doorbell (ring : BitVec 6) (tail : Word) : Statement (.doorbell ring tail) := by
  intro _; trivial

theorem ringEnable (ring : BitVec 6) : Statement (.ringEnable ring) := by
  intro _; trivial

theorem ringRestart (ring : BitVec 6) : Statement (.ringRestart ring) := by
  intro _; trivial

theorem cmdLaunch (ring : BitVec 6) : Statement (.cmdLaunch ring) := by
  intro _; trivial

theorem cmdCopy (ring : BitVec 6) (core : Nat) : Statement (.cmdCopy ring core) := by
  intro _; trivial

theorem cmdSequencerStart (ring : BitVec 6) : Statement (.cmdSequencerStart ring) := by
  intro _; trivial

theorem cmdWait (ring : BitVec 6) : Statement (.cmdWait ring) := by
  intro _; trivial

theorem cmdWaitTimeout (ring : BitVec 6) (idx : Nat) : Statement (.cmdWaitTimeout ring idx) := by
  intro _; trivial

theorem cmdSignal (ring : BitVec 6) : Statement (.cmdSignal ring) := by
  intro _; trivial

theorem cmdFence (ring : BitVec 6) : Statement (.cmdFence ring) := by
  intro _; trivial

theorem mgmtRegisterWrite (fw : Bool) (off : Word) (v : Word) : Statement (.mgmtRegisterWrite fw off v) := by
  intro _; trivial

theorem lapprove (handle : BitVec 14) : Statement (.lapprove handle) := by
  intro _; trivial

theorem preqRaise (handle : BitVec 14) : Statement (.preqRaise handle) := by
  intro _; trivial

theorem preqWithdraw (handle : BitVec 14) : Statement (.preqWithdraw handle) := by
  intro _; trivial

theorem fwLoad (img : Image) : Statement (.fwLoad img) := by
  intro _; trivial

theorem fwHandOver (priv : List Byte) : Statement (.fwHandOver priv) := by
  intro _; trivial

theorem fwAbandon : Statement .fwAbandon := by
  intro _; trivial

theorem fwAlive (ctl : BitVec 3) : Statement (.fwAlive ctl) := by
  intro _; trivial

theorem aliveDeadlineExpiry (ctl : BitVec 3) : Statement (.aliveDeadlineExpiry ctl) := by
  intro _; trivial

theorem islandStep (k : BitVec 4) : Statement (.islandStep k) := by
  intro _; trivial

theorem islandGate (gate : Bool) : Statement (.islandGate gate) := by
  intro _; trivial

theorem groupStep (handle : BitVec 14) : Statement (.groupStep handle) := by
  intro _; trivial

theorem streamStep (handle : BitVec 14) (entry : BitVec 2) : Statement (.streamStep handle entry) := by
  intro _; trivial

theorem debugResume (handle : BitVec 14) : Statement (.debugResume handle) := by
  intro _; trivial

theorem seqHalt (sq : BitVec 5) (ctx : BitVec 2) (halt : Bool) : Statement (.seqHalt sq ctx halt) := by
  intro _; trivial

theorem seqStep (sq : BitVec 5) (ctx : BitVec 2) : Statement (.seqStep sq ctx) := by
  intro _; trivial

theorem dispatchTeam (handle : BitVec 14) (place : Place) (twin : Option Place) : Statement (.dispatchTeam handle place twin) := by
  intro _; trivial

theorem dispatcherPreempt (team : Nat) (forGrid : BitVec 14) : Statement (.dispatcherPreempt team forGrid) := by
  intro _; trivial

theorem teamTaken (team : Nat) : Statement (.teamTaken team) := by
  intro _; trivial

theorem swapOut (team : Nat) (forGrid : BitVec 14) : Statement (.swapOut team forGrid) := by
  intro _; trivial

theorem teamResume (team : Nat) (place : Place) (twin : Option Place) : Statement (.teamResume team place twin) := by
  intro _; trivial

theorem resultWriteback (group : Nat) (entry : BitVec 2) (k : Nat) : Statement (.resultWriteback group entry k) := by
  intro _; trivial

theorem yieldOverrun (group : Nat) (entry : BitVec 2) : Statement (.yieldOverrun group entry) := by
  intro _; trivial

theorem gridRetire (handle : BitVec 14) : Statement (.gridRetire handle) := by
  intro _; trivial

theorem engineFaultDelivery (eng : EngineId) : Statement (.engineFaultDelivery eng) := by
  intro _; trivial

theorem hostPageAnswer (group : Nat) (entry : BitVec 2) (mapped : Bool) : Statement (.hostPageAnswer group entry mapped) := by
  intro _; trivial

theorem hostFaultAnswer (team : Nat) (resume : Bool) : Statement (.hostFaultAnswer team resume) := by
  intro _; trivial

theorem matrixFifoHead (core : Nat) : Statement (.matrixFifoHead core) := by
  intro _; trivial

theorem accumulatorStarvation (core : Nat) : Statement (.accumulatorStarvation core) := by
  intro _; trivial

theorem batchRetire (group : Nat) : Statement (.batchRetire group) := by
  intro _; trivial

theorem adrainHandOver (core : Nat) : Statement (.adrainHandOver core) := by
  intro _; trivial

theorem bargeDrain (core : Nat) : Statement (.bargeDrain core) := by
  intro _; trivial

theorem abortedDrain (core : Nat) : Statement (.abortedDrain core) := by
  intro _; trivial

theorem bcopyPerform (core : Nat) : Statement (.bcopyPerform core) := by
  intro _; trivial

theorem bcopymPerform (core : Nat) : Statement (.bcopymPerform core) := by
  intro _; trivial

theorem routePerform (die : BitVec 2) : Statement (.routePerform die) := by
  intro _; trivial

theorem collPerform (core : Nat) : Statement (.collPerform core) := by
  intro _; trivial

theorem waitWake (group : Nat) (entry : BitVec 2) : Statement (.waitWake group entry) := by
  intro _; trivial

theorem waitvRecheck (group : Nat) (entry : BitVec 2) : Statement (.waitvRecheck group entry) := by
  intro _; trivial

theorem waitTimeout (group : Nat) (entry : BitVec 2) : Statement (.waitTimeout group entry) := by
  intro _; trivial

theorem readShared (r : CohReq) : Statement (.readShared r) := by
  intro _; trivial

theorem readOwn (r : CohReq) : Statement (.readOwn r) := by
  intro _; trivial

theorem upgrade (r : CohReq) : Statement (.upgrade r) := by
  intro _; trivial

theorem writeBack (r : CohReq) : Statement (.writeBack r) := by
  intro _; trivial

theorem cleanEvict (r : CohReq) : Statement (.cleanEvict r) := by
  intro _; trivial

theorem atomicAtHome (r : CohReq) : Statement (.atomicAtHome r) := by
  intro _; trivial

theorem fwdShared (n : Snoop) : Statement (.fwdShared n) := by
  intro _; trivial

theorem fwdOwn (n : Snoop) : Statement (.fwdOwn n) := by
  intro _; trivial

theorem invalidate (n : Snoop) : Statement (.invalidate n) := by
  intro _; trivial

theorem backInvalidate (n : Snoop) : Statement (.backInvalidate n) := by
  intro _; trivial

theorem dataResponse (die : BitVec 2) (line : Nat) (st : LineState) : Statement (.dataResponse die line st) := by
  intro _; trivial

theorem ack (die : BitVec 2) (line : Nat) : Statement (.ack die line) := by
  intro _; trivial

theorem retry (die : BitVec 2) (line : Nat) : Statement (.retry die line) := by
  intro _; trivial

theorem snoopResponse (line : Nat) (src : CohNode) (data : Bool) : Statement (.snoopResponse line src data) := by
  intro _; trivial

theorem l2Eviction (die : BitVec 2) (line : Nat) : Statement (.l2Eviction die line) := by
  intro _; trivial

theorem shadowNote (region : Nat) (m : ShadowMsg) : Statement (.shadowNote region m) := by
  intro _; trivial

theorem track (region : Nat) (switch : BitVec 12) : Statement (.track region switch) := by
  intro _; trivial

theorem untrack (region : Nat) : Statement (.untrack region) := by
  intro _; trivial

theorem regionSweep (region : Nat) : Statement (.regionSweep region) := by
  intro _; trivial

theorem requestReissue (tag : BitVec 12) : Statement (.requestReissue tag) := by
  intro _; trivial

theorem switchFailure (switch : BitVec 12) : Statement (.switchFailure switch) := by
  intro _; trivial

theorem recoveryWindowEnd : Statement .recoveryWindowEnd := by
  intro _; trivial

theorem invalidateResend (line : Nat) (pkg : BitVec 12) : Statement (.invalidateResend line pkg) := by
  intro _; trivial

theorem hostSnoop (die : BitVec 2) (line : Nat) (kind : HostSnoop) : Statement (.hostSnoop die line kind) := by
  intro _; trivial

theorem bisnpResponse (line : Nat) (dirty : Bool) : Statement (.bisnpResponse line dirty) := by
  intro _; trivial

theorem hostMemoryAccess (pa : BitVec 52) (n : Nat) (data : Option (List Byte)) : Statement (.hostMemoryAccess pa n data) := by
  intro _; trivial

theorem flitReceive (link : BitVec 5) (flit : List Byte) : Statement (.flitReceive link flit) := by
  intro _; trivial

theorem linkDown (link : BitVec 5) : Statement (.linkDown link) := by
  intro _; trivial

theorem readyMessage (m : ReadyMsg) : Statement (.readyMessage m) := by
  intro _; trivial

theorem readyRetry (sq : BitVec 5) (ctx : BitVec 2) : Statement (.readyRetry sq ctx) := by
  intro _; trivial

theorem chunkMessage (m : ChunkMsg) : Statement (.chunkMessage m) := by
  intro _; trivial

theorem nackMessage (m : NackMsg) : Statement (.nackMessage m) := by
  intro _; trivial

theorem rendezvousTimeout (sq : BitVec 5) (ctx : BitVec 2) : Statement (.rendezvousTimeout sq ctx) := by
  intro _; trivial

theorem sredResult (sq : BitVec 5) (ctx : BitVec 2) (m : SumMsg) : Statement (.sredResult sq ctx m) := by
  intro _; trivial

theorem putMessage (m : PutMsg) : Statement (.putMessage m) := by
  intro _; trivial

theorem notifyAppend (win : BitVec 8) : Statement (.notifyAppend win) := by
  intro _; trivial

theorem putAck (m : PutAckMsg) : Statement (.putAck m) := by
  intro _; trivial

theorem creditReturn (grantor : Grantor) (requests bulk : Nat) : Statement (.creditReturn grantor requests bulk) := by
  intro _; trivial

theorem markEcho (pkg : BitVec 12) : Statement (.markEcho pkg) := by
  intro _; trivial

theorem rateRecovery (pkg : BitVec 12) : Statement (.rateRecovery pkg) := by
  intro _; trivial

theorem collectiveLaunchMessage (m : LaunchMsg) : Statement (.collectiveLaunchMessage m) := by
  intro _; trivial

theorem collectiveCommit (cid : BitVec 28) : Statement (.collectiveCommit cid) := by
  intro _; trivial

theorem collectiveCancel (cid : BitVec 28) : Statement (.collectiveCancel cid) := by
  intro _; trivial

theorem abortMessage (m : AbortMsg) : Statement (.abortMessage m) := by
  intro _; trivial

theorem chunkComplete (sq : BitVec 5) (ctx : BitVec 2) : Statement (.chunkComplete sq ctx) := by
  intro _; trivial

theorem contextRunLimit (sq : BitVec 5) : Statement (.contextRunLimit sq) := by
  intro _; trivial

theorem wflgTimeout (sq : BitVec 5) (ctx : BitVec 2) : Statement (.wflgTimeout sq ctx) := by
  intro _; trivial

theorem seqPageResolved (sq : BitVec 5) (ctx : BitVec 2) (mapped : Bool) : Statement (.seqPageResolved sq ctx mapped) := by
  intro _; trivial

theorem collectiveEnd (cid : BitVec 28) : Statement (.collectiveEnd cid) := by
  intro _; trivial

theorem replay (handle : BitVec 14) : Statement (.replay handle) := by
  intro _; trivial

theorem pairCompare (team : Nat) : Statement (.pairCompare team) := by
  intro _; trivial

theorem pairTimeout (team : Nat) : Statement (.pairTimeout team) := by
  intro _; trivial

theorem uncorrectableError (e : ErrorSite) : Statement (.uncorrectableError e) := by
  intro _; trivial

theorem correctedError (e : RowId) (handle : Option (BitVec 14)) : Statement (.correctedError e handle) := by
  intro _; trivial

theorem rowSpare (idx : BitVec 10) : Statement (.rowSpare idx) := by
  intro _; trivial

theorem powerLimit (island : BitVec 6) (mhz : BitVec 16) : Statement (.powerLimit island mhz) := by
  intro _; trivial

theorem dtimeSync (ticks : Nat) : Statement (.dtimeSync ticks) := by
  intro _; trivial

theorem linkUp (link : BitVec 5) : Statement (.linkUp link) := by
  intro _; trivial

theorem domainBringUp (b : BringUp) : Statement (.domainBringUp b) := by
  intro _; trivial

theorem wflgRecheck (sq : BitVec 5) (ctx : BitVec 2) : Statement (.wflgRecheck sq ctx) := by
  intro _; trivial

theorem cmdWaitSatisfied (ring : BitVec 6) (idx : Nat) : Statement (.cmdWaitSatisfied ring idx) := by
  intro _; trivial

theorem refusedByTarget (group : Nat) (entry : BitVec 2) : Statement (.refusedByTarget group entry) := by
  intro _; trivial

theorem combineReplayTimeout (sq : BitVec 5) (ctx : BitVec 2) : Statement (.combineReplayTimeout sq ctx) := by
  intro _; trivial

end Sys2Proof.Laws.RoundTrip
end

