-- ==== Sys2Proof/Safety.lean ====
section
/-! DEFINITION. The terms in which claims speak: when an instruction issues (R50, R60, R94, R122, R379), what its issue makes of
the state, and the invariant of the machine. -/

namespace Sys2Proof.Safety

open Sys2Proof.Machine

/-! ### Issue -/

/-- The current stream x of s issues an instruction of this kind: its results have values where it waits for them (R50), and no step of a
held group ends at such a wait (R357); no trap of it waits for the handler (R122), the decode checks pass (R94), its budget is not used up
(R60), and no compare of paired execution comes first (R379). -/
def issues (how : IssueHow) (s : State) (x : Ctx) : Bool :=
  let y := waited how x
  decide (ctx? s = some x) && (!how.wait || (resultsReady x.g x.e && (!x.g.hold || (x.g.split x.e).pend.isEmpty)))
    && (x.inH || (x.g.split x.e).trap.isNone)
    && (how.chk y.dec).isNone && (y.g.budget != 0 || x.inH || how.isYield)
    && (x.t.twin.isNone || (!how.compare y && decide (x.t.writes < 4096)) || (y.g.split x.e).compared)

/-- Nothing holds the stream back before its instruction: its results have values where it waits for them (R50), and its group is not
held at such a wait (R357). -/
def free (how : IssueHow) (x : Ctx) : Prop :=
  how.wait = true → resultsReady x.g x.e = true ∧ (x.g.hold = true → (x.g.split x.e).pend = [])

/-- After an instruction that goes on in sequence. -/
def afterDone (how : IssueHow) (y : Ctx) (t : State) : State :=
  modGroup (issued t y how.cls how.isYield) y.uid fun g => advance g y how.len

/-- After an instruction that has set the program counter. -/
def afterFlow (how : IssueHow) (y : Ctx) (t : State) : State := issued t y how.cls how.isYield

/-- After an instruction whose effect is to write registers at issue (R53) and to raise sticky flags (R120). -/
def regsNext (how : IssueHow) (s : State) (x : Ctx) (l : List RegWrite) (f : Flags) : State :=
  let y := waited how x
  afterDone how y (y.put (waitedState how x s) ((y.g.writes l).raise f))

/-- After an instruction whose register results are of variable latency: they are outstanding (R52), and their flags with them (R120). -/
def varNext (how : IssueHow) (s : State) (x : Ctx) (l : List RegWrite) (f : Flags) : State :=
  let y := waited how x
  afterDone how y (y.put (waitedState how x s) (y.g.addPending y.e { writes := l, await := none, flags := f }))

/-! ### What an instruction leads to -/

/-- An instruction that writes registers at fixed latency (R53): where it issues it answers the next state in which the writes and
flags that r gives are made. -/
def writesNow (i : Instr) (how : IssueHow) (r : Ctx → List RegWrite × Flags) : Prop :=
  ∀ s x, issues how s x = true →
    exec i s = .next (regsNext how s x (r (waited how x)).1 (r (waited how x)).2)

/-- An instruction whose register results are of variable latency (R52): where it issues it answers the next state in which the writes
that r gives are outstanding. -/
def writesLater (i : Instr) (how : IssueHow) (r : Ctx → List RegWrite × Flags) : Prop :=
  ∀ s x, issues how s x = true →
    exec i s = .next (varNext how s x (r (waited how x)).1 (r (waited how x)).2)

/-- An instruction after which the stream goes on in sequence: where it issues and R relates the stream and the state to u, it answers
the next state that u gives. -/
def goesOn (i : Instr) (how : IssueHow) (R : Ctx → State → State → Prop) : Prop :=
  ∀ s x u, issues how s x = true → R (waited how x) (waitedState how x s) u →
    exec i s = .next (afterDone how (waited how x) u)

/-- The same of an instruction that sets the stream's program counter itself. -/
def flowsTo (i : Instr) (how : IssueHow) (R : Ctx → State → State → Prop) : Prop :=
  ∀ s x u, issues how s x = true → R (waited how x) (waitedState how x s) u →
    exec i s = .next (afterFlow how (waited how x) u)

/-- An instruction that raises a fault where R holds (R359). -/
def faultsWith (i : Instr) (how : IssueHow) (cause detail : Nat) (R : Ctx → State → Prop) : Prop :=
  ∀ s x, issues how s x = true → R (waited how x) (waitedState how x s) →
    exec i s = .next (streamFault (waitedState how x s) (waited how x) cause detail 0)

/-- An instruction that does not issue yet where R holds: the stream stays at it. -/
def waitsWhile (i : Instr) (how : IssueHow) (R : Ctx → State → Prop) : Prop :=
  ∀ s x, issues how s x = true → R (waited how x) (waitedState how x s) → exec i s = .next (waitedState how x s)

/-- An instruction that a read or a check at its issue stops with r, where R holds of r: a fault or a trap, or it does not issue yet. -/
def stopsAt (i : Instr) (how : IssueHow) (R : Ctx → State → Res → Prop) : Prop :=
  ∀ s x, issues how s x = true →
    let z := waited how x
    let t := waitedState how x s
    (∀ u c d a, R z t (.fault u c d a) → exec i s = .next (streamFault u z c d a)) ∧
    (∀ u tr, R z t (.trap u tr) → exec i s = .next (takeTrap u z.uid z.e tr)) ∧
    ∀ u, R z t (.stall u) → exec i s = .next u

/-- P of the base and the extended form of an instruction with opcode op (R73, R74, R76). -/
def inForms (op : Nat) (b : BaseArgs → Instr) (e : ExtArgs → Instr) (P : Instr → IssueHow → ExtArgs → Prop) : Prop :=
  (∀ w, P (b w) (howOp op false (w.ext none)) (w.ext none)) ∧ ∀ w, P (e w) (howOp op true w) w

/-- P of the base form, the base form with a literal (R77) and the extended form. -/
def inForms3 (op : Nat) (b : BaseArgs → Instr) (l : BaseArgs → DWord → Instr) (e : ExtArgs → Instr)
    (P : Instr → IssueHow → ExtArgs → Prop) : Prop :=
  inForms op b e P ∧ ∀ w v, P (l w v) (howOp op false (w.ext (some v))) (w.ext (some v))

/-- An instruction that acts once (R80): a NOP without an active lane, else what R says. -/
def onceTo (w : ExtArgs) (R : Ctx → State → State → Prop) (x : Ctx) (s u : State) : Prop :=
  if (x.active w).isEmpty then u = s else R x s u

/-- The accesses of an instruction, where each of them is legal, translated and allowed (R205), its target refuses none (R191) and none must
wait for a route (R409): the accesses, and the state that their translation leaves. -/
def reached (x : Ctx) (s : State) (n : Need) (align : Nat) (l : List (Nat × Nat)) : Option (List Acc × State) :=
  match checkAccesses s x.core x.gr.space false n align l with
  | (.ok r, miss, u) =>
    let v := x.count u 11 miss
    let acc := (l.zip r).map fun p => ({ key := p.1.1, va := p.1.2, pa := p.2.1, leaf := p.2.2 } : Acc)
    if acc.any (fun a => targetRefuses v a.pa || mustWait v x.core n a.pa) then none else some (acc, v)
  | _ => none

/-- a is less than b, unsigned or signed. -/
def below {n : Nat} (unsigned : Bool) (a b : BitVec n) : Bool := if unsigned then a.ult b else a.slt b

/-- A result per active lane at the width of the type T: 64-bit values with a wide type, else words (R146). -/
def byType (w : ExtArgs) (f : Ctx → Nat → DWord) (g : Ctx → Nat → Word) : Ctx → List RegWrite × Flags :=
  if tWide w then laneOp64 w f else laneOp32 w g

/-- An exact value rounded to nearest, with a flag that it raises itself (R157). -/
def rounded (sat : Bool) (r : Exact × Flags) : Nat × Flags :=
  ((round154 fmt32 .rne sat r.1).1, (round154 fmt32 .rne sat r.1).2 ||| r.2)

/-- A register of a group that exists: its slice is one of the group's, its number is in range, and a banked one has its bank. -/
def refIn (g : Group) (r : RegRef) : Bool :=
  match r with
  | .v _ p => decide (p < 2048)
  | .s k _ => decide (k < g.slices.length)
  | .p _ n => decide (n < 8)
  | .c k _ => decide (k < g.slices.length)
  | .bv _ n => decide (n < 16) && g.handler.isSome
  | .bs _ n => decide (n < 16) && g.handler.isSome
  | .bp _ n => decide (n < 8) && g.handler.isSome
  | .bc _ n => decide (n < 8) && g.handler.isSome

/-- Predicates and conditions hold one bit. -/
def oneBit (r : RegRef) : Bool :=
  match r with
  | .p .. | .c .. | .bp .. | .bc .. => true
  | _ => false

/-- A call fits (R126, R128): the stack stays within 2^20 registers and the new window is resident in every slice. -/
def callFits (x : Ctx) (n : Nat) : Prop :=
  ∀ k ∈ x.sl, (x.g.slice k).wb + slideOf n + x.g.nregs ≤ 2 ^ 20 ∧
    (x.g.slice k).wb + slideOf n + x.g.nregs ≤ (x.g.slice k).rb + x.g.alloc

/-- BC with an offset or with a literal target: how it issues, its length, its target, condition, sense and J register. -/
def bcForm (b : Instr) (how : IssueHow) (len : Nat) (tgt : Ctx → DWord) (c : Nat) (neg : Bool) (j : Nat) : Prop :=
  (∃ y i m off, b = .bc y i neg m off ∧ how = howCtl b y ∧ len = 4 ∧ c = i.toNat ∧ j = m.toNat ∧
    tgt = fun x => x.pc + off.signExtend 64 * 4) ∨
  ∃ y i m v, b = .bcL y i neg m v ∧ how = howCtl b y ∧ len = 12 ∧ c = i.toNat ∧ j = m.toNat ∧ tgt = fun _ => v

/-- CALL with an offset or a literal target, and CALLI: the slide's argument, its length and each slice's target. -/
def callForm (i : Instr) (how : IssueHow) (n len : Nat) (tgt : Ctx → Nat → DWord) : Prop :=
  (∃ y m off, i = .call y m off ∧ how = howCall i y n ∧ n = m.toNat ∧ len = 4 ∧ tgt = fun x _ => x.pc + off.signExtend 64 * 4) ∨
  (∃ y m v, i = .callL y m v ∧ how = howCall i y n ∧ n = m.toNat ∧ len = 12 ∧ tgt = fun _ _ => v) ∨
  ∃ y m a, i = .calli y m a ∧ how = howCall i y n ∧ n = m.toNat ∧ len = 4 ∧ tgt = fun x k => x.ss k a.toNat

/-- LOOP and LOOPI: where the body's last instruction stands, and each slice's count. -/
def loopForm (i : Instr) (how : IssueHow) (stop : Ctx → DWord) (count : Ctx → Nat → Word) : Prop :=
  (∃ y a off, i = .loop y a off ∧ how = howCtl i y ∧ stop = (fun x => x.pc + off.signExtend 64 * 4) ∧
    count = fun x k => x.s k a.toNat) ∨
  ∃ y c off, i = .loopi y c off ∧ how = howCtl i y ∧ stop = (fun x => x.pc + off.zeroExtend 64 * 4) ∧
    count = fun _ _ => c.zeroExtend 32

/-- The rejoin address r of a divergent BC to t (R342), and the state that finding it leaves: backward the address after the branch, forward
what the word before the target gives. -/
def rejoins (x : Ctx) (s : State) (len : Nat) (t r : DWord) (v : State) : Prop :=
  if x.pc.toNat < t.toNat then ∃ w, x.fetch s (t.toNat - 4) = (.ok w, v) ∧ r = rejoinOf t w
  else r = x.pc + BitVec.ofNat 64 len ∧ v = s

/-- The entry that a divergent BC on J[j] splits into (R343): the lowest that is free, where the partition has an instruction buffer slot
(R338) and J[j] is invalid or holds the stream's slices and the rejoin address r. -/
def splitEntry (x : Ctx) (s : State) (j : Nat) (r : DWord) : Option Nat :=
  let jr := x.g.j.getD j ⟨false, 0, 0⟩
  let m := sliceMask x.sl
  if ibUsed s x.core x.g.part < 24 ∧ (jr.valid = true → m &&& jr.mask = m ∧ jr.pc = r.extractLsb' 2 55) then
    (List.range 4).find? fun k => !(x.g.split k).valid
  else none

/-- What REGANG j brings to J[j] (R348): the group and the slices that have arrived, as they stand without a top entry of j, and with the entry
popped and its first path's slices joined where it is the second path's arrival; none where the stack holds the stream back. -/
def atJoin (x : Ctx) (g : Group) (j : BitVec 3) : Option (Group × BitVec 16) :=
  let m := sliceMask x.sl
  match topEntry g x.e with
  | none => some (g, m)
  | some (i, d) =>
    if d.j ≠ j then some (g, m)
    else if x.pc = d.rejoin ∧ d.join = true then
      some (({ g with dstack := g.dstack.eraseIdx i }).modSplit x.e fun p => { p with mask := m ||| d.arrived }, m ||| d.arrived)
    else none

/-- The removal of the slices of m by EXIT makes the streams that wait on J[n], which is a, cover its mask (R350). -/
def exitMerges (g : Group) (m : BitVec 16) (n : Nat) (a : Rejoin) : Prop :=
  g.j[n]? = some a ∧ a.valid = true ∧ a.mask &&& m ≠ 0 ∧ a.mask &&& ~~~m ≠ 0 ∧ waitUnion g n = a.mask &&& ~~~m

/-- The slices of l have gone to t, with the loops popped that t leaves (R389). -/
def taken (x : Ctx) (g : Group) (t : DWord) (l : List Nat) : Prop :=
  ∀ k ∈ l, k < x.g.slices.length → (g.slice k).pc = t ∧ (g.slice k).loops = popLoops t (x.g.slice k).loops

/-- After a split: those of tt have gone to t, those of ff go on at next or loop back (R388), and the other slices stay. -/
def paths (x : Ctx) (g : Group) (t next : DWord) (tt ff : List Nat) : Prop :=
  taken x g t tt ∧
  (∀ k ∈ ff, k < x.g.slices.length → let r := loopBack x.pc next (x.g.slice k).loops
    (g.slice k).pc = r.1 ∧ (g.slice k).loops = popLoops r.1 r.2) ∧
  ∀ k, k ∉ x.sl → g.slice k = x.g.slice k

/-- The grid of a stream has counted an issue of class 000 and one more event, unless the team is a shadow (R405). -/
def counted (how : IssueHow) (x : Ctx) (s u : State) (c : Nat) : Prop :=
  ∀ gr, kget s.grids x.t.grid.toNat = some gr → kget u.grids x.t.grid.toNat = some (if x.t.shadow then gr
    else { gr with counters := lmod (lmod (lmod gr.counters c (· + 1)) 0 (· + 1)) (portCounter how.cls) (· + 1) })

/-- The group after a call of len bytes to t (R127, R128). -/
def called (x : Ctx) (n len : Nat) (t : DWord) : Group :=
  let link (k : Nat) : List RegWrite :=
    ((linkWords (x.pc + BitVec.ofNat 64 len) (n % 256) (x.g.slice k).loops).zipIdx).map fun p =>
      (linkRef x.g k ((x.g.slice k).wb + slideOf n - 8) p.2, p.1)
  let g := (x.g.writes (x.sl.flatMap link)).modSlices x.sl fun _ q =>
    { q with wb := q.wb + slideOf n, loops := if x.inH then q.loops else [] }
  if x.inH then { g with handler := g.handler.map fun h => { h with pc := t } } else g.setPc x.sl t

/-- A loop whose last instruction has word 0 w and stands at stop is entered or skipped (R387). -/
def loops (x : Ctx) (w : Word) (stop : DWord) (count : Nat → Word) (s u : State) : Prop :=
  x.inH = false ∧ (wordOp w / 32 ≠ 7 ∧ (wordOp w / 32 = 0 → wordOp w = 0)) ∧
    (∀ k ∈ x.sl, (x.g.slice k).loops.length < 4 ∧ count k = count x.low) ∧
    u = x.put s (if count x.low = 0 then x.g.setPc x.sl (stop + BitVec.ofNat 64 (4 * lenWords (wordLen w)))
      else x.g.modSlices x.sl fun _ q =>
        { q with loops := { start := x.pc + 4, stop := stop, count := count x.low } :: q.loops, pc := x.pc + 4 })

/-- After a load whose accesses have been checked: the values as the core reads them, outstanding, those read from a poisoned line with its
detail (R372), and the acquire of its order. -/
def loaded (x : Ctx) (w : ExtArgs) (dst : Nat → List Word → List RegWrite) (s : State) (acc : List Acc) : State :=
  let p := findPoison x.core (accessSize w) s acc
  let r := loadEach x (streaming w) (accessSize w) p.2 acc
  let s := x.results (fun k v => dst k (loadWords w v)) p.1 r.1 r.2
  if ordered w then acquire s x (orderScope w) else s

/-- After an LDL whose offsets are in range: the values as the stream reads them, outstanding, and the acquire of its order. -/
def localLoaded (x : Ctx) (w : ExtArgs) (s : State) : State :=
  let r := localEach x (accessSize w) s.freeCtr ((x.active w).map fun l => (l, x.eo w l))
  let s := if x.t.behind.isEmpty then s else { s with freeCtr := s.freeCtr + (x.active w).length }
  let s := modGroup s x.uid fun g => g.addPending x.e
    { writes := r.1.flatMap fun p => (loadWords w p.2).zipIdx.flatMap fun q => x.wv p.1 (w.d.toNat + q.2) q.1, await := none }
  let s := x.seeLocal r.2 s
  if ordered w then acquire s x (orderScope w) else s

/-- After a store of n bytes whose accesses have been checked; reg gives the registers of the data (R372). -/
def stored (x : Ctx) (n : Nat) (regs : Nat → List RegRef) (val : Nat → Nat) (s : State) (acc : List Acc) : State :=
  let r := x.unordered acc s
  (storeUnits n (r.1.map fun a => (a, val a.key))).foldl
    (fun s p => x.storeUnit s p.1.va p.1.pa (min n 8) p.2 (x.g.poisoned (regs p.1.key))) r.2

/-- The registers that a lane's or a slice's store takes its data from. -/
def dataRegs (w : ExtArgs) (reg : Nat → Nat → RegRef) (k : Nat) : List RegRef :=
  (List.range (accessRegs w)).map fun i => reg k (w.d.toNat + i)

/-- Local offsets that R205 allows. -/
def localOk (x : Ctx) (n : Nat) (l : List Nat) : Prop :=
  ∀ a ∈ l, a % n = 0 ∧ a + n ≤ x.gr.launch.localSize

/-- What an atomic needs of a page (R200). -/
def atomNeed (w : ExtArgs) : Need :=
  { r := true, w := true, x := false, scope := some (atomScope w), atom := some (atomOp w) }

/-- After the atomics of an instruction: the old values outstanding where it has results, those of bad poisoned, and the acquire of its order. -/
def atomicDone (x : Ctx) (w : ExtArgs) (red : Bool) (s : State) (bad old : List (Nat × Nat)) : State :=
  let ord := (w.aux.extractLsb' 0 2).toNat
  let s := if red then s else x.results (x.atomResult w) bad old s
  if ord = 3 ∨ (ord = 1 ∧ ¬ red) then acquire s x (atomScope w) else s

/-- After the atomics of accesses that have been checked: a primary twin forwards the old values (R380). -/
def atomicsDone (x : Ctx) (w : ExtArgs) (red : Bool) (s : State) (acc : List Acc) : State :=
  let bad := acc.filterMap fun a => (poisonAt s a.pa (atomSize w)).map fun d => (a.key, d)
  let o := x.unordered acc s
  let r := atomEach x w red o.2 o.1
  let old := inOrder acc r.1
  let s := match x.t.twin with
    | some v => modTeam r.2 v fun t => { t with fwd := t.fwd ++ [(x.g.gid, x.e, old)] }
    | none => r.2
  atomicDone x w red (signAtomics s x.g.team (atomSize w) (r.1.map fun p => (p.1, p.2.2))) bad
    ((acc.map (·.key)).zip old)

/-- After the atomics of a shadow twin: it takes the old values that its primary has forwarded (R380). -/
def atomicsForwarded (x : Ctx) (w : ExtArgs) (red : Bool) (s : State) (acc : List Acc) (old : List Nat) : State :=
  atomicDone x w red
    (signAtomics (modTeam s x.g.team fun t => { t with fwd := dropForward x.g.gid x.e t.fwd }) x.g.team (atomSize w)
      ((acc.zip old).map fun p => (p.1, atomNew (atomOp w) (atomSize w) (atomUnsigned w) p.2
        (x.atomOperand w red p.1.key) (x.atomCompare w p.1.key) (atomKey x p.1.leaf)))) []
    ((acc.map (·.key)).zip old)

/-- After an STL whose offsets have been checked: two lanes that store to one offset do so in some order (R206). -/
def localStored (x : Ctx) (w : ExtArgs) (s : State) : State :=
  let r := anyOrder (x.eo w) (x.active w) s
  let units := storeUnits (accessSize w) (r.1.map fun l =>
    ({ key := l, va := x.eo w l, pa := x.eo w l, leaf := 0 }, x.storeVal w l))
  x.seeNewest (accessSize w) (r.1.map (x.eo w)) (modTeam r.2 x.g.team fun t =>
    { t with mem := units.foldl (fun m p => writeN m p.1.va (min (accessSize w) 8) p.2) t.mem })

/-- After an ATOML whose offsets have been checked (R211). -/
def localAtomics (x : Ctx) (w : ExtArgs) (s : State) : State :=
  let r := anyOrder (fun l => (x.v l w.a.toNat).toNat) (x.active w) s
  let q := atomLocal x w x.t.mem r.1
  atomicDone x w false
    (x.seeNewest (atomSize w) (r.1.map fun l => (x.v l w.a.toNat).toNat) (modTeam r.2 x.g.team fun t => { t with mem := q.2 })) [] q.1

/-- The lines in which the addresses of l lie, one for each lane that acts: of those that translate, in turn, for an instruction that has
found the TLB as old (R215). -/
def cctlLines (old : List TlbEntry) (x : Ctx) : State → List Nat → List Nat
  | _, [] => []
  | s, va :: l => (((quietAddr old x s va).1).map (· / 128)).toList ++ cctlLines old x (quietAddr old x s va).2 l

/-- Where the accesses that an instruction makes stop it (R205, R217): the checks are made in turn on all of them, and the first fault of
the order that any has is raised; where none has one and no target refuses, one that needs a route which is to come stops it for now (R409). -/
def accessesStop (i : Instr) (how : IssueHow) (n : Need) (align : Nat) (l : Ctx → List (Nat × Nat))
    (lanesOf : Ctx → Nat → List Nat) : Prop :=
  ∀ s x, issues how s x = true →
    let z := waited how x
    (∀ e, (l z).find? (fun e => decide (e.2 % align ≠ 0)) = some e →
      exec i s = .next (streamFault (waitedState how x s) z 0x20 0 (BitVec.ofNat 64 e.2))) ∧
    (∀ r miss v, checkAccesses (waitedState how x s) z.core z.gr.space false n align (l z) = (.ok r, miss, v) →
      (∀ a ∈ r, targetRefuses (z.count v 11 miss) a.1 = false) → r.length = (l z).length →
      (∃ a ∈ r, mustWait (z.count v 11 miss) z.core n a.1 = true) → exec i s = .next (waitedState how x s)) ∧
    ∀ r miss v, (∀ e ∈ l z, e.2 % align = 0) → checkEach z.core z.gr.space false n (waitedState how x s) (l z) = (r, miss, v) →
      (∀ d a, d < 4 → (∀ d', d' < d → firstAccess d' r = none) → firstAccess d r = some a →
        exec i s = .next (streamFault (z.count v 11 miss) z 0x22 d (BitVec.ofNat 64 a))) ∧
      ∀ k b q, (∀ d, d < 4 → firstAccess d r = none) →
        (r.filterMap fun e => match e.2.2 with | .page b => some (e.1, b) | _ => none) = (k, b) :: q →
        exec i s = .next (takeTrap (z.count v 11 miss) z.uid z.e
          { cause := 1, detail := 0, faddr := BitVec.ofNat 64 b, fmask := laneMask (((k :: q.map (·.1))).flatMap (lanesOf z)), need := [] })

/-- Where local offsets stop an instruction (R205). -/
def localStops (i : Instr) (how : IssueHow) (n : Nat) (l : Ctx → List Nat) : Prop :=
  faultsWith i how 0x20 0 (fun x _ => ∃ a ∈ l x, a % n ≠ 0) ∧
  faultsWith i how 0x21 0 fun x _ => (∀ a ∈ l x, a % n = 0) ∧ ∃ a ∈ l x, x.gr.launch.localSize < a + n

/-- Every group is as it was, but for results that are outstanding in the stream's own. -/
def keepsGroups (x : Ctx) (s u : State) : Prop :=
  (∀ k, k ≠ x.uid → kget u.groups k = kget s.groups k) ∧
  ∀ g, kget s.groups x.uid = some g → ∃ g', kget u.groups x.uid = some g' ∧
    (∀ r, g'.reg r = g.reg r) ∧ g'.fstat = g.fstat ∧ g'.slices = g.slices ∧ g'.h = g.h ∧ g'.budget = g.budget

/-- Every team has the local memory and the tag table that it had. -/
def keepsLocal (s u : State) : Prop :=
  ∀ k t, kget u.teams k = some t → ∃ q, kget s.teams k = some q ∧ t.mem = q.mem ∧ t.tags = q.tags

/-- Every team is as it was, but for what the slices of the stream's own have seen of the writes of engines and sequencers. -/
def keepsTeams (x : Ctx) (s u : State) : Prop :=
  (∀ k, k ≠ x.g.team → kget u.teams k = kget s.teams k) ∧
  ∀ t, kget s.teams x.g.team = some t → ∃ v, kget u.teams x.g.team = some { t with behind := v }

/-- Of all teams at most the stream's has changed, and of it only bytes of local memory within n of the offsets of l. -/
def localFrame (x : Ctx) (s u : State) (n : Nat) (l : List Nat) : Prop :=
  (∀ k, k ≠ x.g.team → kget u.teams k = kget s.teams k) ∧
  ∀ t, kget s.teams x.g.team = some t → fwf t.mem = true → ∃ m v, kget u.teams x.g.team = some { t with mem := m, behind := v } ∧
    ∀ b, (∀ a ∈ l, b < a ∨ a + n ≤ b) → fget m b = fget t.mem b

/-- The batch number that an MWAIT names, and how many closes ago that batch was closed, modulo 256 (R275). -/
def mwaitNumber (x : Ctx) (w : ExtArgs) : Nat :=
  (match w.lit with
    | some l => l.extractLsb' 0 32
    | none => x.lowS w.a.toNat : Word).toNat
def mwaitDist (x : Ctx) (w : ExtArgs) : Nat := (x.g.mbatch - BitVec.ofNat 8 (mwaitNumber x w)).toNat

/-- After a QFENCE over the queues of m (R267): it stands last in each of them, and every fence that may free has freed. -/
def fenced (x : Ctx) (s : State) (m : BitVec 4) : State :=
  let o := x.engOp s.opCtr (.qfence m)
  let s := modCore s x.core fun q =>
    { q with fifo := if m.getLsbD 0 then q.fifo ++ [x.matOp o.id (.qfence m)] else q.fifo
             copyq := if m.getLsbD 1 then q.copyq ++ [o] else q.copyq
             collq := if m.getLsbD 3 then q.collq ++ [o] else q.collq }
  let s := if m.getLsbD 2 then modRoute s (dieOfCore x.core) (· ++ [o]) else s
  freeFences (nextOp s)

/-- The stream is descheduled in a wait of len bytes with timeout operand t (R396). -/
def descheduled (x : Ctx) (s : State) (f : WaitFor) (t : Word) (len : Nat) : State :=
  modGroup s x.uid fun g => g.modSplit x.e fun p =>
    { p with run := RunState.wait { for_ := f, since := s.dtime, ticks := timeoutTicks t, len := len } }

/-! ### Link sequencers -/

/-- A context after an instruction that has written K register d (R311). -/
def kSet (x : SCtx) (d : BitVec 4) (v : DWord) : SeqCtx := { x.c with k := fset x.c.k d.toNat v, pc := x.c.pc + 1 }

/-- What a receive waits for outside the log modes (R307): the chunk of a sender, where it goes, and what combines and forwards it. -/
def rxOf (dst loc : Seg) (len : BitVec 12) (tag : BitVec 16) (src : Route) (cmb : Option (BitVec 3)) (fwd : Option Route) : RxOp :=
  { dst := dst, loc := loc, len := chunkLen len, tag := tag, src := src, cmb := cmb, fwd := fwd, log := [], seq := none }

/-- The PUT that PUTK sends (R325): key and offset from K[a], the value K[b], package and word from K[d]. -/
def putkMsg (s : State) (x : SCtx) (a b d : BitVec 4) : PutMsg :=
  { pid := x.coll.pid
    src := s.pkg
    dst := BitVec.ofNat 12 ((x.k d).toNat % 2 ^ 12)
    key := (x.k a).extractLsb' 32 32
    offset := (x.k a).extractLsb' 0 32
    value := x.k b
    word := (x.k d).extractLsb' 32 32
    putk := true
    issuer := .ctx (BitVec.ofNat 5 x.sq) (BitVec.ofNat 2 x.cx) x.c.cid x.c.pc }

/-- The context has come to a switch point and waits (R302); where what it waits for is there already, it takes it. -/
def seqWaits (u : State) (x : SCtx) (w : SeqWait) : State :=
  advanceCtx (leaveSeq u x.sq x.cx (atSwitch fun c => { c with state := .waiting, wait := w, since := u.dtime })) x.sq x.cx

/-! ### Rings -/

/-- The head entry of ring r, at index i with bytes v, may start, is well-formed, and is of a kind (R297, R298). -/
def headIs (s : State) (r kind i v : Nat) : Prop :=
  headEntry s r = some (i, v) ∧ (entryFields v).ok = true ∧ (entryFields v).kind = kind

/-- The head of ring r has passed entry i. -/
def passed (s : State) (r i : Nat) : State := modRing s r fun q => { q with head := BitVec.ofNat 32 (q.wrap (i + 1)) }

/-- An L2 has answered a snoop and holds the line in state st (R249). -/
def snooped (s : State) (n : Snoop) (answer : String) (st : LineState) : State :=
  sendCoh (setL2 s n.die.toNat n.line st) answer (.die n.die) n.requester n.line (noStamp s)

/-- An L2 has given up a dirty line to an Invalidate or a BackInvalidate: the data goes to who asked, and to the home where that is
another (R249). -/
def gaveUp (s : State) (n : Snoop) : State :=
  let t := snooped s n "DataFwd" .inv
  if n.requester = homeNode n.line then t else sendCoh t "DataHome" (.die n.die) (homeNode n.line) n.line (noStamp t)

/-! ### The invariant -/

/-- The register maps of a slice are in canonical form. -/
def sliceOk (q : Slice) : Bool := fwf q.c && fwf q.s

/-- The register maps of a handler bank are in canonical form. -/
def handlerOk (h : Handler) : Bool := fwf h.v && fwf h.s && fwf h.p && fwf h.c

/-- The register maps of a group are in canonical form. -/
def groupOk (g : Group) : Bool :=
  fwf g.v && fwf g.p && g.slices.all sliceOk && g.handler.all handlerOk

/-- The management registers hold values that R410 allows. -/
def mgmtOk (m : Mgmt) : Bool :=
  decide (2 ≤ m.ecthr ∧ m.ecthr ≤ 8) && decide (1 ≤ m.ecwin ∧ m.ecwin ≤ 2 ^ 23) && decide (m.fwsel < 8)
    && decide (1 ≤ m.alivedl ∧ m.alivedl ≤ 1024) && decide (m.islsel < 64) && decide (m.retidx < 1024)

/-- The maps of a sequencer, its instruction memory and its contexts' registers, are in canonical form. -/
def seqOk (q : Sequencer) : Bool := fwf q.imem && q.ctxs.all fun c => fwf c.k

/-- The invariant: memory, the register maps and the tables of grids, teams and groups are in canonical form, the tables of fixed size
have their sizes (R17, R23, R300, R408), and the management registers hold values that R410 allows. -/
def inv (s : State) : Bool :=
  Memory.wf s.mem && s.groups.all (fun e => groupOk e.2) && mgmtOk s.mgmt
    && kwf s.groups && kwf s.teams && kwf s.grids && s.seqs.all seqOk
    && decide (s.seqs.length = 24) && decide (s.links.length = 24) && decide (s.ctls.length = 8)
    && decide (s.islands.length = 64) && decide (s.pools.length = 4) && decide (s.routeq.length = 4)

end Sys2Proof.Safety
end

