-- ==== Sys2Proof/Certificates/Slice0/Obligations.lean ====
section
/-! DEFINITION. The statements for the provers: what the rules of the spec say of reset, the step, the instructions and the events. -/

open Sys2Proof Sys2Proof.Machine

/-- The scalar arithmetic, logic and shift instructions (R141, R124): each writes its result to S[d] of every issuing
slice, from that slice's own copies of its sources. The immediate forms of SLI write the sign-extended immediate or
literal [31:0]. -/
def Obligations.scalar_arithmetic_results : Prop :=
  (∀ y d imm, Safety.writesNow (.sli y d imm) (howSli y d false) fun x => (x.sl.flatMap fun k => x.ws k d.toNat
    (imm.signExtend 32), 0)) ∧
  (∀ y d v, Safety.writesNow (.sliL y d v) (howSli y d true) fun x => (x.sl.flatMap fun k => x.ws k d.toNat
    (v.extractLsb' 0 32), 0)) ∧
  (Safety.inForms 0x21 .smov .smovX fun i how w => Safety.writesNow i how (sliceOp w fun x k => x.s k w.a.toNat)) ∧
  (Safety.inForms3 0x22 .sadd .saddL .saddX fun i how w => Safety.writesNow i how (sliceOp w fun x k => x.s k
    w.a.toNat + x.bS w k)) ∧
  (Safety.inForms3 0x23 .ssub .ssubL .ssubX fun i how w => Safety.writesNow i how (sliceOp w fun x k => x.s k
    w.a.toNat - x.bS w k)) ∧
  (Safety.inForms3 0x24 .smul .smulL .smulX fun i how w => Safety.writesNow i how (sliceOp w fun x k => x.s k
    w.a.toNat * x.bS w k)) ∧
  (Safety.inForms3 0x25 .smulh .smulhL .smulhX fun i how w => Safety.writesNow i how (sliceOp w fun x k => if
    w.sub.getLsbD 0 then ((x.s k w.a.toNat).zeroExtend 64 * (x.bS w k).zeroExtend 64).extractLsb' 32 32 else ((x.s k
    w.a.toNat).signExtend 64 * (x.bS w k).signExtend 64).extractLsb' 32 32)) ∧
  (Safety.inForms3 0x26 .sand .sandL .sandX fun i how w => Safety.writesNow i how (sliceOp w fun x k => x.s k
    w.a.toNat &&& x.bS w k)) ∧
  (Safety.inForms3 0x27 .sor .sorL .sorX fun i how w => Safety.writesNow i how (sliceOp w fun x k => x.s k w.a.toNat
    ||| x.bS w k)) ∧
  (Safety.inForms3 0x28 .sxor .sxorL .sxorX fun i how w => Safety.writesNow i how (sliceOp w fun x k => x.s k
    w.a.toNat ^^^ x.bS w k)) ∧
  (Safety.inForms3 0x29 .sshl .sshlL .sshlX fun i how w => Safety.writesNow i how (sliceOp w fun x k => if 32 ≤ (x.bS
    w k).toNat then 0 else x.s k w.a.toNat <<< (x.bS w k).toNat)) ∧
  (Safety.inForms3 0x2A .sshr .sshrL .sshrX fun i how w => Safety.writesNow i how (sliceOp w fun x k => if 32 ≤ (x.bS
    w k).toNat then 0 else x.s k w.a.toNat >>> (x.bS w k).toNat)) ∧
  (Safety.inForms3 0x2B .ssra .ssraL .ssraX fun i how w => Safety.writesNow i how (sliceOp w fun x k => (x.s k
    w.a.toNat).sshiftRight (min (x.bS w k).toNat 32))) ∧
  (Safety.inForms3 0x2C .smin .sminL .sminX fun i how w => Safety.writesNow i how (sliceOp w fun x k => if
    Safety.below (w.sub.getLsbD 0) (x.s k w.a.toNat) (x.bS w k) then x.s k w.a.toNat else x.bS w k)) ∧
  (Safety.inForms3 0x2D .smax .smaxL .smaxX fun i how w => Safety.writesNow i how (sliceOp w fun x k => if
    Safety.below (w.sub.getLsbD 0) (x.s k w.a.toNat) (x.bS w k) then x.bS w k else x.s k w.a.toNat))

/-- SSEL, SPOPC, SCMP, VOTE, the condition logic and SETC (R142 to R145). -/
def Obligations.scalar_condition_results : Prop :=
  (Safety.inForms3 0x2E .ssel .sselL .sselX fun i how w => Safety.writesNow i how (sliceOp w fun x k => if x.c k
    (w.aux.toNat % 8) then x.s k w.a.toNat else x.bS w k)) ∧
  (Safety.inForms 0x2F .spopc .spopcX fun i how w => Safety.writesNow i how (sliceOp w fun x k => BitVec.ofNat 32
    ((List.range 32).countP fun i => (x.s k w.a.toNat).getLsbD i))) ∧
  (Safety.inForms3 0x30 .scmp .scmpL .scmpX fun i how w => Safety.writesNow i how (fun x => (x.sl.flatMap fun k =>
    x.wc k (cdDest w) (combineBit (combOf w) (intCompare (cdCode w) (x.s k w.a.toNat) (x.bS w k)) (x.c k (w.aux.toNat
    % 8) != w.aux.getLsbD 3)), 0))) ∧
  (Safety.inForms 0x31 .vote .voteX fun i how w => Safety.writesNow i how (fun x => (if w.sub = 0 then (if x.g.width =
    64 then x.sl.flatMap fun k => x.wss k w.d.toNat (laneMask (x.lanes.filter fun l => x.p l w.a.toNat)) else x.wsAll
    w.d.toNat ((laneMask (x.lanes.filter fun l => x.p l w.a.toNat)).extractLsb' 0 32)) else if w.sub = 1 then
    x.sl.flatMap fun k => x.wc k w.d.toNat (x.lanes.all fun l => x.p l w.a.toNat) else x.sl.flatMap fun k => x.wc k
    w.d.toNat (x.lanes.any fun l => x.p l w.a.toNat), 0))) ∧
  (Safety.inForms 0x32 .cand .candX fun i how w => Safety.writesNow i how (fun x => (x.sl.flatMap fun k => x.wc k
    w.d.toNat ((x.c k w.a.toNat != w.sub.getLsbD 0) && (x.c k w.b.toNat != w.sub.getLsbD 1)), 0))) ∧
  (Safety.inForms 0x33 .cor .corX fun i how w => Safety.writesNow i how (fun x => (x.sl.flatMap fun k => x.wc k
    w.d.toNat ((x.c k w.a.toNat != w.sub.getLsbD 0) || (x.c k w.b.toNat != w.sub.getLsbD 1)), 0))) ∧
  (Safety.inForms 0x34 .cxor .cxorX fun i how w => Safety.writesNow i how (fun x => (x.sl.flatMap fun k => x.wc k
    w.d.toNat ((x.c k w.a.toNat != w.sub.getLsbD 0) != (x.c k w.b.toNat != w.sub.getLsbD 1)), 0))) ∧
  (Safety.inForms 0x35 .setc .setcX fun i how w => Safety.writesNow i how (fun x => (x.sl.flatMap fun k => x.wc k
    w.d.toNat (x.s k w.a.toNat != 0), 0)))

/-- The vector integer arithmetic of R146 to R149 per active lane, at the width of its type: sums and differences wrap
or, with SAT, clamp and raise SA; minimum and maximum, products, shifts by a 32-bit count, absolute value (the most
negative value yields itself) and negation. In an extended word with a literal at B and SP = 0b10 source B is the
scalar: the model's choice (log 55). -/
def Obligations.vector_arithmetic_results : Prop :=
  (Safety.inForms3 0x40 .iadd .iaddL .iaddX fun i how w => Safety.writesNow i how (fun x => if tWide w then perLane
    (x.active w) fun l => let r := if w.sat then clampTo 64 (tUnsigned w) (valT (tUnsigned w) (x.a64 w l) + valT
    (tUnsigned w) (x.b64 w l)) else (x.a64 w l + x.b64 w l, 0); (x.wvv l w.d.toNat r.1, r.2) else perLane (x.active w)
    fun l => let r := if w.sat then clampTo 32 (tUnsigned w) (valT (tUnsigned w) (x.a32 w l) + valT (tUnsigned w)
    (x.b32 w l)) else (x.a32 w l + x.b32 w l, 0); (x.wv l w.d.toNat r.1, r.2))) ∧
  (Safety.inForms3 0x41 .isub .isubL .isubX fun i how w => Safety.writesNow i how (fun x => if tWide w then perLane
    (x.active w) fun l => let r := if w.sat then clampTo 64 (tUnsigned w) (valT (tUnsigned w) (x.a64 w l) - valT
    (tUnsigned w) (x.b64 w l)) else (x.a64 w l - x.b64 w l, 0); (x.wvv l w.d.toNat r.1, r.2) else perLane (x.active w)
    fun l => let r := if w.sat then clampTo 32 (tUnsigned w) (valT (tUnsigned w) (x.a32 w l) - valT (tUnsigned w)
    (x.b32 w l)) else (x.a32 w l - x.b32 w l, 0); (x.wv l w.d.toNat r.1, r.2))) ∧
  (Safety.inForms3 0x42 .imul .imulL .imulX fun i how w => Safety.writesNow i how (Safety.byType w (fun x l => x.a64 w
    l * x.b64 w l) fun x l => x.a32 w l * x.b32 w l)) ∧
  (Safety.inForms3 0x43 .imulh .imulhL .imulhX fun i how w => Safety.writesNow i how (Safety.byType w (fun x l => if
    tUnsigned w then ((x.a64 w l).zeroExtend 128 * (x.b64 w l).zeroExtend 128).extractLsb' 64 64 else ((x.a64 w
    l).signExtend 128 * (x.b64 w l).signExtend 128).extractLsb' 64 64) fun x l => if tUnsigned w then ((x.a32 w
    l).zeroExtend 64 * (x.b32 w l).zeroExtend 64).extractLsb' 32 32 else ((x.a32 w l).signExtend 64 * (x.b32 w
    l).signExtend 64).extractLsb' 32 32)) ∧
  (Safety.inForms3 0x44 .imin .iminL .iminX fun i how w => Safety.writesNow i how (Safety.byType w (fun x l => if
    Safety.below (tUnsigned w) (x.a64 w l) (x.b64 w l) then x.a64 w l else x.b64 w l) fun x l => if Safety.below
    (tUnsigned w) (x.a32 w l) (x.b32 w l) then x.a32 w l else x.b32 w l)) ∧
  (Safety.inForms3 0x45 .imax .imaxL .imaxX fun i how w => Safety.writesNow i how (Safety.byType w (fun x l => if
    Safety.below (tUnsigned w) (x.a64 w l) (x.b64 w l) then x.b64 w l else x.a64 w l) fun x l => if Safety.below
    (tUnsigned w) (x.a32 w l) (x.b32 w l) then x.b32 w l else x.a32 w l)) ∧
  (Safety.inForms3 0x49 .shl .shlL .shlX fun i how w => Safety.writesNow i how (Safety.byType w (fun x l => if 64 ≤
    (x.b32 w l).toNat then 0 else x.a64 w l <<< (x.b32 w l).toNat) fun x l => if 32 ≤ (x.b32 w l).toNat then 0 else
    x.a32 w l <<< (x.b32 w l).toNat)) ∧
  (Safety.inForms3 0x4A .shr .shrL .shrX fun i how w => Safety.writesNow i how (Safety.byType w (fun x l => if 64 ≤
    (x.b32 w l).toNat then 0 else x.a64 w l >>> (x.b32 w l).toNat) fun x l => if 32 ≤ (x.b32 w l).toNat then 0 else
    x.a32 w l >>> (x.b32 w l).toNat)) ∧
  (Safety.inForms3 0x4B .sra .sraL .sraX fun i how w => Safety.writesNow i how (Safety.byType w (fun x l => (x.a64 w
    l).sshiftRight (min (x.b32 w l).toNat 64)) fun x l => (x.a32 w l).sshiftRight (min (x.b32 w l).toNat 32))) ∧
  (Safety.inForms3 0x4C .imad .imadL .imadX fun i how w => Safety.writesNow i how (Safety.byType w (fun x l => x.a64 w
    l * x.b64 w l + x.c64 w l) fun x l => x.a32 w l * x.b32 w l + x.c32 w l)) ∧
  (Safety.inForms3 0x4D .imadw .imadwL .imadwX fun i how w => Safety.writesNow i how (laneOp64 w fun x l => (if
    tUnsigned w then (x.a32 w l).zeroExtend 64 * (x.b32 w l).zeroExtend 64 else (x.a32 w l).signExtend 64 * (x.b32 w
    l).signExtend 64) + x.c64 w l)) ∧
  (Safety.inForms 0x4E .iabs .iabsX fun i how w => Safety.writesNow i how (Safety.byType w (fun x l => if !tUnsigned w
    && (x.a64 w l).msb then -(x.a64 w l) else x.a64 w l) fun x l => if !tUnsigned w && (x.a32 w l).msb then -(x.a32 w
    l) else x.a32 w l)) ∧
  (Safety.inForms 0x4F .ineg .inegX fun i how w => Safety.writesNow i how (Safety.byType w (fun x l => -(x.a64 w l))
    fun x l => -(x.a32 w l)))

/-- Logic, bit counts, moves, bit fields, compares into predicates, selection and predicate logic (R123, R146, R149 to
R153). A base MOVI writes every lane of the stream. In an extended word with a literal at B and SP = 0b10 source B
is the scalar: the model's choice (log 55). -/
def Obligations.vector_bit_and_select_results : Prop :=
  (∀ y d imm, Safety.writesNow (.movi y d imm) (howMovi y d false) fun x => (x.lanes.flatMap fun l => x.wv l d.toNat
    (imm.signExtend 32), 0)) ∧
  (∀ y d v, Safety.writesNow (.moviL y d v) (howMovi y d true) fun x => (x.lanes.flatMap fun l => x.wv l d.toNat
    (v.extractLsb' 0 32), 0)) ∧
  (∀ w, Safety.writesNow (.moviX w) (howOp 0x55 true w) (if w.sub.getLsbD 0 then laneOp64 w fun _ _ => w.lit.getD 0
    else laneOp32 w fun _ _ => (w.lit.getD 0).extractLsb' 0 32)) ∧
  (Safety.inForms3 0x46 .and .andL .andX fun i how w => Safety.writesNow i how (Safety.byType w (fun x l => x.a64 w l
    &&& x.b64 w l) fun x l => x.a32 w l &&& x.b32 w l)) ∧
  (Safety.inForms3 0x47 .or .orL .orX fun i how w => Safety.writesNow i how (Safety.byType w (fun x l => x.a64 w l |||
    x.b64 w l) fun x l => x.a32 w l ||| x.b32 w l)) ∧
  (Safety.inForms3 0x48 .xor .xorL .xorX fun i how w => Safety.writesNow i how (Safety.byType w (fun x l => x.a64 w l
    ^^^ x.b64 w l) fun x l => x.a32 w l ^^^ x.b32 w l)) ∧
  (Safety.inForms 0x50 .not .notX fun i how w => Safety.writesNow i how (Safety.byType w (fun x l => ~~~(x.a64 w l))
    fun x l => ~~~(x.a32 w l))) ∧
  (Safety.inForms 0x53 .brev .brevX fun i how w => Safety.writesNow i how (Safety.byType w (fun x l => (x.a64 w
    l).reverse) fun x l => (x.a32 w l).reverse)) ∧
  (Safety.inForms 0x51 .popc .popcX fun i how w => Safety.writesNow i how (laneOp32 w fun x l => BitVec.ofNat 32 (if
    tWide w then (List.range 64).countP fun i => (x.a64 w l).getLsbD i else (List.range 32).countP fun i => (x.a32 w
    l).getLsbD i))) ∧
  (Safety.inForms 0x52 .clz .clzX fun i how w => Safety.writesNow i how (laneOp32 w fun x l => BitVec.ofNat 32 (if
    tWide w then leadingZeros (x.a64 w l) else leadingZeros (x.a32 w l)))) ∧
  (Safety.inForms 0x54 .mov .movX fun i how w => Safety.writesNow i how (Safety.byType w (fun x l => x.a64 w l) fun x
    l => x.a32 w l)) ∧
  (Safety.inForms3 0x56 .bfe .bfeL .bfeX fun i how w => Safety.writesNow i how (laneOp32 w fun x l => bfeWord
    (w.sub.getLsbD 0) (x.a32 w l) (x.b32 w l))) ∧
  (Safety.inForms3 0x57 .bfi .bfiL .bfiX fun i how w => Safety.writesNow i how (laneOp32 w fun x l => bfiWord (x.a32 w
    l) (x.b32 w l) (x.c32 w l))) ∧
  (Safety.inForms3 0x58 .icmpp .icmppL .icmppX fun i how w => Safety.writesNow i how (fun x => ((x.active w).flatMap
    fun l => x.wp l (cdDest w) (combineBit (combOf w) (if w.sub.getLsbD 0 then intCompare (cdCode w) (x.a64 w l)
    (x.b64 w l) else intCompare (cdCode w) (x.a32 w l) (x.b32 w l)) (x.p l (w.aux.toNat % 8) != w.aux.getLsbD 3)),
    0))) ∧
  (Safety.inForms3 0x59 .sel .selL .selX fun i how w => Safety.writesNow i how (laneOp32 w fun x l => if x.p l
    (w.aux.toNat % 8) != w.aux.getLsbD 3 then x.a32 w l else x.b32 w l)) ∧
  (Safety.inForms 0x5A .pset .psetX fun i how w => Safety.writesNow i how (fun x => ((x.active w).flatMap fun l =>
    x.wp l w.d.toNat (if w.sub = 0 then x.p l w.a.toNat && x.p l w.b.toNat else if w.sub = 1 then x.p l w.a.toNat ||
    x.p l w.b.toNat else if w.sub = 2 then x.p l w.a.toNat != x.p l w.b.toNat else if w.sub = 3 then x.p l w.a.toNat
    && !x.p l w.b.toNat else x.p l w.a.toNat), 0)))

/-- Floating point per active lane (R154 to R159, R187): the exact result of the sources after their sign modifiers,
rounded by RM and clamped by SAT, with its sticky flags; FRCP, FRSQ, FSQRT, FEXP2 and FLOG2 land later. Where R157
leaves the choice between two neighbours of an exact value, the value is the model's free one, whatever it is. In an
extended word with a literal at B and SP = 0b10 source B is the scalar: the model's choice (log 55). -/
def Obligations.floating_point_results : Prop :=
  (Safety.inForms3 0x60 .fadd .faddL .faddX fun i how w => Safety.writesNow i how (laneOpF w fun x l => fpAdd fmt32
    (rmOf w) w.sat (fp32 (fA w x l)) (fp32 (fB w x l)))) ∧
  (Safety.inForms3 0x61 .fsub .fsubL .fsubX fun i how w => Safety.writesNow i how (laneOpF w fun x l => fpAdd fmt32
    (rmOf w) w.sat (fp32 (fA w x l)) (fp32 (fB w x l)).neg)) ∧
  (Safety.inForms3 0x62 .fmul .fmulL .fmulX fun i how w => Safety.writesNow i how (laneOpF w fun x l => fpMul fmt32
    (rmOf w) w.sat (fp32 (fA w x l)) (fp32 (fB w x l)))) ∧
  (Safety.inForms3 0x66 .ffma .ffmaL .ffmaX fun i how w => Safety.writesNow i how (laneOpF w fun x l => fpFma fmt32
    (rmOf w) w.sat (fp32 (fA w x l)) (fp32 (fB w x l)) (fp32 (fC w x l)))) ∧
  (Safety.inForms3 0x63 .fmin .fminL .fminX fun i how w => Safety.writesNow i how (laneOpF w fun x l => ((fpMinMax
    false (fA w x l) (fB w x l)).1.toNat, (fpMinMax false (fA w x l) (fB w x l)).2))) ∧
  (Safety.inForms3 0x64 .fmax .fmaxL .fmaxX fun i how w => Safety.writesNow i how (laneOpF w fun x l => ((fpMinMax
    true (fA w x l) (fB w x l)).1.toNat, (fpMinMax true (fA w x l) (fB w x l)).2))) ∧
  (Safety.inForms3 0x65 .fmaxa .fmaxaL .fmaxaX fun i how w => Safety.writesNow i how (laneOpF w fun x l => ((fpMaxA
    (fA w x l) (fB w x l)).1.toNat, (fpMaxA (fA w x l) (fB w x l)).2))) ∧
  (Safety.inForms 0x67 .frcp .frcpX fun i how w => Safety.writesLater i how (laneOpF w fun x l => Safety.rounded w.sat
    (fpRcp (fp32 (fA w x l))))) ∧
  (Safety.inForms 0x68 .frsq .frsqX fun i how w => Safety.writesLater i how (laneOpF w fun x l => Safety.rounded w.sat
    (fpRsq (fp32 (fA w x l))))) ∧
  (Safety.inForms 0x69 .fsqrt .fsqrtX fun i how w => Safety.writesLater i how (laneOpF w fun x l => Safety.rounded
    w.sat (fpSqrt (fp32 (fA w x l))))) ∧
  (Safety.inForms 0x6A .fexp2 .fexp2X fun i how w => Safety.writesLater i how (laneOpF w fun x l => fpExp2 w.sat (fA w
    x l))) ∧
  (Safety.inForms 0x6B .flog2 .flog2X fun i how w => Safety.writesLater i how (laneOpF w fun x l => fpLog2 w.sat (fA w
    x l))) ∧
  (Safety.inForms3 0x6C .fcmpp .fcmppL .fcmppX fun i how w => Safety.writesNow i how (fun x => perLane (x.active w)
    fun l => (x.wp l (cdDest w) (combineBit (combOf w) (fpCompare (cdCode w) (fp32 (x.a32 w l)) (fp32 (x.b32 w l))).1
    (x.p l (w.aux.toNat % 8) != w.aux.getLsbD 3)), (fpCompare (cdCode w) (fp32 (x.a32 w l)) (fp32 (x.b32 w l))).2))) ∧
  (Safety.inForms 0x6D .fclass .fclassX fun i how w => Safety.writesNow i how (laneOp32 w fun x l => fpClass (fA w x
    l))) ∧
  (Safety.inForms3 0x6E .fscale .fscaleL .fscaleX fun i how w => Safety.writesNow i how (laneOpF w fun x l => fpScale
    (rmOf w) w.sat (fp32 (x.a32 w l)) (x.b32 w l).toInt))

/-- Packed 16-bit arithmetic (R160), FDOT4 (R188) and the conversions (R182 to R186, R429): each active lane's result lands at issue. A
narrowing divides by the slot's scale and rounds with its mode, its saturation and its key; a widening multiplies by the scale; PACK and
UNPACK take two elements at position AUX of the packed stream and PACK leaves its other bits; FDOT4 sums the products of a register's
elements, scaled, to the addend and rounds once. In an extended word with a literal at B and SP = 0b10 source B is the scalar: the model's
choice (log 55). So are the source of PACK's element 1, the element's own (log 60), the flag IV of QSCALE's zero times infinity and the
sign of its zeros but for the scale +0 (log 61), and the sign of an exact zero sum in FDOT4 (log 67). -/
def Obligations.packed_and_conversion_results : Prop :=
  (Safety.inForms3 0x6F .hadd2 .hadd2L .hadd2X fun i how w => Safety.writesNow i how (halfOp w fun a b _ => fpAdd
    (halfFmt w) (rmOf w) w.sat a b)) ∧
  (Safety.inForms3 0x70 .hmul2 .hmul2L .hmul2X fun i how w => Safety.writesNow i how (halfOp w fun a b _ => fpMul
    (halfFmt w) (rmOf w) w.sat a b)) ∧
  (Safety.inForms3 0x71 .hfma2 .hfma2L .hfma2X fun i how w => Safety.writesNow i how (halfOp w fun a b c => fpFma
    (halfFmt w) (rmOf w) w.sat a b c)) ∧
  (Safety.inForms 0x72 .fdot4 .fdot4X fun i how w => Safety.writesNow i how (laneOpF w fun x l => fpDot (match
    x.rmSlot w (x.slot w.fs).round 0 0 l 0 with | .sr _ => .rne | r => r) (w.sat || (x.slot w.fs).sat) (scaleOf
    (x.slot w.fs)) ((streamValues (x.slot w.fs).elem (x.v l w.a.toNat).toNat (dotElems (x.slot w.fs).elem)).zip
    (streamValues (x.slot w.fs).elem (x.v l w.b.toNat).toNat (dotElems (x.slot w.fs).elem))) (fp32 (x.c32 w l)))) ∧
  (Safety.inForms 0x80 .cvt .cvtX fun i how w => Safety.writesNow i how (laneOpF w fun x l =>
      if w.sub.getLsbD 0 then
        let v := valueOf (x.slot w.fs).elem ((x.v l w.a.toNat).toNat % 2 ^ elemBits (x.slot w.fs).elem)
        let r := narrowFloat fmt32 .rne false (v.quiet.mul (scaleOf (x.slot w.fs)))
        (r.1, r.2 ||| flagIf v.isSig flagIV)
      else narrow (x.slot w.fs).elem (x.rmSlot w (x.slot w.fs).round (x.slot w.fs).srkey (x.v l w.a.toNat) l 0) (w.sat
          || (x.slot w.fs).sat) ((fp32 (x.v l w.a.toNat)).divBy (scaleOf (x.slot w.fs))))) ∧
  (Safety.inForms 0x81 .cvtf .cvtfX fun i how w => Safety.writesNow i how (laneOpF w fun x l =>
      let f : Elem := if w.sub.getLsbD 0 then .bf16 else .fp16
      if w.sub.getLsbD 1 then narrowFloat fmt32 .rne false (valueOf f ((x.v l w.a.toNat).toNat % 65536)) else narrow f
          (x.rmSlot w 0 (x.slot 0).srkey (x.v l w.a.toNat) l 0) w.sat (fp32 (x.v l w.a.toNat)))) ∧
  (Safety.inForms 0x82 .cvti .cvtiX fun i how w => Safety.writesNow i how (fun x => perLane (x.active w) fun l =>
    (x.wv l w.d.toNat (if w.sub.toNat = 0 then (fpToInt false (rmOf w) w.sat (fp32 (x.v l w.a.toNat))).1 else if
    w.sub.toNat = 1 then (fpToInt true (rmOf w) w.sat (fp32 (x.v l w.a.toNat))).1 else if w.sub.toNat = 2 then
    BitVec.ofNat 32 (narrowFloat fmt32 (rmOf w) false (exactInt (x.v l w.a.toNat).toInt)).1 else BitVec.ofNat 32
    (narrowFloat fmt32 (rmOf w) false (exactInt (x.v l w.a.toNat).toNat)).1), if w.sub.toNat = 0 then (fpToInt false
    (rmOf w) w.sat (fp32 (x.v l w.a.toNat))).2 else if w.sub.toNat = 1 then (fpToInt true (rmOf w) w.sat (fp32 (x.v l
    w.a.toNat))).2 else if w.sub.toNat = 2 then (narrowFloat fmt32 (rmOf w) false (exactInt (x.v l
    w.a.toNat).toInt)).2 else (narrowFloat fmt32 (rmOf w) false (exactInt (x.v l w.a.toNat).toNat)).2))) ∧
  (Safety.inForms 0x83 .pack .packX fun i how w => Safety.writesNow i how (fun x => perLane (x.active w) fun l =>
      let b := elemBits (x.slot w.fs).elem
      let y0 := narrow (x.slot w.fs).elem (x.rmSlot w (x.slot w.fs).round (x.slot w.fs).srkey (x.v l w.a.toNat) l 0)
          (w.sat || (x.slot w.fs).sat) ((fp32 (x.v l w.a.toNat)).divBy (scaleOf (x.slot w.fs)))
      let y1 := narrow (x.slot w.fs).elem (x.rmSlot w (x.slot w.fs).round (x.slot w.fs).srkey (x.v l w.b.toNat) l 1)
          (w.sat || (x.slot w.fs).sat) ((fp32 (x.v l w.b.toNat)).divBy (scaleOf (x.slot w.fs)))
      let old := packedBits x l w.d.toNat (x.slot w.fs).elem
      let new := old / 2 ^ (b * (w.aux.toNat + 2)) * 2 ^ (b * (w.aux.toNat + 2)) + (y1.1 * 2 ^ b + y0.1) * 2 ^ (b *
          w.aux.toNat) + old % 2 ^ (b * w.aux.toNat)
      (((List.range (packRegs b)).filter fun i => decide (b * w.aux.toNat < 32 * (i + 1) ∧ 32 * i < b * (w.aux.toNat +
          2))).flatMap fun i => x.wv l (w.d.toNat + i) (BitVec.ofNat 32 (new / 2 ^ (32 * i))), y0.2 ||| y1.2))) ∧
  (Safety.inForms 0x84 .unpack .unpackX fun i how w => Safety.writesNow i how (fun x => perLane (x.active w) fun l =>
      let v0 := (streamValues (x.slot w.fs).elem (packedBits x l w.a.toNat (x.slot w.fs).elem) (w.aux.toNat + 2)).getD
          (w.aux.toNat + 0) (exactInt 0)
      let r0 := narrowFloat fmt32 .rne false (v0.quiet.mul (scaleOf (x.slot w.fs)))
      let v1 := (streamValues (x.slot w.fs).elem (packedBits x l w.a.toNat (x.slot w.fs).elem) (w.aux.toNat + 2)).getD
          (w.aux.toNat + 1) (exactInt 0)
      let r1 := narrowFloat fmt32 .rne false (v1.quiet.mul (scaleOf (x.slot w.fs)))
      (x.wv l w.d.toNat (BitVec.ofNat 32 r0.1) ++ x.wv l (w.d.toNat + 1) (BitVec.ofNat 32 r1.1), (r0.2 ||| flagIf
          v0.isSig flagIV) ||| (r1.2 ||| flagIf v1.isSig flagIV)))) ∧
  (Safety.inForms 0x85 .qscale .qscaleX fun i how w => Safety.writesNow i how (laneOpF w fun x l =>
      let p := fp32 (x.v l w.a.toNat)
      let q := fp32 (x.b32 w l)
      let e := match p with
        | .fin .. => if x.b32 w l = 0 then exactInt 0 else p.mul q
        | _ => p.mul q
      let r := narrow (x.slot w.fs).elem (x.rmSlot w (x.slot w.fs).round (x.slot w.fs).srkey (x.v l w.a.toNat) l 0)
          (w.sat || (x.slot w.fs).sat) e
      (r.1, r.2 ||| invalidOp [p, q] e)))

/-- Cross-lane instructions, RNDX and TAGQ (R161 to R166, R196): a lane reads Vr of a lane of its own stream, and zero
of a lane outside it; results land later. In an extended word with a literal at B and SP = 0b10 source B is the
scalar: the model's choice (log 55). -/
def Obligations.cross_lane_results : Prop :=
  (Safety.inForms3 0x86 .shfl .shflL .shflX fun i how w => Safety.writesLater i how (laneOp32 w fun x l => let k :=
    (x.b32 w l).toNat; let n := x.g.width; let j : Int := if w.sub.toNat = 0 then ((k % n : Nat) : Int) else if
    w.sub.toNat = 1 then (l : Int) - k else if w.sub.toNat = 2 then (l : Int) + k else ((l ^^^ (k % n) : Nat) : Int);
    if 0 ≤ j ∧ j < n then (if x.lanes.contains j.toNat then x.v j.toNat w.a.toNat else 0) else x.v l w.a.toNat)) ∧
  (Safety.inForms 0x87 .bcast .bcastX fun i how w => Safety.writesLater i how (laneOp32 w fun x _ => if
    x.lanes.contains w.b.toNat then x.v w.b.toNat w.a.toNat else 0)) ∧
  (Safety.inForms 0x88 .lred .lredX fun i how w => Safety.writesLater i how (fun x => ((x.active w).flatMap fun l =>
    x.wv l w.d.toNat ((scanList w.sub.toNat none ((x.active w).map fun l => x.v l w.a.toNat)).1.getLastD 0), (scanList
    w.sub.toNat none ((x.active w).map fun l => x.v l w.a.toNat)).2))) ∧
  (Safety.inForms 0x89 .lscan .lscanX fun i how w => Safety.writesLater i how (fun x =>
      let r := scanList (w.sub.toNat % 8) none ((x.active w).map fun l => x.v l w.a.toNat)
      (((x.active w).zip (if w.sub.getLsbD 3 then redIdentity (w.sub.toNat % 8) :: r.1 else r.1)).flatMap fun p =>
          x.wv p.1 w.d.toNat p.2, r.2))) ∧
  (Safety.inForms 0x8A .elect .electX fun i how w => Safety.writesLater i how (fun x => ((x.active w).flatMap fun l =>
    x.wp l w.d.toNat (decide ((x.active w).head? = some l)), 0))) ∧
  (Safety.inForms 0x8B .rndx .rndxX fun i how w => Safety.writesLater i how (laneOp32 w fun x l => rndx (x.vv l
    w.a.toNat) (x.ss (l / 4) w.b.toNat))) ∧
  (Safety.inForms 0xAA .tagq .tagqX fun i how w => Safety.writesLater i how (laneOp32 w fun x l => match
    x.t.tags.find? fun e => decide (e.2 = x.v l w.a.toNat) with | some e => BitVec.ofNat 32 e.1 | none => 0xFFFFFFFF))

/-! ### Reset, the step and the registers -/

/-- Reset leaves no work and no turn: no grid, team, group, space or collective, empty queues and a full free list in every core
(R135, R299), every sequencer context idle with an empty instruction memory (R335), the package number 0 and the management registers
at the reset values of R410, domain time 0 (R401), and the clock steps of every island at 0 (R416). It says nothing of memory. That no
turn is to come and that no address space stands are the model's choices (log entry 3). -/
def Obligations.reset_leaves_no_work : Prop :=
  (State.reset.grids = [] ∧ State.reset.teams = [] ∧ State.reset.groups = [] ∧ State.reset.spaces = []
      ∧ State.reset.colls = [] ∧ State.reset.rings = [] ∧ State.reset.agenda = [] ∧ State.reset.cur = none) ∧
  (∀ c, (coreAt State.reset c).fifo = [] ∧ (coreAt State.reset c).copyq = [] ∧ (coreAt State.reset c).collq = []
      ∧ (coreAt State.reset c).free = List.range 32 ∧ (coreAt State.reset c).acc = []
      ∧ (coreAt State.reset c).l1 = [] ∧ (coreAt State.reset c).tlb = []) ∧
  (∀ d, routeAt State.reset d = []) ∧
  (∀ q k, (ctxAt State.reset q k).state = .idle ∧ (ctxAt State.reset q k).pc = 0 ∧ (seqAt State.reset q).imem = []) ∧
  (State.reset.mgmt.fnmode = 0 ∧ State.reset.mgmt.ecthr = 4 ∧ State.reset.mgmt.ecwin = 65536
      ∧ State.reset.mgmt.fabmode = 0 ∧ State.reset.mgmt.hnote = 0 ∧ State.reset.mgmt.fwsel = 0
      ∧ State.reset.mgmt.islsel = 0 ∧ State.reset.mgmt.alivedl = 96 ∧ State.reset.mgmt.retidx = 0
      ∧ State.reset.mgmt.dbgctl = 0 ∧ State.reset.pkg = 0 ∧ State.reset.dtime = 0) ∧
  State.reset.islands.all (fun k => decide (k.step = 0)) = true

/-- A step with the turn of a stream fetches at that stream's program counter (R72), and where the words fetched decode to an
instruction it is the execution of that instruction (R93). Words that no encoding gives raise cause 0x10 with the number of the check
that they fail, after the wait of their switch marker (R93, R94); a fetch that fails ends the step. A trap of
the stream that waits for the handler comes first (R122). That a step with no turn to come is one of the current stream is the model's
choice (log entry 1). -/
def Obligations.step_runs_the_fetched_instruction : Prop :=
  (∀ s rest u e, s.agenda = .issue u e :: rest →
    step s = runStream { s with agenda := rest, cur := some (u, e) }) ∧
  (∀ s c, s.agenda = [] → s.cur = some c → step s = runStream s) ∧
  (∀ s x l u i, ctx? s = some x → (x.inH = true ∨ (x.g.split x.e).trap = none) → fetchInstr x s = (.inr l, u) →
    decode l = .ok i → runStream s = exec i u) ∧
  (∀ s x l u n z, ctx? s = some x → (x.inH = true ∨ (x.g.split x.e).trap = none) → fetchInstr x s = (.inr l, u) →
    decode l = .reject n → ctx? u = some z →
    let how := illegalHow (wordY (l.getD 0 0)) n
    Safety.free how z → (z.inH = true ∨ (z.g.split z.e).trap = none) →
    runStream s = .next (streamFault (waitedState how z u) (waited how z) 0x10 n 0)) ∧
  (∀ s x t u, ctx? s = some x → (x.inH = true ∨ (x.g.split x.e).trap = none) → fetchInstr x s = (.inl t, u) →
    runStream s = .next t) ∧
  ∀ s x, ctx? s = some x → x.inH = false → (x.g.split x.e).trap.isSome = true → runStream s = .next (takeWaitingTrap s x)

/-- A fetch at an address that is canonical, translates to an executable page and is not refused gives the word that memory holds there,
little-endian, where the core's instruction cache does not hold an older copy (R72, R95, R215); it changes no byte of memory. Any other
fetch names a page: an access fault 0 outside grid space, the page fault of an entry with V = 0, the access fault of an entry that is
ill-formed or of a page without X, of another class or that the target refuses. A fetch that fails, at the first word of an instruction or
at a later one, is a fetch page fault on every lane of the stream (trap cause 1, detail 1), or cause 0x22 with that detail (R72, R217).
The 64-KiB unit that an address outside grid space names is the model's reading (log entry 39). -/
def Obligations.fetch_gives_the_word_of_memory : Prop :=
  (∀ s core space va w hit u pa leaf, inGridSpace va = true → translate s core false space va = (w, hit, u) →
    checkWalk u.pkg (some (dieOfCore core)) va needX w = .ok pa leaf → targetRefuses u pa = false →
    (accessAwaited u pa = true → (kget (coreAt u core).icache (pa / 128)).isSome = true) →
    (∀ line, kget (coreAt u core).icache (pa / 128) = some line → readN line pa 4 = readN u.mem pa 4) →
    ∃ v, fetchWord s core space va = (.ok (BitVec.ofNat 32 (readN u.mem pa 4)), !hit, v) ∧ v.mem = s.mem) ∧
  (∀ s core space va, inGridSpace va = false →
    fetchWord s core space va = (.fault 0 (va / 65536 * 65536), false, s)) ∧
  (∀ s core space va w hit u, inGridSpace va = true → translate s core false space va = (w, hit, u) →
    let r := checkWalk u.pkg (some (dieOfCore core)) va needX w
    (∀ b, r = .page b → fetchWord s core space va = (.page b, !hit, u)) ∧
    (∀ d, r = .access d → fetchWord s core space va = (.fault d (walkBase w), !hit, u)) ∧
    ∀ pa leaf, r = .ok pa leaf → targetRefuses u pa = true →
      fetchWord s core space va = (.fault 4 (walkBase w), !hit, u)) ∧
  (∀ x s r v, (∀ w, r ≠ .ok w) → x.fetch s x.pc.toNat = (r, v) → fetchInstr x s = (.inl (fetchStop x r v), v)) ∧
  (∀ x s w v r t, x.fetch s x.pc.toNat = (.ok w, v) → (∀ n, decode [w] = .reject n → 3 < n) →
    x.fetchMore (lenWords (wordLen w) - 1) (x.pc.toNat + 4) v [w] = (.inl r, t) →
    fetchInstr x s = (.inl (fetchStop x r t), t)) ∧
  ∀ x s,
    (∀ b, fetchStop x (.page b) s = takeTrap s x.uid x.e
      { cause := 1, detail := 1, faddr := BitVec.ofNat 64 b, fmask := laneMask x.lanes, need := [] }) ∧
    ∀ d a, fetchStop x (.fault d a) s = streamFault s x 0x22 d (BitVec.ofNat 64 a)

/-- A step with the turn of a sequencer executes the word at the program counter of its running context (R302, R304), and a step with
the turn of an event row has that event's effect. -/
def Obligations.step_runs_sequencers_and_events : Prop :=
  (∀ s rest n x i, s.agenda = .seq n :: rest →
    sctx? { s with agenda := rest, curSeq := some n } = some x →
    x.c.lo ≤ x.c.pc.toNat → x.c.pc.toNat < x.c.lo + x.c.words → decodeSeq (fget (seqAt s n).imem x.c.pc.toNat) = some i →
    step s = exec i { s with agenda := rest, curSeq := some n }) ∧
  ∀ s rest i, s.agenda = .event i :: rest → isEvent i = true → step s = exec i { s with agenda := rest }

/-- Words written out from the encodings of R73, R74, R76, R77, R84, R86 to R88, R90, R91 and R304, base, literal and extended, decode to
the instructions they stand for, and words that no encoding gives are refused by the number of the check of R93. -/
def Obligations.written_words_decode : Prop :=
  -- sadd s3, s1, s2 (R86): OP 0x22, D 3, A 1, B 2, LEN 00, Y 0
  decode [0b0000010_0000001_0000011_00100010_0_00] = .ok (.sadd { y := false, d := 3, a := 1, b := 2 }) ∧
  -- iadd v5, v4, v3 with the switch marker (R87): OP 0x40, D 5, A 4, B 3, Y 1
  decode [0b0000011_0000100_0000101_01000000_1_00] = .ok (.iadd { y := true, d := 5, a := 4, b := 3 }) ∧
  -- sli s3, -3 (R86, R124): OP 0x20, D 3, IMM 0b11111111111101
  decode [0b11111111111101_0000011_00100000_0_00] = .ok (.sli false 3 0x3FFD) ∧
  -- bra with offset -2 (R84): OP 0x01
  decode [0b111111111111111111110_00000001_0_00] = .ok (.bra false (-2)) ∧
  -- fadd v2, v1, 1.0 with a literal (R77, R88): OP 0x60, LEN 01
  decode [0b0000000_0000001_0000010_01100000_0_01, 0x3F800000, 0]
    = .ok (.faddL { y := false, d := 2, a := 1, b := 0 } 0x3F800000) ∧
  -- a word of zeros is nop (R54, R84)
  decode [0] = .ok (.nop false) ∧
  -- iadd v300, v5, v4 under !p2 (R74, R75, R87): SUB 0, D 300, OP 0x40, LEN 10; C 0, B 4, A 5; AUX 0, SH 0, SAT 0, RM 0, GN 1, G 2, FS 0, SP 0, S 0
  decode [0b0000000000_00100101100_01000000_0_10, 0b0000000000_00000000100_00000000101, 0b00000000_000_0_000_1_010_000_00_0000000_0]
    = .ok (.iaddX { y := false, d := 300, sub := 0, a := 5, b := 4, c := 0, s := 0, sp := 0, fs := 0, g := 2, gn := true, rm := 0,
                    sat := false, sh := 0, aux := 0, lit := none }) ∧
  -- ld v2, v4, s1 (R90): OP 0xA0, D 2, A 4, B 1
  decode [0b0000001_0000100_0000010_10100000_0_00] = .ok (.ld { y := false, d := 2, a := 4, b := 1 }) ∧
  -- mma h3, v8, v16 (R91): OP 0xC0, D 3, A 8, B 16
  decode [0b0010000_0001000_0000011_11000000_0_00] = .ok (.mma { y := false, d := 3, a := 8, b := 16 }) ∧
  -- txc k1, k2, 2048 bytes, link 5, tag 9 (R304): TAG 9, LNK 5, LEN 7, B 2, A 1, D 0, SOP 1
  decodeSeq 0b0000000000001001_000000000000000_00101_000000000111_0010_0001_0000_0001 = some (.txc 1 2 7 5 9) ∧
  -- words that no encoding gives, by the check that they fail (R93): OP 0x3F unassigned, nop with LEN 10, and nop with LEN 01
  decode [0b0000000_0000000_0000000_00111111_0_00] = .reject 1 ∧
  decode [0b0000000_0000000_0000000_00000000_0_10] = .reject 2 ∧
  decode [0b0000000_0000000_0000000_00000000_0_01] = .reject 3

/-- Decoding gives back every well-formed instruction from its encoding: each group instruction, with every operand at every value that
its encoding admits, from its words (R71 to R77, R84 to R92), and each link sequencer instruction from its word (R304 to R315). -/
def Obligations.decoding_inverts_encoding : Prop :=
  ∀ i : Instr, i.wellFormed = true →
    match i.parts with
    | .event => True
    | .seq _ => decodeSeq (encodeSeq i) = some i
    | _ => decode (encode i) = .ok i

/-- Reset meets the invariant. -/
def Obligations.reset_meets_the_invariant : Prop := Safety.inv State.reset = true

/-- Every step keeps the invariant: memory, the register maps and the tables of grids, teams and groups stay in canonical form, the tables
of fixed size keep their sizes (R17, R23, R300, R408), and the management registers hold values that R410 allows. -/
def Obligations.step_keeps_the_invariant : Prop :=
  ∀ s t, Safety.inv s = true → step s = .next t → Safety.inv t = true

/-- P7 and C7 read one and S0 reads zero, and writes to them are discarded (R78, R109, R114). -/
def Obligations.constant_registers : Prop :=
  ∀ (x : Ctx) (l k : Nat) (v : Word) (b : Bool),
    x.p l 7 = true ∧ x.c k 7 = true ∧ x.s k 0 = 0 ∧ x.wp l 7 b = [] ∧ x.wc k 7 b = [] ∧ x.ws k 0 v = [] ∧
    ∀ g : Group, g.writes (x.wp l 7 b ++ x.wc k 7 b ++ x.ws k 0 v) = g

/-- A register reads what was last written to it, one bit of it for a predicate or a condition, and a write leaves every other register of
the group as it was (R109, R110, R114, R122). That a write to a handler's bank which lands after its return is dropped, or made in the
next handler's, is the model's choice (log entry 66). -/
def Obligations.register_write_and_read : Prop :=
  ∀ (g : Group) (r q : RegRef) (v : Word), Safety.groupOk g = true → Safety.refIn g r = true → Safety.refIn g q = true →
    (g.write (r, v)).reg q = (if q = r then (if Safety.oneBit r then v &&& 1 else v) else g.reg q) ∧
      Safety.groupOk (g.write (r, v)) = true

/-- Memory reads back what was written, little-endian (R2), a write of n bytes leaves every other byte, and memory keeps its canonical
form (R190). -/
def Obligations.memory_write_and_read : Prop :=
  ∀ (m : Memory) (a n v : Nat), Memory.wf m = true →
    readN (writeN m a n v) a n = v % 256 ^ n ∧ Memory.wf (writeN m a n v) = true ∧
      (∀ i, i < n → fget (writeN m a n v) (a + i) = BitVec.ofNat 8 (v / 256 ^ i)) ∧
      ∀ b, b < a ∨ a + n ≤ b → fget (writeN m a n v) b = fget m b

/-- The order in which an instruction issues: it waits for the results of its stream where its marker or the instruction asks for it
(R50); a trap that waits enters the handler, or waits on (R122); an illegal instruction raises cause 0x10 with the number of the check as
detail (R94); an empty budget raises cause 0x1B outside handlers, except for YIELD (R60); and only then does it have its effect. That a
step of a held group ends at a wait of a marker is the model's reading (log entry 43): R357 says so of an entry that waits at a REGANG. -/
def Obligations.order_of_issue : Prop :=
  ∀ (how : IssueHow) (body : Ctx → State → Res) (s : State) (x : Ctx), ctx? s = some x →
    let y := waited how x
    let t := waitedState how x s
    (how.wait = true → x.g.hold = false → resultsReady x.g x.e = false → issue how body s = .next s) ∧
    (how.wait = true → x.g.hold = true → (x.g.split x.e).pend ≠ [] → issue how body s = .next (endStep s x.uid x.e)) ∧
    (Safety.free how x → x.inH = false → (x.g.split x.e).trap.isSome = true →
      issue how body s = .next (takeWaitingTrap s x)) ∧
    (Safety.free how x → (x.inH = true ∨ (x.g.split x.e).trap = none) →
      (∀ d, how.chk y.dec = some d → issue how body s = .next (streamFault t y 0x10 d 0)) ∧
      (how.chk y.dec = none → y.g.budget = 0 → x.inH = false → how.isYield = false →
        issue how body s = .next (streamFault t y 0x1B 0 0)))

/-- What an instruction that only writes registers leaves: no byte of memory, no other group and no team, core, queue or fabric state
changes; in its own group the registers that it does not write keep their values, fstat gains the flags it raises, every other special
register, window base, J register, stack entry and other split is as it was, and so are its own split's mask and outstanding results; the
program counter of each issuing slice advances past the instruction with the loop-back of R388 (in a handler the handler's alone), and
those of the other slices stay. The grid's counters of R405 grow by the issue, unless the team is a shadow. It holds of every instruction
of the statements of results, for those are of this form. -/
def Obligations.frame_of_register_instructions : Prop :=
  ∀ (how : IssueHow) (s : State) (x : Ctx) (ws : List RegWrite) (f : Flags), Safety.issues how s x = true →
    Safety.groupOk (waited how x).g = true →
    let t := Safety.regsNext how s x ws f
    let g := (waited how x).g
    t = { s with groups := t.groups, grids := t.grids } ∧
    (∀ u, u ≠ x.uid → kget t.groups u = kget s.groups u) ∧
    (∀ h, h ≠ x.t.grid.toNat → kget t.grids h = kget s.grids h) ∧
    (kget t.grids x.t.grid.toNat = some (if x.t.shadow then x.gr
      else { x.gr with counters := lmod (lmod x.gr.counters 0 (· + 1)) (portCounter how.cls) (· + 1) })) ∧
    ∃ g', kget t.groups x.uid = some g' ∧
      (∀ r, Safety.refIn g r = true → (∀ w ∈ ws, w.1 ≠ r ∧ Safety.refIn g w.1 = true) → g'.reg r = g.reg r) ∧
      g'.fstat = g.fstat ||| f ∧ g'.fmask = g.fmask ∧ g'.fcause = g.fcause ∧ g'.faddr = g.faddr ∧
      g'.scratch0 = g.scratch0 ∧ g'.scratch1 = g.scratch1 ∧ g'.h = g.h ∧ g'.j = g.j ∧ g'.dstack = g.dstack ∧
      g'.spcnt = g.spcnt ∧ g'.spbase = g.spbase ∧ g'.spill = g.spill ∧ g'.hold = g.hold ∧
      g'.mbatch = g.mbatch ∧ g'.mopen = g.mopen ∧ g'.nregs = g.nregs ∧ g'.alloc = g.alloc ∧
      g'.budget = (if x.inH || how.isYield then g.budget else g.budget - 1) ∧
      (∀ e, e ≠ x.e → g'.split e = g.split e) ∧
      (g'.split x.e).mask = (g.split x.e).mask ∧ (g'.split x.e).valid = (g.split x.e).valid ∧
      (g'.split x.e).wait = (g.split x.e).wait ∧ (g'.split x.e).pend = (g.split x.e).pend ∧ (g'.split x.e).run = (g.split x.e).run ∧
      (∀ k, (g'.slice k).wb = (g.slice k).wb ∧ (g'.slice k).rb = (g.slice k).rb ∧ (g'.slice k).wneed = (g.slice k).wneed) ∧
      (∀ k, k ∉ x.sl ∨ x.inH = true → (g'.slice k).pc = (g.slice k).pc ∧ (g'.slice k).loops = (g.slice k).loops) ∧
      (∀ k ∈ x.sl, x.inH = false → k < g.slices.length →
        ((g'.slice k).pc, (g'.slice k).loops) = loopBack x.pc (x.pc + BitVec.ofNat 64 how.len) (g.slice k).loops) ∧
      (x.inH = true → g'.handler.map (·.pc) = g.handler.map fun h => h.pc + BitVec.ofNat 64 how.len)

/-- Taking a trap (R216, R217, R362): the stream enters the handler at the address that its grid has for the cause; fcause holds the
cause, the detail and the precise bit, faddr and fmask what the trap gives, wneed of a slice that the trap names its need (R132), V0 of
each lane of the stream reads the lane number and every other banked register zero (R122), and the stream's own program counter and
registers stay as they were. While another stream of the partition runs a handler the trap waits (R122). -/
def Obligations.taking_a_trap : Prop :=
  ∀ s u e tr g t c, kget s.groups u = some g → kget s.teams g.team = some t → t.core = some c →
    handlerOn g e = false →
    (tr.cause = 1 → (∀ st, (g.split e).mapp ≠ some (st, tr.faddr)) ∧ hostMode s 0 = false) →
    handlerAddr s t.grid.toNat tr.cause ≠ 0 →
    (partitionBusy s c g.part = false →
      ∃ g' h, kget (takeTrap s u e tr).groups u = some g' ∧ g'.handler = some h ∧ h.entry = e ∧
        h.pc = handlerAddr s t.grid.toNat tr.cause ∧ g'.fmask = tr.fmask ∧ g'.faddr = tr.faddr ∧
        g'.fcause = BitVec.ofNat 32 (tr.cause + 256 * tr.detail + 65536) ∧ g'.v = g.v ∧ g'.p = g.p ∧
        g'.slices.length = g.slices.length ∧
        (∀ k, k ∉ tr.need.map (·.1) → g'.slice k = g.slice k) ∧
        (∀ k n, (tr.need.map (·.1)).Nodup → (k, n) ∈ tr.need → k < g.slices.length →
          g'.slice k = { g.slice k with wneed := n }) ∧
        (∀ k n, fget h.s (k * 16 + n) = 0 ∧ fget h.c (k * 8 + n) = 0 ∧ fget h.p (k * 8 + n) = 0) ∧
        (∀ l n, n < 16 → fget h.v (l * 16 + n) =
          if n = 0 ∧ l ∈ (maskSlices (g.split e).mask).flatMap sliceLanes then BitVec.ofNat 32 l else 0) ∧
        (takeTrap s u e tr).mem = s.mem) ∧
    (partitionBusy s c g.part = true → e < g.splits.length →
      ∃ g', kget (takeTrap s u e tr).groups u = some g' ∧ (g'.split e).trap = some tr ∧ g'.handler = g.handler ∧
        g'.slices = g.slices ∧ (∀ k, k ≠ e → g'.split k = g.split k) ∧ (takeTrap s u e tr).mem = s.mem)

/-- Where a trap does not enter the handler: inside a handler it is the handler fault 0x30 whose detail is the cause (R218); in host-assisted
mode a page fault is the host's, and the stream waits for its answer (R216, R223, R409), and outside it a page that the handler of the
stream has passed on is cause 0x28 with detail 1 (R221); and without an address for the cause the
team ends with the trap's own cause (R362). -/
def Obligations.traps_without_a_handler : Prop :=
  ∀ s u e tr g t, kget s.groups u = some g → kget s.teams g.team = some t →
    let v := if t.shadow then s else if tr.cause = 1 then count s t.grid.toNat 13 1
      else if tr.cause = 4 then count s t.grid.toNat 7 1 else s
    let pc := (g.slice ((maskSlices (g.split e).mask).headD 0)).pc
    (handlerOn g e = true →
      takeTrap s u e tr = endByFault v g.team u e g.gid 0x30 tr.cause true ((g.handler.map (·.pc)).getD 0) tr.faddr) ∧
    (handlerOn g e = false → tr.cause = 1 → hostMode s 0 = false → (∃ st, (g.split e).mapp = some (st, tr.faddr)) →
      takeTrap s u e tr = endByFault v g.team u e g.gid 0x28 1 false pc tr.faddr) ∧
    (handlerOn g e = false → tr.cause = 1 → hostMode s 0 = true →
      takeTrap s u e tr =
        ctlTell (modGroup v u fun g => g.modSplit e fun sp => { sp with run := .host tr.faddr false }) (cpOf v t.grid.toNat)
          "page" [t.grid.toNat, t.num, g.gid, e, tr.faddr.toNat]) ∧
    (handlerOn g e = false → (tr.cause = 1 → (∀ st, (g.split e).mapp ≠ some (st, tr.faddr)) ∧ hostMode s 0 = false) →
      handlerAddr v t.grid.toNat tr.cause = 0 →
      takeTrap s u e tr = endByFault v g.team u e g.gid tr.cause tr.detail false pc tr.faddr)

/-! ### Class 000 -/

/-- Branches (R84, R343, R346): NOP goes on; a taken branch to a legal target goes there in every slice of the stream and pops the loops
that the target leaves (R389); BCU is taken where the condition holds in every slice and falls through where it holds in none; JMPI goes
to the address that all slices hold alike; BC is taken or falls through as its slices agree. -/
def Obligations.branches_complete : Prop :=
  (∀ y, Safety.goesOn (.nop y) (howCtl (.nop y) y) fun _ s u => u = s) ∧
  (∀ y off, Safety.flowsTo (.bra y off) (howCtl (.bra y off) y) fun x s u =>
    targetOk (x.pc + off.signExtend 64 * 4) = true ∧
      u = x.put s (branchTo x.g x x.sl (x.pc + off.signExtend 64 * 4))) ∧
  (∀ y v, Safety.flowsTo (.braL y v) (howCtl (.braL y v) y) fun x s u =>
    targetOk v = true ∧ u = x.put s (branchTo x.g x x.sl v)) ∧
  (∀ y i n off, Safety.flowsTo (.bcu y i n off) (howCtl (.bcu y i n off) y) fun x s u =>
    (∀ k ∈ x.sl, (x.c k i.toNat != n) = true) ∧ targetOk (x.pc + off.signExtend 64 * 4) = true ∧
      u = x.put s (branchTo x.g x x.sl (x.pc + off.signExtend 64 * 4))) ∧
  (∀ y i n off, Safety.goesOn (.bcu y i n off) (howCtl (.bcu y i n off) y) fun x s u =>
    x.sl ≠ [] ∧ (∀ k ∈ x.sl, (x.c k i.toNat != n) = false) ∧ u = s) ∧
  (∀ y i n v, Safety.flowsTo (.bcuL y i n v) (howCtl (.bcuL y i n v) y) fun x s u =>
    (∀ k ∈ x.sl, (x.c k i.toNat != n) = true) ∧ targetOk v = true ∧ u = x.put s (branchTo x.g x x.sl v)) ∧
  (∀ y i n v, Safety.goesOn (.bcuL y i n v) (howCtl (.bcuL y i n v) y) fun x s u =>
    x.sl ≠ [] ∧ (∀ k ∈ x.sl, (x.c k i.toNat != n) = false) ∧ u = s) ∧
  (∀ y a, Safety.flowsTo (.jmpi y a) (howCtl (.jmpi y a) y) fun x s u =>
    targetOk (x.ss x.low a.toNat) = true ∧ (∀ k ∈ x.sl, x.ss k a.toNat = x.ss x.low a.toNat) ∧
      u = x.put s (branchTo x.g x x.sl (x.ss x.low a.toNat))) ∧
  (∀ y i n j off, Safety.flowsTo (.bc y i n j off) (howCtl (.bc y i n j off) y) fun x s u =>
    x.sl ≠ [] ∧ (∀ k ∈ x.sl, (x.c k i.toNat != n) = true) ∧ targetOk (x.pc + off.signExtend 64 * 4) = true ∧
      u = x.put s (branchTo x.g x x.sl (x.pc + off.signExtend 64 * 4))) ∧
  (∀ y i n j off, Safety.goesOn (.bc y i n j off) (howCtl (.bc y i n j off) y) fun x s u =>
    (∀ k ∈ x.sl, (x.c k i.toNat != n) = false) ∧ u = s) ∧
  (∀ y i n j v, Safety.flowsTo (.bcL y i n j v) (howCtl (.bcL y i n j v) y) fun x s u =>
    x.sl ≠ [] ∧ (∀ k ∈ x.sl, (x.c k i.toNat != n) = true) ∧ targetOk v = true ∧
      u = x.put s (branchTo x.g x x.sl v)) ∧
  (∀ y i n j v, Safety.goesOn (.bcL y i n j v) (howCtl (.bcL y i n j v) y) fun x s u =>
    (∀ k ∈ x.sl, (x.c k i.toNat != n) = false) ∧ u = s)

/-- Where branches raise faults (R84, R343, R346): an illegal target, one that is not canonical or no multiple of 4, of a branch that any
slice takes is cause 0x12, from an offset as from a literal; a BCU whose slices disagree 0x14, and a JMPI whose slices hold different
legal addresses 0x13; a divergent BC in a handler is cause 0x30 (R218). -/
def Obligations.branches_fault : Prop :=
  (∀ y off, Safety.faultsWith (.bra y off) (howCtl (.bra y off) y) 0x12 0 fun x _ =>
    targetOk (x.pc + off.signExtend 64 * 4) = false) ∧
  (∀ y v, Safety.faultsWith (.braL y v) (howCtl (.braL y v) y) 0x12 0 fun _ _ => targetOk v = false) ∧
  (∀ y i n j off, Safety.faultsWith (.bc y i n j off) (howCtl (.bc y i n j off) y) 0x12 0 fun x _ =>
    targetOk (x.pc + off.signExtend 64 * 4) = false ∧ ∃ k ∈ x.sl, (x.c k i.toNat != n) = true) ∧
  (∀ y i n j v, Safety.faultsWith (.bcL y i n j v) (howCtl (.bcL y i n j v) y) 0x12 0 fun x _ =>
    targetOk v = false ∧ ∃ k ∈ x.sl, (x.c k i.toNat != n) = true) ∧
  (∀ y i n off, Safety.faultsWith (.bcu y i n off) (howCtl (.bcu y i n off) y) 0x12 0 fun x _ =>
    targetOk (x.pc + off.signExtend 64 * 4) = false ∧ ∀ k ∈ x.sl, (x.c k i.toNat != n) = true) ∧
  (∀ y i n v, Safety.faultsWith (.bcuL y i n v) (howCtl (.bcuL y i n v) y) 0x12 0 fun x _ =>
    targetOk v = false ∧ ∀ k ∈ x.sl, (x.c k i.toNat != n) = true) ∧
  (∀ v : DWord, v.toNat % 4 ≠ 0 → targetOk v = false) ∧
  (∀ y i n off, Safety.faultsWith (.bcu y i n off) (howCtl (.bcu y i n off) y) 0x14 0 fun x _ =>
    (∃ k ∈ x.sl, (x.c k i.toNat != n) = true) ∧ ∃ k ∈ x.sl, (x.c k i.toNat != n) = false) ∧
  (∀ y i n v, Safety.faultsWith (.bcuL y i n v) (howCtl (.bcuL y i n v) y) 0x14 0 fun x _ =>
    (∃ k ∈ x.sl, (x.c k i.toNat != n) = true) ∧ ∃ k ∈ x.sl, (x.c k i.toNat != n) = false) ∧
  (∀ y a, Safety.faultsWith (.jmpi y a) (howCtl (.jmpi y a) y) 0x12 0 fun x _ =>
    ∃ k ∈ x.sl, targetOk (x.ss k a.toNat) = false) ∧
  (∀ y a, Safety.faultsWith (.jmpi y a) (howCtl (.jmpi y a) y) 0x13 0 fun x _ =>
    (∀ k ∈ x.sl, targetOk (x.ss k a.toNat) = true) ∧ ∃ k ∈ x.sl, x.ss k a.toNat ≠ x.ss x.low a.toNat) ∧
  (∀ y i n j off, Safety.faultsWith (.bc y i n j off) (howCtl (.bc y i n j off) y) 0x30 0 fun x _ =>
    x.inH = true ∧ targetOk (x.pc + off.signExtend 64 * 4) = true ∧
      (∃ k ∈ x.sl, (x.c k i.toNat != n) = true) ∧ ∃ k ∈ x.sl, (x.c k i.toNat != n) = false) ∧
  (∀ y i n j v, Safety.faultsWith (.bcL y i n j v) (howCtl (.bcL y i n j v) y) 0x30 0 fun x _ =>
    x.inH = true ∧ targetOk v = true ∧
      (∃ k ∈ x.sl, (x.c k i.toNat != n) = true) ∧ ∃ k ∈ x.sl, (x.c k i.toNat != n) = false)

/-- A BC whose slices disagree, outside handlers (R337, R338, R342, R343, R345). Its rejoin address is that of Safety.rejoins. With a free
split table entry and instruction buffer slot, where J[j] is invalid or holds the stream's slices and that address, the stream splits: the
slices that take the branch become the stream of the lowest free entry, at the target, the others stay and go on with the loop-back of
R388, each with the loops that its address leaves popped (R389), J[j], where it was invalid, holds the stream's mask and the rejoin
address, and counter 5 grows. Otherwise the others' path goes onto the divergence stack, the slices that take the branch go on as the
stream, and counter 6 grows; and where the stack has no room trap 4 is taken with detail 0. Memory, the slices outside the stream and
every register stay. -/
def Obligations.divergent_branch_splits : Prop :=
  ∀ b how len tgt c neg j, Safety.bcForm b how len tgt c neg j → ∀ s x r v, Safety.issues how s x = true →
    let z := waited how x
    let t := tgt z
    let tt := z.sl.filter fun k => z.c k c != neg
    let ff := z.sl.filter fun k => !(z.c k c != neg)
    let jr := z.g.j.getD j ⟨false, 0, 0⟩
    tt ≠ [] → ff ≠ [] → targetOk t = true → z.inH = false → Safety.rejoins z (waitedState how x s) len t r v →
    (∀ e, Safety.splitEntry z v j r = some e → z.g.splits.length = 4 → z.e < 4 → (z.g.split z.e).valid = true →
      (jr.valid = false → j < z.g.j.length) →
      ∃ u g, exec b s = .next u ∧ kget u.groups z.uid = some g ∧
        (g.split e).valid = true ∧ (g.split e).mask = sliceMask tt ∧ (g.split z.e).mask = sliceMask ff ∧
        g.j.getD j ⟨false, 0, 0⟩ = (if jr.valid then jr else ⟨true, sliceMask z.sl, r.extractLsb' 2 55⟩) ∧
        g.dstack = z.g.dstack ∧ Safety.paths z g t (z.pc + BitVec.ofNat 64 len) tt ff ∧ Safety.counted how z v u 5 ∧
        (∀ q, g.reg q = z.g.reg q) ∧ u.mem = s.mem) ∧
    (Safety.splitEntry z v j r = none → z.g.dstack.length < 16 → z.e < z.g.splits.length →
      ∃ u g, exec b s = .next u ∧ kget u.groups z.uid = some g ∧
        g.dstack = { mask := sliceMask ff, arrived := 0, j := BitVec.ofNat 3 j, join := false, owner := BitVec.ofNat 2 z.e,
                     pc := z.pc + BitVec.ofNat 64 len, rejoin := r } :: z.g.dstack ∧
        (g.split z.e).mask = sliceMask tt ∧ g.j = z.g.j ∧ Safety.taken z g t tt ∧ Safety.counted how z v u 6 ∧
        (∀ q, g.reg q = z.g.reg q) ∧ u.mem = s.mem) ∧
    (Safety.splitEntry z v j r = none → 16 ≤ z.g.dstack.length →
      exec b s = .next (takeTrap v z.uid z.e { cause := 4, detail := 0, faddr := 0, fmask := laneMask z.lanes, need := [] }))

/-- Calls and returns (R126 to R129): where the targets are legal and equal, the stack stays within 2^20 and the new window is resident,
CALL and CALLI write the link record of each slice below its new window, slide the window base up by the slide, empty the loop stack and
go to the target; where every slice's link is resident, well-formed and gives one return address, RET slides back, restores
the loops and returns. In a handler the loop stacks stay as they are, which is the model's reading of R389 (log entry 51). -/
def Obligations.calls_and_returns_complete : Prop :=
  (∀ y n off, Safety.flowsTo (.call y n off) (howCall (.call y n off) y n.toNat) fun x s u =>
    targetOk (x.pc + off.signExtend 64 * 4) = true ∧ Safety.callFits x n.toNat ∧
      u = x.put s (Safety.called x n.toNat 4 (x.pc + off.signExtend 64 * 4))) ∧
  (∀ y n v, Safety.flowsTo (.callL y n v) (howCall (.callL y n v) y n.toNat) fun x s u =>
    targetOk v = true ∧ Safety.callFits x n.toNat ∧ u = x.put s (Safety.called x n.toNat 12 v)) ∧
  (∀ y n a, Safety.flowsTo (.calli y n a) (howCall (.calli y n a) y n.toNat) fun x s u =>
    targetOk (x.ss x.low a.toNat) = true ∧ (∀ k ∈ x.sl, x.ss k a.toNat = x.ss x.low a.toNat) ∧
      Safety.callFits x n.toNat ∧ u = x.put s (Safety.called x n.toNat 4 (x.ss x.low a.toNat))) ∧
  (∀ y (n : Nat → Nat) (ret : DWord) (loops : Nat → List LoopEntry), Safety.flowsTo (.ret y) (howCtl (.ret y) y) fun x s u =>
    x.sl ≠ [] ∧
    (∀ k ∈ x.sl, (x.g.slice k).rb + 8 ≤ (x.g.slice k).wb ∧
      readLink x.g k ((x.g.slice k).wb - 8) (x.g.slice k).wb = some (n k, ret, loops k) ∧
      (x.g.slice k).rb + slideOf (n k) ≤ (x.g.slice k).wb) ∧
    u = x.put s (
      let g := x.g.modSlices x.sl fun k q => { q with wb := q.wb - slideOf (n k), loops := if x.inH then q.loops else loops k }
      if x.inH then { g with handler := g.handler.map fun h => { h with pc := ret } } else g.setPc x.sl ret))

/-- Where calls and returns do not complete: CALL and CALLI with an illegal target are cause 0x12, CALLI whose slices hold different legal
addresses 0x13 (R127), a call past 2^20 registers cause 0x15, a return with an empty stack 0x16 and with a bad link, or with links that
give different return addresses, 0x17 (R128, R129); a call whose new window is not resident takes trap 2 (R128), and a return whose
link or whose window is not resident takes trap 3, with wneed in units of 8 registers (R129, R134). -/
def Obligations.calls_and_returns_stop : Prop :=
  (∀ i how n len tgt, Safety.callForm i how n len tgt →
    Safety.faultsWith i how 0x12 0 (fun x _ => ∃ k ∈ x.sl, targetOk (tgt x k) = false) ∧
    Safety.faultsWith i how 0x15 0 (fun x _ => (∀ k ∈ x.sl, targetOk (tgt x k) = true ∧ tgt x k = tgt x x.low) ∧
      ∃ k ∈ x.sl, 2 ^ 20 < (x.g.slice k).wb + slideOf n + x.g.nregs) ∧
    ∀ s x, Safety.issues how s x = true →
      let z := waited how x
      let past k := decide ((z.g.slice k).rb + z.g.alloc < (z.g.slice k).wb + slideOf n + z.g.nregs)
      let need := z.sl.filter past
      (∀ k ∈ z.sl, targetOk (tgt z k) = true ∧ tgt z k = tgt z z.low) →
      (∀ k ∈ z.sl, (z.g.slice k).wb + slideOf n + z.g.nregs ≤ 2 ^ 20) → need ≠ [] →
      exec i s = .next (takeTrap (waitedState how x s) z.uid z.e
        { cause := 2, detail := 0, faddr := 0, fmask := laneMask (need.flatMap sliceLanes),
          need := need.map fun k => (k, ((z.g.slice k).wb + slideOf n + z.g.nregs - (z.g.slice k).rb - z.g.alloc) / 8) })) ∧
  (∀ y n a, Safety.faultsWith (.calli y n a) (howCall (.calli y n a) y n.toNat) 0x13 0 fun x _ =>
    (∀ k ∈ x.sl, targetOk (x.ss k a.toNat) = true) ∧ ∃ k ∈ x.sl, x.ss k a.toNat ≠ x.ss x.low a.toNat) ∧
  (∀ y, Safety.faultsWith (.ret y) (howCtl (.ret y) y) 0x16 0 fun x _ => ∃ k ∈ x.sl, (x.g.slice k).wb = 0) ∧
  (∀ y, Safety.faultsWith (.ret y) (howCtl (.ret y) y) 0x17 0 fun x _ =>
    (∀ k ∈ x.sl, (x.g.slice k).rb + 8 ≤ (x.g.slice k).wb) ∧
      ∃ k ∈ x.sl, readLink x.g k ((x.g.slice k).wb - 8) (x.g.slice k).wb = none) ∧
  (∀ y (n : Nat → Nat) (ret : Nat → DWord) (loops : Nat → List LoopEntry),
    Safety.faultsWith (.ret y) (howCtl (.ret y) y) 0x17 0 fun x _ =>
      (∀ k ∈ x.sl, (x.g.slice k).rb + 8 ≤ (x.g.slice k).wb ∧
        readLink x.g k ((x.g.slice k).wb - 8) (x.g.slice k).wb = some (n k, ret k, loops k)) ∧
      ∃ k ∈ x.sl, ∃ k' ∈ x.sl, ret k ≠ ret k') ∧
  (∀ y s x, Safety.issues (howCtl (.ret y) y) s x = true →
    let z := waited (howCtl (.ret y) y) x
    let need := z.sl.filter fun k => decide ((z.g.slice k).wb < (z.g.slice k).rb + 8)
    (∀ k ∈ z.sl, (z.g.slice k).wb ≠ 0) → need ≠ [] →
    exec (.ret y) s = .next (takeTrap (waitedState (howCtl (.ret y) y) x s) z.uid z.e
      { cause := 3, detail := 0, faddr := 0, fmask := laneMask (need.flatMap sliceLanes),
        need := need.map fun k => (k, ((z.g.slice k).rb + 8 - (z.g.slice k).wb) / 8) })) ∧
  ∀ y s x (n : Nat → Nat) (ret : DWord) (loops : Nat → List LoopEntry), Safety.issues (howCtl (.ret y) y) s x = true →
    let z := waited (howCtl (.ret y) y) x
    let need := z.sl.filter fun k => decide ((z.g.slice k).wb < (z.g.slice k).rb + slideOf (n k))
    (∀ k ∈ z.sl, (z.g.slice k).rb + 8 ≤ (z.g.slice k).wb ∧
      readLink z.g k ((z.g.slice k).wb - 8) (z.g.slice k).wb = some (n k, ret, loops k)) → need ≠ [] →
    exec (.ret y) s = .next (takeTrap (waitedState (howCtl (.ret y) y) x s) z.uid z.e
      { cause := 3, detail := 0, faddr := 0, fmask := laneMask (need.flatMap sliceLanes),
        need := need.map fun k => (k, ((z.g.slice k).rb + slideOf (n k) - (z.g.slice k).wb) / 8) })

/-- REGANG, EXIT and SPLITQ (R348 to R351, R354, R367), with the refill of R354 made: the newest of the spilled entries, number SPCNT - 1,
comes back to the bottom of the stack until the stream owns a resident entry or none is spilled; with 16 resident entries REGANG takes
trap 4 with detail 1 and EXIT with detail 2; a read that fails is cause 0x32. REGANG whose top entry names its J is 0x18 at another
address, runs the parked path when the first path comes, and pops the entry when the second does; it then, or without such an entry, goes
on where J is invalid or holds none of the slices, is 0x18 where J holds only some of them or another address, and otherwise waits on J:
when the waiting streams cover its mask they merge, or where their loops differ it is 0x19. EXIT in a handler is 0x30; outside it the
stream's slices leave every J and every entry, the stream runs its pending path or ends, and every merge that is then due takes place, or
with differing loops it is 0x19. SPLITQ gives the stream's mask, entry, the number of valid splits, the stack's depth, and whether entries
are spilled and the stream owns one. The owner and the slices of a refilled entry, and that SPLITQ counts a spilled entry as owned, are
the model's readings (log entry 51); so is that EXIT of an entry's first path runs its second path with no arrival of the first (log entry
40). -/
def Obligations.rejoining_completes : Prop :=
  (∀ x n s g,
    ((topEntry g x.e).isSome = true ∨ g.spcnt = 0 → refill x (n + 1) s g = .ok s g) ∧
    (topEntry g x.e = none → g.spcnt ≠ 0 → 16 ≤ g.dstack.length → refill x (n + 1) s g = .trap s) ∧
    ∀ r miss v, topEntry g x.e = none → g.spcnt ≠ 0 → g.dstack.length < 16 →
      checkAccesses s x.core x.gr.space false needR 32 [(0, g.spbase.toNat + 32 * (g.spcnt - 1))] = (r, miss, v) →
      ((∀ l, r ≠ .ok l) → refill x (n + 1) s g = .fault (x.count v 11 miss)) ∧
      ∀ pa leaf, r = .ok [(pa, leaf)] → accessAwaited (x.count v 11 miss) pa = false →
        (targetRefuses (x.count v 11 miss) pa = true ∨ (poisonAt (x.count v 11 miss) pa 32).isSome = true →
          refill x (n + 1) s g = .fault (x.count v 11 miss)) ∧
        (targetRefuses (x.count v 11 miss) pa = false → poisonAt (x.count v 11 miss) pa 32 = none →
          ∀ l hit w, loadBytes (x.count v 11 miss) x.core x.keys x.t.held false pa 32 = (l, hit, w) →
            refill x (n + 1) s g = refill x n (x.count w (if hit then 9 else 10) 1) (refilled g (divOfNat (ofBytes l))))) ∧
  (∀ y j,
    (∀ s x v, Safety.issues (howCtl (.regang y j) true) s x = true →
      let z := waited (howCtl (.regang y j) true) x
      (refill z 4096 (waitedState (howCtl (.regang y j) true) x s) z.g = .trap v →
        exec (.regang y j) s = .next (takeTrap v z.uid z.e
          { cause := 4, detail := 1, faddr := 0, fmask := laneMask z.lanes, need := [] })) ∧
      (refill z 4096 (waitedState (howCtl (.regang y j) true) x s) z.g = .fault v →
        exec (.regang y j) s = .next (streamFault v z 0x32 1 0)) ∧
      ∀ g, refill z 4096 (waitedState (howCtl (.regang y j) true) x s) z.g = .ok v g →
        (∀ i d, topEntry g z.e = some (i, d) → d.j = j → z.pc ≠ d.rejoin →
          exec (.regang y j) s = .next (streamFault v z 0x18 0 0)) ∧
        ∀ h m, Safety.atJoin z g j = some (h, m) →
          let r := h.j.getD j.toNat ⟨false, 0, 0⟩
          let p := h.modSplit z.e fun q => { q with wait := true, wj := j, mask := m }
          r.valid = true → m &&& r.mask ≠ 0 →
          (m &&& r.mask ≠ m ∨ z.pc.extractLsb' 2 55 ≠ r.pc → exec (.regang y j) s = .next (streamFault v z 0x18 0 0)) ∧
          (m &&& r.mask = m → z.pc.extractLsb' 2 55 = r.pc → waitUnion p j.toNat = r.mask → loopsEqual p r.mask = false →
            exec (.regang y j) s = .next (streamFault v z 0x19 0 0))) ∧
    Safety.flowsTo (.regang y j) (howCtl (.regang y j) true) (fun x s u =>
      ∃ v g i d, refill x 4096 s x.g = .ok v g ∧ topEntry g x.e = some (i, d) ∧ d.j = j ∧ x.pc = d.rejoin ∧ d.join = false ∧
        u = x.put v ((({ g with dstack := g.dstack.set i { d with arrived := sliceMask x.sl, join := true } } : Group).modSplit x.e
          fun p => { p with mask := d.mask }).setPc (maskSlices d.mask) d.pc)) ∧
    Safety.flowsTo (.regang y j) (howCtl (.regang y j) true) (fun x s u =>
      ∃ v g h m, refill x 4096 s x.g = .ok v g ∧ Safety.atJoin x g j = some (h, m) ∧ x.inH = false ∧
        ¬ ((h.j.getD j.toNat ⟨false, 0, 0⟩).valid = true ∧ m &&& (h.j.getD j.toNat ⟨false, 0, 0⟩).mask ≠ 0) ∧
        u = x.put v (h.setPc (maskSlices m) (x.pc + 4))) ∧
    Safety.flowsTo (.regang y j) (howCtl (.regang y j) true) fun x s u =>
      ∃ v g h m, refill x 4096 s x.g = .ok v g ∧ Safety.atJoin x g j = some (h, m) ∧
        let r := h.j.getD j.toNat ⟨false, 0, 0⟩
        let p := h.modSplit x.e fun q => { q with wait := true, wj := j, mask := m }
        r.valid = true ∧ m ≠ 0 ∧ m &&& r.mask = m ∧ x.pc.extractLsb' 2 55 = r.pc ∧
          (waitUnion p j.toNat = r.mask → loopsEqual p r.mask = true) ∧
          u = x.put v (if mergeDue p j.toNat then merge p j.toNat else p)) ∧
  (∀ (g : Group) (m : BitVec 16),
    (∀ r ∈ (removeSlices g m).j, r.valid = true → r.mask &&& m = 0 ∧ r.mask ≠ 0) ∧
    ∀ d ∈ (removeSlices g m).dstack, d.mask &&& m = 0 ∧ d.arrived &&& m = 0 ∧ (d.mask ≠ 0 ∨ d.arrived ≠ 0)) ∧
  (∀ y s x v,
    let how := { howCtl (.exit y) true with compare := fun _ => true }
    Safety.issues how s x = true →
    let z := waited how x
    let t := waitedState how x s
    let m := sliceMask z.sl
    (z.inH = true → exec (.exit y) s = .next (settle (streamFault t z 0x30 0 0) z.g.team)) ∧
    (z.inH = false → refill z 4096 t z.g = .trap v → exec (.exit y) s = .next (settle (takeTrap v z.uid z.e
      { cause := 4, detail := 2, faddr := 0, fmask := laneMask z.lanes, need := [] }) z.g.team)) ∧
    (z.inH = false → refill z 4096 t z.g = .fault v → exec (.exit y) s = .next (settle (streamFault v z 0x32 1 0) z.g.team)) ∧
    ∀ g, z.inH = false → refill z 4096 t z.g = .ok v g →
      (∀ n a, n < 8 → Safety.exitMerges g m n a → loopsEqual g (a.mask &&& ~~~m) = false →
        exec (.exit y) s = .next (settle (streamFault v z 0x19 0 0) z.g.team)) ∧
      ((∀ n a, n < 8 → Safety.exitMerges g m n a → loopsEqual g (a.mask &&& ~~~m) = true) →
        ∀ w r, refill z 4096 v (removeSlices g m) = .ok w r →
          ((∀ d ∈ r.dstack, d.owner.toNat = z.e → d.join = true) →
            exec (.exit y) s = .next (settle (Safety.afterFlow how z
              (z.put w (mergeAll (r.modSplit z.e fun _ => Split.none)))) z.g.team)) ∧
          ∀ i d, r.dstack[i]? = some d → d.owner.toNat = z.e → d.join = false →
            (∀ k q, k < i → r.dstack[k]? = some q → q.owner.toNat = z.e → q.join = true) →
            exec (.exit y) s = .next (settle (Safety.afterFlow how z
              (z.put w (mergeAll ((({ r with dstack := r.dstack.set i { d with join := true, arrived := 0 } } : Group).modSplit z.e
                fun p => { p with mask := d.mask }).setPc (maskSlices d.mask) d.pc)))) z.g.team))) ∧
  ∀ y d, Safety.writesNow (.splitq y d) (howCtl (.splitq y d) y) fun x =>
    (x.sl.flatMap fun k => x.ws k d.toNat (BitVec.ofNat 32 ((sliceMask x.sl).toNat + 2 ^ 16 * x.e
      + 2 ^ 18 * (x.g.splits.filter (·.valid)).length + 2 ^ 21 * x.g.dstack.length
      + (if 0 < x.g.spcnt then 2 ^ 26 else 0) + (if ownsEntry x.g x.e then 2 ^ 27 else 0))), 0)

/-- Loops (R385 to R390), outside handlers: LOOP and LOOPI push the loop of the body up to the instruction at the stop address, which is
of no class that R387 forbids, with the count that all slices give, or skip the body when it is zero; LEAVE pops the innermost loop and
goes past its end, and goes on where there is none. LEAVE in a handler raises cause 0x10, and where the slices' top entries differ, or
only some slices have one, cause 0x13. -/
def Obligations.loops_complete : Prop :=
  (∀ y a off w v, Safety.flowsTo (.loop y a off) (howCtl (.loop y a off) y) fun x s u =>
    x.fetch s (x.pc + off.signExtend 64 * 4).toNat = (.ok w, v) ∧
      Safety.loops x w (x.pc + off.signExtend 64 * 4) (fun k => x.s k a.toNat) v u) ∧
  (∀ y c off w v, Safety.flowsTo (.loopi y c off) (howCtl (.loopi y c off) y) fun x s u =>
    x.fetch s (x.pc + off.zeroExtend 64 * 4).toNat = (.ok w, v) ∧
      Safety.loops x w (x.pc + off.zeroExtend 64 * 4) (fun _ => c.zeroExtend 32) v u) ∧
  (∀ y, Safety.goesOn (.leave y) (howCtl (.leave y) y) fun x s u =>
    x.inH = false ∧ (∀ k ∈ x.sl, (x.g.slice k).loops = []) ∧ u = s) ∧
  (∀ y e w v, Safety.flowsTo (.leave y) (howCtl (.leave y) y) fun x s u =>
    x.inH = false ∧ x.sl ≠ [] ∧ (∀ k ∈ x.sl, (x.g.slice k).loops.head? = some e) ∧ x.fetch s e.stop.toNat = (.ok w, v) ∧
      u = x.put v (x.g.modSlices x.sl fun _ q =>
        { q with loops := q.loops.tail, pc := e.stop + BitVec.ofNat 64 (4 * lenWords (wordLen w)) })) ∧
  (∀ y, Safety.faultsWith (.leave y) (howCtl (.leave y) y) 0x10 0 fun x _ => x.inH = true) ∧
  ∀ y, Safety.faultsWith (.leave y) (howCtl (.leave y) y) 0x13 0 fun x _ =>
    x.inH = false ∧ ∃ k ∈ x.sl, ∃ k' ∈ x.sl, (x.g.slice k).loops.head? ≠ (x.g.slice k').loops.head?

/-- YIELD, TRAP and BRK (R61, R365, R366): YIELD reloads the budget, notes the live registers and parks the stream while its team has a
request and no matrix operation is pending, and is a NOP in a handler; TRAP raises cause 0x38 with its code as detail; BRK holds the group
and tells the host where the grid is debugged, and is a NOP otherwise. A TRAP in a handler ends the team with its own cause, and the trap
that entered the handler is recorded in a second entry (R218, R365); that in host-assisted mode this entry ends nothing yet is the model's
reading of R369 (log entry 53). That a QFENCE of the group counts as pending is the model's choice (log entry 65). Where LOOP and LOOPI
stop (R386, R387): in a handler they are cause 0x10; a last instruction of a class that R387 forbids, or a fifth loop, is cause 0x10 with
detail 9; and counts that differ between slices are cause 0x14. -/
def Obligations.yield_trap_break : Prop :=
  (∀ y d n, Safety.goesOn (.yield y d n) { howCtl (.yield y d n) true with isYield := true } fun x s u =>
    u = if x.inH then s else x.put s ({ x.g with budget := d.toNat }.modSplit x.e fun p =>
      { p with live := 8 * n.toNat, run := if x.t.request && !matrixPending s x.uid then .park else p.run })) ∧
  (∀ y c, Safety.faultsWith (.trap y c) (howCtl (.trap y c) true) 0x38 c.toNat fun x _ => x.inH = false) ∧
  (∀ y c s x, Safety.issues (howCtl (.trap y c) true) s x = true → x.inH = true →
    let how := howCtl (.trap y c) true
    let z := waited how x
    exec (.trap y c) s = .next (Safety.afterFlow how z
      (report (streamFault (waitedState how x s) z 0x38 c.toNat 0) z.t.grid.toNat z.t.num z.g.gid (z.g.fcause.toNat % 256)
        (z.g.fcause.toNat / 256 % 256) (1 + if z.t.shadow then 16 else 0) (z.g.slice z.low).pc z.g.faddr (!hostMode s 1)))) ∧
  (∀ i how stop count, Safety.loopForm i how stop count →
    Safety.faultsWith i how 0x10 0 (fun x _ => x.inH = true) ∧
    ∀ s x w v, Safety.issues how s x = true → (waited how x).inH = false →
      let z := waited how x
      z.fetch (waitedState how x s) (stop z).toNat = (.ok w, v) →
      (wordOp w / 32 = 7 ∨ (wordOp w / 32 = 0 ∧ wordOp w ≠ 0) → exec i s = .next (streamFault v z 0x10 9 0)) ∧
      (¬ (wordOp w / 32 = 7 ∨ (wordOp w / 32 = 0 ∧ wordOp w ≠ 0)) → (∃ k ∈ z.sl, 4 ≤ (z.g.slice k).loops.length) →
        exec i s = .next (streamFault v z 0x10 9 0)) ∧
      (¬ (wordOp w / 32 = 7 ∨ (wordOp w / 32 = 0 ∧ wordOp w ≠ 0)) → (∀ k ∈ z.sl, (z.g.slice k).loops.length < 4) →
        (∃ k ∈ z.sl, count z k ≠ count z z.low) → exec i s = .next (streamFault v z 0x14 0 0))) ∧
  (∀ y c, Safety.goesOn (.brk y c) (howCtl (.brk y c) true) fun x s u =>
    x.gr.debug = false ∧ u = s) ∧
  ∀ y c, Safety.goesOn (.brk y c) (howCtl (.brk y c) true) fun x s u =>
    x.gr.debug = true ∧ u = tellHost (x.put s { x.g with hold := true }) "brk"
      [x.t.grid.toNat, x.t.num, x.g.gid, c.toNat, x.pc.toNat]

/-! ### Class 101 -/

/-- Loads (R203 to R207): where the accesses of the active lanes (of the slices with an active lane for SLD) are aligned, translate, are
allowed and are not refused, and none must wait for a route, LD and SLD bind the loaded values to their destinations, which land later
(R52, R131), and an acquiring load drops the core's L1 (R237). The values read from a poisoned line are bound beside the others, with the
detail of the poison and the address of the load (R372): that they, too, land after the instruction has issued is the model's reading (log
entry 45). -/
def Obligations.loads_complete : Prop :=
  (Safety.inForms3 0xA0 .ld .ldL .ldX fun i how w => ∀ acc v, Safety.goesOn i how fun x s u =>
    Safety.reached x s { needR with scope := if ordered w then some (orderScope w) else none } (accessSize w)
        ((x.active w).map fun l => (l, x.ea w l)) = some (acc, v) ∧
      u = Safety.loaded x w (fun l vs => vs.zipIdx.flatMap fun p => x.wv l (w.d.toNat + p.2) p.1) v acc) ∧
  (Safety.inForms3 0xA4 .sld .sldL .sldX fun i how w => ∀ acc v, Safety.goesOn i how fun x s u =>
    Safety.reached x s { needR with scope := if ordered w then some (orderScope w) else none } (accessSize w)
        ((x.activeSlices w).map fun k => (k, x.eaS w k)) = some (acc, v) ∧
      u = Safety.loaded x w (fun k vs => vs.zipIdx.flatMap fun p => x.ws k (w.d.toNat + p.2) p.1) v acc) ∧
  ∀ (x : Ctx) dst vals s g, kget s.groups x.uid = some g →
    kget (x.results dst [] vals s).groups x.uid =
      some (g.addPending x.e { writes := vals.flatMap fun p => dst p.1 p.2, await := none }) ∧
    ∀ k d bad, kget (x.results dst ((k, d) :: bad) vals s).groups x.uid =
      let isBad (p : Nat × Nat) : Bool := decide (k = p.1) || bad.any fun b => decide (b.1 = p.1)
      some ((g.addPending x.e { writes := (vals.filter fun p => !isBad p).flatMap fun p => dst p.1 p.2, await := none }).addPending x.e
        { writes := (vals.filter isBad).flatMap fun p => dst p.1 p.2, await := none
          bad := some { detail := d, pc := x.pc, inH := x.inH } })

/-- Stores (R203 to R207): where the accesses are aligned, translate, are allowed and are not refused, and none must wait for a route, ST
and SST write the low bytes of each value at the address of its lane or slice; two that meet at one address do so in some order (R206).
Data that a load of poison is to bring may leave its lines poisoned, and a store behind such a load is performed or not (R372). That such
a store's own data may carry the poison is the model's choice (log entry 45). -/
def Obligations.stores_complete : Prop :=
  (Safety.inForms3 0xA1 .st .stL .stX fun i how w => ∀ acc v, Safety.goesOn i (howRelease w how) fun x s u =>
    Safety.reached x s { needW with scope := if ordered w then some (orderScope w) else none } (accessSize w)
        ((x.active w).map fun l => (l, x.ea w l)) = some (acc, v) ∧
      u = Safety.stored x (accessSize w) (Safety.dataRegs w x.refV) (x.storeVal w) v acc) ∧
  (Safety.inForms3 0xA5 .sst .sstL .sstX fun i how w => ∀ acc v, Safety.goesOn i (howRelease w how) fun x s u =>
    Safety.reached x s { needW with scope := if ordered w then some (orderScope w) else none } (accessSize w)
        ((x.activeSlices w).map fun k => (k, x.eaS w k)) = some (acc, v) ∧
      u = Safety.stored x (accessSize w) (Safety.dataRegs w x.refS) (x.storeValS w) v acc)

/-- Local memory and the tag table (R193 to R196, R207, R208): where every offset is aligned and inside the team's local memory, LDL binds
the values of local memory, which are its bytes where no engine has written it behind the stream (R242), STL writes them and ATOML
performs its atomics there, in some order where they meet at one address; TAGSET puts each tag into its slot alone, and TAGCLR clears its
slots, where every slot number is below 256. The base forms of ATOML name SYSTEM scope, for SUB is 0 in a base word (R76), which R208
reserves for ATOML: that they raise cause 0x10 with detail 4 (R93, R94) is the model's reading (log entry 12). In an extended word of
ATOML with a literal at B and SP = 0b10 source B is the scalar: the model's choice (log 55). -/
def Obligations.local_memory_completes : Prop :=
  (Safety.inForms3 0xA2 .ldl .ldlL .ldlX fun i how w => Safety.goesOn i how fun x s u =>
    Safety.localOk x (accessSize w) ((x.active w).map (x.eo w)) ∧ u = Safety.localLoaded x w s) ∧
  (∀ (x : Ctx) c n l, x.t.behind = [] → localEach x n c l = (l.map fun p => (p.1, readN x.t.mem p.2 n), [])) ∧
  (Safety.inForms3 0xA3 .stl .stlL .stlX fun i how w => Safety.goesOn i (howRelease w how) fun x s u =>
    Safety.localOk x (accessSize w) ((x.active w).map (x.eo w)) ∧ u = Safety.localStored x w s) ∧
  (∀ w, Safety.goesOn (.atomlX w) (howAtom w (howOp 0xA7 true w)) fun x s u =>
    Safety.localOk x (atomSize w) ((x.active w).map fun l => (x.v l w.a.toNat).toNat) ∧ u = Safety.localAtomics x w s) ∧
  (∀ i how, (∃ w, i = Instr.atoml w ∧ how = howOp 0xA7 false (w.ext none))
      ∨ (∃ w v, i = Instr.atomlL w v ∧ how = howOp 0xA7 false (w.ext (some v))) →
    ∀ s x, ctx? s = some x → Safety.free how x →
      (x.inH = true ∨ (x.g.split x.e).trap = none) →
      exec i s = .next (streamFault (waitedState how x s) (waited how x) 0x10 4 0)) ∧
  (Safety.inForms 0xAB .tagset .tagsetX fun i how w => Safety.goesOn i how fun x s u =>
    (∀ l ∈ x.active w, (x.v l w.d.toNat).toNat < 256) ∧
      let r := if repeats ((x.active w).map fun l => (x.v l w.a.toNat).toNat) then
          anyOrder (fun l => (x.v l w.a.toNat).toNat) (x.active w) s
        else anyOrder (fun l => (x.v l w.d.toNat).toNat) (x.active w) s
      u = modTeam r.2 x.g.team fun t =>
        { t with tags := r.1.foldl (fun m l =>
            kset (m.filter fun e => decide (e.1 = (x.v l w.d.toNat).toNat) || decide (e.2 ≠ x.v l w.a.toNat))
              (x.v l w.d.toNat).toNat (x.v l w.a.toNat)) t.tags }) ∧
  Safety.inForms 0xAC .tagclr .tagclrX fun i how w => Safety.goesOn i how fun x s u =>
    (∀ l ∈ x.active w, (x.v l w.a.toNat).toNat < 256) ∧
      u = modTeam s x.g.team fun t =>
        { t with tags := (x.active w).foldl (fun m l => kdel m (x.v l w.a.toNat).toNat) t.tags }

/-- Atomics (R208 to R211): where the accesses are aligned, translate, are allowed and are not refused, and none must wait for a route,
each location is replaced by the new value of R209 from its old one, in some order where they meet at one address; ATOM binds the old
values to its destinations, those of a poisoned line with its detail (R372), and an acquiring order drops the core's L1 (R231, R237). That a
RED of acquire-release order is an acquire too is the model's choice (log entry 63). A primary twin forwards the old values, and the
shadow takes what was forwarded and makes no access of its own (R380). In an extended word of ATOM with a literal at B and SP = 0b10 source
B is the scalar: the model's choice (log 55). -/
def Obligations.atomics_complete : Prop :=
  (Safety.inForms3 0xA6 .atom .atomL .atomX fun i how w => ∀ acc v, Safety.goesOn i (howAtom w how) fun x s u =>
    x.t.shadow = false ∧ Safety.reached x s (Safety.atomNeed w) (atomSize w)
        ((x.active w).map fun l => (l, (x.vv l w.a.toNat).toNat)) = some (acc, v) ∧
      u = Safety.atomicsDone x w false v acc) ∧
  (Safety.inForms3 0xA8 .red .redL .redX fun i how w => ∀ acc v, Safety.goesOn i (howAtom w how) fun x s u =>
    x.t.shadow = false ∧ Safety.reached x s (Safety.atomNeed w) (atomSize w)
        ((x.active w).map fun l => (l, x.ea w l)) = some (acc, v) ∧
      u = Safety.atomicsDone x w true v acc) ∧
  (Safety.inForms3 0xA6 .atom .atomL .atomX fun i how w => ∀ acc v old, Safety.goesOn i (howAtom w how) fun x s u =>
    x.t.shadow = true ∧ Safety.reached x s (Safety.atomNeed w) (atomSize w)
        ((x.active w).map fun l => (l, (x.vv l w.a.toNat).toNat)) = some (acc, v) ∧
      forwarded x.t x.g.gid x.e = some old ∧ u = Safety.atomicsForwarded x w false v acc old) ∧
  Safety.inForms3 0xA8 .red .redL .redX fun i how w => ∀ acc v old, Safety.goesOn i (howAtom w how) fun x s u =>
    x.t.shadow = true ∧ Safety.reached x s (Safety.atomNeed w) (atomSize w)
        ((x.active w).map fun l => (l, x.ea w l)) = some (acc, v) ∧
      forwarded x.t x.g.gid x.e = some old ∧ u = Safety.atomicsForwarded x w true v acc old

/-- Where accesses to memory stop, before any of them is made (R205, R217, R372). LD, ST, SLD, SST, ATOM and RED, whatever accesses they
make: a misaligned address is cause 0x20; otherwise the first access, of the lowest detail that any has, is cause 0x22 with that detail, 0
for an address that is not canonical or lies in firmware space, 1 for an ill-formed entry, 2 for a missing right and 3 for the class;
otherwise an entry with V = 0 takes trap 1 with the first such page in faddr and its lanes in fmask. For 0x20 and 0x22 the address is in
faddr. Where every access passes these checks and its target admits it, but one needs a route that route recovery is to give, the
instruction does not issue yet (R409). Poisoned data that a load or an ATOM has read raises cause 0x40 where it would be written into its
registers, which stay, with the access's address. On local memory, and for the tag table, faddr is 0: a misaligned offset is cause 0x20, one
past the end of local memory 0x21, and a TAGSET or TAGCLR slot above 255 is cause 0x23. That among the faults of order 4 in R205 the one of
lowest detail is raised is the model's reading (log entry 69), and so are the lanes that fmask names, all four of a slice for SLD and SST
(log entry 39), and that the fault of poison comes as the data lands (log entry 45). -/
def Obligations.accesses_fault : Prop :=
  (Safety.inForms3 0xA0 .ld .ldL .ldX fun i how w => Safety.accessesStop i how
    { needR with scope := if ordered w then some (orderScope w) else none } (accessSize w)
    (fun x => (x.active w).map fun l => (l, x.ea w l)) (fun _ l => [l])) ∧
  (Safety.inForms3 0xA4 .sld .sldL .sldX fun i how w => Safety.accessesStop i how
    { needR with scope := if ordered w then some (orderScope w) else none } (accessSize w)
    (fun x => (x.activeSlices w).map fun k => (k, x.eaS w k)) (fun _ => sliceLanes)) ∧
  (Safety.inForms3 0xA1 .st .stL .stX fun i how w => Safety.accessesStop i (howRelease w how)
    { needW with scope := if ordered w then some (orderScope w) else none } (accessSize w)
    (fun x => (x.active w).map fun l => (l, x.ea w l)) (fun _ l => [l])) ∧
  (Safety.inForms3 0xA5 .sst .sstL .sstX fun i how w => Safety.accessesStop i (howRelease w how)
    { needW with scope := if ordered w then some (orderScope w) else none } (accessSize w)
    (fun x => (x.activeSlices w).map fun k => (k, x.eaS w k)) (fun _ => sliceLanes)) ∧
  (Safety.inForms3 0xA6 .atom .atomL .atomX fun i how w => Safety.accessesStop i (howAtom w how) (Safety.atomNeed w) (atomSize w)
    (fun x => (x.active w).map fun l => (l, (x.vv l w.a.toNat).toNat)) (fun _ l => [l])) ∧
  (Safety.inForms3 0xA8 .red .redL .redX fun i how w => Safety.accessesStop i (howAtom w how) (Safety.atomNeed w) (atomSize w)
    (fun x => (x.active w).map fun l => (l, x.ea w l)) (fun _ l => [l])) ∧
  (∀ core space n s l r miss v, checkEach core space false n s l = (r, miss, v) →
    firstAccess 0 r = (l.find? fun e => !inGridSpace e.2).map (·.2)) ∧
  (∀ pkg die va n a e b size first, checkWalk pkg die va n (.bad a b) = .access 1 ∧
    checkWalk pkg die va n (.invalid a e b size first) = .page b ∧
    ((n.r = true ∧ leafR e = false) ∨ (n.w = true ∧ leafW e = false) ∨ (n.x = true ∧ leafX e = false) →
      checkWalk pkg die va n (.leaf a e b size) = .access 2) ∧
    ((n.r = true → leafR e = true) → (n.w = true → leafW e = true) → (n.x = true → leafX e = true) →
      checkWalk pkg die va n (.leaf a e b size) = (if classOk pkg die (leafCls e) (leafFrame e + (va - b)) n
        then .ok (leafFrame e + (va - b)) e else .access 3))) ∧
  (∀ u (e : BitVec 2) k s g p b, kget s.groups u = some g → (g.split e.toNat).valid = true → (g.split e.toNat).pend[k]? = some p →
    p.await = none → p.bad = some b → exec (.resultWriteback u e k) s = .next (endByFault
      { s with groups := kset s.groups u (g.modSplit e.toNat fun sp => { sp with pend := sp.pend.eraseIdx k }) }
      g.team u e.toNat g.gid 0x40 b.detail b.inH b.pc 0)) ∧
  (Safety.inForms3 0xA2 .ldl .ldlL .ldlX fun i how w => Safety.localStops i how (accessSize w) fun x => (x.active w).map (x.eo w)) ∧
  (Safety.inForms3 0xA3 .stl .stlL .stlX fun i how w =>
    Safety.localStops i (howRelease w how) (accessSize w) fun x => (x.active w).map (x.eo w)) ∧
  (∀ w, Safety.localStops (.atomlX w) (howAtom w (howOp 0xA7 true w)) (atomSize w)
    fun x => (x.active w).map fun l => (x.v l w.a.toNat).toNat) ∧
  (Safety.inForms 0xAB .tagset .tagsetX fun i how w => Safety.faultsWith i how 0x23 0 fun x _ =>
    ∃ l ∈ x.active w, 255 < (x.v l w.d.toNat).toNat) ∧
  Safety.inForms 0xAC .tagclr .tagclrX fun i how w => Safety.faultsWith i how 0x23 0 fun x _ =>
    ∃ l ∈ x.active w, 255 < (x.v l w.a.toNat).toNat

/-- Fences, prefetches, cache control and PUTI (R214, R215, R236, R237, R324): a FENCE that acquires drops the core's L1 where it acts and
its scope is DIE or wider, and changes no memory; the stream then sees every write of an engine or sequencer that its scope gives it
(R230, R242). PREF completes for every address and changes no byte of memory. CCTL does so too: for each active lane whose address
translates l1inv takes its line from the core's L1 and iinv from the instruction cache, and l2wb writes a dirty line of the die's L2 back,
which stays valid and is then clean; l1all empties the core's L1. PUTI sends the remote write that its operands give, once it has its
credit, and its set is non-replayable from then on (R374); it waits while there is no credit, and a package above 2303 is cause 0x24. -/
def Obligations.fences_and_caches_complete : Prop :=
  (∀ y scope kind, Safety.goesOn (.fence y scope kind)
      { len := 4, cls := 5, wait := y, isYield := false, compare := fun _ => true,
        chk := fun _ => if scope = 7 ∨ kind = 3 then some 8 else none } fun x s u =>
    u = if kind = 2 then s else acquire s x scope.toNat) ∧
  (∀ w, Safety.goesOn (.fenceX w) (howFence (howOp 0xA9 true w) fun x => !(x.active w).isEmpty) fun x s u =>
    u = if (x.active w).isEmpty ∨ w.d.extractLsb' 3 2 = 2 then s else acquire s x (w.d.extractLsb' 0 3).toNat) ∧
  (∀ s (x : Ctx) scope, (coreAt (acquire s x scope) x.core).l1 = (if scope ≤ 3 then [] else (coreAt s x.core).l1) ∧
    ∀ a, kget (acquire s x scope).behind a = (kget s.behind a).map fun l =>
      l.map fun v => if seesAt s x scope false v then v.add x.keys else v) ∧
  (Safety.inForms3 0xAD .pref .prefL .prefX fun i how w =>
    (Safety.goesOn i how fun x s u => x.active w = [] ∧ u = s) ∧
    ∀ s x, Safety.issues how s x = true → ∃ u, exec i s = .next (Safety.afterDone how (waited how x) u) ∧ u.mem = s.mem ∧
      u.groups = (waitedState how x s).groups ∧ u.teams = s.teams) ∧
  (Safety.inForms3 0xAE .cctl .cctlL .cctlX fun i how w =>
    (Safety.goesOn i how fun x s u => w.sub = 1 ∧ x.active w ≠ [] ∧ u = modCore s x.core fun k => { k with l1 := [] }) ∧
    ∀ s x, Safety.issues how s x = true →
      let z := waited how x
      let t := waitedState how x s
      let lines := Safety.cctlLines (tlbOf t z.core false) z t ((z.active w).map (z.ea w))
      ∃ u, exec i s = .next (Safety.afterDone how z u) ∧ u.mem = s.mem ∧ u.groups = t.groups ∧ u.teams = s.teams ∧
        (w.sub ≠ 1 → (coreAt u z.core).l1 = if w.sub = 0 then lines.foldl kdel (coreAt s z.core).l1 else (coreAt s z.core).l1) ∧
        (coreAt u z.core).icache = (if w.sub = 2 then lines.foldl kdel (coreAt s z.core).icache else (coreAt s z.core).icache) ∧
        (w.sub = 3 → u.coh.l2 = lines.foldl (fun m n => m.map fun k => kmod k n cleanState) s.coh.l2) ∧
        (w.sub ≠ 3 → u.coh = s.coh)) ∧
  (∀ (x : Ctx) s va, tlbOf s x.core false = [] →
    (inGridSpace va = false → quietAddr [] x s va = (none, s)) ∧
    (inGridSpace va = true → (∀ a e b n, walkSpace s x.gr.space va = .leaf a e b n →
        (quietAddr [] x s va).1 = some (leafFrame e + (va - b))) ∧
      ((∀ a e b n, walkSpace s x.gr.space va ≠ .leaf a e b n) → (quietAddr [] x s va).1 = none))) ∧
  (∀ (i : Instr) how w, (∃ b v, i = .puti b v ∧ how = howOp 0xAF false (b.ext (some v)) ∧ w = b.ext (some v))
      ∨ (i = .putiX w ∧ how = howOp 0xAF true w) →
    (∀ v, Safety.goesOn i (howCompare w how) (Safety.onceTo w fun x s u =>
      (x.lowS w.b.toNat).toNat ≤ 2303 ∧ takeBulk s (BitVec.ofNat 12 (x.lowS w.b.toNat).toNat) = some v ∧
      u = emit (modGrid (noReplay v x) x.t.grid.toNat fun g => { g with puts := g.puts + 1 }) (.put
        { pid := pidOf v x.gr.space, src := v.pkg, dst := BitVec.ofNat 12 (x.lowS w.b.toNat).toNat
          key := (x.lowPair w.a.toNat).extractLsb' 32 32, offset := (x.lowPair w.a.toNat).extractLsb' 0 32
          value := w.lit.getD 0, word := x.lowS w.d.toNat, putk := false
          issuer := .grid x.t.grid (BitVec.ofNat 32 x.t.num) (BitVec.ofNat 5 x.g.gid) }))) ∧
    (Safety.faultsWith i (howCompare w how) 0x24 0 fun x _ => x.active w ≠ [] ∧ 2303 < (x.lowS w.b.toNat).toNat) ∧
    ∀ s x, Safety.issues (howCompare w how) s x = true →
      let z := waited (howCompare w how) x
      let t := waitedState (howCompare w how) x s
      z.active w ≠ [] → (z.lowS w.b.toNat).toNat ≤ 2303 → takeBulk t (BitVec.ofNat 12 (z.lowS w.b.toNat).toNat) = none →
      exec i s = .next t)

/-- What the instructions of classes 101 and 110 leave (R53, R80, R191, R203). LD, SLD and LDL change no byte of memory. ST, SST, SREC, ATOM,
RED and the arrivals and BINIT of a barrier object in memory, of a team that has no twin in a grid that is not replayable, change no byte
of memory outside the bytes of their accesses; STL, ATOML and a barrier object in local memory change no byte of memory and, in local
memory, none outside their own bytes. An acquire changes no memory, group or team, but for what the stream has seen; so do the reads of
the records that a post takes, but for a wait that one stops. The posts of matrix operations, copies, routes and collectives, and QFENCE,
change no memory, no group and no team; neither do PUTI and the launch that SEQGO makes, of a grid that is not replayable. None of them
changes another group, and its own group keeps its registers, flags, slices and budget, but for results that are outstanding. (What PREF
and CCTL leave is said with their effects.) -/
def Obligations.frame_of_memory_instructions : Prop :=
  (∀ x s u n align l acc, Safety.reached x s n align l = some (acc, u) → u.mem = s.mem ∧ u.groups = s.groups ∧ u.teams = s.teams ∧
    acc.map (fun a => (a.key, a.va)) = l) ∧
  (∀ x w dst s acc, (Safety.loaded x w dst s acc).mem = s.mem ∧ Safety.keepsTeams x s (Safety.loaded x w dst s acc) ∧
    Safety.keepsGroups x s (Safety.loaded x w dst s acc)) ∧
  (∀ x w s, (Safety.localLoaded x w s).mem = s.mem ∧ Safety.keepsTeams x s (Safety.localLoaded x w s) ∧
    Safety.keepsGroups x s (Safety.localLoaded x w s)) ∧
  (∀ x n regs val s acc, Memory.wf s.mem = true → (kget s.teams x.g.team).bind (·.twin) = none →
    snapRoot s x.t.grid.toNat = none →
    (Safety.stored x n regs val s acc).groups = s.groups ∧ (Safety.stored x n regs val s acc).teams = s.teams ∧
    ∀ b, (∀ a ∈ acc, b < a.pa ∨ a.pa + n ≤ b) →
      fget (Safety.stored x n regs val s acc).mem b = fget s.mem b) ∧
  (∀ x w red s acc, Memory.wf s.mem = true → snapRoot s x.t.grid.toNat = none →
    Safety.keepsGroups x s (Safety.atomicsDone x w red s acc) ∧ Safety.keepsLocal s (Safety.atomicsDone x w red s acc) ∧
    ∀ b, (∀ a ∈ acc, b < a.pa ∨ a.pa + atomSize w ≤ b) →
      fget (Safety.atomicsDone x w red s acc).mem b = fget s.mem b) ∧
  (∀ x w red s acc old, (Safety.atomicsForwarded x w red s acc old).mem = s.mem ∧
    Safety.keepsGroups x s (Safety.atomicsForwarded x w red s acc old) ∧ Safety.keepsLocal s (Safety.atomicsForwarded x w red s acc old)) ∧
  (∀ x w s, (Safety.localStored x w s).mem = s.mem ∧ (Safety.localStored x w s).groups = s.groups ∧
    Safety.localFrame x s (Safety.localStored x w s) (accessSize w) ((x.active w).map (x.eo w))) ∧
  (∀ x w s, kget s.teams x.g.team = some x.t → (Safety.localAtomics x w s).mem = s.mem ∧
    Safety.keepsGroups x s (Safety.localAtomics x w s) ∧
    Safety.localFrame x s (Safety.localAtomics x w s) (atomSize w) ((x.active w).map fun l => (x.v l w.a.toNat).toNat)) ∧
  (∀ (x : Ctx) s va pa n v, Memory.wf s.mem = true → (kget s.teams x.g.team).bind (·.twin) = none →
    snapRoot s x.t.grid.toNat = none → (x.write s va pa n v).groups = s.groups ∧ (x.write s va pa n v).teams = s.teams ∧
    ∀ b, b < pa ∨ pa + n ≤ b → fget (x.write s va pa n v).mem b = fget s.mem b) ∧
  (∀ (x : Ctx) s off da dt, (x.arrive s (.loc off) da dt).mem = s.mem ∧ (x.arrive s (.loc off) da dt).groups = s.groups ∧
    Safety.localFrame x s (x.arrive s (.loc off) da dt) 16 [off]) ∧
  (∀ (x : Ctx) s va pa leaf da dt, Memory.wf s.mem = true → snapRoot s x.t.grid.toNat = none →
    (x.arrive s (.mem va pa leaf) da dt).groups = s.groups ∧ (x.arrive s (.mem va pa leaf) da dt).teams = s.teams ∧
    ∀ b, b < pa ∨ pa + 16 ≤ b → fget (x.arrive s (.mem va pa leaf) da dt).mem b = fget s.mem b) ∧
  (∀ x s k, postMat x s k = { s with cores := (postMat x s k).cores, opCtr := s.opCtr + 1 }) ∧
  (∀ x s k, postCopy x s k = { s with cores := (postCopy x s k).cores, opCtr := s.opCtr + 1 }) ∧
  (∀ x s m, Safety.fenced x s m
    = { s with cores := (Safety.fenced x s m).cores, routeq := (Safety.fenced x s m).routeq, opCtr := s.opCtr + 1 }) ∧
  (∀ s (x : Ctx) scope, (acquire s x scope).mem = s.mem ∧ (acquire s x scope).groups = s.groups ∧
    Safety.keepsTeams x s (acquire s x scope)) ∧
  (∀ x s va n align v u, getOperand x s va n align = .ok v u → u.mem = s.mem ∧ u.groups = s.groups ∧ u.teams = s.teams) ∧
  (∀ x s a sh u, readShape x s a = .ok sh u → u.mem = s.mem ∧ u.groups = s.groups ∧ u.teams = s.teams) ∧
  (∀ x s n a rep u, readReplicas x n a [] s = .ok rep u → u.mem = s.mem ∧ u.groups = s.groups ∧ u.teams = s.teams) ∧
  (∀ s d f, let u := nextOp (modRoute s d f)
    u = { s with routeq := u.routeq, opCtr := s.opCtr + 1 }) ∧
  (∀ s c f, let u := nextOp (modCore s c f)
    u = { s with cores := u.cores, opCtr := s.opCtr + 1 }) ∧
  (∀ s x, snapRoot s x.t.grid.toNat = none → noReplay s x = s) ∧
  (∀ s p v, takeBulk s p = some v → v = { s with peers := v.peers }) ∧
  (∀ s h m, let u := emit (modGrid s h fun g => { g with puts := g.puts + 1 }) (.put m)
    u = { s with grids := u.grids, outbox := u.outbox, issued := u.issued }) ∧
  ∀ space packet s st cid u, launchColl space packet none s = .status st cid u →
    u.mem = s.mem ∧ u.groups = s.groups ∧ u.teams = s.teams ∧ u.cores = s.cores

/-! ### Class 110 -/

/-- Matrix operations (R53, R264, R276 to R280, R287): while the FIFO (for ADRAIN the copy queue as well) is not full, each is posted with
what R53 captures at issue, its registers' values or names, and the batch of its group; ARD's destinations are outstanding until it is
performed. They act once, and do nothing without an active lane (R80). While its queue is full an operation does not issue (R264). A block
of AWR or ARD outside the accumulator, and a tile, a format or a completion word that ADRAIN does not take, are the engine-operand fault
0x24, which posts nothing (R265, R266, R280, R287); a record of ADRAIN that cannot be read stops it as the read says. That AWR and ARD
take their block from the lowest issuing slice is the model's choice (log entry 65). -/
def Obligations.matrix_operations_post : Prop :=
  (Safety.inForms 0xC0 .mma .mmaX fun i how w => Safety.goesOn i how (Safety.onceTo w fun x s u =>
    fifoFull s x.core = false ∧ u = postMat x s (.mma w.d.toNat (x.mmaArgs w false)))) ∧
  (∀ w : BaseArgs, Safety.goesOn (.dmma w) (howOp 0xC1 false (w.ext none)) (Safety.onceTo (w.ext none) fun x s u =>
    fifoFull s x.core = false ∧
      u = postMat x s (.dmma (w.ext none).d.toNat (w.d.toNat + 1) (x.mmaArgs (w.ext none) true)))) ∧
  (∀ w, Safety.goesOn (.dmmaX w) (howOp 0xC1 true w) (Safety.onceTo w fun x s u =>
    fifoFull s x.core = false ∧ u = postMat x s (.dmma w.d.toNat w.c.toNat (x.mmaArgs w true)))) ∧
  (Safety.inForms 0xC2 .azero .azeroX fun i how w => Safety.goesOn i how (Safety.onceTo w fun x s u =>
    fifoFull s x.core = false ∧ u = postMat x s (.azero w.d.toNat (laneMask (x.active w)) x.g.width))) ∧
  (Safety.inForms 0xC3 .arel .arelX fun i how w => Safety.goesOn i how (Safety.onceTo w fun x s u =>
    fifoFull s x.core = false ∧ u = postMat x s (.arel w.d.toNat))) ∧
  (Safety.inForms3 0xC5 .awr .awrL .awrX fun i how w => Safety.goesOn i how (Safety.onceTo w fun x s u =>
    (x.bS w x.low).toNat * x.g.width < 256 ∧ fifoFull s x.core = false ∧
      u = postMat x s (.awr w.d.toNat ((x.active w).flatMap fun l => (List.range 16).map fun j =>
        ((x.bS w x.low).toNat / 4 * x.g.width + l, 16 * ((x.bS w x.low).toNat % 4) + j, x.v l (w.a.toNat + j)))))) ∧
  (Safety.inForms3 0xC4 .ard .ardL .ardX fun i how w => Safety.goesOn i how (Safety.onceTo w fun x s u =>
    (x.bS w x.low).toNat * x.g.width < 256 ∧ fifoFull s x.core = false ∧
      u = modGroup (postMat x s (.ard w.a.toNat ((x.active w).flatMap fun l => (List.range 16).map fun j =>
        (x.refV l (w.d.toNat + j), (x.bS w x.low).toNat / 4 * x.g.width + l,
          16 * ((x.bS w x.low).toNat % 4) + j)))) x.uid fun g =>
        g.addPending x.e { writes := [], await := some s.opCtr })) ∧
  (Safety.inForms 0xC6 .adrain .adrainX fun i how w => ∀ sh v, Safety.goesOn i how (Safety.onceTo w fun x s u =>
    fifoFull s x.core = false ∧ copyFull s x.core = false ∧ readShape x s (x.lowPair w.a.toNat) = .ok sh v ∧
      tileShape sh = true ∧ (x.slot w.fs).elem = sh.elem ∧
      (w.sub.getLsbD 0 = true → sh.loc = false ∧ ((x.slot w.fs).elem = .fp32 ∨ (x.slot w.fs).elem = .bf16)) ∧
      wordOk x.gr.launch.localSize (x.lowS w.b.toNat) = true ∧
      u = nextOp (modCore v x.core fun q =>
        { q with fifo := q.fifo ++ [x.matOp v.opCtr (.adrain w.d.toNat)]
                 copyq := q.copyq ++ [x.engOp v.opCtr
                   (.drain sh (x.slot w.fs) (w.sub.getLsbD 0) (x.lowS w.b.toNat) none false)] }))) ∧
  (Safety.inForms 0xC0 .mma .mmaX fun i how w => Safety.waitsWhile i how fun x s =>
    x.active w ≠ [] ∧ fifoFull s x.core = true) ∧
  (∀ w : BaseArgs, Safety.waitsWhile (.dmma w) (howOp 0xC1 false (w.ext none)) fun x s =>
    x.active (w.ext none) ≠ [] ∧ fifoFull s x.core = true) ∧
  (∀ w, Safety.waitsWhile (.dmmaX w) (howOp 0xC1 true w) fun x s => x.active w ≠ [] ∧ fifoFull s x.core = true) ∧
  (Safety.inForms 0xC2 .azero .azeroX fun i how w => Safety.waitsWhile i how fun x s =>
    x.active w ≠ [] ∧ fifoFull s x.core = true) ∧
  (Safety.inForms 0xC3 .arel .arelX fun i how w => Safety.waitsWhile i how fun x s =>
    x.active w ≠ [] ∧ fifoFull s x.core = true) ∧
  (Safety.inForms3 0xC5 .awr .awrL .awrX fun i how w =>
    (Safety.waitsWhile i how fun x s =>
      x.active w ≠ [] ∧ (x.bS w x.low).toNat * x.g.width < 256 ∧ fifoFull s x.core = true) ∧
    Safety.faultsWith i how 0x24 0 fun x _ => x.active w ≠ [] ∧ 256 ≤ (x.bS w x.low).toNat * x.g.width) ∧
  (Safety.inForms3 0xC4 .ard .ardL .ardX fun i how w =>
    (Safety.waitsWhile i how fun x s =>
      x.active w ≠ [] ∧ (x.bS w x.low).toNat * x.g.width < 256 ∧ fifoFull s x.core = true) ∧
    Safety.faultsWith i how 0x24 0 fun x _ => x.active w ≠ [] ∧ 256 ≤ (x.bS w x.low).toNat * x.g.width) ∧
  Safety.inForms 0xC6 .adrain .adrainX fun i how w =>
    (Safety.waitsWhile i how fun x s =>
      x.active w ≠ [] ∧ (fifoFull s x.core = true ∨ copyFull s x.core = true)) ∧
    Safety.stopsAt i how fun x s r => x.active w ≠ [] ∧ fifoFull s x.core = false ∧ copyFull s x.core = false ∧
      (readShape x s (x.lowPair w.a.toNat) = .stop r ∨
        ∃ sh v, readShape x s (x.lowPair w.a.toNat) = .ok sh v ∧ r = .fault v 0x24 0 0 ∧
          (tileShape sh = false ∨ (x.slot w.fs).elem ≠ sh.elem ∨
            (w.sub.getLsbD 0 = true ∧ (sh.loc = true ∨ ((x.slot w.fs).elem ≠ .fp32 ∧ (x.slot w.fs).elem ≠ .bf16))) ∨
            wordOk x.gr.launch.localSize (x.lowS w.b.toNat) = false))

/-- Batches (R269, R273, R275): MFENCE closes the current batch and writes its number while fewer than 64 are outstanding; MWAIT goes on
when the batch it names, 1 to 128 closes ago, has retired; another distance is cause 0x25, and a number above 255 cause 0x24. MWAIT is an
acquire at CORE scope (R231, R275). With 64 batches outstanding MFENCE, and with its batch outstanding MWAIT, does not issue yet. That
MWAIT takes its number from the lowest issuing slice is the model's choice (log entry 65). -/
def Obligations.batches_complete : Prop :=
  (Safety.inForms 0xC7 .mfence .mfenceX fun i how w => Safety.goesOn i how (Safety.onceTo w fun x s u =>
    x.g.mopen < 64 ∧
      u = x.put s
        { x.g.writes (x.sl.flatMap fun k => x.ws k w.d.toNat (x.g.mbatch.zeroExtend 32)) with
          mbatch := x.g.mbatch + 1, mopen := x.g.mopen + 1 })) ∧
  (Safety.inForms3 0xC8 .mwait .mwaitL .mwaitX fun i how w => Safety.goesOn i how (Safety.onceTo w fun x s u =>
    Safety.mwaitNumber x w < 256 ∧ 1 ≤ Safety.mwaitDist x w ∧ Safety.mwaitDist x w ≤ 128 ∧
      x.g.mopen < Safety.mwaitDist x w ∧ u = acquire s x 4)) ∧
  (Safety.inForms 0xC7 .mfence .mfenceX fun i how w => Safety.waitsWhile i how fun x _ =>
    x.active w ≠ [] ∧ 64 ≤ x.g.mopen) ∧
  (Safety.inForms3 0xC8 .mwait .mwaitL .mwaitX fun i how w => Safety.faultsWith i how 0x24 0 fun x _ =>
    (x.active w).isEmpty = false ∧ 256 ≤ Safety.mwaitNumber x w) ∧
  (Safety.inForms3 0xC8 .mwait .mwaitL .mwaitX fun i how w => Safety.faultsWith i how 0x25 0 fun x _ =>
    (x.active w).isEmpty = false ∧ Safety.mwaitNumber x w < 256 ∧
      (Safety.mwaitDist x w = 0 ∨ 128 < Safety.mwaitDist x w)) ∧
  Safety.inForms3 0xC8 .mwait .mwaitL .mwaitX fun i how w => ∀ s x, Safety.issues how s x = true →
    ((waited how x).active w).isEmpty = false → Safety.mwaitNumber (waited how x) w < 256 →
    1 ≤ Safety.mwaitDist (waited how x) w → Safety.mwaitDist (waited how x) w ≤ 128 →
    Safety.mwaitDist (waited how x) w ≤ (waited how x).g.mopen → exec i s = .next (waitedState how x s)

/-- Copies, fences and shape records (R265 to R267, R285, R288, R289): while its queue is not full, BCOPY and BCOPYM post the copy of the
two records that they read, where their boxes and element widths agree and the rules of R288 and R289 hold; QFENCE enters every queue that
it names, and frees what can be freed; SREC writes the word of the record that it names. While a queue that one needs is full it does not
issue (R264). Where a record cannot be read, the read stops the instruction: a record that is not 128-byte aligned or not canonical, or
that R284 calls ill-formed, is the engine-operand fault 0x24; a page fault takes trap 1 on the lanes of the stream, and any other fault of
the access is raised. Records that do not agree, a completion word that R266 does not allow, an SREC index above 31 or a record address
that is not aligned are cause 0x24. -/
def Obligations.copies_and_fences_post : Prop :=
  (Safety.inForms 0xC9 .bcopy .bcopyX fun i how w => ∀ dst src v v', Safety.goesOn i how (Safety.onceTo w fun x s u =>
    copyFull s x.core = false ∧ readShape x s (x.lowPair w.d.toNat) = .ok dst v ∧
      readShape x v (x.lowPair w.a.toNat) = .ok src v' ∧ dst.box = src.box ∧ elemBits dst.elem = elemBits src.elem ∧
      wordOk x.gr.launch.localSize (x.lowS w.b.toNat) = true ∧
      u = postCopy x v' (.bcopy dst src (x.lowS w.b.toNat)))) ∧
  (Safety.inForms 0xCA .bcopym .bcopymX fun i how w => ∀ dst src v v',
    Safety.goesOn i how (Safety.onceTo w fun x s u =>
      copyFull s x.core = false ∧ readShape x s (x.lowPair w.b.toNat) = .ok dst v ∧
        readShape x v (x.lowPair w.a.toNat) = .ok src v' ∧ dst.box = src.box ∧ elemBits dst.elem = elemBits src.elem ∧
        dst.loc = true ∧ src.loc = false ∧ (x.lowS w.d.toNat).toNat < 256 ∧
        wordOk x.gr.launch.localSize (dst.crec.extractLsb' 0 32) = true ∧
        u = postCopy x v' (.bcopym ((x.lowS w.d.toNat).extractLsb' 0 8) dst src none))) ∧
  (Safety.inForms 0xCB .qfence .qfenceX fun i how w => Safety.goesOn i how (Safety.onceTo w fun x s u =>
    let m := w.d.extractLsb' 0 4
    (m.getLsbD 0 = true → fifoFull s x.core = false) ∧ (m.getLsbD 1 = true → copyFull s x.core = false) ∧
      (m.getLsbD 2 = true → routeFull s x.core = false) ∧ (m.getLsbD 3 = true → collFull s x.core = false) ∧
      u = Safety.fenced x s m)) ∧
  (Safety.inForms3 0xCF .srec .srecL .srecX fun i how w => ∀ acc v, Safety.goesOn i how (Safety.onceTo w fun x s u =>
    (x.lowS w.a.toNat).toNat ≤ 31 ∧ (x.lowPair w.d.toNat).toNat % 128 = 0 ∧
      Safety.reached x s needW 4 [(x.low, (x.lowPair w.d.toNat).toNat + 4 * (x.lowS w.a.toNat).toNat)] = some (acc, v) ∧
      u = acc.foldl (fun s a => x.write s a.va a.pa 4 (x.bS w x.low).toNat) v)) ∧
  (∀ x s (a : DWord), (a.toNat % 128 ≠ 0 ∨ canonical a.toNat = false → readShape x s a = .stop (.fault s 0x24 0 0)) ∧
    (a.toNat % 128 = 0 → canonical a.toNat = true →
      (∀ r, getOperand x s a.toNat 128 128 = .stop r → readShape x s a = .stop r) ∧
      ∀ v u, getOperand x s a.toNat 128 128 = .ok v u →
        parseShape (gridElems x.gr.launch.slots) x.gr.launch.localSize v = none →
        readShape x s a = .stop (.fault u 0x24 0 0))) ∧
  (∀ x s va n align c miss u, checkAccesses s x.core x.gr.space false needR align [(x.low, va)] = (c, miss, u) →
    let v := x.count u 11 miss
    (∀ k d a, c = .fault k d a → getOperand x s va n align = .stop (.fault v k d (BitVec.ofNat 64 a))) ∧
    (∀ ks b, c = .page ks b → getOperand x s va n align = .stop (.trap v
      { cause := 1, detail := 0, faddr := BitVec.ofNat 64 b, fmask := laneMask x.lanes, need := [] })) ∧
    ∀ pa leaf, c = .ok [(pa, leaf)] → targetRefuses v pa = false →
      (mustWait v x.core needR pa = true → getOperand x s va n align = .stop (.stall s)) ∧
      ∀ d q, mustWait v x.core needR pa = false → readPoison v x.core pa n = (some d, q) →
        getOperand x s va n align = .stop (.fault q 0x40 d 0)) ∧
  (Safety.inForms 0xC9 .bcopy .bcopyX fun i how w =>
    (Safety.waitsWhile i how fun x s => x.active w ≠ [] ∧ copyFull s x.core = true) ∧
    Safety.stopsAt i how fun x s r => x.active w ≠ [] ∧ copyFull s x.core = false ∧
      (readShape x s (x.lowPair w.d.toNat) = .stop r ∨ ∃ dst v, readShape x s (x.lowPair w.d.toNat) = .ok dst v ∧
        (readShape x v (x.lowPair w.a.toNat) = .stop r ∨ ∃ src v', readShape x v (x.lowPair w.a.toNat) = .ok src v' ∧
          r = .fault v' 0x24 0 0 ∧ (dst.box ≠ src.box ∨ elemBits dst.elem ≠ elemBits src.elem ∨
            wordOk x.gr.launch.localSize (x.lowS w.b.toNat) = false)))) ∧
  (Safety.inForms 0xCA .bcopym .bcopymX fun i how w =>
    (Safety.waitsWhile i how fun x s => x.active w ≠ [] ∧ copyFull s x.core = true) ∧
    Safety.stopsAt i how fun x s r => x.active w ≠ [] ∧ copyFull s x.core = false ∧
      (readShape x s (x.lowPair w.b.toNat) = .stop r ∨ ∃ dst v, readShape x s (x.lowPair w.b.toNat) = .ok dst v ∧
        (readShape x v (x.lowPair w.a.toNat) = .stop r ∨ ∃ src v', readShape x v (x.lowPair w.a.toNat) = .ok src v' ∧
          r = .fault v' 0x24 0 0 ∧ (dst.box ≠ src.box ∨ elemBits dst.elem ≠ elemBits src.elem ∨ dst.loc = false ∨ src.loc = true ∨
            256 ≤ (x.lowS w.d.toNat).toNat ∨ wordOk x.gr.launch.localSize (dst.crec.extractLsb' 0 32) = false)))) ∧
  (Safety.inForms 0xCB .qfence .qfenceX fun i how w => Safety.waitsWhile i how fun x s =>
    let m := w.d.extractLsb' 0 4
    x.active w ≠ [] ∧ ((m.getLsbD 0 = true ∧ fifoFull s x.core = true) ∨ (m.getLsbD 1 = true ∧ copyFull s x.core = true) ∨
      (m.getLsbD 2 = true ∧ routeFull s x.core = true) ∨ (m.getLsbD 3 = true ∧ collFull s x.core = true))) ∧
  Safety.inForms3 0xCF .srec .srecL .srecX fun i how w =>
    (Safety.faultsWith i how 0x24 0 fun x _ =>
      x.active w ≠ [] ∧ (31 < (x.lowS w.a.toNat).toNat ∨ (x.lowPair w.d.toNat).toNat % 128 ≠ 0)) ∧
    Safety.accessesStop i how needW 4 (fun x =>
      if (x.active w).isEmpty ∨ 31 < (x.lowS w.a.toNat).toNat ∨ (x.lowPair w.d.toNat).toNat % 128 ≠ 0 then []
      else [(x.low, (x.lowPair w.d.toNat).toNat + 4 * (x.lowS w.a.toNat).toNat)]) (fun x _ => x.lanes)

/-- ROUTE, COLL and SEQGO (R292, R317, R318, R321): while its queue is not full and what it reads meets the rules, ROUTE posts the
operation of its parameter block, replica table, outputs and scores, and COLL that of its descriptor and record; SEQGO launches the
collective of its packet and writes the launch status. COLL and SEQGO make the set non-replayable (R374). ROUTE and COLL do not issue
while their queue is full (R264); a block, a table, a record or a completion word that breaks a rule is cause 0x24, and a read that cannot
be made stops them as the read says, a packet of SEQGO with V = 0 as trap 1 (R265, R266, R284, R292, R318, R321). That the other packages
answer a launch within the step of SEQGO is the model's choice (log entry 29), and that COLL's issue checks the class of its flag's page
where that page is mapped is the model's reading of R321 (log entry 50). -/
def Obligations.routing_and_collectives_post : Prop :=
  (Safety.inForms 0xCC .route .routeX fun i how w => ∀ sh v rep d s1 s2 s3 s4,
    Safety.goesOn i how (Safety.onceTo w fun x s u =>
      let od := (x.lowPair w.d.toNat).toNat
      let pb := (x.lowPair w.b.toNat).toNat
      routeFull s x.core = false ∧ od % 32 = 0 ∧ pb % 64 = 0 ∧ readShape x s (x.lowPair w.a.toNat) = .ok sh s1 ∧
        getOperand x s1 pb 64 64 = .ok v s2 ∧ routeRules (w.sub.getLsbD 0) v = true ∧
        scoreRules sh (fieldOf v 0 4) (fieldOf v 4 4) = true ∧
        wordOk x.gr.launch.localSize (BitVec.ofNat 32 (fieldOf v 0x20 4)) = true ∧
        (if fieldOf v 0x18 8 = 0 then rep = List.range (fieldOf v 4 4) ∧ s3 = s2
          else readReplicas x (fieldOf v 4 4) (fieldOf v 0x18 8) [] s2 = .ok rep s3) ∧
        (∀ r ∈ rep, r < fieldOf v 8 4) ∧ getOperand x s3 od 32 32 = .ok d s4 ∧
        u = nextOp (modRoute s4 (dieOfCore x.core) (· ++ [x.engOp s4.opCtr (.route
          { expert := w.sub.getLsbD 0, t := fieldOf v 0 4, e := fieldOf v 4 4, p := fieldOf v 8 4, k := fieldOf v 12 4
            capacity := fieldOf v 16 4, renorm := decide (fieldOf v 20 4 = 1), rep := rep
            word := BitVec.ofNat 32 (fieldOf v 0x20 4)
            outs := (List.range 4).map fun i => BitVec.ofNat 64 (fieldOf d (8 * i) 8), score := sh })])))) ∧
  (Safety.inForms 0xCD .coll .collX fun i how w => ∀ v sh s1 s2, Safety.goesOn i how (Safety.onceTo w fun x s u =>
    let d := (x.lowPair w.a.toNat).toNat
    collFull s x.core = false ∧ d % 32 = 0 ∧ canonical d = true ∧ getOperand x s d 32 32 = .ok v s1 ∧
      fieldOf v 8 8 % 8 = 0 ∧ fieldOf v 0x18 8 = 0 ∧ wordOk x.gr.launch.localSize (x.lowS w.b.toNat) = true ∧
      readShape x s1 (BitVec.ofNat 64 (fieldOf v 0 8)) = .ok sh s2 ∧ sh.loc = false ∧ tileShape sh = true ∧
      (sh.elem = .fp32 ∨ sh.elem = .bf16) ∧ flagOnNC s2 x.gr.space (fieldOf v 8 8) = false ∧
      u = nextOp (modCore (noReplay s2 x) x.core fun q =>
        { q with collq := q.collq ++ [x.engOp s2.opCtr (.coll sh (x.slot sh.slot) w.d.toNat [] none
          (BitVec.ofNat 64 (fieldOf v 8 8)) (BitVec.ofNat 64 (fieldOf v 0x10 8)) (x.lowS w.b.toNat))] }))) ∧
  (Safety.inForms 0xCE .seqgo .seqgoX fun i how w => ∀ st cid v v', Safety.goesOn i how (Safety.onceTo w fun x s u =>
    (if (x.lowPair w.a.toNat).toNat % 64 ≠ 0 then v = s
      else ∃ c miss q, checkAccesses s x.core x.gr.space false needR 64 [(x.low, (x.lowPair w.a.toNat).toNat)]
          = (c, miss, q) ∧ (∀ ks b, c ≠ .page ks b) ∧ v = x.count q 11 miss) ∧
      launchColl x.gr.space (x.lowPair w.a.toNat) none v = .status st cid v' ∧
      u = modGroup (noReplay v' x) x.uid fun g =>
        g.writes (x.sl.flatMap fun k => x.ws k w.d.toNat (BitVec.ofNat 32 st)))) ∧
  (Safety.inForms 0xCC .route .routeX fun i how w =>
    (Safety.waitsWhile i how fun x s => x.active w ≠ [] ∧ routeFull s x.core = true) ∧
    Safety.stopsAt i how fun x s r =>
      let od := (x.lowPair w.d.toNat).toNat
      let pb := (x.lowPair w.b.toNat).toNat
      x.active w ≠ [] ∧ routeFull s x.core = false ∧
      ((r = .fault s 0x24 0 0 ∧ (od % 32 ≠ 0 ∨ pb % 64 ≠ 0)) ∨
        (od % 32 = 0 ∧ pb % 64 = 0 ∧
          (readShape x s (x.lowPair w.a.toNat) = .stop r ∨ ∃ sh s1, readShape x s (x.lowPair w.a.toNat) = .ok sh s1 ∧
            (getOperand x s1 pb 64 64 = .stop r ∨ ∃ v s2, getOperand x s1 pb 64 64 = .ok v s2 ∧
              let ok := routeRules (w.sub.getLsbD 0) v && scoreRules sh (fieldOf v 0 4) (fieldOf v 4 4)
                && wordOk x.gr.launch.localSize (BitVec.ofNat 32 (fieldOf v 0x20 4))
              ((ok = false ∧ r = .fault s2 0x24 0 0) ∨
                (ok = true ∧ ((fieldOf v 0x18 8 ≠ 0 ∧ readReplicas x (fieldOf v 4 4) (fieldOf v 0x18 8) [] s2 = .stop r) ∨
                  ∃ rep s3, (if fieldOf v 0x18 8 = 0 then rep = List.range (fieldOf v 4 4) ∧ s3 = s2
                      else readReplicas x (fieldOf v 4 4) (fieldOf v 0x18 8) [] s2 = .ok rep s3) ∧
                    (((∃ q ∈ rep, fieldOf v 8 4 ≤ q) ∧ r = .fault s3 0x24 0 0) ∨
                      ((∀ q ∈ rep, q < fieldOf v 8 4) ∧ getOperand x s3 od 32 32 = .stop r))))))))) ) ∧
  (Safety.inForms 0xCD .coll .collX fun i how w =>
    (Safety.waitsWhile i how fun x s => x.active w ≠ [] ∧ collFull s x.core = true) ∧
    Safety.stopsAt i how fun x s r =>
      let d := (x.lowPair w.a.toNat).toNat
      x.active w ≠ [] ∧ collFull s x.core = false ∧
      ((r = .fault s 0x24 0 0 ∧ (d % 32 ≠ 0 ∨ canonical d = false)) ∨
        (d % 32 = 0 ∧ canonical d = true ∧
          (getOperand x s d 32 32 = .stop r ∨ ∃ v s1, getOperand x s d 32 32 = .ok v s1 ∧
            let ok := fieldOf v 8 8 % 8 = 0 ∧ fieldOf v 0x18 8 = 0 ∧ wordOk x.gr.launch.localSize (x.lowS w.b.toNat) = true
            ((¬ ok ∧ r = .fault s1 0x24 0 0) ∨
              (ok ∧ (readShape x s1 (BitVec.ofNat 64 (fieldOf v 0 8)) = .stop r ∨
                ∃ sh s2, readShape x s1 (BitVec.ofNat 64 (fieldOf v 0 8)) = .ok sh s2 ∧ r = .fault s2 0x24 0 0 ∧
                  (sh.loc = true ∨ tileShape sh = false ∨ (sh.elem ≠ .fp32 ∧ sh.elem ≠ .bf16) ∨
                    flagOnNC s2 x.gr.space (fieldOf v 8 8) = true))))))) ) ∧
  Safety.inForms 0xCE .seqgo .seqgoX fun i how w => Safety.stopsAt i how fun x s r =>
    x.active w ≠ [] ∧ (x.lowPair w.a.toNat).toNat % 64 = 0 ∧
    ∃ ks b miss q, checkAccesses s x.core x.gr.space false needR 64 [(x.low, (x.lowPair w.a.toNat).toNat)] = (.page ks b, miss, q) ∧
      r = .trap (x.count q 11 miss)
        { cause := 1, detail := 0, faddr := BitVec.ofNat 64 b, fmask := laneMask x.lanes, need := [] }

/-- Barriers (R391 to R395): where the object that its word names can be reached, BINIT writes it with its expected count and scope, BARV
takes its count from it, and BARVX one arrival and adds its bytes; BTEST writes whether the phase differs from its operand. An arrival
that brings both counts to zero or below flips the phase and starts the next one. An operand out of its range is cause 0x24. An object in
local memory that is not 8-byte aligned is cause 0x24, and one past the team's local size 0x21; one in memory that cannot be reached
raises the fault of its access, 0x20 where it is not 16-byte aligned, or takes trap 1, and one whose page does not admit its scope is 0x22
with detail 3 (R392). That BTEST of a poisoned object is cause 0x40 is the model's reading of R372 (log entry 45). -/
def Obligations.barriers_complete : Prop :=
  (Safety.inForms3 0xD0 .binit .binitL .binitX fun i how w => ∀ q v, Safety.goesOn i how (Safety.onceTo w fun x s u =>
    let n := (x.bS w x.low).toNat
    let b : Barrier := { arr := ((n % 2 ^ 16 : Nat) : Int), tx := 0, expa := n % 2 ^ 16, scope := n / 2 ^ 16 % 8,
                         phase := false, past := false }
    n % 2 ^ 16 ≠ 0 ∧ n / 2 ^ 16 % 8 ≠ 7 ∧ n < 2 ^ 19 ∧
      barrierAt x s (x.lowS w.a.toNat) (some (n / 2 ^ 16 % 8)) = .ok q v ∧
      u = match q.1 with
        | .loc off => modTeam v x.g.team fun t => { t with mem := writeN t.mem off 16 b.toNat }
        | .mem va pa _ => x.write (x.write v (va + 8) (pa + 8) 8 (b.toNat / 2 ^ 64)) va pa 8 (b.toNat % 2 ^ 64))) ∧
  (Safety.inForms3 0xD1 .barv .barvL .barvX fun i how w => ∀ q v,
    Safety.goesOn i (howCompare w how) (Safety.onceTo w fun x s u =>
      (x.bS w x.low).toNat < 2 ^ 16 ∧ barrierAt x s (x.lowS w.a.toNat) none = .ok q v ∧
        u = x.arrive v q.1 ((x.bS w x.low).toNat : Int) 0)) ∧
  (Safety.inForms3 0xD2 .barvx .barvxL .barvxX fun i how w => ∀ q v,
    Safety.goesOn i (howCompare w how) (Safety.onceTo w fun x s u =>
      (x.bS w x.low).toNat < 2 ^ 31 ∧ barrierAt x s (x.lowS w.a.toNat) none = .ok q v ∧
        u = x.arrive v q.1 1 ((x.bS w x.low).toNat : Int))) ∧
  (Safety.inForms 0xD4 .btest .btestX fun i how w => ∀ q v, Safety.goesOn i how (Safety.onceTo w fun x s u =>
    let p := (x.lowS w.b.toNat).toNat
    p ≤ 1 ∧ barrierAt x s (x.lowS w.a.toNat) none = .ok q v ∧ barrierPoison v q.1 = none ∧
      let o := decide (q.2.phase ≠ decide (p = 1))
      u = if o then acquire (modGroup v x.uid fun g => g.writes (x.sl.flatMap fun k => x.wc k w.d.toNat o))
            x q.2.scope
          else modGroup v x.uid fun g => g.writes (x.sl.flatMap fun k => x.wc k w.d.toNat o))) ∧
  (∀ (b : Barrier) da dt, sat32 (b.arr - da) ≤ 0 → sat32 (b.tx + dt) ≤ 0 →
    (b.arrive da dt).phase = !b.phase ∧ (b.arrive da dt).arr = b.expa ∧ (b.arrive da dt).tx = 0) ∧
  (∀ x s (word : Word) sc,
    (word.getLsbD 31 = false →
      (2 ^ 19 ≤ word.toNat ∨ word.toNat % 8 ≠ 0 → barrierAt x s word sc = .stop (.fault s 0x24 0 0)) ∧
      (word.toNat < 2 ^ 19 → word.toNat % 8 = 0 → x.gr.launch.localSize < word.toNat + 16 →
        barrierAt x s word sc = .stop (.fault s 0x21 0 0)) ∧
      (word.toNat < 2 ^ 19 → word.toNat % 8 = 0 → word.toNat + 16 ≤ x.gr.launch.localSize →
        barrierAt x s word sc = .ok (.loc word.toNat, barrierOf (readN x.t.mem word.toNat 16)) s)) ∧
    (word.getLsbD 31 = true →
      let va := (x.gr.launch.params.toNat + 16 * (word.toNat % 2 ^ 31)) % 2 ^ 64
      let need : Need := { r := true, w := true, x := false, scope := none, atom := some 0 }
      ∀ c miss u, checkAccesses s x.core x.gr.space false need 16 [(x.low, va)] = (c, miss, u) →
        let v := x.count u 11 miss
        (∀ k d a, c = .fault k d a → barrierAt x s word sc = .stop (.fault v k d (BitVec.ofNat 64 a))) ∧
        (∀ ks b, c = .page ks b → barrierAt x s word sc = .stop (.trap v
          { cause := 1, detail := 0, faddr := BitVec.ofNat 64 b, fmask := laneMask x.lanes, need := [] })) ∧
        ∀ pa leaf, c = .ok [(pa, leaf)] →
          let b := barrierOf (ofBytes (overlay x.t.held pa (readList v.mem pa 16)))
          classOk v.pkg (some (dieOfCore x.core)) (leafCls leaf) pa { need with scope := some (sc.getD b.scope) } = false →
          barrierAt x s word sc = .stop (.fault v 0x22 3 (BitVec.ofNat 64 va)))) ∧
  (Safety.inForms3 0xD0 .binit .binitL .binitX fun i how w => Safety.stopsAt i how fun x s r =>
    let n := (x.bS w x.low).toNat
    x.active w ≠ [] ∧ ((r = .fault s 0x24 0 0 ∧ (n % 2 ^ 16 = 0 ∨ n / 2 ^ 16 % 8 = 7 ∨ 2 ^ 19 ≤ n)) ∨
      (n % 2 ^ 16 ≠ 0 ∧ n / 2 ^ 16 % 8 ≠ 7 ∧ n < 2 ^ 19 ∧ barrierAt x s (x.lowS w.a.toNat) (some (n / 2 ^ 16 % 8)) = .stop r))) ∧
  (Safety.inForms3 0xD1 .barv .barvL .barvX fun i how w => Safety.stopsAt i (howCompare w how) fun x s r =>
    x.active w ≠ [] ∧ ((r = .fault s 0x24 0 0 ∧ 2 ^ 16 ≤ (x.bS w x.low).toNat) ∨
      ((x.bS w x.low).toNat < 2 ^ 16 ∧ barrierAt x s (x.lowS w.a.toNat) none = .stop r))) ∧
  (Safety.inForms3 0xD2 .barvx .barvxL .barvxX fun i how w => Safety.stopsAt i (howCompare w how) fun x s r =>
    x.active w ≠ [] ∧ ((r = .fault s 0x24 0 0 ∧ 2 ^ 31 ≤ (x.bS w x.low).toNat) ∨
      ((x.bS w x.low).toNat < 2 ^ 31 ∧ barrierAt x s (x.lowS w.a.toNat) none = .stop r))) ∧
  Safety.inForms 0xD4 .btest .btestX fun i how w => Safety.stopsAt i how fun x s r =>
    x.active w ≠ [] ∧ ((r = .fault s 0x24 0 0 ∧ 1 < (x.lowS w.b.toNat).toNat) ∨
      ((x.lowS w.b.toNat).toNat ≤ 1 ∧ (barrierAt x s (x.lowS w.a.toNat) none = .stop r ∨
        ∃ q v d, barrierAt x s (x.lowS w.a.toNat) none = .ok q v ∧ barrierPoison v q.1 = some d ∧ r = .fault v 0x40 d 0)))

/-- Waits (R395, R396, R398): BWAIT goes on when the phase differs from its operand, and WAITV when its condition holds, each with the
acquire of its object; otherwise the stream is descheduled at the wait with its timeout. In a handler either is illegal. A parity of BWAIT
above 1 is cause 0x24, and an object or a value that cannot be read stops the wait as its access says: WAITV's is cause 0x20 where it is
not 4-byte aligned, and takes trap 1 where its page has V = 0 (R392, R395, R398). That a poisoned object or value is cause 0x40 is the model's
reading of R372, which names loads and atomics (log entry 45). -/
def Obligations.waits_complete : Prop :=
  (Safety.inForms 0xD3 .bwait .bwaitX fun i how w => ∀ q v, Safety.goesOn i (howBwait w how) (Safety.onceTo w fun x s u =>
    x.inH = false ∧ (x.lowS w.b.toNat).toNat ≤ 1 ∧ barrierAt x s (x.lowS w.a.toNat) none = .ok q v ∧
      barrierPoison v q.1 = none ∧ q.2.phase ≠ (x.lowS w.b.toNat).getLsbD 0 ∧ u = acquire v x q.2.scope)) ∧
  (Safety.inForms 0xD3 .bwait .bwaitX fun i how w => ∀ q v, Safety.flowsTo i (howBwait w how) fun x s u =>
    (x.active w).isEmpty = false ∧ x.inH = false ∧ (x.lowS w.b.toNat).toNat ≤ 1 ∧
      barrierAt x s (x.lowS w.a.toNat) none = .ok q v ∧
      barrierPoison v q.1 = none ∧ q.2.phase = (x.lowS w.b.toNat).getLsbD 0 ∧
      u = Safety.descheduled x v (.barrier (x.lowS w.a.toNat) ((x.lowS w.b.toNat).getLsbD 0)) (x.lowS w.d.toNat) how.len) ∧
  (Safety.inForms3 0xD5 .waitv .waitvL .waitvX fun i how w => ∀ q v,
    Safety.goesOn i (howWait w how) (Safety.onceTo w fun x s u =>
      x.inH = false ∧ waitvRead x s (x.lowPair w.a.toNat).toNat = .ok q v ∧
        intCompare w.sub.toNat (BitVec.ofNat 32 q.1) (x.bS w x.low) = true ∧
        u = acquire v x (widestScope q.2))) ∧
  (Safety.inForms3 0xD5 .waitv .waitvL .waitvX fun i how w => ∀ q v, Safety.flowsTo i (howWait w how) fun x s u =>
    (x.active w).isEmpty = false ∧ x.inH = false ∧ waitvRead x s (x.lowPair w.a.toNat).toNat = .ok q v ∧
      intCompare w.sub.toNat (BitVec.ofNat 32 q.1) (x.bS w x.low) = false ∧
      u = Safety.descheduled x v (.value (x.lowPair w.a.toNat) w.sub.toNat (x.bS w x.low)) (x.lowS w.d.toNat) how.len) ∧
  (Safety.inForms 0xD3 .bwait .bwaitX fun i how w => Safety.faultsWith i (howBwait w how) 0x10 0 fun x _ =>
    (x.active w).isEmpty = false ∧ x.inH = true) ∧
  (Safety.inForms3 0xD5 .waitv .waitvL .waitvX fun i how w => Safety.faultsWith i (howWait w how) 0x10 0 fun x _ =>
    (x.active w).isEmpty = false ∧ x.inH = true) ∧
  (Safety.inForms 0xD3 .bwait .bwaitX fun i how w => Safety.stopsAt i (howBwait w how) fun x s r =>
    x.active w ≠ [] ∧ x.inH = false ∧ ((r = .fault s 0x24 0 0 ∧ 1 < (x.lowS w.b.toNat).toNat) ∨
      ((x.lowS w.b.toNat).toNat ≤ 1 ∧ (barrierAt x s (x.lowS w.a.toNat) none = .stop r ∨
        ∃ q v d, barrierAt x s (x.lowS w.a.toNat) none = .ok q v ∧ barrierPoison v q.1 = some d ∧ r = .fault v 0x40 d 0)))) ∧
  (Safety.inForms3 0xD5 .waitv .waitvL .waitvX fun i how w => Safety.stopsAt i (howWait w how) fun x s r =>
    x.active w ≠ [] ∧ x.inH = false ∧ waitvRead x s (x.lowPair w.a.toNat).toNat = .stop r) ∧
  ∀ x s va c miss u, checkAccesses s x.core x.gr.space false needR 4 [(x.low, va)] = (c, miss, u) →
    let v := x.count u 11 miss
    (∀ k d a, c = .fault k d a → waitvRead x s va = .stop (.fault v k d (BitVec.ofNat 64 a))) ∧
    (∀ ks b, c = .page ks b → waitvRead x s va = .stop (.trap v
      { cause := 1, detail := 0, faddr := BitVec.ofNat 64 b, fmask := laneMask x.lanes, need := [] })) ∧
    ∀ pa leaf d, c = .ok [(pa, leaf)] → targetRefuses v pa = false → mustWait v x.core needR pa = false →
      poisonAt v pa 4 = some d → waitvRead x s va = .stop (.fault v 0x40 d 0)

/-- TSRD, CNTRD, GET and PUT (R118 to R121, R125, R402, R406): domain time into a pair, a word of a grid counter, and a state register
into S[d] of each slice, each of R121 with its value (the budget as it stands after the GET's own issue, R400); PUT writes fstat, scratch0
or scratch1 from the lowest slice's copy, and no earlier instruction of the stream raises a flag after a PUT of fstat (R120). A register
that only a handler may read is privileged outside one. -/
def Obligations.state_registers_complete : Prop :=
  (Safety.inForms 0xD6 .tsrd .tsrdX fun i how w => Safety.goesOn i how (Safety.onceTo w fun x s u =>
    u = x.put s (x.g.writes (x.sl.flatMap fun k => x.wss k w.d.toNat s.dtime)))) ∧
  (Safety.inForms 0xD7 .cntrd .cntrdX fun i how w => Safety.goesOn i how (Safety.onceTo w fun x s u =>
    u = x.put s (x.g.writes (x.sl.flatMap fun k => x.ws k w.d.toNat
      ((x.gr.counters.getD (w.a.toNat / 2) 0).extractLsb' (32 * (w.a.toNat % 2)) 32))))) ∧
  (Safety.inForms 0xE0 .get .getX fun i how w => Safety.goesOn i (howGet w how) fun x s u =>
    (handlerReg w.a.toNat = true → x.inH = true) ∧
      u = x.put s (x.g.writes (x.sl.flatMap fun k => x.ws k w.d.toNat (x.stateReg s w.a.toNat k)))) ∧
  (∀ (x : Ctx) s k, x.stateReg s 0 k = BitVec.ofNat 32 (4 * k) ∧ x.stateReg s 1 k = BitVec.ofNat 32 k ∧
    x.stateReg s 2 k = BitVec.ofNat 32 x.g.gid ∧ x.stateReg s 3 k = BitVec.ofNat 32 x.t.num ∧
    x.stateReg s 4 k = x.t.grid.zeroExtend 32 ∧ x.stateReg s 5 k = BitVec.ofNat 32 x.gr.depth ∧
    x.stateReg s 6 k = BitVec.ofNat 32 x.g.width ∧ x.stateReg s 7 k = BitVec.ofNat 32 x.gr.launch.groups ∧
    x.stateReg s 9 k ++ x.stateReg s 8 k = x.gr.launch.params ∧ x.stateReg s 10 k = (coreAt s x.core).cycles ∧
    x.stateReg s 11 k = x.g.fstat.zeroExtend 32 ∧
    x.stateReg s 12 k = BitVec.ofNat 32 (if x.inH then x.g.budget else x.g.budget - 1) ∧
    x.stateReg s 13 k = x.g.mbatch.zeroExtend 32 ∧ x.stateReg s 14 k = BitVec.ofNat 32 (x.g.slice k).wb ∧
    x.stateReg s 15 k = BitVec.ofNat 32 (x.g.slice k).rb ∧ x.stateReg s 16 k = BitVec.ofNat 32 x.g.nregs ∧
    x.stateReg s 17 k = BitVec.ofNat 32 x.g.alloc ∧ x.stateReg s 18 k = BitVec.ofNat 32 (x.g.slice k).wneed ∧
    x.stateReg s 20 k ++ x.stateReg s 19 k = x.g.fmask ∧ x.stateReg s 21 k = x.g.scratch0 ∧ x.stateReg s 22 k = x.g.scratch1 ∧
    x.stateReg s 24 k = x.g.fcause ∧ x.stateReg s 26 k ++ x.stateReg s 25 k = x.g.faddr) ∧
  (∀ n, handlerReg n = true ↔ n ∈ [18, 19, 20, 24, 25, 26]) ∧
  (Safety.inForms 0xE0 .get .getX fun i how w => Safety.faultsWith i (howGet w how) 0x11 0 fun x _ =>
    handlerReg w.a.toNat = true ∧ x.inH = false) ∧
  (Safety.inForms 0xE1 .put .putX fun i how w => Safety.goesOn i how fun x s u =>
    u = x.put s (if w.d.toNat = 11 then (x.g.putFstat x.e ((x.s x.low w.a.toNat).extractLsb' 0 6))
      else if w.d.toNat = 21 then { x.g with scratch0 := x.s x.low w.a.toNat }
      else if w.d.toNat = 22 then { x.g with scratch1 := x.s x.low w.a.toNat } else x.g)) ∧
  ∀ (g : Group) e v, (g.putFstat e v).fstat = v ∧ (∀ r, (g.putFstat e v).reg r = g.reg r) ∧
    (∀ k, k ≠ e → (g.putFstat e v).split k = g.split k) ∧ (e < g.splits.length →
      (g.putFstat e v).split e = { g.split e with pend := (g.split e).pend.map fun p => { p with flags := 0 } })

/-! ### Class 111 -/

/-- Management registers (R410, R411): in a handler SYSGET gives the registers that a handler may read, and SYSPUT of HNOTE writes it and
raises a host interrupt; another register is privileged, a reserved number is illegal with detail 9, and outside a handler both are
privileged. In a paired team that holds writes SYSPUT waits until its twin stands at it and the two have compared, which is the model's
reading of the wait of R411 (log entry 16). -/
def Obligations.management_registers_complete : Prop :=
  (Safety.inForms3 0xE2 .sysget .sysgetL .sysgetX fun i how w => ∀ n v, Safety.goesOn i how fun x s u =>
    x.inH = true ∧ mgmtNumber w w.a = some n ∧ handlerRead s x.core n = some v ∧
      u = x.put s (x.g.writes (x.sl.flatMap fun k => x.ws k w.d.toNat v))) ∧
  (Safety.inForms3 0xE3 .sysput .sysputL .sysputX fun i how w => Safety.goesOn i how fun x s u =>
    x.inH = true ∧ mgmtNumber w w.d = some 8 ∧ (pairOf s x.g.team = none ∨ x.t.held = []) ∧
      u = tellHost { s with mgmt := { s.mgmt with hnote := x.s x.low w.a.toNat } } "hnote"
        [(x.s x.low w.a.toNat).toNat]) ∧
  (Safety.inForms3 0xE3 .sysput .sysputL .sysputX fun i how w => ∀ p v,
    let there (x : Ctx) (s : State) : Bool :=
      (twinGroup s (if p = x.g.team then v else p) x.g.gid).any fun y => decide (y.2.handler.map (·.pc) = x.g.handler.map (·.pc))
    (Safety.waitsWhile i how fun x s =>
      x.inH = true ∧ mgmtNumber w w.d = some 8 ∧ pairOf s x.g.team = some (p, v) ∧ x.t.held ≠ [] ∧ there x s = false) ∧
    (Safety.stopsAt i how fun x s r =>
      x.inH = true ∧ mgmtNumber w w.d = some 8 ∧ pairOf s x.g.team = some (p, v) ∧ x.t.held ≠ [] ∧ there x s = true ∧
        sigsEqual s p v = false ∧
        r = .stall (mismatchPair s p v (((twinGroup s p x.g.gid).map (·.1)).getD x.uid) x.e 0)) ∧
    Safety.goesOn i how fun x s u =>
      x.inH = true ∧ mgmtNumber w w.d = some 8 ∧ pairOf s x.g.team = some (p, v) ∧ x.t.held ≠ [] ∧ there x s = true ∧
        sigsEqual s p v = true ∧
        u = tellHost { comparePair s p v with mgmt := { (comparePair s p v).mgmt with hnote := x.s x.low w.a.toNat } } "hnote"
          [(x.s x.low w.a.toNat).toNat]) ∧
  (Safety.inForms3 0xE2 .sysget .sysgetL .sysgetX fun i how w =>
    (Safety.faultsWith i how 0x11 0 fun x _ => x.inH = false) ∧
    (Safety.faultsWith i how 0x10 9 fun x _ => x.inH = true ∧ mgmtNumber w w.a = none) ∧
    Safety.faultsWith i how 0x11 0 fun x s =>
      x.inH = true ∧ ∃ n, mgmtNumber w w.a = some n ∧ handlerRead s x.core n = none) ∧
  (Safety.inForms3 0xE3 .sysput .sysputL .sysputX fun i how w =>
    (Safety.faultsWith i how 0x11 0 fun x _ => x.inH = false) ∧
    (Safety.faultsWith i how 0x10 9 fun x _ => x.inH = true ∧ mgmtNumber w w.d = none) ∧
    Safety.faultsWith i how 0x11 0 fun x _ => x.inH = true ∧ ∃ n, mgmtNumber w w.d = some n ∧ n ≠ 8) ∧
  (∀ (w : ExtArgs) f, mgmtNumber w f =
    match w.lit with
    | some v => if v.toNat % 2 ^ 32 ≤ 21 then some (v.toNat % 2 ^ 32) else none
    | none => if f.toNat ≤ 21 then some f.toNat else none) ∧
  ∀ s c, handlerRead s c 0 = some ((Config.stepping.zeroExtend 32 <<< 16) ||| 0x9A) ∧
    handlerRead s c 1 = some (s.pkg.zeroExtend 32) ∧ handlerRead s c 2 = some (s.dtime.extractLsb' 0 32) ∧
    handlerRead s c 3 = some (s.dtime.extractLsb' 32 32) ∧ handlerRead s c 4 = some (s.mgmt.fnmode.zeroExtend 32) ∧
    handlerRead s c 9 = some (BitVec.ofNat 32 (poolFree s (dieOfCore c) % 2 ^ 24)) ∧
    ∀ n, n ∉ [0, 1, 2, 3, 4, 9] → handlerRead s c n = none

/-- Child grids (R35, R55, R399): LAUNCH by group 0 outside a handler validates its record and gives the status, or accepts the grid and
gives its handle times 256; CWAIT on a word with a status gives all ones, on a live child deschedules the stream, and on a
child that has retired gives its status. By another group LAUNCH is cause 0x1A, and while the command
processor of the grid is replaced it does not issue (R408, R415); CWAIT in a handler is illegal. -/
def Obligations.child_grids_complete : Prop :=
  (∀ (w : BaseArgs) st, Safety.goesOn (.launch w) { howSys 0xE4 w with compare := fun _ => true } fun x s u =>
    x.g.gid = 0 ∧ x.inH = false ∧ delayed s (cpOf s x.t.grid.toNat) = false ∧
    validate s x.gr.space (x.lowPair w.a.toNat) (x.gr.depth + 1) = (st, none) ∧
      u = modGroup s x.uid fun g => g.addPending x.e
        { writes := x.sl.flatMap fun k => x.ws k w.d.toNat (BitVec.ofNat 32 st), await := none }) ∧
  (∀ (w : BaseArgs) st l, Safety.goesOn (.launch w) { howSys 0xE4 w with compare := fun _ => true } fun x s u =>
    x.g.gid = 0 ∧ x.inH = false ∧ delayed s (cpOf s x.t.grid.toNat) = false ∧
    validate s x.gr.space (x.lowPair w.a.toNat) (x.gr.depth + 1) = (st, some l) ∧
      let r := newGrid s l x.gr.space (x.gr.depth + 1) (some x.t.grid.toNat) .child
      u = modGroup r.2 x.uid fun g => g.addPending x.e
        { writes := x.sl.flatMap fun k => x.ws k w.d.toNat (BitVec.ofNat 32 (r.1 * 256)), await := none }) ∧
  (∀ (w : BaseArgs), Safety.faultsWith (.launch w) { howSys 0xE4 w with compare := fun _ => true } 0x1A 0 fun x _ =>
    x.g.gid ≠ 0 ∨ x.inH = true) ∧
  (∀ (w : BaseArgs), Safety.waitsWhile (.launch w) { howSys 0xE4 w with compare := fun _ => true } fun x s =>
    x.g.gid = 0 ∧ x.inH = false ∧ delayed s (cpOf s x.t.grid.toNat) = true) ∧
  (∀ (w : BaseArgs), Safety.goesOn (.cwait w) { howSys 0xE5 w with wait := true } fun x s u =>
    x.inH = false ∧ (x.lowS w.a.toNat).extractLsb' 0 8 ≠ 0 ∧
      u = modGroup s x.uid fun g => g.writes (x.sl.flatMap fun k => x.ws k w.d.toNat 0xFFFFFFFF)) ∧
  (∀ (w : BaseArgs), Safety.flowsTo (.cwait w) { howSys 0xE5 w with wait := true } fun x s u =>
    x.inH = false ∧ (x.lowS w.a.toNat).extractLsb' 0 8 = 0 ∧
      liveChild s x.t.grid ((x.lowS w.a.toNat).toNat / 256) = true ∧
      u = Safety.descheduled x s (.child (x.lowS w.a.toNat) w.d.toNat) (x.lowS w.b.toNat) 4) ∧
  (∀ (w : BaseArgs), Safety.goesOn (.cwait w) { howSys 0xE5 w with wait := true } fun x s u =>
    x.inH = false ∧ (x.lowS w.a.toNat).extractLsb' 0 8 = 0 ∧
      liveChild s x.t.grid ((x.lowS w.a.toNat).toNat / 256) = false ∧
      let v := childStatus x.gr ((x.lowS w.a.toNat).toNat / 256)
      u = modGroup (if v = 0xFFFFFFFF then s else acquire s x 0) x.uid fun g =>
        g.writes (x.sl.flatMap fun k => x.ws k w.d.toNat v)) ∧
  ∀ (w : BaseArgs), Safety.faultsWith (.cwait w) { howSys 0xE5 w with wait := true } 0x10 9 fun x _ => x.inH = true

/-- RTE (R220, R221, R223): the return from a handler: fmask, fcause, faddr and wneed become zero, the bank is discarded, a merge
that waited for the handler takes place, an engine operation that the handler was entered for goes on, and the stream
resumes at its own program counter, which its slices kept. A status 2 or 3 of the last MAPP is noted with the page, for the stream's access
or fetch in its split, and for an engine in its operation. -/
def Obligations.return_from_a_trap_completes : Prop :=
  (∀ y h, Safety.flowsTo (.rte y) (howBare y) fun x s u =>
    x.inH = true ∧ x.g.handler = some h ∧
      let v := x.put s (mergeAll (returnFromTrap x.g))
      u = if h.engine then
          mapOps v (resumeOp x.uid x.e (if h.mapp = some 2 ∨ h.mapp = some 3 then some x.g.faddr else none))
        else v) ∧
  (∀ g h, g.handler = some h →
    (returnFromTrap g).handler = none ∧ (returnFromTrap g).fmask = 0 ∧ (returnFromTrap g).fcause = 0 ∧
      (returnFromTrap g).faddr = 0 ∧ (returnFromTrap g).v = g.v ∧ (returnFromTrap g).p = g.p ∧
      (returnFromTrap g).fstat = g.fstat ∧
      ∀ k, k < g.slices.length → ((returnFromTrap g).slice k).pc = (g.slice k).pc ∧
        ((returnFromTrap g).slice k).wneed = 0 ∧ ((returnFromTrap g).slice k).s = (g.slice k).s ∧
        ((returnFromTrap g).slice k).loops = (g.slice k).loops) ∧
  (∀ g h, g.handler = some h → h.entry < g.splits.length →
    ((returnFromTrap g).split h.entry).mapp = (if h.engine = true then (g.split h.entry).mapp
      else if h.mapp = some 2 ∨ h.mapp = some 3 then h.mapp.map fun n => (n, g.faddr) else none) ∧
    ∀ k, k ≠ h.entry → (returnFromTrap g).split k = g.split k) ∧
  ∀ y, Safety.faultsWith (.rte y) (howBare y) 0x11 0 fun x _ => x.inH = false

/-- The instructions of handlers (R133, R134, R202, R219, R352): in a handler MAPP gives its status and its effect, TLBI drops the
translations that it names from every TLB of the package, WSPILL and WFILL move the units of registers that they name between the register
stack and the image, and DSPILL moves stack entries to the spill image; operands that R134 and R352 forbid, and accesses of theirs that
cannot be made, end the team with causes 0x31 and 0x32; while one needs a route that route recovery is to give, the instruction does not
issue yet (R409). Which frame MAPP takes is free (log entry 25). Outside a handler each of them is privileged, cause 0x11 (R122, R220), as
is HALT, which in a handler raises cause 0x39 (R368). -/
def Obligations.handler_instructions_complete : Prop :=
  (∀ (w : BaseArgs), Safety.goesOn (.mapp w) (howSys 0xE7 w) fun x s u =>
    x.inH = true ∧
      let f := x.lowS w.b.toNat
      let r := if f.toNat / 2 ≠ 0 then (5, s)
        else mapPage s x.gr.space (dieOfCore x.core) (x.lowPair w.a.toNat).toNat (f.getLsbD 0)
      u = modGroup r.2 x.uid fun g =>
        let g := g.writes (x.sl.flatMap fun k => x.ws k w.d.toNat (BitVec.ofNat 32 r.1))
        { g with handler := g.handler.map fun h => { h with mapp := some r.1 } }) ∧
  (∀ s space die va a e l size f v, inGridSpace va = true → walkSpace s space va = .invalid a e l size true →
    takeFrame s die size = some (f, v) →
    ∃ t, mapPage s space die va false = (0, t) ∧ t.mem = writeN (fclear v.mem f size) a 8 (mappedEntry e f).toNat) ∧
  (∀ s space die va a b c d, inGridSpace va = true → walkSpace s space va = .leaf a b c d →
    ∀ inspect, mapPage s space die va inspect = (1, s)) ∧
  (∀ (w : BaseArgs), Safety.goesOn (.tlbi w) (howSys 0xE8 w) fun x s u =>
    x.inH = true ∧
      let a := if w.d.toNat = 2 then 0 else (x.lowPair w.a.toNat).toNat
      let keep (t : TlbEntry) : Bool :=
        !(decide (t.space = x.gr.space) && tlbiDrops w.d.toNat a (x.lowS w.b.toNat).toNat t)
      u = { s with cores := kmapV (fun _ k => { k with tlb := k.tlb.filter keep, wtlb := k.wtlb.filter keep }) s.cores }) ∧
  (∀ (w : BaseArgs) pas v, Safety.goesOn (.wspill w) (howSys 0xE9 w) fun x s u =>
    let c := w.b.toNat
    let cells := x.sl.flatMap fun k => (spillCells k (x.g.slice k).rb c).map fun p =>
      (p, imageAddr (x.ss k w.a.toNat).toNat x.g.width p.2 p.1)
    x.inH = true ∧
      (∀ k ∈ x.sl, (x.ss k w.a.toNat).toNat % 256 = 0 ∧ (x.g.slice k).rb + 8 * c ≤ (x.g.slice k).wb) ∧
      spillAddrs x s needW 4 (cells.map fun p => (p.1.1, p.2)) = (some pas, v) ∧ pas.any (accessAwaited s) = false ∧
      u = modGroup ((cells.zip pas).foldl (fun s p =>
          x.write s p.1.2 p.2 4 (x.g.reg (.v p.1.1.1 (p.1.1.2 % x.g.alloc))).toNat) v) x.uid fun g =>
        g.modSlices x.sl fun _ q => { q with rb := q.rb + 8 * c, wneed := q.wneed - c }) ∧
  (∀ (w : BaseArgs) pas v, Safety.goesOn (.wfill w) (howSys 0xEA w) fun x s u =>
    let c := w.b.toNat
    let cells := x.sl.flatMap fun k => (spillCells k ((x.g.slice k).rb - 8 * c) c).map fun p =>
      (p, imageAddr (x.ss k w.a.toNat).toNat x.g.width p.2 p.1)
    x.inH = true ∧
      (∀ k ∈ x.sl, (x.ss k w.a.toNat).toNat % 256 = 0 ∧ 8 * c ≤ (x.g.slice k).rb ∧ c ≤ (x.g.slice k).wneed) ∧
      spillAddrs x s needR 4 (cells.map fun p => (p.1.1, p.2)) = (some pas, v) ∧ pas.any (accessAwaited s) = false ∧
      let r := readWords x v pas
      u = modGroup r.2 x.uid fun g =>
        (g.writes ((cells.zip r.1).map fun p =>
          (RegRef.v p.1.1.1 (p.1.1.2 % x.g.alloc), BitVec.ofNat 32 p.2))).modSlices x.sl fun _ q =>
            { q with rb := q.rb - 8 * c, wneed := q.wneed - c }) ∧
  (∀ (w : BaseArgs) pas v, Safety.goesOn (.dspill w) (howSys 0xEB w) fun x s u =>
    let c := w.b.toNat
    let a := (x.lowPair w.a.toNat).toNat
    let out := (x.g.dstack.reverse.take c).zipIdx.flatMap fun p => (List.range 4).map fun i =>
      ((a + 32 * (x.g.spcnt + p.2) + 8 * i) % 2 ^ 64, divToNat p.1 / 2 ^ (64 * i) % 2 ^ 64)
    x.inH = true ∧ a % 256 = 0 ∧ c ≤ x.g.dstack.length ∧ (0 < x.g.spcnt → a = x.g.spbase.toNat) ∧
      x.g.spcnt + c ≤ 4095 ∧ spillAddrs x s needW 8 (out.map fun p => (x.low, p.1)) = (some pas, v) ∧
      pas.any (accessAwaited s) = false ∧
      u = modGroup ((out.zip pas).foldl (fun s p => x.write s p.1.1 p.2 8 p.1.2) v) x.uid fun g =>
        { g with dstack := g.dstack.take (g.dstack.length - c), spcnt := g.spcnt + c, spbase := BitVec.ofNat 64 a
                 spill := g.spill.take g.spcnt ++ (x.g.dstack.reverse.take c).map fun d => (d.owner, d.mask ||| d.arrived) }) ∧
  (∀ (w : BaseArgs) s x, Safety.issues (howSys 0xE9 w) s x = true → let z := waited (howSys 0xE9 w) x
    z.inH = true → (∃ k ∈ z.sl, (z.ss k w.a.toNat).toNat % 256 ≠ 0 ∨ (z.g.slice k).wb < (z.g.slice k).rb + 8 * w.b.toNat) →
    ∃ l, exec (.wspill w) s = .next (streamFault (somePart z 4 l (waitedState (howSys 0xE9 w) x s)) z 0x31 0 0)) ∧
  (∀ (w : BaseArgs), Safety.faultsWith (.wfill w) (howSys 0xEA w) 0x31 0 fun x _ => x.inH = true ∧
    ∃ k ∈ x.sl, (x.ss k w.a.toNat).toNat % 256 ≠ 0 ∨ (x.g.slice k).rb < 8 * w.b.toNat ∨ (x.g.slice k).wneed < w.b.toNat) ∧
  (∀ (w : BaseArgs) s x, Safety.issues (howSys 0xEB w) s x = true → let z := waited (howSys 0xEB w) x
    z.inH = true → ((z.lowPair w.a.toNat).toNat % 256 ≠ 0 ∨ z.g.dstack.length < w.b.toNat ∨
      (0 < z.g.spcnt ∧ (z.lowPair w.a.toNat).toNat ≠ z.g.spbase.toNat) ∨ 4095 < z.g.spcnt + w.b.toNat) →
    ∃ l, exec (.dspill w) s = .next (streamFault (somePart z 8 l (waitedState (howSys 0xEB w) x s)) z 0x32 0 0)) ∧
  (∀ (w : BaseArgs) s x r v, Safety.issues (howSys 0xE9 w) s x = true →
    let z := waited (howSys 0xE9 w) x
    let t := waitedState (howSys 0xE9 w) x s
    let c := w.b.toNat
    let cells := z.sl.flatMap fun k => (spillCells k (z.g.slice k).rb c).map fun p =>
      (p, imageAddr (z.ss k w.a.toNat).toNat z.g.width p.2 p.1)
    z.inH = true →
    (∀ k ∈ z.sl, (z.ss k w.a.toNat).toNat % 256 = 0 ∧ (z.g.slice k).rb + 8 * c ≤ (z.g.slice k).wb) →
    spillAddrs z t needW 4 (cells.map fun p => (p.1.1, p.2)) = (r, v) →
    (r = none → ∃ l, exec (.wspill w) s = .next (streamFault (somePart z 4 l v) z 0x31 0 0)) ∧
    ∀ pas, r = some pas → pas.any (accessAwaited t) = true → exec (.wspill w) s = .next t) ∧
  (∀ (w : BaseArgs) s x r v, Safety.issues (howSys 0xEA w) s x = true →
    let z := waited (howSys 0xEA w) x
    let t := waitedState (howSys 0xEA w) x s
    let c := w.b.toNat
    let cells := z.sl.flatMap fun k => (spillCells k ((z.g.slice k).rb - 8 * c) c).map fun p =>
      (p, imageAddr (z.ss k w.a.toNat).toNat z.g.width p.2 p.1)
    z.inH = true →
    (∀ k ∈ z.sl, (z.ss k w.a.toNat).toNat % 256 = 0 ∧ 8 * c ≤ (z.g.slice k).rb ∧ c ≤ (z.g.slice k).wneed) →
    spillAddrs z t needR 4 (cells.map fun p => (p.1.1, p.2)) = (r, v) →
    (r = none → exec (.wfill w) s = .next (streamFault v z 0x31 0 0)) ∧
    ∀ pas, r = some pas → pas.any (accessAwaited t) = true → exec (.wfill w) s = .next t) ∧
  (∀ (w : BaseArgs) s x r v, Safety.issues (howSys 0xEB w) s x = true →
    let z := waited (howSys 0xEB w) x
    let t := waitedState (howSys 0xEB w) x s
    let c := w.b.toNat
    let a := (z.lowPair w.a.toNat).toNat
    let out := (z.g.dstack.reverse.take c).zipIdx.flatMap fun p => (List.range 4).map fun i =>
      ((a + 32 * (z.g.spcnt + p.2) + 8 * i) % 2 ^ 64, divToNat p.1 / 2 ^ (64 * i) % 2 ^ 64)
    z.inH = true → a % 256 = 0 → c ≤ z.g.dstack.length → (0 < z.g.spcnt → a = z.g.spbase.toNat) → z.g.spcnt + c ≤ 4095 →
    spillAddrs z t needW 8 (out.map fun p => (z.low, p.1)) = (r, v) →
    (r = none → ∃ l, exec (.dspill w) s = .next (streamFault (somePart z 8 l v) z 0x32 0 0)) ∧
    ∀ pas, r = some pas → pas.any (accessAwaited t) = true → exec (.dspill w) s = .next t) ∧
  (∀ y, Safety.faultsWith (.halt y) (howBare true) 0x39 0 fun x _ => x.inH = true) ∧
  (∀ y, Safety.faultsWith (.halt y) (howBare true) 0x11 0 fun x _ => x.inH = false) ∧
  (∀ w, Safety.faultsWith (.mapp w) (howSys 0xE7 w) 0x11 0 fun x _ => x.inH = false) ∧
  (∀ w, Safety.faultsWith (.tlbi w) (howSys 0xE8 w) 0x11 0 fun x _ => x.inH = false) ∧
  (∀ w, Safety.faultsWith (.wspill w) (howSys 0xE9 w) 0x11 0 fun x _ => x.inH = false) ∧
  (∀ w, Safety.faultsWith (.wfill w) (howSys 0xEA w) 0x11 0 fun x _ => x.inH = false) ∧
  (∀ w, Safety.faultsWith (.dspill w) (howSys 0xEB w) 0x11 0 fun x _ => x.inH = false)

/-! ### Link sequencers -/

/-- SETK and ADDK compute on registers (R311): K[d] becomes the value of the mode and the program counter advances; a modulus of zero and
a field that is not zero where its mode does not use it are cause 0x01; and neither is a switch point: a context that is not to halt stays
the one that its sequencer runs. That the program counter after word 2047 is 0 is the model's choice (log entry 40). -/
def Obligations.setk_and_addk_results : Prop :=
  (∀ (d : BitVec 4) (v : DWord) (i a : BitVec 4) (im : Word) (x : SCtx),
    Safety.kSet x d v = { x.c with k := fset x.c.k d.toNat v, pc := x.c.pc + 1 } ∧
    (fwf x.c.k = true → fget (Safety.kSet x d v).k i.toNat = if i = d then v else x.k i) ∧
    ∀ s, sctx? s = some x →
      exec (.setk d 0 0 im) s = .next (seqStepDone s x (Safety.kSet x d (im.signExtend 64))) ∧
      exec (.setk d 0 1 im) s = .next (seqStepDone s x (Safety.kSet x d (im.zeroExtend 64))) ∧
      exec (.setk d 0 2 im) s = .next (seqStepDone s x (Safety.kSet x d (im ++ (x.k d).extractLsb' 0 32))) ∧
      exec (.setk d a 3 0) s = .next (seqStepDone s x (Safety.kSet x d (x.k a)))) ∧
  (∀ (d a b : BitVec 4) (im : Word) (s : State) (x : SCtx), sctx? s = some x →
    exec (.addk d a 0 0 im) s = .next (seqStepDone s x (Safety.kSet x d (x.k a + im.signExtend 64))) ∧
    exec (.addk d a b 1 0) s = .next (seqStepDone s x (Safety.kSet x d (x.k a + x.k b))) ∧
    (im ≠ 0 → exec (.addk d a b 2 im) s =
      .next (seqStepDone s x (Safety.kSet x d (BitVec.ofNat 64 (((x.k a).toNat + (x.k b).toNat) % im.toNat))))) ∧
    exec (.addk d a b 2 0) s = .next (seqFault s x.sq x.cx 0x01 0) ∧
    exec (.addk d a b 3 0) s = .next (seqStepDone s x (Safety.kSet x d (x.k a - x.k b)))) ∧
  (∀ (d a b : BitVec 4) (mode : BitVec 2) (im : Word) (s : State) (x : SCtx), sctx? s = some x →
    (mode = 3 ∧ im ≠ 0 ∨ mode ≠ 3 ∧ a ≠ 0 → exec (.setk d a mode im) s = .next (seqFault s x.sq x.cx 0x01 0)) ∧
    (mode = 0 ∧ b ≠ 0 ∨ (mode = 1 ∨ mode = 3) ∧ im ≠ 0 →
      exec (.addk d a b mode im) s = .next (seqFault s x.sq x.cx 0x01 0))) ∧
  ∀ s x c, sctx? s = some x → c.halt = false →
    (seqAt (seqStepDone s x c) x.sq).run = some x.cx ∧ ctxAt (seqStepDone s x c) x.sq x.cx = c

/-- The control instructions of a sequencer (R312): LOOPK counts down and jumps while the counter is not zero, JMPK jumps by its
condition, SNOP goes on, and SEQEND makes the context idle, which is its end for the collective (R320), and the next ready context
runs. A fetch outside the range that the launch loaded is cause 0x02, with the program counter as it was. That the program counter after
word 2047 is 0 is the model's choice (log entry 40), and so is that a STEP which no HALT = 1 has used stays (log entry 70). -/
def Obligations.sequencer_control_results : Prop :=
  (∀ s x (d : BitVec 4) (target : BitVec 11), sctx? s = some x →
    exec (.loopk d target) s = .next (seqStepDone s x { x.c with
      k := fset x.c.k d.toNat (x.k d - 1)
      pc := if x.k d - 1 ≠ 0 then target else x.c.pc + 1 })) ∧
  (∀ s x (a : BitVec 4) (target : BitVec 11), sctx? s = some x →
    exec (.jmpk 0 target 0) s = .next (seqStepDone s x { x.c with pc := target }) ∧
    exec (.jmpk a target 1) s =
      .next (seqStepDone s x { x.c with pc := if x.k a = 0 then target else x.c.pc + 1 }) ∧
    exec (.jmpk a target 2) s =
      .next (seqStepDone s x { x.c with pc := if x.k a ≠ 0 then target else x.c.pc + 1 })) ∧
  (∀ s x, sctx? s = some x → exec .snop s = .next (seqStepDone s x { x.c with pc := x.c.pc + 1 })) ∧
  (∀ s x, sctx? s = some x → x.c.abort = false → ∃ t, exec .seqend s = .next t ∧
    t = leaveSeq s x.sq x.cx (atSwitch SeqCtx.ended) ∧
    ctxAt t x.sq x.cx = { x.c with state := .idle, step := x.c.step && !x.c.halt, due := false } ∧
    (x.c.held = false → ctxOver t x.c.cid (x.sq, x.cx) = true)) ∧
  ∀ s rest n x, s.agenda = .seq n :: rest → sctx? { s with agenda := rest, curSeq := some n } = some x →
    x.c.pc.toNat < x.c.lo ∨ x.c.lo + x.c.words ≤ x.c.pc.toNat →
    step s = .next (seqFault { s with agenda := rest, curSeq := some n } x.sq x.cx 0x02 0) ∧
      (ctxAt (seqFault { s with agenda := rest, curSeq := some n } x.sq x.cx 0x02 0) x.sq x.cx).pc = x.c.pc

/-- The instructions that move chunks, flags and PUTs (R303, R306 to R310, R313, R314, R325). With its chunks aligned, translated and
allowed TXC waits for the READY of its receiver, and where it has that READY sends the chunk; RXS, RXC and RXCF wait for their chunk, CVTB
starts the conversion of its elements, and SRED presents its chunk to the switch, with one credit for each 256 bytes; WFLG goes on or
waits, SFLG adds to or stores a flag (an add to a poisoned one is cause 0x0A, and to another package's waits for a credit), PUTK sends a
PUT, and LOGA sets the log mode. A chunk or a flag that is not aligned, and ranges that
overlap where they must not, are cause 0x04; a link without a route, or for SRED without a switch, is cause 0x09 unless route recovery is
to give one (R409); a route word or a field that breaks its layout (CMB 6 or 7, LNK above 23, a reserved MODE, reserved bits) is cause
0x01. None of them changes a group, a team, a grid or a core; an instruction that only goes on changes no memory, and a range that is
written leaves every byte outside it. When a link leads to a package or to a switch, and that an SRED whose ranges overlap without being one
goes on, are the model's choices (log entry 41); so are that the link of a send is checked as it starts, too (log entry 28), and that the
program counter after word 2047 is 0 (log entry 40), and how CVTB and LOGA check their operands is its reading (log entry 40). -/
def Obligations.sequencer_transfers_complete : Prop :=
  (∀ (a b : BitVec 4) (len : BitVec 12) (lnk : BitVec 5) (tag : BitVec 16) s x r g u, sctx? s = some x →
    routeOf (x.k b) = some r → lnk.toNat ≤ 23 →
    (linkReaches s lnk.toNat r.pkg = true ∨ routeAwaited s [lnk.toNat] r.pkg = true →
      transChunk x.sq x.coll.space needR (x.k a).toNat (chunkLen len) s = .ok g u →
      exec (.txc a b len lnk tag) s = .next (Safety.seqWaits u x (.tx g (chunkLen len) r tag lnk.toNat))) ∧
    (linkReaches s lnk.toNat r.pkg = false → routeAwaited s [lnk.toNat] r.pkg = false →
      exec (.txc a b len lnk tag) s = .next (seqFault s x.sq x.cx 0x09 0)) ∧
    (linkReaches s lnk.toNat r.pkg = true → (x.k a).toNat % 256 ≠ 0 →
      exec (.txc a b len lnk tag) s = .next (seqFault s x.sq x.cx 0x04 (x.k a).toNat))) ∧
  (∀ (a b : BitVec 4) (len : BitVec 12) (lnk : BitVec 5) (tag : BitVec 16) s x r g u m, sctx? s = some x →
    routeOf (x.k b) = some r → lnk.toNat ≤ 23 → linkReaches s lnk.toNat r.pkg = true → r.pkg = s.pkg →
    transChunk x.sq x.coll.space needR (x.k a).toNat (chunkLen len) s = .ok g u → segPoison u g = false →
    x.c.abort = false → x.c.readys = [m] → m.src = r → m.tag = tag → m.length = chunkLen len → x.sq < s.seqs.length →
    x.cx < (seqAt s x.sq).ctxs.length →
    ∃ t, exec (.txc a b len lnk tag) s = .next t ∧ (ctxAt t x.sq x.cx).wait = .sent r tag none ∧ (ctxAt t x.sq x.cx).readys = [] ∧
      t.outbox = .chunk { src := selfRoute s x.sq x.cx, dst := r, pid := x.coll.pid, tag := tag, data := readSeg u g } :: u.outbox) ∧
  (∀ (d a b : BitVec 4) (len : BitVec 12) (lnk : BitVec 5) (cmb : BitVec 3) (sto : Bool) (tag : BitVec 16) s x, sctx? s = some x →
    (routeOf (x.k b) = none ∨ 23 < lnk.toNat → exec (.txc a b len lnk tag) s = .next (seqFault s x.sq x.cx 0x01 0)) ∧
    (routeOf (x.k b) = none → exec (.rxs d b len tag) s = .next (seqFault s x.sq x.cx 0x01 0)) ∧
    (routeOf (x.k b) = none ∨ 6 ≤ cmb.toNat → exec (.rxc d a b len cmb tag) s = .next (seqFault s x.sq x.cx 0x01 0)) ∧
    (routeOf (x.k b) = none ∨ routeOf (x.k d) = none ∨ 6 ≤ cmb.toNat ∨ 23 < lnk.toNat →
      exec (.rxcf d a b len lnk cmb sto tag) s = .next (seqFault s x.sq x.cx 0x01 0)) ∧
    (∀ f, routeOf (x.k b) ≠ none → routeOf (x.k d) = some f → cmb.toNat < 6 → lnk.toNat ≤ 23 → linkReaches s lnk.toNat f.pkg = false →
      routeAwaited s [lnk.toNat] f.pkg = false → exec (.rxcf d a b len lnk cmb sto tag) s = .next (seqFault s x.sq x.cx 0x09 0)) ∧
    (routeOf (x.k b) ≠ none → (x.k d).toNat % 256 ≠ 0 →
      exec (.rxs d b len tag) s = .next (seqFault s x.sq x.cx 0x04 (x.k d).toNat)) ∧
    (routeOf (x.k b) ≠ none → cmb.toNat < 6 → crosses (x.k d).toNat (x.k a).toNat (chunkLen len) = true →
      exec (.rxc d a b len cmb tag) s = .next (seqFault s x.sq x.cx 0x04 (x.k d).toNat)) ∧
    (routeOf (x.k b) ≠ none → cmb.toNat < 6 → crosses (x.k d).toNat (x.k a).toNat (chunkLen len) = false →
      ((x.k a).toNat % 256 ≠ 0 → exec (.rxc d a b len cmb tag) s = .next (seqFault s x.sq x.cx 0x04 (x.k a).toNat)) ∧
      ∀ g u, transChunk x.sq x.coll.space needR (x.k a).toNat (chunkLen len) s = .ok g u → (x.k d).toNat % 256 ≠ 0 →
        exec (.rxc d a b len cmb tag) s = .next (seqFault u x.sq x.cx 0x04 (x.k d).toNat)) ∧
    (∀ f, routeOf (x.k b) ≠ none → routeOf (x.k d) = some f → cmb.toNat < 6 → lnk.toNat ≤ 23 → linkReaches s lnk.toNat f.pkg = true →
      (x.k a).toNat % 256 ≠ 0 → exec (.rxcf d a b len lnk cmb sto tag) s = .next (seqFault s x.sq x.cx 0x04 (x.k a).toNat))) ∧
  (∀ (d b : BitVec 4) (len : BitVec 12) (tag : BitVec 16) s x r g u, sctx? s = some x → routeOf (x.k b) = some r →
    transChunk x.sq x.coll.space needW (x.k d).toNat (chunkLen len) s = .ok g u →
    exec (.rxs d b len tag) s = .next (Safety.seqWaits u x (.rx (Safety.rxOf g [] len tag r none none) none false false))) ∧
  (∀ (d a b : BitVec 4) (len : BitVec 12) (cmb : BitVec 3) (tag : BitVec 16) s x r g h u v, sctx? s = some x →
    routeOf (x.k b) = some r → cmb.toNat < 6 → crosses (x.k d).toNat (x.k a).toNat (chunkLen len) = false → x.c.logm = 0 →
    transChunk x.sq x.coll.space needR (x.k a).toNat (chunkLen len) s = .ok g u →
    transChunk x.sq x.coll.space needW (x.k d).toNat (chunkLen len) u = .ok h v →
    exec (.rxc d a b len cmb tag) s = .next (Safety.seqWaits v x (.rx (Safety.rxOf h g len tag r (some cmb) none) none false false))) ∧
  (∀ (d a b : BitVec 4) (len : BitVec 12) (lnk : BitVec 5) (cmb : BitVec 3) (sto : Bool) (tag : BitVec 16) s x r f g u,
    sctx? s = some x → routeOf (x.k b) = some r → routeOf (x.k d) = some f → cmb.toNat < 6 → lnk.toNat ≤ 23 →
    linkReaches s lnk.toNat f.pkg = true ∨ routeAwaited s [lnk.toNat] f.pkg = true → x.c.logm = 0 →
    transChunk x.sq x.coll.space { needR with w := sto } (x.k a).toNat (chunkLen len) s = .ok g u →
    exec (.rxcf d a b len lnk cmb sto tag) s = .next (Safety.seqWaits u x (.rx { Safety.rxOf (if sto then g else []) g len tag r
      (some cmb) (some f) with lnk := lnk.toNat } none false false))) ∧
  (∀ (a b : BitVec 4) (timeout : Word) s x pa u, sctx? s = some x → (x.k a).toNat % 8 = 0 →
    transParts x.sq x.coll.space needR [((x.k a).toNat, 8)] [] s = .ok [(pa, 8)] u → poisonAt u pa 8 = none →
    exec (.wflg a b timeout) s = .next (if (x.k b).toNat ≤ readN u.mem pa 8
      then seqStepDone u x { x.c with pc := x.c.pc + 1 }
      else Safety.seqWaits u x (.flag pa (x.k b) (1024 * timeout.toNat)))) ∧
  (∀ (a b : BitVec 4) (im : Word) s x pa u, sctx? s = some x → (x.k a).toNat % 8 = 0 →
    (transParts x.sq x.coll.space { needW with r := true, atom := some 0 } [((x.k a).toNat, 8)] [] s = .ok [(pa, 8)] u →
      (poisonAt u pa 8).isSome = true →
      exec (.sflg a 0 0 im) s = .next (seqFault u x.sq x.cx 0x0A (x.k a).toNat) ∧
      exec (.sflg a b 1 0) s = .next (seqFault u x.sq x.cx 0x0A (x.k a).toNat)) ∧
    (transParts x.sq x.coll.space { needW with r := true, atom := some 0 } [((x.k a).toNat, 8)] [] s = .ok [(pa, 8)] u →
      poisonAt u pa 8 = none →
      let add (v : DWord) : Option State := lockAtomic u pa 8 ((readN u.mem pa 8 + v.toNat) % 2 ^ 64)
        (.atomic (BitVec.ofNat 7 pa) true 0 false v 0 none)
      (∀ w, add (im.zeroExtend 64) = some w → exec (.sflg a 0 0 im) s = .next (seqStepDone w x { x.c with pc := x.c.pc + 1 })) ∧
      (add (im.zeroExtend 64) = none → exec (.sflg a 0 0 im) s = .next (Safety.seqWaits u x .credit)) ∧
      (∀ w, add (x.k b) = some w → exec (.sflg a b 1 0) s = .next (seqStepDone w x { x.c with pc := x.c.pc + 1 })) ∧
      (add (x.k b) = none → exec (.sflg a b 1 0) s = .next (Safety.seqWaits u x .credit))) ∧
    (transParts x.sq x.coll.space needW [((x.k a).toNat, 8)] [] s = .ok [(pa, 8)] u →
      exec (.sflg a b 2 0) s = .next (seqStepDone (lockWrite u pa (toBytes 8 (x.k b).toNat)) x { x.c with pc := x.c.pc + 1 }))) ∧
  (∀ s pa n v pay, (∀ w, lockAtomic s pa n v pay = some w → w.mem = writeN s.mem pa n v) ∧
    (homeNode (pa / 128) = .pkg s.pkg ∨ homeNode (pa / 128) = .host → (lockAtomic s pa n v pay).isSome = true) ∧
    ∀ l, (lockWrite s pa l).mem = writeList s.mem pa l) ∧
  (∀ (a b : BitVec 4) (timeout im : Word) s x, sctx? s = some x → (x.k a).toNat % 8 ≠ 0 →
    exec (.wflg a b timeout) s = .next (seqFault s x.sq x.cx 0x04 (x.k a).toNat) ∧
    exec (.sflg a 0 0 im) s = .next (seqFault s x.sq x.cx 0x04 (x.k a).toNat)) ∧
  (∀ (a b : BitVec 4) (mode : BitVec 2) (im : Word) s x, sctx? s = some x →
      (mode = 3 ∨ (mode = 0 ∧ b ≠ 0) ∨ (mode ≠ 0 ∧ im ≠ 0)) →
    exec (.sflg a b mode im) s = .next (seqFault s x.sq x.cx 0x01 0)) ∧
  (∀ (a : BitVec 4) (target : BitVec 11) (cond : BitVec 2) s x, sctx? s = some x → (cond = 3 ∨ (cond = 0 ∧ a ≠ 0)) →
    exec (.jmpk a target cond) s = .next (seqFault s x.sq x.cx 0x01 0)) ∧
  (∀ (d a b : BitVec 4) (len : BitVec 12) (dir : Bool) s x, sctx? s = some x →
    let ns := if dir then 2 * chunkLen len else chunkLen len
    let nd := if dir then chunkLen len else 2 * chunkLen len
    (2047 < len.toNat → exec (.cvtb d a b len dir) s = .next (seqFault s x.sq x.cx 0x01 0)) ∧
    (len.toNat ≤ 2047 → (x.k a).toNat < (x.k d).toNat + nd → (x.k d).toNat < (x.k a).toNat + ns →
      exec (.cvtb d a b len dir) s = .next (seqFault s x.sq x.cx 0x04 (x.k d).toNat)) ∧
    (len.toNat ≤ 2047 → ((x.k d).toNat + nd ≤ (x.k a).toNat ∨ (x.k a).toNat + ns ≤ (x.k d).toNat) →
      ((x.k a).toNat % 256 ≠ 0 → exec (.cvtb d a b len dir) s = .next (seqFault s x.sq x.cx 0x04 (x.k a).toNat)) ∧
      ∀ g u, transChunk x.sq x.coll.space needR (x.k a).toNat ns s = .ok g u → (x.k d).toNat % 256 ≠ 0 →
        exec (.cvtb d a b len dir) s = .next (seqFault u x.sq x.cx 0x04 (x.k d).toNat))) ∧
  (∀ (d a b : BitVec 4) (len : BitVec 12) s x gs gd u v, sctx? s = some x → len.toNat ≤ 2047 →
    let n := chunkLen len
    let e := max (-1100) (min 1100 (x.k b).toInt)
    ((x.k a).toNat + 2 * n ≤ (x.k d).toNat ∨ (x.k d).toNat + n ≤ (x.k a).toNat →
      transChunk x.sq x.coll.space needR (x.k a).toNat (2 * n) s = .ok gs u →
      transChunk x.sq x.coll.space needW (x.k d).toNat n u = .ok gd v → segPoison v gs = false →
      exec (.cvtb d a b len true) s = .next (Safety.seqWaits v x (.cvt gd ((elemsOf 8 (readSeg v gs).length
        (readSeg v gs)).flatMap fun i => toBytes 4 (ofBlockFixed i e)) false))) ∧
    ((x.k a).toNat + n ≤ (x.k d).toNat ∨ (x.k d).toNat + 2 * n ≤ (x.k a).toNat →
      transChunk x.sq x.coll.space needR (x.k a).toNat n s = .ok gs u →
      transChunk x.sq x.coll.space needW (x.k d).toNat (2 * n) u = .ok gd v → segPoison v gs = false →
      let l := elemsOf 4 (readSeg v gs).length (readSeg v gs)
      exec (.cvtb d a b len false) s = .next (Safety.seqWaits v x
        (.cvt gd (l.flatMap fun i => toBytes 8 (toBlockFixed (BitVec.ofNat 32 i) e).1)
          (l.any fun i => (toBlockFixed (BitVec.ofNat 32 i) e).2))))) ∧
  (∀ (d a b : BitVec 4) (len : BitVec 12) (lnk : BitVec 5) s x, sctx? s = some x →
    let n := (x.k b).toNat / 2 ^ 16 % 2 ^ 12
    (23 < lnk.toNat ∨ 2 ^ 28 ≤ (x.k b).toNat ∨ n < 1 ∨ 2304 < n →
      exec (.sred d a b len lnk) s = .next (seqFault s x.sq x.cx 0x01 0)) ∧
    (lnk.toNat ≤ 23 → (x.k b).toNat < 2 ^ 28 → 1 ≤ n → n ≤ 2304 →
      (leadsToSwitch s lnk.toNat = false → switchAwaited s lnk.toNat = false →
        exec (.sred d a b len lnk) s = .next (seqFault s x.sq x.cx 0x09 0)) ∧
      (leadsToSwitch s lnk.toNat = true ∨ switchAwaited s lnk.toNat = true →
        ((x.k a).toNat % 256 ≠ 0 → exec (.sred d a b len lnk) s = .next (seqFault s x.sq x.cx 0x04 (x.k a).toNat)) ∧
        ∀ gs u, transChunk x.sq x.coll.space needR (x.k a).toNat (chunkLen len) s = .ok gs u →
          ((x.k d).toNat % 256 ≠ 0 → exec (.sred d a b len lnk) s = .next (seqFault u x.sq x.cx 0x04 (x.k d).toNat)) ∧
          ∀ gd v, transChunk x.sq x.coll.space needW (x.k d).toNat (chunkLen len) u = .ok gd v → segPoison v gs = false →
            exec (.sred d a b len lnk) s = .next (Safety.seqWaits v x
              (.offer gd (readSeg v gs) n ((readSeg v gs).length / 256) lnk.toNat (x.k b)))))) ∧
  (∀ (d a b : BitVec 4) s x, sctx? s = some x → (x.k d).toNat % 2 ^ 12 ≤ 2303 → (x.k d).extractLsb' 12 20 = 0 →
    (∀ u, takeBulk s (BitVec.ofNat 12 ((x.k d).toNat % 2 ^ 12)) = some u →
      exec (.putk d a b) s = .next (seqStepDone (emit u (.put (Safety.putkMsg u x a b d))) x { x.c with pc := x.c.pc + 1 })) ∧
    (takeBulk s (BitVec.ofNat 12 ((x.k d).toNat % 2 ^ 12)) = none →
      exec (.putk d a b) s = .next (Safety.seqWaits s x .credit))) ∧
  (∀ (d a b : BitVec 4) s x, sctx? s = some x → (2303 < (x.k d).toNat % 2 ^ 12 ∨ (x.k d).extractLsb' 12 20 ≠ 0) →
    exec (.putk d a b) s = .next (seqFault s x.sq x.cx 0x01 0)) ∧
  (∀ (a b : BitVec 4) (mode : BitVec 2) s x, sctx? s = some x → (mode = 3 ∨ (mode = 0 ∧ (a ≠ 0 ∨ b ≠ 0)) ∨
      (mode ≠ 0 ∧ ((x.k a).toNat % 16 ≠ 0 ∨ (x.k b).toNat % 16 ≠ 0 ∨ (x.k b).toNat < 16))) →
    exec (.loga a b mode) s = .next (seqFault s x.sq x.cx 0x01 0)) ∧
  (∀ i w s t, i.parts = .seq w → exec i s = .next t → t.groups = s.groups ∧ t.teams = s.teams ∧ t.grids = s.grids ∧ t.cores = s.cores) ∧
  (∀ s x c, (seqStepDone s x c).mem = s.mem) ∧
  (∀ s g l b, Memory.wf s.mem = true → (∀ p ∈ g, b < p.1 ∨ p.1 + p.2 ≤ b) → fget (writeSeg s g l).mem b = fget s.mem b) ∧
  ∀ (a b : BitVec 4) (mode : BitVec 2) s x, sctx? s = some x →
    exec (.loga 0 0 0) s = .next (seqStepDone s x { x.c with
      logm := 0
      logpos := 0
      logovf := false
      logbuf := 0
      logsize := 0
      pc := x.c.pc + 1 }) ∧
    (mode = 1 ∨ mode = 2 → (x.k a).toNat % 16 = 0 → (x.k b).toNat % 16 = 0 → 16 ≤ (x.k b).toNat →
      exec (.loga a b mode) s = .next (seqStepDone s x { x.c with
        logm := mode
        logpos := 0
        logovf := false
        logbuf := (x.k a).toNat
        logsize := (x.k b).toNat
        pc := x.c.pc + 1 }))

/-! ### Events: the host, firmware and errors -/

/-- Command rings (R297, R298, R319, R412, R413): a doorbell sets the tail, a restart clears the stop, and a well-formed space record
enables the ring, which any other record disables; the record is read once the ring's command processor serves events. The head entry
starts with the effect of its kind: a launch is accepted or rejected with its status, a copy is queued, a collective starts, a signal
writes its word, a fence completes once no earlier entry is open, and a wait completes when its word is reached, when its first or a
later read fails, or on its timeout. A read of a copy's records or a signal's write that fails is an error. A malformed entry of any
kind is rejected. That a misaligned entry is one of these, that a copy whose records are ill-formed or differ is rejected as one, the
identity of a new space, the tick from which a wait counts, the formats of a host copy's elements and the answers of other packages
within a start are the model's choice (log 21, 22, 29). -/
def Obligations.rings_complete : Prop :=
  (∀ (r : BitVec 6) (v : Word) s, exec (.doorbell r v) s = .next (modRing s r.toNat fun q =>
    { q with tail := BitVec.ofNat 32 (v.toNat % 2 ^ q.log) })) ∧
  (∀ (r : BitVec 6) s, exec (.ringRestart r) s = .next (modRing s r.toNat fun q => { q with stopped := false })) ∧
  (∀ (r : BitVec 6) s sp, let q := ringAt s r.toNat
    q.enabled = false → q.rspace.toNat % 64 = 0 → q.rspace.toNat < 2 ^ 52 → targetRefuses s q.rspace.toNat = false →
    poisonAt s q.rspace.toNat 64 = none → delayed s (ringCp r.toNat) = false → spaceOf (readN s.mem q.rspace.toNat 64) = some sp →
    exec (.ringEnable r) s = .next (modRing { s with spaces := kset s.spaces (max 1 (kfresh s.spaces)) sp } r.toNat fun q =>
      { q with enabled := true, bad := false, space := max 1 (kfresh s.spaces) })) ∧
  (∀ (r : BitVec 6) s, let q := ringAt s r.toNat
    q.enabled = false →
    (delayed s (ringCp r.toNat) = true → exec (.ringEnable r) s =
      .next (queueFor (modRing s r.toNat fun q => { q with enabled := true }) (ringCp r.toNat) (.enable r.toNat))) ∧
    (delayed s (ringCp r.toNat) = false → (q.rspace.toNat % 64 ≠ 0 ∨ 2 ^ 52 ≤ q.rspace.toNat ∨ targetRefuses s q.rspace.toNat = true ∨
        (poisonAt s q.rspace.toNat 64).isSome = true ∨ spaceOf (readN s.mem q.rspace.toNat 64) = none) →
      exec (.ringEnable r) s = .next (modRing s r.toNat fun q => { q with enabled := false, bad := true }))) ∧
  (∀ (r : BitVec 6) core s i v, headEntry s r.toNat = some (i, v) → (entryFields v).ok = false →
    ∀ e ∈ [Instr.cmdLaunch r, .cmdCopy r core, .cmdSequencerStart r, .cmdWait r, .cmdSignal r, .cmdFence r],
      exec e s = .next (completeEntry (Safety.passed s r.toNat i) r.toNat i v 4 0xFD false)) ∧
  (∀ (r : BitVec 6) s i v, Safety.headIs s r.toNat 1 i v → let u := Safety.passed s r.toNat i
    allRun u = true →
    (∀ st l, validate u (ringAt u r.toNat).space (entryFields v).arg0 0 = (st, some l) → exec (.cmdLaunch r) s =
      .next (newGrid (beginEntry u r.toNat i v) l (ringAt u r.toNat).space 0 none (.ring r.toNat i)).2) ∧
    ∀ st, validate u (ringAt u r.toNat).space (entryFields v).arg0 0 = (st, none) →
      exec (.cmdLaunch r) s = .next (completeEntry u r.toNat i v 4 st false)) ∧
  (∀ (r : BitVec 6) core s i v dst src, Safety.headIs s r.toNat 2 i v → let u := Safety.passed s r.toNat i
    core < coreCount → copyFull u core = false →
    cpShape u (ringAt u r.toNat).space (entryFields v).arg1 = some (.inl dst) →
    cpShape u (ringAt u r.toNat).space (entryFields v).arg0 = some (.inl src) → dst.box = src.box →
    elemBits dst.elem = elemBits src.elem →
    exec (.cmdCopy r core) s = .next (nextOp (modCore (beginEntry u r.toNat i v) core fun k => { k with
      copyq := k.copyq ++ [hostOp u (ringAt u r.toNat).space core (.host dst src r.toNat i)] }))) ∧
  (∀ (r : BitVec 6) core s i v, Safety.headIs s r.toNat 2 i v → let u := Safety.passed s r.toNat i
    let sh := cpShape u (ringAt u r.toNat).space
    core < coreCount → copyFull u core = false →
    (∀ c, (sh (entryFields v).arg1 = some (.inr c) ∧ (sh (entryFields v).arg0).isSome = true) ∨
        (∃ d, sh (entryFields v).arg1 = some (.inl d) ∧ sh (entryFields v).arg0 = some (.inr c)) →
      exec (.cmdCopy r core) s = .next (completeEntry u r.toNat i v 3 c false)) ∧
    (sh (entryFields v).arg1 = none ∨ sh (entryFields v).arg0 = none ∨
        (∃ d e, sh (entryFields v).arg1 = some (.inl d) ∧ sh (entryFields v).arg0 = some (.inl e) ∧
          (d.box ≠ e.box ∨ elemBits d.elem ≠ elemBits e.elem)) →
      exec (.cmdCopy r core) s = .next (completeEntry u r.toNat i v 4 0xFD false))) ∧
  (∀ (r : BitVec 6) s i v st cid t, Safety.headIs s r.toNat 3 i v → let u := Safety.passed s r.toNat i
    launchColl (ringAt u r.toNat).space (entryFields v).arg0 (some (r.toNat, i)) u = .status st cid t →
    exec (.cmdSequencerStart r) s =
      .next (if st = 0 then beginEntry t r.toNat i v else completeEntry t r.toNat i v 3 st false)) ∧
  (∀ (r : BitVec 6) s i v n, Safety.headIs s r.toNat 4 i v → let u := beginEntry (Safety.passed s r.toNat i) r.toNat i v
    cpRead u (ringAt u r.toNat).space (entryFields v).arg0.toNat 8 = .inl n →
    exec (.cmdWait r) s = .next (if (entryFields v).arg1.toNat ≤ n then finishEntry u r.toNat i 2 0 false
      else modRing u r.toNat fun q => { q with waits := q.waits ++ [(i, u.dtime)] })) ∧
  (∀ (r : BitVec 6) s i v n, Safety.headIs s r.toNat 4 i v → let u := beginEntry (Safety.passed s r.toNat i) r.toNat i v
    cpRead u (ringAt u r.toNat).space (entryFields v).arg0.toNat 8 = .inr n →
    exec (.cmdWait r) s = .next (finishEntry u r.toNat i 3 0x02 false)) ∧
  (∀ (r : BitVec 6) s i e since, standingWait s r.toNat i = some (e, since) →
    (∀ n, cpRead s (ringAt s r.toNat).space e.arg0.toNat 8 = .inl n → e.arg1.toNat ≤ n →
      exec (.cmdWaitSatisfied r i) s = .next (finishEntry s r.toNat i 2 0 false)) ∧
    (∀ n, cpRead s (ringAt s r.toNat).space e.arg0.toNat 8 = .inr n →
      exec (.cmdWaitSatisfied r i) s = .next (finishEntry s r.toNat i 3 0x02 false)) ∧
    (e.arg2 ≠ 0 → e.arg2 ≤ (s.dtime - since).toNat →
      exec (.cmdWaitTimeout r i) s = .next (finishEntry s r.toNat i 3 0x01 false))) ∧
  (∀ (r : BitVec 6) s i v t, Safety.headIs s r.toNat 5 i v → let u := Safety.passed s r.toNat i
    sysWrite u (ringAt u r.toNat).space (entryFields v).arg0.toNat 8 (entryFields v).arg1.toNat = some t →
    exec (.cmdSignal r) s = .next (completeEntry t r.toNat i v 2 0 false)) ∧
  (∀ (r : BitVec 6) s i v, Safety.headIs s r.toNat 5 i v → let u := Safety.passed s r.toNat i
    sysWrite u (ringAt u r.toNat).space (entryFields v).arg0.toNat 8 (entryFields v).arg1.toNat = none →
    exec (.cmdSignal r) s = .next (completeEntry u r.toNat i v 3 0x02 false)) ∧
  ∀ (r : BitVec 6) s i v, Safety.headIs s r.toNat 6 i v → let u := Safety.passed s r.toNat i
    (ringAt u r.toNat).starts = [] → exec (.cmdFence r) s = .next (completeEntry u r.toNat i v 2 0 false)

/-- Firmware and the host (R27, R62, R224, R299, R335, R408, R409, R410, R414, R415, R416): device reset; the check of an image at boot
and an attestation; the management registers and the requests that they carry; a live replacement, its commit in time and its return to
the old image after the deadline; and the clock steps and gates of islands; what controllers 0 and 1 do waits while they are replaced.
What a report is told as, that a write of FWCMD loads the image that the host has named, that writes of ECWIN above 2^23, of ALIVEDL
outside 1 to 1024 and at an offset that is no register's, as 0x11, are ignored, that memory moves with the package number at a reset, and
the layout of the captured tables (log 23), that a device reset keeps the turns to come and the links without a switch and puts coherence
and islands back to their initial values (log 3), the clock of a step (log 36), which islands are cluster pairs (log 37), the keys and the
random bytes of signatures (log 8), and that the package identity goes with an attestation (log 64) are the model's choice. -/
def Obligations.firmware_events_complete : Prop :=
  (∀ s, ∃ t, exec .deviceReset s = .next t ∧ t.grids = [] ∧ t.teams = [] ∧ t.groups = [] ∧ t.spaces = [] ∧ t.cores = [] ∧
    t.colls = [] ∧ t.rings = [] ∧ t.windows = [] ∧ t.seqs = State.reset.seqs ∧ t.mgmt = State.reset.mgmt ∧
    t.ctls = State.reset.ctls ∧ t.islands = State.reset.islands ∧ t.coh = State.reset.coh ∧ t.agenda = s.agenda ∧
    t.noSwitch = s.noSwitch ∧ (s.pkg = 0 → t.mem = s.mem)) ∧
  (∀ img s, let n := img.target.toNat
    (ctlAt s n).running = none → (n = 0 ∨ ((ctlAt s 0).running.isSome = true ∧ delayed s 0 = false)) →
    exec (.bootImageCheck img) s = .next (if imageOk s n img then modCtl s n fun c => { c with running := some (imageId img) }
      else tellHost s "image refused" [n])) ∧
  (∀ nonce s, (ctlAt s 0).running.isSome = true →
    let body := toBytes 4 partId.toNat ++ identityKey ++ toBytes 32 nonce.toNat ++
      (s.ctls.flatMap Controller.attested).flatMap fun i => toBytes 32 i.1.toNat ++ toBytes 4 i.2
    exec (.attestationRequest nonce) s = .next (if delayed s 0 then queueFor s 0 (.attest nonce)
      else tellHost (tellHost { s with freeCtr := s.freeCtr + 1 } "identity" ((identityKey ++ identitySig).map BitVec.toNat)) "attestation"
        ((body ++ dsaSign (bytes32 Config.identitySeed) (sha3Bytes body) (bytes32 (Config.signRandom s.freeCtr))).map BitVec.toNat))) ∧
  (∀ fw (v : Word) s,
    exec (.mgmtRegisterWrite fw 0x10 v) s =
      .next { s with mgmt := { s.mgmt with fnmode := v.extractLsb' 0 5 } } ∧
    exec (.mgmtRegisterWrite fw 0x14 v) s =
      .next (if 2 ≤ v.toNat % 16 ∧ v.toNat % 16 ≤ 8 then { s with mgmt := { s.mgmt with ecthr := v.toNat % 16 } } else s) ∧
    exec (.mgmtRegisterWrite fw 0x18 v) s =
      .next (if 1 ≤ v.toNat % 2 ^ 24 ∧ v.toNat % 2 ^ 24 ≤ 2 ^ 23 then { s with mgmt := { s.mgmt with ecwin := v.toNat % 2 ^ 24 } } else s) ∧
    exec (.mgmtRegisterWrite fw 0x30 v) s = .next { s with mgmt := { s.mgmt with fwsel := v.toNat % 8 } } ∧
    exec (.mgmtRegisterWrite fw 0x40 v) s = .next { s with mgmt := { s.mgmt with islsel := v.toNat % 64 } } ∧
    exec (.mgmtRegisterWrite fw 0x48 v) s = .next { s with mgmt := { s.mgmt with retidx := v.toNat % 1024 } } ∧
    exec (.mgmtRegisterWrite fw 0x3C v) s = .next (if 1 ≤ v.toNat % 2 ^ 11 ∧ v.toNat % 2 ^ 11 ≤ 1024
      then { s with mgmt := { s.mgmt with alivedl := v.toNat % 2 ^ 11 } } else s) ∧
    exec (.mgmtRegisterWrite true 0x34 v) s = .next s ∧
    exec (.mgmtRegisterWrite false 0x34 v) s = (match v.toNat % 4 with
      | 1 => exec (.fwLoad (s.mgmt.image.getD Image.none)) s
      | 2 => exec (.fwHandOver (Config.privWords s.freeCtr)) { s with freeCtr := s.freeCtr + 1 }
      | 3 => exec .fwAbandon s
      | _ => .next s) ∧
    exec (.mgmtRegisterWrite fw 0x00 v) s = .next s ∧ exec (.mgmtRegisterWrite fw 0x11 v) s = .next s) ∧
  (∀ (h : BitVec 14) s,
    exec (.lapprove h) s = .next (modGrid s h.toNat fun g => { g with awaitsApproval := false }) ∧
    exec (.preqRaise h) s = .next ((teamsOf s h.toNat).foldl (fun s tu => modTeam s tu fun t =>
      if t.core.isSome then { t with request := true, forGrid := none } else t)
      (modGrid s h.toNat fun g => { g with preq := true })) ∧
    exec (.preqWithdraw h) s = .next ((teamsOf s h.toNat).foldl (fun s tu =>
      unpark (modTeam s tu fun t => if t.forGrid.isNone then { t with request := false } else t) tu)
      (modGrid s h.toNat fun g => { g with preq := false }))) ∧
  (∀ img s, let n := s.mgmt.fwsel
    (ctlAt s n).state = .idle → otherBusy s n = false → exec (.fwLoad img) s = .next (if imageOk s n img
      then modCtl s n fun c => { c with other := some (imageId img), state := .loaded } else fwRefuse s n 1)) ∧
  (∀ priv s, let n := s.mgmt.fwsel
    ((ctlAt s n).state = .loaded → otherBusy s n = false →
      exec (.fwHandOver priv) s = .next (modCtl s n fun c => { c with state := .handOver, priv := priv })) ∧
    ∀ k, imageStarts s k = if (ctlAt s k).state = .handOver then modCtl s k fun c =>
      { c with running := c.other, other := c.running, state := .probation, since := s.dtime, capture := liveTables s } else s) ∧
  (∀ s, let n := s.mgmt.fwsel
    (ctlAt s n).state = .loaded ∨ (ctlAt s n).state = .rolledBack ∨ (ctlAt s n).state = .refused →
    exec .fwAbandon s = .next (modCtl s n fun c => { c with other := none, state := .idle, code := 0 })) ∧
  (∀ (n : BitVec 3) s, (ctlAt s n.toNat).state = .probation →
    ((s.dtime - (ctlAt s n.toNat).since).toNat < aliveTicks s → exec (.fwAlive n) s =
      .next (serveQueue (modCtl s n.toNat fun c => { c with state := .idle, other := none, code := 0 }) n.toNat)) ∧
    (aliveTicks s ≤ (s.dtime - (ctlAt s n.toNat).since).toNat → exec (.aliveDeadlineExpiry n) s =
      .next (serveQueue (modCtl s n.toNat fun c =>
        { c with running := c.other, other := c.running, state := .rolledBack, capture := liveTables s }) n.toNat))) ∧
  (∀ (k : BitVec 4) s, let i := s.mgmt.islsel
    exec (.islandStep k) s = .next (if delayed s 1 then queueFor s 1 (.island i (some k.toNat) none)
      else modIsland s i fun x => { x with step := k.toNat, mhz := 940 * (16 - k.toNat) / 16 })) ∧
  ∀ gate s, let i := s.mgmt.islsel
    exec (.islandGate gate) s = .next (if delayed s 1 then queueFor s 1 (.island i none (some gate))
      else if gate = true ∧ (pairIsland i = false ∨ islandHolds s i = true) then s
      else modIsland s i fun x => { x with gate := gate })

/-- The debug interface and errors (R25, R334, R366, R372, R375, R382, R383, R404): a step lets ready streams or one of them issue once
and a resume lets all go on; a sequencer context halts, goes on and steps; an uncorrectable error poisons its line and retires its row, or
ends the team that read the structure with cause 0x40; a corrected error is counted and crosses at the threshold; a spare takes a row; a
power limit lowers a clock; and a replayable set starts again. What a step of the debug register does, when a replay happens, which row of
a structure an error lies in, how a limit acts on a clock, how UNIT holds a core, and what STEP does where HALT is 0 are the model's choice
(log 34, 35, 36, 37, 43, 70). -/
def Obligations.debug_and_error_events_complete : Prop :=
  (∀ (h : BitVec 14) s, debugOn s h.toNat = true →
    exec (.groupStep h) s = .next (stepGroups s h.toNat fun _ => true) ∧
    (∀ e : BitVec 2, exec (.streamStep h e) s = .next (stepGroups s h.toNat fun k => decide (k = e.toNat)))) ∧
  (∀ (h : BitVec 14) s, exec (.debugResume h) s = .next ((groupsOf s h.toNat).foldl (fun s u => modGroup s u fun g =>
    { g with hold := false, splits := g.splits.map fun sp => { sp with step := false } }) s)) ∧
  (∀ (n : BitVec 5) (k : BitVec 2) s, let c := ctxAt s n.toNat k.toNat
    let t := moveCtx s n.toNat k.toNat fun c => atSwitch SeqCtx.halted { c with halt := true }
    exec (.seqHalt n k true) s = .next (if c.halt = true then s
      else if (ctxAt t n.toNat k.toNat).step = true then resumeCtx t n.toNat k.toNat SeqCtx.stepped else t) ∧
    exec (.seqHalt n k false) s = .next (resumeCtx s n.toNat k.toNat fun c => { c with halt := false, due := false }) ∧
    (c.halt = true → c.step = false ∨ c.state = .halted →
      exec (.seqStep n k) s = .next (resumeCtx s n.toNat k.toNat SeqCtx.stepped)) ∧
    (c.halt = false ∨ (c.step = true ∧ c.state ≠ .halted) →
      exec (.seqStep n k) s = .next (modCtx s n.toNat k.toNat fun c => { c with step := true }))) ∧
  (∀ line s, ownLine s line = true → targetRefuses s (line * 128) = false →
    exec (.uncorrectableError (.line line true)) s =
      .next (crossNow { s with poison := kset s.poison line 5 } (.device (stackOf (line * 128)) (line / 512 % 2 ^ 24)))) ∧
  (∀ kind team pc (gid : BitVec 5) s t u g c row, kget s.teams team = some t →
    (teamGroups s team).find? (fun p => decide (p.2.gid = gid.toNat)) = some (u, g) → t.core = some c →
    t.ended = false → t.stop = none → setStopped s team = false → (pick s (2 ^ 32)).1 = row →
    ∀ r, (kind.toNat = 1 ∧ r = .regFile c g.part (row % 32)) ∨ (kind.toNat = 2 ∧ r = .local c (row % 512)) ∨
        (kind.toNat = 3 ∧ r = .accum c (row % 32)) ∨ (kind.toNat = 6 ∧ r = .tag c (row % 256)) →
      exec (.uncorrectableError (.structure_ kind team pc gid)) s = .next (endByFault
        (crossNow (pick s (2 ^ 32)).2 r) team u 0 g.gid 0x40 kind.toNat (g.handler.any fun h => decide (h.pc = pc)) pc 0)) ∧
  (∀ e h s, rowOk e = true →
    exec (.correctedError e none) s = .next (corrected s e) ∧
    exec (.correctedError e (some h)) s = .next (corrected (count s h.toNat 15 1) e)) ∧
  (∀ s r, delayed s 3 = false → let now := s.dtime.extractLsb' 20 24
    let l := (((s.ec.find? fun e => e.row == r).map (·.stamps)).getD []).filter fun t => decide ((now - t).toNat ≤ s.mgmt.ecwin)
    s.mgmt.ecthr ≤ l.length + 1 → ∃ rest, corrected s r = crossRow { s with ec := rest } r (hostMode s 4)) ∧
  (∀ (idx : BitVec 10) s, let e := retiredAt s idx.toNat
    let core := 192 * (e.unit_.toNat % 4) + e.unit_.toNat / 4 % 256
    e.valid = true → e.spared = false → e.kind = 1 → s.teams.all (fun x => decide (x.2.core ≠ some core)) = true →
    (s.retired.filter fun x => x.2.valid && x.2.spared && x.2.kind == e.kind && x.2.unit_ == e.unit_).length < 8 →
    delayed s 3 = false → exec (.rowSpare idx) s = .next { s with retired := kset s.retired idx.toNat { e with spared := true } }) ∧
  (∀ (i : BitVec 6) (mhz : BitVec 16) s, delayed s 1 = false → pairIsland i.toNat = true → 0 < mhz.toNat →
    mhz.toNat ≤ 940 * (16 - (s.islands.getD i.toNat Island.init).step) / 16 →
    exec (.powerLimit i mhz) s = .next (modIsland s i.toNat fun x => { x with mhz := mhz.toNat })) ∧
  (∀ (i : BitVec 6) (mhz : BitVec 16) s, delayed s 1 = true → pairIsland i.toNat = true → 0 < mhz.toNat →
    mhz.toNat ≤ 940 * (16 - (s.islands.getD i.toNat Island.init).step) / 16 →
    exec (.powerLimit i mhz) s = .next (queueFor s 1 (.power i mhz.toNat))) ∧
  ∀ (h : BitVec 14) s g, kget s.grids h.toNat = some g → g.replaying = true → g.root.toNat = h.toNat →
    setQuiet s (setOf s h.toNat) = true → delayed s (cpOf s h.toNat) = false →
    exec (.replay h) s = .next (
      let l := setOf s h.toNat
      let b := restoreSnaps ((l.flatMap (teamsOf s)).foldl dropTeam s) h.toNat
      frWrite (modGrid { b with grids := b.grids.filter fun e => decide (e.1 = h.toNat) || !l.contains e.1 }
        h.toNat restart) h.toNat none)

/-! ### Events: the end of teams, the dispatcher, engines, waits -/

/-- A cause that ends a team (R359, R361, R363, R364, R370, R371, R375): an entry is added to the grid's fault record, with its flags, and
counted; the first cause that ends a team is the grid's status. A team of a set that has stopped for its replay raises nothing more. Cause
0x40 or 0x41 in a set that is to be replayed starts its replay;
otherwise in hardware mode the team and its twin end, and in host-assisted mode the host receives the entry and the team and its twin
hold for the answer. An ended team holds no writes, and none of its streams issues. The record is written while its writes are on a
64-byte boundary of a page of the launching package, and an entry waits while the grid's command processor is replaced (R415). That the
status stays as it is while the team holds, and that the record lies on such a boundary and on such a page, are the model's choice
(log 53). -/
def Obligations.faults_end_the_team : Prop :=
  (∀ s tu u e gid cause detail inH pc faddr, setStopped s tu = true → endByFault s tu u e gid cause detail inH pc faddr = s) ∧
  (∀ s tu t u e gid cause detail inH pc faddr, kget s.teams tu = some t → setStopped s tu = false →
    let h := t.grid.toNat
    let late := cause = 0x40 ∧ (t.ended = true ∨ ∀ g, kget s.groups u = some g → g.ended = true)
    let flags := (if causePrecise cause detail = true then 1 else 0) + (if late then 2 else 0) + (if inH = true then 4 else 0)
      + (if t.shadow = true then 16 else 0)
    (∀ r g, snapRoot s h = some (r, g) → (cause = 0x40 ∨ cause = 0x41) → g.nonReplay = false → g.fr.replays < 3 →
      endByFault s tu u e gid cause detail inH pc faddr = startReplay (report s h t.num gid cause detail flags pc faddr false) r) ∧
    ((cause ≠ 0x40 ∧ cause ≠ 0x41 ∨ ∀ r g, snapRoot s h = some (r, g) → g.nonReplay = true ∨ 3 ≤ g.fr.replays) →
      let v := report s h t.num gid cause detail flags pc faddr (!hostMode s 1)
      endByFault s tu u e gid cause detail inH pc faddr =
        if t.ended = true then v
        else if hostMode s 1 = true then
          ctlTell (holdTwins v tu
            { cause := cause, resumable := decide (cause = 0x38 ∨ cause = 0x39), group := u, entry := e, own := true })
            (cpOf v h) "fault" [h, t.num, gid, cause, detail, flags, v.dtime.toNat, pc.toNat, faddr.toNat]
        else endTwins v tu)) ∧
  (∀ s tu t, kwf s.teams = true → kget (endTeam s tu).teams tu = some t →
    t.ended = true ∧ t.held = [] ∧ ∀ g e, canIssue t g e = false) ∧
  (∀ s h team gid cause detail flags pc faddr ends g, kget s.grids h = some g → delayed s (cpOf s h) = false →
    cause ≠ 0x4C → let v := report s h team gid cause detail flags pc faddr ends
    ∃ g', kget v.grids h = some g' ∧ g'.fr.count = min (g.fr.count + 1) 0xFFFFFFFF ∧
      g'.fr.status = (if ends = true ∧ g.fr.status = 0 then cause else g.fr.status) ∧
      g'.fr.overflow = (g.fr.overflow || decide (15 ≤ g.fr.flagBytes.length)) ∧
      (g.launch.faultrec = 0 → v.mem = s.mem) ∧
      ∀ w, g.launch.faultrec ≠ 0 → g.fr.dead = false → g.fr.flagBytes.length < 15 →
        frPut s g (32 + 32 * g.fr.flagBytes.length) 32
          (cause + 2 ^ 8 * detail + 2 ^ 16 * gid + 2 ^ 24 * flags + 2 ^ 32 * team + 2 ^ 64 * s.dtime.toNat
            + 2 ^ 128 * pc.toNat + 2 ^ 192 * faddr.toNat) = some w →
        ∀ x, frPut w g 0 32 (frHeader g'.fr g.nonReplay) = some x → v.mem = x.mem) ∧
  ∀ s h team gid cause detail flags pc faddr ends, delayed s (cpOf s h) = true →
    let f : FaultEntry := { team := team, gid := gid, cause := cause, detail := detail, flags := flags, pc := pc, faddr := faddr }
    report s h team gid cause detail flags pc faddr ends =
      queueFor (modGrid s h fun g => { g with fr := { g.fr with last := some f } }) (cpOf s h) (.entry h f s.dtime ends)

/-- The dispatcher (R40, R41, R52, R58, R60, R62 to R67, R216, R364, R379, R381, R408): a team is placed where it fits in its turn; a
request, the taking of a stopped team or pair, a swap and a resume; the landing of a result; an overrun of the yield budget; retirement;
the host's answers to a page and to a fault; and the compares and the timeout of a pair. The fit of a place, that a resume takes no turn,
what a taken team's saved image holds, how a pair that stands apart is taken and when a pair compares are the model's choice (log 14, 15,
16, 42). -/
def Obligations.dispatcher_events_complete : Prop :=
  (∀ (h : BitVec 14) p s g, kget s.grids h.toNat = some g → g.queued = true → g.launch.paired = false →
    p.parts.length = g.launch.groups →
    placeOk s p.core g.launch.localSize g.launch.width (p.parts.zip (launchNeeds g.launch)) = true → turnOf s g p.core = true →
    delayed s (cpOf s h.toNat) = false → exec (.dispatchTeam h p none) s =
      .next (modGrid (startTeam s h.toNat g p false s.uidCtr none) h.toNat fun g =>
      { g with next := g.next + 1, phase := .running })) ∧
  (∀ (h : BitVec 14) p q s g, kget s.grids h.toNat = some g → g.queued = true → g.launch.paired = true →
    p.parts.length = g.launch.groups → q.parts.length = g.launch.groups →
    placeOk s p.core g.launch.localSize g.launch.width (p.parts.zip (launchNeeds g.launch)) = true →
    turnOf s g p.core = true → turnOf s g q.core = true → clusterOf q.core ≠ clusterOf p.core →
    let b := s.uidCtr + 1 + g.launch.groups
    let u := startTeam s h.toNat g p false s.uidCtr (some b)
    placeOk u q.core g.launch.localSize g.launch.width (q.parts.zip (launchNeeds g.launch)) = true →
    delayed s (cpOf s h.toNat) = false → exec (.dispatchTeam h p (some q)) s =
      .next (modGrid (startTeam u h.toNat g q true b (some s.uidCtr)) h.toNat fun g =>
      { g with next := g.next + 1, phase := .running })) ∧
  (∀ tu (f : BitVec 14) s t g k, kget s.teams tu = some t → gridOf s tu = some g → kget s.grids f.toNat = some k →
    t.core.isSome = true → t.request = false → t.ended = false → g.prio < k.prio → blocked s f.toNat = true →
    delayed s (cpOf s f.toNat) = false → exec (.dispatcherPreempt tu f) s = .next (request s tu f)) ∧
  (∀ tu s t u, kget s.teams tu = some t → t.request = true → delayed s (cpOf s t.grid.toNat) = false → takeAll s tu = some u →
    exec (.teamTaken tu) s = .next u) ∧
  (∀ tu (f : BitVec 14) s t g k u, kget s.teams tu = some t → gridOf s tu = some g → kget s.grids f.toNat = some k →
    delayed s (cpOf s t.grid.toNat) = false → t.request = false → g.prio ≤ k.prio → blocked s f.toNat = true → allWait s tu = true →
    (∀ v, t.twin = some v → allWait s v = true) → takeAll s tu = some u → exec (.swapOut tu f) s = .next u) ∧
  (∀ tu s, (pairOf s tu = none → teamStopped s tu = true → takeAll s tu = some (takeTeam s tu)) ∧
    ∀ p v, pairOf s tu = some (p, v) → teamStopped s p = true → teamStopped s v = true →
      (takePoint s p v = none → takeAll s tu = some (takeTeam (takeTeam s p) v)) ∧
      ∀ u e, takePoint s p v = some (u, e) → takeAll s tu = some (
        if sigsEqual s p v = true then takeTeam (takeTeam (comparePair s p v) p) v else mismatchPair s p v u e 0)) ∧
  (∀ tu p s t g, kget s.teams tu = some t → gridOf s tu = some g → t.core = none → t.shadow = false → t.ended = false →
    t.twin = none → g.preq = false → g.replaying = false → resumeOk s tu g p = true →
    delayed s (cpOf s t.grid.toNat) = false → exec (.teamResume tu p none) s = .next (resumeTeam s tu p)) ∧
  (∀ u (e : BitVec 2) k s g p, kget s.groups u = some g → (g.split e.toNat).pend[k]? = some p →
    (g.split e.toNat).valid = true → p.await = none → p.bad = none → exec (.resultWriteback u e k) s =
      .next { s with groups := kset s.groups u ((g.land p).modSplit e.toNat fun sp =>
        { sp with pend := sp.pend.eraseIdx k }) }) ∧
  (∀ u (e : BitVec 2) s x w t v, ctxOf s u e.toNat = some x → x.fetch s x.pc.toNat = (.ok w, t) → wouldIssue x w t = (true, v) →
    x.g.budget = 0 → x.inH = false → (x.g.split x.e).trap = none → resultsReady x.g x.e = true →
    exec (.yieldOverrun u e) s = .next (streamFault v x 0x1B 0 0)) ∧
  (∀ (h : BitVec 14) s g, kget s.grids h.toNat = some g → canRetire s h.toNat g = true →
    let r := releaseCopies s h.toNat g
    let v := (completionArrival r g).getD (report r h.toNat 0 0 0x4D 1 0 0 0 false)
    exec (.gridRetire h) s = .next (
      let st := ((kget v.grids h.toNat).map (·.fr.status)).getD 0
      let w := tellParent v h.toNat g
      let w := { w with grids := kdel w.grids h.toNat }
      match g.source with
      | .ring r i => finishEntry w r i (if st = 0 then 2 else 3) (st % 256) false
      | .child => w)) ∧
  (∀ u (e : BitVec 2) s g page parked, kget s.groups u = some g → (g.split e.toNat).run = .host page parked →
    setStopped s g.team = false →
    let t := mapOps (modGroup s u fun g => g.modSplit e.toNat fun sp => { sp with run := if parked = true then .park else .run })
      (resumeOp u e.toNat none)
    exec (.hostPageAnswer u e true) s = .next (modGroup t u mergeAll) ∧
    exec (.hostPageAnswer u e false) s =
      .next (endByFault t g.team u e.toNat g.gid 0x28 0 false (g.stands e.toNat).1 page)) ∧
  (∀ tu s t h, kget s.teams tu = some t → t.stop = some h → h.own = true → setStopped s tu = false →
    exec (.hostFaultAnswer tu false) s = .next (endTwins (setStatus s t.grid.toNat h.cause) tu) ∧
    (h.resumable = true → exec (.hostFaultAnswer tu true) s = .next (heldIssued (letGo s tu) tu h))) ∧
  (∀ tu s p v u e w f l, setStopped s tu = false → pairOf s tu = some (p, v) → matched s p v = (u, e, w, f) :: l →
    exec (.pairCompare tu) s = .next (if sigsEqual s p v then afterCompare (afterCompare (comparePair s p v) u e) w f
      else mismatchPair s p v u e 0)) ∧
  (∀ tu s p v a b l, setStopped s tu = false → pairOf s tu = some (p, v) → matched s p v = [] → matchedOps s p v = (a, b) :: l →
    exec (.pairCompare tu) s = .next (if (a.2.own s).sig = (b.2.own s).sig then opAfterCompare b.1 b.2 (opAfterCompare a.1 a.2 s)
      else mismatchPair s a.2.team b.2.team a.2.group 16 0)) ∧
  ∀ tu s p v u e g y, pairOf s tu = some (p, v) → matched s p v = [] → overdue s tu = some (u, e) →
    kget s.groups u = some g → twinGroup s p g.gid = some y →
    runsFree s p = true → runsFree s v = true → exec (.pairTimeout tu) s = .next (mismatchPair s p v y.1 e 1)

/-- The engines and the ends of waits (R191, R221, R223, R270, R271, R273, R286 to R290, R296, R321, R395 to R399): the head of the matrix
FIFO is performed and leaves it; starvation ends the team; a batch retires; a drained tile is handed over; the head of each engine's queue
is worked off; a page fault of an engine is delivered, or fails its operation; a wait ends when its condition holds, is read again, fails
to read, or times out; and a refused access faults. When a refusal by a target comes, what counts as a batch's operations, which stream
takes an engine's fault, the registers that a wait reads again and the bytes with which a failed ROUTE arrives are the model's choice (log
17, 18, 20, 30, 65). -/
def Obligations.engine_and_wait_events_complete : Prop :=
  (∀ c s o l, (coreAt s c).fifo = o :: l → o.performs = true → (performMat s c o).2 = true →
    exec (.matrixFifoHead c) s = .next (popFifo (performMat s c o).1 c o)) ∧
  (∀ c s o l, (coreAt s c).fifo = o :: l → o.performs = true → (performMat s c o).2 = false →
    (coreAt (performMat s c o).1 c).starve = none →
    exec (.matrixFifoHead c) s = .next (modCore (performMat s c o).1 c fun k => { k with starve := some (performMat s c o).1.dtime })) ∧
  (∀ c s o l, (coreAt s c).fifo = o :: l → o.performs = true → (performMat s c o).2 = false →
    (coreAt (performMat s c o).1 c).starve.isSome = true → exec (.matrixFifoHead c) s = .next (performMat s c o).1) ∧
  (∀ c s o l since, (coreAt s c).fifo = o :: l → (coreAt s c).starve = some since → 1048576 ≤ (s.dtime - since).toNat →
    (coreAt s c).free = [] →
    let ids := ((coreAt s c).fifo.filter fun x => decide (x.team = o.team)).map (·.id)
    let u := mapOps (modCore s c fun k => { k with fifo := k.fifo.filter fun x => !decide (x.team = o.team), starve := none })
      fun x => dropFence ids (abortDrain ids x)
    let v := (teamGroups u o.team).foldl (fun s p => (List.range 16).foldl (fun s h => releaseHandle s c p.1 h) s) u
    exec (.accumulatorStarvation c) s = .next (queueMoved
      (endByFault v o.team o.group 16 (((kget v.groups o.group).map (·.gid)).getD 0) 0x26 0 false 0 0) o.team)) ∧
  (∀ u s g, kget s.groups u = some g → g.mopen ≠ 0 → batchOpen s u (g.mbatch - BitVec.ofNat 8 g.mopen) = false →
    exec (.batchRetire u) s = .next (modGroup s u fun g => { g with mopen := g.mopen - 1 })) ∧
  (∀ c s o l h, (coreAt s c).fifo = o :: l → o.kind = .adrain h → let tile := ((boundSlot s o.group h).map (accTile (coreAt s c))).getD []
    exec (.adrainHandOver c) s = .next (queueMoved (modCore s c fun k => { k with
      fifo := k.fifo.tail
      copyq := k.copyq.map fun x => match x.kind with
        | .drain d f a w none false =>
          if x.id = o.id then { x with kind := .drain d f a w (some tile) false } else x
        | _ => x }) o.team)) ∧
  (∀ c s o d f add w tile, (EngQueue.copy c).head s = some o → o.worked = false → o.kind = .drain d f add w (some tile) false →
    exec (.bargeDrain c) s = .next ((EngQueue.copy c).run none o (tileCount d.box) (drainElem d f add tile) s)) ∧
  (∀ c s o d f add w tile, (EngQueue.copy c).head s = some o → o.worked = false → o.kind = .drain d f add w tile true →
    exec (.abortedDrain c) s = .next ((EngQueue.copy c).fail o 4 none s)) ∧
  (∀ c s o d src w, (EngQueue.copy c).head s = some o → o.worked = false → o.kind = .bcopy d src w →
    exec (.bcopyPerform c) s = .next ((EngQueue.copy c).run none o (tileCount d.box)
      (copyElem d src fun o s b v => engWrite o s d.loc d.base b (elemBits d.elem) v) s)) ∧
  (∀ c s o mask d src l, (EngQueue.copy c).head s = some o → o.worked = false → o.kind = .bcopym mask d src (some l) →
    exec (.bcopymPerform c) s = .next ((EngQueue.copy c).run none o (if mask = 0 then 0 else tileCount d.box)
      (copyElem d src fun o s b v => multiWrite o l d s b v) s)) ∧
  (∀ (d : BitVec 2) s o a, (EngQueue.route d.toNat).head s = some o → o.worked = false → o.kind = .route a →
    exec (.routePerform d) s = .next (routeWork none d.toNat a o s)) ∧
  (∀ c s o p t d f h k tile fl inc w, (EngQueue.coll c).head s = some o → o.worked = false → readCollTile c o s = (p, t) →
    p.kind = .coll d f h k (some tile) fl inc w →
    exec (.collPerform c) s = .next ((EngQueue.coll c).run none p (tileCount d.box + 1) (collElem d f tile (tileCount d.box)) t)) ∧
  (∀ c s o, (EngQueue.copy c).head s = some o → o.worked = true → ∀ i ∈ [.bargeDrain c, .abortedDrain c, .bcopyPerform c, .bcopymPerform c],
    exec i s = .next ((EngQueue.copy c).leave o s)) ∧
  (∀ (d : BitVec 2) s o, (EngQueue.route d.toNat).head s = some o → o.worked = true →
    exec (.routePerform d) s = .next ((EngQueue.route d.toNat).leave o s)) ∧
  (∀ c s o, (EngQueue.coll c).head s = some o → o.worked = true →
    exec (.collPerform c) s = .next ((EngQueue.coll c).leave o s)) ∧
  (∀ eng s o l page t, (queueOf eng).get s = o :: l → o.page = some page → kget s.teams o.team = some t →
    (t.ended = true ∨ o.replaying s = true ∨ faultGroup s o = none ∨ t.core = none →
      exec (.engineFaultDelivery eng) s = .next ((queueOf eng).fail { o with page := none } 2 none (countTeam s o.team 13))) ∧
    ∀ u g e c, t.ended = false → o.replaying s = false → faultGroup s o = some (u, g, e) → t.core = some c → o.pend = none →
      t.stop = none → partitionBusy s c g.part = false → (g.split e).asked = false →
      exec (.engineFaultDelivery eng) s = .next (if handlerAddr s t.grid.toNat 1 = 0 ∧ hostMode s 0 = false
        then (queueOf eng).fail { o with page := none } 2 none
          (endByFault (countTeam s o.team 13) o.team u e g.gid 1 2 false (g.stands e).1 page)
        else (queueOf eng).put { o with pend := some (u, e) } (deliver (countTeam s o.team 13) t u g e page))) ∧
  (∀ eng s o l page, (queueOf eng).get s = o :: l → o.page = some page → kget s.teams o.team = none →
    exec (.engineFaultDelivery eng) s = .next ((queueOf eng).fail { o with page := none } 2 none s)) ∧
  (∀ u (e : BitVec 2) s w x t,
    waiting s u e.toNat = some (w, x, t) →
    (∀ word phase q v, w.for_ = .barrier word phase → barrierAt x t word none = .ok q v → barrierPoison v q.1 = none →
      q.2.phase ≠ phase → exec (.waitWake u e) s = .next (endWait w x (acquire v x q.2.scope))) ∧
    (∀ addr code n p v, w.for_ = .value addr code n → waitvRead x t addr.toNat = .ok p v →
      (intCompare code (BitVec.ofNat 32 p.1) n = true →
        exec (.waitWake u e) s = .next (endWait w x (acquire v x (widestScope p.2)))) ∧
      exec (.waitvRecheck u e) s = .next (if intCompare code (BitVec.ofNat 32 p.1) n = true
        then endWait w x (acquire v x (widestScope p.2))
        else modGroup v x.uid fun g => g.modSplit x.e fun sp => { sp with run := .wait w })) ∧
    (∀ word d, w.for_ = .child word d → liveChild t x.t.grid (word.toNat / 256) = false →
      let v := childStatus x.gr (word.toNat / 256)
      exec (.waitWake u e) s = .next (endWait w x (modGroup (if v = 0xFFFFFFFF then t else acquire t x 0) x.uid fun g =>
        g.writes (x.sl.flatMap fun k => x.ws k d v)))) ∧
    (∀ word phase r, w.for_ = .barrier word phase → barrierAt x t word none = .stop r →
      exec (.waitWake u e) s = .next (stopWait w x r)) ∧
    (∀ word phase q v d, w.for_ = .barrier word phase → barrierAt x t word none = .ok q v → barrierPoison v q.1 = some d →
      exec (.waitWake u e) s = .next (streamFault v x 0x40 d 0)) ∧
    (∀ addr code n r, w.for_ = .value addr code n → waitvRead x t addr.toNat = .stop r →
      exec (.waitWake u e) s = .next (stopWait w x r) ∧ exec (.waitvRecheck u e) s = .next (stopWait w x r)) ∧
    (w.ticks ≤ (s.dtime - w.since).toNat → exec (.waitTimeout u e) s = .next (streamFault t x 0x27 w.for_.detail 0))) ∧
  ∀ u (e : BitVec 2) s g pc va, kget s.groups u = some g → (g.split e.toNat).refused = some (pc, va) →
    let t := modGroup s u fun g => g.modSplit e.toNat fun sp => { sp with refused := none }
    exec (.refusedByTarget u e) s = .next (if handlerOn g e.toNat then endByFault t g.team u e.toNat g.gid 0x30 0x22 true pc va
      else endByFault t g.team u e.toNat g.gid 0x22 4 false pc va)

/-! ### Events: coherence, the fabric, collectives -/

/-- The coherence protocol (R248 to R262): a request that an L2 or another package may make is accepted at its home; an L2 answers a snoop
by its state (R249); an L2 has one request of a line in flight at a time; data, an acknowledgement and a retry end or repeat it; an answer
to a snoop counts for the grant that waits for it; the directory answers as R252 says; evictions, shadow notes, tracking and sweeps change
the directory; requests are sent again, with their stamp, switches fail and windows end; and the host reads, writes and snoops memory,
which holds one value per byte (R233). In which order grants and the requests behind them are served, that an L2 has one request of a line
in flight, that a note waits for a sweep, the answers to a host's snoops and the lines that a host access leaves are the model's choice
(log 31, 32, 45). -/
def Obligations.coherence_events_complete : Prop :=
  (∀ r s, let met : State → State := fun t => match r.src with
      | .pkg p => echoMark t p
      | _ => t
    (∀ t, offered s .readShared r = some t → exec (.readShared r) s = .next (acceptReq (met t) .readShared r)) ∧
    (∀ t, offered s .readOwn r = some t → exec (.readOwn r) s = .next (acceptReq (met t) .readOwn r)) ∧
    (∀ t, offered s .upgrade r = some t → exec (.upgrade r) s = .next (acceptReq (met t) .upgrade r)) ∧
    (∀ t, offered s .writeBack r = some t → exec (.writeBack r) s = .next (acceptReq (met t) .writeBack r)) ∧
    (∀ t, offered s .cleanEvict r = some t → exec (.cleanEvict r) s = .next (acceptReq (met t) .cleanEvict r)) ∧
    ∀ t, offered s .atomic r = some t → exec (.atomicAtHome r) s = .next (acceptReq (met t) .atomic r)) ∧
  (∀ s (r : CohReq) (q : BitVec 2), r.src = .die q → q.toNat ≠ homeDie (r.line * 128) → s.coh.hostLines.contains r.line = false →
    (regionAt s (regionOf r.line)).shadow = 0 →
    (kget s.coh.dir r.line = none →
      (planFor s .readShared r).answer = "DataE" ∧ (planFor s .readShared r).dir = some (.owned q []) ∧
      (planFor s .readOwn r).answer = "DataM" ∧ (planFor s .readOwn r).dir = some (.owned q []) ∧
      (planFor s .upgrade r).answer = "Retry" ∧ (planFor s .writeBack r).answer = "Ack" ∧ (planFor s .cleanEvict r).dir = none) ∧
    (∀ l, kget s.coh.dir r.line = some (.shared l) →
      (planFor s .readShared r).answer = "DataS" ∧
      (planFor s .readShared r).dir = some (.shared (if l.contains q then l else l ++ [q])) ∧
      (planFor s .readOwn r).dir = some (.owned q []) ∧
      (q ∈ l → (planFor s .upgrade r).answer = "Ack" ∧ (planFor s .upgrade r).dir = some (.owned q []) ∧
        ∀ d ∈ l, d ≠ q → ("Invalidate", .die d) ∈ (planFor s .upgrade r).snoops) ∧
      (∀ d ∈ l, d ≠ q → ("Invalidate", .die d) ∈ (planFor s .readOwn r).snoops) ∧
      (planFor s .writeBack r).dir = sharedEntry (l.filter fun d => decide (d ≠ q)) ∧ (planFor s .atomic r).dir = none) ∧
    ∀ d l, kget s.coh.dir r.line = some (.owned d l) → d ≠ q →
      (planFor s .readShared r).snoops = [("FwdShared", .die d)] ∧ (planFor s .readShared r).answer = "DataS" ∧
      (planFor s .readShared r).dir = some (.owned d (if l.contains q then l else l ++ [q])) ∧
      ("FwdOwn", .die d) ∈ (planFor s .readOwn r).snoops ∧ ("FwdOwn", .die d) ∈ (planFor s .atomic r).snoops ∧
      (∀ c ∈ l, c ≠ q → ("Invalidate", .die c) ∈ (planFor s .readOwn r).snoops ∧
        ("Invalidate", .die c) ∈ (planFor s .atomic r).snoops) ∧
      (planFor s .readOwn r).dir = some (.owned q []) ∧
      (planFor s .writeBack r).dir = some (.owned d (l.filter fun c => decide (c ≠ q))) ∧
      (planFor s .cleanEvict r).dir = some (.owned d (l.filter fun c => decide (c ≠ q))) ∧
      (planFor s .upgrade r).answer = "Retry" ∧ (planFor s .atomic r).dir = none) ∧
  (∀ s (r : CohReq) (q : BitVec 2) l, r.src = .die q → q.toNat ≠ homeDie (r.line * 128) → s.coh.hostLines.contains r.line = false →
    (regionAt s (regionOf r.line)).shadow = 0 → kget s.coh.dir r.line = some (.owned q l) →
    (planFor s .upgrade r).answer = "Ack" ∧ (planFor s .upgrade r).dir = some (.owned q []) ∧
    (planFor s .upgrade r).snoops = (l.filter fun c => decide (c ≠ q)).map (fun c => ("Invalidate", .die c)) ∧
    ∀ k ∈ [CohKind.writeBack, .cleanEvict], (planFor s k r).answer = "Ack" ∧ (planFor s k r).snoops = [] ∧
      (planFor s k r).dir = sharedEntry (l.filter fun c => decide (c ≠ q))) ∧
  (∀ n s, ownLine s n.line = false → homeNode n.line ≠ .host → let st := l2At s n.die.toNat n.line
    (st = .modified ∨ st = .owned → exec (.fwdShared n) s = .next (Safety.snooped s n "DataFwd" .owned)) ∧
    (st = .excl ∨ st = .shared → exec (.fwdShared n) s = .next (Safety.snooped s n "DataFwd" .shared)) ∧
    (st = .inv → exec (.fwdShared n) s = .next (Safety.snooped s n "InvAck" .inv)) ∧
    (st = .modified ∨ st = .owned ∨ st = .excl → exec (.fwdOwn n) s = .next (Safety.snooped s n "DataFwd" .inv)) ∧
    (st = .shared ∨ st = .inv → exec (.fwdOwn n) s = .next (Safety.snooped s n "InvAck" .inv)) ∧
    (st = .modified ∨ st = .owned → exec (.invalidate n) s = .next (Safety.gaveUp s n) ∧
      exec (.backInvalidate n) s = .next (Safety.gaveUp s n)) ∧
    (st = .shared ∨ st = .excl ∨ st = .inv → exec (.invalidate n) s = .next (Safety.snooped s n "InvAck" .inv) ∧
      exec (.backInvalidate n) s = .next (Safety.snooped s n "InvAck" .inv))) ∧
  (∀ n s kind t, ownLine s n.line = true → takeCoh s [kind] (· == n.requester) (· == .die n.die) n.line = some t →
    let st := l2At s n.die.toNat n.line
    let keep := fwdAnswer true st
    let own := fwdAnswer false st
    let lost := if st = .modified ∨ st = .owned then Safety.gaveUp t n else Safety.snooped t n "InvAck" .inv
    (kind = "FwdShared" → exec (.fwdShared n) s = .next (Safety.snooped t n keep.1 keep.2)) ∧
    (kind = "FwdOwn" → exec (.fwdOwn n) s = .next (Safety.snooped t n own.1 own.2)) ∧
    (kind = "Invalidate" → exec (.invalidate n) s = .next lost) ∧
    (kind = "BackInvalidate" → exec (.backInvalidate n) s = .next lost)) ∧
  (∀ (d : BitVec 2) line st s m k t, mshrOf s d line (fun m => grants st m.kind) = some m → dataName st = some k →
    response s k d line = some t → exec (.dataResponse d line st) s = .next (afterAnswer (l2Put (dropMshr t m) d.toNat line st))) ∧
  (∀ (d : BitVec 2) line s m t, mshrOf s d line (fun m => m.kind.acked) = some m → response s "Ack" d line = some t →
    (m.kind ≠ .upgrade → exec (.ack d line) s = .next (afterAnswer (dropMshr t m))) ∧
    (m.kind = .upgrade → l2At t d.toNat line = .inv → exec (.ack d line) s = .next (afterAnswer (sendAgain t m))) ∧
    (m.kind = .upgrade → l2At t d.toNat line ≠ .inv →
      exec (.ack d line) s = .next (afterAnswer (setL2 (dropMshr t m) d.toNat line .modified)))) ∧
  (∀ s die line kind pay, inFlightAt s die line = true ∨ waitingAt s die line ≠ [] →
    (cohRequest s die line kind pay).coh.mshrs = s.coh.mshrs ∧ (cohRequest s die line kind pay).outbox = s.outbox) ∧
  (∀ (d : BitVec 2) line s m t, mshrOf s d line (fun _ => true) = some m → response s "Retry" d line = some t →
    let kind := if m.kind = .upgrade ∧ l2At t d.toNat line = .inv then .readOwn else m.kind
    let n : Mshr := { m with kind := kind, sentAt := t.dtime, taken := false, unsent := false }
    exec (.retry d line) s = .next (sendReq (modCoh t fun c => { c with mshrs := c.mshrs.map fun x => if x = m then n else x }) n)) ∧
  (∀ line p data s, exec (.snoopResponse line (.pkg p) data) s = .next (answered s line (.pkg p)) ∧
    exec (.snoopResponse line (.switch p) data) s = .next (answered s line (.switch p))) ∧
  (∀ line d data s t, takeCoh s [if data then "DataFwd" else "InvAck"] (· == .die d) (fun _ => true) line = some t →
    exec (.snoopResponse line (.die d) data) s = .next (answered t line (.die d))) ∧
  (∀ (d : BitVec 2) line s, let st := l2At s d.toNat line
    st ≠ .inv → s.coh.mshrs.all (fun m => decide (¬ (m.die = d ∧ m.line = line))) = true →
    exec (.l2Eviction d line) s = .next (if ownLine s line = true ∧ d.toNat = homeDie (line * 128) then setL2 s d.toNat line .inv
      else cohRequest (setL2 s d.toNat line .inv) d.toNat line (if st = .owned ∨ st = .modified then .writeBack else .cleanEvict))) ∧
  (∀ r (p q : BitVec 12) s, ownRegion s r = true →
    (sweeping s r = false → exec (.shadowNote r ⟨p, q⟩) s = .next (sendCoh (modRegion (forgetGone s r) r fun g =>
      { g with shadow := g.shadow ||| shadowBit p, swept := false }) "Ack" (selfNode s) (.switch q) (r * 32) (noStamp s))) ∧
    (delayed s 3 = false → exec (.track r q) s = .next (if (regionAt s r).swept && !(regionAt s r).tracked
      then modRegion (forgetGone s r) r fun g => { g with tracked := true, switch := q } else s)) ∧
    exec (.untrack r) s = .next (sendCoh (modRegion s r fun g => { g with tracked := false }) "Ack" (selfNode s)
      (.switch (regionAt s r).switch) (r * 32) (noStamp s)) ∧
    (delayed s 3 = false → (regionAt s r).tracked = false → s.coh.grants.all (fun x => decide (regionOf x.line ≠ r)) = true →
      let l := (coveredBy s (regionAt s r).shadow .host).map CohNode.pkg
      (l = [] → exec (.regionSweep r) s = .next (modRegion s r fun g => { g with shadow := 0, swept := true })) ∧
      (l ≠ [] → exec (.regionSweep r) s = .next ((List.range 32).foldl (fun t k =>
        let q : CohReq := { line := r * 32 + k, src := selfNode t, stamp := noStamp t, payload := .none }
        addGrant (sendSnoops t .readOwn q q.line (l.map fun n => ("Invalidate", n))) q.line .sweep .readOwn q l "") s)))) ∧
  (∀ (tag : BitVec 12) s m, s.coh.mshrs.find? (fun m => decide (m.stamp.tag = tag)) = some m → ownLine s m.line = false →
    homeNode m.line ≠ .host → 50000 ≤ (s.dtime - m.sentAt).toNat →
    exec (.requestReissue tag) s = .next (sendReq (modCoh s fun c =>
      { c with mshrs := c.mshrs.map fun x => if x = m then { m with sentAt := s.dtime } else x }) m)) ∧
  (∀ (sw : BitVec 12) s, let hit : Region → Bool := fun g => g.tracked && decide (g.switch = sw)
    let t := modCoh s fun c => { c with
      affected := (c.regions.filter fun e => hit e.2).foldl (fun m e => kset m e.1 (s.dtime + 100000)) c.affected
      regions := c.regions.map fun e => if hit e.2 = true then (e.1, { e.2 with tracked := false }) else e }
    let u := s.coh.grants.foldl (waitByShadow sw) t
    exec (.switchFailure sw) s = .next (if delayed s 2 = true then queueFor s 2 (.switchDown sw)
      else if hostMode u 3 then ctlTell u 2 "switch down" [sw.toNat] else u)) ∧
  (∀ s, s.coh.affected.any (fun e => decide (e.2.toNat ≤ s.dtime.toNat)) = true →
    let t := modCoh s fun c => { c with affected := c.affected.filter fun e => !decide (e.2.toNat ≤ s.dtime.toNat) }
    let l := (s.coh.collected.filter fun q => !collecting t q.2.line).foldr insertReq []
    exec .recoveryWindowEnd s = .next (l.foldl (fun s q => pumpLine s q.2.line) (modCoh t fun c => { c with
      collected := c.collected.filter fun q => collecting t q.2.line, queue := c.queue ++ l }))) ∧
  (∀ line (p : BitVec 12) s g k,
    s.coh.grants.find? (fun g => decide (g.line = line) && g.waits.any fun w => w.1 == .pkg p) = some g →
    g.waits.find? (fun w => w.1 == .pkg p) = some (.pkg p, k) → 50000 * k ≤ (s.dtime - g.startOf (.pkg p)).toNat →
    (4 ≤ k → exec (.invalidateResend line p) s = .next (declareLost s line p)) ∧
    (k < 4 → exec (.invalidateResend line p) s = .next (
      let t := sendCoh (modCoh s fun c =>
        { c with grants := c.grants.map fun x => if x = g then { g with
          waits := g.waits.map (fun w => if w.1 = .pkg p then (w.1, k + 1) else w), reported := true } else x })
        "Invalidate" (snoopSrc s g.kind g.req) (.pkg p) line g.req.stamp
      if g.reported then t else fabricError t 0 line p.toNat))) ∧
  (∀ (d : BitVec 2) line k s, homeNode line = .host → let r := hostAnswer k (l2At s d.toNat line)
    exec (.hostSnoop d line k) s = .next (sendCoh (setL2 s d.toNat line r.2) r.1 (.die d) .host line (noStamp s))) ∧
  (∀ line dirty s t, takeCoh s ["BISnpInv", "BISnpData"] (fun _ => true) (· == .host) line = some t →
    exec (.bisnpResponse line dirty) s = .next (answered t line .host)) ∧
  ∀ (pa : BitVec 52) n s, 0 < n → ownLine s (pa.toNat / 128) = true → pa.toNat / 128 = (pa.toNat + n - 1) / 128 →
    targetRefuses s pa.toNat = false → lineBusy s (pa.toNat / 128) = false →
    (∀ l, exec (.hostMemoryAccess pa n (some l)) s =
      .next (yieldToHost { s with mem := writeList s.mem pa.toNat (l.take n) } (pa.toNat / 128) true)) ∧
    (poisonAt s pa.toNat n = none → exec (.hostMemoryAccess pa n none) s = .next (tellHost
      (yieldToHost s (pa.toNat / 128) false) "data" [pa.toNat, ofBytes (readList s.mem pa.toNat n)]))

/-- The fabric (R20, R26, R324 to R330, R401, R409, R414): a good flit is taken in sequence and another is left to the replay of the link;
links go down and come up, and what waits for a link is tried again; a flit leaves while the link has a credit; a PUT that its window
admits is written whole and acknowledged, or notified, and another or one whose write fails is refused; a notification is appended where
its ring has room; acknowledgements, credits, marks and rates; and domain bring-up and time. That an append whose ring cannot be reached
is dropped, that a replay of flits is unseen, that only full flits leave, the credits of a trained link, and from where the slew of domain
time counts are the model's choice (log 26, 27, 33). -/
def Obligations.fabric_events_complete : Prop :=
  (∀ (n : BitVec 5) f s, let l := s.links.getD n.toNat Link.init
    l.up = true → f.length = 256 → exec (.flitReceive n f) s = .next (if flitGood l f
      then modLink s n.toNat fun l =>
        parseStream { l with seq := l.seq + 1, owed := l.owed + 1, acked := BitVec.ofNat 12 (ofBytes (f.take 8) / 2 ^ 12)
                             credits := l.credits + ofBytes (f.take 8) / 2 ^ 24 % 2 ^ 8 } ((f.drop 8).take 240) else s)) ∧
  (∀ (n : BitVec 5) s, (s.links.getD n.toNat Link.init).up = true →
    let t := wakeSenders (modLink s n.toNat fun l => { l with up := false, lost := hostMode s 3 })
    exec (.linkDown n) s = .next (if hostMode s 3 = true then ctlTell t 2 "link down" [n.toNat]
      else if delayed s 2 = true then queueFor t 2 (.linkDown n.toNat) else t)) ∧
  (∀ (n : BitVec 5) s, n.toNat < 24 → (s.links.getD n.toNat Link.init).up = false →
    exec (.linkUp n) s = .next (wakeSenders (modLink s n.toNat fun l =>
      { l with up := true, lost := false, seq := 0, acked := 0, credits := Config.linkCredits, txSeq := 0, owed := 0, head := []
               cur := none, body := 0 }))) ∧
  (∀ s n, let l := s.links.getD n Link.init
    l.up = true → 0 < l.credits → 240 ≤ l.out.length →
    let body := toBytes 8 (l.txSeq.toNat + 2 ^ 12 * (l.seq - 1).toNat + 2 ^ 24 * min l.owed 255) ++ l.out.take 240
    sendFlit s n = emit (modLink s n fun l =>
        { l with txSeq := l.txSeq + 1, credits := l.credits - 1, owed := l.owed - min l.owed 255, out := l.out.drop 240 })
      (.link "flit" n ((body ++ toBytes 8 (Config.crc64 body).toNat).map BitVec.toNat))) ∧
  (∀ m s q, m.dst = s.pkg → putArrives s m = some q → let t := echoMark q m.src
    let w := windowAt t m.key.toNat
    (windowAdmits w m = true → ∀ sp v, spaceOfPid t w.pid = some sp →
      sysWrite t sp ((w.base.toNat + m.offset.toNat) % 2 ^ 64) 8 m.value.toNat = some v →
      exec (.putMessage m) s = .next (if w.notify then
          { v with notes := v.notes ++ [⟨m.key.toNat % 256, m.word, m.src, m.putk, m.offset, m.issuer⟩] }
        else sendPutAck v m.issuer m.src none)) ∧
    (windowAdmits w m = true → (∀ sp, spaceOfPid t w.pid = some sp →
        sysWrite t sp ((w.base.toNat + m.offset.toNat) % 2 ^ 64) 8 m.value.toNat = none) →
      exec (.putMessage m) s = .next (sendPutAck t m.issuer m.src (some 1))) ∧
    (windowAdmits w m = false → exec (.putMessage m) s = .next (sendPutAck
      (if w.valid && w.pid != m.pid then { t with protErrs := t.protErrs + 1 } else t) m.issuer m.src (some 0)))) ∧
  (∀ (k : BitVec 8) s n sp cons v, s.notes.find? (fun n => n.win == k.toNat) = some n → let w := windowAt s k.toNat
    spaceOfPid s w.pid = some sp → sysRead s sp w.nqcons.toNat 8 = some cons →
    (w.nqprod.toNat + 2 ^ 64 - cons) % 2 ^ 64 < 2 ^ w.nqlog.toNat →
    sysWrite s sp ((w.nqbase.toNat + 16 * (w.nqprod.toNat % 2 ^ w.nqlog.toNat)) % 2 ^ 64) 16 (noteBytes n w.nqprod) = some v →
    exec (.notifyAppend k) s = .next (sendPutAck
      { v with windows := kset v.windows k.toNat { w with nqprod := w.nqprod + 1 }, notes := v.notes.erase n } n.issuer n.src none)) ∧
  (∀ (k : BitVec 8) s n, s.notes.find? (fun n => n.win == k.toNat) = some n → let w := windowAt s k.toNat
    (∀ sp, spaceOfPid s w.pid = some sp → sysRead s sp w.nqcons.toNat 8 = none) →
    exec (.notifyAppend k) s = .next (sendPutAck { s with notes := s.notes.erase n } n.issuer n.src (some 1))) ∧
  (∀ h team gid d s g, s.outbox = [.putAck ⟨.grid h team gid, s.pkg, d⟩] → kget s.grids h.toNat = some g → 0 < g.puts →
    let t := modGrid { s with outbox := [] } h.toNat fun g => { g with puts := g.puts - 1 }
    exec (.putAck ⟨.grid h team gid, s.pkg, d⟩) s = .next (match d with
      | some c => recordPut t h.toNat team.toNat gid.toNat c.toNat
      | none => t)) ∧
  (∀ h team gid d s g o, s.outbox = [.put o] → o.issuer = .grid h team gid → o.dst ≠ s.pkg →
    present s o.dst = decide (d ≠ some 2) → kget s.grids h.toNat = some g → 0 < g.puts →
    let t := modGrid { s with outbox := [], issued := s.issued.filter fun i => i.msg != .put o } h.toNat fun g =>
      { g with puts := g.puts - 1 }
    exec (.putAck ⟨.grid h team gid, s.pkg, d⟩) s = .next (match d with
      | some c => recordPut t h.toNat team.toNat gid.toNat c.toNat
      | none => t)) ∧
  (∀ n k cid pc d s, s.outbox = [.putAck ⟨.ctx n k cid pc, s.pkg, d⟩] → let t := { s with outbox := [] }
    exec (.putAck ⟨.ctx n k cid pc, s.pkg, d⟩) s =
      .next (if d.isSome then recordFault t cid n.toNat k.toNat 0x05 0 pc else t)) ∧
  (∀ g q b s x, kget s.peers (grantorKey g) = some x → markMode s = false →
    exec (.creditReturn g q b) s = .next (wakeSenders
      { s with peers := kset s.peers (grantorKey g) { x with reqs := min 8 (x.reqs + q), bulk := min 32 (x.bulk + b) } })) ∧
  (∀ (p : BitVec 12) s x, kget s.peers p.toNat = some x →
    (markMode s = true → 2000 ≤ (s.dtime - x.quiet).toNat →
      exec (.rateRecovery p) s = .next { s with peers := kset s.peers p.toNat { x.raise with quiet := x.quiet + 2000 } }) ∧
    (markMode s = true → x.cut = none →
      exec (.markEcho p) s = .next { s with peers := kset s.peers p.toNat { x.halve with quiet := s.dtime, cut := some s.dtime } })) ∧
  (∀ b s, allRun s = true → delayed s 2 = false → (∀ p ∈ b.pkgs, p.toNat < 2304) → b.pkgs.Nodup → s.mgmt.fabmode.getLsbD 1 = false →
    s.dtime.toNat ≤ b.time.toNat → ∃ t, exec (.domainBringUp b) s = .next t ∧ t.dtime = b.time ∧
      t.pkgs = s.pkg :: b.pkgs.filter (fun p => p != s.pkg) ∧
      t.slew = some b.time ∧ (∀ p ∈ b.pkgs, p ≠ s.pkg → kget t.peers p.toNat = some (Peer.init b.time)) ∧
      ∀ n < 24, kget t.peers (4096 + n) = some (Peer.init b.time)) ∧
  (∀ b s, allRun s = true → delayed s 2 = false → (∀ p ∈ b.pkgs, p.toNat < 2304) → b.pkgs.Nodup → s.mgmt.fabmode.getLsbD 1 = true →
    ∃ t, exec (.domainBringUp b) s = .next t ∧ t.dtime = s.dtime ∧ t.pkgs = s.pkg :: b.pkgs.filter (fun p => p != s.pkg) ∧
      ∀ p ∈ b.pkgs, p ≠ s.pkg → present s p = false → kget t.peers p.toNat = some (Peer.init s.dtime)) ∧
  ∀ n s since, s.slew = some since → delayed s 2 = false → n ≤ 250 → 10000 * n ≤ (s.dtime - since).toNat →
    exec (.dtimeSync n) s = .next { s with dtime := s.dtime + BitVec.ofNat 64 n, slew := some (s.dtime + BitVec.ofNat 64 n) }

/-- Messages and collectives (R302, R306, R307, R310, R313, R315, R317, R320, R330 to R333): a READY, a CHUNK or a NACK reaches its
context, and one of another partition is cause 0x05; a refused READY is sent again; a finished chunk, a sum and a reached flag let the
context go on; the run limit makes it leave; timeouts are causes 0x07 and 0x08; a resolved page lets it go on; a launch, its commit and
its cancel; an abort stops the contexts; and the end of a collective writes its done word and completes its ring entry. When a READY is
sent again, that an RXCF stores its chunk once its forward is acknowledged, what an answer to a launch is told as, and that the origin
sends an abort on are the model's choice (log 28, 29). -/
def Obligations.collective_events_complete : Prop :=
  (∀ m s t, isHere s m.dst = true → arrive s m.src.pkg (.ready m) = some t →
    let n := m.dst.sq.toNat
    let k := m.dst.ctx.toNat
    (pidDiffers t n k m.pid = true → exec (.readyMessage m) s = .next (emit (seqFault t n k 0x05 0)
      (.nack { dst := m.src, tag := m.tag, pidFault := true }))) ∧
    (pidDiffers t n k m.pid = false → (ctxAt t n k).readys.length < 64 →
      exec (.readyMessage m) s = .next (advanceCtx (modCtx t n k fun c => { c with readys := c.readys ++ [m] }) n k))) ∧
  (∀ (q : BitVec 5) (c : BitVec 2) s op t f, (ctxAt s q.toNat c.toNat).wait = .rx op (some t) true f →
    (ctxAt s q.toNat c.toNat).state = .waiting → 1024 ≤ (s.dtime - t).toNat →
    exec (.readyRetry q c) s = .next (sendReady s q.toNat c.toNat op)) ∧
  (∀ m s q op at_ r f, isHere s m.dst = true → arrive s m.src.pkg (.chunk m) = some q →
    let t := echoMark q m.src.pkg
    let n := m.dst.sq.toNat
    let k := m.dst.ctx.toNat
    pidDiffers t n k m.pid = false → (ctxAt t n k).wait = .rx op (some at_) r f → (ctxAt t n k).state = .waiting →
    op.src = m.src → op.tag = m.tag → op.len = m.data.length →
    exec (.chunkMessage m) s = .next (receiveChunk t n k op m.data)) ∧
  (∀ m s, isHere s m.dst = true → s.outbox.contains (.nack m) = true → let t := { s with outbox := s.outbox.erase (.nack m) }
    (∀ op a r f, (ctxAt s m.dst.sq.toNat m.dst.ctx.toNat).wait = .rx op a r f → op.tag = m.tag →
      exec (.nackMessage m) s = .next (seqFault t m.dst.sq.toNat m.dst.ctx.toNat (if m.pidFault then 0x05 else 0x06) 0)) ∧
    (∀ src len dst lnk, (ctxAt s m.dst.sq.toNat m.dst.ctx.toNat).wait = .tx src len dst m.tag lnk → m.pidFault = true →
      exec (.nackMessage m) s = .next (seqFault t m.dst.sq.toNat m.dst.ctx.toNat 0x05 0))) ∧
  (∀ (q : BitVec 5) (k : BitVec 2) s, let c := ctxAt s q.toNat k.toNat
    c.state = .waiting →
    (∀ due, c.wait = .done due → exec (.chunkComplete q k) s =
      .next (seqComplete (finishDue s q.toNat k.toNat due) q.toNat k.toNat)) ∧
    (∀ dst out clamp, c.wait = .cvt dst out clamp → exec (.chunkComplete q k) s =
      .next (seqComplete (modCtx (writeSeg s dst out) q.toNat k.toNat fun c => { c with clamp := c.clamp || clamp }) q.toNat k.toNat)) ∧
    (∀ dst tag due, c.wait = .sent dst tag due → dst.pkg ≠ s.pkg → exec (.chunkComplete q k) s =
      .next (seqComplete (finishDue s q.toNat k.toNat due) q.toNat k.toNat)) ∧
    (∀ op data cmb n co, c.wait = .replay op data → op.cmb = some cmb → op.seq = some n → collOf s c = some co →
      co.combines = n → exec (.chunkComplete q k) s = .next (startCombine s q.toNat k.toNat op cmb data)) ∧
    (∀ dst own n pid data, c.wait = .sred dst own n → data.length = own.length → (n ≠ 1 ∨ data = own) →
      exec (.sredResult q k ⟨pid, data⟩) s = .next (if pidDiffers s q.toNat k.toNat pid
        then seqFault (modCtx s q.toNat k.toNat fun c => { c with wait := .none }) q.toNat k.toNat 0x05 0
        else seqComplete (writeSeg s dst data) q.toNat k.toNat)) ∧
    (∀ pa v l, c.wait = .flag pa v l → poisonAt s pa 8 = none → exec (.wflgRecheck q k) s =
      .next (if v.toNat ≤ readN s.mem pa 8 then seqComplete s q.toNat k.toNat else s)) ∧
    (∀ va co, c.wait = .page va true → collOf s c = some co →
      exec (.seqPageResolved q k true) s =
        .next (schedule (modCtx s q.toNat k.toNat (atSwitch fun c => { c with wait := .none }.retried)) q.toNat) ∧
      exec (.seqPageResolved q k false) s = .next (seqFault s q.toNat k.toNat 0x03 va)) ∧
    (∀ co, collOf s c = some co → co.debug = false → 1024 * co.timeout ≤ (s.dtime - c.since).toNat →
      (∀ d o n, c.wait = .sred d o n → exec (.rendezvousTimeout q k) s = .next (seqFault s q.toNat k.toNat 0x07 0)) ∧
      (∀ dst tag due, c.wait = .sent dst tag due → exec (.rendezvousTimeout q k) s = .next (faultPartners
        (seqFault s q.toNat k.toNat 0x07 0) (selfRoute s q.toNat k.toNat) [(dst, tag)] 0x07)) ∧
      (∀ op a r f, c.wait = .rx op a r f → exec (.rendezvousTimeout q k) s = .next (faultPartners
        (seqFault s q.toNat k.toNat 0x07 0) (selfRoute s q.toNat k.toNat)
        ((op.src :: op.fwd.toList).map fun r => (r, op.tag)) 0x07)) ∧
      (∀ op data, c.wait = .replay op data → exec (.combineReplayTimeout q k) s =
        .next (seqFault s q.toNat k.toNat 0x08 0))) ∧
    (∀ co pa v l, collOf s c = some co → co.debug = false → c.wait = .flag pa v l → l ≠ 0 → l ≤ (s.dtime - c.since).toNat →
      exec (.wflgTimeout q k) s = .next (seqFault s q.toNat k.toNat 0x07 0))) ∧
  (∀ (q : BitVec 5) s k, (seqAt s q.toNat).run = some k → 256 ≤ (seqAt s q.toNat).streak →
    exec (.contextRunLimit q) s = .next (leaveSeq s q.toNat k (atSwitch fun c => { c with state := .ready }))) ∧
  (∀ m s sp st p l t, originOf m.cid ≠ s.pkg → present s (originOf m.cid) = true → kget s.colls m.cid.toNat = none →
    kget s.spaces m.space = some sp → sp.pid = m.pid → loadPackage m.space m.packet m.cid none (fun _ _ => []) s = .done st p l t →
    exec (.collectiveLaunchMessage m) s = .next (emit t (.coll "answer" (originOf m.cid) m.cid st))) ∧
  (∀ cid s, heldFor s cid = true → exec (.collectiveCommit cid) s = .next (commitColl s cid.toNat) ∧
    exec (.collectiveCancel cid) s = .next (cancelColl s cid.toNat)) ∧
  (∀ cid (cause : BitVec 8) s co, kget s.colls cid.toNat = some co →
    (s.outbox.contains (.coll "abort" s.pkg cid cause.toNat) = true → exec (.abortMessage ⟨cid, cause⟩) s =
      .next (co.ctxs.foldl (abortCtx cid) { s with outbox := s.outbox.erase (.coll "abort" s.pkg cid cause.toNat) })) ∧
    (s.outbox.contains (.coll "abort" s.pkg cid cause.toNat) = false → (∃ p ∈ co.pkgs, p ≠ s.pkg) →
      1 ≤ cause.toNat → cause.toNat ≤ 10 → originOf cid ≠ s.pkg →
      let c := if co.cause = 0 then { co with cause := cause.toNat, recorded := true } else co
      exec (.abortMessage ⟨cid, cause⟩) s =
        .next (c.ctxs.foldl (abortCtx cid) { s with colls := kset s.colls cid.toNat c }))) ∧
  ∀ cid s co, kget s.colls cid.toNat = some co → co.started = true → (∀ p ∈ co.ctxs, ctxOver s cid p = true) →
    let w := if originOf cid = s.pkg then writeDone s co else (s, false)
    let t := co.ctxs.foldl (freeCtx cid) { w.1 with colls := kdel w.1.colls cid.toNat }
    exec (.collectiveEnd cid) s = .next (match co.source with
      | some (r, i) => finishEntry t r i (if co.cause = 0 then 2 else 3) co.cause w.2
      | none => t)
end

