-- ==== Sys2Proof/Laws/State.lean ====
section
/-! SUPPORT. What each update of the state does to each field: one lemma per field per update, true by rfl. -/

set_option Elab.async false

namespace Sys2Proof.Laws

open Sys2Proof.Machine

/-! ### modGroup -/

@[simp] theorem modGroup_agenda (s : State) (u : Nat) (f : Group → Group) : (modGroup s u f).agenda = s.agenda := rfl
@[simp] theorem modGroup_cur (s : State) (u : Nat) (f : Group → Group) : (modGroup s u f).cur = s.cur := rfl
@[simp] theorem modGroup_curSeq (s : State) (u : Nat) (f : Group → Group) : (modGroup s u f).curSeq = s.curSeq := rfl
@[simp] theorem modGroup_freeCtr (s : State) (u : Nat) (f : Group → Group) : (modGroup s u f).freeCtr = s.freeCtr := rfl
@[simp] theorem modGroup_outbox (s : State) (u : Nat) (f : Group → Group) : (modGroup s u f).outbox = s.outbox := rfl
@[simp] theorem modGroup_issued (s : State) (u : Nat) (f : Group → Group) : (modGroup s u f).issued = s.issued := rfl
@[simp] theorem modGroup_dtime (s : State) (u : Nat) (f : Group → Group) : (modGroup s u f).dtime = s.dtime := rfl
@[simp] theorem modGroup_slew (s : State) (u : Nat) (f : Group → Group) : (modGroup s u f).slew = s.slew := rfl
@[simp] theorem modGroup_pkg (s : State) (u : Nat) (f : Group → Group) : (modGroup s u f).pkg = s.pkg := rfl
@[simp] theorem modGroup_pkgs (s : State) (u : Nat) (f : Group → Group) : (modGroup s u f).pkgs = s.pkgs := rfl
@[simp] theorem modGroup_denied (s : State) (u : Nat) (f : Group → Group) : (modGroup s u f).denied = s.denied := rfl
@[simp] theorem modGroup_noRoute (s : State) (u : Nat) (f : Group → Group) : (modGroup s u f).noRoute = s.noRoute := rfl
@[simp] theorem modGroup_hostRoutes (s : State) (u : Nat) (f : Group → Group) : (modGroup s u f).hostRoutes = s.hostRoutes := rfl
@[simp] theorem modGroup_noSwitch (s : State) (u : Nat) (f : Group → Group) : (modGroup s u f).noSwitch = s.noSwitch := rfl
@[simp] theorem modGroup_inHigh (s : State) (u : Nat) (f : Group → Group) : (modGroup s u f).inHigh = s.inHigh := rfl
@[simp] theorem modGroup_mem (s : State) (u : Nat) (f : Group → Group) : (modGroup s u f).mem = s.mem := rfl
@[simp] theorem modGroup_behind (s : State) (u : Nat) (f : Group → Group) : (modGroup s u f).behind = s.behind := rfl
@[simp] theorem modGroup_poison (s : State) (u : Nat) (f : Group → Group) : (modGroup s u f).poison = s.poison := rfl
@[simp] theorem modGroup_mgmt (s : State) (u : Nat) (f : Group → Group) : (modGroup s u f).mgmt = s.mgmt := rfl
@[simp] theorem modGroup_pools (s : State) (u : Nat) (f : Group → Group) : (modGroup s u f).pools = s.pools := rfl
@[simp] theorem modGroup_grids (s : State) (u : Nat) (f : Group → Group) : (modGroup s u f).grids = s.grids := rfl
@[simp] theorem modGroup_gridCtr (s : State) (u : Nat) (f : Group → Group) : (modGroup s u f).gridCtr = s.gridCtr := rfl
@[simp] theorem modGroup_teams (s : State) (u : Nat) (f : Group → Group) : (modGroup s u f).teams = s.teams := rfl
@[simp] theorem modGroup_groups (s : State) (u : Nat) (f : Group → Group) : (modGroup s u f).groups = kmod s.groups u f := rfl
@[simp] theorem modGroup_uidCtr (s : State) (u : Nat) (f : Group → Group) : (modGroup s u f).uidCtr = s.uidCtr := rfl
@[simp] theorem modGroup_spaces (s : State) (u : Nat) (f : Group → Group) : (modGroup s u f).spaces = s.spaces := rfl
@[simp] theorem modGroup_cores (s : State) (u : Nat) (f : Group → Group) : (modGroup s u f).cores = s.cores := rfl
@[simp] theorem modGroup_routeq (s : State) (u : Nat) (f : Group → Group) : (modGroup s u f).routeq = s.routeq := rfl
@[simp] theorem modGroup_opCtr (s : State) (u : Nat) (f : Group → Group) : (modGroup s u f).opCtr = s.opCtr := rfl
@[simp] theorem modGroup_coh (s : State) (u : Nat) (f : Group → Group) : (modGroup s u f).coh = s.coh := rfl
@[simp] theorem modGroup_seqs (s : State) (u : Nat) (f : Group → Group) : (modGroup s u f).seqs = s.seqs := rfl
@[simp] theorem modGroup_colls (s : State) (u : Nat) (f : Group → Group) : (modGroup s u f).colls = s.colls := rfl
@[simp] theorem modGroup_collCtr (s : State) (u : Nat) (f : Group → Group) : (modGroup s u f).collCtr = s.collCtr := rfl
@[simp] theorem modGroup_windows (s : State) (u : Nat) (f : Group → Group) : (modGroup s u f).windows = s.windows := rfl
@[simp] theorem modGroup_notes (s : State) (u : Nat) (f : Group → Group) : (modGroup s u f).notes = s.notes := rfl
@[simp] theorem modGroup_peers (s : State) (u : Nat) (f : Group → Group) : (modGroup s u f).peers = s.peers := rfl
@[simp] theorem modGroup_links (s : State) (u : Nat) (f : Group → Group) : (modGroup s u f).links = s.links := rfl
@[simp] theorem modGroup_protErrs (s : State) (u : Nat) (f : Group → Group) : (modGroup s u f).protErrs = s.protErrs := rfl
@[simp] theorem modGroup_rings (s : State) (u : Nat) (f : Group → Group) : (modGroup s u f).rings = s.rings := rfl
@[simp] theorem modGroup_ctls (s : State) (u : Nat) (f : Group → Group) : (modGroup s u f).ctls = s.ctls := rfl
@[simp] theorem modGroup_islands (s : State) (u : Nat) (f : Group → Group) : (modGroup s u f).islands = s.islands := rfl
@[simp] theorem modGroup_retired (s : State) (u : Nat) (f : Group → Group) : (modGroup s u f).retired = s.retired := rfl
@[simp] theorem modGroup_ec (s : State) (u : Nat) (f : Group → Group) : (modGroup s u f).ec = s.ec := rfl
@[simp] theorem modGroup_badSlots (s : State) (u : Nat) (f : Group → Group) : (modGroup s u f).badSlots = s.badSlots := rfl

/-! ### modTeam -/

@[simp] theorem modTeam_agenda (s : State) (u : Nat) (f : Team → Team) : (modTeam s u f).agenda = s.agenda := rfl
@[simp] theorem modTeam_cur (s : State) (u : Nat) (f : Team → Team) : (modTeam s u f).cur = s.cur := rfl
@[simp] theorem modTeam_curSeq (s : State) (u : Nat) (f : Team → Team) : (modTeam s u f).curSeq = s.curSeq := rfl
@[simp] theorem modTeam_freeCtr (s : State) (u : Nat) (f : Team → Team) : (modTeam s u f).freeCtr = s.freeCtr := rfl
@[simp] theorem modTeam_outbox (s : State) (u : Nat) (f : Team → Team) : (modTeam s u f).outbox = s.outbox := rfl
@[simp] theorem modTeam_issued (s : State) (u : Nat) (f : Team → Team) : (modTeam s u f).issued = s.issued := rfl
@[simp] theorem modTeam_dtime (s : State) (u : Nat) (f : Team → Team) : (modTeam s u f).dtime = s.dtime := rfl
@[simp] theorem modTeam_slew (s : State) (u : Nat) (f : Team → Team) : (modTeam s u f).slew = s.slew := rfl
@[simp] theorem modTeam_pkg (s : State) (u : Nat) (f : Team → Team) : (modTeam s u f).pkg = s.pkg := rfl
@[simp] theorem modTeam_pkgs (s : State) (u : Nat) (f : Team → Team) : (modTeam s u f).pkgs = s.pkgs := rfl
@[simp] theorem modTeam_denied (s : State) (u : Nat) (f : Team → Team) : (modTeam s u f).denied = s.denied := rfl
@[simp] theorem modTeam_noRoute (s : State) (u : Nat) (f : Team → Team) : (modTeam s u f).noRoute = s.noRoute := rfl
@[simp] theorem modTeam_hostRoutes (s : State) (u : Nat) (f : Team → Team) : (modTeam s u f).hostRoutes = s.hostRoutes := rfl
@[simp] theorem modTeam_noSwitch (s : State) (u : Nat) (f : Team → Team) : (modTeam s u f).noSwitch = s.noSwitch := rfl
@[simp] theorem modTeam_inHigh (s : State) (u : Nat) (f : Team → Team) : (modTeam s u f).inHigh = s.inHigh := rfl
@[simp] theorem modTeam_mem (s : State) (u : Nat) (f : Team → Team) : (modTeam s u f).mem = s.mem := rfl
@[simp] theorem modTeam_behind (s : State) (u : Nat) (f : Team → Team) : (modTeam s u f).behind = s.behind := rfl
@[simp] theorem modTeam_poison (s : State) (u : Nat) (f : Team → Team) : (modTeam s u f).poison = s.poison := rfl
@[simp] theorem modTeam_mgmt (s : State) (u : Nat) (f : Team → Team) : (modTeam s u f).mgmt = s.mgmt := rfl
@[simp] theorem modTeam_pools (s : State) (u : Nat) (f : Team → Team) : (modTeam s u f).pools = s.pools := rfl
@[simp] theorem modTeam_grids (s : State) (u : Nat) (f : Team → Team) : (modTeam s u f).grids = s.grids := rfl
@[simp] theorem modTeam_gridCtr (s : State) (u : Nat) (f : Team → Team) : (modTeam s u f).gridCtr = s.gridCtr := rfl
@[simp] theorem modTeam_teams (s : State) (u : Nat) (f : Team → Team) : (modTeam s u f).teams = kmod s.teams u f := rfl
@[simp] theorem modTeam_groups (s : State) (u : Nat) (f : Team → Team) : (modTeam s u f).groups = s.groups := rfl
@[simp] theorem modTeam_uidCtr (s : State) (u : Nat) (f : Team → Team) : (modTeam s u f).uidCtr = s.uidCtr := rfl
@[simp] theorem modTeam_spaces (s : State) (u : Nat) (f : Team → Team) : (modTeam s u f).spaces = s.spaces := rfl
@[simp] theorem modTeam_cores (s : State) (u : Nat) (f : Team → Team) : (modTeam s u f).cores = s.cores := rfl
@[simp] theorem modTeam_routeq (s : State) (u : Nat) (f : Team → Team) : (modTeam s u f).routeq = s.routeq := rfl
@[simp] theorem modTeam_opCtr (s : State) (u : Nat) (f : Team → Team) : (modTeam s u f).opCtr = s.opCtr := rfl
@[simp] theorem modTeam_coh (s : State) (u : Nat) (f : Team → Team) : (modTeam s u f).coh = s.coh := rfl
@[simp] theorem modTeam_seqs (s : State) (u : Nat) (f : Team → Team) : (modTeam s u f).seqs = s.seqs := rfl
@[simp] theorem modTeam_colls (s : State) (u : Nat) (f : Team → Team) : (modTeam s u f).colls = s.colls := rfl
@[simp] theorem modTeam_collCtr (s : State) (u : Nat) (f : Team → Team) : (modTeam s u f).collCtr = s.collCtr := rfl
@[simp] theorem modTeam_windows (s : State) (u : Nat) (f : Team → Team) : (modTeam s u f).windows = s.windows := rfl
@[simp] theorem modTeam_notes (s : State) (u : Nat) (f : Team → Team) : (modTeam s u f).notes = s.notes := rfl
@[simp] theorem modTeam_peers (s : State) (u : Nat) (f : Team → Team) : (modTeam s u f).peers = s.peers := rfl
@[simp] theorem modTeam_links (s : State) (u : Nat) (f : Team → Team) : (modTeam s u f).links = s.links := rfl
@[simp] theorem modTeam_protErrs (s : State) (u : Nat) (f : Team → Team) : (modTeam s u f).protErrs = s.protErrs := rfl
@[simp] theorem modTeam_rings (s : State) (u : Nat) (f : Team → Team) : (modTeam s u f).rings = s.rings := rfl
@[simp] theorem modTeam_ctls (s : State) (u : Nat) (f : Team → Team) : (modTeam s u f).ctls = s.ctls := rfl
@[simp] theorem modTeam_islands (s : State) (u : Nat) (f : Team → Team) : (modTeam s u f).islands = s.islands := rfl
@[simp] theorem modTeam_retired (s : State) (u : Nat) (f : Team → Team) : (modTeam s u f).retired = s.retired := rfl
@[simp] theorem modTeam_ec (s : State) (u : Nat) (f : Team → Team) : (modTeam s u f).ec = s.ec := rfl
@[simp] theorem modTeam_badSlots (s : State) (u : Nat) (f : Team → Team) : (modTeam s u f).badSlots = s.badSlots := rfl

/-! ### modGrid -/

@[simp] theorem modGrid_agenda (s : State) (h : Nat) (f : Grid → Grid) : (modGrid s h f).agenda = s.agenda := rfl
@[simp] theorem modGrid_cur (s : State) (h : Nat) (f : Grid → Grid) : (modGrid s h f).cur = s.cur := rfl
@[simp] theorem modGrid_curSeq (s : State) (h : Nat) (f : Grid → Grid) : (modGrid s h f).curSeq = s.curSeq := rfl
@[simp] theorem modGrid_freeCtr (s : State) (h : Nat) (f : Grid → Grid) : (modGrid s h f).freeCtr = s.freeCtr := rfl
@[simp] theorem modGrid_outbox (s : State) (h : Nat) (f : Grid → Grid) : (modGrid s h f).outbox = s.outbox := rfl
@[simp] theorem modGrid_issued (s : State) (h : Nat) (f : Grid → Grid) : (modGrid s h f).issued = s.issued := rfl
@[simp] theorem modGrid_dtime (s : State) (h : Nat) (f : Grid → Grid) : (modGrid s h f).dtime = s.dtime := rfl
@[simp] theorem modGrid_slew (s : State) (h : Nat) (f : Grid → Grid) : (modGrid s h f).slew = s.slew := rfl
@[simp] theorem modGrid_pkg (s : State) (h : Nat) (f : Grid → Grid) : (modGrid s h f).pkg = s.pkg := rfl
@[simp] theorem modGrid_pkgs (s : State) (h : Nat) (f : Grid → Grid) : (modGrid s h f).pkgs = s.pkgs := rfl
@[simp] theorem modGrid_denied (s : State) (h : Nat) (f : Grid → Grid) : (modGrid s h f).denied = s.denied := rfl
@[simp] theorem modGrid_noRoute (s : State) (h : Nat) (f : Grid → Grid) : (modGrid s h f).noRoute = s.noRoute := rfl
@[simp] theorem modGrid_hostRoutes (s : State) (h : Nat) (f : Grid → Grid) : (modGrid s h f).hostRoutes = s.hostRoutes := rfl
@[simp] theorem modGrid_noSwitch (s : State) (h : Nat) (f : Grid → Grid) : (modGrid s h f).noSwitch = s.noSwitch := rfl
@[simp] theorem modGrid_inHigh (s : State) (h : Nat) (f : Grid → Grid) : (modGrid s h f).inHigh = s.inHigh := rfl
@[simp] theorem modGrid_mem (s : State) (h : Nat) (f : Grid → Grid) : (modGrid s h f).mem = s.mem := rfl
@[simp] theorem modGrid_behind (s : State) (h : Nat) (f : Grid → Grid) : (modGrid s h f).behind = s.behind := rfl
@[simp] theorem modGrid_poison (s : State) (h : Nat) (f : Grid → Grid) : (modGrid s h f).poison = s.poison := rfl
@[simp] theorem modGrid_mgmt (s : State) (h : Nat) (f : Grid → Grid) : (modGrid s h f).mgmt = s.mgmt := rfl
@[simp] theorem modGrid_pools (s : State) (h : Nat) (f : Grid → Grid) : (modGrid s h f).pools = s.pools := rfl
@[simp] theorem modGrid_grids (s : State) (h : Nat) (f : Grid → Grid) : (modGrid s h f).grids = kmod s.grids h f := rfl
@[simp] theorem modGrid_gridCtr (s : State) (h : Nat) (f : Grid → Grid) : (modGrid s h f).gridCtr = s.gridCtr := rfl
@[simp] theorem modGrid_teams (s : State) (h : Nat) (f : Grid → Grid) : (modGrid s h f).teams = s.teams := rfl
@[simp] theorem modGrid_groups (s : State) (h : Nat) (f : Grid → Grid) : (modGrid s h f).groups = s.groups := rfl
@[simp] theorem modGrid_uidCtr (s : State) (h : Nat) (f : Grid → Grid) : (modGrid s h f).uidCtr = s.uidCtr := rfl
@[simp] theorem modGrid_spaces (s : State) (h : Nat) (f : Grid → Grid) : (modGrid s h f).spaces = s.spaces := rfl
@[simp] theorem modGrid_cores (s : State) (h : Nat) (f : Grid → Grid) : (modGrid s h f).cores = s.cores := rfl
@[simp] theorem modGrid_routeq (s : State) (h : Nat) (f : Grid → Grid) : (modGrid s h f).routeq = s.routeq := rfl
@[simp] theorem modGrid_opCtr (s : State) (h : Nat) (f : Grid → Grid) : (modGrid s h f).opCtr = s.opCtr := rfl
@[simp] theorem modGrid_coh (s : State) (h : Nat) (f : Grid → Grid) : (modGrid s h f).coh = s.coh := rfl
@[simp] theorem modGrid_seqs (s : State) (h : Nat) (f : Grid → Grid) : (modGrid s h f).seqs = s.seqs := rfl
@[simp] theorem modGrid_colls (s : State) (h : Nat) (f : Grid → Grid) : (modGrid s h f).colls = s.colls := rfl
@[simp] theorem modGrid_collCtr (s : State) (h : Nat) (f : Grid → Grid) : (modGrid s h f).collCtr = s.collCtr := rfl
@[simp] theorem modGrid_windows (s : State) (h : Nat) (f : Grid → Grid) : (modGrid s h f).windows = s.windows := rfl
@[simp] theorem modGrid_notes (s : State) (h : Nat) (f : Grid → Grid) : (modGrid s h f).notes = s.notes := rfl
@[simp] theorem modGrid_peers (s : State) (h : Nat) (f : Grid → Grid) : (modGrid s h f).peers = s.peers := rfl
@[simp] theorem modGrid_links (s : State) (h : Nat) (f : Grid → Grid) : (modGrid s h f).links = s.links := rfl
@[simp] theorem modGrid_protErrs (s : State) (h : Nat) (f : Grid → Grid) : (modGrid s h f).protErrs = s.protErrs := rfl
@[simp] theorem modGrid_rings (s : State) (h : Nat) (f : Grid → Grid) : (modGrid s h f).rings = s.rings := rfl
@[simp] theorem modGrid_ctls (s : State) (h : Nat) (f : Grid → Grid) : (modGrid s h f).ctls = s.ctls := rfl
@[simp] theorem modGrid_islands (s : State) (h : Nat) (f : Grid → Grid) : (modGrid s h f).islands = s.islands := rfl
@[simp] theorem modGrid_retired (s : State) (h : Nat) (f : Grid → Grid) : (modGrid s h f).retired = s.retired := rfl
@[simp] theorem modGrid_ec (s : State) (h : Nat) (f : Grid → Grid) : (modGrid s h f).ec = s.ec := rfl
@[simp] theorem modGrid_badSlots (s : State) (h : Nat) (f : Grid → Grid) : (modGrid s h f).badSlots = s.badSlots := rfl

/-! ### setCore -/

@[simp] theorem setCore_agenda (s : State) (c : Nat) (k : Core) : (setCore s c k).agenda = s.agenda := rfl
@[simp] theorem setCore_cur (s : State) (c : Nat) (k : Core) : (setCore s c k).cur = s.cur := rfl
@[simp] theorem setCore_curSeq (s : State) (c : Nat) (k : Core) : (setCore s c k).curSeq = s.curSeq := rfl
@[simp] theorem setCore_freeCtr (s : State) (c : Nat) (k : Core) : (setCore s c k).freeCtr = s.freeCtr := rfl
@[simp] theorem setCore_outbox (s : State) (c : Nat) (k : Core) : (setCore s c k).outbox = s.outbox := rfl
@[simp] theorem setCore_issued (s : State) (c : Nat) (k : Core) : (setCore s c k).issued = s.issued := rfl
@[simp] theorem setCore_dtime (s : State) (c : Nat) (k : Core) : (setCore s c k).dtime = s.dtime := rfl
@[simp] theorem setCore_slew (s : State) (c : Nat) (k : Core) : (setCore s c k).slew = s.slew := rfl
@[simp] theorem setCore_pkg (s : State) (c : Nat) (k : Core) : (setCore s c k).pkg = s.pkg := rfl
@[simp] theorem setCore_pkgs (s : State) (c : Nat) (k : Core) : (setCore s c k).pkgs = s.pkgs := rfl
@[simp] theorem setCore_denied (s : State) (c : Nat) (k : Core) : (setCore s c k).denied = s.denied := rfl
@[simp] theorem setCore_noRoute (s : State) (c : Nat) (k : Core) : (setCore s c k).noRoute = s.noRoute := rfl
@[simp] theorem setCore_hostRoutes (s : State) (c : Nat) (k : Core) : (setCore s c k).hostRoutes = s.hostRoutes := rfl
@[simp] theorem setCore_noSwitch (s : State) (c : Nat) (k : Core) : (setCore s c k).noSwitch = s.noSwitch := rfl
@[simp] theorem setCore_inHigh (s : State) (c : Nat) (k : Core) : (setCore s c k).inHigh = s.inHigh := rfl
@[simp] theorem setCore_mem (s : State) (c : Nat) (k : Core) : (setCore s c k).mem = s.mem := rfl
@[simp] theorem setCore_behind (s : State) (c : Nat) (k : Core) : (setCore s c k).behind = s.behind := rfl
@[simp] theorem setCore_poison (s : State) (c : Nat) (k : Core) : (setCore s c k).poison = s.poison := rfl
@[simp] theorem setCore_mgmt (s : State) (c : Nat) (k : Core) : (setCore s c k).mgmt = s.mgmt := rfl
@[simp] theorem setCore_pools (s : State) (c : Nat) (k : Core) : (setCore s c k).pools = s.pools := rfl
@[simp] theorem setCore_grids (s : State) (c : Nat) (k : Core) : (setCore s c k).grids = s.grids := rfl
@[simp] theorem setCore_gridCtr (s : State) (c : Nat) (k : Core) : (setCore s c k).gridCtr = s.gridCtr := rfl
@[simp] theorem setCore_teams (s : State) (c : Nat) (k : Core) : (setCore s c k).teams = s.teams := rfl
@[simp] theorem setCore_groups (s : State) (c : Nat) (k : Core) : (setCore s c k).groups = s.groups := rfl
@[simp] theorem setCore_uidCtr (s : State) (c : Nat) (k : Core) : (setCore s c k).uidCtr = s.uidCtr := rfl
@[simp] theorem setCore_spaces (s : State) (c : Nat) (k : Core) : (setCore s c k).spaces = s.spaces := rfl
@[simp] theorem setCore_cores (s : State) (c : Nat) (k : Core) : (setCore s c k).cores = kset s.cores c k := rfl
@[simp] theorem setCore_routeq (s : State) (c : Nat) (k : Core) : (setCore s c k).routeq = s.routeq := rfl
@[simp] theorem setCore_opCtr (s : State) (c : Nat) (k : Core) : (setCore s c k).opCtr = s.opCtr := rfl
@[simp] theorem setCore_coh (s : State) (c : Nat) (k : Core) : (setCore s c k).coh = s.coh := rfl
@[simp] theorem setCore_seqs (s : State) (c : Nat) (k : Core) : (setCore s c k).seqs = s.seqs := rfl
@[simp] theorem setCore_colls (s : State) (c : Nat) (k : Core) : (setCore s c k).colls = s.colls := rfl
@[simp] theorem setCore_collCtr (s : State) (c : Nat) (k : Core) : (setCore s c k).collCtr = s.collCtr := rfl
@[simp] theorem setCore_windows (s : State) (c : Nat) (k : Core) : (setCore s c k).windows = s.windows := rfl
@[simp] theorem setCore_notes (s : State) (c : Nat) (k : Core) : (setCore s c k).notes = s.notes := rfl
@[simp] theorem setCore_peers (s : State) (c : Nat) (k : Core) : (setCore s c k).peers = s.peers := rfl
@[simp] theorem setCore_links (s : State) (c : Nat) (k : Core) : (setCore s c k).links = s.links := rfl
@[simp] theorem setCore_protErrs (s : State) (c : Nat) (k : Core) : (setCore s c k).protErrs = s.protErrs := rfl
@[simp] theorem setCore_rings (s : State) (c : Nat) (k : Core) : (setCore s c k).rings = s.rings := rfl
@[simp] theorem setCore_ctls (s : State) (c : Nat) (k : Core) : (setCore s c k).ctls = s.ctls := rfl
@[simp] theorem setCore_islands (s : State) (c : Nat) (k : Core) : (setCore s c k).islands = s.islands := rfl
@[simp] theorem setCore_retired (s : State) (c : Nat) (k : Core) : (setCore s c k).retired = s.retired := rfl
@[simp] theorem setCore_ec (s : State) (c : Nat) (k : Core) : (setCore s c k).ec = s.ec := rfl
@[simp] theorem setCore_badSlots (s : State) (c : Nat) (k : Core) : (setCore s c k).badSlots = s.badSlots := rfl

/-! ### modCore -/

@[simp] theorem modCore_agenda (s : State) (c : Nat) (f : Core → Core) : (modCore s c f).agenda = s.agenda := rfl
@[simp] theorem modCore_cur (s : State) (c : Nat) (f : Core → Core) : (modCore s c f).cur = s.cur := rfl
@[simp] theorem modCore_curSeq (s : State) (c : Nat) (f : Core → Core) : (modCore s c f).curSeq = s.curSeq := rfl
@[simp] theorem modCore_freeCtr (s : State) (c : Nat) (f : Core → Core) : (modCore s c f).freeCtr = s.freeCtr := rfl
@[simp] theorem modCore_outbox (s : State) (c : Nat) (f : Core → Core) : (modCore s c f).outbox = s.outbox := rfl
@[simp] theorem modCore_issued (s : State) (c : Nat) (f : Core → Core) : (modCore s c f).issued = s.issued := rfl
@[simp] theorem modCore_dtime (s : State) (c : Nat) (f : Core → Core) : (modCore s c f).dtime = s.dtime := rfl
@[simp] theorem modCore_slew (s : State) (c : Nat) (f : Core → Core) : (modCore s c f).slew = s.slew := rfl
@[simp] theorem modCore_pkg (s : State) (c : Nat) (f : Core → Core) : (modCore s c f).pkg = s.pkg := rfl
@[simp] theorem modCore_pkgs (s : State) (c : Nat) (f : Core → Core) : (modCore s c f).pkgs = s.pkgs := rfl
@[simp] theorem modCore_denied (s : State) (c : Nat) (f : Core → Core) : (modCore s c f).denied = s.denied := rfl
@[simp] theorem modCore_noRoute (s : State) (c : Nat) (f : Core → Core) : (modCore s c f).noRoute = s.noRoute := rfl
@[simp] theorem modCore_hostRoutes (s : State) (c : Nat) (f : Core → Core) : (modCore s c f).hostRoutes = s.hostRoutes := rfl
@[simp] theorem modCore_noSwitch (s : State) (c : Nat) (f : Core → Core) : (modCore s c f).noSwitch = s.noSwitch := rfl
@[simp] theorem modCore_inHigh (s : State) (c : Nat) (f : Core → Core) : (modCore s c f).inHigh = s.inHigh := rfl
@[simp] theorem modCore_mem (s : State) (c : Nat) (f : Core → Core) : (modCore s c f).mem = s.mem := rfl
@[simp] theorem modCore_behind (s : State) (c : Nat) (f : Core → Core) : (modCore s c f).behind = s.behind := rfl
@[simp] theorem modCore_poison (s : State) (c : Nat) (f : Core → Core) : (modCore s c f).poison = s.poison := rfl
@[simp] theorem modCore_mgmt (s : State) (c : Nat) (f : Core → Core) : (modCore s c f).mgmt = s.mgmt := rfl
@[simp] theorem modCore_pools (s : State) (c : Nat) (f : Core → Core) : (modCore s c f).pools = s.pools := rfl
@[simp] theorem modCore_grids (s : State) (c : Nat) (f : Core → Core) : (modCore s c f).grids = s.grids := rfl
@[simp] theorem modCore_gridCtr (s : State) (c : Nat) (f : Core → Core) : (modCore s c f).gridCtr = s.gridCtr := rfl
@[simp] theorem modCore_teams (s : State) (c : Nat) (f : Core → Core) : (modCore s c f).teams = s.teams := rfl
@[simp] theorem modCore_groups (s : State) (c : Nat) (f : Core → Core) : (modCore s c f).groups = s.groups := rfl
@[simp] theorem modCore_uidCtr (s : State) (c : Nat) (f : Core → Core) : (modCore s c f).uidCtr = s.uidCtr := rfl
@[simp] theorem modCore_spaces (s : State) (c : Nat) (f : Core → Core) : (modCore s c f).spaces = s.spaces := rfl
@[simp] theorem modCore_cores (s : State) (c : Nat) (f : Core → Core) : (modCore s c f).cores = kset s.cores c (f (coreAt s c)) := rfl
@[simp] theorem modCore_routeq (s : State) (c : Nat) (f : Core → Core) : (modCore s c f).routeq = s.routeq := rfl
@[simp] theorem modCore_opCtr (s : State) (c : Nat) (f : Core → Core) : (modCore s c f).opCtr = s.opCtr := rfl
@[simp] theorem modCore_coh (s : State) (c : Nat) (f : Core → Core) : (modCore s c f).coh = s.coh := rfl
@[simp] theorem modCore_seqs (s : State) (c : Nat) (f : Core → Core) : (modCore s c f).seqs = s.seqs := rfl
@[simp] theorem modCore_colls (s : State) (c : Nat) (f : Core → Core) : (modCore s c f).colls = s.colls := rfl
@[simp] theorem modCore_collCtr (s : State) (c : Nat) (f : Core → Core) : (modCore s c f).collCtr = s.collCtr := rfl
@[simp] theorem modCore_windows (s : State) (c : Nat) (f : Core → Core) : (modCore s c f).windows = s.windows := rfl
@[simp] theorem modCore_notes (s : State) (c : Nat) (f : Core → Core) : (modCore s c f).notes = s.notes := rfl
@[simp] theorem modCore_peers (s : State) (c : Nat) (f : Core → Core) : (modCore s c f).peers = s.peers := rfl
@[simp] theorem modCore_links (s : State) (c : Nat) (f : Core → Core) : (modCore s c f).links = s.links := rfl
@[simp] theorem modCore_protErrs (s : State) (c : Nat) (f : Core → Core) : (modCore s c f).protErrs = s.protErrs := rfl
@[simp] theorem modCore_rings (s : State) (c : Nat) (f : Core → Core) : (modCore s c f).rings = s.rings := rfl
@[simp] theorem modCore_ctls (s : State) (c : Nat) (f : Core → Core) : (modCore s c f).ctls = s.ctls := rfl
@[simp] theorem modCore_islands (s : State) (c : Nat) (f : Core → Core) : (modCore s c f).islands = s.islands := rfl
@[simp] theorem modCore_retired (s : State) (c : Nat) (f : Core → Core) : (modCore s c f).retired = s.retired := rfl
@[simp] theorem modCore_ec (s : State) (c : Nat) (f : Core → Core) : (modCore s c f).ec = s.ec := rfl
@[simp] theorem modCore_badSlots (s : State) (c : Nat) (f : Core → Core) : (modCore s c f).badSlots = s.badSlots := rfl

/-! ### put -/

@[simp] theorem put_agenda (s : State) (x : Ctx) (g : Group) : (x.put s g).agenda = s.agenda := rfl
@[simp] theorem put_cur (s : State) (x : Ctx) (g : Group) : (x.put s g).cur = s.cur := rfl
@[simp] theorem put_curSeq (s : State) (x : Ctx) (g : Group) : (x.put s g).curSeq = s.curSeq := rfl
@[simp] theorem put_freeCtr (s : State) (x : Ctx) (g : Group) : (x.put s g).freeCtr = s.freeCtr := rfl
@[simp] theorem put_outbox (s : State) (x : Ctx) (g : Group) : (x.put s g).outbox = s.outbox := rfl
@[simp] theorem put_issued (s : State) (x : Ctx) (g : Group) : (x.put s g).issued = s.issued := rfl
@[simp] theorem put_dtime (s : State) (x : Ctx) (g : Group) : (x.put s g).dtime = s.dtime := rfl
@[simp] theorem put_slew (s : State) (x : Ctx) (g : Group) : (x.put s g).slew = s.slew := rfl
@[simp] theorem put_pkg (s : State) (x : Ctx) (g : Group) : (x.put s g).pkg = s.pkg := rfl
@[simp] theorem put_pkgs (s : State) (x : Ctx) (g : Group) : (x.put s g).pkgs = s.pkgs := rfl
@[simp] theorem put_denied (s : State) (x : Ctx) (g : Group) : (x.put s g).denied = s.denied := rfl
@[simp] theorem put_noRoute (s : State) (x : Ctx) (g : Group) : (x.put s g).noRoute = s.noRoute := rfl
@[simp] theorem put_hostRoutes (s : State) (x : Ctx) (g : Group) : (x.put s g).hostRoutes = s.hostRoutes := rfl
@[simp] theorem put_noSwitch (s : State) (x : Ctx) (g : Group) : (x.put s g).noSwitch = s.noSwitch := rfl
@[simp] theorem put_inHigh (s : State) (x : Ctx) (g : Group) : (x.put s g).inHigh = s.inHigh := rfl
@[simp] theorem put_mem (s : State) (x : Ctx) (g : Group) : (x.put s g).mem = s.mem := rfl
@[simp] theorem put_behind (s : State) (x : Ctx) (g : Group) : (x.put s g).behind = s.behind := rfl
@[simp] theorem put_poison (s : State) (x : Ctx) (g : Group) : (x.put s g).poison = s.poison := rfl
@[simp] theorem put_mgmt (s : State) (x : Ctx) (g : Group) : (x.put s g).mgmt = s.mgmt := rfl
@[simp] theorem put_pools (s : State) (x : Ctx) (g : Group) : (x.put s g).pools = s.pools := rfl
@[simp] theorem put_grids (s : State) (x : Ctx) (g : Group) : (x.put s g).grids = s.grids := rfl
@[simp] theorem put_gridCtr (s : State) (x : Ctx) (g : Group) : (x.put s g).gridCtr = s.gridCtr := rfl
@[simp] theorem put_teams (s : State) (x : Ctx) (g : Group) : (x.put s g).teams = s.teams := rfl
@[simp] theorem put_groups (s : State) (x : Ctx) (g : Group) : (x.put s g).groups = kset s.groups x.uid g := rfl
@[simp] theorem put_uidCtr (s : State) (x : Ctx) (g : Group) : (x.put s g).uidCtr = s.uidCtr := rfl
@[simp] theorem put_spaces (s : State) (x : Ctx) (g : Group) : (x.put s g).spaces = s.spaces := rfl
@[simp] theorem put_cores (s : State) (x : Ctx) (g : Group) : (x.put s g).cores = s.cores := rfl
@[simp] theorem put_routeq (s : State) (x : Ctx) (g : Group) : (x.put s g).routeq = s.routeq := rfl
@[simp] theorem put_opCtr (s : State) (x : Ctx) (g : Group) : (x.put s g).opCtr = s.opCtr := rfl
@[simp] theorem put_coh (s : State) (x : Ctx) (g : Group) : (x.put s g).coh = s.coh := rfl
@[simp] theorem put_seqs (s : State) (x : Ctx) (g : Group) : (x.put s g).seqs = s.seqs := rfl
@[simp] theorem put_colls (s : State) (x : Ctx) (g : Group) : (x.put s g).colls = s.colls := rfl
@[simp] theorem put_collCtr (s : State) (x : Ctx) (g : Group) : (x.put s g).collCtr = s.collCtr := rfl
@[simp] theorem put_windows (s : State) (x : Ctx) (g : Group) : (x.put s g).windows = s.windows := rfl
@[simp] theorem put_notes (s : State) (x : Ctx) (g : Group) : (x.put s g).notes = s.notes := rfl
@[simp] theorem put_peers (s : State) (x : Ctx) (g : Group) : (x.put s g).peers = s.peers := rfl
@[simp] theorem put_links (s : State) (x : Ctx) (g : Group) : (x.put s g).links = s.links := rfl
@[simp] theorem put_protErrs (s : State) (x : Ctx) (g : Group) : (x.put s g).protErrs = s.protErrs := rfl
@[simp] theorem put_rings (s : State) (x : Ctx) (g : Group) : (x.put s g).rings = s.rings := rfl
@[simp] theorem put_ctls (s : State) (x : Ctx) (g : Group) : (x.put s g).ctls = s.ctls := rfl
@[simp] theorem put_islands (s : State) (x : Ctx) (g : Group) : (x.put s g).islands = s.islands := rfl
@[simp] theorem put_retired (s : State) (x : Ctx) (g : Group) : (x.put s g).retired = s.retired := rfl
@[simp] theorem put_ec (s : State) (x : Ctx) (g : Group) : (x.put s g).ec = s.ec := rfl
@[simp] theorem put_badSlots (s : State) (x : Ctx) (g : Group) : (x.put s g).badSlots = s.badSlots := rfl

/-! ### tellHost -/

@[simp] theorem tellHost_agenda (s : State) (kind : String) (l : List Nat) : (tellHost s kind l).agenda = s.agenda := rfl
@[simp] theorem tellHost_cur (s : State) (kind : String) (l : List Nat) : (tellHost s kind l).cur = s.cur := rfl
@[simp] theorem tellHost_curSeq (s : State) (kind : String) (l : List Nat) : (tellHost s kind l).curSeq = s.curSeq := rfl
@[simp] theorem tellHost_freeCtr (s : State) (kind : String) (l : List Nat) : (tellHost s kind l).freeCtr = s.freeCtr := rfl
@[simp] theorem tellHost_outbox (s : State) (kind : String) (l : List Nat) : (tellHost s kind l).outbox = .hostReport kind l :: s.outbox := rfl
@[simp] theorem tellHost_issued (s : State) (kind : String) (l : List Nat) : (tellHost s kind l).issued = s.issued := rfl
@[simp] theorem tellHost_dtime (s : State) (kind : String) (l : List Nat) : (tellHost s kind l).dtime = s.dtime := rfl
@[simp] theorem tellHost_slew (s : State) (kind : String) (l : List Nat) : (tellHost s kind l).slew = s.slew := rfl
@[simp] theorem tellHost_pkg (s : State) (kind : String) (l : List Nat) : (tellHost s kind l).pkg = s.pkg := rfl
@[simp] theorem tellHost_pkgs (s : State) (kind : String) (l : List Nat) : (tellHost s kind l).pkgs = s.pkgs := rfl
@[simp] theorem tellHost_denied (s : State) (kind : String) (l : List Nat) : (tellHost s kind l).denied = s.denied := rfl
@[simp] theorem tellHost_noRoute (s : State) (kind : String) (l : List Nat) : (tellHost s kind l).noRoute = s.noRoute := rfl
@[simp] theorem tellHost_hostRoutes (s : State) (kind : String) (l : List Nat) : (tellHost s kind l).hostRoutes = s.hostRoutes := rfl
@[simp] theorem tellHost_noSwitch (s : State) (kind : String) (l : List Nat) : (tellHost s kind l).noSwitch = s.noSwitch := rfl
@[simp] theorem tellHost_inHigh (s : State) (kind : String) (l : List Nat) : (tellHost s kind l).inHigh = s.inHigh := rfl
@[simp] theorem tellHost_mem (s : State) (kind : String) (l : List Nat) : (tellHost s kind l).mem = s.mem := rfl
@[simp] theorem tellHost_behind (s : State) (kind : String) (l : List Nat) : (tellHost s kind l).behind = s.behind := rfl
@[simp] theorem tellHost_poison (s : State) (kind : String) (l : List Nat) : (tellHost s kind l).poison = s.poison := rfl
@[simp] theorem tellHost_mgmt (s : State) (kind : String) (l : List Nat) : (tellHost s kind l).mgmt = s.mgmt := rfl
@[simp] theorem tellHost_pools (s : State) (kind : String) (l : List Nat) : (tellHost s kind l).pools = s.pools := rfl
@[simp] theorem tellHost_grids (s : State) (kind : String) (l : List Nat) : (tellHost s kind l).grids = s.grids := rfl
@[simp] theorem tellHost_gridCtr (s : State) (kind : String) (l : List Nat) : (tellHost s kind l).gridCtr = s.gridCtr := rfl
@[simp] theorem tellHost_teams (s : State) (kind : String) (l : List Nat) : (tellHost s kind l).teams = s.teams := rfl
@[simp] theorem tellHost_groups (s : State) (kind : String) (l : List Nat) : (tellHost s kind l).groups = s.groups := rfl
@[simp] theorem tellHost_uidCtr (s : State) (kind : String) (l : List Nat) : (tellHost s kind l).uidCtr = s.uidCtr := rfl
@[simp] theorem tellHost_spaces (s : State) (kind : String) (l : List Nat) : (tellHost s kind l).spaces = s.spaces := rfl
@[simp] theorem tellHost_cores (s : State) (kind : String) (l : List Nat) : (tellHost s kind l).cores = s.cores := rfl
@[simp] theorem tellHost_routeq (s : State) (kind : String) (l : List Nat) : (tellHost s kind l).routeq = s.routeq := rfl
@[simp] theorem tellHost_opCtr (s : State) (kind : String) (l : List Nat) : (tellHost s kind l).opCtr = s.opCtr := rfl
@[simp] theorem tellHost_coh (s : State) (kind : String) (l : List Nat) : (tellHost s kind l).coh = s.coh := rfl
@[simp] theorem tellHost_seqs (s : State) (kind : String) (l : List Nat) : (tellHost s kind l).seqs = s.seqs := rfl
@[simp] theorem tellHost_colls (s : State) (kind : String) (l : List Nat) : (tellHost s kind l).colls = s.colls := rfl
@[simp] theorem tellHost_collCtr (s : State) (kind : String) (l : List Nat) : (tellHost s kind l).collCtr = s.collCtr := rfl
@[simp] theorem tellHost_windows (s : State) (kind : String) (l : List Nat) : (tellHost s kind l).windows = s.windows := rfl
@[simp] theorem tellHost_notes (s : State) (kind : String) (l : List Nat) : (tellHost s kind l).notes = s.notes := rfl
@[simp] theorem tellHost_peers (s : State) (kind : String) (l : List Nat) : (tellHost s kind l).peers = s.peers := rfl
@[simp] theorem tellHost_links (s : State) (kind : String) (l : List Nat) : (tellHost s kind l).links = s.links := rfl
@[simp] theorem tellHost_protErrs (s : State) (kind : String) (l : List Nat) : (tellHost s kind l).protErrs = s.protErrs := rfl
@[simp] theorem tellHost_rings (s : State) (kind : String) (l : List Nat) : (tellHost s kind l).rings = s.rings := rfl
@[simp] theorem tellHost_ctls (s : State) (kind : String) (l : List Nat) : (tellHost s kind l).ctls = s.ctls := rfl
@[simp] theorem tellHost_islands (s : State) (kind : String) (l : List Nat) : (tellHost s kind l).islands = s.islands := rfl
@[simp] theorem tellHost_retired (s : State) (kind : String) (l : List Nat) : (tellHost s kind l).retired = s.retired := rfl
@[simp] theorem tellHost_ec (s : State) (kind : String) (l : List Nat) : (tellHost s kind l).ec = s.ec := rfl
@[simp] theorem tellHost_badSlots (s : State) (kind : String) (l : List Nat) : (tellHost s kind l).badSlots = s.badSlots := rfl

/-! ### emit -/

@[simp] theorem emit_agenda (s : State) (m : OutMsg) : (emit s m).agenda = s.agenda := rfl
@[simp] theorem emit_cur (s : State) (m : OutMsg) : (emit s m).cur = s.cur := rfl
@[simp] theorem emit_curSeq (s : State) (m : OutMsg) : (emit s m).curSeq = s.curSeq := rfl
@[simp] theorem emit_freeCtr (s : State) (m : OutMsg) : (emit s m).freeCtr = s.freeCtr := rfl
@[simp] theorem emit_outbox (s : State) (m : OutMsg) : (emit s m).outbox = m :: s.outbox := rfl
@[simp] theorem emit_issued (s : State) (m : OutMsg) : (emit s m).issued =
    if m.leaves s.pkg then { msg := m, time := s.dtime, link := none } :: s.issued else s.issued := rfl
@[simp] theorem emit_dtime (s : State) (m : OutMsg) : (emit s m).dtime = s.dtime := rfl
@[simp] theorem emit_slew (s : State) (m : OutMsg) : (emit s m).slew = s.slew := rfl
@[simp] theorem emit_pkg (s : State) (m : OutMsg) : (emit s m).pkg = s.pkg := rfl
@[simp] theorem emit_pkgs (s : State) (m : OutMsg) : (emit s m).pkgs = s.pkgs := rfl
@[simp] theorem emit_denied (s : State) (m : OutMsg) : (emit s m).denied = s.denied := rfl
@[simp] theorem emit_noRoute (s : State) (m : OutMsg) : (emit s m).noRoute = s.noRoute := rfl
@[simp] theorem emit_hostRoutes (s : State) (m : OutMsg) : (emit s m).hostRoutes = s.hostRoutes := rfl
@[simp] theorem emit_noSwitch (s : State) (m : OutMsg) : (emit s m).noSwitch = s.noSwitch := rfl
@[simp] theorem emit_inHigh (s : State) (m : OutMsg) : (emit s m).inHigh = s.inHigh := rfl
@[simp] theorem emit_mem (s : State) (m : OutMsg) : (emit s m).mem = s.mem := rfl
@[simp] theorem emit_behind (s : State) (m : OutMsg) : (emit s m).behind = s.behind := rfl
@[simp] theorem emit_poison (s : State) (m : OutMsg) : (emit s m).poison = s.poison := rfl
@[simp] theorem emit_mgmt (s : State) (m : OutMsg) : (emit s m).mgmt = s.mgmt := rfl
@[simp] theorem emit_pools (s : State) (m : OutMsg) : (emit s m).pools = s.pools := rfl
@[simp] theorem emit_grids (s : State) (m : OutMsg) : (emit s m).grids = s.grids := rfl
@[simp] theorem emit_gridCtr (s : State) (m : OutMsg) : (emit s m).gridCtr = s.gridCtr := rfl
@[simp] theorem emit_teams (s : State) (m : OutMsg) : (emit s m).teams = s.teams := rfl
@[simp] theorem emit_groups (s : State) (m : OutMsg) : (emit s m).groups = s.groups := rfl
@[simp] theorem emit_uidCtr (s : State) (m : OutMsg) : (emit s m).uidCtr = s.uidCtr := rfl
@[simp] theorem emit_spaces (s : State) (m : OutMsg) : (emit s m).spaces = s.spaces := rfl
@[simp] theorem emit_cores (s : State) (m : OutMsg) : (emit s m).cores = s.cores := rfl
@[simp] theorem emit_routeq (s : State) (m : OutMsg) : (emit s m).routeq = s.routeq := rfl
@[simp] theorem emit_opCtr (s : State) (m : OutMsg) : (emit s m).opCtr = s.opCtr := rfl
@[simp] theorem emit_coh (s : State) (m : OutMsg) : (emit s m).coh = s.coh := rfl
@[simp] theorem emit_seqs (s : State) (m : OutMsg) : (emit s m).seqs = s.seqs := rfl
@[simp] theorem emit_colls (s : State) (m : OutMsg) : (emit s m).colls = s.colls := rfl
@[simp] theorem emit_collCtr (s : State) (m : OutMsg) : (emit s m).collCtr = s.collCtr := rfl
@[simp] theorem emit_windows (s : State) (m : OutMsg) : (emit s m).windows = s.windows := rfl
@[simp] theorem emit_notes (s : State) (m : OutMsg) : (emit s m).notes = s.notes := rfl
@[simp] theorem emit_peers (s : State) (m : OutMsg) : (emit s m).peers = s.peers := rfl
@[simp] theorem emit_links (s : State) (m : OutMsg) : (emit s m).links = s.links := rfl
@[simp] theorem emit_protErrs (s : State) (m : OutMsg) : (emit s m).protErrs = s.protErrs := rfl
@[simp] theorem emit_rings (s : State) (m : OutMsg) : (emit s m).rings = s.rings := rfl
@[simp] theorem emit_ctls (s : State) (m : OutMsg) : (emit s m).ctls = s.ctls := rfl
@[simp] theorem emit_islands (s : State) (m : OutMsg) : (emit s m).islands = s.islands := rfl
@[simp] theorem emit_retired (s : State) (m : OutMsg) : (emit s m).retired = s.retired := rfl
@[simp] theorem emit_ec (s : State) (m : OutMsg) : (emit s m).ec = s.ec := rfl
@[simp] theorem emit_badSlots (s : State) (m : OutMsg) : (emit s m).badSlots = s.badSlots := rfl

/-! ### modSeq -/

@[simp] theorem modSeq_agenda (s : State) (n : Nat) (f : Sequencer → Sequencer) : (modSeq s n f).agenda = s.agenda := rfl
@[simp] theorem modSeq_cur (s : State) (n : Nat) (f : Sequencer → Sequencer) : (modSeq s n f).cur = s.cur := rfl
@[simp] theorem modSeq_curSeq (s : State) (n : Nat) (f : Sequencer → Sequencer) : (modSeq s n f).curSeq = s.curSeq := rfl
@[simp] theorem modSeq_freeCtr (s : State) (n : Nat) (f : Sequencer → Sequencer) : (modSeq s n f).freeCtr = s.freeCtr := rfl
@[simp] theorem modSeq_outbox (s : State) (n : Nat) (f : Sequencer → Sequencer) : (modSeq s n f).outbox = s.outbox := rfl
@[simp] theorem modSeq_issued (s : State) (n : Nat) (f : Sequencer → Sequencer) : (modSeq s n f).issued = s.issued := rfl
@[simp] theorem modSeq_dtime (s : State) (n : Nat) (f : Sequencer → Sequencer) : (modSeq s n f).dtime = s.dtime := rfl
@[simp] theorem modSeq_slew (s : State) (n : Nat) (f : Sequencer → Sequencer) : (modSeq s n f).slew = s.slew := rfl
@[simp] theorem modSeq_pkg (s : State) (n : Nat) (f : Sequencer → Sequencer) : (modSeq s n f).pkg = s.pkg := rfl
@[simp] theorem modSeq_pkgs (s : State) (n : Nat) (f : Sequencer → Sequencer) : (modSeq s n f).pkgs = s.pkgs := rfl
@[simp] theorem modSeq_denied (s : State) (n : Nat) (f : Sequencer → Sequencer) : (modSeq s n f).denied = s.denied := rfl
@[simp] theorem modSeq_noRoute (s : State) (n : Nat) (f : Sequencer → Sequencer) : (modSeq s n f).noRoute = s.noRoute := rfl
@[simp] theorem modSeq_hostRoutes (s : State) (n : Nat) (f : Sequencer → Sequencer) : (modSeq s n f).hostRoutes = s.hostRoutes := rfl
@[simp] theorem modSeq_noSwitch (s : State) (n : Nat) (f : Sequencer → Sequencer) : (modSeq s n f).noSwitch = s.noSwitch := rfl
@[simp] theorem modSeq_inHigh (s : State) (n : Nat) (f : Sequencer → Sequencer) : (modSeq s n f).inHigh = s.inHigh := rfl
@[simp] theorem modSeq_mem (s : State) (n : Nat) (f : Sequencer → Sequencer) : (modSeq s n f).mem = s.mem := rfl
@[simp] theorem modSeq_behind (s : State) (n : Nat) (f : Sequencer → Sequencer) : (modSeq s n f).behind = s.behind := rfl
@[simp] theorem modSeq_poison (s : State) (n : Nat) (f : Sequencer → Sequencer) : (modSeq s n f).poison = s.poison := rfl
@[simp] theorem modSeq_mgmt (s : State) (n : Nat) (f : Sequencer → Sequencer) : (modSeq s n f).mgmt = s.mgmt := rfl
@[simp] theorem modSeq_pools (s : State) (n : Nat) (f : Sequencer → Sequencer) : (modSeq s n f).pools = s.pools := rfl
@[simp] theorem modSeq_grids (s : State) (n : Nat) (f : Sequencer → Sequencer) : (modSeq s n f).grids = s.grids := rfl
@[simp] theorem modSeq_gridCtr (s : State) (n : Nat) (f : Sequencer → Sequencer) : (modSeq s n f).gridCtr = s.gridCtr := rfl
@[simp] theorem modSeq_teams (s : State) (n : Nat) (f : Sequencer → Sequencer) : (modSeq s n f).teams = s.teams := rfl
@[simp] theorem modSeq_groups (s : State) (n : Nat) (f : Sequencer → Sequencer) : (modSeq s n f).groups = s.groups := rfl
@[simp] theorem modSeq_uidCtr (s : State) (n : Nat) (f : Sequencer → Sequencer) : (modSeq s n f).uidCtr = s.uidCtr := rfl
@[simp] theorem modSeq_spaces (s : State) (n : Nat) (f : Sequencer → Sequencer) : (modSeq s n f).spaces = s.spaces := rfl
@[simp] theorem modSeq_cores (s : State) (n : Nat) (f : Sequencer → Sequencer) : (modSeq s n f).cores = s.cores := rfl
@[simp] theorem modSeq_routeq (s : State) (n : Nat) (f : Sequencer → Sequencer) : (modSeq s n f).routeq = s.routeq := rfl
@[simp] theorem modSeq_opCtr (s : State) (n : Nat) (f : Sequencer → Sequencer) : (modSeq s n f).opCtr = s.opCtr := rfl
@[simp] theorem modSeq_coh (s : State) (n : Nat) (f : Sequencer → Sequencer) : (modSeq s n f).coh = s.coh := rfl
@[simp] theorem modSeq_seqs (s : State) (n : Nat) (f : Sequencer → Sequencer) : (modSeq s n f).seqs = lmod s.seqs n f := rfl
@[simp] theorem modSeq_colls (s : State) (n : Nat) (f : Sequencer → Sequencer) : (modSeq s n f).colls = s.colls := rfl
@[simp] theorem modSeq_collCtr (s : State) (n : Nat) (f : Sequencer → Sequencer) : (modSeq s n f).collCtr = s.collCtr := rfl
@[simp] theorem modSeq_windows (s : State) (n : Nat) (f : Sequencer → Sequencer) : (modSeq s n f).windows = s.windows := rfl
@[simp] theorem modSeq_notes (s : State) (n : Nat) (f : Sequencer → Sequencer) : (modSeq s n f).notes = s.notes := rfl
@[simp] theorem modSeq_peers (s : State) (n : Nat) (f : Sequencer → Sequencer) : (modSeq s n f).peers = s.peers := rfl
@[simp] theorem modSeq_links (s : State) (n : Nat) (f : Sequencer → Sequencer) : (modSeq s n f).links = s.links := rfl
@[simp] theorem modSeq_protErrs (s : State) (n : Nat) (f : Sequencer → Sequencer) : (modSeq s n f).protErrs = s.protErrs := rfl
@[simp] theorem modSeq_rings (s : State) (n : Nat) (f : Sequencer → Sequencer) : (modSeq s n f).rings = s.rings := rfl
@[simp] theorem modSeq_ctls (s : State) (n : Nat) (f : Sequencer → Sequencer) : (modSeq s n f).ctls = s.ctls := rfl
@[simp] theorem modSeq_islands (s : State) (n : Nat) (f : Sequencer → Sequencer) : (modSeq s n f).islands = s.islands := rfl
@[simp] theorem modSeq_retired (s : State) (n : Nat) (f : Sequencer → Sequencer) : (modSeq s n f).retired = s.retired := rfl
@[simp] theorem modSeq_ec (s : State) (n : Nat) (f : Sequencer → Sequencer) : (modSeq s n f).ec = s.ec := rfl
@[simp] theorem modSeq_badSlots (s : State) (n : Nat) (f : Sequencer → Sequencer) : (modSeq s n f).badSlots = s.badSlots := rfl

/-! ### modLink -/

@[simp] theorem modLink_agenda (s : State) (n : Nat) (f : Link → Link) : (modLink s n f).agenda = s.agenda := rfl
@[simp] theorem modLink_cur (s : State) (n : Nat) (f : Link → Link) : (modLink s n f).cur = s.cur := rfl
@[simp] theorem modLink_curSeq (s : State) (n : Nat) (f : Link → Link) : (modLink s n f).curSeq = s.curSeq := rfl
@[simp] theorem modLink_freeCtr (s : State) (n : Nat) (f : Link → Link) : (modLink s n f).freeCtr = s.freeCtr := rfl
@[simp] theorem modLink_outbox (s : State) (n : Nat) (f : Link → Link) : (modLink s n f).outbox = s.outbox := rfl
@[simp] theorem modLink_issued (s : State) (n : Nat) (f : Link → Link) : (modLink s n f).issued = s.issued := rfl
@[simp] theorem modLink_dtime (s : State) (n : Nat) (f : Link → Link) : (modLink s n f).dtime = s.dtime := rfl
@[simp] theorem modLink_slew (s : State) (n : Nat) (f : Link → Link) : (modLink s n f).slew = s.slew := rfl
@[simp] theorem modLink_pkg (s : State) (n : Nat) (f : Link → Link) : (modLink s n f).pkg = s.pkg := rfl
@[simp] theorem modLink_pkgs (s : State) (n : Nat) (f : Link → Link) : (modLink s n f).pkgs = s.pkgs := rfl
@[simp] theorem modLink_denied (s : State) (n : Nat) (f : Link → Link) : (modLink s n f).denied = s.denied := rfl
@[simp] theorem modLink_noRoute (s : State) (n : Nat) (f : Link → Link) : (modLink s n f).noRoute = s.noRoute := rfl
@[simp] theorem modLink_hostRoutes (s : State) (n : Nat) (f : Link → Link) : (modLink s n f).hostRoutes = s.hostRoutes := rfl
@[simp] theorem modLink_noSwitch (s : State) (n : Nat) (f : Link → Link) : (modLink s n f).noSwitch = s.noSwitch := rfl
@[simp] theorem modLink_inHigh (s : State) (n : Nat) (f : Link → Link) : (modLink s n f).inHigh = s.inHigh := rfl
@[simp] theorem modLink_mem (s : State) (n : Nat) (f : Link → Link) : (modLink s n f).mem = s.mem := rfl
@[simp] theorem modLink_behind (s : State) (n : Nat) (f : Link → Link) : (modLink s n f).behind = s.behind := rfl
@[simp] theorem modLink_poison (s : State) (n : Nat) (f : Link → Link) : (modLink s n f).poison = s.poison := rfl
@[simp] theorem modLink_mgmt (s : State) (n : Nat) (f : Link → Link) : (modLink s n f).mgmt = s.mgmt := rfl
@[simp] theorem modLink_pools (s : State) (n : Nat) (f : Link → Link) : (modLink s n f).pools = s.pools := rfl
@[simp] theorem modLink_grids (s : State) (n : Nat) (f : Link → Link) : (modLink s n f).grids = s.grids := rfl
@[simp] theorem modLink_gridCtr (s : State) (n : Nat) (f : Link → Link) : (modLink s n f).gridCtr = s.gridCtr := rfl
@[simp] theorem modLink_teams (s : State) (n : Nat) (f : Link → Link) : (modLink s n f).teams = s.teams := rfl
@[simp] theorem modLink_groups (s : State) (n : Nat) (f : Link → Link) : (modLink s n f).groups = s.groups := rfl
@[simp] theorem modLink_uidCtr (s : State) (n : Nat) (f : Link → Link) : (modLink s n f).uidCtr = s.uidCtr := rfl
@[simp] theorem modLink_spaces (s : State) (n : Nat) (f : Link → Link) : (modLink s n f).spaces = s.spaces := rfl
@[simp] theorem modLink_cores (s : State) (n : Nat) (f : Link → Link) : (modLink s n f).cores = s.cores := rfl
@[simp] theorem modLink_routeq (s : State) (n : Nat) (f : Link → Link) : (modLink s n f).routeq = s.routeq := rfl
@[simp] theorem modLink_opCtr (s : State) (n : Nat) (f : Link → Link) : (modLink s n f).opCtr = s.opCtr := rfl
@[simp] theorem modLink_coh (s : State) (n : Nat) (f : Link → Link) : (modLink s n f).coh = s.coh := rfl
@[simp] theorem modLink_seqs (s : State) (n : Nat) (f : Link → Link) : (modLink s n f).seqs = s.seqs := rfl
@[simp] theorem modLink_colls (s : State) (n : Nat) (f : Link → Link) : (modLink s n f).colls = s.colls := rfl
@[simp] theorem modLink_collCtr (s : State) (n : Nat) (f : Link → Link) : (modLink s n f).collCtr = s.collCtr := rfl
@[simp] theorem modLink_windows (s : State) (n : Nat) (f : Link → Link) : (modLink s n f).windows = s.windows := rfl
@[simp] theorem modLink_notes (s : State) (n : Nat) (f : Link → Link) : (modLink s n f).notes = s.notes := rfl
@[simp] theorem modLink_peers (s : State) (n : Nat) (f : Link → Link) : (modLink s n f).peers = s.peers := rfl
@[simp] theorem modLink_links (s : State) (n : Nat) (f : Link → Link) : (modLink s n f).links = lmod s.links n f := rfl
@[simp] theorem modLink_protErrs (s : State) (n : Nat) (f : Link → Link) : (modLink s n f).protErrs = s.protErrs := rfl
@[simp] theorem modLink_rings (s : State) (n : Nat) (f : Link → Link) : (modLink s n f).rings = s.rings := rfl
@[simp] theorem modLink_ctls (s : State) (n : Nat) (f : Link → Link) : (modLink s n f).ctls = s.ctls := rfl
@[simp] theorem modLink_islands (s : State) (n : Nat) (f : Link → Link) : (modLink s n f).islands = s.islands := rfl
@[simp] theorem modLink_retired (s : State) (n : Nat) (f : Link → Link) : (modLink s n f).retired = s.retired := rfl
@[simp] theorem modLink_ec (s : State) (n : Nat) (f : Link → Link) : (modLink s n f).ec = s.ec := rfl
@[simp] theorem modLink_badSlots (s : State) (n : Nat) (f : Link → Link) : (modLink s n f).badSlots = s.badSlots := rfl

/-! ### modCtl -/

@[simp] theorem modCtl_agenda (s : State) (n : Nat) (f : Controller → Controller) : (modCtl s n f).agenda = s.agenda := rfl
@[simp] theorem modCtl_cur (s : State) (n : Nat) (f : Controller → Controller) : (modCtl s n f).cur = s.cur := rfl
@[simp] theorem modCtl_curSeq (s : State) (n : Nat) (f : Controller → Controller) : (modCtl s n f).curSeq = s.curSeq := rfl
@[simp] theorem modCtl_freeCtr (s : State) (n : Nat) (f : Controller → Controller) : (modCtl s n f).freeCtr = s.freeCtr := rfl
@[simp] theorem modCtl_outbox (s : State) (n : Nat) (f : Controller → Controller) : (modCtl s n f).outbox = s.outbox := rfl
@[simp] theorem modCtl_issued (s : State) (n : Nat) (f : Controller → Controller) : (modCtl s n f).issued = s.issued := rfl
@[simp] theorem modCtl_dtime (s : State) (n : Nat) (f : Controller → Controller) : (modCtl s n f).dtime = s.dtime := rfl
@[simp] theorem modCtl_slew (s : State) (n : Nat) (f : Controller → Controller) : (modCtl s n f).slew = s.slew := rfl
@[simp] theorem modCtl_pkg (s : State) (n : Nat) (f : Controller → Controller) : (modCtl s n f).pkg = s.pkg := rfl
@[simp] theorem modCtl_pkgs (s : State) (n : Nat) (f : Controller → Controller) : (modCtl s n f).pkgs = s.pkgs := rfl
@[simp] theorem modCtl_denied (s : State) (n : Nat) (f : Controller → Controller) : (modCtl s n f).denied = s.denied := rfl
@[simp] theorem modCtl_noRoute (s : State) (n : Nat) (f : Controller → Controller) : (modCtl s n f).noRoute = s.noRoute := rfl
@[simp] theorem modCtl_hostRoutes (s : State) (n : Nat) (f : Controller → Controller) : (modCtl s n f).hostRoutes = s.hostRoutes := rfl
@[simp] theorem modCtl_noSwitch (s : State) (n : Nat) (f : Controller → Controller) : (modCtl s n f).noSwitch = s.noSwitch := rfl
@[simp] theorem modCtl_inHigh (s : State) (n : Nat) (f : Controller → Controller) : (modCtl s n f).inHigh = s.inHigh := rfl
@[simp] theorem modCtl_mem (s : State) (n : Nat) (f : Controller → Controller) : (modCtl s n f).mem = s.mem := rfl
@[simp] theorem modCtl_behind (s : State) (n : Nat) (f : Controller → Controller) : (modCtl s n f).behind = s.behind := rfl
@[simp] theorem modCtl_poison (s : State) (n : Nat) (f : Controller → Controller) : (modCtl s n f).poison = s.poison := rfl
@[simp] theorem modCtl_mgmt (s : State) (n : Nat) (f : Controller → Controller) : (modCtl s n f).mgmt = s.mgmt := rfl
@[simp] theorem modCtl_pools (s : State) (n : Nat) (f : Controller → Controller) : (modCtl s n f).pools = s.pools := rfl
@[simp] theorem modCtl_grids (s : State) (n : Nat) (f : Controller → Controller) : (modCtl s n f).grids = s.grids := rfl
@[simp] theorem modCtl_gridCtr (s : State) (n : Nat) (f : Controller → Controller) : (modCtl s n f).gridCtr = s.gridCtr := rfl
@[simp] theorem modCtl_teams (s : State) (n : Nat) (f : Controller → Controller) : (modCtl s n f).teams = s.teams := rfl
@[simp] theorem modCtl_groups (s : State) (n : Nat) (f : Controller → Controller) : (modCtl s n f).groups = s.groups := rfl
@[simp] theorem modCtl_uidCtr (s : State) (n : Nat) (f : Controller → Controller) : (modCtl s n f).uidCtr = s.uidCtr := rfl
@[simp] theorem modCtl_spaces (s : State) (n : Nat) (f : Controller → Controller) : (modCtl s n f).spaces = s.spaces := rfl
@[simp] theorem modCtl_cores (s : State) (n : Nat) (f : Controller → Controller) : (modCtl s n f).cores = s.cores := rfl
@[simp] theorem modCtl_routeq (s : State) (n : Nat) (f : Controller → Controller) : (modCtl s n f).routeq = s.routeq := rfl
@[simp] theorem modCtl_opCtr (s : State) (n : Nat) (f : Controller → Controller) : (modCtl s n f).opCtr = s.opCtr := rfl
@[simp] theorem modCtl_coh (s : State) (n : Nat) (f : Controller → Controller) : (modCtl s n f).coh = s.coh := rfl
@[simp] theorem modCtl_seqs (s : State) (n : Nat) (f : Controller → Controller) : (modCtl s n f).seqs = s.seqs := rfl
@[simp] theorem modCtl_colls (s : State) (n : Nat) (f : Controller → Controller) : (modCtl s n f).colls = s.colls := rfl
@[simp] theorem modCtl_collCtr (s : State) (n : Nat) (f : Controller → Controller) : (modCtl s n f).collCtr = s.collCtr := rfl
@[simp] theorem modCtl_windows (s : State) (n : Nat) (f : Controller → Controller) : (modCtl s n f).windows = s.windows := rfl
@[simp] theorem modCtl_notes (s : State) (n : Nat) (f : Controller → Controller) : (modCtl s n f).notes = s.notes := rfl
@[simp] theorem modCtl_peers (s : State) (n : Nat) (f : Controller → Controller) : (modCtl s n f).peers = s.peers := rfl
@[simp] theorem modCtl_links (s : State) (n : Nat) (f : Controller → Controller) : (modCtl s n f).links = s.links := rfl
@[simp] theorem modCtl_protErrs (s : State) (n : Nat) (f : Controller → Controller) : (modCtl s n f).protErrs = s.protErrs := rfl
@[simp] theorem modCtl_rings (s : State) (n : Nat) (f : Controller → Controller) : (modCtl s n f).rings = s.rings := rfl
@[simp] theorem modCtl_ctls (s : State) (n : Nat) (f : Controller → Controller) : (modCtl s n f).ctls = lmod s.ctls n f := rfl
@[simp] theorem modCtl_islands (s : State) (n : Nat) (f : Controller → Controller) : (modCtl s n f).islands = s.islands := rfl
@[simp] theorem modCtl_retired (s : State) (n : Nat) (f : Controller → Controller) : (modCtl s n f).retired = s.retired := rfl
@[simp] theorem modCtl_ec (s : State) (n : Nat) (f : Controller → Controller) : (modCtl s n f).ec = s.ec := rfl
@[simp] theorem modCtl_badSlots (s : State) (n : Nat) (f : Controller → Controller) : (modCtl s n f).badSlots = s.badSlots := rfl

/-! ### modIsland -/

@[simp] theorem modIsland_agenda (s : State) (n : Nat) (f : Island → Island) : (modIsland s n f).agenda = s.agenda := rfl
@[simp] theorem modIsland_cur (s : State) (n : Nat) (f : Island → Island) : (modIsland s n f).cur = s.cur := rfl
@[simp] theorem modIsland_curSeq (s : State) (n : Nat) (f : Island → Island) : (modIsland s n f).curSeq = s.curSeq := rfl
@[simp] theorem modIsland_freeCtr (s : State) (n : Nat) (f : Island → Island) : (modIsland s n f).freeCtr = s.freeCtr := rfl
@[simp] theorem modIsland_outbox (s : State) (n : Nat) (f : Island → Island) : (modIsland s n f).outbox = s.outbox := rfl
@[simp] theorem modIsland_issued (s : State) (n : Nat) (f : Island → Island) : (modIsland s n f).issued = s.issued := rfl
@[simp] theorem modIsland_dtime (s : State) (n : Nat) (f : Island → Island) : (modIsland s n f).dtime = s.dtime := rfl
@[simp] theorem modIsland_slew (s : State) (n : Nat) (f : Island → Island) : (modIsland s n f).slew = s.slew := rfl
@[simp] theorem modIsland_pkg (s : State) (n : Nat) (f : Island → Island) : (modIsland s n f).pkg = s.pkg := rfl
@[simp] theorem modIsland_pkgs (s : State) (n : Nat) (f : Island → Island) : (modIsland s n f).pkgs = s.pkgs := rfl
@[simp] theorem modIsland_denied (s : State) (n : Nat) (f : Island → Island) : (modIsland s n f).denied = s.denied := rfl
@[simp] theorem modIsland_noRoute (s : State) (n : Nat) (f : Island → Island) : (modIsland s n f).noRoute = s.noRoute := rfl
@[simp] theorem modIsland_hostRoutes (s : State) (n : Nat) (f : Island → Island) : (modIsland s n f).hostRoutes = s.hostRoutes := rfl
@[simp] theorem modIsland_noSwitch (s : State) (n : Nat) (f : Island → Island) : (modIsland s n f).noSwitch = s.noSwitch := rfl
@[simp] theorem modIsland_inHigh (s : State) (n : Nat) (f : Island → Island) : (modIsland s n f).inHigh = s.inHigh := rfl
@[simp] theorem modIsland_mem (s : State) (n : Nat) (f : Island → Island) : (modIsland s n f).mem = s.mem := rfl
@[simp] theorem modIsland_behind (s : State) (n : Nat) (f : Island → Island) : (modIsland s n f).behind = s.behind := rfl
@[simp] theorem modIsland_poison (s : State) (n : Nat) (f : Island → Island) : (modIsland s n f).poison = s.poison := rfl
@[simp] theorem modIsland_mgmt (s : State) (n : Nat) (f : Island → Island) : (modIsland s n f).mgmt = s.mgmt := rfl
@[simp] theorem modIsland_pools (s : State) (n : Nat) (f : Island → Island) : (modIsland s n f).pools = s.pools := rfl
@[simp] theorem modIsland_grids (s : State) (n : Nat) (f : Island → Island) : (modIsland s n f).grids = s.grids := rfl
@[simp] theorem modIsland_gridCtr (s : State) (n : Nat) (f : Island → Island) : (modIsland s n f).gridCtr = s.gridCtr := rfl
@[simp] theorem modIsland_teams (s : State) (n : Nat) (f : Island → Island) : (modIsland s n f).teams = s.teams := rfl
@[simp] theorem modIsland_groups (s : State) (n : Nat) (f : Island → Island) : (modIsland s n f).groups = s.groups := rfl
@[simp] theorem modIsland_uidCtr (s : State) (n : Nat) (f : Island → Island) : (modIsland s n f).uidCtr = s.uidCtr := rfl
@[simp] theorem modIsland_spaces (s : State) (n : Nat) (f : Island → Island) : (modIsland s n f).spaces = s.spaces := rfl
@[simp] theorem modIsland_cores (s : State) (n : Nat) (f : Island → Island) : (modIsland s n f).cores = s.cores := rfl
@[simp] theorem modIsland_routeq (s : State) (n : Nat) (f : Island → Island) : (modIsland s n f).routeq = s.routeq := rfl
@[simp] theorem modIsland_opCtr (s : State) (n : Nat) (f : Island → Island) : (modIsland s n f).opCtr = s.opCtr := rfl
@[simp] theorem modIsland_coh (s : State) (n : Nat) (f : Island → Island) : (modIsland s n f).coh = s.coh := rfl
@[simp] theorem modIsland_seqs (s : State) (n : Nat) (f : Island → Island) : (modIsland s n f).seqs = s.seqs := rfl
@[simp] theorem modIsland_colls (s : State) (n : Nat) (f : Island → Island) : (modIsland s n f).colls = s.colls := rfl
@[simp] theorem modIsland_collCtr (s : State) (n : Nat) (f : Island → Island) : (modIsland s n f).collCtr = s.collCtr := rfl
@[simp] theorem modIsland_windows (s : State) (n : Nat) (f : Island → Island) : (modIsland s n f).windows = s.windows := rfl
@[simp] theorem modIsland_notes (s : State) (n : Nat) (f : Island → Island) : (modIsland s n f).notes = s.notes := rfl
@[simp] theorem modIsland_peers (s : State) (n : Nat) (f : Island → Island) : (modIsland s n f).peers = s.peers := rfl
@[simp] theorem modIsland_links (s : State) (n : Nat) (f : Island → Island) : (modIsland s n f).links = s.links := rfl
@[simp] theorem modIsland_protErrs (s : State) (n : Nat) (f : Island → Island) : (modIsland s n f).protErrs = s.protErrs := rfl
@[simp] theorem modIsland_rings (s : State) (n : Nat) (f : Island → Island) : (modIsland s n f).rings = s.rings := rfl
@[simp] theorem modIsland_ctls (s : State) (n : Nat) (f : Island → Island) : (modIsland s n f).ctls = s.ctls := rfl
@[simp] theorem modIsland_islands (s : State) (n : Nat) (f : Island → Island) : (modIsland s n f).islands = lmod s.islands n f := rfl
@[simp] theorem modIsland_retired (s : State) (n : Nat) (f : Island → Island) : (modIsland s n f).retired = s.retired := rfl
@[simp] theorem modIsland_ec (s : State) (n : Nat) (f : Island → Island) : (modIsland s n f).ec = s.ec := rfl
@[simp] theorem modIsland_badSlots (s : State) (n : Nat) (f : Island → Island) : (modIsland s n f).badSlots = s.badSlots := rfl

/-! ### modCoh -/

@[simp] theorem modCoh_agenda (s : State) (f : Coherence → Coherence) : (modCoh s f).agenda = s.agenda := rfl
@[simp] theorem modCoh_cur (s : State) (f : Coherence → Coherence) : (modCoh s f).cur = s.cur := rfl
@[simp] theorem modCoh_curSeq (s : State) (f : Coherence → Coherence) : (modCoh s f).curSeq = s.curSeq := rfl
@[simp] theorem modCoh_freeCtr (s : State) (f : Coherence → Coherence) : (modCoh s f).freeCtr = s.freeCtr := rfl
@[simp] theorem modCoh_outbox (s : State) (f : Coherence → Coherence) : (modCoh s f).outbox = s.outbox := rfl
@[simp] theorem modCoh_issued (s : State) (f : Coherence → Coherence) : (modCoh s f).issued = s.issued := rfl
@[simp] theorem modCoh_dtime (s : State) (f : Coherence → Coherence) : (modCoh s f).dtime = s.dtime := rfl
@[simp] theorem modCoh_slew (s : State) (f : Coherence → Coherence) : (modCoh s f).slew = s.slew := rfl
@[simp] theorem modCoh_pkg (s : State) (f : Coherence → Coherence) : (modCoh s f).pkg = s.pkg := rfl
@[simp] theorem modCoh_pkgs (s : State) (f : Coherence → Coherence) : (modCoh s f).pkgs = s.pkgs := rfl
@[simp] theorem modCoh_denied (s : State) (f : Coherence → Coherence) : (modCoh s f).denied = s.denied := rfl
@[simp] theorem modCoh_noRoute (s : State) (f : Coherence → Coherence) : (modCoh s f).noRoute = s.noRoute := rfl
@[simp] theorem modCoh_hostRoutes (s : State) (f : Coherence → Coherence) : (modCoh s f).hostRoutes = s.hostRoutes := rfl
@[simp] theorem modCoh_noSwitch (s : State) (f : Coherence → Coherence) : (modCoh s f).noSwitch = s.noSwitch := rfl
@[simp] theorem modCoh_inHigh (s : State) (f : Coherence → Coherence) : (modCoh s f).inHigh = s.inHigh := rfl
@[simp] theorem modCoh_mem (s : State) (f : Coherence → Coherence) : (modCoh s f).mem = s.mem := rfl
@[simp] theorem modCoh_behind (s : State) (f : Coherence → Coherence) : (modCoh s f).behind = s.behind := rfl
@[simp] theorem modCoh_poison (s : State) (f : Coherence → Coherence) : (modCoh s f).poison = s.poison := rfl
@[simp] theorem modCoh_mgmt (s : State) (f : Coherence → Coherence) : (modCoh s f).mgmt = s.mgmt := rfl
@[simp] theorem modCoh_pools (s : State) (f : Coherence → Coherence) : (modCoh s f).pools = s.pools := rfl
@[simp] theorem modCoh_grids (s : State) (f : Coherence → Coherence) : (modCoh s f).grids = s.grids := rfl
@[simp] theorem modCoh_gridCtr (s : State) (f : Coherence → Coherence) : (modCoh s f).gridCtr = s.gridCtr := rfl
@[simp] theorem modCoh_teams (s : State) (f : Coherence → Coherence) : (modCoh s f).teams = s.teams := rfl
@[simp] theorem modCoh_groups (s : State) (f : Coherence → Coherence) : (modCoh s f).groups = s.groups := rfl
@[simp] theorem modCoh_uidCtr (s : State) (f : Coherence → Coherence) : (modCoh s f).uidCtr = s.uidCtr := rfl
@[simp] theorem modCoh_spaces (s : State) (f : Coherence → Coherence) : (modCoh s f).spaces = s.spaces := rfl
@[simp] theorem modCoh_cores (s : State) (f : Coherence → Coherence) : (modCoh s f).cores = s.cores := rfl
@[simp] theorem modCoh_routeq (s : State) (f : Coherence → Coherence) : (modCoh s f).routeq = s.routeq := rfl
@[simp] theorem modCoh_opCtr (s : State) (f : Coherence → Coherence) : (modCoh s f).opCtr = s.opCtr := rfl
@[simp] theorem modCoh_coh (s : State) (f : Coherence → Coherence) : (modCoh s f).coh = f s.coh := rfl
@[simp] theorem modCoh_seqs (s : State) (f : Coherence → Coherence) : (modCoh s f).seqs = s.seqs := rfl
@[simp] theorem modCoh_colls (s : State) (f : Coherence → Coherence) : (modCoh s f).colls = s.colls := rfl
@[simp] theorem modCoh_collCtr (s : State) (f : Coherence → Coherence) : (modCoh s f).collCtr = s.collCtr := rfl
@[simp] theorem modCoh_windows (s : State) (f : Coherence → Coherence) : (modCoh s f).windows = s.windows := rfl
@[simp] theorem modCoh_notes (s : State) (f : Coherence → Coherence) : (modCoh s f).notes = s.notes := rfl
@[simp] theorem modCoh_peers (s : State) (f : Coherence → Coherence) : (modCoh s f).peers = s.peers := rfl
@[simp] theorem modCoh_links (s : State) (f : Coherence → Coherence) : (modCoh s f).links = s.links := rfl
@[simp] theorem modCoh_protErrs (s : State) (f : Coherence → Coherence) : (modCoh s f).protErrs = s.protErrs := rfl
@[simp] theorem modCoh_rings (s : State) (f : Coherence → Coherence) : (modCoh s f).rings = s.rings := rfl
@[simp] theorem modCoh_ctls (s : State) (f : Coherence → Coherence) : (modCoh s f).ctls = s.ctls := rfl
@[simp] theorem modCoh_islands (s : State) (f : Coherence → Coherence) : (modCoh s f).islands = s.islands := rfl
@[simp] theorem modCoh_retired (s : State) (f : Coherence → Coherence) : (modCoh s f).retired = s.retired := rfl
@[simp] theorem modCoh_ec (s : State) (f : Coherence → Coherence) : (modCoh s f).ec = s.ec := rfl
@[simp] theorem modCoh_badSlots (s : State) (f : Coherence → Coherence) : (modCoh s f).badSlots = s.badSlots := rfl

/-! ### modRing -/

@[simp] theorem modRing_agenda (s : State) (r : Nat) (f : Ring → Ring) : (modRing s r f).agenda = s.agenda := rfl
@[simp] theorem modRing_cur (s : State) (r : Nat) (f : Ring → Ring) : (modRing s r f).cur = s.cur := rfl
@[simp] theorem modRing_curSeq (s : State) (r : Nat) (f : Ring → Ring) : (modRing s r f).curSeq = s.curSeq := rfl
@[simp] theorem modRing_freeCtr (s : State) (r : Nat) (f : Ring → Ring) : (modRing s r f).freeCtr = s.freeCtr := rfl
@[simp] theorem modRing_outbox (s : State) (r : Nat) (f : Ring → Ring) : (modRing s r f).outbox = s.outbox := rfl
@[simp] theorem modRing_issued (s : State) (r : Nat) (f : Ring → Ring) : (modRing s r f).issued = s.issued := rfl
@[simp] theorem modRing_dtime (s : State) (r : Nat) (f : Ring → Ring) : (modRing s r f).dtime = s.dtime := rfl
@[simp] theorem modRing_slew (s : State) (r : Nat) (f : Ring → Ring) : (modRing s r f).slew = s.slew := rfl
@[simp] theorem modRing_pkg (s : State) (r : Nat) (f : Ring → Ring) : (modRing s r f).pkg = s.pkg := rfl
@[simp] theorem modRing_pkgs (s : State) (r : Nat) (f : Ring → Ring) : (modRing s r f).pkgs = s.pkgs := rfl
@[simp] theorem modRing_denied (s : State) (r : Nat) (f : Ring → Ring) : (modRing s r f).denied = s.denied := rfl
@[simp] theorem modRing_noRoute (s : State) (r : Nat) (f : Ring → Ring) : (modRing s r f).noRoute = s.noRoute := rfl
@[simp] theorem modRing_hostRoutes (s : State) (r : Nat) (f : Ring → Ring) : (modRing s r f).hostRoutes = s.hostRoutes := rfl
@[simp] theorem modRing_noSwitch (s : State) (r : Nat) (f : Ring → Ring) : (modRing s r f).noSwitch = s.noSwitch := rfl
@[simp] theorem modRing_inHigh (s : State) (r : Nat) (f : Ring → Ring) : (modRing s r f).inHigh = s.inHigh := rfl
@[simp] theorem modRing_mem (s : State) (r : Nat) (f : Ring → Ring) : (modRing s r f).mem = s.mem := rfl
@[simp] theorem modRing_behind (s : State) (r : Nat) (f : Ring → Ring) : (modRing s r f).behind = s.behind := rfl
@[simp] theorem modRing_poison (s : State) (r : Nat) (f : Ring → Ring) : (modRing s r f).poison = s.poison := rfl
@[simp] theorem modRing_mgmt (s : State) (r : Nat) (f : Ring → Ring) : (modRing s r f).mgmt = s.mgmt := rfl
@[simp] theorem modRing_pools (s : State) (r : Nat) (f : Ring → Ring) : (modRing s r f).pools = s.pools := rfl
@[simp] theorem modRing_grids (s : State) (r : Nat) (f : Ring → Ring) : (modRing s r f).grids = s.grids := rfl
@[simp] theorem modRing_gridCtr (s : State) (r : Nat) (f : Ring → Ring) : (modRing s r f).gridCtr = s.gridCtr := rfl
@[simp] theorem modRing_teams (s : State) (r : Nat) (f : Ring → Ring) : (modRing s r f).teams = s.teams := rfl
@[simp] theorem modRing_groups (s : State) (r : Nat) (f : Ring → Ring) : (modRing s r f).groups = s.groups := rfl
@[simp] theorem modRing_uidCtr (s : State) (r : Nat) (f : Ring → Ring) : (modRing s r f).uidCtr = s.uidCtr := rfl
@[simp] theorem modRing_spaces (s : State) (r : Nat) (f : Ring → Ring) : (modRing s r f).spaces = s.spaces := rfl
@[simp] theorem modRing_cores (s : State) (r : Nat) (f : Ring → Ring) : (modRing s r f).cores = s.cores := rfl
@[simp] theorem modRing_routeq (s : State) (r : Nat) (f : Ring → Ring) : (modRing s r f).routeq = s.routeq := rfl
@[simp] theorem modRing_opCtr (s : State) (r : Nat) (f : Ring → Ring) : (modRing s r f).opCtr = s.opCtr := rfl
@[simp] theorem modRing_coh (s : State) (r : Nat) (f : Ring → Ring) : (modRing s r f).coh = s.coh := rfl
@[simp] theorem modRing_seqs (s : State) (r : Nat) (f : Ring → Ring) : (modRing s r f).seqs = s.seqs := rfl
@[simp] theorem modRing_colls (s : State) (r : Nat) (f : Ring → Ring) : (modRing s r f).colls = s.colls := rfl
@[simp] theorem modRing_collCtr (s : State) (r : Nat) (f : Ring → Ring) : (modRing s r f).collCtr = s.collCtr := rfl
@[simp] theorem modRing_windows (s : State) (r : Nat) (f : Ring → Ring) : (modRing s r f).windows = s.windows := rfl
@[simp] theorem modRing_notes (s : State) (r : Nat) (f : Ring → Ring) : (modRing s r f).notes = s.notes := rfl
@[simp] theorem modRing_peers (s : State) (r : Nat) (f : Ring → Ring) : (modRing s r f).peers = s.peers := rfl
@[simp] theorem modRing_links (s : State) (r : Nat) (f : Ring → Ring) : (modRing s r f).links = s.links := rfl
@[simp] theorem modRing_protErrs (s : State) (r : Nat) (f : Ring → Ring) : (modRing s r f).protErrs = s.protErrs := rfl
@[simp] theorem modRing_rings (s : State) (r : Nat) (f : Ring → Ring) : (modRing s r f).rings = kset s.rings r (f (ringAt s r)) := rfl
@[simp] theorem modRing_ctls (s : State) (r : Nat) (f : Ring → Ring) : (modRing s r f).ctls = s.ctls := rfl
@[simp] theorem modRing_islands (s : State) (r : Nat) (f : Ring → Ring) : (modRing s r f).islands = s.islands := rfl
@[simp] theorem modRing_retired (s : State) (r : Nat) (f : Ring → Ring) : (modRing s r f).retired = s.retired := rfl
@[simp] theorem modRing_ec (s : State) (r : Nat) (f : Ring → Ring) : (modRing s r f).ec = s.ec := rfl
@[simp] theorem modRing_badSlots (s : State) (r : Nat) (f : Ring → Ring) : (modRing s r f).badSlots = s.badSlots := rfl

/-! ### modRoute -/

@[simp] theorem modRoute_agenda (s : State) (d : Nat) (f : List EngOp → List EngOp) : (modRoute s d f).agenda = s.agenda := rfl
@[simp] theorem modRoute_cur (s : State) (d : Nat) (f : List EngOp → List EngOp) : (modRoute s d f).cur = s.cur := rfl
@[simp] theorem modRoute_curSeq (s : State) (d : Nat) (f : List EngOp → List EngOp) : (modRoute s d f).curSeq = s.curSeq := rfl
@[simp] theorem modRoute_freeCtr (s : State) (d : Nat) (f : List EngOp → List EngOp) : (modRoute s d f).freeCtr = s.freeCtr := rfl
@[simp] theorem modRoute_outbox (s : State) (d : Nat) (f : List EngOp → List EngOp) : (modRoute s d f).outbox = s.outbox := rfl
@[simp] theorem modRoute_issued (s : State) (d : Nat) (f : List EngOp → List EngOp) : (modRoute s d f).issued = s.issued := rfl
@[simp] theorem modRoute_dtime (s : State) (d : Nat) (f : List EngOp → List EngOp) : (modRoute s d f).dtime = s.dtime := rfl
@[simp] theorem modRoute_slew (s : State) (d : Nat) (f : List EngOp → List EngOp) : (modRoute s d f).slew = s.slew := rfl
@[simp] theorem modRoute_pkg (s : State) (d : Nat) (f : List EngOp → List EngOp) : (modRoute s d f).pkg = s.pkg := rfl
@[simp] theorem modRoute_pkgs (s : State) (d : Nat) (f : List EngOp → List EngOp) : (modRoute s d f).pkgs = s.pkgs := rfl
@[simp] theorem modRoute_denied (s : State) (d : Nat) (f : List EngOp → List EngOp) : (modRoute s d f).denied = s.denied := rfl
@[simp] theorem modRoute_noRoute (s : State) (d : Nat) (f : List EngOp → List EngOp) : (modRoute s d f).noRoute = s.noRoute := rfl
@[simp] theorem modRoute_hostRoutes (s : State) (d : Nat) (f : List EngOp → List EngOp) : (modRoute s d f).hostRoutes = s.hostRoutes := rfl
@[simp] theorem modRoute_noSwitch (s : State) (d : Nat) (f : List EngOp → List EngOp) : (modRoute s d f).noSwitch = s.noSwitch := rfl
@[simp] theorem modRoute_inHigh (s : State) (d : Nat) (f : List EngOp → List EngOp) : (modRoute s d f).inHigh = s.inHigh := rfl
@[simp] theorem modRoute_mem (s : State) (d : Nat) (f : List EngOp → List EngOp) : (modRoute s d f).mem = s.mem := rfl
@[simp] theorem modRoute_behind (s : State) (d : Nat) (f : List EngOp → List EngOp) : (modRoute s d f).behind = s.behind := rfl
@[simp] theorem modRoute_poison (s : State) (d : Nat) (f : List EngOp → List EngOp) : (modRoute s d f).poison = s.poison := rfl
@[simp] theorem modRoute_mgmt (s : State) (d : Nat) (f : List EngOp → List EngOp) : (modRoute s d f).mgmt = s.mgmt := rfl
@[simp] theorem modRoute_pools (s : State) (d : Nat) (f : List EngOp → List EngOp) : (modRoute s d f).pools = s.pools := rfl
@[simp] theorem modRoute_grids (s : State) (d : Nat) (f : List EngOp → List EngOp) : (modRoute s d f).grids = s.grids := rfl
@[simp] theorem modRoute_gridCtr (s : State) (d : Nat) (f : List EngOp → List EngOp) : (modRoute s d f).gridCtr = s.gridCtr := rfl
@[simp] theorem modRoute_teams (s : State) (d : Nat) (f : List EngOp → List EngOp) : (modRoute s d f).teams = s.teams := rfl
@[simp] theorem modRoute_groups (s : State) (d : Nat) (f : List EngOp → List EngOp) : (modRoute s d f).groups = s.groups := rfl
@[simp] theorem modRoute_uidCtr (s : State) (d : Nat) (f : List EngOp → List EngOp) : (modRoute s d f).uidCtr = s.uidCtr := rfl
@[simp] theorem modRoute_spaces (s : State) (d : Nat) (f : List EngOp → List EngOp) : (modRoute s d f).spaces = s.spaces := rfl
@[simp] theorem modRoute_cores (s : State) (d : Nat) (f : List EngOp → List EngOp) : (modRoute s d f).cores = s.cores := rfl
@[simp] theorem modRoute_routeq (s : State) (d : Nat) (f : List EngOp → List EngOp) : (modRoute s d f).routeq = lmod s.routeq d f := rfl
@[simp] theorem modRoute_opCtr (s : State) (d : Nat) (f : List EngOp → List EngOp) : (modRoute s d f).opCtr = s.opCtr := rfl
@[simp] theorem modRoute_coh (s : State) (d : Nat) (f : List EngOp → List EngOp) : (modRoute s d f).coh = s.coh := rfl
@[simp] theorem modRoute_seqs (s : State) (d : Nat) (f : List EngOp → List EngOp) : (modRoute s d f).seqs = s.seqs := rfl
@[simp] theorem modRoute_colls (s : State) (d : Nat) (f : List EngOp → List EngOp) : (modRoute s d f).colls = s.colls := rfl
@[simp] theorem modRoute_collCtr (s : State) (d : Nat) (f : List EngOp → List EngOp) : (modRoute s d f).collCtr = s.collCtr := rfl
@[simp] theorem modRoute_windows (s : State) (d : Nat) (f : List EngOp → List EngOp) : (modRoute s d f).windows = s.windows := rfl
@[simp] theorem modRoute_notes (s : State) (d : Nat) (f : List EngOp → List EngOp) : (modRoute s d f).notes = s.notes := rfl
@[simp] theorem modRoute_peers (s : State) (d : Nat) (f : List EngOp → List EngOp) : (modRoute s d f).peers = s.peers := rfl
@[simp] theorem modRoute_links (s : State) (d : Nat) (f : List EngOp → List EngOp) : (modRoute s d f).links = s.links := rfl
@[simp] theorem modRoute_protErrs (s : State) (d : Nat) (f : List EngOp → List EngOp) : (modRoute s d f).protErrs = s.protErrs := rfl
@[simp] theorem modRoute_rings (s : State) (d : Nat) (f : List EngOp → List EngOp) : (modRoute s d f).rings = s.rings := rfl
@[simp] theorem modRoute_ctls (s : State) (d : Nat) (f : List EngOp → List EngOp) : (modRoute s d f).ctls = s.ctls := rfl
@[simp] theorem modRoute_islands (s : State) (d : Nat) (f : List EngOp → List EngOp) : (modRoute s d f).islands = s.islands := rfl
@[simp] theorem modRoute_retired (s : State) (d : Nat) (f : List EngOp → List EngOp) : (modRoute s d f).retired = s.retired := rfl
@[simp] theorem modRoute_ec (s : State) (d : Nat) (f : List EngOp → List EngOp) : (modRoute s d f).ec = s.ec := rfl
@[simp] theorem modRoute_badSlots (s : State) (d : Nat) (f : List EngOp → List EngOp) : (modRoute s d f).badSlots = s.badSlots := rfl

/-! ### nextOp -/

@[simp] theorem nextOp_agenda (s : State)  : (nextOp s).agenda = s.agenda := rfl
@[simp] theorem nextOp_cur (s : State)  : (nextOp s).cur = s.cur := rfl
@[simp] theorem nextOp_curSeq (s : State)  : (nextOp s).curSeq = s.curSeq := rfl
@[simp] theorem nextOp_freeCtr (s : State)  : (nextOp s).freeCtr = s.freeCtr := rfl
@[simp] theorem nextOp_outbox (s : State)  : (nextOp s).outbox = s.outbox := rfl
@[simp] theorem nextOp_issued (s : State)  : (nextOp s).issued = s.issued := rfl
@[simp] theorem nextOp_dtime (s : State)  : (nextOp s).dtime = s.dtime := rfl
@[simp] theorem nextOp_slew (s : State)  : (nextOp s).slew = s.slew := rfl
@[simp] theorem nextOp_pkg (s : State)  : (nextOp s).pkg = s.pkg := rfl
@[simp] theorem nextOp_pkgs (s : State)  : (nextOp s).pkgs = s.pkgs := rfl
@[simp] theorem nextOp_denied (s : State)  : (nextOp s).denied = s.denied := rfl
@[simp] theorem nextOp_noRoute (s : State)  : (nextOp s).noRoute = s.noRoute := rfl
@[simp] theorem nextOp_hostRoutes (s : State)  : (nextOp s).hostRoutes = s.hostRoutes := rfl
@[simp] theorem nextOp_noSwitch (s : State)  : (nextOp s).noSwitch = s.noSwitch := rfl
@[simp] theorem nextOp_inHigh (s : State)  : (nextOp s).inHigh = s.inHigh := rfl
@[simp] theorem nextOp_mem (s : State)  : (nextOp s).mem = s.mem := rfl
@[simp] theorem nextOp_behind (s : State)  : (nextOp s).behind = s.behind := rfl
@[simp] theorem nextOp_poison (s : State)  : (nextOp s).poison = s.poison := rfl
@[simp] theorem nextOp_mgmt (s : State)  : (nextOp s).mgmt = s.mgmt := rfl
@[simp] theorem nextOp_pools (s : State)  : (nextOp s).pools = s.pools := rfl
@[simp] theorem nextOp_grids (s : State)  : (nextOp s).grids = s.grids := rfl
@[simp] theorem nextOp_gridCtr (s : State)  : (nextOp s).gridCtr = s.gridCtr := rfl
@[simp] theorem nextOp_teams (s : State)  : (nextOp s).teams = s.teams := rfl
@[simp] theorem nextOp_groups (s : State)  : (nextOp s).groups = s.groups := rfl
@[simp] theorem nextOp_uidCtr (s : State)  : (nextOp s).uidCtr = s.uidCtr := rfl
@[simp] theorem nextOp_spaces (s : State)  : (nextOp s).spaces = s.spaces := rfl
@[simp] theorem nextOp_cores (s : State)  : (nextOp s).cores = s.cores := rfl
@[simp] theorem nextOp_routeq (s : State)  : (nextOp s).routeq = s.routeq := rfl
@[simp] theorem nextOp_opCtr (s : State)  : (nextOp s).opCtr = s.opCtr + 1 := rfl
@[simp] theorem nextOp_coh (s : State)  : (nextOp s).coh = s.coh := rfl
@[simp] theorem nextOp_seqs (s : State)  : (nextOp s).seqs = s.seqs := rfl
@[simp] theorem nextOp_colls (s : State)  : (nextOp s).colls = s.colls := rfl
@[simp] theorem nextOp_collCtr (s : State)  : (nextOp s).collCtr = s.collCtr := rfl
@[simp] theorem nextOp_windows (s : State)  : (nextOp s).windows = s.windows := rfl
@[simp] theorem nextOp_notes (s : State)  : (nextOp s).notes = s.notes := rfl
@[simp] theorem nextOp_peers (s : State)  : (nextOp s).peers = s.peers := rfl
@[simp] theorem nextOp_links (s : State)  : (nextOp s).links = s.links := rfl
@[simp] theorem nextOp_protErrs (s : State)  : (nextOp s).protErrs = s.protErrs := rfl
@[simp] theorem nextOp_rings (s : State)  : (nextOp s).rings = s.rings := rfl
@[simp] theorem nextOp_ctls (s : State)  : (nextOp s).ctls = s.ctls := rfl
@[simp] theorem nextOp_islands (s : State)  : (nextOp s).islands = s.islands := rfl
@[simp] theorem nextOp_retired (s : State)  : (nextOp s).retired = s.retired := rfl
@[simp] theorem nextOp_ec (s : State)  : (nextOp s).ec = s.ec := rfl
@[simp] theorem nextOp_badSlots (s : State)  : (nextOp s).badSlots = s.badSlots := rfl

/-! ### setL2 -/

@[simp] theorem setL2_agenda (s : State) (d l : Nat) (st : LineState) : (setL2 s d l st).agenda = s.agenda := rfl
@[simp] theorem setL2_cur (s : State) (d l : Nat) (st : LineState) : (setL2 s d l st).cur = s.cur := rfl
@[simp] theorem setL2_curSeq (s : State) (d l : Nat) (st : LineState) : (setL2 s d l st).curSeq = s.curSeq := rfl
@[simp] theorem setL2_freeCtr (s : State) (d l : Nat) (st : LineState) : (setL2 s d l st).freeCtr = s.freeCtr := rfl
@[simp] theorem setL2_outbox (s : State) (d l : Nat) (st : LineState) : (setL2 s d l st).outbox = s.outbox := rfl
@[simp] theorem setL2_issued (s : State) (d l : Nat) (st : LineState) : (setL2 s d l st).issued = s.issued := rfl
@[simp] theorem setL2_dtime (s : State) (d l : Nat) (st : LineState) : (setL2 s d l st).dtime = s.dtime := rfl
@[simp] theorem setL2_slew (s : State) (d l : Nat) (st : LineState) : (setL2 s d l st).slew = s.slew := rfl
@[simp] theorem setL2_pkg (s : State) (d l : Nat) (st : LineState) : (setL2 s d l st).pkg = s.pkg := rfl
@[simp] theorem setL2_pkgs (s : State) (d l : Nat) (st : LineState) : (setL2 s d l st).pkgs = s.pkgs := rfl
@[simp] theorem setL2_denied (s : State) (d l : Nat) (st : LineState) : (setL2 s d l st).denied = s.denied := rfl
@[simp] theorem setL2_noRoute (s : State) (d l : Nat) (st : LineState) : (setL2 s d l st).noRoute = s.noRoute := rfl
@[simp] theorem setL2_hostRoutes (s : State) (d l : Nat) (st : LineState) : (setL2 s d l st).hostRoutes = s.hostRoutes := rfl
@[simp] theorem setL2_noSwitch (s : State) (d l : Nat) (st : LineState) : (setL2 s d l st).noSwitch = s.noSwitch := rfl
@[simp] theorem setL2_inHigh (s : State) (d l : Nat) (st : LineState) : (setL2 s d l st).inHigh = s.inHigh := rfl
@[simp] theorem setL2_mem (s : State) (d l : Nat) (st : LineState) : (setL2 s d l st).mem = s.mem := rfl
@[simp] theorem setL2_behind (s : State) (d l : Nat) (st : LineState) : (setL2 s d l st).behind = s.behind := rfl
@[simp] theorem setL2_poison (s : State) (d l : Nat) (st : LineState) : (setL2 s d l st).poison = s.poison := rfl
@[simp] theorem setL2_mgmt (s : State) (d l : Nat) (st : LineState) : (setL2 s d l st).mgmt = s.mgmt := rfl
@[simp] theorem setL2_pools (s : State) (d l : Nat) (st : LineState) : (setL2 s d l st).pools = s.pools := rfl
@[simp] theorem setL2_grids (s : State) (d l : Nat) (st : LineState) : (setL2 s d l st).grids = s.grids := rfl
@[simp] theorem setL2_gridCtr (s : State) (d l : Nat) (st : LineState) : (setL2 s d l st).gridCtr = s.gridCtr := rfl
@[simp] theorem setL2_teams (s : State) (d l : Nat) (st : LineState) : (setL2 s d l st).teams = s.teams := rfl
@[simp] theorem setL2_groups (s : State) (d l : Nat) (st : LineState) : (setL2 s d l st).groups = s.groups := rfl
@[simp] theorem setL2_uidCtr (s : State) (d l : Nat) (st : LineState) : (setL2 s d l st).uidCtr = s.uidCtr := rfl
@[simp] theorem setL2_spaces (s : State) (d l : Nat) (st : LineState) : (setL2 s d l st).spaces = s.spaces := rfl
@[simp] theorem setL2_cores (s : State) (d l : Nat) (st : LineState) : (setL2 s d l st).cores = s.cores := rfl
@[simp] theorem setL2_routeq (s : State) (d l : Nat) (st : LineState) : (setL2 s d l st).routeq = s.routeq := rfl
@[simp] theorem setL2_opCtr (s : State) (d l : Nat) (st : LineState) : (setL2 s d l st).opCtr = s.opCtr := rfl
@[simp] theorem setL2_seqs (s : State) (d l : Nat) (st : LineState) : (setL2 s d l st).seqs = s.seqs := rfl
@[simp] theorem setL2_colls (s : State) (d l : Nat) (st : LineState) : (setL2 s d l st).colls = s.colls := rfl
@[simp] theorem setL2_collCtr (s : State) (d l : Nat) (st : LineState) : (setL2 s d l st).collCtr = s.collCtr := rfl
@[simp] theorem setL2_windows (s : State) (d l : Nat) (st : LineState) : (setL2 s d l st).windows = s.windows := rfl
@[simp] theorem setL2_notes (s : State) (d l : Nat) (st : LineState) : (setL2 s d l st).notes = s.notes := rfl
@[simp] theorem setL2_peers (s : State) (d l : Nat) (st : LineState) : (setL2 s d l st).peers = s.peers := rfl
@[simp] theorem setL2_links (s : State) (d l : Nat) (st : LineState) : (setL2 s d l st).links = s.links := rfl
@[simp] theorem setL2_protErrs (s : State) (d l : Nat) (st : LineState) : (setL2 s d l st).protErrs = s.protErrs := rfl
@[simp] theorem setL2_rings (s : State) (d l : Nat) (st : LineState) : (setL2 s d l st).rings = s.rings := rfl
@[simp] theorem setL2_ctls (s : State) (d l : Nat) (st : LineState) : (setL2 s d l st).ctls = s.ctls := rfl
@[simp] theorem setL2_islands (s : State) (d l : Nat) (st : LineState) : (setL2 s d l st).islands = s.islands := rfl
@[simp] theorem setL2_retired (s : State) (d l : Nat) (st : LineState) : (setL2 s d l st).retired = s.retired := rfl
@[simp] theorem setL2_ec (s : State) (d l : Nat) (st : LineState) : (setL2 s d l st).ec = s.ec := rfl
@[simp] theorem setL2_badSlots (s : State) (d l : Nat) (st : LineState) : (setL2 s d l st).badSlots = s.badSlots := rfl

end Sys2Proof.Laws
end

