-- ==== Sys2Proof/Laws/Issue.lean ====
section
/-! SUPPORT. The issue of an instruction: once its conditions hold, issue is what its meaning makes of the waited stream. -/

set_option Elab.async false

namespace Sys2Proof.Laws

open Sys2Proof.Machine
open Sys2Proof.Safety

theorem ctx_of_issues {how : IssueHow} {s : State} {x : Ctx} (h : issues how s x = true) : ctx? s = some x := by
  simp only [issues, Bool.and_eq_true, decide_eq_true_eq] at h
  exact h.1.1.1.1.1

/-- The outcome that a meaning's result stands for, once the instruction issues. -/
def outcome (how : IssueHow) (y : Ctx) : Res → Host.Outcome State Fault Refusal
  | .done t => .next (afterDone how y t)
  | .flow t => .next (afterFlow how y t)
  | .stall t => .next t
  | .fault t c d a => .next (streamFault t y c d a)
  | .trap t tr => .next (takeTrap t y.uid y.e tr)

/-- An instruction that issues has its own effect. -/
theorem issue_eq {how : IssueHow} {s : State} {x : Ctx} (body : Ctx → State → Res) (h : issues how s x = true) :
    issue how body s = outcome how (waited how x) (body (waited how x) (waitedState how x s)) := by
  have hx := ctx_of_issues h
  simp only [issues, Bool.and_eq_true, Bool.or_eq_true, decide_eq_true_eq, Bool.not_eq_true', bne_iff_ne, ne_eq,
    Option.isNone_iff_eq_none] at h
  obtain ⟨⟨⟨⟨⟨-, hw⟩, ht⟩, hc⟩, hb⟩, hp⟩ := h
  have hH : (waited how x).inH = x.inH := by unfold waited; split <;> rfl
  have hT : (waited how x).t = x.t := by unfold waited; split <;> rfl
  have hE : (waited how x).e = x.e := by unfold waited; split <;> rfl
  unfold issue
  rw [hx]
  have h1 : (how.wait && !resultsReady x.g x.e) = false := by
    rcases hw with hw | hw <;> simp [hw]
  have h1' : (how.wait && x.g.hold && !(x.g.split x.e).pend.isEmpty) = false := by
    rcases hw with hw | ⟨-, hw | hw⟩ <;> simp [hw]
  have h2 : (!x.inH && (x.g.split x.e).trap.isSome) = false := by
    rcases ht with ht | ht <;> simp [ht]
  have h3 : (decide ((waited how x).g.budget = 0) && !(waited how x).inH && !how.isYield) = false := by
    rcases hb with (hb | hb) | hb <;> simp [hb, hH]
  have h4 : ((waited how x).t.twin.isSome && (how.compare (waited how x) || decide (4096 ≤ (waited how x).t.writes))
      && !((waited how x).g.split (waited how x).e).compared) = false := by
    rw [hT, hE]
    rcases hp with (hp | ⟨hp, hq⟩) | hp
    · simp [hp]
    · have : ¬ 4096 ≤ x.t.writes := by omega
      simp [hp, this]
    · simp [hp]
  simp only [h1, h1', h2, h3, h4, hc, Bool.false_eq_true, if_false]
  cases body (waited how x) (waitedState how x s) <;> rfl

/-- An instruction that only writes registers: it answers a next state, with its writes and flags made. -/
theorem issueRegs_eq {how : IssueHow} {s : State} {x : Ctx} (f : Ctx → List RegWrite × BitVec 6)
    (h : issues how s x = true) :
    issueRegs how f s = .next (regsNext how s x (f (waited how x)).1 (f (waited how x)).2) := by
  unfold issueRegs
  rw [issue_eq _ h]; rfl

/-- An instruction whose results land later: it answers a next state, with its results outstanding. -/
theorem issueVar_eq {how : IssueHow} {s : State} {x : Ctx} (f : Ctx → List RegWrite × BitVec 6)
    (h : issues how s x = true) :
    issueVar how f s = .next (varNext how s x (f (waited how x)).1 (f (waited how x)).2) := by
  unfold issueVar
  rw [issue_eq _ h]; rfl

end Sys2Proof.Laws
end

