-- ==== Sys2Proof/Laws/Map.lean ====
section
/-! SUPPORT. Finite maps: what a store leaves at every key, and that every operation keeps the canonical form. -/

set_option Elab.async false

namespace Sys2Proof.Laws

variable {α : Type} {w : Nat}

/-! ### Reading after storing -/

@[simp] theorem kget_kset_same (m : KMap α) (k : Nat) (v : α) : kget (kset m k v) k = some v := by
  induction m with
  | nil => simp [kset, kget]
  | cons e m ih =>
    obtain ⟨j, u⟩ := e
    simp only [kset]
    split
    · simp [kget]
    · split
      · simp [kget]
      · simp [kget, *]

theorem kget_kset_other (m : KMap α) {k j : Nat} (v : α) (h : j ≠ k) : kget (kset m k v) j = kget m j := by
  induction m with
  | nil => simp only [kset, kget]; rw [if_neg (Ne.symm h)]; split <;> rfl
  | cons e m ih =>
    obtain ⟨i, u⟩ := e
    simp only [kset]
    split
    · rename_i hik
      subst hik
      simp only [kget]
      rw [if_neg (Ne.symm h), if_neg (Ne.symm h)]
    · split
      · simp only [kget]
        rw [if_neg (Ne.symm h)]
        split
        · rename_i h1
          rw [if_neg (by omega), if_pos (by omega)]
        · rfl
      · simp only [kget, ih]

theorem kget_kset (m : KMap α) (k j : Nat) (v : α) : kget (kset m k v) j = if j = k then some v else kget m j := by
  split
  · subst_vars; simp
  · exact kget_kset_other m v ‹_›

/-- Nothing is listed below the first key of a map in canonical form. -/
theorem kget_below {m : KMap α} {b k : Nat} (h : kwfFrom b m = true) (hk : k < b) : kget m k = none := by
  cases m with
  | nil => rfl
  | cons e m =>
    obtain ⟨j, u⟩ := e
    simp only [kwfFrom, Bool.and_eq_true, decide_eq_true_eq] at h
    simp only [kget]
    rw [if_neg (by omega), if_pos (by omega)]

theorem kget_kdel_same {m : KMap α} {b : Nat} (h : kwfFrom b m = true) (k : Nat) : kget (kdel m k) k = none := by
  induction m generalizing b with
  | nil => rfl
  | cons e m ih =>
    obtain ⟨j, u⟩ := e
    simp only [kwfFrom, Bool.and_eq_true, decide_eq_true_eq] at h
    simp only [kdel]
    split
    · subst_vars; exact kget_below h.2 (by omega)
    · split
      · simp only [kget]; rw [if_neg ‹_›, if_pos ‹_›]
      · simp only [kget]; rw [if_neg ‹_›, if_neg ‹_›]; exact ih h.2

theorem kget_kdel_other {m : KMap α} {b : Nat} (h : kwfFrom b m = true) {k j : Nat} (hj : j ≠ k) :
    kget (kdel m k) j = kget m j := by
  induction m generalizing b with
  | nil => rfl
  | cons e m ih =>
    obtain ⟨i, u⟩ := e
    simp only [kwfFrom, Bool.and_eq_true, decide_eq_true_eq] at h
    simp only [kdel]
    split
    · rename_i hik
      subst hik
      simp only [kget]
      rw [if_neg (Ne.symm hj)]
      split
      · exact kget_below h.2 (by omega)
      · rfl
    · split
      · rfl
      · simp only [kget, ih h.2]

/-- What an FMap reads after a store, in canonical form. -/
theorem fget_fset {m : FMap w} (h : fwf m = true) (k j : Nat) (v : BitVec w) :
    fget (fset m k v) j = if j = k then v else fget m j := by
  have hk : kwfFrom 0 m = true := by
    simp only [fwf, kwf, Bool.and_eq_true] at h; exact h.1
  unfold fget fset
  split
  · subst_vars
    split
    · subst_vars; rw [kget_kdel_same hk]; rfl
    · rw [kget_kdel_other hk ‹_›]
  · rw [kget_kset]; split <;> rfl

/-! ### The canonical form is kept -/

theorem kwfFrom_mono {m : KMap α} {a b : Nat} (h : kwfFrom b m = true) (hab : a ≤ b) : kwfFrom a m = true := by
  cases m with
  | nil => rfl
  | cons e m =>
    simp only [kwfFrom, Bool.and_eq_true, decide_eq_true_eq] at h ⊢
    exact ⟨by omega, h.2⟩

theorem kset_wfFrom {m : KMap α} {b k : Nat} (h : kwfFrom b m = true) (hk : b ≤ k) (v : α) :
    kwfFrom b (kset m k v) = true := by
  induction m generalizing b with
  | nil => simp [kset, kwfFrom, hk]
  | cons e m ih =>
    obtain ⟨j, u⟩ := e
    simp only [kwfFrom, Bool.and_eq_true, decide_eq_true_eq] at h
    simp only [kset]
    split
    · subst_vars; simp [kwfFrom, hk, h.2]
    · split
      · simp only [kwfFrom, Bool.and_eq_true, decide_eq_true_eq]; exact ⟨hk, by omega, h.2⟩
      · simp only [kwfFrom, Bool.and_eq_true, decide_eq_true_eq]; exact ⟨h.1, ih h.2 (by omega)⟩

theorem kdel_wfFrom {m : KMap α} {b : Nat} (h : kwfFrom b m = true) (k : Nat) : kwfFrom b (kdel m k) = true := by
  induction m generalizing b with
  | nil => rfl
  | cons e m ih =>
    obtain ⟨j, u⟩ := e
    simp only [kwfFrom, Bool.and_eq_true, decide_eq_true_eq] at h
    simp only [kdel]
    split
    · exact kwfFrom_mono h.2 (by omega)
    · split
      · simp only [kwfFrom, Bool.and_eq_true, decide_eq_true_eq]; exact h
      · simp only [kwfFrom, Bool.and_eq_true, decide_eq_true_eq]; exact ⟨h.1, ih h.2⟩

theorem filter_wfFrom {m : KMap α} {b : Nat} (h : kwfFrom b m = true) (p : Nat × α → Bool) :
    kwfFrom b (m.filter p) = true := by
  induction m generalizing b with
  | nil => rfl
  | cons e m ih =>
    simp only [kwfFrom, Bool.and_eq_true, decide_eq_true_eq] at h
    simp only [List.filter]
    split
    · simp only [kwfFrom, Bool.and_eq_true, decide_eq_true_eq]; exact ⟨h.1, ih h.2⟩
    · exact kwfFrom_mono (ih h.2) (by omega)

theorem kset_all {m : KMap α} (p : Nat × α → Bool) (k : Nat) (v : α) (h : m.all p = true) (hv : p (k, v) = true) :
    (kset m k v).all p = true := by
  induction m with
  | nil => simp [kset, hv]
  | cons e m ih =>
    obtain ⟨j, u⟩ := e
    simp only [List.all_cons, Bool.and_eq_true] at h
    simp only [kset]
    split
    · simp [hv, h.2]
    · split
      · simp only [List.all_cons, hv, h.1, h.2, Bool.and_self]
      · simp only [List.all_cons, h.1, ih h.2, Bool.and_self]

theorem kdel_all {m : KMap α} (p : Nat × α → Bool) (k : Nat) (h : m.all p = true) : (kdel m k).all p = true := by
  induction m with
  | nil => rfl
  | cons e m ih =>
    obtain ⟨j, u⟩ := e
    simp only [List.all_cons, Bool.and_eq_true] at h
    simp only [kdel]
    split
    · exact h.2
    · split
      · simp only [List.all_cons, h.1, h.2, Bool.and_self]
      · simp only [List.all_cons, h.1, ih h.2, Bool.and_self]

theorem filter_all {m : List α} (p q : α → Bool) (h : m.all p = true) : (m.filter q).all p = true := by
  rw [List.all_eq_true] at h ⊢
  intro e he
  exact h e (List.mem_filter.mp he).1

theorem fwf_nil : fwf ([] : FMap w) = true := rfl

theorem fset_wf {m : FMap w} (h : fwf m = true) (k : Nat) (v : BitVec w) : fwf (fset m k v) = true := by
  simp only [fwf, kwf, Bool.and_eq_true] at h ⊢
  unfold fset
  split
  · exact ⟨kdel_wfFrom h.1 k, kdel_all _ k h.2⟩
  · exact ⟨kset_wfFrom h.1 (Nat.zero_le k) v, kset_all _ k v h.2 (by simpa using ‹_›)⟩

theorem fwf_filter {m : FMap w} (h : fwf m = true) (p : Nat × BitVec w → Bool) : fwf (m.filter p) = true := by
  simp only [fwf, kwf, Bool.and_eq_true] at h ⊢
  exact ⟨filter_wfFrom h.1 p, filter_all _ _ h.2⟩

theorem fsetAll_wf {m : FMap w} (h : fwf m = true) (l : List (Nat × BitVec w)) : fwf (fsetAll m l) = true := by
  unfold fsetAll
  induction l generalizing m with
  | nil => exact h
  | cons e l ih => exact ih (fset_wf h e.1 e.2)

theorem fclear_wf {m : FMap w} (h : fwf m = true) (lo n : Nat) : fwf (fclear m lo n) = true := fwf_filter h _

/-- The value at a key after a change of it. -/
theorem kget_kmod (m : KMap α) (k j : Nat) (f : α → α) :
    kget (kmod m k f) j = if j = k then (kget m k).map f else kget m j := by
  unfold kmod
  split
  · rename_i v hv
    rw [kget_kset, hv]; rfl
  · rename_i hv
    split
    · subst_vars; rw [hv]; rfl
    · rfl

theorem kmod_all {m : KMap α} (p : Nat × α → Bool) (k : Nat) (f : α → α) (h : m.all p = true)
    (hf : ∀ v, kget m k = some v → p (k, f v) = true) : (kmod m k f).all p = true := by
  unfold kmod
  split
  · exact kset_all p k _ h (hf _ ‹_›)
  · exact h

/-- What is stored satisfies what all entries do. -/
theorem kget_all {m : KMap α} {p : Nat × α → Bool} (h : m.all p = true) {k : Nat} {v : α} (hv : kget m k = some v) :
    p (k, v) = true := by
  induction m with
  | nil => simp [kget] at hv
  | cons e m ih =>
    obtain ⟨j, u⟩ := e
    simp only [List.all_cons, Bool.and_eq_true] at h
    simp only [kget] at hv
    split at hv
    · cases hv; subst_vars; exact h.1
    · split at hv
      · cases hv
      · exact ih h.2 hv

end Sys2Proof.Laws
end

