-- ==== Sys2Proof/Laws/Memory.lean ====
section
/-! SUPPORT. Memory: a read after a write, what a write leaves alone, and that every memory operation keeps the canonical
form (Memory.wf). -/

set_option Elab.async false

namespace Sys2Proof.Laws

open Sys2Proof.Machine

/-! ### Reading after writing -/

/-- A byte after a list of bytes has been stored. -/
theorem fget_writeList {m : FMap 8} (h : fwf m = true) (a : Nat) (l : List Byte) (k : Nat) :
    fget (writeList m a l) k = if a ≤ k ∧ k < a + l.length then l.getD (k - a) 0 else fget m k := by
  induction l generalizing m a with
  | nil =>
    simp only [writeList, List.length_nil]
    rw [if_neg (by omega)]
  | cons b l ih =>
    simp only [writeList, List.length_cons]
    rw [ih (fset_wf h a b), fget_fset h]
    by_cases hk : k = a
    · subst hk
      rw [if_neg (by omega), if_pos rfl, if_pos (by omega)]
      simp
    · by_cases hr : a + 1 ≤ k ∧ k < a + 1 + l.length
      · rw [if_pos hr, if_pos (by omega)]
        obtain ⟨n, hn⟩ : ∃ n, k - a = n + 1 := ⟨k - a - 1, by omega⟩
        rw [hn, List.getD_cons_succ, show k - (a + 1) = n by omega]
      · rw [if_neg hr, if_neg hk, if_neg (by omega)]

/-- A byte outside the stored ones is as before. -/
theorem fget_writeList_outside {m : FMap 8} (h : fwf m = true) (a : Nat) (l : List Byte) {k : Nat}
    (hk : k < a ∨ a + l.length ≤ k) : fget (writeList m a l) k = fget m k := by
  rw [fget_writeList h, if_neg (by omega)]

@[simp] theorem toBytes_length (n v : Nat) : (toBytes n v).length = n := by
  induction n generalizing v with
  | zero => rfl
  | succ n ih => simp [toBytes, ih]

/-- A byte outside the stored value is as before. -/
theorem fget_writeN_outside {m : FMap 8} (h : fwf m = true) (a n v : Nat) {k : Nat} (hk : k < a ∨ a + n ≤ k) :
    fget (writeN m a n v) k = fget m k := fget_writeList_outside h a _ (by simpa using hk)

/-- The bytes from a are l where each reads so. -/
theorem readList_eq {m : FMap 8} (a : Nat) (l : List Byte) (h : ∀ i, i < l.length → fget m (a + i) = l.getD i 0) :
    readList m a l.length = l := by
  induction l generalizing a with
  | nil => rfl
  | cons b l ih =>
    simp only [List.length_cons, readList]
    congr 1
    · exact h 0 (by simp)
    · refine ih (a + 1) fun i hi => ?_
      have := h (i + 1) (by simpa using hi)
      rw [show a + 1 + i = a + (i + 1) by omega, this, List.getD_cons_succ]

theorem readList_writeList {m : FMap 8} (h : fwf m = true) (a : Nat) (l : List Byte) :
    readList (writeList m a l) a l.length = l := by
  refine readList_eq a l fun i hi => ?_
  rw [fget_writeList h, if_pos (by omega), show a + i - a = i by omega]

theorem ofBytes_toBytes (n v : Nat) : ofBytes (toBytes n v) = v % 256 ^ n := by
  induction n generalizing v with
  | zero => simp [toBytes, ofBytes, Nat.mod_one]
  | succ n ih =>
    simp only [toBytes, ofBytes, ih, BitVec.toNat_ofNat]
    have := Nat.mod_mul (x := v) (a := 256) (b := 256 ^ n)
    rw [show 256 ^ (n + 1) = 256 * 256 ^ n by rw [pow_succ, Nat.mul_comm], this]

/-- A read of n bytes after a write of them gives the value written, modulo their width. -/
theorem readN_writeN {m : FMap 8} (h : fwf m = true) (a n v : Nat) : readN (writeN m a n v) a n = v % 256 ^ n := by
  unfold readN writeN
  have := readList_writeList h a (toBytes n v)
  rw [toBytes_length] at this
  rw [this, ofBytes_toBytes]

/-! ### The canonical form -/

theorem writeList_wf {m : FMap 8} (h : fwf m = true) (a : Nat) (l : List Byte) : fwf (writeList m a l) = true := by
  induction l generalizing m a with
  | nil => exact h
  | cons b l ih => exact ih (fset_wf h a b) (a + 1)

theorem writeN_wf {m : FMap 8} (h : fwf m = true) (a n v : Nat) : fwf (writeN m a n v) = true := writeList_wf h a _

theorem copyGranule_wf {m : Memory} (h : fwf m = true) (gran dst : Nat) : fwf (copyGranule m gran dst) = true :=
  fsetAll_wf (fclear_wf h _ _) _

/-- Two maps in canonical form, the second above the first. -/
theorem kwfFrom_append {α : Type} {m n : KMap α} {b c : Nat} (hm : kwfFrom b m = true) (hn : kwfFrom c n = true)
    (hb : b ≤ c) (hk : ∀ e ∈ m, e.1 < c) : kwfFrom b (m ++ n) = true := by
  induction m generalizing b with
  | nil => exact kwfFrom_mono hn hb
  | cons e m ih =>
    simp only [kwfFrom, Bool.and_eq_true, decide_eq_true_eq, List.cons_append] at hm ⊢
    have he := hk e (by simp)
    exact ⟨hm.1, ih hm.2 (by omega) fun x hx => hk x (by simp [hx])⟩

/-- Every key of a map in canonical form from b is at least b. -/
theorem kwfFrom_keys {α : Type} {m : KMap α} {b : Nat} (h : kwfFrom b m = true) : ∀ e ∈ m, b ≤ e.1 := by
  induction m generalizing b with
  | nil => intro e he; cases he
  | cons x m ih =>
    simp only [kwfFrom, Bool.and_eq_true, decide_eq_true_eq] at h
    intro e he
    rcases List.mem_cons.mp he with rfl | he
    · exact h.1
    · have := ih h.2 e he; omega

/-- The canonical form of a map whose keys have a new lower bound. -/
theorem kwfFrom_raise {α : Type} {m : KMap α} {b c : Nat} (h : kwfFrom b m = true) (hc : ∀ e ∈ m, c ≤ e.1) :
    kwfFrom c m = true := by
  cases m with
  | nil => rfl
  | cons x m =>
    simp only [kwfFrom, Bool.and_eq_true, decide_eq_true_eq] at h ⊢
    exact ⟨hc x (by simp), h.2⟩

/-- The canonical form after a shift of keys that keeps their order. -/
theorem kwfFrom_map {α : Type} {m : KMap α} {b c : Nat} (f : Nat → Nat) (h : kwfFrom b m = true)
    (hf : ∀ i ∈ m, ∀ j ∈ m, i.1 < j.1 → f i.1 < f j.1) (hc : ∀ e ∈ m, c ≤ f e.1) :
    kwfFrom c (m.map fun e => (f e.1, e.2)) = true := by
  induction m generalizing b c with
  | nil => rfl
  | cons x m ih =>
    simp only [kwfFrom, Bool.and_eq_true, decide_eq_true_eq, List.map_cons] at h ⊢
    refine ⟨hc x (by simp), ih h.2 (fun i hi j hj => hf i (by simp [hi]) j (by simp [hj])) fun e he => ?_⟩
    have h1 := kwfFrom_keys h.2 e he
    have := hf x (by simp) e (by simp [he]) (by omega)
    omega

/-- The renumbering of a package keeps the canonical form of what it moves. -/
theorem renumber_wf {m : FMap 8} (h : fwf m = true) (unit p q : Nat) (hu : 0 < unit) :
    fwf (renumber unit p q m) = true := by
  unfold renumber
  split
  · exact h
  simp only [fwf, kwf, Bool.and_eq_true] at h ⊢
  have own_keys : ∀ e ∈ m.filter fun e => decide (e.1 / unit = p), e.1 / unit = p := by
    intro e he; simpa using (List.mem_filter.mp he).2
  constructor
  · have hown : kwfFrom (q * unit)
        ((m.filter fun e => decide (e.1 / unit = p)).map fun e => (e.1 % unit + q * unit, e.2)) = true := by
      refine kwfFrom_map (fun k => k % unit + q * unit) (filter_wfFrom h.1 _) (fun i hi j hj hij => ?_)
        fun e _ => Nat.le_add_left _ _
      have hi' := own_keys i hi
      have hj' := own_keys j hj
      have d1 := Nat.div_add_mod i.1 unit
      have d2 := Nat.div_add_mod j.1 unit
      rw [hi'] at d1
      rw [hj'] at d2
      omega
    have ownlt : ∀ e ∈ (m.filter fun e => decide (e.1 / unit = p)).map fun e => (e.1 % unit + q * unit, e.2),
        e.1 < (q + 1) * unit := by
      intro e he
      obtain ⟨x, -, rfl⟩ := List.mem_map.mp he
      have := Nat.mod_lt x.1 hu
      simp only [Nat.add_mul, Nat.one_mul]
      omega
    set rest := m.filter fun e => decide (e.1 / unit ≠ p ∧ e.1 / unit ≠ q) with hrest
    have hr : kwfFrom 0 rest = true := filter_wfFrom h.1 _
    have hi : kwfFrom ((q + 1) * unit) (rest.filter fun e => decide (q < e.1 / unit)) = true := by
      refine kwfFrom_raise (filter_wfFrom hr _) fun e he => ?_
      have : q + 1 ≤ e.1 / unit := by simpa using (List.mem_filter.mp he).2
      exact (Nat.le_div_iff_mul_le hu).mp this
    have h2 := kwfFrom_append hown hi (Nat.mul_le_mul_right _ (by omega)) ownlt
    rw [List.append_assoc]
    refine kwfFrom_append (filter_wfFrom hr _) h2 (Nat.zero_le _) fun e he => ?_
    have : e.1 / unit < q := by simpa using (List.mem_filter.mp he).2
    exact (Nat.div_lt_iff_lt_mul hu).mp this
  · rw [List.all_append, List.all_append, Bool.and_eq_true, Bool.and_eq_true]
    refine ⟨⟨filter_all _ _ (filter_all _ _ h.2), ?_⟩, filter_all _ _ (filter_all _ _ h.2)⟩
    rw [List.all_eq_true]
    intro e he
    obtain ⟨x, hx, rfl⟩ := List.mem_map.mp he
    exact (List.all_eq_true.mp h.2) x (List.mem_filter.mp hx).1

end Sys2Proof.Laws
end

