-- ==== Sys2Proof/Laws/Seen.lean ====
section
/-! SUPPORT. What a stream has seen of the writes of engines and link sequencers (R242, R336): the reads and the notes of them change
nothing else, and where nothing is unseen a read finds the bytes as they are. -/

namespace Sys2Proof.Laws

open Sys2Proof Sys2Proof.Machine

theorem kget_seeAll (keys : List Nat) (f : Unseen → Bool) (m : KMap (List Unseen)) (a : Nat) :
    kget (seeAll keys f m) a = (kget m a).map fun l => l.map fun v => if f v then v.add keys else v := by
  induction m with
  | nil => rfl
  | cons e m ih =>
    obtain ⟨k, v⟩ := e
    simp only [seeAll, kmapV, List.map_cons, kget] at ih ⊢
    split
    · simp_all
    · split <;> simp_all

/-- Where no byte has an unseen write, a read finds the bytes as they are. -/
theorem bytesBehind_nil (keys : List Nat) (prev : Option (Nat × Nat)) (c a : Nat) (l : List Byte) :
    bytesBehind [] keys prev c a l = (l, []) := by
  induction l generalizing prev c a with
  | nil => rfl
  | cons b l ih => simp [bytesBehind, kget, ih]

@[simp] theorem seeBytes_mem (s : State) (keys : List Nat) (a n : Nat) : (seeBytes s keys a n).mem = s.mem := by
  unfold seeBytes; split <;> rfl

@[simp] theorem seeBytes_groups (s : State) (keys : List Nat) (a n : Nat) : (seeBytes s keys a n).groups = s.groups := by
  unfold seeBytes; split <;> rfl

@[simp] theorem seeBytes_teams (s : State) (keys : List Nat) (a n : Nat) : (seeBytes s keys a n).teams = s.teams := by
  unfold seeBytes; split <;> rfl

@[simp] theorem groupBytes_mem (found s : State) (keys : List Nat) (held : KMap Byte) (pa : Nat) (l : List Byte) :
    (groupBytes found s keys held pa l).2.mem = s.mem := by
  unfold groupBytes; split <;> rfl

@[simp] theorem groupBytes_groups (found s : State) (keys : List Nat) (held : KMap Byte) (pa : Nat) (l : List Byte) :
    (groupBytes found s keys held pa l).2.groups = s.groups := by
  unfold groupBytes; split <;> rfl

@[simp] theorem groupBytes_teams (found s : State) (keys : List Nat) (held : KMap Byte) (pa : Nat) (l : List Byte) :
    (groupBytes found s keys held pa l).2.teams = s.teams := by
  unfold groupBytes; split <;> rfl

end Sys2Proof.Laws
end

