-- ==== Sys2Proof/Tests/Slice0.lean ====
section
/-! SUPPORT. Tests: words written out from the encodings decode to their instructions, ill-formed terms are refused, single steps have
the results that the spec's rules give, and the hypotheses of every statement are met by a state and operands. -/

set_option Elab.async false

namespace Sys2Proof.Tests

open Sys2Proof.Machine

/-! ### Decoding: words laid out from R73 to R77, R84 to R92 and R304 -/

/-- The word of nbits bits decodes to i. -/
noncomputable def d? (nbits w : Nat) (i : Instr) : Bool := decodeTableWord nbits w == some i

def bw (d a b : Nat) : BaseArgs :=
  { y := false, d := BitVec.ofNat 7 d, a := BitVec.ofNat 7 a, b := BitVec.ofNat 7 b }

/-- The fields of an extended form, switch marker set; the guard is P2 sense 1 where gn is set, else the unguarded P7. -/
def xw (d sub a b c : Nat) (gn : Bool) (lit : Option DWord) : ExtArgs :=
  { y := true, d := BitVec.ofNat 11 d, sub := BitVec.ofNat 10 sub, a := BitVec.ofNat 11 a, b := BitVec.ofNat 11 b
    c := BitVec.ofNat 11 c, s := 0, sp := 0, fs := 0, g := if gn then 2 else 7, gn := gn, rm := 0, sat := false, sh := 0
    aux := 0, lit := lit }

theorem test_control_words :
  [d? 32 0x4 (.nop true), d? 32 0xFFFFD808 (.bra false (-5)), d? 96 0x7FFFFFFFFC00000009 (.braL false 0x7FFFFFFFFC),
   d? 32 0x25E810 (.bc false 5 true 3 9), d? 96 0x7FFFFFFFFC0001E811 (.bcL false 5 true 3 0x7FFFFFFFFC),
   d? 32 0x246818 (.bcu false 5 true 9), d? 96 0x7FFFFFFFFC00006819 (.bcuL false 5 true 0x7FFFFFFFFC),
   d? 32 0x280020 (.jmpi false 10), d? 32 0x3D2828 (.call false 0xA5 7),
   d? 96 0x7FFFFFFFFC00052829 (.callL false 0xA5 0x7FFFFFFFFC), d? 32 0x552830 (.calli false 0xA5 10),
   d? 32 0x3C (.ret true), d? 32 0x3040 (.regang false 6), d? 32 0x5848 (.splitq false 11),
   d? 32 0x345850 (.loop false 11 13), d? 32 0x2D5E058 (.loopi false 0xABC 5), d? 32 0x60 (.leave false),
   d? 32 0x68 (.exit false), d? 32 0x2D5E070 (.yield false 0xABC 5), d? 32 0x40878 (.trap false 0x81),
   d? 32 0x41080 (.brk false 0x82)].all id = true := by decide +kernel

theorem test_scalar_words_1 :
  [d? 32 0x283108 (.smov (bw 6 10 0)), d? 96 0xE0000000000A0000310E (.smovX (xw 6 0 10 0 0 false none)),
   d? 32 0x10283110 (.sadd (bw 6 10 8)), d? 96 0xE0000000400A00003116 (.saddX (xw 6 0 10 8 0 false none)),
   d? 96 0x123456789ABCDEF000283111 (.saddL (bw 6 10 0) 0x123456789ABCDEF0), d? 32 0x10283118 (.ssub (bw 6 10 8)),
   d? 96 0xE0000000400A0000311E (.ssubX (xw 6 0 10 8 0 false none)),
   d? 96 0x123456789ABCDEF000283119 (.ssubL (bw 6 10 0) 0x123456789ABCDEF0), d? 32 0x10283120 (.smul (bw 6 10 8)),
   d? 96 0xE0000000400A00003126 (.smulX (xw 6 0 10 8 0 false none)),
   d? 96 0x123456789ABCDEF000283121 (.smulL (bw 6 10 0) 0x123456789ABCDEF0), d? 32 0x10283128 (.smulh (bw 6 10 8)),
   d? 96 0xE0000000400A0040312E (.smulhX (xw 6 1 10 8 0 false none)),
   d? 96 0x123456789ABCDEF000283129 (.smulhL (bw 6 10 0) 0x123456789ABCDEF0), d? 32 0x10283130 (.sand (bw 6 10 8)),
   d? 96 0xE0000000400A00003136 (.sandX (xw 6 0 10 8 0 false none)),
   d? 96 0x123456789ABCDEF000283131 (.sandL (bw 6 10 0) 0x123456789ABCDEF0), d? 32 0x10283138 (.sor (bw 6 10 8)),
   d? 96 0xE0000000400A0000313E (.sorX (xw 6 0 10 8 0 false none)),
   d? 96 0x123456789ABCDEF000283139 (.sorL (bw 6 10 0) 0x123456789ABCDEF0), d? 32 0x10283140 (.sxor (bw 6 10 8)),
   d? 96 0xE0000000400A00003146 (.sxorX (xw 6 0 10 8 0 false none)),
   d? 96 0x123456789ABCDEF000283141 (.sxorL (bw 6 10 0) 0x123456789ABCDEF0), d? 32 0x10283148 (.sshl (bw 6 10 8)),
   d? 96 0xE0000000400A0000314E (.sshlX (xw 6 0 10 8 0 false none))].all id = true := by decide +kernel

theorem test_scalar_words_2 :
  [d? 96 0x123456789ABCDEF000283149 (.sshlL (bw 6 10 0) 0x123456789ABCDEF0), d? 32 0x10283150 (.sshr (bw 6 10 8)),
   d? 96 0xE0000000400A00003156 (.sshrX (xw 6 0 10 8 0 false none)),
   d? 96 0x123456789ABCDEF000283151 (.sshrL (bw 6 10 0) 0x123456789ABCDEF0), d? 32 0x10283158 (.ssra (bw 6 10 8)),
   d? 96 0xE0000000400A0000315E (.ssraX (xw 6 0 10 8 0 false none)),
   d? 96 0x123456789ABCDEF000283159 (.ssraL (bw 6 10 0) 0x123456789ABCDEF0), d? 32 0x10283160 (.smin (bw 6 10 8)),
   d? 96 0xE0000000400A00403166 (.sminX (xw 6 1 10 8 0 false none)),
   d? 96 0x123456789ABCDEF000283161 (.sminL (bw 6 10 0) 0x123456789ABCDEF0), d? 32 0x10283168 (.smax (bw 6 10 8)),
   d? 96 0xE0000000400A0040316E (.smaxX (xw 6 1 10 8 0 false none)),
   d? 96 0x123456789ABCDEF000283169 (.smaxL (bw 6 10 0) 0x123456789ABCDEF0), d? 32 0x10283170 (.ssel (bw 6 10 8)),
   d? 96 0xE0000000400A00003176 (.sselX (xw 6 0 10 8 0 false none)),
   d? 96 0x123456789ABCDEF000283171 (.sselL (bw 6 10 0) 0x123456789ABCDEF0), d? 32 0x283178 (.spopc (bw 6 10 0)),
   d? 96 0xE0000000000A0000317E (.spopcX (xw 6 0 10 0 0 false none)), d? 32 0x10283180 (.scmp (bw 6 10 8)),
   d? 96 0xE0000000400A00003186 (.scmpX (xw 6 0 10 8 0 false none)),
   d? 96 0x123456789ABCDEF000283181 (.scmpL (bw 6 10 0) 0x123456789ABCDEF0), d? 32 0x103188 (.vote (bw 6 4 0)),
   d? 96 0xE000000000040040318E (.voteX (xw 6 1 4 0 0 false none)), d? 32 0xC103190 (.cand (bw 6 4 6)),
   d? 96 0xE0000000300400403196 (.candX (xw 6 1 4 6 0 false none))].all id = true := by decide +kernel

theorem test_scalar_words_3 :
  [d? 32 0xC103198 (.cor (bw 6 4 6)), d? 96 0xE000000030040040319E (.corX (xw 6 1 4 6 0 false none)),
   d? 32 0xC1031A0 (.cxor (bw 6 4 6)), d? 96 0xE00000003004004031A6 (.cxorX (xw 6 1 4 6 0 false none)),
   d? 32 0x2831A8 (.setc (bw 6 10 0)), d? 96 0xE0000000000A000031AE (.setcX (xw 6 0 10 0 0 false none)),
   d? 32 0xFFF41900 (.sli false 3 0x3FFD),
   d? 96 0x123456789ABCDEF000001901 (.sliL false 3 0x123456789ABCDEF0)].all id = true := by decide +kernel

theorem test_vector_integer_words_1 :
  [d? 32 0x10283200 (.iadd (bw 6 10 8)), d? 96 0x14000001023FE00501206 (.iaddX (xw 514 1 1022 516 0 true none)),
   d? 96 0x123456789ABCDEF000283201 (.iaddL (bw 6 10 0) 0x123456789ABCDEF0), d? 32 0x10283208 (.isub (bw 6 10 8)),
   d? 96 0x14000001023FE0050120E (.isubX (xw 514 1 1022 516 0 true none)),
   d? 96 0x123456789ABCDEF000283209 (.isubL (bw 6 10 0) 0x123456789ABCDEF0), d? 32 0x10283210 (.imul (bw 6 10 8)),
   d? 96 0x14000001023FE00501216 (.imulX (xw 514 1 1022 516 0 true none)),
   d? 96 0x123456789ABCDEF000283211 (.imulL (bw 6 10 0) 0x123456789ABCDEF0), d? 32 0x10283218 (.imulh (bw 6 10 8)),
   d? 96 0x14000001023FE0050121E (.imulhX (xw 514 1 1022 516 0 true none)),
   d? 96 0x123456789ABCDEF000283219 (.imulhL (bw 6 10 0) 0x123456789ABCDEF0), d? 32 0x10283220 (.imin (bw 6 10 8)),
   d? 96 0x14000001023FE00501226 (.iminX (xw 514 1 1022 516 0 true none)),
   d? 96 0x123456789ABCDEF000283221 (.iminL (bw 6 10 0) 0x123456789ABCDEF0), d? 32 0x10283228 (.imax (bw 6 10 8)),
   d? 96 0x14000001023FE0050122E (.imaxX (xw 514 1 1022 516 0 true none)),
   d? 96 0x123456789ABCDEF000283229 (.imaxL (bw 6 10 0) 0x123456789ABCDEF0), d? 32 0x10283230 (.and (bw 6 10 8)),
   d? 96 0x14000001023FE00501236 (.andX (xw 514 1 1022 516 0 true none)),
   d? 96 0x123456789ABCDEF000283231 (.andL (bw 6 10 0) 0x123456789ABCDEF0), d? 32 0x10283238 (.or (bw 6 10 8)),
   d? 96 0x14000001023FE0050123E (.orX (xw 514 1 1022 516 0 true none)),
   d? 96 0x123456789ABCDEF000283239 (.orL (bw 6 10 0) 0x123456789ABCDEF0),
   d? 32 0x10283240 (.xor (bw 6 10 8))].all id = true := by decide +kernel

theorem test_vector_integer_words_2 :
  [d? 96 0x14000001023FE00501246 (.xorX (xw 514 1 1022 516 0 true none)),
   d? 96 0x123456789ABCDEF000283241 (.xorL (bw 6 10 0) 0x123456789ABCDEF0), d? 32 0x10283248 (.shl (bw 6 10 8)),
   d? 96 0x14000001023FE0050124E (.shlX (xw 514 1 1022 516 0 true none)),
   d? 96 0x123456789ABCDEF000283249 (.shlL (bw 6 10 0) 0x123456789ABCDEF0), d? 32 0x10283250 (.shr (bw 6 10 8)),
   d? 96 0x14000001023FE00501256 (.shrX (xw 514 1 1022 516 0 true none)),
   d? 96 0x123456789ABCDEF000283251 (.shrL (bw 6 10 0) 0x123456789ABCDEF0), d? 32 0x10283258 (.sra (bw 6 10 8)),
   d? 96 0x14000001023FE0050125E (.sraX (xw 514 1 1022 516 0 true none)),
   d? 96 0x123456789ABCDEF000283259 (.sraL (bw 6 10 0) 0x123456789ABCDEF0), d? 32 0x10283260 (.imad (bw 6 10 8)),
   d? 96 0x14000031023FE00501266 (.imadX (xw 514 1 1022 516 12 true none)),
   d? 96 0x123456789ABCDEF000283261 (.imadL (bw 6 10 0) 0x123456789ABCDEF0), d? 32 0x10283268 (.imadw (bw 6 10 8)),
   d? 96 0x14000031023FE0050126E (.imadwX (xw 514 1 1022 516 12 true none)),
   d? 96 0x123456789ABCDEF000283269 (.imadwL (bw 6 10 0) 0x123456789ABCDEF0), d? 32 0x283270 (.iabs (bw 6 10 0)),
   d? 96 0x14000000003FE00501276 (.iabsX (xw 514 1 1022 0 0 true none)), d? 32 0x283278 (.ineg (bw 6 10 0)),
   d? 96 0x14000000003FE0050127E (.inegX (xw 514 1 1022 0 0 true none)), d? 32 0x283280 (.not (bw 6 10 0)),
   d? 96 0x14000000003FE00501286 (.notX (xw 514 1 1022 0 0 true none)), d? 32 0x283288 (.popc (bw 6 10 0)),
   d? 96 0x14000000003FE0050128E (.popcX (xw 514 1 1022 0 0 true none))].all id = true := by decide +kernel

theorem test_vector_integer_words_3 :
  [d? 32 0x283290 (.clz (bw 6 10 0)), d? 96 0x14000000003FE00501296 (.clzX (xw 514 1 1022 0 0 true none)),
   d? 32 0x283298 (.brev (bw 6 10 0)), d? 96 0x14000000003FE0050129E (.brevX (xw 514 1 1022 0 0 true none)),
   d? 32 0x2832A0 (.mov (bw 6 10 0)), d? 96 0x14000000003FE001012A6 (.movX (xw 514 0 1022 0 0 true none)),
   d? 96 0x1400000000000005012AE (.moviX (xw 514 1 0 0 0 true none)), d? 32 0x102832B0 (.bfe (bw 6 10 8)),
   d? 96 0x14000001023FE005012B6 (.bfeX (xw 514 1 1022 516 0 true none)),
   d? 96 0x123456789ABCDEF0002832B1 (.bfeL (bw 6 10 0) 0x123456789ABCDEF0), d? 32 0x102832B8 (.bfi (bw 6 10 8)),
   d? 96 0x14000031023FE001012BE (.bfiX (xw 514 0 1022 516 12 true none)),
   d? 96 0x123456789ABCDEF0002832B9 (.bfiL (bw 6 10 0) 0x123456789ABCDEF0), d? 32 0x102832C0 (.icmpp (bw 6 10 8)),
   d? 96 0x14000001023FE004032C6 (.icmppX (xw 6 1 1022 516 0 true none)),
   d? 96 0x123456789ABCDEF0002832C1 (.icmppL (bw 6 10 0) 0x123456789ABCDEF0), d? 32 0x102832C8 (.sel (bw 6 10 8)),
   d? 96 0x14000001023FE001012CE (.selX (xw 514 0 1022 516 0 true none)),
   d? 96 0x123456789ABCDEF0002832C9 (.selL (bw 6 10 0) 0x123456789ABCDEF0), d? 32 0xC1032D0 (.pset (bw 6 4 6)),
   d? 96 0x1400000003004004032D6 (.psetX (xw 6 1 4 6 0 true none)), d? 32 0x80041AA8 (.movi false 3 0x2001),
   d? 96 0x123456789ABCDEF000001AA9 (.moviL false 3 0x123456789ABCDEF0)].all id = true := by decide +kernel

theorem test_vector_float_words_1 :
  [d? 32 0x10283300 (.fadd (bw 6 10 8)), d? 96 0x14000001023FE00501306 (.faddX (xw 514 1 1022 516 0 true none)),
   d? 96 0x123456789ABCDEF000283301 (.faddL (bw 6 10 0) 0x123456789ABCDEF0), d? 32 0x10283308 (.fsub (bw 6 10 8)),
   d? 96 0x14000001023FE0050130E (.fsubX (xw 514 1 1022 516 0 true none)),
   d? 96 0x123456789ABCDEF000283309 (.fsubL (bw 6 10 0) 0x123456789ABCDEF0), d? 32 0x10283310 (.fmul (bw 6 10 8)),
   d? 96 0x14000001023FE00501316 (.fmulX (xw 514 1 1022 516 0 true none)),
   d? 96 0x123456789ABCDEF000283311 (.fmulL (bw 6 10 0) 0x123456789ABCDEF0), d? 32 0x10283318 (.fmin (bw 6 10 8)),
   d? 96 0x14000001023FE0050131E (.fminX (xw 514 1 1022 516 0 true none)),
   d? 96 0x123456789ABCDEF000283319 (.fminL (bw 6 10 0) 0x123456789ABCDEF0), d? 32 0x10283320 (.fmax (bw 6 10 8)),
   d? 96 0x14000001023FE00501326 (.fmaxX (xw 514 1 1022 516 0 true none)),
   d? 96 0x123456789ABCDEF000283321 (.fmaxL (bw 6 10 0) 0x123456789ABCDEF0), d? 32 0x10283328 (.fmaxa (bw 6 10 8)),
   d? 96 0x14000001023FE0050132E (.fmaxaX (xw 514 1 1022 516 0 true none)),
   d? 96 0x123456789ABCDEF000283329 (.fmaxaL (bw 6 10 0) 0x123456789ABCDEF0), d? 32 0x10283330 (.ffma (bw 6 10 8)),
   d? 96 0x14000031023FE00501336 (.ffmaX (xw 514 1 1022 516 12 true none)),
   d? 96 0x123456789ABCDEF000283331 (.ffmaL (bw 6 10 0) 0x123456789ABCDEF0), d? 32 0x283338 (.frcp (bw 6 10 0)),
   d? 96 0x14000000003FE0050133E (.frcpX (xw 514 1 1022 0 0 true none)), d? 32 0x283340 (.frsq (bw 6 10 0)),
   d? 96 0x14000000003FE00501346 (.frsqX (xw 514 1 1022 0 0 true none))].all id = true := by decide +kernel

theorem test_vector_float_words_2 :
  [d? 32 0x283348 (.fsqrt (bw 6 10 0)), d? 96 0x14000000003FE0050134E (.fsqrtX (xw 514 1 1022 0 0 true none)),
   d? 32 0x283350 (.fexp2 (bw 6 10 0)), d? 96 0x14000000003FE00501356 (.fexp2X (xw 514 1 1022 0 0 true none)),
   d? 32 0x283358 (.flog2 (bw 6 10 0)), d? 96 0x14000000003FE0050135E (.flog2X (xw 514 1 1022 0 0 true none)),
   d? 32 0x10283360 (.fcmpp (bw 6 10 8)), d? 96 0x14000001023FE00003366 (.fcmppX (xw 6 0 1022 516 0 true none)),
   d? 96 0x123456789ABCDEF000283361 (.fcmppL (bw 6 10 0) 0x123456789ABCDEF0), d? 32 0x283368 (.fclass (bw 6 10 0)),
   d? 96 0x14000000003FE0050136E (.fclassX (xw 514 1 1022 0 0 true none)), d? 32 0x10283370 (.fscale (bw 6 10 8)),
   d? 96 0x14000001023FE00101376 (.fscaleX (xw 514 0 1022 516 0 true none)),
   d? 96 0x123456789ABCDEF000283371 (.fscaleL (bw 6 10 0) 0x123456789ABCDEF0), d? 32 0x10283378 (.hadd2 (bw 6 10 8)),
   d? 96 0x14000001023FE0050137E (.hadd2X (xw 514 1 1022 516 0 true none)),
   d? 96 0x123456789ABCDEF000283379 (.hadd2L (bw 6 10 0) 0x123456789ABCDEF0), d? 32 0x10283380 (.hmul2 (bw 6 10 8)),
   d? 96 0x14000001023FE00501386 (.hmul2X (xw 514 1 1022 516 0 true none)),
   d? 96 0x123456789ABCDEF000283381 (.hmul2L (bw 6 10 0) 0x123456789ABCDEF0), d? 32 0x10283388 (.hfma2 (bw 6 10 8)),
   d? 96 0x14000031023FE0050138E (.hfma2X (xw 514 1 1022 516 12 true none)),
   d? 96 0x123456789ABCDEF000283389 (.hfma2L (bw 6 10 0) 0x123456789ABCDEF0), d? 32 0x10283390 (.fdot4 (bw 6 10 8)),
   d? 96 0x14000031023FE00101396 (.fdot4X (xw 514 0 1022 516 12 true none))].all id = true := by decide +kernel

theorem test_conversion_and_cross_lane_words :
  [d? 32 0x283400 (.cvt (bw 6 10 0)), d? 96 0x14000000003FE00501406 (.cvtX (xw 514 1 1022 0 0 true none)),
   d? 32 0x283408 (.cvtf (bw 6 10 0)), d? 96 0x14000000003FE0050140E (.cvtfX (xw 514 1 1022 0 0 true none)),
   d? 32 0x283410 (.cvti (bw 6 10 0)), d? 96 0x14000000003FE00501416 (.cvtiX (xw 514 1 1022 0 0 true none)),
   d? 32 0x10283418 (.pack (bw 6 10 8)), d? 96 0x14000001023FE0010141E (.packX (xw 514 0 1022 516 0 true none)),
   d? 32 0x283420 (.unpack (bw 6 10 0)), d? 96 0x14000000003FE00101426 (.unpackX (xw 514 0 1022 0 0 true none)),
   d? 32 0x10283428 (.qscale (bw 6 10 8)), d? 96 0x14000001023FE0010142E (.qscaleX (xw 514 0 1022 516 0 true none)),
   d? 32 0x10283430 (.shfl (bw 6 10 8)), d? 96 0x14000001023FE00501436 (.shflX (xw 514 1 1022 516 0 true none)),
   d? 96 0x123456789ABCDEF000283431 (.shflL (bw 6 10 0) 0x123456789ABCDEF0), d? 32 0x10283438 (.bcast (bw 6 10 8)),
   d? 96 0x14000001023FE0010143E (.bcastX (xw 514 0 1022 516 0 true none)), d? 32 0x283440 (.lred (bw 6 10 0)),
   d? 96 0x14000000003FE00501446 (.lredX (xw 514 1 1022 0 0 true none)), d? 32 0x283448 (.lscan (bw 6 10 0)),
   d? 96 0x14000000003FE0050144E (.lscanX (xw 514 1 1022 0 0 true none)), d? 32 0x3450 (.elect (bw 6 0 0)),
   d? 96 0x140000000000000003456 (.electX (xw 6 0 0 0 0 true none)), d? 32 0x10283458 (.rndx (bw 6 10 8)),
   d? 96 0x14000000043FE0010145E (.rndxX (xw 514 0 1022 8 0 true none))].all id = true := by decide +kernel

theorem test_memory_words_1 :
  [d? 32 0x10283500 (.ld (bw 6 10 8)), d? 96 0x14000000043FE00501506 (.ldX (xw 514 1 1022 8 0 true none)),
   d? 96 0x123456789ABCDEF000283501 (.ldL (bw 6 10 0) 0x123456789ABCDEF0), d? 32 0x10283508 (.st (bw 6 10 8)),
   d? 96 0x14000000043FE0050150E (.stX (xw 514 1 1022 8 0 true none)),
   d? 96 0x123456789ABCDEF000283509 (.stL (bw 6 10 0) 0x123456789ABCDEF0), d? 32 0x10283510 (.ldl (bw 6 10 8)),
   d? 96 0x14000000043FE00501516 (.ldlX (xw 514 1 1022 8 0 true none)),
   d? 96 0x123456789ABCDEF000283511 (.ldlL (bw 6 10 0) 0x123456789ABCDEF0), d? 32 0x10283518 (.stl (bw 6 10 8)),
   d? 96 0x14000000043FE0050151E (.stlX (xw 514 1 1022 8 0 true none)),
   d? 96 0x123456789ABCDEF000283519 (.stlL (bw 6 10 0) 0x123456789ABCDEF0), d? 32 0x10283520 (.sld (bw 6 10 8)),
   d? 96 0x140000000400A00003526 (.sldX (xw 6 0 10 8 0 true none)),
   d? 96 0x123456789ABCDEF000283521 (.sldL (bw 6 10 0) 0x123456789ABCDEF0), d? 32 0x10283528 (.sst (bw 6 10 8)),
   d? 96 0x140000000400A0000352E (.sstX (xw 6 0 10 8 0 true none)),
   d? 96 0x123456789ABCDEF000283529 (.sstL (bw 6 10 0) 0x123456789ABCDEF0), d? 32 0x10283530 (.atom (bw 6 10 8)),
   d? 96 0x14000001023FE00501536 (.atomX (xw 514 1 1022 516 0 true none)),
   d? 96 0x123456789ABCDEF000283531 (.atomL (bw 6 10 0) 0x123456789ABCDEF0), d? 32 0x10283538 (.atoml (bw 6 10 8)),
   d? 96 0x14000001023FE5010153E (.atomlX (xw 514 320 1022 516 0 true none)),
   d? 96 0x123456789ABCDEF010283539 (.atomlL (bw 6 10 8) 0x123456789ABCDEF0),
   d? 32 0x10283540 (.red (bw 6 10 8))].all id = true := by decide +kernel

theorem test_memory_words_2 :
  [d? 96 0x14000000043FE00501546 (.redX (xw 514 1 1022 8 0 true none)),
   d? 96 0x123456789ABCDEF000283541 (.redL (bw 6 10 0) 0x123456789ABCDEF0),
   d? 96 0x14000000000000000354E (.fenceX (xw 6 0 0 0 0 true none)), d? 32 0x283550 (.tagq (bw 6 10 0)),
   d? 96 0x14000000003FE00101556 (.tagqX (xw 514 0 1022 0 0 true none)), d? 32 0x283558 (.tagset (bw 6 10 0)),
   d? 96 0x14000000003FE0010155E (.tagsetX (xw 514 0 1022 0 0 true none)), d? 32 0x280560 (.tagclr (bw 0 10 0)),
   d? 96 0x14000000003FE00000566 (.tagclrX (xw 0 0 1022 0 0 true none)), d? 32 0x10280568 (.pref (bw 0 10 8)),
   d? 96 0x14000000043FE0040056E (.prefX (xw 0 1 1022 8 0 true none)),
   d? 96 0x123456789ABCDEF000280569 (.prefL (bw 0 10 0) 0x123456789ABCDEF0), d? 32 0x10280570 (.cctl (bw 0 10 8)),
   d? 96 0x140000000000000400576 (.cctlX (xw 0 1 0 0 0 true none)),
   d? 96 0x123456789ABCDEF000280571 (.cctlL (bw 0 10 0) 0x123456789ABCDEF0),
   d? 96 0x123456789ABCDEF010283579 (.puti (bw 6 10 8) 0x123456789ABCDEF0),
   d? 160 0x123456789ABCDEF0000140000000400A0040357F (.putiX (xw 6 1 10 8 0 true (some 0x123456789ABCDEF0))),
   d? 32 0x5548 (.fence false 2 1)].all id = true := by decide +kernel

theorem test_asynchronous_words_1 :
  [d? 32 0x10283600 (.mma (bw 6 10 8)), d? 96 0x14000001023FE00403606 (.mmaX (xw 6 1 1022 516 0 true none)),
   d? 32 0x10283608 (.dmma (bw 6 10 8)), d? 96 0x14000031023FE0040360E (.dmmaX (xw 6 1 1022 516 12 true none)),
   d? 32 0x3610 (.azero (bw 6 0 0)), d? 96 0x140000000000000003616 (.azeroX (xw 6 0 0 0 0 true none)),
   d? 32 0x3618 (.arel (bw 6 0 0)), d? 96 0x14000000000000000361E (.arelX (xw 6 0 0 0 0 true none)),
   d? 32 0x10283620 (.ard (bw 6 10 8)), d? 96 0x140000000400A00101626 (.ardX (xw 514 0 10 8 0 true none)),
   d? 96 0x123456789ABCDEF000283621 (.ardL (bw 6 10 0) 0x123456789ABCDEF0), d? 32 0x10283628 (.awr (bw 6 10 8)),
   d? 96 0x14000000043FE0000362E (.awrX (xw 6 0 1022 8 0 true none)),
   d? 96 0x123456789ABCDEF000283629 (.awrL (bw 6 10 0) 0x123456789ABCDEF0), d? 32 0x10283630 (.adrain (bw 6 10 8)),
   d? 96 0x140000000400A00403636 (.adrainX (xw 6 1 10 8 0 true none)), d? 32 0x3638 (.mfence (bw 6 0 0)),
   d? 96 0x14000000000000000363E (.mfenceX (xw 6 0 0 0 0 true none)), d? 32 0x280640 (.mwait (bw 0 10 0)),
   d? 96 0x140000000000A00000646 (.mwaitX (xw 0 0 10 0 0 true none)), d? 96 0x500000641 (.mwaitL (bw 0 0 0) 0x5),
   d? 32 0x10283648 (.bcopy (bw 6 10 8)), d? 96 0x140000000400A0000364E (.bcopyX (xw 6 0 10 8 0 true none)),
   d? 32 0x10283650 (.bcopym (bw 6 10 8)),
   d? 96 0x140000000400A00003656 (.bcopymX (xw 6 0 10 8 0 true none))].all id = true := by decide +kernel

theorem test_asynchronous_words_2 :
  [d? 32 0x3658 (.qfence (bw 6 0 0)), d? 96 0x14000000000000000365E (.qfenceX (xw 6 0 0 0 0 true none)),
   d? 32 0x10283660 (.route (bw 6 10 8)), d? 96 0x140000000400A00403666 (.routeX (xw 6 1 10 8 0 true none)),
   d? 32 0x10283668 (.coll (bw 6 10 8)), d? 96 0x140000000400A0000366E (.collX (xw 6 0 10 8 0 true none)),
   d? 32 0x283670 (.seqgo (bw 6 10 0)), d? 96 0x140000000000A00003676 (.seqgoX (xw 6 0 10 0 0 true none)),
   d? 32 0x10283678 (.srec (bw 6 10 8)), d? 96 0x140000000400A0000367E (.srecX (xw 6 0 10 8 0 true none)),
   d? 96 0x123456789ABCDEF000283679 (.srecL (bw 6 10 0) 0x123456789ABCDEF0), d? 32 0x10280680 (.binit (bw 0 10 8)),
   d? 96 0x140000000400A00000686 (.binitX (xw 0 0 10 8 0 true none)),
   d? 96 0x123456789ABCDEF000280681 (.binitL (bw 0 10 0) 0x123456789ABCDEF0), d? 32 0x10280688 (.barv (bw 0 10 8)),
   d? 96 0x140000000400A0000068E (.barvX (xw 0 0 10 8 0 true none)),
   d? 96 0x123456789ABCDEF000280689 (.barvL (bw 0 10 0) 0x123456789ABCDEF0), d? 32 0x10280690 (.barvx (bw 0 10 8)),
   d? 96 0x140000000400A00000696 (.barvxX (xw 0 0 10 8 0 true none)),
   d? 96 0x123456789ABCDEF000280691 (.barvxL (bw 0 10 0) 0x123456789ABCDEF0), d? 32 0x10283698 (.bwait (bw 6 10 8)),
   d? 96 0x140000000400A0000369E (.bwaitX (xw 6 0 10 8 0 true none)), d? 32 0x102836A0 (.btest (bw 6 10 8)),
   d? 96 0x140000000400A000036A6 (.btestX (xw 6 0 10 8 0 true none)),
   d? 32 0x102836A8 (.waitv (bw 6 10 8))].all id = true := by decide +kernel

theorem test_asynchronous_words_3 :
  [d? 96 0x140000000400A004036AE (.waitvX (xw 6 1 10 8 0 true none)),
   d? 96 0x123456789ABCDEF0002836A9 (.waitvL (bw 6 10 0) 0x123456789ABCDEF0), d? 32 0x36B0 (.tsrd (bw 6 0 0)),
   d? 96 0x1400000000000000036B6 (.tsrdX (xw 6 0 0 0 0 true none)), d? 32 0x2836B8 (.cntrd (bw 6 10 0)),
   d? 96 0x140000000000A000036BE (.cntrdX (xw 6 0 10 0 0 true none))].all id = true := by decide +kernel

theorem test_system_words :
  [d? 32 0x283700 (.get (bw 6 10 0)), d? 96 0xE0000000000A00003706 (.getX (xw 6 0 10 0 0 false none)),
   d? 32 0x285F08 (.put (bw 11 10 0)), d? 96 0xE0000000000A00005F0E (.putX (xw 11 0 10 0 0 false none)),
   d? 32 0x283710 (.sysget (bw 6 10 0)), d? 96 0xE000000003FE00003716 (.sysgetX (xw 6 0 1022 0 0 false none)),
   d? 96 0x123456789ABCDEF000003711 (.sysgetL (bw 6 0 0) 0x123456789ABCDEF0), d? 32 0x283718 (.sysput (bw 6 10 0)),
   d? 96 0xE0000000000A0010171E (.sysputX (xw 514 0 10 0 0 false none)),
   d? 96 0x123456789ABCDEF000280719 (.sysputL (bw 0 10 0) 0x123456789ABCDEF0), d? 32 0x283720 (.launch (bw 6 10 0)),
   d? 32 0x10283728 (.cwait (bw 6 10 8)), d? 32 0x10283738 (.mapp (bw 6 10 8)), d? 32 0x1740 (.tlbi (bw 2 0 0)),
   d? 32 0x10280748 (.wspill (bw 0 10 8)), d? 32 0x10280750 (.wfill (bw 0 10 8)),
   d? 32 0x10280758 (.dspill (bw 0 10 8)), d? 32 0x730 (.rte false),
   d? 32 0x760 (.halt false)].all id = true := by decide +kernel

theorem test_sequencer_words :
  [d? 64 0x0 (.snop), d? 64 0xBEEF000151234301 (.txc 3 4 0x123 21 0xBEEF),
   d? 64 0xBEEF000001234022 (.rxs 2 4 0x123 0xBEEF), d? 64 0xBEEF000A01234323 (.rxc 2 3 4 0x123 5 0xBEEF),
   d? 64 0xBEEF001B51234324 (.rxcf 2 3 4 0x123 21 5 true 0xBEEF), d? 64 0x8765432100004305 (.wflg 3 4 0x87654321),
   d? 64 0x8765432100000306 (.sflg 3 0 0 0x87654321), d? 64 0x5A50027 (.loopk 2 0x5A5),
   d? 64 0x25A50308 (.jmpk 3 0x5A5 2), d? 64 0x8765432100020029 (.setk 2 0 2 0x87654321),
   d? 64 0x876543210002432A (.addk 2 3 4 2 0x87654321), d? 64 0x20123432B (.cvtb 2 3 4 0x123 true),
   d? 64 0x15123432C (.sred 2 3 4 0x123 21), d? 64 0x432D (.putk 2 3 4), d? 64 0x1430E (.loga 3 4 1),
   d? 64 0xF (.seqend)].all id = true := by decide +kernel
/-! ### Witnesses: a state and operands that meet the hypotheses of each statement -/

/-- A stream of a launched team at its first instruction; the first 512 MiB of grid space map to the first of device memory, with every
right and class SC. -/
def now : State :=
  let s := bootStream State.reset []
  { s with agenda := [], cur := some (2, 0), mem := writeN s.mem 0x5000 8 0x5F }

/-- The same with its group changed. -/
def group (f : Group → Group) : State := modGroup now 2 f

/-- A handler that has just been entered. -/
def handler : Handler :=
  { entry := 0, pc := 0x8000, v := [], s := [], p := [], c := [], mapp := none, engine := false }

/-- The format slots hold an 8-bit format. -/
def fp8 : State := modGrid now 0 fun g =>
  { g with launch := { g.launch with slots := List.replicate 8 { fmtSlotZero with elem := .e4m3 } } }

/-- The stream in its handler. -/
def inHandler : State := group fun g => { g with handler := some handler }

/-- The current stream of s issues, and c holds of the stream and the state at the issue. -/
def hy (how : IssueHow) (s : State) (c : Ctx → State → Bool := fun _ _ => true) : Bool :=
  match ctx? s with
  | some x => Safety.issues how s x && c (waited how x) (waitedState how x s)
  | none => false

def hyB (op : Nat) (w : BaseArgs) (l : Option DWord) (s : State := now) (c : Ctx → State → Bool := fun _ _ => true) : Bool :=
  hy (howOp op false (w.ext l)) s c

def hyX (op : Nat) (w : ExtArgs) (s : State := now) (c : Ctx → State → Bool := fun _ _ => true) : Bool :=
  hy (howOp op true w) s c

/-- What hy says. -/
theorem hy_iff {how : IssueHow} {s : State} {c : Ctx → State → Bool} (h : hy how s c = true) :
    ∃ x, Safety.issues how s x = true ∧ c (waited how x) (waitedState how x s) = true := by
  unfold hy at h
  split at h
  · rename_i x _
    exact ⟨x, by simpa using h⟩
  · cases h

theorem witness_scalar_arithmetic_results :
  [hy (howSli false 63 false) now, hy (howSli true 0 true) now, hyB 0x21 (bw 6 10 0) none,
   hyX 0x21 (xw 6 0 10 0 0 false none), hyB 0x22 (bw 6 10 8) none, hyB 0x22 (bw 6 10 0) (some 0x123456789ABCDEF0),
   hyX 0x22 (xw 6 0 10 8 0 false none), hyB 0x23 (bw 6 10 8) none, hyB 0x23 (bw 6 10 0) (some 0x123456789ABCDEF0),
   hyX 0x23 (xw 6 0 10 8 0 false none), hyB 0x24 (bw 6 10 8) none, hyB 0x24 (bw 6 10 0) (some 0x123456789ABCDEF0),
   hyX 0x24 (xw 6 0 10 8 0 false none), hyB 0x25 (bw 6 10 8) none, hyB 0x25 (bw 6 10 0) (some 0x123456789ABCDEF0),
   hyX 0x25 (xw 6 1 10 8 0 false none), hyB 0x26 (bw 6 10 8) none, hyB 0x26 (bw 6 10 0) (some 0x123456789ABCDEF0),
   hyX 0x26 (xw 6 0 10 8 0 false none), hyB 0x27 (bw 6 10 8) none, hyB 0x27 (bw 6 10 0) (some 0x123456789ABCDEF0),
   hyX 0x27 (xw 6 0 10 8 0 false none), hyB 0x28 (bw 6 10 8) none, hyB 0x28 (bw 6 10 0) (some 0x123456789ABCDEF0),
   hyX 0x28 (xw 6 0 10 8 0 false none), hyB 0x29 (bw 6 10 8) none, hyB 0x29 (bw 6 10 0) (some 0x123456789ABCDEF0),
   hyX 0x29 (xw 6 0 10 8 0 false none), hyB 0x2A (bw 6 10 8) none, hyB 0x2A (bw 6 10 0) (some 0x123456789ABCDEF0),
   hyX 0x2A (xw 6 0 10 8 0 false none), hyB 0x2B (bw 6 10 8) none, hyB 0x2B (bw 6 10 0) (some 0x123456789ABCDEF0),
   hyX 0x2B (xw 6 0 10 8 0 false none), hyB 0x2C (bw 6 10 8) none, hyB 0x2C (bw 6 10 0) (some 0x123456789ABCDEF0),
   hyX 0x2C (xw 6 1 10 8 0 false none), hyB 0x2D (bw 6 10 8) none, hyB 0x2D (bw 6 10 0) (some 0x123456789ABCDEF0),
   hyX 0x2D (xw 6 1 10 8 0 false none)].all id = true := by decide +kernel

theorem witness_scalar_condition_results :
  [hyB 0x2E (bw 6 10 8) none, hyB 0x2E (bw 6 10 0) (some 0x123456789ABCDEF0), hyX 0x2E (xw 6 0 10 8 0 false none),
   hyB 0x2F (bw 6 10 0) none, hyX 0x2F (xw 6 0 10 0 0 false none), hyB 0x30 (bw 6 10 8) none,
   hyB 0x30 (bw 6 10 0) (some 0x123456789ABCDEF0), hyX 0x30 (xw 6 0 10 8 0 false none), hyB 0x31 (bw 6 4 0) none,
   hyX 0x31 (xw 6 1 4 0 0 false none), hyB 0x32 (bw 6 4 6) none, hyX 0x32 (xw 6 1 4 6 0 false none),
   hyB 0x33 (bw 6 4 6) none, hyX 0x33 (xw 6 1 4 6 0 false none), hyB 0x34 (bw 6 4 6) none,
   hyX 0x34 (xw 6 1 4 6 0 false none), hyB 0x35 (bw 6 10 0) none,
   hyX 0x35 (xw 6 0 10 0 0 false none)].all id = true := by decide +kernel

theorem witness_vector_arithmetic_results :
  [hyB 0x40 (bw 6 10 8) none, hyB 0x40 (bw 6 10 0) (some 0x123456789ABCDEF0), hyX 0x40 (xw 2 1 126 4 0 true none),
   hyB 0x41 (bw 6 10 8) none, hyB 0x41 (bw 6 10 0) (some 0x123456789ABCDEF0), hyX 0x41 (xw 2 1 126 4 0 true none),
   hyB 0x42 (bw 6 10 8) none, hyB 0x42 (bw 6 10 0) (some 0x123456789ABCDEF0), hyX 0x42 (xw 2 1 126 4 0 true none),
   hyB 0x43 (bw 6 10 8) none, hyB 0x43 (bw 6 10 0) (some 0x123456789ABCDEF0), hyX 0x43 (xw 2 1 126 4 0 true none),
   hyB 0x44 (bw 6 10 8) none, hyB 0x44 (bw 6 10 0) (some 0x123456789ABCDEF0), hyX 0x44 (xw 2 1 126 4 0 true none),
   hyB 0x45 (bw 6 10 8) none, hyB 0x45 (bw 6 10 0) (some 0x123456789ABCDEF0), hyX 0x45 (xw 2 1 126 4 0 true none),
   hyB 0x49 (bw 6 10 8) none, hyB 0x49 (bw 6 10 0) (some 0x123456789ABCDEF0), hyX 0x49 (xw 2 1 126 4 0 true none),
   hyB 0x4A (bw 6 10 8) none, hyB 0x4A (bw 6 10 0) (some 0x123456789ABCDEF0), hyX 0x4A (xw 2 1 126 4 0 true none),
   hyB 0x4B (bw 6 10 8) none, hyB 0x4B (bw 6 10 0) (some 0x123456789ABCDEF0), hyX 0x4B (xw 2 1 126 4 0 true none),
   hyB 0x4C (bw 6 10 8) none, hyB 0x4C (bw 6 10 0) (some 0x123456789ABCDEF0), hyX 0x4C (xw 2 1 126 4 12 true none),
   hyB 0x4D (bw 6 10 8) none, hyB 0x4D (bw 6 10 0) (some 0x123456789ABCDEF0), hyX 0x4D (xw 2 1 126 4 12 true none),
   hyB 0x4E (bw 6 10 0) none, hyX 0x4E (xw 2 1 126 0 0 true none), hyB 0x4F (bw 6 10 0) none,
   hyX 0x4F (xw 2 1 126 0 0 true none)].all id = true := by decide +kernel

theorem witness_vector_bit_and_select_results :
  [hy (howMovi false 127 false) now, hy (howMovi true 0 true) now, hyX 0x55 (xw 14 1 0 0 0 true (some 5)),
   hyB 0x46 (bw 6 10 8) none, hyB 0x46 (bw 6 10 0) (some 0x123456789ABCDEF0), hyX 0x46 (xw 2 1 126 4 0 true none),
   hyB 0x47 (bw 6 10 8) none, hyB 0x47 (bw 6 10 0) (some 0x123456789ABCDEF0), hyX 0x47 (xw 2 1 126 4 0 true none),
   hyB 0x48 (bw 6 10 8) none, hyB 0x48 (bw 6 10 0) (some 0x123456789ABCDEF0), hyX 0x48 (xw 2 1 126 4 0 true none),
   hyB 0x50 (bw 6 10 0) none, hyX 0x50 (xw 2 1 126 0 0 true none), hyB 0x53 (bw 6 10 0) none,
   hyX 0x53 (xw 2 1 126 0 0 true none), hyB 0x51 (bw 6 10 0) none, hyX 0x51 (xw 2 1 126 0 0 true none),
   hyB 0x52 (bw 6 10 0) none, hyX 0x52 (xw 2 1 126 0 0 true none), hyB 0x54 (bw 6 10 0) none,
   hyX 0x54 (xw 2 0 126 0 0 true none), hyB 0x56 (bw 6 10 8) none, hyB 0x56 (bw 6 10 0) (some 0x123456789ABCDEF0),
   hyX 0x56 (xw 2 1 126 4 0 true none), hyB 0x57 (bw 6 10 8) none, hyB 0x57 (bw 6 10 0) (some 0x123456789ABCDEF0),
   hyX 0x57 (xw 2 0 126 4 12 true none), hyB 0x58 (bw 6 10 8) none, hyB 0x58 (bw 6 10 0) (some 0x123456789ABCDEF0),
   hyX 0x58 (xw 6 1 126 4 0 true none), hyB 0x59 (bw 6 10 8) none, hyB 0x59 (bw 6 10 0) (some 0x123456789ABCDEF0),
   hyX 0x59 (xw 2 0 126 4 0 true none), hyB 0x5A (bw 6 4 6) none,
   hyX 0x5A (xw 6 1 4 6 0 true none)].all id = true := by decide +kernel

theorem witness_floating_point_results :
  [hyB 0x60 (bw 6 10 8) none, hyB 0x60 (bw 6 10 0) (some 0x123456789ABCDEF0), hyX 0x60 (xw 2 1 126 4 0 true none),
   hyB 0x61 (bw 6 10 8) none, hyB 0x61 (bw 6 10 0) (some 0x123456789ABCDEF0), hyX 0x61 (xw 2 1 126 4 0 true none),
   hyB 0x62 (bw 6 10 8) none, hyB 0x62 (bw 6 10 0) (some 0x123456789ABCDEF0), hyX 0x62 (xw 2 1 126 4 0 true none),
   hyB 0x66 (bw 6 10 8) none, hyB 0x66 (bw 6 10 0) (some 0x123456789ABCDEF0), hyX 0x66 (xw 2 1 126 4 12 true none),
   hyB 0x63 (bw 6 10 8) none, hyB 0x63 (bw 6 10 0) (some 0x123456789ABCDEF0), hyX 0x63 (xw 2 1 126 4 0 true none),
   hyB 0x64 (bw 6 10 8) none, hyB 0x64 (bw 6 10 0) (some 0x123456789ABCDEF0), hyX 0x64 (xw 2 1 126 4 0 true none),
   hyB 0x65 (bw 6 10 8) none, hyB 0x65 (bw 6 10 0) (some 0x123456789ABCDEF0), hyX 0x65 (xw 2 1 126 4 0 true none),
   hyB 0x67 (bw 6 10 0) none, hyX 0x67 (xw 2 1 126 0 0 true none), hyB 0x68 (bw 6 10 0) none,
   hyX 0x68 (xw 2 1 126 0 0 true none), hyB 0x69 (bw 6 10 0) none, hyX 0x69 (xw 2 1 126 0 0 true none),
   hyB 0x6A (bw 6 10 0) none, hyX 0x6A (xw 2 1 126 0 0 true none), hyB 0x6B (bw 6 10 0) none,
   hyX 0x6B (xw 2 1 126 0 0 true none), hyB 0x6C (bw 6 10 8) none, hyB 0x6C (bw 6 10 0) (some 0x123456789ABCDEF0),
   hyX 0x6C (xw 6 0 126 4 0 true none), hyB 0x6D (bw 6 10 0) none, hyX 0x6D (xw 2 1 126 0 0 true none),
   hyB 0x6E (bw 6 10 8) none, hyB 0x6E (bw 6 10 0) (some 0x123456789ABCDEF0),
   hyX 0x6E (xw 2 0 126 4 0 true none)].all id = true := by decide +kernel

theorem witness_packed_and_conversion_results :
  [hyB 0x6F (bw 6 10 8) none, hyB 0x6F (bw 6 10 0) (some 0x123456789ABCDEF0), hyX 0x6F (xw 2 1 126 4 0 true none),
   hyB 0x70 (bw 6 10 8) none, hyB 0x70 (bw 6 10 0) (some 0x123456789ABCDEF0), hyX 0x70 (xw 2 1 126 4 0 true none),
   hyB 0x71 (bw 6 10 8) none, hyB 0x71 (bw 6 10 0) (some 0x123456789ABCDEF0), hyX 0x71 (xw 2 1 126 4 12 true none),
   hyB 0x72 (bw 6 10 8) none, hyX 0x72 (xw 2 0 126 4 12 true none), hyB 0x80 (bw 6 10 0) none,
   hyX 0x80 (xw 2 1 126 0 0 true none), hyB 0x81 (bw 6 10 0) none, hyX 0x81 (xw 2 1 126 0 0 true none),
   hyB 0x82 (bw 6 10 0) none, hyX 0x82 (xw 2 1 126 0 0 true none), hyB 0x83 (bw 6 10 8) none fp8,
   hyX 0x83 (xw 2 0 126 4 0 true none) fp8, hyB 0x84 (bw 6 10 0) none fp8, hyX 0x84 (xw 2 0 126 0 0 true none) fp8,
   hyB 0x85 (bw 6 10 8) none, hyX 0x85 (xw 2 0 126 4 0 true none)].all id = true := by decide +kernel

theorem witness_cross_lane_results :
  [hyB 0x86 (bw 6 10 8) none, hyB 0x86 (bw 6 10 0) (some 0x123456789ABCDEF0), hyX 0x86 (xw 2 1 126 4 0 true none),
   hyB 0x87 (bw 6 10 7) none, hyX 0x87 (xw 2 0 126 4 0 true none), hyB 0x88 (bw 6 10 0) none,
   hyX 0x88 (xw 2 1 126 0 0 true none), hyB 0x89 (bw 6 10 0) none, hyX 0x89 (xw 2 1 126 0 0 true none),
   hyB 0x8A (bw 6 0 0) none, hyX 0x8A (xw 6 0 0 0 0 true none), hyB 0x8B (bw 6 10 8) none,
   hyX 0x8B (xw 2 0 126 8 0 true none), hyB 0xAA (bw 6 10 0) none,
   hyX 0xAA (xw 2 0 126 0 0 true none)].all id = true := by decide +kernel
theorem witness_step_runs_the_fetched_instruction :
    (({ now with agenda := [.issue 2 0] } : State).agenda = .issue 2 0 :: [] ∧ now.agenda = [] ∧ now.cur = some (2, 0)) ∧
    (let s := { bootStream State.reset [0x00000105, 5, 0] with agenda := [], cur := some (2, 0) }
     (match ctx? s with
      | some x => !x.inH && (x.g.split x.e).trap.isNone && (match fetchInstr x s with
        | (.inr l, _) => decode l == .ok (.sliL true 0 5)
        | _ => false)
      | none => false) = true) := by
  decide +kernel

theorem witness_fetch_gives_the_word_of_memory :
    (inGridSpace 0x10000 && (match translate now 0 false 1 0x10000 with
      | (w, _, u) => checkWalk u.pkg (some (dieOfCore 0)) 0x10000 needX w == .ok 0x10000 0x5F && !targetRefuses u 0x10000
          && (kget (coreAt u 0).icache (0x10000 / 128)).isNone)) = true := by
  decide +kernel

/-- A sequencer context that runs the word w, with registers k. -/
def seqNow (w : DWord) (k : FMap 64 := []) : State :=
  let s := bootSeq { State.reset with mem := [] } w
  let s := modSeq s 0 fun q => { q with ctxs := lmod q.ctxs 0 fun c => { c with k := k } }
  { s with agenda := [], curSeq := some 0, mem := writeN s.mem 0x5000 8 0x5F }

theorem witness_step_runs_sequencers_and_events :
    (({ seqNow 0xB with agenda := [.seq 0] } : State).agenda = .seq 0 :: [] ∧
      (match sctx? (seqNow 0xF) with
        | some x => decide (x.c.lo ≤ x.c.pc.toNat) && decide (x.c.pc.toNat < x.c.lo + x.c.words)
            && decodeSeq (fget (seqAt (seqNow 0xF) 0).imem x.c.pc.toNat) == some .seqend
        | none => false) = true) ∧
    ({ now with agenda := [.event .deviceReset] } : State).agenda = .event .deviceReset :: [] ∧
      isEvent .deviceReset = true := by
  decide +kernel

theorem witness_decoding_inverts_encoding :
    (Instr.saddX (xw 63 0 62 61 63 false (some 0xFFFFFFFFFFFFFFFF))).wellFormed = false ∧
    (Instr.saddX (xw 63 0 62 61 0 false none)).wellFormed = true ∧ (Instr.call true 255 (-4096)).wellFormed = true ∧
    (Instr.putk 15 15 15).wellFormed = true := by
  decide +kernel

theorem witness_step_keeps_the_invariant :
    Safety.inv { now with agenda := [.ticks 5] } = true ∧
      ∃ t, step { now with agenda := [.ticks 5] } = .next t :=
  ⟨by decide +kernel, _, rfl⟩

/-- The group of now. -/
def g0 : Group := (kget now.groups 2).get (by decide +kernel)

theorem witness_register_write_and_read :
    (Safety.groupOk g0 && [RegRef.v 7 2047, .s 0 63, .p 7 7, .c 0 7].all (Safety.refIn g0)
      && (let h := { g0 with handler := some handler }
          Safety.groupOk h && [RegRef.bv 0 15, .bs 0 15, .bp 0 7, .bc 0 7].all (Safety.refIn h))) = true := by
  decide +kernel

theorem witness_memory_write_and_read :
    Memory.wf [] = true ∧ Memory.wf now.mem = true := by
  decide +kernel

/-- The split of the stream changed. -/
def split (f : Split → Split) : State := group fun g => g.modSplit 0 f

theorem witness_order_of_issue :
    (let w := (bw 3 1 2).ext none
     let how := { howOp 0x22 false w with wait := true }
     let c (s : State) (p : Ctx → Bool) : Bool := match ctx? s with
       | some x => p x
       | none => false
     c (split fun p => { p with pend := [{ writes := [], await := some 9 }] }) (fun x => how.wait && !resultsReady x.g x.e) &&
     c (split fun p => { p with trap := some { cause := 2, detail := 0, faddr := 0, fmask := 0, need := [] } })
       (fun x => resultsReady x.g x.e && !x.inH && (x.g.split x.e).trap.isSome) &&
     c now (fun x => resultsReady x.g x.e && (x.g.split x.e).trap.isNone &&
       (howOp 0x22 false ((bw 3 64 2).ext none)).chk (waited how x).dec == some 8) &&
     c (group fun g => { g with budget := 0 }) (fun x => resultsReady x.g x.e && (x.g.split x.e).trap.isNone && !x.inH &&
       (how.chk (waited how x).dec).isNone && decide ((waited how x).g.budget = 0))) = true := by
  decide +kernel

theorem witness_frame_of_register_instructions :
    hyB 0x22 (bw 3 1 2) none now (fun x _ => Safety.groupOk x.g && Safety.refIn x.g (.s 0 63)) = true := by
  decide +kernel

/-- The space of now has handlers. -/
def handled : State :=
  { now with spaces := now.spaces.map fun e => (e.1, { e.2 with handlers := [0x8000, 0x8100, 0x8200, 0x8300] }) }

def trap (cause : Nat) : Trap := { cause := cause, detail := 0, faddr := 0, fmask := 0xFF, need := [] }

theorem witness_taking_a_trap :
    ((kget handled.groups 2).isSome && (kget handled.teams 1).any (fun t => decide (t.core = some 0) && decide (t.grid = 0))
      && g0.team == 1 && !handlerOn g0 0 && (g0.split 0).mapp.isNone && !hostMode handled 0
      && [1, 2, 3, 4].all (fun k => handlerAddr handled 0 k != 0) && !partitionBusy handled 0 g0.part
      && (trap 1).need == []) = true := by
  decide +kernel

theorem witness_traps_without_a_handler :
    (handlerOn { g0 with handler := some handler } 0 && g0.team == 1 && (kget now.teams 1).isSome
      && !handlerOn g0 0 && (((g0.modSplit 0 fun p => { p with mapp := some (2, 0x40) }).split 0).mapp == some (2, 0x40))
      && handlerAddr now 0 2 == 0) = true := by
  decide +kernel

/-- The two slices of the group's 8 lanes, whose copies of C1, S2:S3 and the window bases are as given. -/
def two (c0 c1 : BitVec 1) (s0 s1 : Word) (f : Slice → Slice := id) : State := group fun g =>
  let q := g.slice 0
  { g with
    slices := [f { q with c := fset [] 1 c0, s := fset [] 2 s0 }, f { q with c := fset [] 1 c1, s := fset [] 2 s1 }] }

theorem witness_branches_complete :
  [hy (howCtl (.nop true) true) now,
   hy (howCtl (.bra false (-16384)) false) now fun x _ => targetOk (x.pc + (-16384 : BitVec 21).signExtend 64 * 4),
   hy (howCtl (.braL true 0xFFFFFFFFFFFFFC) true) now fun _ _ => targetOk 0xFFFFFFFFFFFFFC,
   hy (howCtl (.bcu false 1 false 3) false) (two 1 1 0 0) fun x _ =>
     x.sl.all (fun k => x.c k 1 != false) && targetOk (x.pc + (3 : BitVec 14).signExtend 64 * 4),
   hy (howCtl (.bcu false 1 false 3) false) (two 0 0 0 0) fun x _ =>
     x.sl.length == 2 && x.sl.all (fun k => (x.c k 1 != false) == false),
   hy (howCtl (.bcuL false 1 true 0x40) false) (two 0 0 0 0) fun x _ => x.sl.all (fun k => x.c k 1 != true) && targetOk 0x40,
   hy (howCtl (.bcuL false 1 true 0x40) false) (two 1 1 0 0) fun x _ =>
     x.sl.length == 2 && x.sl.all (fun k => (x.c k 1 != true) == false),
   hy (howCtl (.jmpi false 2) false) (two 0 0 0x40 0x40) fun x _ =>
     targetOk (x.ss x.low 2) && x.sl.all (fun k => x.ss k 2 == x.ss x.low 2),
   hy (howCtl (.bc false 1 false 7 (-1)) false) (two 1 1 0 0) fun x _ => x.sl.length == 2 &&
     x.sl.all (fun k => x.c k 1 != false) && targetOk (x.pc + (-1 : BitVec 14).signExtend 64 * 4),
   hy (howCtl (.bc false 1 false 7 (-1)) false) (two 0 0 0 0) fun x _ => x.sl.all (fun k => (x.c k 1 != false) == false),
   hy (howCtl (.bcL false 1 false 7 0) false) (two 1 1 0 0) fun x _ => x.sl.length == 2 &&
     x.sl.all (fun k => x.c k 1 != false) && targetOk 0,
   hy (howCtl (.bcL false 1 false 7 0) false) (two 0 0 0 0) fun x _ => x.sl.all (fun k => (x.c k 1 != false) == false)
  ].all id = true := by decide +kernel

/-- The stream's own program counter is at the end of grid space. -/
def atEnd (c : BitVec 1) : State := modGroup (two c c 0 0) 2 fun g => g.setPc [0, 1] 0xFF00000000000000

theorem witness_branches_fault :
  [hy (howCtl (.bra false (-1)) false) (atEnd 0) fun x _ => !targetOk (x.pc + (-1 : BitVec 21).signExtend 64 * 4),
   hy (howCtl (.braL false 2) false) now fun _ _ => !targetOk 2,
   hy (howCtl (.bc false 1 false 7 (-1)) false) (atEnd 1) fun x _ => !targetOk (x.pc + (-1 : BitVec 14).signExtend 64 * 4) &&
     x.sl.any fun k => x.c k 1 != false,
   hy (howCtl (.bcL false 1 true 0 (2 ^ 56)) false) (two 1 0 0 0) fun x _ => !targetOk (2 ^ 56) && x.sl.any fun k => x.c k 1 != true,
   hy (howCtl (.bcu false 1 false (-1)) false) (atEnd 1) fun x _ => !targetOk (x.pc + (-1 : BitVec 14).signExtend 64 * 4) &&
     x.sl.all fun k => x.c k 1 != false,
   hy (howCtl (.bcuL false 1 true 1) false) (two 0 0 0 0) fun x _ => !targetOk 1 && x.sl.all fun k => x.c k 1 != true,
   decide ((0xFFFFFFFFFFFFFFFF : DWord).toNat % 4 ≠ 0),
   hy (howCtl (.bcu false 1 false 3) false) (two 1 0 0 0) fun x _ =>
     x.sl.any (fun k => x.c k 1 != false) && x.sl.any (fun k => (x.c k 1 != false) == false),
   hy (howCtl (.jmpi false 2) false) (two 0 0 0x40 0x41) fun x _ => x.sl.any (fun k => !targetOk (x.ss k 2)),
   hy (howCtl (.jmpi false 2) false) (two 0 0 0x40 0x44) fun x _ =>
     x.sl.all (fun k => targetOk (x.ss k 2)) && x.sl.any (fun k => x.ss k 2 != x.ss x.low 2),
   hy (howCtl (.bc false 1 false 0 1) false) (modGroup (two 1 0 0 0) 2 fun g => { g with handler := some { handler with c := fset [] 1 1 } }) fun x _ =>
     x.inH && targetOk (x.pc + (1 : BitVec 14).signExtend 64 * 4) &&
     x.sl.any (fun k => x.c k 1 != false) && x.sl.any (fun k => (x.c k 1 != false) == false)
  ].all id = true := by decide +kernel

/-- What rejoins gives for a BC of len bytes to t. -/
def rejoinAt (z : Ctx) (s : State) (len : Nat) (t : DWord) : Option (DWord × State) :=
  if z.pc.toNat < t.toNat then match z.fetch s (t.toNat - 4) with
    | (.ok w, v) => some (rejoinOf t w, v)
    | _ => none
  else some (z.pc + BitVec.ofNat 64 len, s)

/-- A divergent BC of the two slices, with J7 and as many stack entries as given: p holds of the entry it splits into. -/
def diverges (len : Nat) (t : Ctx → DWord) (j : Rejoin) (d : Nat) (p : Ctx → Option Nat → Bool) (z : Ctx) (v : State) : Bool :=
  let tt := z.sl.filter fun k => z.c k 1 != false
  let ff := z.sl.filter fun k => !(z.c k 1 != false)
  !tt.isEmpty && !ff.isEmpty && targetOk (t z) && !z.inH && z.g.j.getD 7 ⟨false, 0, 0⟩ == j && z.g.dstack.length == d &&
  z.e == 0 && z.g.splits.length == 4 && (z.g.split z.e).valid && decide (7 < z.g.j.length) &&
  (rejoinAt z v len (t z)).any fun r => p z (Safety.splitEntry z r.2 7 r.1)

/-- J7 and d entries on the divergence stack of the two slices. -/
def stacked (j : Rejoin) (d : Nat) : State := modGroup (two 1 0 0 0) 2 fun g =>
  { g with
    j := g.j.set 7 j
    dstack := List.replicate d { mask := 1, arrived := 0, j := 0, join := false, owner := 0, pc := 0, rejoin := 0 } }

theorem witness_divergent_branch_splits :
  [hy (howCtl (.bc false 1 false 7 0) false) (stacked ⟨false, 0, 0⟩ 0) (diverges 4 (·.pc) ⟨false, 0, 0⟩ 0 fun _ e => e == some 1),
   hy (howCtl (.bc false 1 false 7 2) false) (stacked ⟨false, 0, 0⟩ 0) (diverges 4 (·.pc + 8) ⟨false, 0, 0⟩ 0 fun _ e => e == some 1),
   hy (howCtl (.bcL false 1 false 7 0) false) (stacked ⟨true, 3, 0x4003⟩ 0)
     (diverges 12 (fun _ => 0) ⟨true, 3, 0x4003⟩ 0 fun _ e => e == some 1),
   hy (howCtl (.bc false 1 false 7 2) false) (stacked ⟨true, 2, 0x4001⟩ 15)
     (diverges 4 (·.pc + 8) ⟨true, 2, 0x4001⟩ 15 fun _ e => e == none),
   hy (howCtl (.bc false 1 false 7 0) false) (stacked ⟨true, 3, 0x4000⟩ 16)
     (diverges 4 (·.pc) ⟨true, 3, 0x4000⟩ 16 fun _ e => e == none)].all id = true := by decide +kernel

/-- Every slice's window base and resident bottom. -/
def stack (wb rb alloc : Nat) : State := modGroup (two 0 0 0x40 0x40 fun q => { q with wb := wb, rb := rb }) 2 fun g =>
  { g with alloc := alloc, nregs := 8 }

/-- What callFits says. -/
def fits (x : Ctx) (n : Nat) : Bool :=
  x.sl.all fun k => decide ((x.g.slice k).wb + slideOf n + x.g.nregs ≤ 2 ^ 20) &&
    decide ((x.g.slice k).wb + slideOf n + x.g.nregs ≤ (x.g.slice k).rb + x.g.alloc)

/-- A link record below the window base. -/
def linked (wb rb : Nat) : State := modGroup (stack wb rb 64) 2 fun g =>
  g.writes ([0, 1].flatMap fun k => ((linkWords 0x44 1 []).zipIdx).map fun p => (linkRef g k (wb - 8) p.2, p.1))

theorem witness_calls_and_returns_complete :
  [hy (howCall (.call false 1 1) false 1) (stack 0 0 64) fun x _ =>
     targetOk (x.pc + (1 : BitVec 13).signExtend 64 * 4) && fits x 1,
   hy (howCall (.callL false 1 0x40) false 1) (stack 1048560 1048512 64) fun x _ => targetOk 0x40 && fits x 1,
   hy (howCall (.calli false 1 2) false 1) (stack 48 0 64) fun x _ => targetOk (x.ss x.low 2) &&
     x.sl.all (fun k => x.ss k 2 == x.ss x.low 2) && fits x 1,
   hy (howCtl (.ret false) false) (linked 16 8) fun x _ => x.sl.length == 2 && x.sl.all fun k =>
     decide ((x.g.slice k).rb + 8 ≤ (x.g.slice k).wb) &&
     (match readLink x.g k ((x.g.slice k).wb - 8) (x.g.slice k).wb with
      | some (n, ret, l) => ret == 0x44 && l == [] && decide ((x.g.slice k).rb + slideOf n ≤ (x.g.slice k).wb)
      | none => false)
  ].all id = true := by decide +kernel

/-- Link records at the same place in both slices that give the addresses r0 and r1 and slide n. -/
def linkedTo (wb rb n : Nat) (r0 r1 : DWord) : State := modGroup (stack wb rb 64) 2 fun g =>
  g.writes ([(0, r0), (1, r1)].flatMap fun q => ((linkWords q.2 n []).zipIdx).map fun p => (linkRef g q.1 (wb - 8) p.2, p.1))

/-- The slices' targets and whether they are equal. -/
def toOne (x : Ctx) (t : Nat → DWord) : Bool := x.sl.all fun k => targetOk (t k) && t k == t x.low

theorem witness_calls_and_returns_stop :
  [hy (howCall (.call false 1 (-1)) false 1) (modGroup (stack 0 0 64) 2 fun g => g.setPc [0, 1] 0xFF00000000000000) fun x _ =>
     !targetOk (x.pc + (-1 : BitVec 13).signExtend 64 * 4),
   hy (howCall (.callL false 1 2) false 1) (stack 0 0 64) fun x _ => x.sl.any fun _ => !targetOk 2,
   hy (howCall (.calli false 1 2) false 1) (two 0 0 0x40 0x41) fun x _ => x.sl.any fun k => !targetOk (x.ss k 2),
   hy (howCall (.calli false 1 2) false 1) (two 0 0 0x40 0x44) fun x _ => x.sl.all (fun k => targetOk (x.ss k 2)) &&
     x.sl.any fun k => x.ss k 2 != x.ss x.low 2,
   hy (howCall (.callL false 1 0x40) false 1) (stack 1048568 1048520 64) fun x _ => x.sl.length == 2 && toOne x (fun _ => 0x40) &&
     x.sl.any fun k => decide (2 ^ 20 < (x.g.slice k).wb + slideOf 1 + x.g.nregs),
   hy (howCall (.calli false 1 2) false 1) (stack 1048568 1048520 64) fun x _ => toOne x (x.ss · 2) &&
     x.sl.any fun k => decide (2 ^ 20 < (x.g.slice k).wb + slideOf 1 + x.g.nregs),
   hy (howCall (.callL false 1 0x40) false 1) (stack 56 0 64) fun z _ =>
     toOne z (fun _ => 0x40) && z.sl.all (fun k => decide ((z.g.slice k).wb + slideOf 1 + z.g.nregs ≤ 2 ^ 20)) &&
     !(z.sl.filter fun k => decide ((z.g.slice k).rb + z.g.alloc < (z.g.slice k).wb + slideOf 1 + z.g.nregs)).isEmpty,
   hy (howCtl (.ret false) false) (stack 0 0 64) fun x _ => x.sl.any fun k => (x.g.slice k).wb == 0,
   hy (howCtl (.ret false) false) (stack 16 8 64) fun x _ =>
     x.sl.all (fun k => decide ((x.g.slice k).rb + 8 ≤ (x.g.slice k).wb)) &&
     x.sl.any (fun k => (readLink x.g k ((x.g.slice k).wb - 8) (x.g.slice k).wb).isNone),
   hy (howCtl (.ret false) false) (linkedTo 16 8 1 0x44 0x48) fun x _ => x.sl == [0, 1] &&
     x.sl.all (fun k => decide ((x.g.slice k).rb + 8 ≤ (x.g.slice k).wb)) &&
     readLink x.g 0 8 16 == some (1, 0x44, []) && readLink x.g 1 8 16 == some (1, 0x48, []),
   hy (howCtl (.ret false) false) (stack 16 9 64) fun z _ => z.sl.all (fun k => (z.g.slice k).wb != 0) &&
     !(z.sl.filter fun k => decide ((z.g.slice k).wb < (z.g.slice k).rb + 8)).isEmpty,
   hy (howCtl (.ret false) false) (linkedTo 16 8 2 0x44 0x44) fun z _ => z.sl == [0, 1] && decide (slideOf 2 ≤ 16) &&
     readLink z.g 0 8 16 == some (2, 0x44, []) && readLink z.g 1 8 16 == some (2, 0x44, []) &&
     z.sl.all fun k => decide ((z.g.slice k).rb + 8 ≤ (z.g.slice k).wb ∧ (z.g.slice k).wb < (z.g.slice k).rb + slideOf 2)
  ].all id = true := by decide +kernel

/-- J7 as given, in a group of two slices. -/
def rejoin (r : Rejoin) : State := modGroup (two 0 0 0 0) 2 fun g => { g with j := g.j.set 7 r }

theorem witness_rejoining_completes :
  [hy (howCtl (.regang false 7) true) (rejoin ⟨false, 3, 0⟩) fun x _ => (topEntry x.g x.e).isNone && x.g.spcnt == 0 && !x.inH &&
     !((x.g.j.getD 7 ⟨false, 0, 0⟩).valid && sliceMask x.sl &&& (x.g.j.getD 7 ⟨false, 0, 0⟩).mask != 0),
   hy (howCtl (.regang false 7) true) (rejoin ⟨true, 3, 0x4000⟩) fun x _ =>
     let r := x.g.j.getD 7 ⟨false, 0, 0⟩
     let g := x.g.modSplit x.e fun p => { p with wait := true, wj := 7, mask := sliceMask x.sl }
     (topEntry x.g x.e).isNone && x.g.spcnt == 0 && r.valid && sliceMask x.sl != 0 &&
       sliceMask x.sl &&& r.mask == sliceMask x.sl && x.pc.extractLsb' 2 55 == r.pc &&
       (waitUnion g 7 != r.mask || loopsEqual g r.mask),
   hy (howCtl (.regang false 7) true) (rejoin ⟨true, 2, 0x4000⟩) fun x _ =>
     let r := x.g.j.getD 7 ⟨false, 0, 0⟩
     (topEntry x.g x.e).isNone && x.g.spcnt == 0 && r.valid && sliceMask x.sl &&& r.mask != 0 &&
       sliceMask x.sl &&& r.mask != sliceMask x.sl,
   hy (howCtl (.regang false 7) true) (rejoin ⟨true, 3, 0x4001⟩) fun x _ =>
     let r := x.g.j.getD 7 ⟨false, 0, 0⟩
     (topEntry x.g x.e).isNone && x.g.spcnt == 0 && r.valid && sliceMask x.sl &&& r.mask != 0 &&
       x.pc.extractLsb' 2 55 != r.pc,
   hy { howCtl (.exit false) true with compare := fun _ => true } now fun z _ =>
     !z.inH && z.g.dstack.isEmpty && z.g.spcnt == 0 && z.g.spill.isEmpty && z.g.j.all (fun r => !r.valid),
   hy (howCtl (.splitq false 63) false) now].all id = true := by decide +kernel

/-- Code with a NOP at 0x10004, and the slices' loop stacks as given. -/
def looping (l : List LoopEntry) (w : Word := 0) : State :=
  let s := { bootStream State.reset [0, w] with agenda := [], cur := some (2, 0) }
  modGroup s 2 fun g => { g with slices := g.slices.map fun q => { q with loops := l } }

theorem witness_loops_complete :
  [hy (howCtl (.loop false 5 1) false) (looping []) fun x s => match x.fetch s (x.pc + (1 : BitVec 14).signExtend 64 * 4).toNat with
     | (.ok w, _) => !x.inH && decide (wordOp w / 32 ≠ 7) && decide (wordOp w / 32 = 0 → wordOp w = 0) &&
       x.sl.all fun k => decide ((x.g.slice k).loops.length < 4) && x.s k 5 == x.s x.low 5
     | _ => false,
   hy (howCtl (.loopi false 0xFFF 1) false) (looping [⟨0, 0, 1⟩, ⟨0, 0, 1⟩, ⟨0, 0, 1⟩] 0x110) fun x s =>
     match x.fetch s (x.pc + (1 : BitVec 9).zeroExtend 64 * 4).toNat with
     | (.ok w, _) => !x.inH && decide (wordOp w / 32 ≠ 7) && decide (wordOp w / 32 = 0 → wordOp w = 0) &&
       x.sl.all fun k => decide ((x.g.slice k).loops.length < 4)
     | _ => false,
   hy (howCtl (.leave false) false) (looping []) fun x _ => !x.inH && x.sl.all fun k => (x.g.slice k).loops.isEmpty,
   hy (howCtl (.leave false) false) (looping [⟨0x10000, 0x10004, 1⟩]) fun x s => !x.inH && x.sl.length == 2 &&
     x.sl.all (fun k => (x.g.slice k).loops.head? == some ⟨0x10000, 0x10004, 1⟩) && (match x.fetch s 0x10004 with
       | (.ok _, _) => true
       | _ => false),
   hy (howCtl (.leave false) false) inHandler fun x _ => x.inH,
   hy (howCtl (.leave false) false) (modGroup (looping []) 2 fun g => g.modSlices [1] fun _ q =>
     { q with loops := [⟨0x10000, 0x10004, 1⟩] }) fun x _ => !x.inH && x.sl == [0, 1] &&
       (x.g.slice 0).loops.head? != (x.g.slice 1).loops.head?].all id = true := by decide +kernel

/-- The grid is debugged. -/
def debugged : State := modGrid now 0 fun g => { g with debug := true }

/-- LOOP of S5 or LOOPI with the body's last instruction one word on. -/
def loopHy (s : State) (count : Ctx → Nat → Word) (p : Ctx → Word → Bool) (x : Ctx) (v : State) : Bool :=
  !x.inH && match x.fetch v (x.pc + 4).toNat with
    | (.ok w, _) => p x w && (count x x.low == count x x.low) && s.mem == v.mem
    | _ => false

theorem witness_yield_trap_break :
  [hy { howCtl (.yield false 0xFFF 256) true with isYield := true } (group fun g => { g with budget := 0 }),
   hy (howCtl (.trap false 255) true) now fun x _ => !x.inH, hy (howCtl (.brk false 255) true) now fun x _ => !x.gr.debug,
   hy (howCtl (.brk false 255) true) debugged fun x _ => x.gr.debug,
   hy (howCtl (.trap false 255) true) inHandler fun x _ => x.inH, hy (howCtl (.loop false 5 1) false) inHandler fun x _ => x.inH,
   hy (howCtl (.loopi false 1 1) false) inHandler fun x _ => x.inH,
   hy (howCtl (.loop false 5 1) false) (looping [] 0x70) (loopHy (looping [] 0x70) (fun x k => x.s k 5) fun _ w =>
     decide (wordOp w / 32 = 0) && wordOp w != 0),
   hy (howCtl (.loopi false 1 1) false) (looping [] 0x700) (loopHy (looping [] 0x700) (fun _ _ => 1) fun _ w => wordOp w / 32 == 7),
   hy (howCtl (.loopi false 1 1) false) (looping (List.replicate 4 ⟨0, 0, 1⟩)) (loopHy (looping (List.replicate 4 ⟨0, 0, 1⟩)) (fun _ _ => 1)
     fun x w => wordOp w == 0 && x.sl.any fun k => decide (4 ≤ (x.g.slice k).loops.length)),
   (let s := modGroup (looping (List.replicate 3 ⟨0, 0, 1⟩)) 2 fun g => { g with slices := [{ g.slice 0 with s := fset [] 5 1 }, g.slice 0] }
    hy (howCtl (.loop false 5 1) false) s (loopHy s (fun x k => x.s k 5) fun x w => wordOp w == 0 &&
      x.sl.all (fun k => decide ((x.g.slice k).loops.length < 4)) && x.sl.any fun k => x.s k 5 != x.s x.low 5))].all id = true := by
  decide +kernel

/-! Class 101. -/

/-- The accesses l of a load or store w meet the hypotheses of its completion. -/
def reach (x : Ctx) (s : State) (n : Need) (size : Nat) (l : List (Nat × Nat)) : Bool :=
  match Safety.reached x s n size l with
  | some (acc, _) => acc.length == l.length
  | none => false

def needOf (n : Need) (w : ExtArgs) : Need := { n with scope := if ordered w then some (orderScope w) else none }

def loadHy (w : ExtArgs) (x : Ctx) (s : State) : Bool :=
  !(x.active w).isEmpty && reach x s (needOf needR w) (accessSize w) ((x.active w).map fun l => (l, x.ea w l))

def loadSHy (w : ExtArgs) (x : Ctx) (s : State) : Bool :=
  !(x.active w).isEmpty && reach x s (needOf needR w) (accessSize w) ((x.activeSlices w).map fun k => (k, x.eaS w k))

def storeHy (w : ExtArgs) (x : Ctx) (s : State) : Bool :=
  !(x.active w).isEmpty && reach x s (needOf needW w) (accessSize w) ((x.active w).map fun l => (l, x.ea w l))

def storeSHy (w : ExtArgs) (x : Ctx) (s : State) : Bool :=
  !(x.active w).isEmpty && reach x s (needOf needW w) (accessSize w) ((x.activeSlices w).map fun k => (k, x.eaS w k))

/-- The address registers V4:V5 and S4:S5 hold a. -/
def addressed (a : DWord) (s : State := now) : State := modGroup s 2 fun g =>
  let l (n : Nat) : FMap 32 := fset (fset [] n (a.extractLsb' 0 32)) (n + 1) (a.extractLsb' 32 32)
  { g with
    slices := g.slices.map fun q => { q with s := l 4 }
    v := (List.range 8).foldl (fun v k => fset (fset v (2048 * k + 4) (a.extractLsb' 0 32)) (2048 * k + 5)
      (a.extractLsb' 32 32)) [] }

/-- An extended form with one address operand at register 4, unguarded. -/
def mx (d sub : Nat) (lit : Option DWord := none) : ExtArgs := xw d sub 4 0 0 false lit

theorem witness_loads_complete :
  [hyB 0xA0 (bw 127 4 0) none (addressed 0x1FFFFFFC) (loadHy ((bw 127 4 0).ext none)),
   hyB 0xA0 (bw 6 4 0) (some 4) (addressed 0x1FFFFFF8) (loadHy ((bw 6 4 0).ext (some 4))),
   hyX 0xA0 (mx 124 14) (addressed 0x1FFFFFF0) (loadHy (mx 124 14)),
   hyB 0xA4 (bw 63 4 0) none (addressed 0x1FFFFFFC) (loadSHy ((bw 63 4 0).ext none)),
   hyB 0xA4 (bw 6 4 0) (some 4) (addressed 0) (loadSHy ((bw 6 4 0).ext (some 4))),
   hyX 0xA4 (mx 62 13) (addressed 0) (loadSHy (mx 62 13)),
   (match ctx? now with
    | some x => (kget now.groups x.uid).isSome
    | none => false)].all id = true := by decide +kernel

theorem witness_stores_complete :
  [hyB 0xA1 (bw 127 4 0) none (addressed 0x1FFFFFFC) (storeHy ((bw 127 4 0).ext none)),
   hyB 0xA1 (bw 6 4 0) (some 4) (addressed 0x1FFFFFF8) (storeHy ((bw 6 4 0).ext (some 4))),
   hy (howRelease (mx 124 14) (howOp 0xA1 true (mx 124 14))) (addressed 0x1FFFFFF0) (storeHy (mx 124 14)),
   hyB 0xA5 (bw 63 4 0) none (addressed 0x1FFFFFFC) (storeSHy ((bw 63 4 0).ext none)),
   hyB 0xA5 (bw 6 4 0) (some 4) (addressed 0) (storeSHy ((bw 6 4 0).ext (some 4))),
   hy (howRelease (mx 62 13) (howOp 0xA5 true (mx 62 13))) (addressed 0) (storeSHy (mx 62 13))].all id = true := by
  decide +kernel

/-- What localOk says. -/
def inLocal (x : Ctx) (n : Nat) (l : List Nat) : Bool :=
  !l.isEmpty && l.all fun a => a % n == 0 && decide (a + n ≤ x.gr.launch.localSize)

def atomlW : ExtArgs := { xw 6 327 4 8 10 false none with aux := 3 }

theorem witness_local_memory_completes :
  [hyB 0xA2 (bw 6 4 0) none (addressed 4092) (fun x _ => inLocal x 4 ((x.active ((bw 6 4 0).ext none)).map
     (x.eo ((bw 6 4 0).ext none)))),
   hyB 0xA2 (bw 6 4 0) (some 4) (addressed 4088) (fun x _ => inLocal x 4 ((x.active ((bw 6 4 0).ext (some 4))).map
     (x.eo ((bw 6 4 0).ext (some 4))))),
   hyX 0xA2 (mx 6 93) (addressed 4088) (fun x _ => inLocal x (accessSize (mx 6 93)) ((x.active (mx 6 93)).map (x.eo (mx 6 93)))),
   hyB 0xA3 (bw 6 4 0) none (addressed 4092) (fun x _ => inLocal x 4 ((x.active ((bw 6 4 0).ext none)).map
     (x.eo ((bw 6 4 0).ext none)))),
   hyX 0xA3 (mx 6 1) (addressed 4095) (fun x _ => inLocal x 1 ((x.active (mx 6 1)).map (x.eo (mx 6 1)))),
   hy (howAtom atomlW (howOp 0xA7 true atomlW)) (addressed 4092) (fun x _ =>
     inLocal x (atomSize atomlW) ((x.active atomlW).map fun l => (x.v l 4).toNat)),
   (match ctx? now with
    | some x => x.t.behind.isEmpty
    | none => false),
   (match ctx? now with
    | some x => resultsReady x.g x.e && (x.g.split x.e).trap.isNone
    | none => false),
   hyB 0xAB (bw 4 5 0) none (addressed 255) (fun x _ => !(x.active ((bw 4 5 0).ext none)).isEmpty &&
     (x.active ((bw 4 5 0).ext none)).all fun l => decide ((x.v l 4).toNat < 256)),
   hyX 0xAB (xw 4 0 5 0 0 false none) (addressed 255) (fun x _ => x.lanes.all fun l => decide ((x.v l 4).toNat < 256)),
   hyB 0xAC (bw 0 4 0) none (addressed 255) (fun x _ => x.lanes.all fun l => decide ((x.v l 4).toNat < 256)),
   hyX 0xAC (xw 0 0 4 0 0 false none) (addressed 255) (fun x _ => x.lanes.all fun l => decide ((x.v l 4).toNat < 256))
  ].all id = true := by decide +kernel

def atomHy (w : ExtArgs) (ea : Ctx → Nat → Nat) (x : Ctx) (s : State) : Bool :=
  !x.t.shadow && !(x.active w).isEmpty && reach x s (Safety.atomNeed w) (atomSize w) ((x.active w).map fun l => (l, ea x l))

def atomB (d : Nat) (l : Option DWord) : ExtArgs := (bw d 4 0).ext l
def pairA (w : ExtArgs) (x : Ctx) (l : Nat) : Nat := (x.vv l w.a.toNat).toNat

/-- The current stream's team is a shadow twin to which the old values of an atomic have been forwarded. -/
def shadowed : State :=
  let s := addressed 0x1FFFFFF8
  { s with teams := s.teams.map fun e => (e.1, { e.2 with shadow := true, fwd := [(0, 0, List.replicate 8 7)] }) }

theorem witness_atomics_complete :
  [hy (howAtom (atomB 6 none) (howOp 0xA6 false (atomB 6 none))) (addressed 0x1FFFFFFC)
     (atomHy (atomB 6 none) (pairA (atomB 6 none))),
   hy (howAtom (atomB 6 (some 1)) (howOp 0xA6 false (atomB 6 (some 1)))) (addressed 0x1FFFFFFC)
     (atomHy (atomB 6 (some 1)) (pairA (atomB 6 (some 1)))),
   hy (howAtom (mx 6 0x1A7) (howOp 0xA6 true (mx 6 0x1A7))) (addressed 0x1FFFFFF8)
     (atomHy (mx 6 0x1A7) (pairA (mx 6 0x1A7))),
   hy (howAtom (atomB 6 none) (howOp 0xA8 false (atomB 6 none))) (addressed 0x1FFFFFFC)
     (atomHy (atomB 6 none) (fun x l => x.ea (atomB 6 none) l)),
   hy (howAtom (mx 6 0xA5) (howOp 0xA8 true (mx 6 0xA5))) (addressed 0x1FFFFFF8)
     (atomHy (mx 6 0xA5) (fun x l => x.ea (mx 6 0xA5) l)),
   hy (howAtom (atomB 6 none) (howOp 0xA6 false (atomB 6 none))) shadowed fun x s => x.t.shadow &&
     reach x s (Safety.atomNeed (atomB 6 none)) 4 ((x.active (atomB 6 none)).map fun l => (l, (x.vv l 4).toNat)) &&
     forwarded x.t x.g.gid x.e == some (List.replicate 8 7)].all id = true := by decide +kernel

/-- The stream's 512 MiB have leaf entry e, and V4:V5 and S4:S5 hold a. -/
def leafed (e a : Nat) : State := let s := addressed (BitVec.ofNat 64 a); { s with mem := writeN s.mem 0x5000 8 e }

/-- The check of the accesses l finds an access fault of detail d first, or for d = 4 a page whose entry has V = 0. -/
def stopsAt (n : Need) (d : Nat) (x : Ctx) (s : State) (l : List (Nat × Nat)) : Bool :=
  match checkEach x.core x.gr.space false n s l with
  | (r, _, _) => (List.range d).all (fun k => (firstAccess k r).isNone) && (if d < 4 then (firstAccess d r).isSome
      else r.any fun e => decide (e.2.2 = .page 0x20000000))

def ldW : ExtArgs := (bw 6 4 0).ext none

/-- LD, ST, SLD, SST, ATOM and RED at the addresses of V4:V5 and S4:S5 in s: p holds of what each needs and of its accesses. -/
def sixOps (s : State) (p : Need → Ctx → State → List (Nat × Nat) → Bool) : List Bool :=
  let v (x : Ctx) := (x.active ldW).map fun l => (l, x.ea ldW l)
  let u (x : Ctx) := (x.activeSlices ldW).map fun k => (k, x.eaS ldW k)
  let a (x : Ctx) := (x.active ldW).map fun l => (l, (x.vv l 4).toNat)
  let r : Need := Safety.atomNeed ldW
  [hyB 0xA0 (bw 6 4 0) none s fun x t => p needR x t (v x), hyB 0xA4 (bw 6 4 0) none s fun x t => p needR x t (u x),
   hyB 0xA1 (bw 6 4 0) none s fun x t => p needW x t (v x), hyB 0xA5 (bw 6 4 0) none s fun x t => p needW x t (u x),
   hy (howAtom ldW (howOp 0xA6 false ldW)) s fun x t => p r x t (a x),
   hy (howAtom ldW (howOp 0xA8 false ldW)) s fun x t => p r x t (v x)]

theorem witness_accesses_fault :
  [(sixOps (leafed 0x5F 0x1FFFFFFE) fun _ _ _ l => l.any fun e => e.2 % 4 != 0).all id,
   (sixOps (leafed 0x5F (2 ^ 56)) fun n x t l => l.all (fun e => e.2 % 4 == 0) && stopsAt n 0 x t l).all id,
   (sixOps (leafed 0x5F (2 ^ 64 - 4)) fun n x t l => l.all (fun e => e.2 % 4 == 0) && stopsAt n 0 x t l).all id,
   (sixOps (leafed 0x25F 0x1000) fun n x t l => stopsAt n 1 x t l).all id,
   (sixOps (leafed 0x53 0x1000) fun n x t l => stopsAt n 2 x t l).all id,
   (sixOps (leafed 0x1F 0x3000) fun n x t l => stopsAt n 3 x t l).all id,
   (sixOps (leafed 0x5F 0x20000000) fun n x t l => stopsAt n 4 x t l).all id,
   ((kget (group fun g => g.addPending 0 { writes := [], await := none, bad := some ⟨5, 0x4000, false⟩ }).groups 2).any fun g =>
     (g.split 0).valid && (g.split 0).pend.any fun p => p.await.isNone && p.bad.isSome),
   hyX 0xA0 (mx 6 5) (leafed 0x5F 0x1FFFFFFC) (fun x _ => x.lanes.any fun l => x.ea (mx 6 5) l % 8 != 0),
   hyB 0xA2 (bw 6 4 0) none (addressed 4093) (fun x _ => x.lanes.any fun l => x.eo ((bw 6 4 0).ext none) l % 4 != 0),
   hyX 0xA2 (mx 6 5) (addressed 4092) (fun x _ => x.lanes.any fun l => x.eo (mx 6 5) l % 8 != 0),
   hyB 0xA2 (bw 6 4 0) (some 4) (addressed 4092) (fun x _ =>
     x.lanes.all (fun l => x.eo ((bw 6 4 0).ext (some 4)) l % 4 == 0) &&
     x.lanes.any fun l => decide (x.gr.launch.localSize < x.eo ((bw 6 4 0).ext (some 4)) l + 4)),
   hyB 0xA3 (bw 6 4 0) none (addressed 4094) (fun x _ => x.lanes.any fun l => x.eo ((bw 6 4 0).ext none) l % 4 != 0),
   hyB 0xA3 (bw 6 4 0) none (addressed 4096) (fun x _ => x.lanes.all fun l => x.eo ((bw 6 4 0).ext none) l == 4096),
   hy (howAtom atomlW (howOp 0xA7 true atomlW)) (addressed 4094) (fun x _ => x.lanes.any fun l => (x.v l 4).toNat % 4 != 0),
   hy (howAtom atomlW (howOp 0xA7 true atomlW)) (addressed 4096) (fun x _ => x.lanes.any fun l => decide (4096 < (x.v l 4).toNat + 4)),
   hyB 0xAB (bw 4 5 0) none (addressed 256) (fun x _ => x.lanes.any fun l => decide (255 < (x.v l 4).toNat)),
   hyB 0xAC (bw 0 4 0) none (addressed 256) (fun x _ => x.lanes.any fun l => decide (255 < (x.v l 4).toNat))
  ].all id = true := by decide +kernel

/-- A peer with its credits, in the domain. -/
def peered : State :=
  { now with pkgs := [0, 2303], peers := kset [] 2303 (Peer.init 0) }

theorem witness_fences_and_caches_complete :
  [hy { len := 4, cls := 5, wait := true, isYield := false, compare := fun _ => true, chk := fun _ => none } now,
   hy (howFence (howOp 0xA9 true (xw 14 0 0 0 0 false none)) fun x => !(x.active (xw 14 0 0 0 0 false none)).isEmpty) now,
   hyB 0xAD (bw 0 4 0) none (addressed 4), hyB 0xAD (bw 0 4 0) (some 4) (addressed 4),
   hyX 0xAD (xw 0 1 4 0 0 false none) (addressed 3), hyX 0xAD (xw 0 0 4 0 0 false none) (addressed 3),
   hyB 0xAE (bw 0 4 0) none (addressed 4), hyB 0xAE (bw 0 4 0) (some 4) (addressed 4),
   hyX 0xAE (xw 0 1 0 0 0 false none) (addressed 3) fun x _ => !(x.active (xw 0 1 0 0 0 false none)).isEmpty,
   (let w := (bw 63 4 5).ext (some 0xFFFFFFFFFFFFFFFF)
    hy (howCompare w (howOp 0xAF false w)) (addressed (2303 * 2 ^ 32) peered) fun x s => !(x.active w).isEmpty &&
      decide ((x.lowS 5).toNat ≤ 2303) && (takeBulk s (BitVec.ofNat 12 (x.lowS 5).toNat)).isSome),
   (let w := { xw 63 0 4 5 0 false (some 1) with y := false }
    hy (howCompare w (howOp 0xAF true w)) (addressed (2303 * 2 ^ 32) peered) fun x s => !(x.active w).isEmpty &&
      decide ((x.lowS 5).toNat ≤ 2303) && (takeBulk s (BitVec.ofNat 12 (x.lowS 5).toNat)).isSome),
   [0, 2, 3].all fun sub => hyX 0xAE (xw 0 sub 4 0 0 false none) (addressed 4) fun x s =>
     !(Safety.cctlLines (tlbOf s x.core false) x s ((x.active (xw 0 sub 4 0 0 false none)).map (x.ea (xw 0 sub 4 0 0 false none)))).isEmpty,
   (match ctx? now with
    | some x => (tlbOf now x.core false).isEmpty && !inGridSpace (2 ^ 63) && inGridSpace 0x1000 && inGridSpace 0x80000000 &&
        (match walkSpace now x.gr.space 0x1000 with
          | .leaf .. => true
          | _ => false) &&
        match walkSpace now x.gr.space 0x80000000 with
          | .leaf .. => false
          | _ => true
    | none => false)].all id = true := by
  decide +kernel

theorem witness_frame_of_memory_instructions :
  [hyB 0xA1 (bw 127 4 0) none (addressed 0x1FFFFFFC) fun x s => storeHy ((bw 127 4 0).ext none) x s && Memory.wf s.mem &&
     ((kget s.teams x.g.team).bind (·.twin)).isNone && (snapRoot s x.t.grid.toNat).isNone && (kget s.groups x.uid).isSome &&
     kget s.teams x.g.team == some x.t && fwf x.t.mem].all id = true := by decide +kernel
/-! Class 110. -/

/-- Scalar registers of both slices, and memory words as (address, bytes, value). -/
def with_ (regs : List (Nat × Nat)) (mem : List (Nat × Nat × Nat)) (s : State := now) : State :=
  let s := { s with mem := mem.foldl (fun m e => writeN m e.1 e.2.1 e.2.2) s.mem }
  modGroup s 2 fun g => { g with slices := g.slices.map fun q =>
    { q with s := regs.foldl (fun l e => fset l e.1 (BitVec.ofNat 32 e.2)) q.s } }

/-- A shape record of rank 2 in format slot 0 (R281). -/
def shapeRec (base bound crec space d0 d1 b0 b1 : Nat) : Nat :=
  base + 2 ^ 64 * bound + 2 ^ 192 * crec + 2 ^ 256 * (d0 + 2 ^ 32 * d1 + 2 ^ 64 + 2 ^ 96 + 2 ^ 128) + 2 ^ 416 * 2
    + 2 ^ 432 * space + 2 ^ 448 * (1 + 2 ^ 64 * d0) + 2 ^ 928 * (b0 + 2 ^ 16 * b1 + 2 ^ 32 + 2 ^ 48 + 2 ^ 64)

/-- Two records in memory, one of local memory, the words of ROUTE and COLL, and registers that name them. -/
def records : State :=
  with_ [(4, 0x6000), (6, 0x6080), (8, 0x80000000), (10, 0x6100), (12, 0x6180), (14, 0x61C0), (16, 0x6200), (18, 255)]
    [(0x6000, 128, shapeRec 0x7000 4 0 0 1 1 1 1), (0x6080, 128, shapeRec 0x7100 4 0x7200 0 1 1 1 1),
     (0x6100, 128, shapeRec 0x100 4 0x80000000 1 1 1 1 1), (0x6180, 40, 1 + 2 ^ 32 + 2 ^ 64 + 2 ^ 96 + 2 ^ 256 * 0x80000000),
     (0x61C0, 32, 0), (0x6200, 32, 0x6000 + 2 ^ 64 * 0x7300)]

def fifoOf (n : Nat) : State := modCore now 0 fun k =>
  { k with fifo := List.replicate n { id := 0, team := 1, group := 2, batch := 0, kind := .arel 0 } }

/-- A window of 1024 registers and 8-bit formats. -/
def mmaNow : State := modGroup fp8 2 fun g => { g with nregs := 1024, alloc := 1024 }

def postHy (w : ExtArgs) (x : Ctx) (s : State) : Bool := !(x.active w).isEmpty && !fifoFull s x.core

/-- A guarded, switch-marked word of two operands. -/
def q2 (d a b : Nat) : ExtArgs := xw d 0 a b 0 false none

theorem witness_matrix_operations_post :
  [hyB 0xC0 (bw 15 4 5) none mmaNow (postHy ((bw 15 4 5).ext none)), hyX 0xC0 (q2 15 4 5) mmaNow (postHy (q2 15 4 5)),
   hyB 0xC1 (bw 14 4 5) none mmaNow (postHy ((bw 14 4 5).ext none)), hyX 0xC1 { q2 14 4 5 with c := 15 } mmaNow (postHy { q2 14 4 5 with c := 15 }),
   hyB 0xC2 (bw 15 0 0) none (fifoOf 63) (postHy ((bw 15 0 0).ext none)), hyX 0xC2 (q2 15 0 0) now (postHy (q2 15 0 0)),
   hyB 0xC3 (bw 15 0 0) none now (postHy ((bw 15 0 0).ext none)), hyX 0xC3 (q2 15 0 0) now (postHy (q2 15 0 0)),
   hyB 0xC5 (bw 15 112 4) none (with_ [(4, 31)] []) fun x s => postHy ((bw 15 112 4).ext none) x s &&
     decide ((x.bS ((bw 15 112 4).ext none) x.low).toNat * x.g.width < 256),
   hyB 0xC5 (bw 15 112 0) (some 31) now fun x s => postHy ((bw 15 112 0).ext (some 31)) x s &&
     decide ((x.bS ((bw 15 112 0).ext (some 31)) x.low).toNat * x.g.width < 256),
   hyX 0xC5 (q2 15 112 4) now fun x s => postHy (q2 15 112 4) x s && decide ((x.bS (q2 15 112 4) x.low).toNat * x.g.width < 256),
   hyB 0xC4 (bw 112 15 4) none (with_ [(4, 31)] []) fun x s => postHy ((bw 112 15 4).ext none) x s &&
     decide ((x.bS ((bw 112 15 4).ext none) x.low).toNat * x.g.width < 256),
   hyX 0xC4 (q2 112 15 4) now fun x s => postHy (q2 112 15 4) x s && decide ((x.bS (q2 112 15 4) x.low).toNat * x.g.width < 256),
   hyB 0xC6 (bw 15 4 8) none records fun x s => postHy ((bw 15 4 8).ext none) x s && !copyFull s x.core &&
     (match readShape x s (x.lowPair 4) with
      | .ok sh _ => tileShape sh && (x.slot 0).elem == sh.elem
      | _ => false) && wordOk x.gr.launch.localSize (x.lowS 8),
   (let w : ExtArgs := { q2 15 4 8 with sub := 1 }
    hyX 0xC6 w records fun x s => postHy w x s && !copyFull s x.core && (match readShape x s (x.lowPair 4) with
      | .ok sh _ => tileShape sh && (x.slot 0).elem == sh.elem && !sh.loc && (x.slot 0).elem == .fp32
      | _ => false) && wordOk x.gr.launch.localSize (x.lowS 8)),
   hyX 0xC0 (q2 15 4 5) (modCore mmaNow 0 fun k => { k with fifo := (coreAt (fifoOf 64) 0).fifo }) fun x s =>
     !(x.active (q2 15 4 5)).isEmpty && fifoFull s x.core].all id = true := by decide +kernel

/-- The group's current batch is 200, with n outstanding. -/
def batches (n : Nat) (r : Nat := 0) : State := modGroup (with_ [(4, r)] []) 2 fun g => { g with mbatch := 200, mopen := n }

def mwaitHy (w : ExtArgs) (p : Ctx → Nat → Nat → Bool) (x : Ctx) (_ : State) : Bool :=
  !(x.active w).isEmpty && p x (Safety.mwaitNumber x w) (Safety.mwaitDist x w)

theorem witness_batches_complete :
  [hyB 0xC7 (bw 63 0 0) none (batches 63) fun x _ => decide (x.g.mopen < 64),
   hyX 0xC7 (q2 63 0 0) (batches 0) fun x _ => decide (x.g.mopen < 64),
   hyB 0xC8 (bw 0 4 0) none (batches 0 199) (mwaitHy ((bw 0 4 0).ext none) fun x n d =>
     decide (n < 256) && d == 1 && decide (x.g.mopen < d)),
   hyB 0xC8 (bw 0 0 0) (some 72) (batches 64) (mwaitHy ((bw 0 0 0).ext (some 72)) fun x n d =>
     decide (n < 256) && d == 128 && decide (x.g.mopen < d)),
   hyX 0xC8 (q2 0 4 0) (batches 0 199) (mwaitHy (q2 0 4 0) fun x _ d => d == 1 && decide (x.g.mopen < d)),
   hyB 0xC8 (bw 0 4 0) none (batches 0 256) (mwaitHy ((bw 0 4 0).ext none) fun _ n _ => decide (256 ≤ n)),
   hyB 0xC8 (bw 0 4 0) none (batches 0 200) (mwaitHy ((bw 0 4 0).ext none) fun _ n d => decide (n < 256) && d == 0),
   hyB 0xC8 (bw 0 4 0) none (batches 0 71) (mwaitHy ((bw 0 4 0).ext none) fun _ n d => decide (n < 256) && d == 129),
   hyB 0xC8 (bw 0 4 0) none (batches 1 199) (mwaitHy ((bw 0 4 0).ext none) fun x _ d => d == 1 && decide (d ≤ x.g.mopen))
  ].all id = true := by decide +kernel

/-- The records that S[a] and S[b] name, where both are well-formed. -/
def both (x : Ctx) (s : State) (a b : Nat) (p : Shape → Shape → Bool) : Bool :=
  match readShape x s (x.lowPair a) with
  | .ok d v => match readShape x v (x.lowPair b) with
    | .ok c _ => d.box == c.box && elemBits d.elem == elemBits c.elem && p d c
    | _ => false
  | _ => false

theorem witness_copies_and_fences_post :
  [hyB 0xC9 (bw 4 6 8) none records fun x s => !(x.active ((bw 4 6 8).ext none)).isEmpty && !copyFull s x.core &&
     both x s 4 6 (fun _ _ => true) && wordOk x.gr.launch.localSize (x.lowS 8),
   hyX 0xC9 (q2 10 6 8) records fun x s => !copyFull s x.core && both x s 10 6 (fun _ _ => true) && wordOk x.gr.launch.localSize (x.lowS 8),
   hyB 0xCA (bw 18 4 10) none records fun x s => !copyFull s x.core && both x s 10 4 (fun d c => d.loc && !c.loc &&
     wordOk x.gr.launch.localSize (d.crec.extractLsb' 0 32)) && (x.lowS 18).toNat == 255,
   hyX 0xCA (q2 18 4 10) records fun x s => !copyFull s x.core && both x s 10 4 (fun d c => d.loc && !c.loc),
   hyB 0xCB (bw 15 0 0) none now fun x s => !fifoFull s x.core && !copyFull s x.core && !routeFull s x.core && !collFull s x.core,
   hyX 0xCB (q2 1 0 0) (fifoOf 63) fun x s => !fifoFull s x.core,
   hyB 0xCF (bw 4 18 0) none (with_ [(18, 31)] [] records) fun x s => (x.lowS 18).toNat == 31 && (x.lowPair 4).toNat % 128 == 0 &&
     (Safety.reached x s needW 4 [(x.low, (x.lowPair 4).toNat + 4 * 31)]).isSome,
   hyB 0xCF (bw 4 0 0) (some 9) records fun x s =>
     (x.lowPair 4).toNat % 128 == 0 && (Safety.reached x s needW 4 [(x.low, (x.lowPair 4).toNat)]).isSome,
   hyX 0xCF (q2 4 0 6) records fun x s =>
     (x.lowPair 4).toNat % 128 == 0 && (Safety.reached x s needW 4 [(x.low, (x.lowPair 4).toNat)]).isSome].all id = true := by
  decide +kernel

def routeHy (x : Ctx) (s : State) : Bool :=
  !routeFull s x.core && (x.lowPair 14).toNat % 32 == 0 && (x.lowPair 12).toNat % 64 == 0 &&
    match readShape x s (x.lowPair 4) with
    | .ok sh s1 => match getOperand x s1 (x.lowPair 12).toNat 64 64 with
      | .ok v s2 => routeRules false v && scoreRules sh (fieldOf v 0 4) (fieldOf v 4 4) &&
          wordOk x.gr.launch.localSize (BitVec.ofNat 32 (fieldOf v 0x20 4)) && fieldOf v 0x18 8 == 0 &&
          (List.range (fieldOf v 4 4)).all (fun r => decide (r < fieldOf v 8 4)) &&
          (match getOperand x s2 (x.lowPair 14).toNat 32 32 with
           | .ok _ _ => true
           | _ => false)
      | _ => false
    | _ => false

def collHy (x : Ctx) (s : State) : Bool :=
  let d := (x.lowPair 16).toNat
  !collFull s x.core && d % 32 == 0 && canonical d && wordOk x.gr.launch.localSize (x.lowS 8) &&
    match getOperand x s d 32 32 with
    | .ok v s1 => fieldOf v 8 8 % 8 == 0 && fieldOf v 0x18 8 == 0 &&
        (match readShape x s1 (BitVec.ofNat 64 (fieldOf v 0 8)) with
         | .ok sh s2 => !sh.loc && tileShape sh && sh.elem == .fp32 && !flagOnNC s2 x.gr.space (fieldOf v 8 8)
         | _ => false)
    | _ => false

def seqgoHy (x : Ctx) (s : State) : Bool :=
  let go (v : State) : Bool := match launchColl x.gr.space (x.lowPair 4) none v with
    | .status _ _ _ => true
    | _ => false
  if (x.lowPair 4).toNat % 64 ≠ 0 then go s
  else match checkAccesses s x.core x.gr.space false needR 64 [(x.low, (x.lowPair 4).toNat)] with
    | (.page _ _, _, _) => false
    | (_, miss, q) => go (x.count q 11 miss)

theorem witness_routing_and_collectives_post :
  [hyB 0xCC (bw 14 4 12) none records routeHy, hyX 0xCC (q2 14 4 12) records routeHy,
   hyB 0xCD (bw 15 16 8) none records collHy, hyX 0xCD (q2 15 16 8) records collHy,
   hyB 0xCE (bw 63 4 0) none (with_ [(4, 1)] []) seqgoHy, hyX 0xCE (q2 63 4 0) (with_ [(4, 0x40)] []) seqgoHy].all id = true := by
  decide +kernel

/-- The stream's barrier operations on a local and on a memory object; S4 is the barrier word, S6 the B operand. -/
def barHy (word : Nat) (scope : Option Nat) (p : Barrier → Bool) (x : Ctx) (s : State) : Bool :=
  match barrierAt x s (x.lowS word) scope with
  | .ok q v => p q.2 && (barrierPoison v q.1).isNone
  | _ => false

theorem witness_barriers_complete :
  [hyB 0xD0 (bw 0 4 6) none (with_ [(4, 4080), (6, 0x6FFFF)] []) fun x s => barHy 4 (some 6) (fun _ => true) x s &&
     (x.bS ((bw 0 4 6).ext none) x.low).toNat == 0x6FFFF,
   hyB 0xD0 (bw 0 4 0) (some 1) (with_ [(4, 0x80000001)] []) (barHy 4 (some 0) fun _ => true),
   hyX 0xD0 (q2 0 4 6) (with_ [(4, 0), (6, 0x10001)] []) (barHy 4 (some 1) fun _ => true),
   hyB 0xD1 (bw 0 4 6) none (with_ [(4, 4080), (6, 0xFFFF)] []) (barHy 4 none fun _ => true),
   hyX 0xD1 (q2 0 4 6) (with_ [(4, 0x80000000), (6, 1)] []) (barHy 4 none fun _ => true),
   hyB 0xD2 (bw 0 4 6) none (with_ [(4, 8), (6, 0x7FFFFFFF)] []) (barHy 4 none fun _ => true),
   hyX 0xD2 (q2 0 4 6) (with_ [(4, 0x80000000), (6, 1)] []) (barHy 4 none fun _ => true),
   hyB 0xD4 (bw 6 4 6) none (with_ [(4, 0x80000000), (6, 1)] []) fun x s => decide ((x.lowS 6).toNat ≤ 1) && barHy 4 none (fun b => !b.phase) x s,
   hyX 0xD4 (q2 6 4 6) (with_ [(4, 0)] []) fun x s => decide ((x.lowS 6).toNat ≤ 1) && barHy 4 none (fun b => !b.phase) x s,
   decide (sat32 ((1 : Int) - 1) ≤ 0) && decide (sat32 (0 + 0) ≤ 0)].all id = true := by decide +kernel

def waitvHy (w : ExtArgs) (holds : Bool) (x : Ctx) (s : State) : Bool :=
  !(x.active w).isEmpty && !x.inH && match waitvRead x s (x.lowPair 4).toNat with
    | .ok q _ => intCompare w.sub.toNat (BitVec.ofNat 32 q.1) (x.bS w x.low) == holds
    | _ => false

/-- The handler's registers hold what the group's do. -/
def handling (s : State) : State := modGroup s 2 fun g => { g with handler := some handler }

theorem witness_waits_complete :
  [hy (howBwait ((bw 8 4 6).ext none) (howOp 0xD3 false ((bw 8 4 6).ext none))) (with_ [(4, 0x80000000), (6, 1)] [])
     fun x s => !x.inH && x.lowS 6 == 1 && barHy 4 none (fun b => !b.phase) x s,
   hy (howBwait (q2 8 4 6) (howOp 0xD3 true (q2 8 4 6))) (with_ [(4, 0), (6, 0)] []) fun x s =>
     !(x.active (q2 8 4 6)).isEmpty && !x.inH && x.lowS 6 == 0 && barHy 4 none (fun b => !b.phase) x s,
   hy (howWait ((bw 8 4 6).ext none) (howOp 0xD5 false ((bw 8 4 6).ext none))) (with_ [(4, 0x6000), (6, 0)] [])
     (waitvHy ((bw 8 4 6).ext none) true),
   hy (howWait ((bw 8 4 0).ext (some 7)) (howOp 0xD5 false ((bw 8 4 0).ext (some 7)))) (with_ [(4, 0x6000)] [(0x6000, 4, 7)])
     (waitvHy ((bw 8 4 0).ext (some 7)) true),
   hy (howWait (q2 8 4 6) (howOp 0xD5 true (q2 8 4 6))) (with_ [(4, 0x6000), (6, 1)] []) (waitvHy (q2 8 4 6) false),
   hy (howBwait ((bw 8 4 6).ext none) (howOp 0xD3 false ((bw 8 4 6).ext none))) (handling now)
     fun x _ => !(x.active ((bw 8 4 6).ext none)).isEmpty && x.inH,
   hy (howWait (q2 8 4 6) (howOp 0xD5 true (q2 8 4 6))) (handling now) fun x _ => !(x.active (q2 8 4 6)).isEmpty && x.inH
  ].all id = true := by decide +kernel

/-! More of the first statements: words that no encoding gives, fetches that fail, traps that wait, held groups and the divergence stack. -/

/-- A stream at the words l. -/
def atWords (l : List Word) : State := { bootStream State.reset l with agenda := [], cur := some (2, 0) }

/-- The stream's fetch: p holds of it, of what it gives and of the state that it leaves. -/
noncomputable def fetched (s : State) (p : Ctx → State ⊕ List Word → State → Bool) : Bool :=
  match ctx? s with
  | some x => p x (fetchInstr x s).1 (fetchInstr x s).2
  | none => false

/-- The words at the stream's program counter are refused by check n. -/
noncomputable def refused (n : Nat) (s : State) : Bool := fetched s fun _ r u =>
  match r with
  | .inr l => decode l == .reject n && (match ctx? u with
    | some z => (z.g.split z.e).trap.isNone && resultsReady z.g z.e && !z.g.hold
    | none => false)
  | .inl _ => false

/-- The stream's fetch ends the step. -/
noncomputable def fetchEnds (s : State) : Bool := fetched s fun _ r _ =>
  match r with
  | .inl _ => true
  | .inr _ => false

/-- The stream's program counter is at a. -/
def pcAt (a : Nat) (s : State := now) : State := modGroup s 2 fun g => g.setPc (List.range 16) (BitVec.ofNat 64 a)

/-- What the page of the leaf entry e gives a fetch. -/
noncomputable def fetchWalk (e : Nat) (p : State → Nat → AddrCheck → Bool) : Bool :=
  let s := { now with mem := writeN now.mem 0x5000 8 e }
  inGridSpace 0x10000 && match translate s 0 false 1 0x10000 with
    | (w, _, u) => p u 0x10000 (checkWalk u.pkg (some (dieOfCore 0)) 0x10000 needX w)

theorem witness_step_and_fetch_stop :
  [refused 1 (atWords [0x3F <<< 3]), refused 2 (atWords [2]), refused 3 (atWords [1]), refused 9 (atWords [0x07 <<< 3 ||| 1 <<< 11]),
   fetchEnds (pcAt 0x20000000), fetchEnds (pcAt 0xFFFFFFFFFFFFFFFC), fetchEnds (pcAt 0x1FFFFFFC (with_ [] [(0x1FFFFFFC, 4, 0x111)])),
   fetched (split fun p => { p with trap := some (trap 2) }) fun x _ _ => !x.inH && (x.g.split x.e).trap.isSome,
   !inGridSpace (2 ^ 56) && !inGridSpace (2 ^ 64 - 4),
   fetchWalk 0 fun _ _ r => r == .page 0, fetchWalk 0x25F fun _ _ r => r == .access 1, fetchWalk 0x4F fun _ _ r => r == .access 2,
   fetchWalk (0x5F + 5 * 2 ^ 40) fun u _ r => match r with
     | .ok pa _ => targetRefuses u pa
     | _ => false,
   fetched (pcAt 0x1FFFFFFC (with_ [] [(0x1FFFFFFC, 4, 0x111)])) fun x _ _ =>
     match x.fetch (with_ [] [(0x1FFFFFFC, 4, 0x111)]) 0x1FFFFFFC with
     | (.ok w, v) => (match decode [w] with
         | .reject n => decide (3 < n)
         | .ok _ => true) && (x.fetchMore (lenWords (wordLen w) - 1) 0x20000000 v [w]).1.isLeft
     | _ => false].all id = true := by decide +kernel

/-- The group is held and its stream steps. -/
def heldGroup (l : List Pending) (t : Option Trap := none) : State :=
  modGroup (split fun p => { p with pend := l, trap := t, step := true }) 2 fun g => { g with hold := true }

theorem witness_order_of_issue_in_a_held_group :
  [fetched (split fun p => { p with pend := [{ writes := [], await := some 9 }] }) fun x _ _ => !x.g.hold && !resultsReady x.g x.e,
   fetched (heldGroup [{ writes := [], await := none }]) fun x _ _ => x.g.hold && !(x.g.split x.e).pend.isEmpty,
   fetched (heldGroup []) fun x _ _ => x.g.hold && resultsReady x.g x.e && (x.g.split x.e).pend.isEmpty,
   fetched (heldGroup [] (some (trap 2))) fun x _ _ =>
     x.g.hold && (x.g.split x.e).pend.isEmpty && !x.inH && (x.g.split x.e).trap.isSome].all id = true := by decide +kernel

/-- Another group of the partition runs a handler. -/
def busyPartition : State := { handled with groups := kset handled.groups 6 { g0 with handler := some handler } }

theorem witness_traps_wait_and_pages_go_to_the_host :
  [(kget busyPartition.groups 2).isSome && (kget busyPartition.teams 1).any (fun t => decide (t.core = some 0)) &&
     partitionBusy busyPartition 0 g0.part && !handlerOn g0 0 && decide (0 < g0.splits.length) && handlerAddr busyPartition 0 2 != 0,
   (let t : Trap := { trap 3 with need := [(1, 8), (0, 4)] }
    decide ((t.need.map (·.1)).Nodup) && t.need.all (fun q => decide (q.1 < g0.slices.length)) && handlerAddr handled 0 3 != 0),
   !handlerOn g0 0 && (g0.split 0).mapp.isNone && hostMode { now with mgmt := { now.mgmt with fnmode := 1 } } 0,
   !handlerOn g0 0 && (g0.split 0).mapp.isNone && !hostMode now 0 && handlerAddr now 0 1 == 0].all id = true := by decide +kernel

theorem witness_literal_branches_fault :
  [hy (howCtl (.bcuL false 1 false 0x40) false) (two 1 0 0 0) fun x _ =>
     x.sl.any (fun k => x.c k 1 != false) && x.sl.any (fun k => (x.c k 1 != false) == false),
   hy (howCtl (.bcL false 1 false 0 0x40) false) (modGroup (two 1 0 0 0) 2 fun g => { g with handler := some { handler with c := fset [] 1 1 } }) fun x _ =>
     x.inH && targetOk 0x40 && x.sl.any (fun k => x.c k 1 != false) && x.sl.any (fun k => (x.c k 1 != false) == false)].all id = true := by
  decide +kernel

/-- A stack entry of split o for J7. -/
def dent (o : BitVec 2) (mask : BitVec 16) (join : Bool) (r : DWord) : DivEntry :=
  { mask := mask, arrived := 0, j := 7, join := join, owner := o, pc := 0x40, rejoin := r }

/-- Two slices at 0x10000 with J7, the stack l and n spilled entries at base. -/
def onStack (l : List DivEntry) (n : Nat := 0) (base : DWord := 0x6000) (r : Rejoin := ⟨false, 0, 0⟩) : State :=
  modGroup (with_ [] [(0x6000, 32, divToNat (dent 0 4 false 0x10000))] (rejoin r)) 2 fun g => { g with dstack := l, spcnt := n, spbase := base }

def full : List DivEntry := List.replicate 16 (dent 1 4 false 0)

/-- The read of the oldest spilled entry. -/
noncomputable def spilled (s : State) (p : State → Checked → Bool) : Bool := fetched s fun x _ _ =>
  (topEntry x.g x.e).isNone && x.g.spcnt != 0 && decide (x.g.dstack.length < 16) &&
    match checkAccesses s x.core x.gr.space false needR 32 [(0, x.g.spbase.toNat + 32 * (x.g.spcnt - 1))] with
    | (r, miss, v) => p (x.count v 11 miss) r

def oneRead (p : State → Nat → Bool) (v : State) (r : Checked) : Bool :=
  match r with
  | .ok [(pa, _)] => !accessAwaited v pa && p v pa
  | _ => false

theorem witness_refill :
  [fetched (onStack full 1) fun x _ _ => (topEntry x.g x.e).isNone && x.g.spcnt != 0 && decide (16 ≤ x.g.dstack.length),
   spilled (onStack [] 1 0x20000000) fun _ r => match r with
     | .ok _ => false
     | _ => true,
   spilled (onStack [] 1) (oneRead fun v pa => !targetRefuses v pa && (poisonAt v pa 32).isNone),
   spilled { onStack [] 1 with poison := [(0x6000 / 128, 9)] } (oneRead fun v pa => (poisonAt v pa 32).isSome),
   spilled { onStack [] 1 with mem := writeN (onStack [] 1).mem 0x5000 8 (0x5F + 5 * 2 ^ 40) } (oneRead fun v pa => targetRefuses v pa)
  ].all id = true := by decide +kernel

/-- What the refill of a REGANG of J7 gives. -/
def refills (how : IssueHow) (s : State) (p : Ctx → Refill → Bool) : Bool := hy how s fun z t => p z (refill z 4096 t z.g)

def ganging : IssueHow := howCtl (.regang false 7) true

/-- The group that REGANG brings to J7, and the one that then waits there. -/
def joins (s : State) (p : Ctx → Group → BitVec 16 → Rejoin → Group → Bool) : Bool := refills ganging s fun z r =>
  match r with
  | .ok _ g => (Safety.atJoin z g 7).any fun q =>
      p z q.1 q.2 (q.1.j.getD 7 ⟨false, 0, 0⟩) (q.1.modSplit z.e fun y => { y with wait := true, wj := 7, mask := q.2 })
  | _ => false

theorem witness_regang_with_a_stack :
  [refills ganging (onStack full 1) fun _ r => match r with
     | .trap _ => true
     | _ => false,
   refills ganging (onStack [] 1 0x20000000) fun _ r => match r with
     | .fault _ => true
     | _ => false,
   refills ganging (onStack [dent 0 4 false 0x44]) fun z r => match r with
     | .ok _ g => (topEntry g z.e).any fun d => d.2.j == 7 && z.pc != d.2.rejoin
     | _ => false,
   refills ganging (onStack [] 1) fun z r => match r with
     | .ok _ g => (topEntry g z.e).any fun d => d.2.j == 7 && z.pc == d.2.rejoin && !d.2.join
     | _ => false,
   joins (onStack [dent 0 4 true 0x10000]) fun z h _ r _ => !z.inH && h.dstack.isEmpty && !r.valid,
   joins (onStack [dent 0 4 true 0x10000] 0 0 ⟨true, 7, 0x4000⟩) fun z h m r p => h.dstack.isEmpty && r.valid && m != 0 && m &&& r.mask == m &&
     z.pc.extractLsb' 2 55 == r.pc && waitUnion p 7 != r.mask,
   joins (onStack [] 0 0 ⟨true, 2, 0x4000⟩) fun _ _ m r _ => r.valid && m &&& r.mask != 0 && m &&& r.mask != m,
   joins (modGroup (onStack [] 0 0 ⟨true, 3, 0x4000⟩) 2 fun g => g.modSlices [1] fun _ q => { q with loops := [⟨0x10000, 0x10004, 1⟩] })
     fun z _ m r p => r.valid && m &&& r.mask == m && m &&& r.mask != 0 && z.pc.extractLsb' 2 55 == r.pc && waitUnion p 7 == r.mask &&
       !loopsEqual p r.mask,
   joins (onStack [] 0 0 ⟨true, 3, 0x4000⟩) fun z _ m r p => r.valid && m != 0 && m &&& r.mask == m && z.pc.extractLsb' 2 55 == r.pc &&
     waitUnion p 7 == r.mask && loopsEqual p r.mask].all id = true := by decide +kernel

def leaving : IssueHow := { howCtl (.exit false) true with compare := fun _ => true }

/-- Slices 2 and 3 wait on J7, whose mask has all four, with the loops l of slice 3. -/
def waitingAt7 (s : State) (l : List LoopEntry) : State := modGroup s 2 fun g =>
  let g := { g with slices := [g.slice 0, g.slice 1, g.slice 0, { g.slice 0 with loops := l }], j := g.j.set 7 ⟨true, 15, 0x4000⟩ }
  (g.modSplit 0 fun p => { p with mask := 3 }).modSplit 1 fun p => { p with valid := true, wait := true, wj := 7, mask := 12 }

/-- The J registers that EXIT brings to a merge: p holds of their loops. -/
def merging (g : Group) (m : BitVec 16) (p : BitVec 16 → Bool) : List Nat := (List.range 8).filter fun n =>
  g.j[n]?.any fun a => a.valid && a.mask &&& m != 0 && a.mask &&& ~~~m != 0 && waitUnion g n == a.mask &&& ~~~m && p (a.mask &&& ~~~m)

/-- EXIT with the stack refilled: p holds of the group, of the slices that leave and of the group without them, refilled. -/
def exits (s : State) (p : Ctx → Group → BitVec 16 → Group → Bool) : Bool := refills leaving s fun z r =>
  match r with
  | .ok v g => !z.inH && match refill z 4096 v (removeSlices g (sliceMask z.sl)) with
    | .ok _ h => p z g (sliceMask z.sl) h
    | _ => false
  | _ => false

theorem witness_exit_with_a_stack :
  [hy leaving inHandler fun z _ => z.inH,
   refills leaving (onStack full 1) fun z r => match r with
     | .trap _ => !z.inH
     | _ => false,
   refills leaving (onStack [] 1 0x20000000) fun z r => match r with
     | .fault _ => !z.inH
     | _ => false,
   exits (waitingAt7 (onStack []) [⟨0x10000, 0x10004, 1⟩]) fun _ g m _ => !(merging g m fun k => !loopsEqual g k).isEmpty,
   exits (waitingAt7 (onStack []) []) fun z g m h => (merging g m fun k => loopsEqual g k) == [7] && (merging g m fun k => !loopsEqual g k).isEmpty &&
     h.dstack.all fun d => d.owner.toNat != z.e || d.join,
   exits (onStack [dent 1 4 false 0, dent 0 4 false 0x10000]) fun z g m h => (merging g m fun k => !loopsEqual g k).isEmpty &&
     h.dstack[1]? == some (dent 0 4 false 0x10000) && (h.dstack.take 1).all fun d => d.owner.toNat != z.e || d.join,
   exits (onStack [dent 0 2 false 0x10000] 1) fun z g _ h => g.dstack.length == 1 && h.dstack.length == 1 && h.spcnt == 0 &&
     h.dstack.any fun d => d.owner.toNat == z.e && !d.join].all id = true := by decide +kernel
/-! State registers and class 111. -/

theorem witness_state_registers_complete :
  [hyB 0xD6 (bw 62 0 0) none now fun x _ => !(x.active ((bw 62 0 0).ext none)).isEmpty, hyX 0xD6 (q2 62 0 0) now,
   hyB 0xD7 (bw 63 31 0) none now, hyX 0xD7 (q2 63 31 0) now,
   hy (howGet ((bw 63 11 0).ext none) (howOp 0xE0 false ((bw 63 11 0).ext none))) now fun _ _ => !handlerReg 11,
   hy (howGet (q2 15 18 0) (howOp 0xE0 true (q2 15 18 0))) inHandler fun x _ => handlerReg 18 && x.inH,
   hy (howGet (q2 15 18 0) (howOp 0xE0 true (q2 15 18 0))) now fun x _ => handlerReg 18 && !x.inH,
   hyB 0xE1 (bw 11 4 0) none now, hyB 0xE1 (bw 21 4 0) none now, hyX 0xE1 (q2 22 4 0) now].all id = true := by decide +kernel

theorem witness_management_registers_complete :
  [hyB 0xE2 (bw 15 9 0) none inHandler fun x s => x.inH && mgmtNumber ((bw 15 9 0).ext none) 9 == some 9 && (handlerRead s x.core 9).isSome,
   hyB 0xE2 (bw 15 0 0) (some 1) inHandler fun x s => x.inH && mgmtNumber ((bw 15 0 0).ext (some 1)) 0 == some 1 && (handlerRead s x.core 1).isSome,
   hyX 0xE2 (q2 15 0 0) inHandler fun x _ => x.inH && mgmtNumber (q2 15 0 0) 0 == some 0,
   hyB 0xE3 (bw 8 15 0) none inHandler fun x _ => x.inH && mgmtNumber ((bw 8 15 0).ext none) 8 == some 8,
   hyB 0xE3 (bw 0 15 0) (some 8) inHandler fun x _ => x.inH && mgmtNumber ((bw 0 15 0).ext (some 8)) 0 == some 8,
   hyX 0xE3 (q2 8 15 0) inHandler fun x _ => x.inH && mgmtNumber (q2 8 15 0) 8 == some 8,
   hyB 0xE2 (bw 15 4 0) none now fun x _ => !x.inH,
   hyB 0xE2 (bw 15 22 0) none inHandler fun x _ => x.inH && (mgmtNumber ((bw 15 22 0).ext none) 22).isNone,
   hyB 0xE2 (bw 15 21 0) none inHandler fun x s => x.inH && mgmtNumber ((bw 15 21 0).ext none) 21 == some 21 && (handlerRead s x.core 21).isNone,
   hyB 0xE3 (bw 8 15 0) none now fun x _ => !x.inH,
   hyB 0xE3 (bw 21 15 0) none inHandler fun x _ => x.inH && mgmtNumber ((bw 21 15 0).ext none) 21 == some 21].all id = true := by
  decide +kernel

/-- A launch record of one team of one 8-lane group (R32). -/
def launchRec : Nat :=
  0x10000 + 2 ^ 64 + 2 ^ 96 + 2 ^ 112 + 2 ^ 128 + 2 ^ 320 * (8 + 2 ^ 16 * 8)

def launching (a : Nat) : State := with_ [(4, a)] [(0x6000, 256, launchRec)]

/-- A parent whose child is live, or has retired with status 0x41. -/
def parent (live : Bool) (word : Nat) : State :=
  let s := with_ [(4, word)] []
  if live then { s with grids := kset s.grids 5 { bootGrid with parent := some 0 } }
  else modGrid s 0 fun g => { g with kids := [(5, 0x41)] }

theorem witness_child_grids_complete :
  [hy { howSys 0xE4 (bw 63 4 0) with compare := fun _ => true } (launching 1) fun x s => x.g.gid == 0 && !x.inH &&
     validate s x.gr.space (x.lowPair 4) (x.gr.depth + 1) == (1, none),
   hy { howSys 0xE4 (bw 63 4 0) with compare := fun _ => true } (launching 0x6000) fun x s => x.g.gid == 0 && !x.inH &&
     (match validate s x.gr.space (x.lowPair 4) (x.gr.depth + 1) with
      | (st, some _) => st == 0
      | _ => false),
   hy { howSys 0xE4 (bw 63 4 0) with compare := fun _ => true } (group fun g => { g with gid := 31 }) fun x _ => x.g.gid != 0,
   hy { howSys 0xE5 (bw 63 4 8) with wait := true } (parent true 0x501) fun x _ => !x.inH && (x.lowS 4).extractLsb' 0 8 != 0,
   hy { howSys 0xE5 (bw 63 4 8) with wait := true } (parent true 0x500) fun x s => !x.inH && (x.lowS 4).extractLsb' 0 8 == 0 &&
     liveChild s x.t.grid ((x.lowS 4).toNat / 256),
   hy { howSys 0xE5 (bw 63 4 8) with wait := true } (parent false 0x500) fun x s => !x.inH && (x.lowS 4).extractLsb' 0 8 == 0 &&
     !liveChild s x.t.grid ((x.lowS 4).toNat / 256) && childStatus x.gr ((x.lowS 4).toNat / 256) == 0x41,
   hy { howSys 0xE5 (bw 15 4 8) with wait := true } inHandler fun x _ => x.inH].all id = true := by decide +kernel

theorem witness_return_from_a_trap_completes :
  [hy (howBare true) inHandler fun x _ => x.inH && x.g.handler == some handler, hy (howBare false) now fun x _ => !x.inH,
   decide (1 < g0.slices.length)].all id = true := by decide +kernel

/-- In a handler: S4:S5 of its bank hold a, each slice's stack base and bottom are wb and rb with wneed n, and d entries stand on the
divergence stack. -/
def banked (a wb rb n d : Nat) : State := group fun g =>
  { g with
    slices := g.slices.map fun q => { q with wb := wb, rb := rb, wneed := n }
    dstack := List.replicate d { mask := 1, arrived := 0, j := 0, join := false, owner := 0, pc := 0, rejoin := 0 }
    handler := some { handler with s := [0, 1].foldl (fun m k => fset m (16 * k + 4) (BitVec.ofNat 32 a)) [] } }

/-- A first-touch entry for the next 512 MiB, and a frame in the pool of die 0. -/
def firstTouch (s : State) : State :=
  { s with mem := writeN s.mem 0x5008 8 0xDE, pools := [[(0x20000000, 2 ^ 29)], [], [], []] }

theorem witness_handler_instructions_complete :
  [hy (howSys 0xE7 (bw 15 4 6)) (banked 0x20000000 0 0 0 0) fun x _ => x.inH,
   inGridSpace 0x20000000 && (match walkSpace (firstTouch now) 1 0x20000000 with
     | .invalid _ _ _ size true => (takeFrame (firstTouch now) 0 size).isSome
     | _ => false),
   inGridSpace 0x1FFFFFFF && (match walkSpace now 1 0x1FFFFFFF with
     | .leaf .. => true
     | _ => false),
   hy (howSys 0xE8 (bw 0 4 0)) (banked 0x1FFFFFFF 0 0 0 0) fun x _ => x.inH, hy (howSys 0xE8 (bw 2 0 0)) inHandler fun x _ => x.inH,
   hy (howSys 0xE9 (bw 0 4 1)) (banked 0x6000 16 8 0 0) fun x s =>
     let cells := x.sl.flatMap fun k => (spillCells k (x.g.slice k).rb 1).map fun p =>
       (p, imageAddr (x.ss k 4).toNat x.g.width p.2 p.1)
     x.inH && x.sl.all (fun k => (x.ss k 4).toNat % 256 == 0 && decide ((x.g.slice k).rb + 8 ≤ (x.g.slice k).wb)) &&
     (spillAddrs x s needW 4 (cells.map fun p => (p.1.1, p.2))).1.isSome,
   hy (howSys 0xEA (bw 0 4 1)) (banked 0x6000 16 8 1 0) fun x s =>
     let cells := x.sl.flatMap fun k => (spillCells k ((x.g.slice k).rb - 8) 1).map fun p =>
       (p, imageAddr (x.ss k 4).toNat x.g.width p.2 p.1)
     x.inH && x.sl.all (fun k => (x.ss k 4).toNat % 256 == 0 && decide (8 ≤ (x.g.slice k).rb ∧ 1 ≤ (x.g.slice k).wneed)) &&
     (spillAddrs x s needR 4 (cells.map fun p => (p.1.1, p.2))).1.isSome,
   hy (howSys 0xEB (bw 0 4 1)) (banked 0x6000 0 0 0 1) fun x s =>
     let a := (x.lowPair 4).toNat
     let out := (x.g.dstack.reverse.take 1).zipIdx.flatMap fun p => (List.range 4).map fun i =>
       ((a + 32 * (x.g.spcnt + p.2) + 8 * i) % 2 ^ 64, divToNat p.1 / 2 ^ (64 * i) % 2 ^ 64)
     x.inH && a % 256 == 0 && decide (1 ≤ x.g.dstack.length) && x.g.spcnt == 0 &&
     (spillAddrs x s needW 8 (out.map fun p => (x.low, p.1))).1.isSome,
   hy (howSys 0xE9 (bw 0 4 1)) (banked 0x6080 16 8 0 0) fun x _ => x.inH && x.sl.any fun k => (x.ss k 4).toNat % 256 != 0,
   hy (howSys 0xE9 (bw 0 4 1)) (banked 0x6000 15 8 0 0) fun x _ => x.inH && x.sl.any fun k =>
     decide ((x.g.slice k).wb < (x.g.slice k).rb + 8),
   hy (howSys 0xEA (bw 0 4 1)) (banked 0x6000 16 7 1 0) fun x _ => x.inH && x.sl.any fun k => decide ((x.g.slice k).rb < 8),
   hy (howSys 0xEA (bw 0 4 1)) (banked 0x6000 16 8 0 0) fun x _ => x.inH && x.sl.any fun k => decide ((x.g.slice k).wneed < 1),
   hy (howSys 0xEB (bw 0 4 1)) (banked 0x6001 0 0 0 1) fun x _ => x.inH && (x.lowPair 4).toNat % 256 != 0,
   hy (howSys 0xEB (bw 0 4 2)) (banked 0x6000 0 0 0 1) fun x _ => x.inH && decide (x.g.dstack.length < 2),
   hy (howSys 0xEB (bw 0 4 1)) (modGroup (banked 0x6000 0 0 0 1) 2 fun g => { g with spcnt := 1, spbase := 0x6100 }) fun x _ =>
     x.inH && decide (0 < x.g.spcnt) && (x.lowPair 4).toNat != x.g.spbase.toNat,
   hy (howSys 0xEB (bw 0 4 1)) (modGroup (banked 0x6000 0 0 0 1) 2 fun g => { g with spcnt := 4095, spbase := 0x6000 }) fun x _ =>
     x.inH && decide (4095 < x.g.spcnt + 1),
   hy (howBare true) inHandler fun x _ => x.inH, hy (howBare true) now fun x _ => !x.inH, hy (howSys 0xE7 (bw 63 4 6)) now fun x _ => !x.inH,
   hy (howSys 0xE8 (bw 2 0 0)) now fun x _ => !x.inH, hy (howSys 0xE9 (bw 0 4 1)) now fun x _ => !x.inH,
   hy (howSys 0xEA (bw 0 4 1)) now fun x _ => !x.inH, hy (howSys 0xEB (bw 0 4 16)) now fun x _ => !x.inH].all id = true := by
  decide +kernel

/-! More of classes 101 and 110: routes that are to come, full queues, operands that break a rule. -/

/-- Package 2303 is in the domain, no link leads to it, and route recovery is the host's. -/
def unrouted (s : State) : State :=
  { s with pkgs := [0, 2303], mgmt := { s.mgmt with fnmode := 8 }, peers := kset [] 2303 (Peer.init 0),
           links := s.links.map fun l => { l with lost := true } }

/-- The accesses l pass their checks, no target refuses one, and one needs the route that is to come. -/
def mustCome (n : Need) (x : Ctx) (s : State) (l : List (Nat × Nat)) : Bool :=
  match checkAccesses s x.core x.gr.space false n 4 l with
  | (.ok r, miss, v) => r.length == l.length && r.all (fun a => !targetRefuses (x.count v 11 miss) a.1) &&
      r.any fun a => mustWait (x.count v 11 miss) x.core n a.1
  | _ => false

theorem witness_accesses_wait_for_a_route :
  [(sixOps (unrouted (leafed (0x5F + 2303 * 2 ^ 40) 0x1000)) mustCome).all id].all id = true := by decide +kernel

/-- A PUTI and its extended form to the package that S5 holds. -/
def putis (pkg : Nat) (s : State) (p : Ctx → State → Bool) : Bool :=
  let w := (bw 63 4 5).ext (some 7)
  let v := { xw 63 0 4 5 0 false (some 7) with y := false }
  let s := with_ [(5, pkg)] [] s
  hy (howCompare w (howOp 0xAF false w)) s (fun x t => !(x.active w).isEmpty && p x t) &&
    hy (howCompare v (howOp 0xAF true v)) s fun x t => !(x.active v).isEmpty && p x t

theorem witness_puti_waits_or_stops :
  [putis 2304 peered fun x _ => decide (2303 < (x.lowS 5).toNat),
   putis 2303 { peered with peers := kset [] 2303 { Peer.init 0 with bulk := 0 } } fun x s => decide ((x.lowS 5).toNat ≤ 2303) &&
     (takeBulk s (BitVec.ofNat 12 (x.lowS 5).toNat)).isNone,
   putis 2303 (unrouted now) fun x s => decide ((x.lowS 5).toNat ≤ 2303) && (takeBulk s (BitVec.ofNat 12 (x.lowS 5).toNat)).isNone
  ].all id = true := by decide +kernel

def isStop {α : Type} : Got α → Bool
  | .stop _ => true
  | .ok _ _ => false

def engOp (k : EngKind) : EngOp :=
  { id := 7, team := 1, group := 2, gid := 0, grid := 0, space := 1, core := 0, batch := 0, kind := k, done := 0, bits := 0
    clipped := false, crecDone := false, page := none, pend := none, passed := none, error := 0
    parked := none, worked := false }

/-- Every queue of the core and of its die is full. -/
def queuesFull (s : State) : State :=
  modRoute (modCore s 0 fun q => { q with fifo := (coreAt (fifoOf 64) 0).fifo, copyq := List.replicate 32 (engOp (.qfence 0))
                                          collq := List.replicate 16 (engOp (.qfence 0)) }) 0 fun _ => List.replicate 16 (engOp (.qfence 0))

/-- A tile of 65 by 65 elements, which no tile may be. -/
def badTile : State := with_ [] [(0x6000, 128, shapeRec 0x7000 0x10000 0 0 65 65 65 65)] records

theorem witness_matrix_operations_wait_or_stop :
  [hyB 0xC0 (bw 15 4 5) none (queuesFull mmaNow) fun x s => !(x.active ((bw 15 4 5).ext none)).isEmpty && fifoFull s x.core,
   hyB 0xC1 (bw 14 4 5) none (queuesFull mmaNow) fun x s => !(x.active ((bw 14 4 5).ext none)).isEmpty && fifoFull s x.core,
   hyX 0xC1 { q2 14 4 5 with c := 15 } (queuesFull mmaNow) fun x s => !(x.active { q2 14 4 5 with c := 15 }).isEmpty && fifoFull s x.core,
   hyB 0xC2 (bw 15 0 0) none (queuesFull now) fun x s => !(x.active ((bw 15 0 0).ext none)).isEmpty && fifoFull s x.core,
   hyB 0xC3 (bw 15 0 0) none (queuesFull now) fun x s => !(x.active ((bw 15 0 0).ext none)).isEmpty && fifoFull s x.core,
   hyB 0xC5 (bw 15 112 0) (some 31) (queuesFull now) fun x s => fifoFull s x.core &&
     decide ((x.bS ((bw 15 112 0).ext (some 31)) x.low).toNat * x.g.width < 256),
   hyB 0xC5 (bw 15 112 0) (some 32) now fun x _ => !(x.active ((bw 15 112 0).ext (some 32))).isEmpty &&
     decide (256 ≤ (x.bS ((bw 15 112 0).ext (some 32)) x.low).toNat * x.g.width),
   hyB 0xC4 (bw 112 15 0) (some 31) (queuesFull now) fun x s => fifoFull s x.core &&
     decide ((x.bS ((bw 112 15 0).ext (some 31)) x.low).toNat * x.g.width < 256),
   hyX 0xC4 (q2 112 15 4) (with_ [(4, 32)] []) fun x _ => decide (256 ≤ (x.bS (q2 112 15 4) x.low).toNat * x.g.width),
   hyB 0xC6 (bw 15 4 8) none (queuesFull records) fun x s => fifoFull s x.core && copyFull s x.core,
   hyB 0xC6 (bw 15 6 8) none (with_ [(6, 0x6081)] [] records) fun x s => isStop (readShape x s (x.lowPair 6)),
   hyB 0xC6 (bw 15 4 8) none badTile fun x s => match readShape x s (x.lowPair 4) with
     | .ok sh _ => !tileShape sh
     | _ => false,
   hyB 0xC6 (bw 15 4 18) none records fun x s => !wordOk x.gr.launch.localSize (x.lowS 18) && (match readShape x s (x.lowPair 4) with
     | .ok sh _ => tileShape sh && (x.slot 0).elem == sh.elem
     | _ => false),
   (let w : ExtArgs := { q2 15 10 8 with sub := 1 }
    hyX 0xC6 w records fun x s => match readShape x s (x.lowPair 10) with
      | .ok sh _ => sh.loc
      | _ => false),
   hyX 0xC7 (q2 63 0 0) (batches 64) fun x _ => decide (64 ≤ x.g.mopen)].all id = true := by decide +kernel

/-- A shape record at a cannot be read. -/
def badRecord (s : State) (p : Ctx → State → Bool) : Bool := hyB 0xC9 (bw 4 6 8) none s fun x t => isStop (readShape x t (x.lowPair 4)) && p x t

/-- The access of a read of 128 bytes at 0x6000. -/
def operandAt (p : State → Ctx → Checked → Bool) (x : Ctx) (s : State) : Bool :=
  match checkAccesses s x.core x.gr.space false needR 128 [(x.low, 0x6000)] with
  | (c, miss, u) => p (x.count u 11 miss) x c

def oneAccess (p : State → Ctx → Nat → Bool) : Ctx → State → Bool := operandAt fun v x c =>
  match c with
  | .ok [(pa, _)] => !targetRefuses v pa && p v x pa
  | _ => false

theorem witness_operand_reads_stop :
  [badRecord (with_ [(4, 0x6001)] [] records) fun x _ => (x.lowPair 4).toNat % 128 != 0,
   badRecord (with_ [(5, 0x01000000)] [] records) fun x _ => (x.lowPair 4).toNat % 128 == 0 && !canonical (x.lowPair 4).toNat,
   badRecord (with_ [(4, 0x20000000)] [] records) fun x s => isStop (getOperand x s (x.lowPair 4).toNat 128 128),
   badRecord (with_ [] [(0x6000, 128, 0)] records) fun x s => match getOperand x s (x.lowPair 4).toNat 128 128 with
     | .ok v _ => (parseShape (gridElems x.gr.launch.slots) x.gr.launch.localSize v).isNone
     | _ => false,
   badRecord { records with mem := writeN records.mem 0x5000 8 0x53 } (operandAt fun _ _ c => match c with
     | .fault .. => true
     | _ => false),
   badRecord { records with mem := writeN records.mem 0x5000 8 0 } (operandAt fun _ _ c => match c with
     | .page .. => true
     | _ => false),
   badRecord (unrouted { records with mem := writeN records.mem 0x5000 8 (0x5F + 2303 * 2 ^ 40) })
     (oneAccess fun v x pa => mustWait v x.core needR pa),
   badRecord { records with poison := [(0x6000 / 128, 9)] } (oneAccess fun v x pa => !mustWait v x.core needR pa &&
     (readPoison v x.core pa 128).1 == some 9)].all id = true := by decide +kernel

/-- Two records that can be read. -/
def twoRead (a b : Nat) (p : Ctx → Shape → Shape → Bool) (x : Ctx) (s : State) : Bool := match readShape x s (x.lowPair a) with
  | .ok d v => match readShape x v (x.lowPair b) with
    | .ok c _ => p x d c
    | _ => false
  | _ => false

theorem witness_copies_and_fences_wait_or_stop :
  [hyB 0xC9 (bw 4 6 8) none (queuesFull records) fun x s => copyFull s x.core,
   hyB 0xC9 (bw 4 6 8) none (with_ [(6, 0x6081)] [] records) fun x s => !isStop (readShape x s (x.lowPair 4)) && isStop (readShape x s (x.lowPair 6)),
   hyB 0xC9 (bw 4 6 8) none (with_ [] [(0x6080, 128, shapeRec 0x7100 4 0x7200 0 1 1 2 1)] records) (twoRead 4 6 fun _ d c => d.box != c.box),
   hyB 0xC9 (bw 4 6 18) none records (twoRead 4 6 fun x d c => d.box == c.box && !wordOk x.gr.launch.localSize (x.lowS 18)),
   hyB 0xCA (bw 18 4 10) none (queuesFull records) fun x s => copyFull s x.core,
   hyB 0xCA (bw 18 4 10) none (with_ [(10, 0x6101)] [] records) fun x s => isStop (readShape x s (x.lowPair 10)),
   hyB 0xCA (bw 18 4 10) none (with_ [(18, 256)] [] records) (twoRead 10 4 fun x d c => d.loc && !c.loc && decide (256 ≤ (x.lowS 18).toNat)),
   hyB 0xCA (bw 18 4 6) none records (twoRead 6 4 fun _ d _ => !d.loc),
   hyB 0xCB (bw 1 0 0) none (queuesFull now) fun x s => !(x.active ((bw 1 0 0).ext none)).isEmpty && fifoFull s x.core,
   hyB 0xCB (bw 2 0 0) none (queuesFull now) fun x s => copyFull s x.core, hyB 0xCB (bw 4 0 0) none (queuesFull now) fun x s => routeFull s x.core,
   hyB 0xCB (bw 8 0 0) none (queuesFull now) fun x s => collFull s x.core,
   hyB 0xCF (bw 4 18 0) none (with_ [(18, 32)] [] records) fun x _ => !(x.active ((bw 4 18 0).ext none)).isEmpty && decide (31 < (x.lowS 18).toNat),
   hyB 0xCF (bw 4 0 0) (some 9) (with_ [(4, 0x6040)] [] records) fun x _ => (x.lowPair 4).toNat % 128 != 0,
   hyB 0xCF (bw 4 0 0) (some 9) (with_ [(4, 0x20000000)] [] records) fun x s =>
     match checkAccesses s x.core x.gr.space false needW 4 [(x.low, 0x20000000)] with
     | (.page _ b, _, _) => b == 0x20000000
     | _ => false].all id = true := by decide +kernel

/-- Records with other words of the parameter block of ROUTE, and a replica table of the package n at 0x6240. -/
def routing (v : Nat) (n : Nat := 0) : State := with_ [] [(0x6180, 40, v), (0x6240, 2, n)] records

/-- The parameter block of one token, expert, package and choice, with a replica table at a. -/
def params (a : Nat) : Nat := 1 + 2 ^ 32 + 2 ^ 64 + 2 ^ 96 + 2 ^ 192 * a + 2 ^ 256 * 0x80000000

/-- The block of ROUTE is read: p holds of whether its rules hold and of its replica table. -/
def routeReads (p : Ctx → Bool → Nat → State → Bool) (x : Ctx) (s : State) : Bool :=
  !routeFull s x.core && (x.lowPair 14).toNat % 32 == 0 && (x.lowPair 12).toNat % 64 == 0 &&
    match readShape x s (x.lowPair 4) with
    | .ok sh s1 => match getOperand x s1 (x.lowPair 12).toNat 64 64 with
      | .ok v s2 => p x (routeRules false v && scoreRules sh (fieldOf v 0 4) (fieldOf v 4 4) &&
          wordOk x.gr.launch.localSize (BitVec.ofNat 32 (fieldOf v 0x20 4))) (fieldOf v 0x18 8) s2
      | _ => false
    | _ => false

/-- The descriptor of COLL is read: p holds of it. -/
def collReads (p : Ctx → Nat → State → Bool) (x : Ctx) (s : State) : Bool :=
  !collFull s x.core && (x.lowPair 16).toNat % 32 == 0 && canonical (x.lowPair 16).toNat && match getOperand x s (x.lowPair 16).toNat 32 32 with
    | .ok v s1 => p x v s1
    | _ => false

theorem witness_routing_and_collectives_wait_or_stop :
  [hyB 0xCC (bw 14 4 12) none (queuesFull records) fun x s => !(x.active ((bw 14 4 12).ext none)).isEmpty && routeFull s x.core,
   hyB 0xCC (bw 14 4 12) none (with_ [(14, 0x61C1)] [] records) fun x s => !routeFull s x.core && (x.lowPair 14).toNat % 32 != 0,
   hyB 0xCC (bw 14 18 12) none records fun x s => !routeFull s x.core && isStop (readShape x s (x.lowPair 18)),
   hyB 0xCC (bw 14 4 12) none (with_ [(12, 0x20000000)] [] records) fun x s => match readShape x s (x.lowPair 4) with
     | .ok _ s1 => isStop (getOperand x s1 0x20000000 64 64)
     | _ => false,
   hyB 0xCC (bw 14 4 12) none (routing 0) (routeReads fun _ ok _ _ => !ok),
   hyB 0xCC (bw 14 4 12) none (routing (params 0x6240) 0) (routeReads fun x ok a s => ok && a != 0 && match readReplicas x 1 a [] s with
     | .ok rep _ => rep == [0]
     | _ => false),
   hyB 0xCC (bw 14 4 12) none (routing (params 0x6240) 1) (routeReads fun x ok a s => ok && a != 0 && match readReplicas x 1 a [] s with
     | .ok rep _ => rep == [1]
     | _ => false),
   hyB 0xCC (bw 14 4 12) none (routing (params 0x20000000)) (routeReads fun x ok a s => ok && a != 0 && isStop (readReplicas x 1 a [] s)),
   hyB 0xCC (bw 14 4 12) none (with_ [(14, 0x20000000)] [] records) (routeReads fun x ok a s => ok && a == 0 && isStop (getOperand x s 0x20000000 32 32)),
   hyB 0xCD (bw 15 16 8) none (queuesFull records) fun x s => collFull s x.core,
   hyB 0xCD (bw 15 18 8) none records fun x s => !collFull s x.core && (x.lowPair 18).toNat % 32 != 0,
   hyB 0xCD (bw 15 16 8) none (with_ [(16, 0x20000000)] [] records) fun x s => (x.lowPair 16).toNat % 32 == 0 &&
     isStop (getOperand x s (x.lowPair 16).toNat 32 32),
   hyB 0xCD (bw 15 16 8) none (with_ [] [(0x6200, 32, 0x6000 + 2 ^ 64 * 0x7301)] records) (collReads fun _ v _ => fieldOf v 8 8 % 8 != 0),
   hyB 0xCD (bw 15 16 8) none (with_ [] [(0x6200, 32, 0x6001 + 2 ^ 64 * 0x7300)] records) (collReads fun x v s => fieldOf v 8 8 % 8 == 0 &&
     fieldOf v 0x18 8 == 0 && wordOk x.gr.launch.localSize (x.lowS 8) && isStop (readShape x s (BitVec.ofNat 64 (fieldOf v 0 8)))),
   hyB 0xCD (bw 15 16 8) none (with_ [] [(0x6200, 32, 0x6100 + 2 ^ 64 * 0x7300)] records) (collReads fun x v s =>
     match readShape x s (BitVec.ofNat 64 (fieldOf v 0 8)) with
     | .ok sh _ => sh.loc
     | _ => false),
   hyB 0xCE (bw 63 4 0) none (with_ [(4, 0x20000000)] []) fun x s => !(x.active ((bw 63 4 0).ext none)).isEmpty &&
     match checkAccesses s x.core x.gr.space false needR 64 [(x.low, (x.lowPair 4).toNat)] with
     | (.page _ _, _, _) => true
     | _ => false].all id = true := by decide +kernel

/-- Barrier words: p holds of what reaching the object that S4 names gives. -/
def barStops (word : Nat) (scope : Option Nat) (s : State) (p : Ctx → State → Bool) : Bool :=
  hyB 0xD1 (bw 0 4 0) (some 1) (with_ [(4, word)] [] s) fun x t => isStop (barrierAt x t (x.lowS 4) scope) && p x t

/-- The grid's objects in memory stand from a. -/
def objectsAt (a : Nat) : State := modGrid now 0 fun g => { g with launch := { g.launch with params := BitVec.ofNat 64 a } }

def barAccess (p : Checked → Bool) (x : Ctx) (s : State) : Bool :=
  p (checkAccesses s x.core x.gr.space false { r := true, w := true, x := false, scope := none, atom := some 0 } 16
    [(x.low, (x.gr.launch.params.toNat + 16 * ((x.lowS 4).toNat % 2 ^ 31)) % 2 ^ 64)]).1

theorem witness_barriers_stop :
  [barStops 4 none now fun _ _ => true, barStops (2 ^ 19) none now fun _ _ => true,
   barStops 4088 none now fun x _ => decide (x.gr.launch.localSize < 4088 + 16),
   barStops 0x80000000 none (objectsAt 8) (barAccess fun c => match c with
     | .fault k _ _ => k == 0x20
     | _ => false),
   barStops 0x80000000 none (objectsAt 0x20000000) (barAccess fun c => match c with
     | .page .. => true
     | _ => false),
   barStops 0x80000000 (some 0) { objectsAt 0 with mem := writeN now.mem 0x5000 8 0x1F } (barAccess fun c => match c with
     | .ok [(pa, leaf)] => !classOk 0 (some 0) (leafCls leaf) pa { r := true, w := true, x := false, scope := some 0, atom := some 0 }
     | _ => false),
   hyB 0xD0 (bw 0 4 0) (some 0) (with_ [(4, 0)] []) fun x _ => !(x.active ((bw 0 4 0).ext (some 0))).isEmpty,
   hyB 0xD0 (bw 0 4 0) (some 0x70001) (with_ [(4, 0)] []), hyB 0xD0 (bw 0 4 0) (some 0x80001) (with_ [(4, 0)] []),
   hyB 0xD0 (bw 0 4 0) (some 1) (with_ [(4, 4)] []) fun x s => isStop (barrierAt x s (x.lowS 4) (some 0)),
   hyB 0xD1 (bw 0 4 0) (some 0x10000) (with_ [(4, 0)] []) fun x _ => decide (2 ^ 16 ≤ (x.bS ((bw 0 4 0).ext (some 0x10000)) x.low).toNat),
   hyB 0xD2 (bw 0 4 0) (some 0x80000000) (with_ [(4, 0)] []) fun x _ => decide (2 ^ 31 ≤ (x.bS ((bw 0 4 0).ext (some 0x80000000)) x.low).toNat),
   hyB 0xD2 (bw 0 4 0) (some 1) (with_ [(4, 4)] []) fun x s => isStop (barrierAt x s (x.lowS 4) none),
   hyB 0xD4 (bw 6 4 6) none (with_ [(4, 0), (6, 2)] []) fun x _ => decide (1 < (x.lowS 6).toNat),
   hyB 0xD4 (bw 6 4 6) none (with_ [(4, 4), (6, 1)] []) fun x s => isStop (barrierAt x s (x.lowS 4) none),
   hyB 0xD4 (bw 6 4 6) none { with_ [(4, 0x80000000), (6, 1)] [] (objectsAt 0) with poison := [(0, 9)] } fun x s =>
     match barrierAt x s (x.lowS 4) none with
     | .ok q v => barrierPoison v q.1 == some 9
     | _ => false].all id = true := by decide +kernel

theorem witness_waits_stop :
  [(let w := (bw 8 4 6).ext none
    [hy (howBwait w (howOp 0xD3 false w)) (with_ [(4, 0), (6, 2)] []) fun x _ => !x.inH && !(x.active w).isEmpty && decide (1 < (x.lowS 6).toNat),
     hy (howBwait w (howOp 0xD3 false w)) (with_ [(4, 4), (6, 1)] []) fun x s => !x.inH && isStop (barrierAt x s (x.lowS 4) none),
     hy (howBwait w (howOp 0xD3 false w)) { with_ [(4, 0x80000000), (6, 1)] [] (objectsAt 0) with poison := [(0, 9)] } fun x s => !x.inH &&
       match barrierAt x s (x.lowS 4) none with
       | .ok q v => barrierPoison v q.1 == some 9
       | _ => false]).all id,
   ([(0x6001, now), (0x20000000, now), (0x6000, { now with poison := [(0x6000 / 128, 9)] }), (0x6000, unrouted { now with
       mem := writeN now.mem 0x5000 8 (0x5F + 2303 * 2 ^ 40) })] : List (Nat × State)).all fun q =>
     let w := (bw 8 4 6).ext none
     hy (howWait w (howOp 0xD5 false w)) (with_ [(4, q.1)] [] q.2) fun x s => !x.inH && isStop (waitvRead x s (x.lowPair 4).toNat),
   hyB 0xA0 (bw 6 4 0) none { now with poison := [(0x6000 / 128, 9)] } fun x s =>
     match checkAccesses s x.core x.gr.space false needR 4 [(x.low, 0x6000)] with
     | (.ok [(pa, _)], miss, u) => let v := x.count u 11 miss
         !targetRefuses v pa && !mustWait v x.core needR pa && poisonAt v pa 4 == some 9
     | _ => false,
   hyB 0xA0 (bw 6 4 0) none now fun x s => match checkAccesses s x.core x.gr.space false needR 4 [(x.low, 0x6001)] with
     | (.fault k _ _, _, _) => k == 0x20
     | _ => false,
   hyB 0xA0 (bw 6 4 0) none now fun x s => match checkAccesses s x.core x.gr.space false needR 4 [(x.low, 0x20000000)] with
     | (.page _ b, _, _) => b == 0x20000000
     | _ => false].all id = true := by decide +kernel
/-! Link sequencers. -/

/-- K1 and K2 name a sender, K3 to K6 are as given; every link is up. -/
def sq (k3 k4 k5 k6 : DWord) : State :=
  let s := seqNow 0 [(1, 0x21000), (2, 0x778FF), (3, k3), (4, k4), (5, k5), (6, k6)]
  { s with links := s.links.map fun l => { l with up := true }, pkgs := [0, 0x8FF], peers := kset [] 0x8FF (Peer.init 0) }

/-- c holds of the running context and the state. -/
def sy (s : State) (c : SCtx → State → Bool := fun _ _ => true) : Bool :=
  match sctx? s with
  | some x => c x s
  | none => false

/-- The chunk at va of n bytes translates, and so does a second one after it where it is given. -/
def chunk (x : SCtx) (s : State) (need : Need) (va n : Nat) (more : State → Seg → Bool := fun _ _ => true) : Bool :=
  match transChunk x.sq x.coll.space need va n s with
  | .ok g u => more u g
  | _ => false

theorem witness_setk_and_addk_results :
  [sy (sq 1 1 1 1) fun x s => fwf x.c.k && !x.c.halt && (seqAt s x.sq).run == some x.cx,
   decide ((5 : Word) ≠ 0), decide ((5 : BitVec 4) ≠ 0)].all id = true := by decide +kernel

theorem witness_sequencer_control_results :
  [sy (seqNow 7) fun _ _ => true, sy (seqNow 0xF) fun x _ => !x.c.abort && !x.c.held,
   (let s := { seqNow 0 with agenda := [.seq 0] }
    let s := modSeq s 0 fun q => { q with ctxs := lmod q.ctxs 0 fun c => { c with pc := 1 } }
    sy { s with agenda := [], curSeq := some 0 } fun x _ => x.c.lo + x.c.words == x.c.pc.toNat),
   (let s := modSeq (seqNow 0) 0 fun q => { q with ctxs := lmod q.ctxs 0 fun c => { c with lo := 8, pc := 7 } }
    sy s fun x _ => decide (x.c.pc.toNat < x.c.lo))].all id = true := by decide +kernel

/-- The READY that context 0 of sequencer 0 answers with a chunk to the context of K1. -/
def readyHere : ReadyMsg :=
  { src := { pkg := 0, sq := 1, ctx := 1 }, dst := { pkg := 0, sq := 0, ctx := 0 }, pid := 1, tag := 7, length := 256, combine := none }

theorem witness_sequencer_transfers_complete :
  [sy (sq 0x6000 0 0 0) fun x s => (routeOf (x.k 2)).isSome && linkReaches s 23 0x8FF && chunk x s needR (x.k 3).toNat (chunkLen 0),
   sy (seqNow 0 [(2, 0x778FF)]) fun x s => (routeOf (x.k 2)).isSome && !linkReaches s 23 0x8FF,
   sy (sq 0x6001 0 0 0) fun x s => (routeOf (x.k 2)).isSome && linkReaches s 23 0x8FF && (x.k 3).toNat % 256 != 0,
   sy (modCtx (sq 0x6000 0 0 0) 0 0 fun c => { c with readys := [readyHere] }) fun x s => linkReaches s 23 s.pkg && !x.c.abort &&
     x.c.readys == [readyHere] && routeOf (x.k 1) == some readyHere.src && readyHere.length == chunkLen 0 && decide (x.sq < s.seqs.length) &&
     decide (x.cx < (seqAt s x.sq).ctxs.length) && chunk x s needR (x.k 3).toNat (chunkLen 0) fun u g => !segPoison u g,
   sy (sq 0x80000 0x6000 0x8000 0) fun x _ => (routeOf (x.k 3)).isNone && (routeOf (x.k 1)).isSome && (routeOf (x.k 2)).isSome,
   decide (23 < (24 : BitVec 5).toNat) && decide (6 ≤ (6 : BitVec 3).toNat),
   sy (seqNow 0 [(1, 0x21000), (2, 0x778FF)]) fun x s => (routeOf (x.k 1)).isSome && (routeOf (x.k 2)).isSome && !linkReaches s 23 0x8FF,
   sy (sq 0x6001 0x6000 0x6100 0x8080) fun x s => (routeOf (x.k 1)).isSome && (x.k 3).toNat % 256 != 0 &&
     crosses (x.k 4).toNat (x.k 5).toNat (chunkLen 1) && !crosses (x.k 4).toNat (x.k 5).toNat (chunkLen 0) &&
     !crosses (x.k 4).toNat (x.k 6).toNat (chunkLen 0) && (x.k 6).toNat % 256 != 0 && chunk x s needR (x.k 4).toNat (chunkLen 0),
   sy (sq 0x6001 0 0 0) fun x s => (routeOf (x.k 1)).isSome && (routeOf (x.k 2)).isSome && linkReaches s 0 0x8FF && (x.k 3).toNat % 256 != 0,
   sy (sq 0x6000 0 0 0) fun x s => (routeOf (x.k 1)).isSome && chunk x s needW (x.k 3).toNat (chunkLen 0),
   sy (sq 0x6000 0x6000 0 0) fun x s => (routeOf (x.k 1)).isSome && !crosses (x.k 3).toNat (x.k 4).toNat (chunkLen 0) && x.c.logm == 0 &&
     chunk x s needR (x.k 4).toNat (chunkLen 0) fun u _ => chunk x u needW (x.k 3).toNat (chunkLen 0),
   sy (sq 0x6000 0 0 0) fun x s => (routeOf (x.k 1)).isSome && (routeOf (x.k 2)).isSome && linkReaches s 0 0x8FF &&
     x.c.logm == 0 && chunk x s { needR with w := true } (x.k 3).toNat (chunkLen 0),
   sy (sq 0x6008 0 0 0) fun x s => (x.k 3).toNat % 8 == 0 &&
     (match transParts x.sq x.coll.space needR [((x.k 3).toNat, 8)] [] s with
      | .ok [(pa, 8)] u => (poisonAt u pa 8).isNone
      | _ => false),
   sy (sq 0x6008 0 0 0) fun x s => (x.k 3).toNat % 8 == 0 &&
     (match transParts x.sq x.coll.space { needW with r := true, atom := some 0 } [((x.k 3).toNat, 8)] [] s with
      | .ok [(_, 8)] _ => true
      | _ => false),
   sy (sq 0x6008 0 0 0) fun x s => (match transParts x.sq x.coll.space needW [((x.k 3).toNat, 8)] [] s with
      | .ok [(_, 8)] _ => true
      | _ => false),
   sy (sq 0x6004 0 0 0) fun x _ => (x.k 3).toNat % 8 != 0, decide ((3 : BitVec 2) = 3) && decide ((1 : BitVec 4) ≠ 0),
   decide (2047 < (2048 : BitVec 12).toNat),
   sy (sq 0x6000 0x6100 0 0) fun x _ => decide ((x.k 3).toNat < (x.k 4).toNat + 512) && decide ((x.k 4).toNat < (x.k 3).toNat + 512),
   sy (sq 0x6001 0x6000 0x8080 0) fun x s => (x.k 3).toNat % 256 != 0 && (x.k 5).toNat % 256 != 0 &&
     decide ((x.k 3).toNat + 512 ≤ (x.k 5).toNat) && decide ((x.k 4).toNat + 512 ≤ (x.k 5).toNat) && chunk x s needR (x.k 4).toNat 512,
   sy (sq 0x6000 0x6200 0 0) fun x s => decide ((x.k 3).toNat + 512 ≤ (x.k 4).toNat) &&
     chunk x s needR (x.k 3).toNat 512 fun u gs => chunk x u needW (x.k 4).toNat 256 fun v _ => !segPoison v gs,
   sy (sq 0x6000 0x6100 0 0) fun x s => decide ((x.k 3).toNat + 256 ≤ (x.k 4).toNat) &&
     chunk x s needR (x.k 3).toNat 256 fun u gs => chunk x u needW (x.k 4).toNat 512 fun v _ => !segPoison v gs,
   sy (sq 0x10000000 0x901FFFF 0xFFFF 0) fun x _ => decide (2 ^ 28 ≤ (x.k 3).toNat) && (x.k 4).toNat / 2 ^ 16 % 2 ^ 12 == 2305 &&
     (x.k 5).toNat / 2 ^ 16 % 2 ^ 12 == 0,
   sy (seqNow 0 [(3, 0x10000)]) fun x s => decide ((x.k 3).toNat < 2 ^ 28) && (x.k 3).toNat / 2 ^ 16 % 2 ^ 12 == 1 &&
     !(s.links.getD 0 Link.init).up,
   sy { sq 0 0 0x9000000 0 with noSwitch := [23] } fun x s => (x.k 5).toNat / 2 ^ 16 % 2 ^ 12 == 2304 && s.noSwitch.contains 23,
   sy (sq 0x6001 0x6100 0x9000000 0x8080) fun x s => decide ((x.k 5).toNat < 2 ^ 28) && (x.k 5).toNat / 2 ^ 16 % 2 ^ 12 == 2304 &&
     (s.links.getD 23 Link.init).up && !s.noSwitch.contains 23 && (x.k 3).toNat % 256 != 0 && (x.k 6).toNat % 256 != 0 &&
     chunk x s needR (x.k 4).toNat 256,
   sy (sq 0x6000 0x6100 0x9000000 0) fun x s => decide ((x.k 5).toNat < 2 ^ 28) && (x.k 5).toNat / 2 ^ 16 % 2 ^ 12 == 2304 &&
     (s.links.getD 23 Link.init).up && !s.noSwitch.contains 23 &&
     chunk x s needR (x.k 3).toNat 256 fun u gs => chunk x u needW (x.k 4).toNat 256 fun v _ => !segPoison v gs,
   sy (sq 0 0 0x8FF 0) fun x s => (x.k 5).toNat % 2 ^ 12 == 2303 && (x.k 5).extractLsb' 12 20 == 0 &&
     (takeBulk s (BitVec.ofNat 12 ((x.k 5).toNat % 2 ^ 12))).isSome,
   sy { sq 0 0 0x8FF 0 with peers := kset [] 0x8FF { Peer.init 0 with bulk := 0 } } fun x s =>
     (takeBulk s (BitVec.ofNat 12 ((x.k 5).toNat % 2 ^ 12))).isNone,
   sy (sq 0 0 0x900 0x1000) fun x _ => decide (2303 < (x.k 5).toNat % 2 ^ 12) && (x.k 6).extractLsb' 12 20 != 0,
   sy (sq 0x6008 0 0 0) fun x _ => (x.k 3).toNat % 16 != 0 && decide ((x.k 4).toNat < 16),
   sy (sq 0 0 0 0) fun x s => match exec (.addk 3 3 0 0 1) s with
     | .next t => t.mem == s.mem && Memory.wf s.mem && x.sq == 0
     | _ => false,
   sy (sq 0x6010 0x10 0 0) fun x _ => (x.k 3).toNat % 16 == 0 && (x.k 4).toNat == 16].all id = true := by decide +kernel

/-! Events: the host, firmware and errors. -/

/-- Every controller runs, and ring 0 holds one entry of the kind with its arguments. -/
def ringed (kind a0 a1 a2 : Nat) (s : State := now) : State :=
  let s := { s with ctls := s.ctls.map fun c => { c with running := some (0, 0) }
                    mem := writeN s.mem 0x8000 64 (kind + 2 ^ 64 * a0 + 2 ^ 128 * a1 + 2 ^ 192 * a2) }
  modRing s 0 fun q => { q with enabled := true, base := 0x8000, log := 4, head := 15, tail := 1, space := 1, rspace := 0x8800 }

/-- The head of ring 0 stands at its entry 0. -/
def entry (kind a0 a1 a2 : Nat) (s : State := now) : State :=
  modRing (ringed kind a0 a1 a2 s) 0 fun q => { q with head := 0 }

/-- The head entry is of the kind, and c holds of the ring's state after it with its index and bytes. -/
def head (kind : Nat) (s : State) (c : State → Nat → Nat → Bool := fun _ _ _ => true) : Bool :=
  match headEntry s 0 with
  | some (i, v) => (entryFields v).ok && (entryFields v).kind == kind && c (Safety.passed s 0 i) i v
  | none => false

/-- An entry of a wait that stands since tick 100, with the clock at tick t. -/
def standing (t : DWord) (m : Nat) : State :=
  let s := entry 4 0x7000 7 10
  let s := modRing s 0 fun q => { q with waits := [(0, 100)], starts := [(0, 4 + 2 ^ 64 * 0x7000 + 2 ^ 128 * 7 + 2 ^ 192 * 10)] }
  { s with dtime := t, mem := writeN s.mem 0x7000 8 m }

theorem witness_rings_complete :
  [(let s := modRing now 63 fun q => { q with rspace := 0x8800 }
    let s := { s with mem := writeN (writeN s.mem 0x8800 8 0x2000) 0x8808 8 1 }
    !(ringAt s 63).enabled && !delayed s (ringCp 63) && decide ((ringAt s 63).rspace.toNat < 2 ^ 52) && (ringAt s 63).rspace.toNat % 64 == 0 && !targetRefuses s (ringAt s 63).rspace.toNat &&
      (poisonAt s 0x8800 64).isNone && (spaceOf (readN s.mem 0x8800 64)).isSome),
   (match headEntry (entry 0 0 0 0) 0 with
    | some (_, v) => !(entryFields v).ok
    | none => false),
   head 1 (entry 1 0x6000 0 0 (launching 0)) fun u _ v => allRun u &&
     (match validate u (ringAt u 0).space (entryFields v).arg0 0 with
      | (_, some _) => true
      | _ => false),
   head 1 (entry 1 0x100 0 0) fun u _ v => allRun u && (match validate u (ringAt u 0).space (entryFields v).arg0 0 with
     | (_, none) => true
     | _ => false),
   (match headEntry (entry 1 1 0 0) 0, headEntry (entry 3 8 0 0) 0 with
    | some (_, v), some (_, w) => !(entryFields v).ok && !(entryFields w).ok
    | _, _ => false),
   head 2 (entry 2 0x6000 0x6000 0) fun u _ _ => decide (767 < coreCount) && !copyFull u 767,
   head 3 (entry 3 0x40 0 0) fun u _ v => match launchColl (ringAt u 0).space (entryFields v).arg0 (some (0, 0)) u with
     | .status _ _ _ => true
     | _ => false,
   head 4 (entry 4 0x7000 0 0) fun u i v =>
     (cpRead (beginEntry u 0 i v) (ringAt (beginEntry u 0 i v) 0).space (entryFields v).arg0.toNat 8).isLeft,
   head 4 (entry 4 0x7000 1 1) fun u i v => cpRead (beginEntry u 0 i v) 1 (entryFields v).arg0.toNat 8 == .inl 0,
   (match standingWait (standing 105 7) 0 0 with
    | some (e, _) => cpRead (standing 105 7) 1 e.arg0.toNat 8 == .inl 7 && e.arg1.toNat == 7
    | none => false),
   (let s := { standing 105 7 with spaces := [] }
    match standingWait s 0 0 with
    | some (e, _) => (cpRead s 1 e.arg0.toNat 8).isRight
    | none => false),
   (match standingWait (standing 110 0) 0 0 with
    | some (e, since) => e.arg2 == 10 && ((standing 110 0).dtime - since).toNat == 10
    | none => false),
   head 5 (entry 5 0x7000 9 0) fun u _ v => (sysWrite u (ringAt u 0).space (entryFields v).arg0.toNat 8 (entryFields v).arg1.toNat).isSome,
   head 6 (entry 6 0 0 0) fun u _ _ => (ringAt u 0).starts.isEmpty,
   (headEntry (ringed 6 0 0 0) 0).any fun p => p.1 == 15].all id = true := by decide +kernel

/-- The records with a source whose box has two rows. -/
def boxes : State := with_ [] [(0x6000, 128, shapeRec 0x7000 4 0 0 1 1 1 2)] records

theorem parse_congr {E F : Nat → Option Elem} {l v : Nat} (h : E (fieldOf v 0x35 1) = F (fieldOf v 0x35 1)) :
    parseShape E l v = parseShape F l v := by
  unfold parseShape
  simp only [h]

/-- A record in format slot 0 is a shape with box b, whatever format the host's slot holds. -/
theorem ring_shape {s : State} {a : DWord} {r : Nat} {b : List Nat} (ha : ¬ (a.toNat % 128 ≠ 0 ∨ ¬ canonical a.toNat))
    (hr : cpRead s 1 a.toNat 128 = .inl r) (hf : fieldOf r 0x35 1 = 0)
    (hp : ∀ e, (parseShape (fun _ => some e) 0 r).any (fun d => !d.sh.loc && d.dyn == 0 && d.sh.box == b) = true) :
    ∃ d, cpShape s 1 a = some (.inl d) ∧ d.box = b := by
  have he : ∀ k, k < 11 → (elemOfCode k).isSome = true := by decide
  obtain ⟨e, he⟩ := Option.isSome_iff_exists.mp (he (Config.hostSlot 0 % 11) (Nat.mod_lt _ (by decide)))
  have h := hp e
  rw [← parse_congr (E := hostElems) (by rw [hf]; exact he)] at h
  obtain ⟨d, hd, hl⟩ := Option.any_eq_true .. |>.mp h
  simp only [Bool.and_eq_true, Bool.not_eq_true', beq_iff_eq] at hl
  refine ⟨d.sh, ?_, hl.2⟩
  unfold cpShape
  rw [if_neg ha]
  simp only [hr, hd, hl.1.1, hl.1.2]
  rfl

/-- A copy whose records are well-formed: one and the same, with another box, or with a source that cannot be read. -/
theorem witness_ring_copies :
    (∃ d, cpShape (entry 2 0x6000 0x6000 0 records) 1 0x6000 = some (.inl d) ∧ d.box = [1, 1, 1, 1, 1]) ∧
    (∃ d, cpShape (entry 2 0x6000 0x6080 0 boxes) 1 0x6080 = some (.inl d) ∧ d.box = [1, 1, 1, 1, 1]) ∧
    (∃ e, cpShape (entry 2 0x6000 0x6080 0 boxes) 1 0x6000 = some (.inl e) ∧ e.box = [1, 2, 1, 1, 1]) ∧
    (∃ d, cpShape (entry 2 0x20000000 0x6000 0 records) 1 0x6000 = some (.inl d) ∧ d.box = [1, 1, 1, 1, 1]) ∧
    cpShape (entry 2 0x20000000 0x6000 0 records) 1 0x20000000 = some (.inr 2) := by
  refine ⟨?_, ?_, ?_, ?_, by decide +kernel⟩
  · exact ring_shape (by decide) (show _ = Sum.inl (shapeRec 0x7000 4 0 0 1 1 1 1) by decide +kernel) (by decide +kernel)
      (by intro e; cases e <;> decide +kernel)
  · exact ring_shape (by decide) (show _ = Sum.inl (shapeRec 0x7100 4 0x7200 0 1 1 1 1) by decide +kernel) (by decide +kernel)
      (by intro e; cases e <;> decide +kernel)
  · exact ring_shape (by decide) (show _ = Sum.inl (shapeRec 0x7000 4 0 0 1 1 1 2) by decide +kernel) (by decide +kernel)
      (by intro e; cases e <;> decide +kernel)
  · exact ring_shape (by decide) (show _ = Sum.inl (shapeRec 0x7000 4 0 0 1 1 1 1) by decide +kernel) (by decide +kernel)
      (by intro e; cases e <;> decide +kernel)

/-- Controller 7 in a state, selected. -/
def fw (st : FwState) (f : Controller → Controller := id) : State :=
  let s := modCtl now 7 fun c => f { c with state := st }
  { s with mgmt := { s.mgmt with fwsel := 7 } }

theorem witness_firmware_events_complete :
  [decide (7 < 8) && (ctlAt (modCtl now 0 fun c => { c with running := some (0, 0) }) 7).running.isNone
     && (ctlAt (modCtl now 0 fun c => { c with running := some (0, 0) }) 0).running.isSome,
   (ctlAt now 0).running.isNone, serving (modCtl now 0 fun c => { c with running := some (0, 0) }) 0,
   decide ((ctlAt (fw .idle) 7).state = .idle) && !otherBusy (fw .idle) 7,
   decide ((ctlAt (fw .loaded) 7).state = .loaded) && !otherBusy (fw .loaded) 7,
   decide ((ctlAt (fw .rolledBack) 7).state = .rolledBack), decide ((ctlAt (fw .refused) 7).state = .refused),
   (let s := { fw .probation fun c => { c with since := 1 } with dtime := 96 * 2 ^ 20 }
    decide ((ctlAt s 7).state = .probation) && decide ((s.dtime - (ctlAt s 7).since).toNat < aliveTicks s)),
   (let s := { fw .probation fun c => { c with since := 1 } with dtime := 96 * 2 ^ 20 + 1 }
    decide ((ctlAt s 7).state = .probation) && decide (aliveTicks s ≤ (s.dtime - (ctlAt s 7).since).toNat))].all id = true := by
  decide +kernel

theorem witness_debug_and_error_events_complete :
  [debugOn { now with mgmt := { now.mgmt with dbgctl := 0x13FFF } } 0x3FFF,
   (let s := modSeq now 23 fun q => { q with ctxs := lmod q.ctxs 3 fun c => { c with halt := true, state := .halted } }
    (ctxAt s 23 3).halt && decide ((ctxAt s 23 3).state = .halted)),
   ownLine now 0x17FFFFFFF && !targetRefuses now (0x17FFFFFFF * 128),
   (kget now.teams 1).any (fun t => decide (t.core = some 0) && !t.ended && t.stop.isNone) &&
     (teamGroups now 1).any (fun p => p.2.gid == 0),
   decide ((2 : BitVec 2).toNat = 2), rowOk (.accum 767 31), rowOk (.local 0 0), !delayed now 3,
   (let s : State := { now with dtime := 0x300000, mgmt := { now.mgmt with ecthr := 2 }, ec := [⟨.accum 767 31, [1]⟩] }
    let l : List (BitVec 24) := (((s.ec.find? fun e => e.row == .accum 767 31).map (·.stamps)).getD []).filter
      fun t => decide ((s.dtime.extractLsb' 20 24 - t).toNat ≤ s.mgmt.ecwin)
    decide (s.mgmt.ecthr ≤ l.length + 1)),
   (let s : State := { now with retired := kset [] 1023 { valid := true, kind := 1, spared := false, unit_ := 3 + 4 * 191, row := 5 } }
    let e := retiredAt s 1023
    e.valid && !e.spared && e.kind == 1 && s.teams.all (fun x => decide (x.2.core ≠ some (192 * 3 + 191))) &&
      decide ((s.retired.filter fun x => x.2.valid && x.2.spared && x.2.kind == e.kind && x.2.unit_ == e.unit_).length < 8)),
   !delayed now 1, pairIsland 0 && decide (940 ≤ 940 * (16 - (now.islands.getD 0 Island.init).step) / 16),
   (let s := modGrid { now with teams := [], groups := [] } 0 fun g => { g with replaying := true }
    (kget s.grids 0).any (fun g => g.replaying && g.root == 0) && setQuiet s (setOf s 0) && !delayed s (cpOf s 0))].all id = true := by decide +kernel

/-! More of class 111, sequencers, rings, firmware and errors. -/

/-- Controller n of a state is in the state st. -/
def ctl (n : Nat) (st : FwState) (s : State := now) : State := modCtl s n fun c => { c with state := st }

/-- The addresses of the spills of the statements, in order: WSPILL, WFILL and DSPILL. -/
def spills (w : Nat) (x : Ctx) : List (Nat × Nat) :=
  match w with
  | 0 => x.sl.flatMap fun k => (spillCells k (x.g.slice k).rb 1).map fun p => (p.1, imageAddr (x.ss k 4).toNat x.g.width p.2 p.1)
  | 1 => x.sl.flatMap fun k => (spillCells k ((x.g.slice k).rb - 8) 1).map fun p =>
      (p.1, imageAddr (x.ss k 4).toNat x.g.width p.2 p.1)
  | _ => (x.g.dstack.reverse.take 1).zipIdx.flatMap fun p => (List.range 4).map fun i =>
      (x.low, ((x.lowPair 4).toNat + 32 * (x.g.spcnt + p.2) + 8 * i) % 2 ^ 64)

/-- The spills of w in s: p holds of what their checks give. -/
def spilling (w : Nat) (s : State) (p : State → Option (List Nat) → Bool) : Bool :=
  hy (howSys (0xE9 + w) (bw 0 4 1)) s fun x t => x.inH && x.sl.all (fun k => (x.ss k 4).toNat % 256 == 0) &&
    p t (spillAddrs x t (if w = 1 then needR else needW) (if w = 2 then 8 else 4) ((spills w x).map fun q => (q.1, q.2))).1

theorem witness_handler_accesses_wait_or_stop :
  [spilling 0 (banked 0x20000000 16 8 0 0) fun _ r => r.isNone, spilling 1 (banked 0x20000000 16 8 1 0) fun _ r => r.isNone,
   spilling 2 (banked 0x20000000 0 0 0 1) fun _ r => r.isNone,
   ([(0, banked 0x6000 16 8 0 0), (1, banked 0x6000 16 8 1 0), (2, banked 0x6000 0 0 0 1)] : List (Nat × State)).all fun q =>
     spilling q.1 (unrouted { q.2 with mem := writeN now.mem 0x5000 8 (0x5F + 2303 * 2 ^ 40) }) fun t r =>
       r.any fun pas => pas.any (accessAwaited t)].all id = true := by decide +kernel

theorem witness_system_registers_and_launch_stop :
  [hyB 0xE3 (bw 22 15 0) none inHandler fun x _ => x.inH && (mgmtNumber ((bw 22 15 0).ext none) 22).isNone,
   hyB 0xE3 (bw 0 15 0) (some 22) inHandler fun x _ => x.inH && (mgmtNumber ((bw 0 15 0).ext (some 22)) 0).isNone,
   hyX 0xE3 (q2 63 15 0) inHandler fun x _ => x.inH && (mgmtNumber (q2 63 15 0) 63).isNone,
   hy { howSys 0xE4 (bw 63 4 0) with compare := fun _ => true } (ctl (cpOf now 0) .probation (launching 0x6000)) fun x s =>
     x.g.gid == 0 && !x.inH && delayed s (cpOf s x.t.grid.toNat),
   hy { howSys 0xE4 (bw 63 4 0) with compare := fun _ => true } (launching 0x6000) fun x s => !delayed s (cpOf s x.t.grid.toNat)].all id = true := by
  decide +kernel

/-- Every link is down, and route recovery is the host's. -/
def cut (s : State) : State :=
  { s with links := s.links.map fun l => { l with up := false, lost := true }, mgmt := { s.mgmt with fnmode := 8 } }

theorem witness_sequencer_transfers_wait_for_a_route :
  [sy (cut (sq 0x6000 0 0 0)) fun x s => (routeOf (x.k 2)).isSome && !linkReaches s 23 0x8FF && routeAwaited s [23] 0x8FF &&
     chunk x s needR (x.k 3).toNat (chunkLen 0),
   sy (cut (sq 0x6000 0 0 0)) fun x s => (routeOf (x.k 1)).isSome && (routeOf (x.k 2)).isSome && !linkReaches s 0 0x8FF &&
     routeAwaited s [0] 0x8FF && x.c.logm == 0 && chunk x s { needR with w := true } (x.k 3).toNat (chunkLen 0),
   sy (seqNow 0 [(1, 0x21000), (2, 0x778FF)]) fun x s => !linkReaches s 23 0x8FF && !routeAwaited s [23] 0x8FF && (routeOf (x.k 2)).isSome,
   sy (cut (sq 0x6000 0x6100 0x9000000 0)) fun x s => !leadsToSwitch s 23 && switchAwaited s 23 &&
     chunk x s needR (x.k 3).toNat 256 fun u gs => chunk x u needW (x.k 4).toNat 256 fun v _ => !segPoison v gs,
   sy { sq 0 0 0x9000000 0 with noSwitch := [23] } fun _ s => !leadsToSwitch s 23 && !switchAwaited s 23].all id = true := by decide +kernel

/-- Ring 63 is to be enabled with its record at a. -/
def enabling (a : Nat) (v : Nat) (s : State := now) : State :=
  { modRing s 63 fun q => { q with rspace := BitVec.ofNat 64 a } with mem := writeN s.mem a 8 v }

/-- A copy on ring 0 whose records are the two at a0 and a1. -/
def copying (a0 a1 : Nat) (c : State → Option (Shape ⊕ Nat) → Option (Shape ⊕ Nat) → Bool) (s : State := records) : Bool :=
  head 2 (entry 2 a0 a1 0 s) fun u _ v => decide (0 < coreCount) && !copyFull u 0 &&
    c u (cpShape u (ringAt u 0).space (entryFields v).arg0) (cpShape u (ringAt u 0).space (entryFields v).arg1)

theorem witness_rings_wait_or_stop :
  [(let s := ctl (ringCp 63) .probation (enabling 0x8800 1)
    !(ringAt s 63).enabled && delayed s (ringCp 63)),
   (let s := enabling 0x8801 1
    !(ringAt s 63).enabled && !delayed s (ringCp 63) && (ringAt s 63).rspace.toNat % 64 != 0),
   (let s := enabling (2 ^ 52) 1
    !delayed s (ringCp 63) && decide (2 ^ 52 ≤ (ringAt s 63).rspace.toNat)),
   (let s := enabling (5 * 2 ^ 40) 1
    !delayed s (ringCp 63) && targetRefuses s (ringAt s 63).rspace.toNat),
   (let s := { enabling 0x8800 1 with poison := [(0x8800 / 128, 9)] }
    (poisonAt s (ringAt s 63).rspace.toNat 64).isSome),
   (let s := enabling 0x8800 1
    (spaceOf (readN s.mem (ringAt s 63).rspace.toNat 64)).isNone),
   copying 0x6000 0x6001 fun _ _ b => b.isNone, copying 0x6001 0x6000 fun _ a _ => a.isNone,
   copying 0x20000000 0x20000000 fun _ a b => a.isSome && (match b with
     | some (.inr 2) => true
     | _ => false),
   head 4 (entry 4 0x20000000 0 0) fun u i v =>
     (cpRead (beginEntry u 0 i v) (ringAt (beginEntry u 0 i v) 0).space (entryFields v).arg0.toNat 8).isRight,
   head 5 (entry 5 0x20000000 9 0) fun u _ v => (sysWrite u (ringAt u 0).space (entryFields v).arg0.toNat 8 (entryFields v).arg1.toNat).isNone
  ].all id = true := by decide +kernel

theorem witness_firmware_and_errors_wait :
  [(let s := modCtl (ctl 0 .probation) 0 fun c => { c with running := some (0, 0) }
    (ctlAt s 0).running.isSome && delayed s 0),
   decide ((ctlAt (ctl 3 .handOver) 3).state = .handOver), delayed (ctl 1 .handOver) 1 && !delayed (ctl 0 .handOver) 1,
   decide ((940 : BitVec 16).toNat ≤ 940 * (16 - ((ctl 1 .probation).islands.getD 0 Island.init).step) / 16) && delayed (ctl 1 .probation) 1,
   (let s := modSeq now 23 fun q => { q with ctxs := lmod q.ctxs 3 fun c => { c with halt := true, state := .waiting } }
    (ctxAt s 23 3).halt && decide ((ctxAt s 23 3).state = .waiting)),
   !(ctxAt now 23 3).halt].all id = true := by decide +kernel
/-! Events: the end of teams, the dispatcher, engines, waits. -/

theorem witness_faults_end_the_team :
  [(kget now.teams 1).isSome && (snapRoot now 0).isNone, (let s := modCore now 0 fun k => { k with fifo := [{ id := 7, team := 1, group := 2, batch := 0, kind := .arel 0 }] }
    kwf s.teams && (kget (endTeam s 1).teams 1).isSome),
   (kget now.grids 0).any fun g => g.launch.faultrec == 0 && !g.fr.dead,
   (let s := modGrid now 0 fun g => { g with launch := { g.launch with faultrec := 0x9000 } }
    (kget s.grids 0).any fun g => g.launch.faultrec != 0 && !g.fr.dead && decide (g.fr.flagBytes.length < 15) && !delayed s (cpOf s 0) &&
      (frPut s g 32 32 0x41).any fun w => (frPut w g 0 32 (frHeader g.fr false)).isSome),
   !hostMode now 1, hostMode { now with mgmt := { now.mgmt with fnmode := 2 } } 1].all id = true := by decide +kernel

/-- A grid of higher priority, queued, whose teams need l bytes of local memory. -/
def waitingGrid (l : Nat) (s : State := now) : State :=
  { s with grids := kset s.grids 16383 { bootGrid with
      prio := 7
      phase := .accepted
      launch := { bootLaunch with localSize := l } } }

/-- The team has stopped at a YIELD or in a wait, under a request. -/
def stopped (r : RunState) (req : Bool) (s : State := now) : State :=
  modTeam (modGroup s 2 fun g => g.modSplit 0 fun p => { p with run := r }) 1 fun t => { t with request := req }

def aWait (f : WaitFor) : Wait := { for_ := f, since := 100, ticks := 1048576, len := 4 }

/-- A grid of pairs, queued, with room on cores of two clusters. -/
def pairedGrid : State :=
  { now with grids := kset now.grids 16383 { bootGrid with phase := .accepted, launch := { bootLaunch with paired := true } } }

/-- The team has been taken. -/
def taken : State := takeTeam (stopped .park true) 1

/-- A pair: team 1 with group 2, and its shadow, team 3 with group 4, each at a compare point or not. -/
def pair (r r' : RunState) : State :=
  let s := stopped r false
  let s := { s with teams := kset s.teams 3 { (kget s.teams 1).getD ((kget now.teams 1).get (by decide +kernel)) with
                      shadow := true, twin := some 1, groups := [4] }
                    groups := kset s.groups 4 { g0.modSplit 0 fun p => { p with run := r' } with team := 3 } }
  modTeam s 1 fun t => { t with twin := some 3 }

theorem witness_dispatcher_events_complete :
  [(kget (waitingGrid 0).grids 16383).any (fun g => g.queued && !g.launch.paired && g.launch.groups == 1 &&
     placeOk (waitingGrid 0) 767 g.launch.localSize g.launch.width (List.zip [(7, 6)] (launchNeeds g.launch)) && turnOf (waitingGrid 0) g 767),
   (kget pairedGrid.grids 16383).any (fun g => let s := pairedGrid
     let u := startTeam s 16383 g { core := 767, parts := [(7, 6)] } false s.uidCtr (some (s.uidCtr + 2))
     g.queued && g.launch.paired && g.launch.groups == 1 && turnOf s g 767 && turnOf s g 8 && decide (clusterOf 8 ≠ clusterOf 767) &&
     placeOk s 767 g.launch.localSize g.launch.width (List.zip [(7, 6)] (launchNeeds g.launch)) &&
     placeOk u 8 g.launch.localSize g.launch.width (List.zip [(0, 0)] (launchNeeds g.launch))),
   (let s := waitingGrid 524289
    (kget s.teams 1).any (fun t => t.core.isSome && !t.request && !t.ended) && (gridOf s 1).any (fun g => decide (g.prio < 7)) &&
      blocked s 16383),
   (kget (stopped .park true).teams 1).any (fun t => t.request && t.twin.isNone) && teamStopped (stopped .park true) 1,
   ([(.park, true), (.wait (aWait (.child 0 3)), false)] : List (RunState × Bool)).all fun q =>
     let s := modTeam (pair .park q.1) 1 fun t => { t with request := true }
     let s := if q.2 then s else modGroup s 4 fun g => g.setPc [0, 1] 0x40
     (kget s.teams 1).any (·.request) && pairOf s 1 == some (1, 3) && teamStopped s 1 && teamStopped s 3 && standTogether s 1 3 == q.2 &&
     sigsEqual s 1 3,
   (let s := waitingGrid 524289 (stopped (.wait (aWait (.child 0 3))) false)
    (kget s.teams 1).any (fun t => !t.request && t.twin.isNone) && blocked s 16383 && teamStopped s 1 &&
      (teamGroups s 1).all (fun p => p.2.splits.all fun sp => !sp.valid || sp.waiting)),
   (kget taken.teams 1).any (fun t => t.core.isNone && !t.shadow && !t.ended && t.twin.isNone) &&
     (gridOf taken 1).any (fun g => !g.preq && !g.replaying && resumeOk taken 1 g { core := 767, parts := [(7, 0)] }),
   (let s := split fun p => { p with pend := [{ writes := [(.s 0 5, 9)], await := none }] }
    (kget s.groups 2).any fun g => (g.split 0).valid && (g.split 0).pend[0]? == some { writes := [(.s 0 5, 9)], await := none }),
   (let s := group fun g => { g with budget := 0 }
    match ctxOf s 2 0 with
    | some x => x.g.budget == 0 && !x.inH && (x.g.split x.e).trap.isNone && resultsReady x.g x.e && (match x.fetch s x.pc.toNat with
      | (.ok w, t) => (wouldIssue x w t).1
      | _ => false)
    | none => false),
   (let s := { modGrid now 0 fun g => { g with endedTeams := 1 } with teams := [], groups := [] }
    (kget s.grids 0).any fun g => canRetire s 0 g && (completionArrival (releaseCopies s 0 g) g).isSome),
   ([true, false].all fun k => (split fun p => { p with run := .host 0x40 k }).groups.any fun g => decide ((g.2.split 0).run = .host 0x40 k)),
   (let s := modTeam now 1 fun t => { t with stop := some { cause := 0x38, resumable := true, group := 2, entry := 0, own := true } }
    (kget s.teams 1).any fun t => t.stop.any (·.resumable)),
   (pairOf (pair (.pair 5) (.pair 9)) 3 == some (1, 3) && matched (pair (.pair 5) (.pair 9)) 1 3 == [(2, 0, 4, 0)] &&
     sigsEqual (pair (.pair 5) (.pair 9)) 1 3),
   (let o : EngOp := { engOp (.qfence 2) with parked := some 5 }
    let s := modCore (pair .run .run) 0 fun k => { k with copyq := [o, { o with id := 8, team := 3, group := 4 }] }
    pairOf s 1 == some (1, 3) && (matched s 1 3).isEmpty && (matchedOps s 1 3).length == 1),
   (let s := { pair (.pair 5) .run with dtime := BitVec.ofNat 64 (5 + pairLimit) }
    pairOf s 1 == some (1, 3) && (matched s 1 3).isEmpty && overdue s 1 == some (2, 0) &&
      (kget s.groups 2).any fun g => (twinGroup s 1 g.gid).isSome)].all id = true := by decide +kernel

def matKind (k : MatKind) : MatOp := { id := 7, team := 1, group := 2, batch := 0, kind := k }

def fifoWith (l : List MatOp) (f : Core → Core := id) : State := modCore now 767 fun k => f { k with fifo := l }

def shape : Shape :=
  { base := 0x7000, bound := 4, crec := 0, dims := [1, 1, 1, 1, 1], rank := 2, slot := 0, elem := .fp32, loc := false
    strides := [1, 1, 0, 0, 0], origin := [0, 0, 0, 0, 0], box := [1, 1, 1, 1, 1] }

def copies (k : EngKind) : State := modCore now 767 fun q => { q with copyq := [engOp k] }

/-- The head of a queue, when it is of kind k and no page holds it. -/
def headIs (q : EngQueue) (s : State) (k : EngKind) : Bool := (q.head s).any fun o => !o.worked && decide (o.kind = k)

def routeArgs : RouteArgs :=
  { expert := false, t := 1, e := 1, p := 1, k := 1, capacity := 0, renorm := false, rep := [0], word := 0x80000000, outs := []
    score := shape }

/-- A wait for the barrier at local offset 0, for the value at 0x7000, or for child 5, whose start was at tick 100. -/
def waits (f : WaitFor) (m : Nat := 0) (t : DWord := 200) : State :=
  { stopped (.wait (aWait f)) false with dtime := t, mem := writeN now.mem 0x7000 4 m }

def wy (f : WaitFor) (m : Nat) (t : DWord) (c : Wait → Ctx → State → Bool) : Bool :=
  match waiting (waits f m t) 2 0 with
  | some (w, x, v) => decide (w.for_ = f) && c w x v
  | none => false

/-- An operation of the coll queue of core 0 that a page holds. -/
def heldPage (s : State) : State := modCore s 0 fun q => { q with collq := [{ engOp (.qfence 0) with page := some 0x40 }] }

def delivers (s : State) : Bool :=
  ((queueOf (.coll 0)).get s).any (fun o => o.page == some 0x40 && o.pend.isNone && (faultGroup s o).isSome) &&
    (kget s.teams 1).any (fun t => !t.ended && t.core == some 0 && t.stop.isNone) && !partitionBusy s 0 g0.part &&
    (handlerAddr s 0 1 != 0 || hostMode s 0)

theorem witness_engine_and_wait_events_complete :
  [(matKind (.azero 0 0 8)).performs && (performMat (fifoWith [matKind (.azero 0 0 8)]) 767 (matKind (.azero 0 0 8))).2,
   (let s := fifoWith [matKind (.azero 0 0 8)] fun k => { k with free := [] }
    !(performMat s 767 (matKind (.azero 0 0 8))).2 && (coreAt (performMat s 767 (matKind (.azero 0 0 8))).1 767).starve.isNone),
   (let s := fifoWith [matKind (.azero 0 0 8)] fun k => { k with free := [], starve := some 1 }
    !(performMat s 767 (matKind (.azero 0 0 8))).2 && (coreAt (performMat s 767 (matKind (.azero 0 0 8))).1 767).starve.isSome),
   (let s := { fifoWith [matKind (.azero 0 0 8)] fun k => { k with free := [], starve := some 1 } with dtime := 1048577 }
    (coreAt s 767).starve == some 1 && (coreAt s 767).free.isEmpty && decide (1048576 ≤ (s.dtime - 1).toNat)),
   (let s := group fun g => { g with mbatch := 0, mopen := 64 }
    (kget s.groups 2).any fun g => g.mopen != 0 && !batchOpen s 2 (g.mbatch - BitVec.ofNat 8 g.mopen)),
   (let s := modGroup (fifoWith [matKind (.adrain 15)]) 2 fun g => { g with h := g.h.set 15 (some 31) }
    boundSlot s 2 15 == some 31),
   headIs (.copy 767) (copies (.drain shape fmtSlotZero true 0x80000000 (some []) false)) (.drain shape fmtSlotZero true 0x80000000 (some []) false),
   headIs (.copy 767) (copies (.drain shape fmtSlotZero true 0x80000000 none true)) (.drain shape fmtSlotZero true 0x80000000 none true),
   headIs (.copy 767) (copies (.bcopy shape shape 0x80000000)) (.bcopy shape shape 0x80000000),
   headIs (.copy 767) (copies (.bcopym 255 shape shape (some [1]))) (.bcopym 255 shape shape (some [1])),
   headIs (.copy 767) (copies (.bcopym 0 shape shape (some []))) (.bcopym 0 shape shape (some [])),
   headIs (.route 3) (modRoute now 3 fun _ => [engOp (.route routeArgs)]) (.route routeArgs),
   (let s := modCore now 767 fun q => { q with collq := [engOp (.coll shape fmtSlotZero 15 [] (some []) 0 0 0x80000000)] }
    ((EngQueue.coll 767).head s).any fun o => !o.worked && decide ((readCollTile 767 o s).1.kind =
      .coll shape fmtSlotZero 15 [] (some []) 0 0 0x80000000)),
   ([.copy 767, .route 3, .coll 767] : List EngQueue).all fun q =>
     (q.head (q.put { engOp (.qfence 0) with worked := true } (q.mod now fun _ => [engOp (.qfence 0)]))).any (·.worked),
   delivers (heldPage handled), delivers (heldPage { now with mgmt := { now.mgmt with fnmode := 1 } }),
   wy (.barrier 0 true) 0 200 fun _ x t => match barrierAt x t 0 none with
     | .ok q v => (barrierPoison v q.1).isNone && q.2.phase != true
     | _ => false,
   wy (.value 0x7000 0 7) 7 200 fun _ x t => match waitvRead x t 0x7000 with
     | .ok p _ => intCompare 0 (BitVec.ofNat 32 p.1) 7
     | _ => false,
   wy (.value 0x7000 0 7) 6 200 fun _ x t => match waitvRead x t 0x7000 with
     | .ok p _ => !intCompare 0 (BitVec.ofNat 32 p.1) 7
     | _ => false,
   wy (.child 0x500 3) 0 200 fun _ x t => !liveChild t x.t.grid 5,
   wy (.child 0x500 3) 0 1048676 fun w _ t => w.ticks == (t.dtime - w.since).toNat,
   ((split fun p => { p with refused := some (4, 5) }).groups.any fun g => (g.2.split 0).refused == some (4, 5))].all id = true := by
  decide +kernel

/-! More of the ends of teams, the dispatcher, engines and waits. -/

/-- The grid is replayable. -/
def replayable (f : Grid → Grid := id) (s : State := now) : State :=
  modGrid s 0 fun g => f { g with launch := { g.launch with replayable := true } }

theorem witness_faults_replay_or_hold :
  [(snapRoot (replayable) 0).any fun r => !r.2.nonReplay && decide (r.2.fr.replays < 3),
   (snapRoot (replayable fun g => { g with nonReplay := true }) 0).any fun r => r.2.nonReplay,
   (snapRoot (replayable fun g => { g with fr := { g.fr with replays := 3 } }) 0).any fun r => decide (3 ≤ r.2.fr.replays),
   (kget (modTeam now 1 fun t => { t with ended := true }).teams 1).any (·.ended),
   (kget (group fun g => { g with splits := g.splits.map fun _ => Split.none }).groups 2).any (·.ended), delayed (ctl 4 .probation) (cpOf now 0),
   !delayed now (cpOf now 0) && hostMode { now with mgmt := { now.mgmt with fnmode := 2 } } 1].all id = true := by decide +kernel

/-- The pair has stopped under a request, each at p and q with the second's signature v. -/
def stoppedPair (p q : RunState) (v : Nat := 0) (pc : DWord := 0x10000) : State :=
  let s := modTeam (pair p q) 1 fun t => { t with request := true }
  modGroup (modTeam s 3 fun t => { t with sig := t.sig + BitVec.ofNat 64 v }) 4 fun g => g.setPc [0, 1] pc

/-- Both teams of the pair have stopped, where they take points or not. -/
def taking (s : State) (point equal : Bool) : Bool :=
  pairOf s 1 == some (1, 3) && teamStopped s 1 && teamStopped s 3 && (takePoint s 1 3).isSome == point && sigsEqual s 1 3 == equal

theorem witness_pairs_are_taken :
  [taking (stoppedPair .park .park) true true, taking (stoppedPair .park .park 1) true false,
   taking (stoppedPair .park (.wait (aWait (.child 0 3))) 0 0x40) false true,
   taking (stoppedPair (.pair 5) (.pair 9)) true true,
   (let s := waitingGrid 524289 (pair (.wait (aWait (.child 0 3))) (.wait (aWait (.child 0 3))))
    (kget s.teams 1).any (fun t => !t.request && t.twin == some 3) && blocked s 16383 && allWait s 1 && allWait s 3 && (takeAll s 1).isSome &&
      !delayed s (cpOf s 0)),
   (let s := modGrid { modGrid now 0 fun g => { g with endedTeams := 1 } with teams := [], groups := [] } 0 fun g =>
      { g with launch := { g.launch with completion := 0x20000000 } }
    (kget s.grids 0).any fun g => canRetire s 0 g && (completionArrival (releaseCopies s 0 g) g).isNone),
   (let s := { pair (.pair 5) .run with dtime := BitVec.ofNat 64 (5 + pairLimit) }
    (overdue s 1).isSome && runsFree s 1 && runsFree s 3),
   [waitingGrid 0, pairedGrid, taken, stopped .park true].all fun s => !delayed s (cpOf s 0) && !delayed s (cpOf s 16383)].all id = true := by
  decide +kernel

/-- The twins run handlers at one program counter or at two, and the first holds a write. -/
def handlingPair (pc : DWord) (v : Nat) : State :=
  let s := modTeam (pair .run .run) 1 fun t => { t with held := holdBytes [] 0x7000 [1] }
  let s := modTeam s 3 fun t => { t with sig := t.sig + BitVec.ofNat 64 v }
  modGroup (modGroup s 2 fun g => { g with handler := some handler }) 4 fun g => { g with handler := some { handler with pc := pc } }

theorem witness_sysput_waits_for_its_twin :
  ([(0x8004, 0, false, true), (0x8000, 1, true, false), (0x8000, 0, true, true)] : List (DWord × Nat × Bool × Bool)).all (fun q =>
     hyB 0xE3 (bw 8 15 0) none (handlingPair q.1 q.2.1) fun x s => x.inH && pairOf s x.g.team == some (1, 3) && !x.t.held.isEmpty &&
       (twinGroup s 3 x.g.gid).any (fun y => decide (y.2.handler.map (·.pc) = x.g.handler.map (·.pc))) == q.2.2.1 &&
       sigsEqual s 1 3 == q.2.2.2) = true := by decide +kernel

theorem witness_engine_faults_and_waits_stop :
  [(let s := modTeam (heldPage now) 1 fun t => { t with ended := true }
    (kget s.teams 1).any (·.ended)),
   (let s := modGrid (heldPage now) 0 fun g => { g with replaying := true }
    ((queueOf (.coll 0)).get s).any fun o => o.replaying s),
   (let s := { heldPage now with groups := [] }
    ((queueOf (.coll 0)).get s).any fun o => o.page == some 0x40 && (faultGroup s o).isNone),
   (kget (modTeam (heldPage now) 1 fun t => { t with core := none }).teams 1).any fun t => t.core.isNone,
   (kget { heldPage now with teams := [] }.teams 1).isNone,
   ([handled, now, { now with mgmt := { now.mgmt with fnmode := 1 } }] : List State).all fun s =>
     ((queueOf (.coll 0)).get (heldPage s)).any (fun o => o.page == some 0x40 && o.pend.isNone && !o.replaying (heldPage s) &&
       (faultGroup (heldPage s) o).any fun p => !(p.2.1.split p.2.2).asked && !partitionBusy (heldPage s) 0 p.2.1.part),
   handlerAddr (heldPage now) 0 1 == 0 && !hostMode (heldPage now) 0 && handlerAddr (heldPage handled) 0 1 != 0,
   wy (.barrier 4 true) 0 200 fun _ x t => isStop (barrierAt x t 4 none),
   (match waiting { waits (.barrier 0x80000000 true) with poison := [(0x20000 / 128, 9)] } 2 0 with
    | some (_, x, t) => match barrierAt x t 0x80000000 none with
      | .ok q v => barrierPoison v q.1 == some 9
      | _ => false
    | none => false),
   wy (.value 0x20000000 0 7) 0 200 fun _ x t => isStop (waitvRead x t 0x20000000)].all id = true := by decide +kernel
/-! Events: coherence, the fabric, collectives. -/

/-- Packages 1 and 2303 are in the domain. -/
def domain : State := { now with pkgs := [0, 1, 2303], peers := kset (kset [] 1 (Peer.init 0)) 2303 (Peer.init 0) }

def coh (f : Coherence → Coherence) : State := { domain with coh := f domain.coh }

def stamp : Stamp := { time := 5, pkg := 0, tag := 0xFFF }
def far : Nat := 2303 * 2 ^ 33 + 9
def mshr (line : Nat) (k : CohKind) : Mshr := { die := 3, line := line, kind := k, stamp := stamp, sentAt := 5, taken := false, unsent := false }
def holds (line : Nat) (st : LineState) : Coherence → Coherence := fun c => { c with l2 := [[], [], [], [(line, st)]] }
def sent (m : OutMsg) (f : Coherence → Coherence := id) : State := { coh f with outbox := [m] }

/-- A home line whose grant waits for package 1, which has been sent n snoops. -/
def granting (n : Nat) (reported : Bool) (t : DWord) : State :=
  { coh fun c => { c with grants := [{ line := 9, role := .answer, kind := .readOwn, req := ⟨9, .die 0, stamp, .none⟩, waits := [(.pkg 1, n)]
                                       since := 5, reported := reported, answer := "DataM" }] } with dtime := t }

theorem witness_coherence_events_complete :
  [(offered (coh fun c => { c with mshrs := [mshr 9 .readShared] }) .readShared ⟨9, .die 3, stamp, .none⟩).isSome,
   (offered domain .readOwn ⟨0, .pkg 2303, { stamp with pkg := 2303 }, .none⟩).isSome,
   (offered (coh fun c => { c with mshrs := [mshr 0x17FFFFFFF .upgrade] }) .upgrade ⟨0x17FFFFFFF, .die 3, stamp, .none⟩).isSome,
   (offered domain .writeBack ⟨9, .pkg 1, { stamp with pkg := 1 }, .none⟩).isSome,
   (offered domain .cleanEvict ⟨9, .pkg 1, { stamp with pkg := 1 }, .none⟩).isSome,
   (offered domain .atomic ⟨9, .pkg 1, { stamp with pkg := 1 }, .none⟩).isSome,
   ([(fun _ => none), (fun _ => some (.shared [0, 3])), (fun _ => some (.owned 0 [3]))] : List (Nat → Option DirEntry)).all fun e =>
     let s := coh fun c => { c with dir := ((e 0).map fun d => (9, d)).toList }
     decide ((3 : BitVec 2).toNat ≠ homeDie (9 * 128)) && !s.coh.hostLines.contains 9 && (regionAt s (regionOf 9)).shadow == 0 &&
       kget s.coh.dir 9 == e 0,
   (["FwdShared", "FwdOwn", "Invalidate", "BackInvalidate"].all fun k =>
     let s := sent (.coh k (.pkg 0) (.die 3) 9 stamp)
     ownLine s 9 && (takeCoh s [k] (· == .pkg 0) (· == .die 3) 9).isSome),
   !ownLine domain far && decide (homeNode far ≠ .host) && [LineState.modified, .owned, .excl, .shared].all fun st =>
     decide (l2At (coh (holds far st)) 3 far = st),
   decide (l2At domain 3 far = .inv),
   (let s := sent (.coh "DataE" (.pkg 0) (.die 3) 9 stamp) fun c => { c with mshrs := [mshr 9 .readShared] }
    (mshrOf s 3 9 fun m => grants .excl m.kind).isSome && (response s "DataE" 3 9).isSome),
   (mshrOf (coh fun c => { c with mshrs := [mshr far .readOwn] }) 3 far fun m => grants .modified m.kind).isSome &&
     (response domain "DataM" 3 far).isSome,
   (let s := coh fun c => { holds far .shared c with mshrs := [mshr far .upgrade] }
    !ownLine s far && decide (l2At s 3 far = .shared) && s.coh.mshrs.any fun m => m.die == 3 && m.line == far && decide (m.kind = .upgrade)),
   (let s := sent (.coh "Retry" (.pkg 0) (.die 3) 9 stamp) fun c => { c with mshrs := [mshr 9 .upgrade] }
    (mshrOf s 3 9 fun _ => true).isSome && (response s "Retry" 3 9).isSome),
   (takeCoh (sent (.coh "DataFwd" (.die 3) (.pkg 0) 9 stamp)) ["DataFwd"] (· == .die 3) (fun _ => true) 9).isSome,
   (takeCoh (sent (.coh "InvAck" (.die 3) (.pkg 0) 9 stamp)) ["InvAck"] (· == .die 3) (fun _ => true) 9).isSome,
   (let s := coh (holds far .owned)
    !ownLine s far && decide (l2At s 3 far ≠ .inv) && s.coh.mshrs.all (fun m => decide (¬ (m.die = 3 ∧ m.line = far)))),
   (let s := coh fun c => { holds 9 .modified c with dir := [(9, .owned 3 [])] }
    ownLine s 9 && decide (l2At s 3 9 ≠ .inv)),
   (let s := sent (.coh "Ack" (.pkg 0) (.die 3) 9 stamp) fun c => { holds 9 .owned c with mshrs := [mshr 9 .upgrade] }
    s.coh.mshrs.head?.any (fun m => m.die == 3 && m.line == 9 && decide (m.kind = .upgrade)) && (response s "Ack" 3 9).isSome &&
      decide (l2At s 3 9 = .owned)),
   ([CohKind.writeBack, .cleanEvict, .atomic].all fun k =>
     let s := coh fun c => { c with mshrs := [mshr far k] }
     s.coh.mshrs.head?.any (fun m => m.die == 3 && m.line == far && decide (m.kind = k)) && (response s "Ack" 3 far).isSome),
   ownRegion domain 0 && !sweeping domain 0 && (coveredBy domain (regionAt domain 0).shadow .host).isEmpty,
   (let s := modRegion domain 0 fun g => { g with shadow := shadowBit 1 }
    ownRegion s 0 && !(regionAt s 0).tracked && !(coveredBy s (regionAt s 0).shadow .host).isEmpty),
   ownRegion domain 0 && !(regionAt domain 0).tracked && domain.coh.grants.all (fun x => decide (regionOf x.line ≠ 0)),
   (let s := { coh fun c => { c with mshrs := [mshr far .readOwn] } with dtime := 50005 }
    (s.coh.mshrs.find? fun m => decide (m.stamp.tag = 0xFFF)).any fun m => !ownLine s m.line && decide (homeNode m.line ≠ .host) &&
      (s.dtime - m.sentAt).toNat == 50000),
   (let s := coh fun c => { c with affected := [(0, 0)] }
    s.coh.affected.any (fun e => decide (e.2.toNat ≤ s.dtime.toNat)) && s.coh.collected.isEmpty),
   (let s := coh fun c => { c with affected := [(0, 0)], collected := [(.readOwn, ⟨9, .pkg 1, stamp, .none⟩)] }
    s.coh.affected.any (fun e => decide (e.2.toNat ≤ s.dtime.toNat)) && !s.coh.collected.isEmpty),
   ([(4, false, (200005 : DWord)), (3, true, 150005)] : List (Nat × Bool × DWord)).all fun p =>
     let s := granting p.1 p.2.1 p.2.2
     (s.coh.grants.find? fun g => decide (g.line = 9) && g.waits.any fun w => w.1 == .pkg 1).any fun g =>
       g.waits.find? (fun w => w.1 == .pkg 1) == some (.pkg 1, p.1) && (s.dtime - g.since).toNat == 50000 * p.1,
   decide (homeNode (0x900 * 2 ^ 33) = .host),
   (takeCoh (sent (.coh "BISnpInv" (.pkg 0) .host 9 stamp)) ["BISnpInv", "BISnpData"] (fun _ => true) (· == .host) 9).isSome,
   ownLine now (0xBFFFFFFFFF / 128) && decide (0xBFFFFFFFFF / 128 = (0xBFFFFFFFFF + 1 - 1) / 128) && !targetRefuses now 0xBFFFFFFFFF
     && (poisonAt now 0xBFFFFFFFFF 1).isNone].all id = true := by decide +kernel

/-- Link 23 up or down. -/
def link (up : Bool) : State := { domain with links := lmod domain.links 23 fun l => { l with up := up } }

def window : Window :=
  { valid := true, w := true, notify := true, key := 0x1FF, base := 0x7000, size := 16, pid := 1, nqlog := 4, nqbase := 0x7400
    nqcons := 0x7480, nqprod := 15 }

def putMsg (off : Word) : PutMsg :=
  { pid := 1, src := 1, dst := 0, key := 0x1FF, offset := off, value := 7, word := 9, putk := false, issuer := .grid 0 0 0 }

def windowed : State :=
  { domain with windows := kset [] 255 window, notes := [⟨255, 9, 1, false, 8, .grid 0 0 0⟩] }

theorem witness_fabric_events_complete :
  [(domain.links.getD 23 Link.init).up == false && ((link true).links.getD 23 Link.init).up && (List.replicate 256 (0 : Byte)).length == 256,
   !hostMode (link true) 3, hostMode { link true with mgmt := { now.mgmt with fnmode := 8 } } 3,
   (putArrives windowed (putMsg 8)).any fun t => windowAdmits (windowAt t 0x1FF) (putMsg 8) &&
     (spaceOfPid t window.pid).any fun sp => (sysWrite t sp 0x7008 8 7).isSome,
   (putArrives windowed (putMsg 16)).any fun t => !windowAdmits (windowAt t 0x1FF) (putMsg 16),
   (putArrives windowed (putMsg 4)).any fun t => !windowAdmits (windowAt t 0x1FF) (putMsg 4),
   (windowed.notes.find? fun n => n.win == 255).any fun n => let w := windowAt windowed 255
     (spaceOfPid windowed w.pid).any fun sp => (sysRead windowed sp w.nqcons.toNat 8).any fun cons =>
       decide ((w.nqprod.toNat + 2 ^ 64 - cons) % 2 ^ 64 < 2 ^ w.nqlog.toNat) &&
       (sysWrite windowed sp ((w.nqbase.toNat + 16 * (w.nqprod.toNat % 2 ^ w.nqlog.toNat)) % 2 ^ 64) 16 (noteBytes n w.nqprod)).isSome,
   (let s := { modGrid now 0 fun g => { g with puts := 1 } with outbox := [.putAck ⟨.grid 0 0 0, 0, none⟩] }
    s.outbox == [.putAck ⟨.grid 0 0 0, s.pkg, none⟩] && (kget s.grids 0).any fun g => decide (0 < g.puts)),
   (let s := { modGrid domain 0 fun g => { g with puts := 1 } with outbox := [.put { putMsg 8 with dst := 1 }] }
    present s 1 && !present s 2 && (putMsg 8).issuer == .grid 0 0 0 && (kget s.grids 0).any fun g => decide (0 < g.puts)),
   (kget domain.peers (grantorKey (.pkg 2303))).isSome && !markMode domain,
   (let s := { domain with mgmt := { domain.mgmt with fabmode := 1 }, dtime := 2000 }
    markMode s && (kget s.peers 1).any fun x => (s.dtime - x.quiet).toNat == 2000 && x.cut.isNone),
   (let s := { now with ctls := now.ctls.map fun c => { c with running := some (0, 0) } }
    allRun s && [(0 : BitVec 12), 2303].all (fun p => decide (p.toNat < 2304)) && decide ([(0 : BitVec 12), 2303].Nodup) &&
      !s.mgmt.fabmode.getLsbD 1 && decide (s.dtime.toNat ≤ (100 : DWord).toNat)),
   (let s := { domain with ctls := now.ctls.map fun c => { c with running := some (0, 0) }, mgmt := { now.mgmt with fabmode := 2 } }
    allRun s && s.mgmt.fabmode.getLsbD 1 && !present s 2 && decide ([(0 : BitVec 12), 2].Nodup)),
   (let s := { domain with slew := some 100, dtime := 2500100 }
    decide (250 ≤ 250) && s.slew == some 100 && decide (10000 * 250 ≤ (s.dtime - 100).toNat))].all id = true := by decide +kernel

def here : Route := { pkg := 0, sq := 0, ctx := 0 }
def there : Route := { pkg := 1, sq := 23, ctx := 3 }
def ready (pid : BitVec 12) : ReadyMsg := { src := there, dst := here, pid := pid, tag := 7, length := 256, combine := none }
def rx : RxOp := { dst := [], loc := [], len := 256, tag := 7, src := there, cmb := some 0, fwd := none, log := [], seq := some 0 }

/-- Context 0 of sequencer 0 waits for w since tick 5, with the clock at t; it belongs to collective 0, of this package. -/
def ctxNow (w : SeqWait) (t : DWord := 5) (f : SeqCtx → SeqCtx := id) (host : Bool := false) : State :=
  let s := sq 1 1 1 1
  let s := modCtx s 0 0 fun c => f { c with wait := w, state := .waiting, since := 5 }
  { s with dtime := t, pkgs := [0, 1], mgmt := { s.mgmt with fnmode := if host then 1 else 0 }
           peers := kset [] 1 (Peer.init 0) }

def cy (s : State) (p : SeqCtx → Collective → Bool) : Bool :=
  match collOf s (ctxAt s 0 0) with
  | some co => decide ((ctxAt s 0 0).state = .waiting) && p (ctxAt s 0 0) co
  | none => false

/-- Collective 1 of package 1 has been loaded here and has not started. -/
def loaded (started : Bool) (cid : BitVec 28) (st : SeqState := .idle) : State :=
  let s := modCtx (ctxNow .none) 0 0 fun c => { c with cid := cid, state := st }
  { s with colls := kset s.colls cid.toNat { bootColl with started := started } }

theorem witness_collective_events_complete :
  [isHere (ctxNow .none) here && (arrive (ctxNow .none) 1 (.ready (ready 2))).any fun t => pidDiffers t 0 0 2,
   (arrive (ctxNow .none) 1 (.ready (ready 1))).any fun t => !pidDiffers t 0 0 1 && decide ((ctxAt t 0 0).readys.length < 64),
   cy (ctxNow (.rx rx (some 5) true false) 1029) fun c _ => c.wait == .rx rx (some 5) true false &&
     decide (1024 ≤ ((1029 : DWord) - 5).toNat),
   (let m : ChunkMsg := { src := there, dst := here, pid := 1, tag := 7, data := List.replicate 256 0 }
    let s := ctxNow (.rx rx (some 5) false false)
    isHere s m.dst && (arrive s 1 (.chunk m)).any fun t => !pidDiffers t 0 0 m.pid &&
      (ctxAt t 0 0).wait == .rx rx (some 5) false false && rx.src == m.src && rx.tag == m.tag && rx.len == m.data.length),
   (let s := { ctxNow (.rx rx (some 5) false false) with outbox := [.nack { dst := here, tag := 7, pidFault := false }] }
    isHere s here && s.outbox == [.nack { dst := here, tag := 7, pidFault := false }] && (ctxAt s 0 0).wait == .rx rx (some 5) false false),
   (let m : NackMsg := { dst := here, tag := 7, pidFault := true }
    let s := { ctxNow (.tx [] 256 there 7 23) with outbox := [.put (putMsg 8), .nack m] }
    isHere s here && s.outbox.contains (.nack m) && (ctxAt s 0 0).wait == .tx [] 256 there 7 23),
   cy (ctxNow (.sent there 7 none) 1029) fun c co => c.wait == .sent there 7 none && there.pkg != (ctxNow .none).pkg && !co.debug &&
     decide (1024 * co.timeout ≤ ((1029 : DWord) - c.since).toNat),
   cy (ctxNow (.rx { rx with fwd := some there } (some 5) false false) 1029) fun c co =>
     c.wait == .rx { rx with fwd := some there } (some 5) false false && !co.debug && decide (1024 * co.timeout ≤ ((1029 : DWord) - c.since).toNat),
   cy (ctxNow (.done none)) fun c _ => c.wait == .done none,
   cy (ctxNow (.replay rx [])) fun c co => c.wait == .replay rx [] && rx.cmb.isSome && rx.seq == some co.combines,
   cy (ctxNow (.sred [(0x7000, 1)] [3] 1)) fun c _ => c.wait == .sred [(0x7000, 1)] [3] 1 && pidDiffers (ctxNow .none) 0 0 2 &&
     !pidDiffers (ctxNow .none) 0 0 1,
   cy (ctxNow (.flag 0x7000 0 9)) fun c _ => c.wait == .flag 0x7000 0 9 && (poisonAt (ctxNow (.flag 0x7000 0 9)) 0x7000 8).isNone,
   cy (ctxNow (.page 0x40 true)) (fun c _ => c.wait == .page 0x40 true),
   cy (ctxNow (.sred [] [] 2) 1029) fun c co => c.wait == .sred [] [] 2 && !co.debug &&
     decide (1024 * co.timeout ≤ ((1029 : DWord) - c.since).toNat),
   cy (ctxNow (.replay rx []) 1029) fun c co => !co.debug && decide (1024 * co.timeout ≤ ((1029 : DWord) - c.since).toNat),
   cy (ctxNow (.flag 0x7000 1 1024) 1029) fun c co => !co.debug && decide (1024 ≤ ((1029 : DWord) - c.since).toNat),
   (let s := modSeq (seqNow 0) 0 fun q => { q with streak := 256 }
    (seqAt s 0).run == some 0 && decide (256 ≤ (seqAt s 0).streak)),
   (let s := ctxNow .none
    let m : LaunchMsg := { cid := 0x1001, pid := 1, space := 1, packet := 1 }
    originOf m.cid != s.pkg && present s (originOf m.cid) && (kget s.colls m.cid.toNat).isNone &&
      (kget s.spaces m.space).any (fun sp => sp.pid == m.pid) && (match loadPackage m.space m.packet m.cid none (fun _ _ => []) s with
        | .done st _ _ _ => st == 1
        | _ => false)),
   heldFor (loaded false 0x1001) 0x1001,
   (let s := { loaded true 0x1001 .waiting with outbox := [.coll "abort" 0 0x1001 0] }
    (kget s.colls 0x1001).isSome && s.outbox.contains (.coll "abort" s.pkg 0x1001 0)),
   (let s := loaded true 0x1001 .waiting
    let s := { s with colls := kset s.colls 0x1001 { bootColl with pkgs := [0, 1] } }
    (kget s.colls 0x1001).any (fun co => co.pkgs.any (· != s.pkg)) && !s.outbox.contains (.coll "abort" s.pkg 0x1001 10) &&
      originOf 0x1001 != s.pkg),
   (let s := loaded true 0x2000
    let s := { s with colls := kset s.colls 0x2000 { bootColl with started := true, source := some (0, 3), cause := 7 } }
    (kget s.colls 0x2000).any fun co => co.started && co.ctxs.all (ctxOver s 0x2000) && co.source == some (0, 3)),
   (let s := loaded true 0x2000
    (kget s.colls 0x2000).any fun co => co.started && co.ctxs.all (ctxOver s 0x2000) && originOf 0x2000 == s.pkg && co.source.isNone)
  ].all id = true := by decide +kernel

/-! More of coherence, the fabric and collectives. -/

/-- Package 1's requests meet the marks of the domain; the home line 9 is owned by die 3 itself, or shared or given up by it. -/
theorem witness_coherence_owners_and_busy_lines :
  [([[], [0], [0, 3]] : List (List (BitVec 2))).all fun l =>
     let s := coh fun c => { c with dir := [(9, .owned 3 l)] }
     decide ((3 : BitVec 2).toNat ≠ homeDie (9 * 128)) && !s.coh.hostLines.contains 9 && (regionAt s (regionOf 9)).shadow == 0 &&
       kget s.coh.dir 9 == some (.owned 3 l),
   ([LineState.owned, .inv].all fun st =>
     let s := sent (.coh "Ack" (.pkg 0) (.die 3) 9 stamp) fun c => { holds 9 st c with mshrs := [mshr 9 .upgrade] }
     (mshrOf s 3 9 fun m => m.kind.acked).any (fun m => decide (m.kind = .upgrade)) && (response s "Ack" 3 9).any fun t =>
       decide (l2At t 3 9 = st)),
   ([CohKind.writeBack, .cleanEvict].all fun k =>
     (mshrOf (coh fun c => { c with mshrs := [mshr far k] }) 3 far fun m => m.kind.acked).any fun m => decide (m.kind ≠ .upgrade)),
   ([LineState.modified, .owned, .excl, .shared, .inv].all fun st =>
     let s := sent (.coh "BackInvalidate" (.pkg 0) (.die 3) 9 stamp) (holds 9 st)
     decide (l2At s 3 9 = st) && (takeCoh s ["BackInvalidate"] (· == .pkg 0) (· == .die 3) 9).isSome),
   !lineBusy now (0xBFFFFFFFFF / 128) && !delayed domain 3, decide (homeNode far ≠ .pkg 0)].all id = true := by decide +kernel

/-- Link 23 is up, with bytes to send and credits. -/
def full240 : State := { domain with links := lmod domain.links 23 fun l =>
  { l with up := true, credits := 1, owed := 300, out := List.replicate 241 0 } }

theorem witness_fabric_sends_and_refuses :
  [(let l := full240.links.getD 23 Link.init
    l.up && decide (0 < l.credits) && decide (240 ≤ l.out.length)),
   (putArrives { windowed with windows := kset [] 255 { window with base := 0x20000000 } } (putMsg 8)).any fun t =>
     windowAdmits (windowAt t 0x1FF) (putMsg 8) && (spaceOfPid t window.pid).all fun sp => (sysWrite t sp 0x20000008 8 7).isNone,
   (putArrives { windowed with windows := kset [] 255 { window with pid := 9 } } { putMsg 8 with pid := 9 }).any fun t =>
     windowAdmits (windowAt t 0x1FF) { putMsg 8 with pid := 9 } && (spaceOfPid t 9).isNone,
   (let s := { windowed with windows := kset [] 255 { window with nqcons := 0x20000000 } }
    (s.notes.find? fun n => n.win == 255).isSome && (spaceOfPid s window.pid).all fun sp => (sysRead s sp 0x20000000 8).isNone),
   !delayed domain 2].all id = true := by decide +kernel

theorem witness_collective_conversions_complete :
  [cy (ctxNow (.cvt [(0x7000, 1)] [3] true)) fun c _ => c.wait == .cvt [(0x7000, 1)] [3] true,
   cy (ctxNow (.page 0x40 true) 5 fun c => { c with halt := true, step := true }) fun c _ => c.wait == .page 0x40 true].all id = true := by
  decide +kernel
/-! ### Ill-formed terms and words: each check of R93 and R304 refuses one -/

def xn : ExtArgs := { xw 2 0 4 6 0 false none with y := false }

theorem test_literal_check :
    instrCheck none (.smovX { xn with b := 0, lit := some 1 }) = some 3 ∧ instrCheck none (.putiX xn) = some 3 := by decide +kernel

theorem test_modifier_check :
    instrCheck none (.iaddX { xn with sub := 4 }) = some 4 ∧ instrCheck none (.ldX { xn with b := 0, sub := 7 }) = some 4 ∧
    instrCheck none (.ldX { xn with b := 0, sub := 16 }) = some 4 ∧ instrCheck none (.atoml (bw 2 4 6)) = some 4 := by decide +kernel

theorem test_word_two_check :
    instrCheck none (.faddX { xn with rm := 6 }) = some 5 ∧ instrCheck none (.iaddX { xn with fs := 1 }) = some 5 ∧
    instrCheck none (.iaddX { xn with s := 64, sp := 2 }) = some 5 ∧
    instrCheck none (.saddX { xn with sp := 1 }) = some 5 ∧ instrCheck none (.redX { xn with sp := 2 }) = some 5 := by decide +kernel

theorem test_guard_check : instrCheck none (.saddX { xn with g := 2 }) = some 6 := by decide +kernel

theorem test_position_check :
    instrCheck none (.iaddX { xn with sp := 3 }) = some 7 ∧ instrCheck none (.iaddX { xn with s := 3, sp := 2 }) = some 7 ∧
    instrCheck none (.iaddX { xn with s := 3 }) = some 5 := by decide +kernel

theorem test_operand_check :
    instrCheck none (.sadd (bw 64 1 2)) = some 8 ∧ instrCheck none (.ld (bw 3 5 2)) = some 8 ∧
    instrCheck none (.tsrd (bw 3 0 0)) = some 8 ∧ instrCheck none (.cand (bw 8 0 0)) = some 8 ∧
    instrCheck none (.azero (bw 16 0 0)) = some 8 ∧ instrCheck none (.pset (bw 8 0 0)) = some 8 ∧
    instrCheck none (.smov (bw 3 1 2)) = some 8 ∧ instrCheck none (.jmpi false 3) = some 8 ∧
    instrCheck none (.splitq false 64) = some 8 ∧ instrCheck none (.fence false 7 0) = some 8 ∧
    instrCheck (some { nregs := 8, width := 8, slots := [] }) (.mov (bw 8 0 0)) = some 8 ∧
    instrCheck (some { nregs := 9, width := 8, slots := [] }) (.mov (bw 8 0 0)) = none := by decide +kernel

theorem test_immediate_check :
    instrCheck none (.loop false 3 0) = some 9 ∧ instrCheck none (.loop false 3 1) = none ∧ instrCheck none (.loopi false 1 0) = some 9 ∧
    instrCheck none (.yield false 0 257) = some 9 ∧ instrCheck none (.yield false 0 256) = none ∧
    instrCheck none (.put (bw 12 0 0)) = some 9 ∧ instrCheck none (.wspill (bw 0 2 0)) = some 9 ∧
    instrCheck (some { nregs := 8, width := 8, slots := [] }) (.bcast (bw 1 0 8)) = some 9 := by decide +kernel

theorem test_sequencer_check :
    instrCheck none (.txc 0 0 0 24 0) = some 4 ∧ instrCheck none (.txc 0 0 0 23 0) = none ∧ instrCheck none (.rxc 0 0 0 0 6 0) = some 4 ∧
    instrCheck none (.rxcf 0 0 0 0 0 6 false 0) = some 4 ∧ instrCheck none (.sflg 0 0 3 0) = some 4 ∧
    instrCheck none (.jmpk 0 0 3) = some 4 ∧ instrCheck none (.loga 0 0 3) = some 4 ∧ instrCheck none (.sred 0 0 0 0 24) = some 4 := by
  decide +kernel

/-- Words that no instruction has: an unassigned opcode, a length that the form does not have, a bit that must be zero. -/
theorem test_words_rejected :
    decode [0x11 <<< 3] = .reject 1 ∧ decode [0xFF <<< 3] = .reject 1 ∧ instrCheck none (.saddX { xw 0 0 0 0 0 false (some 0) with y := false, g := 0 }) = some 6 ∧
    decode [0x22 <<< 3 ||| 3, 0, 0, 0, 0] = .ok (.saddX { xw 0 0 0 0 0 false (some 0) with y := false, g := 0 }) ∧
    decode [0x07 <<< 3 ||| 1, 0, 0] = .reject 3 ∧ decode [0x07 <<< 3 ||| 1 <<< 11] = .reject 9 ∧ decode [0xE4 <<< 3 ||| 2, 0, 0xE000] = .reject 2 ∧
    decodeSeq 0x100 = none ∧ decodeSeq 0x10007 = some (.loopk 0 1) ∧ decodeSeq 0x10000007 = none := by decide +kernel

/-! ### The spec's worked examples: words, and the result of one instruction -/

theorem test_example_words_control :
    [d? 32 0x0000_0068 (.exit false), d? 32 0x037D_0070 (.yield false 4000 6), d? 32 0x0001_0878 (.trap false 0x21), d? 32 0x0000_2880 (.brk false 5),
     d? 32 0x0000_0760 (.halt false), d? 32 0x000C_C810 (.bc false 1 true 1 3), d? 32 0x0000_1008 (.bra false 2),
     d? 32 0x0000_0840 (.regang false 1), d? 32 0x0000_2848 (.splitq false 5), d? 32 0x0014_3050 (.loop false 6 5),
     d? 32 0x0183_2058 (.loopi false 100 3), d? 32 0x0000_0060 (.leave false)].all id = true := by decide +kernel

theorem test_example_words :
    [d? 32 0x0A10_1910 (.sadd (bw 3 4 5)), d? 96 0x0001_86A0_0010_1911 (.saddL (bw 3 4 0) 100000), d? 32 0x0024_2AA0 (.mov (bw 5 9 0)),
     d? 32 0xFFFC_1AA8 (.movi false 3 (-1)), d? 32 0x0000_1700 (.get (bw 2 0 0)), d? 32 0x0808_4500 (.ld (bw 8 2 4)),
     d? 32 0x0000_0548 (.fence false 0 0), d? 32 0x0000_1548 (.fence false 2 0), d? 32 0x0000_9548 (.fence false 2 2),
     d? 32 0x0000_6D48 (.fence false 5 1), d? 96 0x0000_4000_0000_0000_0000_954A (.fenceX { xw 0x12 0 0 0 0 true none with y := false, gn := false }),
     d? 32 0x0000_1E58 (.qfence (bw 3 0 0)), d? 32 0x0024_0640 (.mwait (bw 0 9 0)), d? 96 0x0000_0005_0000_0641 (.mwaitL (bw 0 0 0) 5),
     d? 32 0x0008_3670 (.seqgo (bw 6 2 0)), d? 96 0x0000_1234_0808_2D79 (.puti (bw 5 2 4) 0x1234),
     d? 64 0x0010_0000_503F_3201 (.txc 2 3 63 5 0x10),
     d? 96 0x0005_420A_0000_0008_0000_A306 (.faddX { xw 20 0 8 0 0 true none with s := 5, sp := 2, rm := 2 })].all id = true := by
  decide +kernel

/-- A state with vector registers (lane, number, value). -/
def vregs (l : List (Nat × Nat × Word)) (s : State := now) : State := modGroup s 2 fun g =>
  { g with v := l.foldl (fun v e => fset v (2048 * e.1 + e.2.1) e.2.2) g.v }

/-- c holds of the group after one instruction, once its results have arrived. -/
noncomputable def gives (i : Instr) (s : State) (c : Group → Bool) : Bool :=
  match exec i s with
  | .next t => (kget t.groups 2).any fun g => c (drainResults g 0)
  | _ => false

def vOf (g : Group) (lane n : Nat) : Word := fget g.v (2048 * lane + n)

/-- Unguarded fields. -/
def un (d a b : Nat) : ExtArgs := { xw d 0 a b 0 false none with y := false }

/-- R155: the square's error, by FMUL and by FFMA with -V2. -/
theorem test_ffma_is_exact :
    gives (.fmul (bw 3 1 1)) (vregs [(0, 1, 0x3F80_0800)]) (fun g => vOf g 0 3 == 0x3F80_1000 && g.fstat == 0x10) &&
    gives (.ffmaX { un 5 1 1 with sub := 4, c := 2 }) (vregs [(0, 1, 0x3F80_0800), (0, 2, 0x3F80_1000)])
      (fun g => vOf g 0 5 == 0x3380_0000) = true := by decide +kernel

/-- R168: a tie in BF16 goes to even, and up under RU. -/
theorem test_hadd2_rounds :
    gives (.hadd2X { un 3 1 2 with sub := 1 }) (vregs [(7, 1, 0x3F80), (7, 2, 0x3B80)]) (fun g => (vOf g 7 3).extractLsb' 0 16 == 0x3F80) &&
    gives (.hadd2X { un 3 1 2 with sub := 1, rm := 3 }) (vregs [(7, 1, 0x3F80), (7, 2, 0x3B80)])
      (fun g => (vOf g 7 3).extractLsb' 0 16 == 0x3F81) = true := by decide +kernel

/-- 3, 1, 4, 1, 5, 9, 2, 6 in V6, with P2 0 only in lane 2. -/
def scanned : State := modGroup (vregs ([3, 1, 4, 1, 5, 9, 2, 6].zipIdx.map fun p => (p.2, 6, BitVec.ofNat 32 p.1))) 2 fun g =>
  { g with p := [0, 1, 3, 4, 5, 6, 7].foldl (fun p k => fset p (8 * k + 2) 1) [] }

/-- R164: LSCAN, its exclusive form and LRED under a guard. -/
theorem test_scan_example :
    gives (.lscanX { un 7 6 0 with g := 2 }) scanned (fun g => (List.range 8).map (vOf g · 7) == [3, 4, 0, 5, 10, 19, 21, 27]) &&
    gives (.lscanX { un 8 6 0 with g := 2, sub := 8 }) scanned (fun g => (List.range 8).map (vOf g · 8) == [0, 3, 0, 4, 5, 10, 19, 21]) &&
    gives (.lredX { un 9 6 0 with g := 2 }) scanned (fun g => (List.range 8).map (vOf g · 9) == [27, 27, 0, 27, 27, 27, 27, 27]) = true := by
  decide +kernel

/-- Format slots as a launch record holds them. -/
def slots (n : Nat) (bits : BitVec 128) : State := modGrid now 0 fun g =>
  { g with launch := { g.launch with slots := g.launch.slots.set n ((fmtSlotOfBits bits).getD fmtSlotZero) } }

/-- R182: 500.0 and 0.3 narrowed to E4M3 with saturation, and 500.0 without. -/
theorem test_cvt_example :
    gives (.cvtX { un 6 4 0 with fs := 1 }) (vregs [(0, 4, 0x43FA_0000), (1, 4, 0x3E99_999A)] (slots 1 0x0100_0003))
      (fun g => vOf g 0 6 == 0x7E && vOf g 1 6 == 0x2A) &&
    gives (.cvtX { un 6 4 0 with fs := 1 }) (vregs [(0, 4, 0x43FA_0000)] (slots 1 3)) (fun g => vOf g 0 6 == 0x7F) = true := by
  decide +kernel

/-- R185: two E2M1 elements at position 2. -/
theorem test_pack_example :
    gives (.packX { un 1 2 3 with fs := 3, aux := 2 }) (vregs [(0, 2, 0x4020_0000), (0, 3, 0xC0E0_0000)] (slots 3 7))
      (fun g => vOf g 0 1 == 0xF400) = true := by decide +kernel

/-- R187: eight Q4X products and an addend sum to 25. -/
theorem test_fdot4_example :
    gives (.fdot4X { un 10 7 8 with fs := 5, c := 9 }) (vregs [(0, 7, 0xB482_35A8), (0, 8, 0x1111_1111), (0, 9, 0x3F40_0000)] (slots 5 10))
      (fun g => vOf g 0 10 == 0x41C8_0000) = true := by decide +kernel

/-- R141, R148: sums wrap, and a 64-bit product's high word is signed by default. -/
theorem test_sums_wrap :
    gives (.sadd (bw 3 4 4)) (with_ [(4, 0x80000001)] []) (fun g => (g.slices.map fun q => fget q.s 3) == [2, 2]) &&
    gives (.iaddX { un 4 4 6 with sub := 3 }) (vregs [(3, 4, 0xFFFF_FFFF), (3, 5, 0xFFFF_FFFF), (3, 6, 2)])
      (fun g => vOf g 3 4 == 1 && vOf g 3 5 == 0) = true := by decide +kernel

/-- R216, R217: a page fault enters the handler at the address that the space has for cause 1. -/
theorem test_page_fault_enters :
    (match exec (.sld (bw 6 4 0)) (with_ [(4, 0x20000000)] [] handled) with
      | .next t => (kget t.groups 2).any fun g => g.handler.any (fun h => h.pc == 0x8000) && g.faddr == 0x2000_0000 && g.fcause == 0x1_0001
      | _ => false) = true := by decide +kernel


/-! Clauses of several families that have hypotheses of their own. -/

theorem witness_frame_of_posts :
  [hyB 0xC9 (bw 4 6 8) none records (fun x s => both x s 4 6 fun _ _ => true),
   hyB 0xCC (bw 14 4 12) none records (fun x s => (match getOperand x s (x.lowPair 12).toNat 64 64 with
      | .ok _ _ => true
      | .stop _ => false) && match readReplicas x 2 (x.lowPair 4).toNat [] s with
        | .ok l _ => l.length == 2
        | .stop _ => false),
   hyB 0xCE (bw 63 4 0) none (with_ [(4, 1)] []) fun x s => match launchColl x.gr.space (x.lowPair 4) none s with
     | .status _ _ _ => true
     | _ => false,
   (takeBulk peered 2303).isSome, (snapRoot now 0).isNone].all id = true := by decide +kernel

/-- The word at K3 is read and written. p holds of where it is. -/
def flagAt (s : State) (p : State → Nat → Bool) : Bool := sy s fun x s => (x.k 3).toNat % 8 == 0 &&
  match transParts x.sq x.coll.space { needW with r := true, atom := some 0 } [((x.k 3).toNat, 8)] [] s with
  | .ok [(pa, 8)] u => p u pa
  | _ => false

/-- A flag that is another package's, with n request credits for it. -/
def farFlag (n : Nat) : State :=
  let s := sq 0x6008 0 0 0
  { s with mem := writeN s.mem 0x5000 8 (0x5F + 0x8FF * 2 ^ 40), peers := kset [] 0x8FF { Peer.init 0 with reqs := n } }

def adds (s : State) (pa : Nat) : Option State :=
  lockAtomic s pa 8 (readN s.mem pa 8 + 9) (.atomic (BitVec.ofNat 7 pa) true 0 false 9 0 none)

theorem witness_sequencer_flags :
  [flagAt (sq 0x6008 0 0 0) fun u pa => (poisonAt u pa 8).isNone && (adds u pa).isSome,
   flagAt { sq 0x6008 0 0 0 with poison := [(0x6000 / 128, 5)] } fun u pa => (poisonAt u pa 8).isSome,
   flagAt (farFlag 1) fun u pa => (poisonAt u pa 8).isNone && (adds u pa).isSome,
   flagAt (farFlag 0) fun u pa => (poisonAt u pa 8).isNone && (adds u pa).isNone,
   decide (homeNode (0x6000 / 128) = .pkg (sq 0 0 0 0).pkg)].all id = true := by decide +kernel

/-- The team's set replays. -/
def replayed : State := modGrid now 0 fun g => { g with replaying := true }

theorem witness_faults_and_errors :
  [setStopped replayed 1, !setStopped now 1, (kget now.teams 1).isSome,
   ([true, false].all fun k => let s := split fun p => { p with run := .host 0x40 k }
     (kget s.groups 2).any fun g => decide ((g.split 0).run = .host 0x40 k) && !setStopped s g.team),
   (let s := modTeam now 1 fun t => { t with stop := some { cause := 0x38, resumable := true, group := 2, entry := 0, own := true } }
    (kget s.teams 1).any (fun t => t.stop.any fun h => h.own && h.resumable) && !setStopped s 1),
   !setStopped (pair (.pair 5) (.pair 9)) 3, runsFree (pair (.pair 5) .run) 1 && runsFree (pair (.pair 5) .run) 3,
   (kget now.teams 1).any (fun t => t.core == some 0 && !t.ended && t.stop.isNone) &&
     ((teamGroups now 1).find? (fun p => decide (p.2.gid = 0))).isSome,
   (kget (handling now).groups 2).any fun g => g.handler.any fun h => decide (h.entry < g.splits.length),
   decide (0 < g0.splits.length)].all id = true := by decide +kernel

theorem witness_controllers_that_are_replaced :
  [(let s := ctl 2 .handOver { now with links := now.links.map fun l => { l with up := true } }
    delayed s 2 && (s.links.getD 23 Link.init).up && !hostMode s 3),
   (let s := ctl 2 .probation
    delayed s 2 && !hostMode s 3),
   delayed (ctl 0 .probation) 0 && (ctlAt now 0).running.isNone,
   inFlightAt (coh fun c => { c with mshrs := [mshr 9 .readShared] }) 3 9,
   (ctxAt now 23 3).halt == false && (ctxAt (modSeq now 23 fun q =>
     { q with ctxs := lmod q.ctxs 3 fun c => { c with halt := true, step := true, state := .waiting } }) 23 3).step].all id = true := by
  decide +kernel

end Sys2Proof.Tests
end

section
/-! The bytes of memory after a write (R2, R190). -/

namespace Sys2Proof.Proofs

open Sys2Proof.Machine Sys2Proof.Laws

/-- Byte i of the little-endian bytes of a number is its i-th digit in base 256 (R2). -/
theorem getD_toBytes {n i : Nat} (v : Nat) (hi : i < n) : (toBytes n v).getD i 0 = BitVec.ofNat 8 (v / 256 ^ i) := by
  induction n generalizing v i with
  | zero => omega
  | succ n ih =>
    cases i with
    | zero => simp [toBytes]
    | succ i =>
      rw [toBytes, List.getD_cons_succ, ih (v / 256) (by omega), Nat.div_div_eq_div_mul, ← Nat.pow_succ']

/-- A byte inside a written value is its digit in base 256 (R2). -/
theorem fget_writeN_inside {m : FMap 8} (h : fwf m = true) (a v : Nat) {n i : Nat} (hi : i < n) :
    fget (writeN m a n v) (a + i) = BitVec.ofNat 8 (v / 256 ^ i) := by
  have hin : a ≤ a + i ∧ a + i < a + (toBytes n v).length := by
    rw [toBytes_length]
    omega
  rw [writeN, fget_writeList h, if_pos hin, Nat.add_sub_cancel_left, getD_toBytes v hi]

/-- Settles O18: every clause is the law of one byte after a write, inside it or outside. -/
theorem memoryWriteAndRead : Obligations.memory_write_and_read := by
  intro m a n v hm
  have hf : fwf m = true := hm
  exact ⟨readN_writeN hf a n v, writeN_wf hf a n v, fun _ hi => fget_writeN_inside hf a v hi,
    fun _ hb => fget_writeN_outside hf a n v hb⟩

end Sys2Proof.Proofs
end

section
/-! How an instruction's meaning becomes its outcome: the terms of Safety from what the body answers. -/

namespace Sys2Proof.Proofs

open Sys2Proof.Machine Sys2Proof.Safety Sys2Proof.Laws

/-- An instruction is issued with how, and its meaning is body. -/
def runsAs (i : Instr) (how : IssueHow) (body : Ctx → State → Res) : Prop := ∀ s, exec i s = issue how body s

section
variable {i : Instr} {how : IssueHow} {body : Ctx → State → Res}

theorem exec_of_runsAs (hi : runsAs i how body) {s : State} {x : Ctx} (h : issues how s x = true) :
    exec i s = outcome how (waited how x) (body (waited how x) (waitedState how x s)) := by
  rw [hi, issue_eq body h]

theorem goesOn_of_done (hi : runsAs i how body) {R : Ctx → State → State → Prop}
    (h : ∀ x s u, R x s u → body x s = .done u) : goesOn i how R := by
  intro s x u hs hR
  rw [exec_of_runsAs hi hs, h _ _ _ hR]; rfl

theorem flowsTo_of_flow (hi : runsAs i how body) {R : Ctx → State → State → Prop}
    (h : ∀ x s u, R x s u → body x s = .flow u) : flowsTo i how R := by
  intro s x u hs hR
  rw [exec_of_runsAs hi hs, h _ _ _ hR]; rfl

theorem faultsWith_of_fault (hi : runsAs i how body) {c d : Nat} {R : Ctx → State → Prop}
    (h : ∀ x s, R x s → body x s = .fault s c d 0) : faultsWith i how c d R := by
  intro s x hs hR
  rw [exec_of_runsAs hi hs, h _ _ hR]; rfl

theorem waitsWhile_of_stall (hi : runsAs i how body) {R : Ctx → State → Prop}
    (h : ∀ x s, R x s → body x s = .stall s) : waitsWhile i how R := by
  intro s x hs hR
  rw [exec_of_runsAs hi hs, h _ _ hR]; rfl

theorem stopsAt_of_res (hi : runsAs i how body) {R : Ctx → State → Res → Prop}
    (h : ∀ x s r, R x s r → body x s = r) : stopsAt i how R := by
  intro s x hs
  refine ⟨fun u c d a hR => ?_, fun u tr hR => ?_, fun u hR => ?_⟩ <;>
    (rw [exec_of_runsAs hi hs, h _ _ _ hR]; rfl)

end

/-- P of the base and the extended form, where both issue with howOp and mean sem of their operands. -/
theorem inForms_of_sem {op : Nat} {b : BaseArgs → Instr} {e : ExtArgs → Instr} {P : Instr → IssueHow → ExtArgs → Prop}
    (sem : ExtArgs → Ctx → State → Res) (hb : ∀ w, runsAs (b w) (howOp op false (w.ext none)) (sem (w.ext none)))
    (he : ∀ w, runsAs (e w) (howOp op true w) (sem w)) (h : ∀ i how w, runsAs i how (sem w) → P i how w) :
    inForms op b e P :=
  ⟨fun w => h _ _ _ (hb w), fun w => h _ _ _ (he w)⟩

/-- The same with the base form that has a literal. -/
theorem inForms3_of_sem {op : Nat} {b : BaseArgs → Instr} {l : BaseArgs → DWord → Instr} {e : ExtArgs → Instr}
    {P : Instr → IssueHow → ExtArgs → Prop} (sem : ExtArgs → Ctx → State → Res)
    (hb : ∀ w, runsAs (b w) (howOp op false (w.ext none)) (sem (w.ext none)))
    (hl : ∀ w v, runsAs (l w v) (howOp op false (w.ext (some v))) (sem (w.ext (some v))))
    (he : ∀ w, runsAs (e w) (howOp op true w) (sem w)) (h : ∀ i how w, runsAs i how (sem w) → P i how w) :
    inForms3 op b l e P :=
  ⟨inForms_of_sem sem hb he h, fun w v => h _ _ _ (hl w v)⟩

/-! ### The order of issue -/

section
variable {how : IssueHow} {s : State} {x : Ctx} (body : Ctx → State → Res)

theorem issue_waits (hx : ctx? s = some x) (hw : how.wait = true) (hh : x.g.hold = false)
    (hr : resultsReady x.g x.e = false) : issue how body s = .next s := by
  simp [issue, hx, hw, hh, hr]

theorem issue_ends_step (hx : ctx? s = some x) (hw : how.wait = true) (hh : x.g.hold = true)
    (hp : (x.g.split x.e).pend ≠ []) : issue how body s = .next (endStep s x.uid x.e) := by
  simp [issue, hx, hw, hh, hp]

/-- Where nothing holds the stream back, neither wait of issue is taken. -/
theorem no_wait_of_free (hf : free how x) :
    (how.wait && x.g.hold && !(x.g.split x.e).pend.isEmpty) = false ∧
      (how.wait && !resultsReady x.g x.e) = false := by
  cases hw : how.wait with
  | false => simp
  | true =>
    obtain ⟨hr, hp⟩ := hf hw
    cases hh : x.g.hold with
    | false => simp [hr]
    | true => simp [hr, hp hh]

theorem issue_takes_waiting_trap (hx : ctx? s = some x) (hf : free how x) (hi : x.inH = false)
    (ht : (x.g.split x.e).trap.isSome = true) : issue how body s = .next (takeWaitingTrap s x) := by
  obtain ⟨h1, h2⟩ := no_wait_of_free hf
  simp [issue, hx, h1, h2, hi, ht]

/-- A stream that no trap of its own keeps from its instruction passes that branch of issue. -/
theorem no_trap (ht : x.inH = true ∨ (x.g.split x.e).trap = none) : (!x.inH && (x.g.split x.e).trap.isSome) = false := by
  rcases ht with h | h <;> simp [h]

theorem waited_inH (how : IssueHow) (x : Ctx) : (waited how x).inH = x.inH := by
  unfold waited; split <;> rfl

theorem issue_illegal (hx : ctx? s = some x) (hf : free how x) (ht : x.inH = true ∨ (x.g.split x.e).trap = none) {d : Nat}
    (hd : how.chk (waited how x).dec = some d) :
    issue how body s = .next (streamFault (waitedState how x s) (waited how x) 0x10 d 0) := by
  obtain ⟨h1, h2⟩ := no_wait_of_free hf
  simp only [issue, hx, h1, h2, no_trap ht, hd, Bool.false_eq_true, if_false]

theorem issue_overruns (hx : ctx? s = some x) (hf : free how x) (ht : x.inH = true ∨ (x.g.split x.e).trap = none)
    (hd : how.chk (waited how x).dec = none) (hb : (waited how x).g.budget = 0) (hi : x.inH = false)
    (hy : how.isYield = false) :
    issue how body s = .next (streamFault (waitedState how x s) (waited how x) 0x1B 0 0) := by
  obtain ⟨h1, h2⟩ := no_wait_of_free hf
  have hover : (decide ((waited how x).g.budget = 0) && !(waited how x).inH && !how.isYield) = true := by
    simp [hb, hi, hy, waited_inH]
  simp only [issue, hx, h1, h2, no_trap ht, hd, hover, Bool.false_eq_true, if_false, if_true]

end

/-- Settles O19: each clause is the branch of issue that it names, in the order in which issue takes them. -/
theorem orderOfIssue : Obligations.order_of_issue := by
  intro how body s x hx
  exact ⟨issue_waits body hx, issue_ends_step body hx, issue_takes_waiting_trap body hx, fun hf ht =>
    ⟨fun _ => issue_illegal body hx hf ht, issue_overruns body hx hf ht⟩⟩

end Sys2Proof.Proofs
end

section
/-! Groups after register writes and after an issue (R53, R60, R120, R388): what stays of a group. -/

namespace Sys2Proof.Proofs

open Sys2Proof.Machine Sys2Proof.Safety Sys2Proof.Laws

/-! ### Slices and split table entries -/

theorem getD_lmod {α : Type} (l : List α) (k j : Nat) (f : α → α) (d : α) :
    (lmod l k f).getD j d = if j = k ∧ j < l.length then f (l.getD j d) else l.getD j d := by
  simp only [lmod, List.getD_eq_getElem?_getD, List.getElem?_modify]
  by_cases hj : j < l.length
  · by_cases hk : k = j <;> simp [hj, hk, eq_comm]
  · simp [hj]

theorem slice_modSlice (g : Group) (k j : Nat) (f : Slice → Slice) :
    (g.modSlice k f).slice j = if j = k ∧ j < g.slices.length then f (g.slice j) else g.slice j :=
  getD_lmod ..

theorem split_modSplit (g : Group) (e j : Nat) (f : Split → Split) :
    (g.modSplit e f).split j = if j = e ∧ j < g.splits.length then f (g.split j) else g.split j :=
  getD_lmod ..

theorem modSlices_eq (g : Group) (l : List Nat) (f : Nat → Slice → Slice) :
    g.modSlices l f = { g with slices := (g.modSlices l f).slices } := by
  induction l generalizing g with
  | nil => rfl
  | cons k l ih => exact ih (g.modSlice k (f k))

theorem modSlices_length (g : Group) (l : List Nat) (f : Nat → Slice → Slice) :
    (g.modSlices l f).slices.length = g.slices.length := by
  induction l generalizing g with
  | nil => rfl
  | cons k l ih => exact (ih (g.modSlice k (f k))).trans (List.length_modify ..)

/-- Each slice of a list without repeats is changed once. -/
theorem slice_modSlices (g : Group) {l : List Nat} (hl : l.Nodup) (f : Nat → Slice → Slice) (j : Nat) :
    (g.modSlices l f).slice j = if j ∈ l ∧ j < g.slices.length then f j (g.slice j) else g.slice j := by
  induction l generalizing g with
  | nil => simp [Group.modSlices]
  | cons k l ih =>
    have hlen : (g.modSlice k (f k)).slices.length = g.slices.length := List.length_modify ..
    obtain ⟨hk, hl⟩ := List.nodup_cons.mp hl
    rw [Group.modSlices, List.foldl_cons, ← Group.modSlices, ih _ hl, hlen, slice_modSlice]
    by_cases hj : j = k
    · subst hj; simp [hk]
    · simp [hj]

/-- What a change of slices keeps of each of them, it keeps of all. -/
theorem slice_modSlices_keeps {α : Type} (π : Slice → α) {f : Nat → Slice → Slice} (hf : ∀ k q, π (f k q) = π q)
    (g : Group) (l : List Nat) (j : Nat) : π ((g.modSlices l f).slice j) = π (g.slice j) := by
  induction l generalizing g with
  | nil => rfl
  | cons k l ih =>
    refine (ih (g.modSlice k (f k))).trans ?_
    rw [slice_modSlice]
    split
    · exact hf ..
    · rfl

theorem slice_modSlices_notMem (g : Group) {l : List Nat} (f : Nat → Slice → Slice) {j : Nat} (hj : j ∉ l) :
    (g.modSlices l f).slice j = g.slice j := by
  induction l generalizing g with
  | nil => rfl
  | cons k l ih =>
    obtain ⟨hk, hl⟩ : j ≠ k ∧ j ∉ l := by simpa using hj
    refine (ih (g.modSlice k (f k)) hl).trans ?_
    rw [slice_modSlice, if_neg fun h => hk h.1]

theorem maskSlices_nodup (m : BitVec 16) : (maskSlices m).Nodup := List.nodup_range.filter _

/-! ### Register writes -/

@[simp] theorem write_v (g : Group) (l p : Nat) (u : Word) :
    g.write (.v l p, u) = { g with v := fset g.v (l * 2048 + p) u } := rfl
@[simp] theorem write_p (g : Group) (l n : Nat) (u : Word) :
    g.write (.p l n, u) = { g with p := fset g.p (l * 8 + n) (u.extractLsb' 0 1) } := rfl
@[simp] theorem write_s (g : Group) (k n : Nat) (u : Word) :
    g.write (.s k n, u) = g.modSlice k fun q => { q with s := fset q.s n u } := rfl
@[simp] theorem write_c (g : Group) (k n : Nat) (u : Word) :
    g.write (.c k n, u) = g.modSlice k fun q => { q with c := fset q.c n (u.extractLsb' 0 1) } := rfl
@[simp] theorem write_bv (g : Group) (l n : Nat) (u : Word) :
    g.write (.bv l n, u) = { g with handler := g.handler.map fun h => { h with v := fset h.v (l * 16 + n) u } } := rfl
@[simp] theorem write_bs (g : Group) (k n : Nat) (u : Word) :
    g.write (.bs k n, u) = { g with handler := g.handler.map fun h => { h with s := fset h.s (k * 16 + n) u } } := rfl
@[simp] theorem write_bp (g : Group) (l n : Nat) (u : Word) :
    g.write (.bp l n, u) =
      { g with handler := g.handler.map fun h => { h with p := fset h.p (l * 8 + n) (u.extractLsb' 0 1) } } := rfl
@[simp] theorem write_bc (g : Group) (k n : Nat) (u : Word) :
    g.write (.bc k n, u) =
      { g with handler := g.handler.map fun h => { h with c := fset h.c (k * 8 + n) (u.extractLsb' 0 1) } } := rfl

/-- g' is g but for registers: lane registers, predicates, the copies of slices and the handler's bank. -/
structure RegistersOnly (g g' : Group) : Prop where
  eq : g' = { g with v := g'.v, p := g'.p, slices := g'.slices, handler := g'.handler }
  length : g'.slices.length = g.slices.length
  slice : ∀ k, g'.slice k = { g.slice k with c := (g'.slice k).c, s := (g'.slice k).s }
  bank : g'.handler.map (·.pc) = g.handler.map (·.pc)

theorem RegistersOnly.refl (g : Group) : RegistersOnly g g := ⟨rfl, rfl, fun _ => rfl, rfl⟩

theorem RegistersOnly.trans {a b c : Group} (h : RegistersOnly a b) (k : RegistersOnly b c) : RegistersOnly a c where
  eq := by rw [k.eq, h.eq]
  length := k.length.trans h.length
  slice n := by rw [k.slice n, h.slice n]
  bank := k.bank.trans h.bank

theorem registersOnly_modSlice (g : Group) (k : Nat) (f : Slice → Slice)
    (hf : ∀ q, f q = { q with c := (f q).c, s := (f q).s }) : RegistersOnly g (g.modSlice k f) where
  eq := rfl
  length := List.length_modify ..
  slice j := by
    rw [slice_modSlice]
    split
    · exact hf _
    · rfl
  bank := rfl

theorem registersOnly_bank (g : Group) (f : Handler → Handler) (hf : ∀ h, (f h).pc = h.pc) :
    RegistersOnly g { g with handler := g.handler.map f } where
  eq := rfl
  length := rfl
  slice _ := rfl
  bank := by
    rw [Option.map_map]
    exact congrArg (g.handler.map ·) (funext hf)

theorem registersOnly_write (g : Group) (w : RegWrite) : RegistersOnly g (g.write w) := by
  obtain ⟨r, u⟩ := w
  cases r with
  | v | p => exact ⟨rfl, rfl, fun _ => rfl, rfl⟩
  | s | c => exact registersOnly_modSlice _ _ _ fun _ => rfl
  | bv | bs | bp | bc => exact registersOnly_bank _ _ fun _ => rfl

theorem registersOnly_writes (g : Group) (l : List RegWrite) : RegistersOnly g (g.writes l) := by
  induction l generalizing g with
  | nil => exact .refl g
  | cons w l ih => exact (registersOnly_write g w).trans (ih (g.write w))

/-- A register exists after a change of registers as before it. -/
theorem RegistersOnly.refIn {g g' : Group} (h : RegistersOnly g g') (r : RegRef) : refIn g' r = refIn g r := by
  have hb : g'.handler.isSome = g.handler.isSome := by simpa using congrArg Option.isSome h.bank
  cases r <;> simp [Safety.refIn, h.length, hb]

theorem fget_fset_ne {w : Nat} {m : FMap w} (h : fwf m = true) {k j : Nat} (hj : j ≠ k) (v : BitVec w) :
    fget (fset m k v) j = fget m j := by
  rw [fget_fset h, if_neg hj]

/-- The canonical forms of a group's maps, taken apart. -/
theorem groupOk_iff (g : Group) : groupOk g = true ↔ fwf g.v = true ∧ fwf g.p = true ∧
    (∀ q ∈ g.slices, sliceOk q = true) ∧ ∀ h, g.handler = some h → handlerOk h = true := by
  simp [groupOk, and_assoc, Option.all_eq_true]

theorem sliceOk_slice {g : Group} (h : groupOk g = true) (k : Nat) : sliceOk (g.slice k) = true := by
  obtain ⟨-, -, hs, -⟩ := (groupOk_iff g).mp h
  rw [Group.slice, List.getD_eq_getElem?_getD]
  cases hq : g.slices[k]? with
  | none => rfl
  | some q => exact hs q (List.mem_of_getElem? hq)

theorem fwf_slice {g : Group} (h : groupOk g = true) (k : Nat) : fwf (g.slice k).c = true ∧ fwf (g.slice k).s = true := by
  simpa [sliceOk] using sliceOk_slice h k

theorem fwf_bank {g : Group} (h : groupOk g = true) {b : Handler} (hb : g.handler = some b) :
    fwf b.v = true ∧ fwf b.s = true ∧ fwf b.p = true ∧ fwf b.c = true := by
  obtain ⟨-, -, -, hh⟩ := (groupOk_iff g).mp h
  simpa [handlerOk, and_assoc] using hh b hb

theorem groupOk_modSlice {g : Group} (h : groupOk g = true) (k : Nat) {f : Slice → Slice}
    (hf : ∀ q, sliceOk q = true → sliceOk (f q) = true) : groupOk (g.modSlice k f) = true := by
  obtain ⟨hv, hp, hs, hh⟩ := (groupOk_iff g).mp h
  refine (groupOk_iff _).mpr ⟨hv, hp, fun q hq => ?_, hh⟩
  obtain ⟨i, hi⟩ := List.mem_iff_getElem?.mp hq
  simp only [Group.modSlice, lmod, List.getElem?_modify, Option.map_eq_map, Option.map_eq_some_iff] at hi
  obtain ⟨a, ha, rfl⟩ := hi
  have := hs a (List.mem_of_getElem? ha)
  split
  · exact hf a this
  · exact this

theorem groupOk_bank {g : Group} (h : groupOk g = true) {f : Handler → Handler}
    (hf : ∀ b, handlerOk b = true → handlerOk (f b) = true) : groupOk { g with handler := g.handler.map f } = true := by
  obtain ⟨hv, hp, hs, hh⟩ := (groupOk_iff g).mp h
  refine (groupOk_iff _).mpr ⟨hv, hp, hs, fun b hb => ?_⟩
  obtain ⟨a, ha, rfl⟩ := Option.map_eq_some_iff.mp hb
  exact hf a (hh a ha)

/-- A register write keeps the canonical form of the group's maps. -/
theorem groupOk_write {g : Group} (h : groupOk g = true) (w : RegWrite) : groupOk (g.write w) = true := by
  obtain ⟨hv, hp, hs, hh⟩ := (groupOk_iff g).mp h
  obtain ⟨r, u⟩ := w
  cases r with
  | v => exact (groupOk_iff _).mpr ⟨fset_wf hv _ _, hp, hs, hh⟩
  | p => exact (groupOk_iff _).mpr ⟨hv, fset_wf hp _ _, hs, hh⟩
  | s | c =>
    refine groupOk_modSlice h _ fun q hq => ?_
    simp only [sliceOk, Bool.and_eq_true] at hq ⊢
    simp [hq, fset_wf]
  | bv | bs | bp | bc =>
    refine groupOk_bank h fun b hb => ?_
    simp only [handlerOk, Bool.and_eq_true] at hb ⊢
    simp [hb, fset_wf]

theorem slice_c_write_s (g : Group) (k n j : Nat) (u : Word) : ((g.write (.s k n, u)).slice j).c = (g.slice j).c := by
  rw [write_s, slice_modSlice]
  split <;> rfl

theorem slice_s_write_c (g : Group) (k n j : Nat) (u : Word) : ((g.write (.c k n, u)).slice j).s = (g.slice j).s := by
  rw [write_c, slice_modSlice]
  split <;> rfl

/-- What a change of the handler's bank keeps of it reads as before. -/
theorem bank_keeps {o : Option Handler} {f : Handler → Handler} {π : Handler → Word}
    (hf : ∀ b, o = some b → π (f b) = π b) : ((o.map f).map π).getD 0 = (o.map π).getD 0 := by
  cases o with
  | none => rfl
  | some b => exact hf b rfl

/-- A register that exists keeps its value when another one that exists is written: in the same file, its key differs. -/
theorem reg_write_other {g : Group} (hg : groupOk g = true) {r : RegRef} {w : RegWrite} (hr : refIn g r = true)
    (hw : refIn g w.1 = true) (h : w.1 ≠ r) : (g.write w).reg r = g.reg r := by
  obtain ⟨hv, hp, -, -⟩ := (groupOk_iff g).mp hg
  obtain ⟨q, u⟩ := w
  cases q with
  | v l n =>
    cases r with
    | v l' n' =>
      simp only [refIn, decide_eq_true_eq, ne_eq, RegRef.v.injEq] at hr hw h
      exact fget_fset_ne hv (by omega) u
    | _ => rfl
  | p l n =>
    cases r with
    | p l' n' =>
      simp only [refIn, decide_eq_true_eq, ne_eq, RegRef.p.injEq] at hr hw h
      exact congrArg (BitVec.zeroExtend 32) (fget_fset_ne hp (by omega) _)
    | _ => rfl
  | s k n =>
    cases r with
    | s k' n' =>
      simp only [write_s, Group.reg, slice_modSlice]
      split
      next hk =>
        refine fget_fset_ne (fwf_slice hg k').2 (fun hn => h ?_) u
        rw [hk.1, hn]
      next => rfl
    | c k' n' =>
      exact congrArg (fun m : FMap 1 => (fget m n').zeroExtend 32) (slice_c_write_s g k n k' u)
    | _ => rfl
  | c k n =>
    cases r with
    | c k' n' =>
      simp only [write_c, Group.reg, slice_modSlice]
      split
      next hk =>
        refine congrArg (BitVec.zeroExtend 32) (fget_fset_ne (fwf_slice hg k').1 (fun hn => h ?_) _)
        rw [hk.1, hn]
      next => rfl
    | s k' n' =>
      exact congrArg (fget · n') (slice_s_write_c g k n k' u)
    | _ => rfl
  | bv l n =>
    cases r with
    | bv l' n' =>
      simp only [refIn, Bool.and_eq_true, decide_eq_true_eq, ne_eq, RegRef.bv.injEq] at hr hw h
      exact bank_keeps fun b hb => fget_fset_ne (fwf_bank hg hb).1 (by omega) u
    | bs | bp | bc => exact bank_keeps fun _ _ => rfl
    | _ => rfl
  | bs l n =>
    cases r with
    | bs l' n' =>
      simp only [refIn, Bool.and_eq_true, decide_eq_true_eq, ne_eq, RegRef.bs.injEq] at hr hw h
      exact bank_keeps fun b hb => fget_fset_ne (fwf_bank hg hb).2.1 (by omega) u
    | bv | bp | bc => exact bank_keeps fun _ _ => rfl
    | _ => rfl
  | bp l n =>
    cases r with
    | bp l' n' =>
      simp only [refIn, Bool.and_eq_true, decide_eq_true_eq, ne_eq, RegRef.bp.injEq] at hr hw h
      exact bank_keeps fun b hb => congrArg (BitVec.zeroExtend 32) (fget_fset_ne (fwf_bank hg hb).2.2.1 (by omega) _)
    | bv | bs | bc => exact bank_keeps fun _ _ => rfl
    | _ => rfl
  | bc l n =>
    cases r with
    | bc l' n' =>
      simp only [refIn, Bool.and_eq_true, decide_eq_true_eq, ne_eq, RegRef.bc.injEq] at hr hw h
      exact bank_keeps fun b hb => congrArg (BitVec.zeroExtend 32) (fget_fset_ne (fwf_bank hg hb).2.2.2 (by omega) _)
    | bv | bs | bp => exact bank_keeps fun _ _ => rfl
    | _ => rfl

/-- A register that exists keeps its value through writes of other ones that exist. -/
theorem reg_writes_other {g : Group} (hg : groupOk g = true) {r : RegRef} (hr : refIn g r = true) {l : List RegWrite}
    (hl : ∀ w ∈ l, w.1 ≠ r ∧ refIn g w.1 = true) : (g.writes l).reg r = g.reg r := by
  induction l generalizing g with
  | nil => rfl
  | cons w l ih =>
    obtain ⟨hne, hw⟩ := hl w (by simp)
    have only := registersOnly_write g w
    have htail : ∀ w' ∈ l, w'.1 ≠ r ∧ refIn (g.write w) w'.1 = true := fun w' h' => by
      rw [only.refIn]
      exact hl w' (by simp [h'])
    calc (g.writes (w :: l)).reg r = (g.write w).reg r := ih (groupOk_write hg w) (by rw [only.refIn, hr]) htail
      _ = g.reg r := reg_write_other hg hr hw hne

/-! ### The issuing stream, and what its waits leave of it -/

/-- What the stream of entry e of group u is (R45, R72). -/
theorem ctxOf_some {s : State} {u e : Nat} {x : Ctx} (h : ctxOf s u e = some x) :
    x.uid = u ∧ x.e = e ∧ kget s.groups u = some x.g ∧ kget s.teams x.g.team = some x.t ∧ x.t.core = some x.core ∧
      kget s.grids x.t.grid.toNat = some x.gr ∧ x.sl = maskSlices (x.g.split e).mask := by
  unfold ctxOf at h
  split at h
  · cases h
  next g hg =>
    split at h
    · cases h
    next t ht =>
      split at h
      next c gr hc hgr =>
        split at h
        · cases h; exact ⟨rfl, rfl, hg, ht, hc, hgr, rfl⟩
        · cases h
      · cases h

theorem ctx_some {s : State} {x : Ctx} (h : ctx? s = some x) : ctxOf s x.uid x.e = some x := by
  unfold ctx? at h
  obtain ⟨c, -, hc⟩ := Option.bind_eq_some_iff.mp h
  obtain ⟨hu, he, -⟩ := ctxOf_some hc
  rw [hu, he, hc]

section
variable (how : IssueHow) (x : Ctx) (s : State)

theorem waited_eq : waited how x = { x with g := (waited how x).g } := by unfold waited; split <;> rfl
@[simp] theorem waited_uid : (waited how x).uid = x.uid := by rw [waited_eq]
@[simp] theorem waited_e : (waited how x).e = x.e := by rw [waited_eq]
@[simp] theorem waited_t : (waited how x).t = x.t := by rw [waited_eq]
@[simp] theorem waited_gr : (waited how x).gr = x.gr := by rw [waited_eq]
@[simp] theorem waited_core : (waited how x).core = x.core := by rw [waited_eq]
@[simp] theorem waited_sl : (waited how x).sl = x.sl := by rw [waited_eq]
@[simp] theorem waited_pc : (waited how x).pc = x.pc := by rw [waited_eq]

theorem waitedState_eq : waitedState how x s = { s with groups := (waitedState how x s).groups } := by
  unfold waitedState; split <;> rfl

theorem kget_waitedState_other {u : Nat} (hu : u ≠ x.uid) : kget (waitedState how x s).groups u = kget s.groups u := by
  unfold waitedState
  split
  · exact kget_kset_other _ _ hu
  · rfl

end

/-! ### After the issue -/

theorem count_eq (x : Ctx) (s : State) (c n : Nat) : x.count s c n = { s with grids := (x.count s c n).grids } := by
  unfold Ctx.count Machine.count
  split
  · rfl
  · split <;> rfl

@[simp] theorem count_groups (x : Ctx) (s : State) (c n : Nat) : (x.count s c n).groups = s.groups := by rw [count_eq]

theorem kget_count_other (x : Ctx) (s : State) (c n : Nat) {h : Nat} (hh : h ≠ x.t.grid.toNat) :
    kget (x.count s c n).grids h = kget s.grids h := by
  unfold Ctx.count Machine.count
  split
  · rfl
  · split
    · rfl
    · exact (kget_kmod ..).trans (if_neg hh)

/-- One more event of a counter of the stream's grid (R405). -/
theorem kget_count_one (x : Ctx) {s : State} (c : Nat) {gr : Grid} (h : kget s.grids x.t.grid.toNat = some gr) :
    kget (x.count s c 1).grids x.t.grid.toNat =
      some (if x.t.shadow then gr else { gr with counters := lmod gr.counters c (· + 1) }) := by
  unfold Ctx.count Machine.count
  split
  · exact h
  · rw [if_neg (by decide), modGrid_grids, kget_kmod, if_pos rfl, h]; rfl

/-- What the issue of an instruction leaves of its group g, as its effect has made it: the budget, the notes that end, and the program
counters (R60, R221, R379, R388). -/
def issuedGroup (how : IssueHow) (y : Ctx) (g : Group) : Group :=
  advance ((spend g y how.isYield).modSplit y.e fun sp =>
    { sp with mapp := if y.inH then sp.mapp else none, compared := if y.inH then sp.compared else false
              step := false }) y how.len

theorem kget_afterDone (how : IssueHow) (y : Ctx) {t : State} {g : Group} (h : kget t.groups y.uid = some g) :
    kget (afterDone how y t).groups y.uid = some (issuedGroup how y g) := by
  simp [afterDone, issued, kget_kmod, h, issuedGroup]

theorem kget_afterDone_other (how : IssueHow) (y : Ctx) (t : State) {u : Nat} (hu : u ≠ y.uid) :
    kget (afterDone how y t).groups u = kget t.groups u := by
  simp [afterDone, issued, kget_kmod, hu]

theorem afterDone_eq (how : IssueHow) (y : Ctx) (t : State) :
    afterDone how y t = { t with groups := (afterDone how y t).groups, grids := (afterDone how y t).grids } := by
  unfold afterDone issued
  rw [count_eq, count_eq]
  rfl

/-- The grids after an issue: that of the stream has counted it (R405). -/
theorem kget_afterDone_grid (how : IssueHow) (y : Ctx) {t : State} {gr : Grid}
    (h : kget t.grids y.t.grid.toNat = some gr) : kget (afterDone how y t).grids y.t.grid.toNat =
      some (if y.t.shadow then gr
        else { gr with counters := lmod (lmod gr.counters 0 (· + 1)) (portCounter how.cls) (· + 1) }) := by
  rw [afterDone, modGroup_grids, issued, kget_count_one y _ (kget_count_one (s := modGroup t _ _) y 0 h)]
  split <;> rfl

theorem kget_afterDone_grid_other (how : IssueHow) (y : Ctx) (t : State) {h : Nat} (hh : h ≠ y.t.grid.toNat) :
    kget (afterDone how y t).grids h = kget t.grids h :=
  (kget_count_other y _ _ _ hh).trans (kget_count_other y _ _ _ hh)

/-! ### The group after an issue -/

section
variable (how : IssueHow) (y : Ctx) (g : Group)

theorem spend_eq (b : Bool) : spend g y b = { g with budget := if y.inH || b then g.budget else g.budget - 1 } := by
  unfold spend; split <;> rfl

theorem advance_eq (len : Nat) :
    advance g y len = { g with slices := (advance g y len).slices, handler := (advance g y len).handler } := by
  unfold advance
  split
  · rfl
  · rw [modSlices_eq]

theorem issuedGroup_eq : issuedGroup how y g =
    { g with budget := if y.inH || how.isYield then g.budget else g.budget - 1
             slices := (issuedGroup how y g).slices, splits := (issuedGroup how y g).splits
             handler := (issuedGroup how y g).handler } := by
  unfold issuedGroup
  rw [advance_eq, spend_eq]
  rfl

/-- The slices after a stream has gone on: in a handler as they were, and otherwise each of the stream's at its next instruction. -/
theorem slice_advance (hl : y.sl.Nodup) (len k : Nat) : (advance g y len).slice k =
    if y.inH = false ∧ k ∈ y.sl ∧ k < g.slices.length then
      let r := loopBack y.pc (y.pc + BitVec.ofNat 64 len) (g.slice k).loops
      { g.slice k with pc := r.1, loops := r.2 }
    else g.slice k := by
  unfold advance
  cases y.inH with
  | true => rfl
  | false => simp [slice_modSlices _ hl]

/-- Each slice after an issue: one of the stream's goes on at its next instruction, but in a handler. -/
theorem slice_issuedGroup (hl : y.sl.Nodup) (k : Nat) : (issuedGroup how y g).slice k =
    if y.inH = false ∧ k ∈ y.sl ∧ k < g.slices.length then
      let r := loopBack y.pc (y.pc + BitVec.ofNat 64 how.len) (g.slice k).loops
      { g.slice k with pc := r.1, loops := r.2 }
    else g.slice k := by
  rw [issuedGroup, slice_advance _ _ hl, spend_eq]
  rfl

theorem handler_issuedGroup : (issuedGroup how y g).handler =
    if y.inH then g.handler.map fun h => { h with pc := h.pc + BitVec.ofNat 64 how.len } else g.handler := by
  rw [issuedGroup, advance, spend_eq]
  split
  · rfl
  · rw [modSlices_eq]; rfl

theorem split_issuedGroup_other {e : Nat} (he : e ≠ y.e) : (issuedGroup how y g).split e = g.split e := by
  rw [issuedGroup, advance_eq, spend_eq]
  exact (split_modSplit _ _ _ _).trans (if_neg fun h => he h.1)

/-- What an issue notes in a split keeps of it. -/
theorem split_issuedGroup_keeps {α : Type} {π : Split → α}
    (hπ : ∀ sp m c b, π { sp with mapp := m, compared := c, step := b } = π sp) (e : Nat) :
    π ((issuedGroup how y g).split e) = π (g.split e) := by
  have hs : (issuedGroup how y g).split e = (g.modSplit y.e fun sp =>
      { sp with mapp := if y.inH then sp.mapp else none, compared := if y.inH then sp.compared else false
                step := false }).split e := by
    rw [issuedGroup, advance_eq, spend_eq]; rfl
  rw [hs, split_modSplit]
  split
  · exact hπ ..
  · rfl

/-- An issue itself writes no register. -/
theorem reg_issuedGroup (hl : y.sl.Nodup) (r : RegRef) : (issuedGroup how y g).reg r = g.reg r := by
  have hs (k : Nat) : ((issuedGroup how y g).slice k).s = (g.slice k).s ∧ ((issuedGroup how y g).slice k).c = (g.slice k).c := by
    rw [slice_issuedGroup _ _ _ hl]
    split <;> exact ⟨rfl, rfl⟩
  have hb (π : Handler → Word) (hπ : ∀ h a, π { h with pc := a } = π h) :
      ((issuedGroup how y g).handler.map π).getD 0 = (g.handler.map π).getD 0 := by
    rw [handler_issuedGroup]
    split
    · exact bank_keeps fun _ _ => hπ _ _
    · rfl
  cases r with
  | v | p => rw [issuedGroup_eq]; rfl
  | s k n => exact congrArg (fget · n) (hs k).1
  | c k n => exact congrArg (fun m : FMap 1 => (fget m n).zeroExtend 32) (hs k).2
  | bv | bs | bp | bc => exact hb _ fun _ _ => rfl

end

/-! ### Instructions that only write registers -/

section
variable (how : IssueHow) (s : State) (x : Ctx) (ws : List RegWrite) (f : Flags)

/-- The group of the stream once an instruction has written its registers, raised its flags and issued. -/
def regsGroup : Group := issuedGroup how (waited how x) (((waited how x).g.writes ws).raise f)

theorem kget_regsNext : kget (regsNext how s x ws f).groups x.uid = some (regsGroup how x ws f) := by
  have h := kget_afterDone how (waited how x)
    (t := (waited how x).put (waitedState how x s) (((waited how x).g.writes ws).raise f)) (kget_kset_same ..)
  rwa [waited_uid] at h

theorem kget_regsNext_other {u : Nat} (hu : u ≠ x.uid) : kget (regsNext how s x ws f).groups u = kget s.groups u := by
  have hu' : u ≠ (waited how x).uid := by rwa [waited_uid]
  calc kget (regsNext how s x ws f).groups u
      = kget ((waited how x).put (waitedState how x s) (((waited how x).g.writes ws).raise f)).groups u :=
        kget_afterDone_other _ _ _ hu'
    _ = kget (waitedState how x s).groups u := kget_kset_other _ _ hu'
    _ = kget s.groups u := kget_waitedState_other _ _ _ hu

theorem regsNext_eq : regsNext how s x ws f =
    { s with groups := (regsNext how s x ws f).groups, grids := (regsNext how s x ws f).grids } := by
  unfold regsNext
  rw [afterDone_eq, Ctx.put, waitedState_eq]

/-- Of the fields of the group but its registers, slices and splits only fstat and the budget change. -/
theorem regsGroup_eq : regsGroup how x ws f = { (waited how x).g with
    v := (regsGroup how x ws f).v, p := (regsGroup how x ws f).p, slices := (regsGroup how x ws f).slices
    splits := (regsGroup how x ws f).splits, handler := (regsGroup how x ws f).handler
    fstat := (waited how x).g.fstat ||| f
    budget := if x.inH || how.isYield then (waited how x).g.budget else (waited how x).g.budget - 1 } := by
  unfold regsGroup
  rw [issuedGroup_eq, Group.raise, (registersOnly_writes _ ws).eq, waited_inH]

theorem regsGroup_reg (hl : x.sl.Nodup) (hg : groupOk (waited how x).g = true) {r : RegRef}
    (hr : refIn (waited how x).g r = true) (hw : ∀ w ∈ ws, w.1 ≠ r ∧ refIn (waited how x).g w.1 = true) :
    (regsGroup how x ws f).reg r = (waited how x).g.reg r := by
  calc (regsGroup how x ws f).reg r
      = (((waited how x).g.writes ws).raise f).reg r := reg_issuedGroup _ _ _ (by rwa [waited_sl]) r
    _ = ((waited how x).g.writes ws).reg r := by cases r <;> rfl
    _ = (waited how x).g.reg r := reg_writes_other hg hr hw

theorem split_writes_raise (g : Group) (e : Nat) : ((g.writes ws).raise f).split e = g.split e := by
  rw [Group.raise, (registersOnly_writes g ws).eq]
  rfl

theorem regsGroup_split_other {e : Nat} (he : e ≠ x.e) : (regsGroup how x ws f).split e = (waited how x).g.split e := by
  rw [regsGroup, split_issuedGroup_other _ _ _ (by rwa [waited_e]), split_writes_raise]

theorem regsGroup_split_keeps {α : Type} {π : Split → α}
    (hπ : ∀ sp m c b, π { sp with mapp := m, compared := c, step := b } = π sp) (e : Nat) :
    π ((regsGroup how x ws f).split e) = π ((waited how x).g.split e) := by
  rw [regsGroup, split_issuedGroup_keeps _ _ _ hπ, split_writes_raise]

/-- Each slice: its conditions and scalars aside it stays, but one of the stream's goes on at its next instruction. -/
theorem regsGroup_slice (hl : x.sl.Nodup) (k : Nat) : ∃ c v, (regsGroup how x ws f).slice k =
    if x.inH = false ∧ k ∈ x.sl ∧ k < (waited how x).g.slices.length then
      let r := loopBack x.pc (x.pc + BitVec.ofNat 64 how.len) ((waited how x).g.slice k).loops
      { (waited how x).g.slice k with pc := r.1, loops := r.2, c := c, s := v }
    else { (waited how x).g.slice k with c := c, s := v } := by
  have only := registersOnly_writes (waited how x).g ws
  have hs := only.slice k
  refine ⟨(((waited how x).g.writes ws).slice k).c, (((waited how x).g.writes ws).slice k).s, ?_⟩
  rw [regsGroup, slice_issuedGroup _ _ _ (by rwa [waited_sl]), waited_inH, waited_sl, waited_pc, ← only.length]
  change (if _ ∧ _ ∧ k < ((waited how x).g.writes ws).slices.length then
      let r := loopBack x.pc (x.pc + BitVec.ofNat 64 how.len) (((waited how x).g.writes ws).slice k).loops
      { ((waited how x).g.writes ws).slice k with pc := r.1, loops := r.2 } else ((waited how x).g.writes ws).slice k) = _
  generalize ((waited how x).g.writes ws).slice k = q at hs ⊢
  conv_lhs => rw [hs]
  rfl

theorem regsGroup_handler : x.inH = true → (regsGroup how x ws f).handler.map (·.pc) =
    (waited how x).g.handler.map fun h => h.pc + BitVec.ofNat 64 how.len := by
  intro hi
  have hb : (((waited how x).g.writes ws).raise f).handler.map (·.pc) = (waited how x).g.handler.map (·.pc) :=
    (registersOnly_writes _ ws).bank
  have hadd := congrArg (Option.map (· + BitVec.ofNat 64 how.len)) hb
  rw [Option.map_map, Option.map_map] at hadd
  rw [regsGroup, handler_issuedGroup, waited_inH, if_pos hi, Option.map_map]
  exact hadd

end

/-- Settles O20: the writes and flags change what they name, and the issue the budget, the split's notes and the program counters. -/
theorem frameOfRegisterInstructions : Obligations.frame_of_register_instructions := by
  intro how s x ws f hi hg
  obtain ⟨-, -, -, -, -, hgr, hsl⟩ := ctxOf_some (ctx_some (ctx_of_issues hi))
  have hl : x.sl.Nodup := by rw [hsl]; exact maskSlices_nodup _
  have hG := regsGroup_eq how x ws f
  have hgrid := kget_afterDone_grid how (waited how x)
    (t := (waited how x).put (waitedState how x s) (((waited how x).g.writes ws).raise f)) (gr := x.gr)
    (by rw [Ctx.put, waitedState_eq, waited_t]; exact hgr)
  rw [waited_t] at hgrid
  have hgrids (h : Nat) (hh : h ≠ x.t.grid.toNat) : kget (regsNext how s x ws f).grids h = kget s.grids h := by
    refine (kget_afterDone_grid_other how (waited how x) _ (by rwa [waited_t])).trans ?_
    rw [Ctx.put, waitedState_eq]
  refine ⟨regsNext_eq .., fun u hu => kget_regsNext_other _ _ _ _ _ hu, hgrids, hgrid, regsGroup how x ws f,
    kget_regsNext .., fun r hr hw => regsGroup_reg how x ws f hl hg hr hw, (congrArg Group.fstat hG :), (congrArg Group.fmask hG :),
    (congrArg Group.fcause hG :), (congrArg Group.faddr hG :), (congrArg Group.scratch0 hG :), (congrArg Group.scratch1 hG :),
    (congrArg Group.h hG :), (congrArg Group.j hG :), (congrArg Group.dstack hG :), (congrArg Group.spcnt hG :), (congrArg Group.spbase hG :),
    (congrArg Group.spill hG :), (congrArg Group.hold hG :), (congrArg Group.mbatch hG :), (congrArg Group.mopen hG :),
    (congrArg Group.nregs hG :), (congrArg Group.alloc hG :), (congrArg Group.budget hG :),
    fun e he => regsGroup_split_other how x ws f he, regsGroup_split_keeps _ _ _ _ (fun _ _ _ _ => rfl) _,
    regsGroup_split_keeps _ _ _ _ (fun _ _ _ _ => rfl) _, regsGroup_split_keeps _ _ _ _ (fun _ _ _ _ => rfl) _,
    regsGroup_split_keeps _ _ _ _ (fun _ _ _ _ => rfl) _, regsGroup_split_keeps _ _ _ _ (fun _ _ _ _ => rfl) _,
    fun k => ?_, fun k hk => ?_, fun k hk hh hlen => ?_, regsGroup_handler how x ws f⟩
  · obtain ⟨c, v, h⟩ := regsGroup_slice how x ws f hl k
    rw [h]
    split <;> exact ⟨rfl, rfl, rfl⟩
  · obtain ⟨c, v, h⟩ := regsGroup_slice how x ws f hl k
    rw [h, if_neg fun hn => hk.elim (· hn.2.1) (by simp [hn.1])]
    exact ⟨rfl, rfl⟩
  · obtain ⟨c, v, h⟩ := regsGroup_slice how x ws f hl k
    rw [h, if_pos ⟨hh, hk, hlen⟩]

end Sys2Proof.Proofs
end

section
/-! YIELD, TRAP, BRK and the stops of LOOP and LOOPI (R61, R365, R366, R386, R387). -/

namespace Sys2Proof.Proofs

open Sys2Proof.Machine Sys2Proof.Safety Sys2Proof.Laws

/-- Two changes of one split are one. -/
theorem modSplit_modSplit (g : Group) (e : Nat) (f h : Split → Split) :
    (g.modSplit e f).modSplit e h = g.modSplit e fun p => h (f p) := by
  simp only [Group.modSplit, lmod, List.modify_modify_eq]
  rfl

/-- YIELD in a handler is a NOP. -/
theorem semYield_handler (d : BitVec 12) (n : BitVec 9) {x : Ctx} (s : State) (h : x.inH = true) :
    semYield d n x s = .done s := by
  rw [semYield, if_pos h]

/-- YIELD outside a handler reloads the budget, notes the live registers, and parks where a request stands and nothing is pending. -/
theorem semYield_outside (d : BitVec 12) (n : BitVec 9) {x : Ctx} (s : State) (h : x.inH = false) :
    semYield d n x s = .done (x.put s ({ x.g with budget := d.toNat }.modSplit x.e fun p =>
      { p with live := 8 * n.toNat, run := if x.t.request && !matrixPending s x.uid then .park else p.run })) := by
  simp only [semYield, h, Bool.false_eq_true, if_false, modSplit_modSplit]
  cases x.t.request && !matrixPending s x.uid <;> rfl

theorem semTrap_outside (c : BitVec 8) {x : Ctx} (s : State) (h : x.inH = false) :
    semTrap c x s = .fault s 0x38 c.toNat 0 := by
  simp [semTrap, h]

theorem semTrap_handler (c : BitVec 8) {x : Ctx} (s : State) (h : x.inH = true) : semTrap c x s =
    .flow (report (streamFault s x 0x38 c.toNat 0) x.t.grid.toNat x.t.num x.g.gid (x.g.fcause.toNat % 256)
      (x.g.fcause.toNat / 256 % 256) (1 + if x.t.shadow then 16 else 0) (x.g.slice x.low).pc x.g.faddr (!hostMode s 1)) := by
  rw [semTrap, if_pos h]

/-- A word that R387 forbids as a loop's last instruction: of class 111, or of class 000 but NOP. -/
def endsNoLoop (w : Word) : Prop := wordOp w / 32 = 7 ∨ (wordOp w / 32 = 0 ∧ wordOp w ≠ 0)

section
variable {stop : Ctx → DWord} {cnt : Ctx → Nat → Word} {x : Ctx} {s v : State} {w : Word}

theorem semLoop_handler (stop : Ctx → DWord) (cnt : Ctx → Nat → Word) (s : State) (h : x.inH = true) :
    semLoop stop cnt x s = .fault s 0x10 0 0 := by
  rw [semLoop, if_pos h]

theorem semLoop_forbidden (h : x.inH = false) (hf : x.fetch s (stop x).toNat = (.ok w, v)) (hw : endsNoLoop w) :
    semLoop stop cnt x s = .fault v 0x10 9 0 := by
  unfold endsNoLoop at hw
  simp only [semLoop, h, hf, hw, Bool.false_eq_true, if_false, if_true]

theorem semLoop_fifth (h : x.inH = false) (hf : x.fetch s (stop x).toNat = (.ok w, v)) (hw : ¬ endsNoLoop w)
    (hl : ∃ k ∈ x.sl, 4 ≤ (x.g.slice k).loops.length) : semLoop stop cnt x s = .fault v 0x10 9 0 := by
  have hany : (x.sl.any fun k => decide (4 ≤ (x.g.slice k).loops.length)) = true := by simpa using hl
  unfold endsNoLoop at hw
  simp only [semLoop, h, hf, hw, hany, Bool.false_eq_true, if_false, if_true]

theorem semLoop_counts_differ (h : x.inH = false) (hf : x.fetch s (stop x).toNat = (.ok w, v)) (hw : ¬ endsNoLoop w)
    (hl : ∀ k ∈ x.sl, (x.g.slice k).loops.length < 4) (hc : ∃ k ∈ x.sl, cnt x k ≠ cnt x x.low) :
    semLoop stop cnt x s = .fault v 0x14 0 0 := by
  have hany : (x.sl.any fun k => decide (4 ≤ (x.g.slice k).loops.length)) = false := by simpa using hl
  have hall : (x.sl.all fun k => decide (cnt x k = cnt x x.low)) = false := by simpa using hc
  unfold endsNoLoop at hw
  simp only [semLoop, h, hf, hw, hany, hall, Bool.false_eq_true, if_false, Bool.not_false, if_true]

end

/-- A LOOP or LOOPI issues with semLoop of its form. -/
theorem runsAs_loop {i : Instr} {how : IssueHow} {stop : Ctx → DWord} {cnt : Ctx → Nat → Word}
    (h : loopForm i how stop cnt) : runsAs i how (semLoop stop cnt) := by
  rcases h with ⟨y, a, off, rfl, rfl, rfl, rfl⟩ | ⟨y, c, off, rfl, rfl, rfl, rfl⟩ <;> exact fun _ => rfl

/-- BRK holds the group and tells the host where the grid is debugged. -/
theorem semBrk_debug (c : BitVec 8) {x : Ctx} (s : State) (h : x.gr.debug = true) : semBrk c x s =
    .done (tellHost (x.put s { x.g with hold := true }) "brk" [x.t.grid.toNat, x.t.num, x.g.gid, c.toNat, x.pc.toNat]) := by
  rw [semBrk, if_pos h]

theorem semBrk_nop (c : BitVec 8) {x : Ctx} (s : State) (h : x.gr.debug = false) : semBrk c x s = .done s := by
  simp [semBrk, h]

theorem loop_stops {i : Instr} {how : IssueHow} {stop : Ctx → DWord} {cnt : Ctx → Nat → Word}
    (hi : loopForm i how stop cnt) {s v : State} {x : Ctx} {c d : Nat} (h : issues how s x = true)
    (hf : semLoop stop cnt (waited how x) (waitedState how x s) = .fault v c d 0) :
    exec i s = .next (streamFault v (waited how x) c d 0) := by
  rw [exec_of_runsAs (runsAs_loop hi) h, hf]
  rfl

/-- Settles O30: each clause is the case of the instruction's meaning that it names. -/
theorem yieldTrapBreak : Obligations.yield_trap_break := by
  refine ⟨fun y d n => ?_, fun y c => ?_, fun y c s x hs hi => ?_, fun i how stop cnt hl => ⟨?_, ?_⟩, fun y c => ?_,
    fun y c => ?_⟩
  · refine goesOn_of_done (body := semYield d n) (fun _ => rfl) fun x s u hu => ?_
    cases hi : x.inH with
    | true => rw [semYield_handler _ _ _ hi, hu, if_pos hi]
    | false => rw [semYield_outside _ _ _ hi, hu, if_neg (by simp [hi])]
  · exact faultsWith_of_fault (body := semTrap c) (fun _ => rfl) fun x s h => semTrap_outside c s h
  · have hz : (waited (howCtl (.trap y c) true) x).inH = true := by rw [waited_inH, hi]
    rw [exec_of_runsAs (body := semTrap c) (fun _ => rfl) hs, semTrap_handler c _ hz]
    rfl
  · exact faultsWith_of_fault (runsAs_loop hl) fun x s h => semLoop_handler stop cnt s h
  · intro s x w v hs hi z hf
    exact ⟨fun hw => loop_stops hl hs (semLoop_forbidden hi hf hw),
      fun hw hfull => loop_stops hl hs (semLoop_fifth hi hf hw hfull),
      fun hw hroom hc => loop_stops hl hs (semLoop_counts_differ hi hf hw hroom hc)⟩
  · refine goesOn_of_done (body := semBrk c) (fun _ => rfl) fun x s u ⟨hd, hu⟩ => ?_
    rw [semBrk_nop c s hd, hu]
  · refine goesOn_of_done (body := semBrk c) (fun _ => rfl) fun x s u ⟨hd, hu⟩ => ?_
    rw [semBrk_debug c s hd, hu]

end Sys2Proof.Proofs
end

section
/-! LAUNCH and CWAIT (R35, R55, R399). -/

namespace Sys2Proof.Proofs

open Sys2Proof.Machine Sys2Proof.Safety

section
variable (w : BaseArgs) {x : Ctx} {s : State}

theorem semLaunch_refused (s : State) (h : x.g.gid ≠ 0 ∨ x.inH = true) : semLaunch w x s = .fault s 0x1A 0 0 := by
  rw [semLaunch, if_pos h]

theorem semLaunch_delayed (hg : x.g.gid = 0) (hi : x.inH = false) (hd : delayed s (cpOf s x.t.grid.toNat) = true) :
    semLaunch w x s = .stall s := by
  simp [semLaunch, hg, hi, hd]

/-- A record that is not valid gives its status. -/
theorem semLaunch_status (hg : x.g.gid = 0) (hi : x.inH = false) (hd : delayed s (cpOf s x.t.grid.toNat) = false) {st : Nat}
    (hv : validate s x.gr.space (x.lowPair w.a.toNat) (x.gr.depth + 1) = (st, none)) : semLaunch w x s =
    .done (modGroup s x.uid fun g => g.addPending x.e
      { writes := x.wsAll w.d.toNat (BitVec.ofNat 32 st), await := none }) := by
  simp [semLaunch, hg, hi, hd, hv]

/-- A valid record is a new grid, and gives its handle. -/
theorem semLaunch_accepts (hg : x.g.gid = 0) (hi : x.inH = false) (hd : delayed s (cpOf s x.t.grid.toNat) = false) {st : Nat}
    {l : Launch} (hv : validate s x.gr.space (x.lowPair w.a.toNat) (x.gr.depth + 1) = (st, some l)) : semLaunch w x s =
    let r := newGrid s l x.gr.space (x.gr.depth + 1) (some x.t.grid.toNat) .child
    .done (modGroup r.2 x.uid fun g => g.addPending x.e
      { writes := x.wsAll w.d.toNat (BitVec.ofNat 32 (r.1 * 256)), await := none }) := by
  simp [semLaunch, hg, hi, hd, hv]

theorem semCwait_handler (s : State) (hi : x.inH = true) : semCwait w x s = .fault s 0x10 9 0 := by
  simp [semCwait, hi]

/-- A word that holds a launch's status names no child. -/
theorem semCwait_status (s : State) (hi : x.inH = false) (hw : (x.lowS w.a.toNat).extractLsb' 0 8 ≠ 0) : semCwait w x s =
    .done (modGroup s x.uid fun g => g.writes (x.wsAll w.d.toNat 0xFFFFFFFF)) := by
  simp only [semCwait, hi, Bool.false_eq_true, if_false]
  rw [if_pos hw]

theorem semCwait_live (hi : x.inH = false) (hw : (x.lowS w.a.toNat).extractLsb' 0 8 = 0)
    (hl : liveChild s x.t.grid ((x.lowS w.a.toNat).toNat / 256) = true) : semCwait w x s =
    .flow (descheduled x s (.child (x.lowS w.a.toNat) w.d.toNat) (x.lowS w.b.toNat) 4) := by
  simp only [semCwait, hi, hw, hl, Bool.false_eq_true, ne_eq, not_true_eq_false, if_false, if_true]
  rfl

theorem semCwait_retired (hi : x.inH = false) (hw : (x.lowS w.a.toNat).extractLsb' 0 8 = 0)
    (hl : liveChild s x.t.grid ((x.lowS w.a.toNat).toNat / 256) = false) : semCwait w x s =
    let v := childStatus x.gr ((x.lowS w.a.toNat).toNat / 256)
    .done (modGroup (if v = 0xFFFFFFFF then s else acquire s x 0) x.uid fun g => g.writes (x.wsAll w.d.toNat v)) := by
  simp only [semCwait, hi, hw, hl, Bool.false_eq_true, ne_eq, not_true_eq_false, if_false]

theorem runsAs_launch : runsAs (.launch w) { howSys 0xE4 w with compare := fun _ => true } (semLaunch w) := fun _ => rfl

theorem runsAs_cwait : runsAs (.cwait w) { howSys 0xE5 w with wait := true } (semCwait w) := fun _ => rfl

end

/-- Settles O46: each clause is the case of LAUNCH or CWAIT that it names. -/
theorem childGridsComplete : Obligations.child_grids_complete := by
  refine ⟨fun w st => ?_, fun w st l => ?_, fun w => ?_, fun w => ?_, fun w => ?_, fun w => ?_, fun w => ?_, fun w => ?_⟩
  · exact goesOn_of_done (runsAs_launch w) fun x s u ⟨hg, hi, hd, hv, hu⟩ => hu ▸ semLaunch_status w hg hi hd hv
  · exact goesOn_of_done (runsAs_launch w) fun x s u ⟨hg, hi, hd, hv, hu⟩ => hu ▸ semLaunch_accepts w hg hi hd hv
  · exact faultsWith_of_fault (runsAs_launch w) fun x s h => semLaunch_refused w s h
  · exact waitsWhile_of_stall (runsAs_launch w) fun x s ⟨hg, hi, hd⟩ => semLaunch_delayed w hg hi hd
  · exact goesOn_of_done (runsAs_cwait w) fun x s u ⟨hi, hw, hu⟩ => hu ▸ semCwait_status w s hi hw
  · exact flowsTo_of_flow (runsAs_cwait w) fun x s u ⟨hi, hw, hl, hu⟩ => hu ▸ semCwait_live w hi hw hl
  · exact goesOn_of_done (runsAs_cwait w) fun x s u ⟨hi, hw, hl, hu⟩ => hu ▸ semCwait_retired w hi hw hl
  · exact faultsWith_of_fault (runsAs_cwait w) fun x s hi => semCwait_handler w s hi

end Sys2Proof.Proofs
end

section
/-! The posts of the matrix operations (R53, R264, R276 to R280, R287). -/

namespace Sys2Proof.Proofs

open Sys2Proof.Machine Sys2Proof.Safety

section
variable (w : ExtArgs) {x : Ctx} {s : State}

theorem once_act (s : State) (act : Res) (h : x.active w ≠ []) : once w x s act = act := by
  simp [once, h]

theorem once_nop (s : State) (act : Res) (h : x.active w = []) : once w x s act = .done s := by
  simp [once, h]

/-- An instruction that acts once goes on as a NOP without an active lane, and else where its act does (R80). -/
theorem done_of_onceTo {R : Ctx → State → State → Prop} {u : State} {r : Res} (h : onceTo w R x s u)
    (hr : ∃ act, r = once w x s act) (hact : x.active w ≠ [] → R x s u → r = .done u) : r = .done u := by
  by_cases ha : x.active w = []
  · obtain ⟨act, rfl⟩ := hr
    rw [once_nop w s act ha, (if_pos (List.isEmpty_iff.mpr ha)).mp h]
  · exact hact ha ((if_neg (fun he => ha (List.isEmpty_iff.mp he))).mp h)

theorem postOrStall_room (k : MatKind) (h : x.active w ≠ []) (hf : fifoFull s x.core = false) :
    postOrStall w x s k = .done (postMat x s k) := by
  rw [postOrStall, once_act w _ _ h, if_neg (by simp [hf])]

theorem postOrStall_full (k : MatKind) (h : x.active w ≠ []) (hf : fifoFull s x.core = true) :
    postOrStall w x s k = .stall s := by
  rw [postOrStall, once_act w _ _ h, if_pos hf]

/-- A post into the FIFO goes on while that has room. -/
theorem goesOn_of_post {i : Instr} {how : IssueHow} {k : Ctx → MatKind}
    (hi : runsAs i how fun x s => postOrStall w x s (k x)) :
    goesOn i how (onceTo w fun x s u => fifoFull s x.core = false ∧ u = postMat x s (k x)) :=
  goesOn_of_done hi fun _ _ _ h => done_of_onceTo w h ⟨_, rfl⟩ fun ha ⟨hf, hu⟩ => by
    rw [hu]
    exact postOrStall_room w _ ha hf

/-- A post into the FIFO waits while that is full. -/
theorem waitsWhile_of_post {i : Instr} {how : IssueHow} {k : Ctx → MatKind}
    (hi : runsAs i how fun x s => postOrStall w x s (k x)) :
    waitsWhile i how fun x s => x.active w ≠ [] ∧ fifoFull s x.core = true :=
  waitsWhile_of_stall hi fun _ _ ⟨ha, hf⟩ => postOrStall_full w _ ha hf

end

section
variable {w : ExtArgs} {x : Ctx} {s : State}

/-- AWR and ARD with a block outside the accumulator (R280). -/
theorem semAwr_outside (ha : x.active w ≠ []) (hb : 256 ≤ (x.bS w x.low).toNat * x.g.width) :
    semAwr w x s = .fault s 0x24 0 0 := by
  rw [semAwr, once_act w s _ ha]
  exact if_pos hb

theorem semArd_outside (ha : x.active w ≠ []) (hb : 256 ≤ (x.bS w x.low).toNat * x.g.width) :
    semArd w x s = .fault s 0x24 0 0 := by
  rw [semArd, once_act w s _ ha]
  exact if_pos hb

/-- AWR with a block of the accumulator posts as any operation does. -/
theorem semAwr_inside (ha : x.active w ≠ []) (hb : (x.bS w x.low).toNat * x.g.width < 256) : semAwr w x s =
    postOrStall w x s (.awr w.d.toNat ((x.active w).flatMap fun l => (List.range 16).map fun j =>
      ((x.bS w x.low).toNat / 4 * x.g.width + l, 16 * ((x.bS w x.low).toNat % 4) + j, x.v l (w.a.toNat + j)))) := by
  rw [semAwr, once_act w s _ ha]
  exact if_neg (Nat.not_le.mpr hb)

theorem semArd_room (ha : x.active w ≠ []) (hb : (x.bS w x.low).toNat * x.g.width < 256) (hf : fifoFull s x.core = false) :
    semArd w x s = .done (modGroup (postMat x s (.ard w.a.toNat ((x.active w).flatMap fun l => (List.range 16).map fun j =>
        (x.refV l (w.d.toNat + j), (x.bS w x.low).toNat / 4 * x.g.width + l,
          16 * ((x.bS w x.low).toNat % 4) + j)))) x.uid fun g =>
        g.addPending x.e { writes := [], await := some s.opCtr }) := by
  rw [semArd, once_act w s _ ha]
  exact (if_neg (Nat.not_le.mpr hb)).trans (if_neg (by simp [hf]))

theorem semArd_full (ha : x.active w ≠ []) (hb : (x.bS w x.low).toNat * x.g.width < 256) (hf : fifoFull s x.core = true) :
    semArd w x s = .stall s := by
  rw [semArd, once_act w s _ ha]
  exact (if_neg (Nat.not_le.mpr hb)).trans (if_pos hf)

theorem semAdrain_full (ha : x.active w ≠ []) (hf : fifoFull s x.core = true ∨ copyFull s x.core = true) :
    semAdrain w x s = .stall s := by
  rw [semAdrain, once_act w s _ ha, if_pos (by simpa using hf)]

/-- What ADRAIN takes of a record, its format and its completion word (R266, R287). -/
def drainOk (x : Ctx) (w : ExtArgs) (sh : Shape) : Prop :=
  tileShape sh = true ∧ (x.slot w.fs).elem = sh.elem ∧
    (w.sub.getLsbD 0 = true → sh.loc = false ∧ ((x.slot w.fs).elem = .fp32 ∨ (x.slot w.fs).elem = .bf16)) ∧
    wordOk x.gr.launch.localSize (x.lowS w.b.toNat) = true

theorem drainOk_iff (sh : Shape) : (!tileShape sh || decide ((x.slot w.fs).elem ≠ sh.elem)
      || (w.sub.getLsbD 0 && (sh.loc || decide ((x.slot w.fs).elem ≠ .fp32 ∧ (x.slot w.fs).elem ≠ .bf16)))
      || !wordOk x.gr.launch.localSize (x.lowS w.b.toNat)) = false ↔ drainOk x w sh := by
  simp only [drainOk, Bool.or_eq_false_iff, Bool.not_eq_false', Bool.and_eq_false_imp, decide_eq_false_iff_not, ne_eq,
    not_not, not_and_or, and_assoc]

/-- Not taking it is one of the four faults. -/
theorem not_drainOk (sh : Shape) (h : tileShape sh = false ∨ (x.slot w.fs).elem ≠ sh.elem ∨
      (w.sub.getLsbD 0 = true ∧ (sh.loc = true ∨ ((x.slot w.fs).elem ≠ .fp32 ∧ (x.slot w.fs).elem ≠ .bf16))) ∨
      wordOk x.gr.launch.localSize (x.lowS w.b.toNat) = false) : ¬ drainOk x w sh := by
  rintro ⟨ht, he, ha, hw⟩
  rcases h with h | h | ⟨h, hl | ⟨h1, h2⟩⟩ | h
  · simp [ht] at h
  · exact h he
  · simp [(ha h).1] at hl
  · exact (ha h).2.elim h1 h2
  · simp [hw] at h

/-- ADRAIN with room in its queues: the read of its record, and what it then posts. -/
theorem semAdrain_room (ha : x.active w ≠ []) (hf : fifoFull s x.core = false) (hc : copyFull s x.core = false) :
    semAdrain w x s = (readShape x s (x.lowPair w.a.toNat)).run fun sh s =>
      if !tileShape sh || decide ((x.slot w.fs).elem ≠ sh.elem)
          || (w.sub.getLsbD 0 && (sh.loc || decide ((x.slot w.fs).elem ≠ .fp32 ∧ (x.slot w.fs).elem ≠ .bf16)))
          || !wordOk x.gr.launch.localSize (x.lowS w.b.toNat) then .fault s 0x24 0 0
      else .done (nextOp (modCore s x.core fun q =>
        { q with fifo := q.fifo ++ [x.matOp s.opCtr (.adrain w.d.toNat)]
                 copyq := q.copyq ++ [x.engOp s.opCtr
                   (.drain sh (x.slot w.fs) (w.sub.getLsbD 0) (x.lowS w.b.toNat) none false)] })) := by
  rw [semAdrain, once_act w s _ ha, if_neg (by simp [hf, hc])]

/-- ADRAIN with room posts what its record, its format and its word allow. -/
theorem semAdrain_post {sh : Shape} {v : State} (ha : x.active w ≠ []) (hf : fifoFull s x.core = false)
    (hc : copyFull s x.core = false) (hr : readShape x s (x.lowPair w.a.toNat) = .ok sh v) (hok : drainOk x w sh) :
    semAdrain w x s = .done (nextOp (modCore v x.core fun q =>
        { q with fifo := q.fifo ++ [x.matOp v.opCtr (.adrain w.d.toNat)]
                 copyq := q.copyq ++ [x.engOp v.opCtr
                   (.drain sh (x.slot w.fs) (w.sub.getLsbD 0) (x.lowS w.b.toNat) none false)] })) := by
  rw [semAdrain_room ha hf hc, hr]
  exact if_neg (Bool.eq_false_iff.mp ((drainOk_iff sh).mpr hok))

theorem semAdrain_refused {sh : Shape} {v : State} (ha : x.active w ≠ []) (hf : fifoFull s x.core = false)
    (hc : copyFull s x.core = false) (hr : readShape x s (x.lowPair w.a.toNat) = .ok sh v) (hok : ¬ drainOk x w sh) :
    semAdrain w x s = .fault v 0x24 0 0 := by
  rw [semAdrain_room ha hf hc, hr]
  exact if_pos (Bool.of_not_eq_false fun h => hok ((drainOk_iff sh).mp h))

theorem semAdrain_unread {r : Res} (ha : x.active w ≠ []) (hf : fifoFull s x.core = false)
    (hc : copyFull s x.core = false) (hr : readShape x s (x.lowPair w.a.toNat) = .stop r) : semAdrain w x s = r := by
  rw [semAdrain_room ha hf hc, hr]
  rfl

end

theorem runsAs_dmma (w : BaseArgs) :
    runsAs (.dmma w) (howOp 0xC1 false (w.ext none)) (semDmmaTo (w.d.toNat + 1) (w.ext none)) := fun _ => rfl

theorem runsAs_dmmaX (w : ExtArgs) : runsAs (.dmmaX w) (howOp 0xC1 true w) (semDmmaTo w.c.toNat w) := fun _ => rfl

/-- Settles O38: a full queue stalls a post, and with room each operation posts what postMat or its own case says. -/
theorem matrixOperationsPost : Obligations.matrix_operations_post := by
  refine ⟨inForms_of_sem semMma (fun _ _ => rfl) (fun _ _ => rfl) fun i how w hi => ?_, fun w => ?_, fun w => ?_,
    inForms_of_sem semAzero (fun _ _ => rfl) (fun _ _ => rfl) fun i how w hi => ?_,
    inForms_of_sem semArel (fun _ _ => rfl) (fun _ _ => rfl) fun i how w hi => ?_,
    inForms3_of_sem semAwr (fun _ _ => rfl) (fun _ _ _ => rfl) (fun _ _ => rfl) fun i how w hi => ?_,
    inForms3_of_sem semArd (fun _ _ => rfl) (fun _ _ _ => rfl) (fun _ _ => rfl) fun i how w hi => ?_,
    inForms_of_sem semAdrain (fun _ _ => rfl) (fun _ _ => rfl) fun i how w hi sh v => ?_,
    inForms_of_sem semMma (fun _ _ => rfl) (fun _ _ => rfl) fun i how w hi => ?_, fun w => ?_, fun w => ?_,
    inForms_of_sem semAzero (fun _ _ => rfl) (fun _ _ => rfl) fun i how w hi => ?_,
    inForms_of_sem semArel (fun _ _ => rfl) (fun _ _ => rfl) fun i how w hi => ?_,
    inForms3_of_sem semAwr (fun _ _ => rfl) (fun _ _ _ => rfl) (fun _ _ => rfl) fun i how w hi => ⟨?_, ?_⟩,
    inForms3_of_sem semArd (fun _ _ => rfl) (fun _ _ _ => rfl) (fun _ _ => rfl) fun i how w hi => ⟨?_, ?_⟩,
    inForms_of_sem semAdrain (fun _ _ => rfl) (fun _ _ => rfl) fun i how w hi => ⟨?_, ?_⟩⟩
  · exact goesOn_of_post w hi
  · exact goesOn_of_post (w.ext none) (runsAs_dmma w)
  · exact goesOn_of_post w (runsAs_dmmaX w)
  · exact goesOn_of_post w hi
  · exact goesOn_of_post w hi
  · refine goesOn_of_done hi fun x s u h => done_of_onceTo w h ⟨_, rfl⟩ fun ha ⟨hb, hf, hu⟩ => ?_
    rw [hu]
    exact (semAwr_inside ha hb).trans (postOrStall_room w _ ha hf)
  · refine goesOn_of_done hi fun x s u h => done_of_onceTo w h ⟨_, rfl⟩ fun ha ⟨hb, hf, hu⟩ => ?_
    rw [hu]
    exact semArd_room ha hb hf
  · refine goesOn_of_done hi fun x s u h => done_of_onceTo w h ⟨_, rfl⟩ fun ha ⟨hf, hc, hr, ht, he, hadd, hw, hu⟩ => ?_
    rw [hu]
    exact semAdrain_post ha hf hc hr ⟨ht, he, hadd, hw⟩
  · exact waitsWhile_of_post w hi
  · exact waitsWhile_of_post (w.ext none) (runsAs_dmma w)
  · exact waitsWhile_of_post w (runsAs_dmmaX w)
  · exact waitsWhile_of_post w hi
  · exact waitsWhile_of_post w hi
  · exact waitsWhile_of_stall hi fun x s ⟨ha, hb, hf⟩ => (semAwr_inside ha hb).trans (postOrStall_full w _ ha hf)
  · exact faultsWith_of_fault hi fun x s ⟨ha, hb⟩ => semAwr_outside ha hb
  · exact waitsWhile_of_stall hi fun x s ⟨ha, hb, hf⟩ => semArd_full ha hb hf
  · exact faultsWith_of_fault hi fun x s ⟨ha, hb⟩ => semArd_outside ha hb
  · exact waitsWhile_of_stall hi fun x s ⟨ha, hf⟩ => semAdrain_full ha hf
  · refine stopsAt_of_res hi fun x s r ⟨ha, hf, hc, h⟩ => ?_
    rcases h with hr | ⟨sh, v, hr, rfl, hbad⟩
    · exact semAdrain_unread ha hf hc hr
    · exact semAdrain_refused ha hf hc hr (not_drainOk sh hbad)

end Sys2Proof.Proofs
end

section
/-! Loads (R203 to R207): accesses that are reached, and the results that are under way (R52, R372). -/

namespace Sys2Proof.Proofs

open Sys2Proof.Machine Sys2Proof.Safety Sys2Proof.Laws

/-- Accesses that are reached have been checked, and none of them is one that its target refuses or that must wait for a route. -/
theorem reached_some {x : Ctx} {s v : State} {n : Need} {align : Nat} {l : List (Nat × Nat)} {acc : List Acc}
    (h : reached x s n align l = some (acc, v)) : ∃ r miss u,
      checkAccesses s x.core x.gr.space false n align l = (.ok r, miss, u) ∧ v = x.count u 11 miss ∧
      acc = (l.zip r).map (fun p => ({ key := p.1.1, va := p.1.2, pa := p.2.1, leaf := p.2.2 } : Acc)) ∧
      ∀ a ∈ acc, targetRefuses v a.pa = false ∧ mustWait v x.core n a.pa = false := by
  unfold reached at h
  split at h
  next r miss u hc =>
    dsimp only at h
    split at h
    · cases h
    next hany =>
      cases h
      refine ⟨r, miss, u, hc, rfl, rfl, fun a ha => Bool.or_eq_false_iff.mp (Bool.of_not_eq_true fun hw => ?_)⟩
      exact hany (List.any_eq_true.mpr ⟨a, ha, hw⟩)
  · cases h

/-- An instruction whose accesses are reached acts on them. -/
theorem memAccess_reached {x : Ctx} {s v : State} {n : Need} {align : Nat} {l : List (Nat × Nat)} {acc : List Acc}
    (h : reached x s n align l = some (acc, v)) (lanesOf : Nat → List Nat) (act : List Acc → State → Res) :
    memAccess x s n align l lanesOf act = act acc v := by
  obtain ⟨r, miss, u, hc, rfl, hacc, hok⟩ := reached_some h
  have hbad : (acc.filter fun a => targetRefuses (x.count u 11 miss) a.pa) = [] :=
    List.filter_eq_nil_iff.mpr fun a ha => by simp [hok a ha]
  have hwait : (acc.any fun a => mustWait (x.count u 11 miss) x.core n a.pa) = false :=
    List.any_eq_false.mpr fun a ha => by simp [hok a ha]
  have hgood : (acc.filter fun a => !targetRefuses (x.count u 11 miss) a.pa) = acc :=
    List.filter_eq_self.mpr fun a ha => by simp [hok a ha]
  simp only [memAccess, hc, ← hacc, hbad, hwait, hgood, Bool.false_eq_true, if_false]

theorem loadMem_reached {x : Ctx} {w : ExtArgs} {s v : State} {l : List (Nat × Nat)} {acc : List Acc}
    (h : reached x s { needR with scope := if ordered w then some (orderScope w) else none } (accessSize w) l = some (acc, v))
    (lanesOf : Nat → List Nat) (dst : Nat → List Word → List RegWrite) :
    loadMem x w l lanesOf dst s = .done (loaded x w dst v acc) := by
  rw [loadMem, memAccess_reached h]
  rfl

/-- A load of one form goes on where its accesses are reached. -/
theorem goesOn_of_load {i : Instr} {how : IssueHow} {w : ExtArgs} {l : Ctx → List (Nat × Nat)} {lanesOf : Nat → List Nat}
    {dst : Ctx → Nat → List Word → List RegWrite} (hi : runsAs i how fun x s => loadMem x w (l x) lanesOf (dst x) s)
    (acc : List Acc) (v : State) : goesOn i how fun x s u =>
      reached x s { needR with scope := if ordered w then some (orderScope w) else none } (accessSize w) (l x) = some (acc, v) ∧
        u = loaded x w (dst x) v acc :=
  goesOn_of_done hi fun x _ _ ⟨hr, hu⟩ => by rw [hu]; exact loadMem_reached hr lanesOf (dst x)

section
variable (x : Ctx) (dst : Nat → Nat → List RegWrite) (vals : List (Nat × Nat)) {s : State} {g : Group}

/-- Results of which none is poisoned are one outstanding result. -/
theorem kget_results_good (h : kget s.groups x.uid = some g) : kget (x.results dst [] vals s).groups x.uid =
    some (g.addPending x.e { writes := vals.flatMap fun p => dst p.1 p.2, await := none }) := by
  simp [Ctx.results, kget_kmod, h, Group.addResults]

/-- Results of which some are poisoned are two: the others, and those with the detail of the first that is. -/
theorem kget_results_bad (k d : Nat) (bad : List (Nat × Nat)) (h : kget s.groups x.uid = some g) :
    kget (x.results dst ((k, d) :: bad) vals s).groups x.uid =
      let isBad (p : Nat × Nat) : Bool := decide (k = p.1) || bad.any fun b => decide (b.1 = p.1)
      some ((g.addPending x.e { writes := (vals.filter fun p => !isBad p).flatMap fun p => dst p.1 p.2, await := none }).addPending
        x.e { writes := (vals.filter isBad).flatMap fun p => dst p.1 p.2, await := none
              bad := some { detail := d, pc := x.pc, inH := x.inH } }) := by
  simp only [Ctx.results, modGroup_groups, kget_kmod, if_true, h, Option.map_some, Group.addResults, List.any_cons,
    List.head?_cons]

end

/-- Settles O31: LD and SLD are loadMem of their addresses and destinations, and results says what is then outstanding. -/
theorem loadsComplete : Obligations.loads_complete := by
  refine ⟨inForms3_of_sem semLd (fun _ _ => rfl) (fun _ _ _ => rfl) (fun _ _ => rfl) fun i how w hi acc v => ?_,
    inForms3_of_sem semSld (fun _ _ => rfl) (fun _ _ _ => rfl) (fun _ _ => rfl) fun i how w hi acc v => ?_,
    fun x dst vals s g h => ⟨kget_results_good x dst vals h, fun k d bad => kget_results_bad x dst vals k d bad h⟩⟩
  · exact goesOn_of_load hi acc v
  · exact goesOn_of_load hi acc v

end Sys2Proof.Proofs
end

section
/-! A launch whose packet lies on a first-touch page: the lock die maps the page (R219, R332), and memory changes. -/

namespace Sys2Proof.Proofs

open Sys2Proof.Machine

/-- A pool with one frame of a size gives that frame. -/
theorem takeFrame_one {s : State} {die size : Nat} {f : Nat × Nat}
    (h : (s.pools.getD die []).filter (fun f => decide (f.2 = size)) = [f]) : takeFrame s die size =
      some (f.1, { s with freeCtr := s.freeCtr + 1, pools := lset s.pools die ((s.pools.getD die []).erase f) }) := by
  simp only [takeFrame, h]
  simp [pick, Nat.mod_one]

/-- A first-touch page is mapped on the frame that its pool gives. -/
theorem mapPage_first {s t : State} {space die va a base size f : Nat} {e : DWord} (hva : inGridSpace va = true)
    (hw : walkSpace s space va = .invalid a e base size true) (hf : takeFrame s die size = some (f, t)) :
    mapPage s space die va false =
      (0, { zeroFrame t f size with mem := writeN (zeroFrame t f size).mem a 8 (mappedEntry e f).toNat }) := by
  simp [mapPage, hva, hw, hf]

/-- A part of a launch's read whose page is a first-touch one that may not be read then: the page is mapped, and nothing is read. -/
theorem launchParts_first_unreadable {s t : State} {space die va n base d : Nat} (ps : List (Nat × Nat)) (l : List Byte)
    (hva : inGridSpace va = true) (hhost : hostMode s 0 = false)
    (hw : checkWalk s.pkg none va needR (walkSpace s space va) = .page base) (hm : mapPage s space die va false = (0, t))
    (ht : checkWalk t.pkg none va needR (walkSpace t space va) = .access d) :
    launchParts space die ((va, n) :: ps) l s = .bad t := by
  have hp : launchPage s space die va = (some true, t) := by simp [launchPage, hhost, hm]
  simp [launchParts, hva, hw, hp, ht]

/-- A packet that cannot be read gives the launch status 0x02, and starts nothing. -/
theorem launchColl_unread {space : Nat} {packet : DWord} {s t : State} (ha : packet.toNat % 64 = 0)
    (hc : canonical packet.toNat = true) (hr : launchRead space 0 packet.toNat 64 s = .bad t) (ht : t.colls = []) :
    launchColl space packet none s =
      .status 2 (BitVec.ofNat 16 s.collCtr ++ s.pkg) { t with collCtr := t.collCtr + 1 } := by
  simp [launchColl, loadPackage, ha, hc, hr, leastCode, cancelColl, ht, kget]

/-- Page tables of three levels, whose last entry is a first-touch one of 512 MiB at virtual address 0 without a right to read. -/
def touchMem : Memory := [(0x100, 0x01), (0x101, 0x02), (0x200, 0x01), (0x201, 0x03), (0x300, 0x82)]

/-- A machine with these tables as space 0, and one frame of 512 MiB in the pool of die 0. -/
def touchState : State :=
  { State.reset with
    mem := touchMem
    spaces := [(0, { root := 0x100, pid := 0, handlers := [], save := 0, snapFree := [] })]
    pools := [[(0x20000000, 0x20000000)], [], [], []] }

/-- The same after the page has been mapped: its entry holds the frame, V, and FT no more (R219). -/
def touchedState : State :=
  { touchState with
    mem := [(0x100, 0x01), (0x101, 0x02), (0x200, 0x01), (0x201, 0x03), (0x300, 0x03), (0x303, 0x20)]
    freeCtr := 1
    pools := [[], [], [], []] }

theorem touchState_walk : walkSpace touchState 0 0 = .invalid 0x300 0x82 0 0x20000000 true := by rfl

theorem touchState_maps : mapPage touchState 0 0 0 false = (0, touchedState) := by
  rw [mapPage_first rfl touchState_walk (takeFrame_one (f := (0x20000000, 0x20000000)) rfl)]
  rfl

theorem touchState_packet_unread : launchRead 0 0 0 64 touchState = .bad touchedState := by
  have hparts : rangeParts (64 / 65536 + 2) 0 64 = [(0, 64)] := by rfl
  rw [launchRead, hparts]
  exact launchParts_first_unreadable (base := 0) (d := 2) [] [] rfl rfl (by rw [touchState_walk]; rfl) touchState_maps rfl

/-- Refutes O37: of the launch that SEQGO makes it says that it changes no memory, but where the packet lies on a first-touch page the lock
die maps that page (R219, R332), and so writes the page's entry. In touchState the packet at address 0 does. -/
theorem not_frameOfMemoryInstructions : ¬ Obligations.frame_of_memory_instructions := by
  unfold Obligations.frame_of_memory_instructions
  intro h
  obtain ⟨-, -, -, -, -, -, -, -, -, -, -, -, -, -, -, -, -, -, -, -, -, -, -, hlaunch⟩ := h
  obtain ⟨hmem, -⟩ := hlaunch 0 0 touchState _ _ _ (launchColl_unread rfl rfl touchState_packet_unread rfl)
  have hentry : fget touchedState.mem 0x300 = fget touchState.mem 0x300 := congrArg (fget · 0x300) hmem
  exact absurd hentry (by decide)

end Sys2Proof.Proofs
end

section
/-! The dispatcher's events where they can take place (R40, R41, R52, R58 to R67, R216, R364, R379, R381). -/

namespace Sys2Proof.Proofs

open Sys2Proof.Machine

@[simp] theorem happens_some (s t : State) : happens s (some t) = .next t := rfl

@[simp] theorem whenOk_true (t : Unit → State) : whenOk true t = some (t ()) := rfl

/-! ### Placement -/

section
variable {h : BitVec 14} {p q : Place} {s : State} {g : Grid}

/-- A team that is not one of a pair is placed where it fits in its turn. -/
theorem execDispatchTeam_single (hg : kget s.grids h.toNat = some g) (hq : g.queued = true) (hpair : g.launch.paired = false)
    (hlen : p.parts.length = g.launch.groups)
    (hfit : placeOk s p.core g.launch.localSize g.launch.width (p.parts.zip (launchNeeds g.launch)) = true)
    (hturn : turnOf s g p.core = true) (hd : delayed s (cpOf s h.toNat) = false) :
    execDispatchTeam h p none s = .next (modGrid (startTeam s h.toNat g p false s.uidCtr none) h.toNat fun g =>
      { g with next := g.next + 1, phase := .running }) := by
  simp [execDispatchTeam, launchPlace, hg, hq, hpair, hlen, hfit, hturn, hd]

/-- A pair is placed on cores of two clusters, the shadow where it fits beside the primary. -/
theorem execDispatchTeam_pair (hg : kget s.grids h.toNat = some g) (hq : g.queued = true) (hpair : g.launch.paired = true)
    (hlen : p.parts.length = g.launch.groups) (hlen' : q.parts.length = g.launch.groups)
    (hfit : placeOk s p.core g.launch.localSize g.launch.width (p.parts.zip (launchNeeds g.launch)) = true)
    (hturn : turnOf s g p.core = true) (hturn' : turnOf s g q.core = true) (hcl : clusterOf q.core ≠ clusterOf p.core)
    (hd : delayed s (cpOf s h.toNat) = false) :
    let b := s.uidCtr + 1 + g.launch.groups
    let u := startTeam s h.toNat g p false s.uidCtr (some b)
    placeOk u q.core g.launch.localSize g.launch.width (q.parts.zip (launchNeeds g.launch)) = true →
    execDispatchTeam h p (some q) s = .next (modGrid (startTeam u h.toNat g q true b (some s.uidCtr)) h.toNat fun g =>
      { g with next := g.next + 1, phase := .running }) := by
  intro b u hfit'
  simp [execDispatchTeam, launchPlace, hg, hq, hpair, hlen, hlen', hfit, hturn, hturn', hcl, hd, u, b, hfit']

end

/-! ### Pre-emption and resume -/

section
variable {tu : Nat} {f : BitVec 14} {s u : State} {t : Team} {g k : Grid}

theorem execDispatcherPreempt_eq (ht : kget s.teams tu = some t) (hg : gridOf s tu = some g) (hk : kget s.grids f.toNat = some k)
    (hcore : t.core.isSome = true) (hreq : t.request = false) (hend : t.ended = false) (hprio : g.prio < k.prio)
    (hb : blocked s f.toNat = true) (hd : delayed s (cpOf s f.toNat) = false) :
    execDispatcherPreempt tu f s = .next (request s tu f) := by
  simp [execDispatcherPreempt, ht, hg, hk, hcore, hreq, hend, hprio, hb, hd]

theorem execTeamTaken_eq (ht : kget s.teams tu = some t) (hreq : t.request = true)
    (hd : delayed s (cpOf s t.grid.toNat) = false) (hu : takeAll s tu = some u) : execTeamTaken tu s = .next u := by
  simp [execTeamTaken, ht, hreq, hd, hu]

theorem execSwapOut_eq (ht : kget s.teams tu = some t) (hg : gridOf s tu = some g) (hk : kget s.grids f.toNat = some k)
    (hd : delayed s (cpOf s t.grid.toNat) = false) (hreq : t.request = false) (hprio : g.prio ≤ k.prio)
    (hb : blocked s f.toNat = true) (hw : allWait s tu = true) (htwin : ∀ v, t.twin = some v → allWait s v = true)
    (hu : takeAll s tu = some u) : execSwapOut tu f s = .next u := by
  have hall : t.twin.all (allWait s) = true := by simpa [Option.all_eq_true] using htwin
  simp [execSwapOut, ht, hg, hk, hd, hreq, hprio, hb, hw, hall, hu]

theorem takeAll_single (hp : pairOf s tu = none) (hs : teamStopped s tu = true) : takeAll s tu = some (takeTeam s tu) := by
  simp [takeAll, hp, hs]

/-- A pair that stands apart is taken with what each twin holds. -/
theorem takeAll_apart {p v : Nat} (hp : pairOf s tu = some (p, v)) (hs : teamStopped s p = true) (hs' : teamStopped s v = true)
    (hn : takePoint s p v = none) : takeAll s tu = some (takeTeam (takeTeam s p) v) := by
  simp [takeAll, hp, hs, hs', hn]

/-- A pair that stands together is compared as it is taken. -/
theorem takeAll_together {p v w e : Nat} (hp : pairOf s tu = some (p, v)) (hs : teamStopped s p = true)
    (hs' : teamStopped s v = true) (hn : takePoint s p v = some (w, e)) : takeAll s tu = some (
      if sigsEqual s p v = true then takeTeam (takeTeam (comparePair s p v) p) v else mismatchPair s p v w e 0) := by
  simp [takeAll, hp, hs, hs', hn]

theorem execTeamResume_single {p : Place} (ht : kget s.teams tu = some t) (hg : gridOf s tu = some g) (hcore : t.core = none)
    (hsh : t.shadow = false) (hend : t.ended = false) (htwin : t.twin = none) (hpreq : g.preq = false)
    (hrep : g.replaying = false) (hok : resumeOk s tu g p = true) (hd : delayed s (cpOf s t.grid.toNat) = false) :
    execTeamResume tu p none s = .next (resumeTeam s tu p) := by
  simp [execTeamResume, ht, hg, hcore, hsh, hend, htwin, hpreq, hrep, hok, hd]

end

/-! ### Results, budgets and retirement -/

theorem execResultWriteback_good {u k : Nat} {e : BitVec 2} {s : State} {g : Group} {p : Pending}
    (hg : kget s.groups u = some g) (hp : (g.split e.toNat).pend[k]? = some p) (hv : (g.split e.toNat).valid = true)
    (ha : p.await = none) (hb : p.bad = none) : execResultWriteback u e k s =
      .next { s with groups := kset s.groups u ((g.land p).modSplit e.toNat fun sp =>
        { sp with pend := sp.pend.eraseIdx k }) } := by
  simp [execResultWriteback, hg, hp, hv, ha, hb]

theorem execYieldOverrun_eq {u : Nat} {e : BitVec 2} {s t v : State} {x : Ctx} {w : Word}
    (hx : ctxOf s u e.toNat = some x) (hf : x.fetch s x.pc.toNat = (.ok w, t)) (hw : wouldIssue x w t = (true, v))
    (hb : x.g.budget = 0) (hi : x.inH = false) (ht : (x.g.split x.e).trap = none) (hr : resultsReady x.g x.e = true) :
    execYieldOverrun u e s = .next (streamFault v x 0x1B 0 0) := by
  simp [execYieldOverrun, hx, hf, hw, hb, hi, ht, hr]

/-- A grid that may retire returns its copies, arrives at its completion object or reports that it cannot, and tells its parent and its
ring. -/
theorem execGridRetire_eq {h : BitVec 14} {s : State} {g : Grid} (hg : kget s.grids h.toNat = some g)
    (hc : canRetire s h.toNat g = true) :
    let r := releaseCopies s h.toNat g
    let v := (completionArrival r g).getD (report r h.toNat 0 0 0x4D 1 0 0 0 false)
    execGridRetire h s = .next (
      let st := ((kget v.grids h.toNat).map (·.fr.status)).getD 0
      let w := tellParent v h.toNat g
      let w := { w with grids := kdel w.grids h.toNat }
      match g.source with
      | .ring r i => finishEntry w r i (if st = 0 then 2 else 3) (st % 256) false
      | .child => w) := by
  intro r v
  have hv : v = (completionArrival r g).getD (report r h.toNat 0 0 0x4D 1 0 0 0 false) := rfl
  simp only [execGridRetire, hg, hc, whenOk_true, happens_some]
  cases hr : completionArrival r g with
  | some t =>
    rw [hr, Option.getD_some] at hv
    clear_value v
    subst hv
    rfl
  | none =>
    rw [hr, Option.getD_none] at hv
    clear_value v
    subst hv
    rfl

/-! ### The host's answers -/

section
variable {u : Nat} {e : BitVec 2} {s : State} {g : Group} {page : DWord} {parked : Bool}

theorem execHostPageAnswer_eq (hg : kget s.groups u = some g) (hr : (g.split e.toNat).run = .host page parked)
    (hs : setStopped s g.team = false) (mapped : Bool) :
    let t := mapOps (modGroup s u fun g => g.modSplit e.toNat fun sp => { sp with run := if parked = true then .park else .run })
      (resumeOp u e.toNat none)
    execHostPageAnswer u e mapped s = .next (if mapped then modGroup t u mergeAll
      else endByFault t g.team u e.toNat g.gid 0x28 0 false (g.stands e.toNat).1 page) := by
  simp [execHostPageAnswer, hg, hr, hs]

end

section
variable {tu : Nat} {s : State} {t : Team} {h : Held}

/-- The cause that a held team waits for the host with. -/
theorem held_own (ht : kget s.teams tu = some t) (hh : t.stop = some h) (ho : h.own = true) (hs : setStopped s tu = false) :
    (((kget s.teams tu).bind (·.stop)).filter fun h => h.own && !setStopped s tu) = some h := by
  simp [ht, hh, ho, hs]

theorem execHostFaultAnswer_end (ht : kget s.teams tu = some t) (hh : t.stop = some h) (ho : h.own = true)
    (hs : setStopped s tu = false) :
    execHostFaultAnswer tu false s = .next (endTwins (setStatus s t.grid.toNat h.cause) tu) := by
  rw [execHostFaultAnswer, held_own ht hh ho hs]
  simp [ht]

theorem execHostFaultAnswer_resume (ht : kget s.teams tu = some t) (hh : t.stop = some h) (ho : h.own = true)
    (hs : setStopped s tu = false) (hr : h.resumable = true) :
    execHostFaultAnswer tu true s = .next (heldIssued (letGo s tu) tu h) := by
  rw [execHostFaultAnswer, held_own ht hh ho hs]
  simp [hr]

end

/-! ### Pairs -/

section
variable {tu p v : Nat} {s : State}

/-- A pair is compared at the first point where a stream of both stands. -/
theorem execPairCompare_streams {u e w f : Nat} {l : List (Nat × Nat × Nat × Nat)} (hs : setStopped s tu = false)
    (hp : pairOf s tu = some (p, v)) (hm : matched s p v = (u, e, w, f) :: l) : execPairCompare tu s =
      .next (if sigsEqual s p v then afterCompare (afterCompare (comparePair s p v) u e) w f
        else mismatchPair s p v u e 0) := by
  simp [execPairCompare, hs, hp, hm]

/-- Where no streams do, at the first engine operations that do. -/
theorem execPairCompare_engines {a b : EngQueue × EngOp} {l : List ((EngQueue × EngOp) × EngQueue × EngOp)}
    (hs : setStopped s tu = false) (hp : pairOf s tu = some (p, v)) (hm : matched s p v = [])
    (ho : matchedOps s p v = (a, b) :: l) : execPairCompare tu s =
      .next (if (a.2.own s).sig = (b.2.own s).sig then opAfterCompare b.1 b.2 (opAfterCompare a.1 a.2 s)
        else mismatchPair s a.2.team b.2.team a.2.group 16 0) := by
  simp [execPairCompare, hs, hp, hm, ho, compareOps]

theorem execPairTimeout_stream {u e : Nat} {g : Group} {y : Nat × Group} (hp : pairOf s tu = some (p, v))
    (hm : matched s p v = []) (ho : overdue s tu = some (u, e)) (hg : kget s.groups u = some g)
    (hy : twinGroup s p g.gid = some y) (hf : runsFree s p = true) (hf' : runsFree s v = true) :
    execPairTimeout tu s = .next (mismatchPair s p v y.1 e 1) := by
  simp [execPairTimeout, hp, hm, ho, hg, hy, hf, hf']

end

/-- Settles O56: each clause is the event's law where its conditions hold. -/
theorem dispatcherEventsComplete : Obligations.dispatcher_events_complete := by
  refine ⟨fun h p s g => execDispatchTeam_single, ?_, fun tu f s t g k => execDispatcherPreempt_eq,
    fun tu s t u => execTeamTaken_eq, fun tu f s t g k u => execSwapOut_eq, ?_,
    fun tu p s t g => execTeamResume_single,
    fun u e k s g p => execResultWriteback_good, fun u e s x w t v => execYieldOverrun_eq, fun h s g => execGridRetire_eq,
    ?_, ?_, fun tu s p v u e w f l => execPairCompare_streams, fun tu s p v a b l => execPairCompare_engines,
    fun tu s p v u e g y => execPairTimeout_stream⟩
  · intro h p q s g hg hq hpair hlen hlen' hfit hturn hturn' hcl b u hfit' hd
    exact execDispatchTeam_pair hg hq hpair hlen hlen' hfit hturn hturn' hcl hd hfit'
  · intro tu s
    refine ⟨takeAll_single, fun p v hp hs hs' => ⟨takeAll_apart hp hs hs', fun u e => takeAll_together hp hs hs'⟩⟩
  · intro u e s g page parked hg hr hs t
    exact ⟨execHostPageAnswer_eq hg hr hs true, execHostPageAnswer_eq hg hr hs false⟩
  · intro tu s t h ht hh ho hs
    exact ⟨execHostFaultAnswer_end ht hh ho hs, execHostFaultAnswer_resume ht hh ho hs⟩

end Sys2Proof.Proofs
end

section
/-! The round trip of every instruction from its words (R71 to R92, R304). -/

namespace Sys2Proof.Laws.RoundTrip

/-- Each constructor of Instr has its round trip, which the model states under the constructor's name: they stand here in the order of
the constructors. -/
theorem statement_holds (i : Instr) : Statement i :=
  Instr.casesOn (motive := Statement) i
    nop bra braL bc bcL bcu bcuL jmpi call callL calli ret regang splitq loop loopi leave exit yield trap brk sli sliL smov
    smovX sadd saddX saddL ssub ssubX ssubL smul smulX smulL smulh smulhX smulhL sand sandX sandL sor sorX sorL sxor sxorX
    sxorL sshl sshlX sshlL sshr sshrX sshrL ssra ssraX ssraL smin sminX sminL smax smaxX smaxL ssel sselX sselL spopc spopcX
    scmp scmpX scmpL vote voteX cand candX cor corX cxor cxorX setc setcX iadd iaddX iaddL isub isubX isubL imul imulX imulL
    imulh imulhX imulhL imin iminX iminL imax imaxX imaxL and andX andL or orX orL xor xorX xorL shl shlX shlL shr shrX shrL
    sra sraX sraL imad imadX imadL imadw imadwX imadwL iabs iabsX ineg inegX not notX popc popcX clz clzX brev brevX mov movX
    movi moviX moviL bfe bfeX bfeL bfi bfiX bfiL icmpp icmppX icmppL sel selX selL pset psetX fadd faddX faddL fsub fsubX
    fsubL fmul fmulX fmulL fmin fminX fminL fmax fmaxX fmaxL fmaxa fmaxaX fmaxaL ffma ffmaX ffmaL frcp frcpX frsq frsqX fsqrt
    fsqrtX fexp2 fexp2X flog2 flog2X fcmpp fcmppX fcmppL fclass fclassX fscale fscaleX fscaleL hadd2 hadd2X hadd2L hmul2
    hmul2X hmul2L hfma2 hfma2X hfma2L fdot4 fdot4X cvt cvtX cvtf cvtfX cvti cvtiX pack packX unpack unpackX qscale qscaleX
    shfl shflX shflL bcast bcastX lred lredX lscan lscanX elect electX rndx rndxX ld ldX ldL st stX stL ldl ldlX ldlL stl stlX
    stlL sld sldX sldL sst sstX sstL atom atomX atomL atoml atomlX atomlL red redX redL fence fenceX tagq tagqX tagset tagsetX
    tagclr tagclrX pref prefX prefL cctl cctlX cctlL puti putiX mma mmaX dmma dmmaX azero azeroX arel arelX ard ardX ardL awr
    awrX awrL adrain adrainX mfence mfenceX mwait mwaitX mwaitL bcopy bcopyX bcopym bcopymX qfence qfenceX route routeX coll
    collX seqgo seqgoX srec srecX srecL binit binitX binitL barv barvX barvL barvx barvxX barvxL bwait bwaitX btest btestX
    waitv waitvX waitvL tsrd tsrdX cntrd cntrdX get getX put putX sysget sysgetX sysgetL sysput sysputX sysputL launch cwait
    rte mapp tlbi wspill wfill dspill halt snop txc rxs rxc rxcf wflg sflg loopk jmpk setk addk cvtb sred putk loga seqend
    deviceReset bootImageCheck attestationRequest doorbell ringEnable ringRestart cmdLaunch cmdCopy cmdSequencerStart cmdWait
    cmdWaitTimeout cmdSignal cmdFence mgmtRegisterWrite lapprove preqRaise preqWithdraw fwLoad fwHandOver fwAbandon fwAlive
    aliveDeadlineExpiry islandStep islandGate groupStep streamStep debugResume seqHalt seqStep dispatchTeam dispatcherPreempt
    teamTaken swapOut teamResume resultWriteback yieldOverrun gridRetire engineFaultDelivery hostPageAnswer hostFaultAnswer
    matrixFifoHead accumulatorStarvation batchRetire adrainHandOver bargeDrain abortedDrain bcopyPerform bcopymPerform
    routePerform collPerform waitWake waitvRecheck waitTimeout readShared readOwn upgrade writeBack cleanEvict atomicAtHome
    fwdShared fwdOwn invalidate backInvalidate dataResponse ack retry snoopResponse l2Eviction shadowNote track untrack
    regionSweep requestReissue switchFailure recoveryWindowEnd invalidateResend hostSnoop bisnpResponse hostMemoryAccess
    flitReceive linkDown readyMessage readyRetry chunkMessage nackMessage rendezvousTimeout sredResult putMessage notifyAppend
    putAck creditReturn markEcho rateRecovery collectiveLaunchMessage collectiveCommit collectiveCancel abortMessage
    chunkComplete contextRunLimit wflgTimeout seqPageResolved collectiveEnd replay pairCompare pairTimeout uncorrectableError
    correctedError rowSpare powerLimit dtimeSync linkUp domainBringUp wflgRecheck cmdWaitSatisfied refusedByTarget
    combineReplayTimeout

end Sys2Proof.Laws.RoundTrip

namespace Sys2Proof.Proofs

/-- Settles O13: RoundTrip.Statement of each instruction, by its constructor. -/
theorem decodingInvertsEncoding : Obligations.decoding_inverts_encoding := Laws.RoundTrip.statement_holds

end Sys2Proof.Proofs
end

section
/-! Words written out (R73 to R91, R304), and the registers that read constants (R78, R109, R114). -/

namespace Sys2Proof.Proofs

open Sys2Proof.Machine

/-- Settles O12: the decoder is evaluated on each word. -/
theorem writtenWordsDecode : Obligations.written_words_decode := by
  unfold Obligations.written_words_decode
  decide

/-- Settles O16: the accessors test for the register's number, and no write is left to make. -/
theorem constantRegisters : Obligations.constant_registers :=
  fun _ _ _ _ _ => ⟨rfl, rfl, rfl, rfl, rfl, rfl, fun _ => rfl⟩

end Sys2Proof.Proofs
end

section
/-! Instruction fetch (R72, R95, R215) and the step of a stream (R72, R93, R122). -/

namespace Sys2Proof.Proofs

open Sys2Proof.Machine Sys2Proof.Safety Sys2Proof.Laws

/-! ### The word at an address -/

theorem tlbLookup_mem (cap : Nat) (old tlb : List TlbEntry) (space va : Nat) (w : Walk) (s : State) :
    (tlbLookup cap old tlb space va w s).2.2.2.mem = s.mem := by
  unfold tlbLookup
  extract_lets fill same now
  have hfill (l : List TlbEntry) (s : State) : (fill l s).2.mem = s.mem := by
    cases w with
    | leaf at_ e base size =>
      simp only [fill]
      split <;> rfl
    | invalid | bad => rfl
  have hnow (s : State) : (now s).2.2.2.mem = s.mem := by
    simp only [now]
    split
    · rfl
    · exact hfill _ s
  split
  · exact hnow s
  · split
    · exact hnow s
    · dsimp only
      split
      · rfl
      · exact hnow _

/-- A translation changes no byte of memory. -/
theorem translate_mem (s : State) (core : Nat) (ahead : Bool) (space va : Nat) :
    (Machine.translate s core ahead space va).2.2.mem = s.mem := by
  unfold Machine.translate translateFrom
  dsimp only
  rw [apply_ite State.mem, modCore_mem, ite_self]
  exact tlbLookup_mem ..

/-- The instruction cache gives the word of memory, but for an older copy that it holds; memory stays. -/
theorem icacheWord_new {s : State} {core pa : Nat}
    (h : ∀ line, kget (coreAt s core).icache (pa / 128) = some line → readN line pa 4 = readN s.mem pa 4) :
    ∃ v, icacheWord s core pa = (BitVec.ofNat 32 (readN s.mem pa 4), v) ∧ v.mem = s.mem := by
  unfold icacheWord
  cases hl : kget (coreAt s core).icache (pa / 128) with
  | none =>
    dsimp only
    split <;> exact ⟨_, rfl, rfl⟩
  | some line => exact ⟨s, by simp [h line hl], rfl⟩

section
variable {s u : State} {core space va : Nat} {w : Walk} {hit : Bool}

theorem fetchWord_outside (s : State) (core space : Nat) (hva : inGridSpace va = false) :
    fetchWord s core space va = (.fault 0 (va / 65536 * 65536), false, s) := by
  simp [fetchWord, hva]

theorem fetchWord_page {b : Nat} (hva : inGridSpace va = true) (ht : translate s core false space va = (w, hit, u))
    (hc : checkWalk u.pkg (some (dieOfCore core)) va needX w = .page b) :
    fetchWord s core space va = (.page b, !hit, u) := by
  simp [fetchWord, hva, ht, hc]

theorem fetchWord_access {d : Nat} (hva : inGridSpace va = true) (ht : translate s core false space va = (w, hit, u))
    (hc : checkWalk u.pkg (some (dieOfCore core)) va needX w = .access d) :
    fetchWord s core space va = (.fault d (walkBase w), !hit, u) := by
  simp [fetchWord, hva, ht, hc]

theorem fetchWord_refused {pa : Nat} {leaf : DWord} (hva : inGridSpace va = true)
    (ht : translate s core false space va = (w, hit, u))
    (hc : checkWalk u.pkg (some (dieOfCore core)) va needX w = .ok pa leaf) (hr : targetRefuses u pa = true) :
    fetchWord s core space va = (.fault 4 (walkBase w), !hit, u) := by
  simp [fetchWord, hva, ht, hc, hr]

/-- A fetch that neither its translation nor its target stops, and that no route holds up, gives the word of memory. -/
theorem fetchWord_word {pa : Nat} {leaf : DWord} (hva : inGridSpace va = true)
    (ht : translate s core false space va = (w, hit, u))
    (hc : checkWalk u.pkg (some (dieOfCore core)) va needX w = .ok pa leaf) (hr : targetRefuses u pa = false)
    (haw : accessAwaited u pa = true → (kget (coreAt u core).icache (pa / 128)).isSome = true)
    (hnew : ∀ line, kget (coreAt u core).icache (pa / 128) = some line → readN line pa 4 = readN u.mem pa 4) :
    ∃ v, fetchWord s core space va = (.ok (BitVec.ofNat 32 (readN u.mem pa 4)), !hit, v) ∧ v.mem = s.mem := by
  obtain ⟨v, hv, hmem⟩ := icacheWord_new hnew
  have hum : u.mem = s.mem := by
    have := translate_mem s core false space va
    rwa [ht] at this
  have hwait : (accessAwaited u pa && (kget (coreAt u core).icache (pa / 128)).isNone) = false := by
    cases ha : accessAwaited u pa with
    | false => rfl
    | true => simpa [Option.isSome_iff_ne_none] using haw ha
  exact ⟨v, by simp [fetchWord, hva, ht, hc, hr, hwait, hv], hmem.trans hum⟩

end

/-! ### The words of an instruction -/

section
variable {x : Ctx} {s v : State} {r : Fetched}

theorem fetchInstr_first_fails (hr : ∀ w, r ≠ .ok w) (hf : x.fetch s x.pc.toNat = (r, v)) :
    fetchInstr x s = (.inl (fetchStop x r v), v) := by
  unfold fetchInstr
  rw [hf]
  cases r with
  | ok w => exact absurd rfl (hr w)
  | page | fault | wait => rfl

/-- Where word 0 alone is not refused by a check of order 1 to 3, the failed fetch of a later word ends the fetch. -/
theorem fetchInstr_later_fails {w : Word} {t : State} (hf : x.fetch s x.pc.toNat = (.ok w, v))
    (hd : ∀ n, decode [w] = .reject n → 3 < n)
    (hm : x.fetchMore (lenWords (wordLen w) - 1) (x.pc.toNat + 4) v [w] = (.inl r, t)) :
    fetchInstr x s = (.inl (fetchStop x r t), t) := by
  unfold fetchInstr
  rw [hf]
  cases hw : decode [w] with
  | reject n => simp only [hw, hm, if_neg (Nat.not_le.mpr (hd n hw))]
  | ok i => simp only [hw, hm]

end

/-- Settles O10: a fetch is decided by the check of its translation, and a failed one by fetchStop. -/
theorem fetchGivesTheWordOfMemory : Obligations.fetch_gives_the_word_of_memory := by
  exact ⟨fun s core space va w hit u pa leaf => fetchWord_word, fun s core space va => fetchWord_outside s core space,
    fun s core space va w hit u hva ht => ⟨fun b => fetchWord_page hva ht, fun d => fetchWord_access hva ht,
      fun pa leaf => fetchWord_refused hva ht⟩,
    fun x s r v => fetchInstr_first_fails, fun x s w v r t => fetchInstr_later_fails,
    fun x s => ⟨fun b => rfl, fun d a => rfl⟩⟩

/-! ### The step of a stream -/

section
variable {s u : State} {x : Ctx} {l : List Word}

theorem runStream_takes_trap (hx : ctx? s = some x) (hi : x.inH = false) (ht : (x.g.split x.e).trap.isSome = true) :
    runStream s = .next (takeWaitingTrap s x) := by
  simp [runStream, hx, hi, ht]

theorem runStream_executes (hx : ctx? s = some x) (ht : x.inH = true ∨ (x.g.split x.e).trap = none)
    (hf : fetchInstr x s = (.inr l, u)) {i : Instr} (hd : decode l = .ok i) : runStream s = exec i u := by
  simp [runStream, hx, no_trap ht, hf, hd]

theorem runStream_illegal (hx : ctx? s = some x) (ht : x.inH = true ∨ (x.g.split x.e).trap = none)
    (hf : fetchInstr x s = (.inr l, u)) {n : Nat} (hd : decode l = .reject n) :
    runStream s = issueIllegal (wordY (l.getD 0 0)) n u := by
  simp [runStream, hx, no_trap ht, hf, hd]

theorem runStream_fetch_fails (hx : ctx? s = some x) (ht : x.inH = true ∨ (x.g.split x.e).trap = none) {t : State}
    (hf : fetchInstr x s = (.inl t, u)) : runStream s = .next t := by
  simp [runStream, hx, no_trap ht, hf]

end

/-- Settles O9: the turn is the stream's, and the stream takes its trap, or what its words decode to. -/
theorem stepRunsTheFetchedInstruction : Obligations.step_runs_the_fetched_instruction := by
  refine ⟨fun s rest u e ha => by rw [step, ha]; rfl,
    fun s c ha hc => by simp only [step, ha, runOn, hc], fun s x l u i hx ht hf => runStream_executes hx ht hf,
    fun s x l u n z hx ht hf hd hz => ?_, fun s x t u hx ht => runStream_fetch_fails hx ht,
    fun s x hx => runStream_takes_trap hx⟩
  intro how hfree htz
  rw [runStream_illegal hx ht hf hd]
  exact issue_illegal _ hz hfree htz rfl

end Sys2Proof.Proofs
end

section
/-! Branches (R84, R218, R343, R346, R389): where they go, and where they raise faults. -/

namespace Sys2Proof.Proofs

open Sys2Proof.Machine Sys2Proof.Safety

section
variable {x : Ctx} {t : DWord} {c : BitVec 3} {n : Bool} {j : BitVec 3} {len : Nat} {tg : Ctx → DWord}

/-! ### The meanings, case by case -/

theorem takeBranch_legal (s : State) (h : targetOk t = true) :
    takeBranch x s t = .flow (x.put s (branchTo x.g x x.sl t)) := by
  simp [takeBranch, h]

theorem takeBranch_illegal (s : State) (h : targetOk t = false) : takeBranch x s t = .fault s 0x12 0 0 := by
  simp [takeBranch, h]

theorem semBcu_taken (s : State) (h : ∀ k ∈ x.sl, (x.c k c.toNat != n) = true) :
    semBcu c n tg x s = takeBranch x s (tg x) := by
  rw [semBcu, if_pos (List.all_eq_true.mpr h)]

theorem semBcu_not_taken (s : State) (hl : x.sl ≠ []) (h : ∀ k ∈ x.sl, (x.c k c.toNat != n) = false) :
    semBcu c n tg x s = .done s := by
  obtain ⟨k, hk⟩ := List.exists_mem_of_ne_nil _ hl
  have hall : ¬ (x.sl.all fun k => x.c k c.toNat != n) = true := fun ha => by
    simpa [h k hk] using List.all_eq_true.mp ha k hk
  have hany : ¬ (x.sl.any fun k => x.c k c.toNat != n) = true := by simpa using h
  rw [semBcu, if_neg hall, if_neg hany]

theorem semBcu_disagrees (s : State) (ht : ∃ k ∈ x.sl, (x.c k c.toNat != n) = true)
    (hf : ∃ k ∈ x.sl, (x.c k c.toNat != n) = false) : semBcu c n tg x s = .fault s 0x14 0 0 := by
  have hall : ¬ (x.sl.all fun k => x.c k c.toNat != n) = true := by simpa using hf
  rw [semBcu, if_neg hall, if_pos (List.any_eq_true.mpr ht)]

theorem semJmpi_illegal {a : BitVec 7} (s : State) (h : ∃ k ∈ x.sl, targetOk (x.ss k a.toNat) = false) :
    semJmpi a x s = .fault s 0x12 0 0 := by
  have hall : (x.sl.all fun k => targetOk (x.ss k a.toNat)) = false := by simpa using h
  simp [semJmpi, hall]

theorem semJmpi_differs {a : BitVec 7} (s : State) (h : ∀ k ∈ x.sl, targetOk (x.ss k a.toNat) = true)
    (hd : ∃ k ∈ x.sl, x.ss k a.toNat ≠ x.ss x.low a.toNat) : semJmpi a x s = .fault s 0x13 0 0 := by
  have hall : (x.sl.all fun k => targetOk (x.ss k a.toNat)) = true := by simpa using h
  have hsame : (x.sl.all fun k => decide (x.ss k a.toNat = x.ss x.low a.toNat)) = false := by simpa using hd
  simp [semJmpi, hall, hsame]

theorem semJmpi_goes {a : BitVec 7} (s : State) (h : targetOk (x.ss x.low a.toNat) = true)
    (hs : ∀ k ∈ x.sl, x.ss k a.toNat = x.ss x.low a.toNat) :
    semJmpi a x s = .flow (x.put s (branchTo x.g x x.sl (x.ss x.low a.toNat))) := by
  have hall : (x.sl.all fun k => targetOk (x.ss k a.toNat)) = true := by
    simpa using fun k hk => (hs k hk).symm ▸ h
  have hsame : (x.sl.all fun k => decide (x.ss k a.toNat = x.ss x.low a.toNat)) = true := by simpa using hs
  simp [semJmpi, hall, hsame, takeBranch_legal s h]

theorem semBc_illegal (s : State) (h : targetOk (tg x) = false) (ht : ∃ k ∈ x.sl, (x.c k c.toNat != n) = true) :
    semBc c n j len tg x s = .fault s 0x12 0 0 := by
  have htt : (x.sl.filter fun k => x.c k c.toNat != n).isEmpty = false := by simpa using ht
  simp [semBc, htt, h]

theorem semBc_not_taken (s : State) (h : ∀ k ∈ x.sl, (x.c k c.toNat != n) = false) :
    semBc c n j len tg x s = .done s := by
  have htt : (x.sl.filter fun k => x.c k c.toNat != n) = [] := List.filter_eq_nil_iff.mpr (by simpa using h)
  simp [semBc, htt]

theorem semBc_taken (s : State) (hl : x.sl ≠ []) (h : ∀ k ∈ x.sl, (x.c k c.toNat != n) = true)
    (hok : targetOk (tg x) = true) : semBc c n j len tg x s = .flow (x.put s (branchTo x.g x x.sl (tg x))) := by
  have htt : (x.sl.filter fun k => x.c k c.toNat != n) = x.sl := List.filter_eq_self.mpr h
  have hff : (x.sl.filter fun k => !(x.c k c.toNat != n)) = [] :=
    List.filter_eq_nil_iff.mpr fun k hk => by simp only [h k hk]; decide
  simp only [semBc, htt, hff, hok, List.isEmpty_iff, hl]
  simp

theorem semBc_diverges_in_handler (s : State) (hi : x.inH = true) (hok : targetOk (tg x) = true)
    (ht : ∃ k ∈ x.sl, (x.c k c.toNat != n) = true) (hf : ∃ k ∈ x.sl, (x.c k c.toNat != n) = false) :
    semBc c n j len tg x s = .fault s 0x30 0 0 := by
  have htt : (x.sl.filter fun k => x.c k c.toNat != n).isEmpty = false := by simpa using ht
  have hff : (x.sl.filter fun k => !(x.c k c.toNat != n)).isEmpty = false := by simpa using hf
  simp only [semBc, htt, hff, hok, hi]
  simp

end

/-! ### Both forms, with an offset and with a literal target -/

section
variable {i : Instr} {how : IssueHow} {c : BitVec 3} {n : Bool} {j : BitVec 3} {len : Nat} {tg : Ctx → DWord}

theorem bra_flows (hi : runsAs i how (semBra tg)) : flowsTo i how fun x s u =>
    targetOk (tg x) = true ∧ u = x.put s (branchTo x.g x x.sl (tg x)) :=
  flowsTo_of_flow hi fun _ s _ ⟨hok, hu⟩ => hu ▸ takeBranch_legal s hok

theorem bra_faults (hi : runsAs i how (semBra tg)) : faultsWith i how 0x12 0 fun x _ => targetOk (tg x) = false :=
  faultsWith_of_fault hi fun _ s h => takeBranch_illegal s h

theorem bcu_flows (hi : runsAs i how (semBcu c n tg)) : flowsTo i how fun x s u =>
    (∀ k ∈ x.sl, (x.c k c.toNat != n) = true) ∧ targetOk (tg x) = true ∧ u = x.put s (branchTo x.g x x.sl (tg x)) :=
  flowsTo_of_flow hi fun _ s _ ⟨ht, hok, hu⟩ => hu ▸ (semBcu_taken s ht).trans (takeBranch_legal s hok)

theorem bcu_falls (hi : runsAs i how (semBcu c n tg)) : goesOn i how fun x s u =>
    x.sl ≠ [] ∧ (∀ k ∈ x.sl, (x.c k c.toNat != n) = false) ∧ u = s :=
  goesOn_of_done hi fun _ _ _ ⟨hl, hf, rfl⟩ => semBcu_not_taken _ hl hf

theorem bcu_faults_target (hi : runsAs i how (semBcu c n tg)) : faultsWith i how 0x12 0 fun x _ =>
    targetOk (tg x) = false ∧ ∀ k ∈ x.sl, (x.c k c.toNat != n) = true :=
  faultsWith_of_fault hi fun _ s ⟨hok, ht⟩ => (semBcu_taken s ht).trans (takeBranch_illegal s hok)

theorem bcu_faults_disagree (hi : runsAs i how (semBcu c n tg)) : faultsWith i how 0x14 0 fun x _ =>
    (∃ k ∈ x.sl, (x.c k c.toNat != n) = true) ∧ ∃ k ∈ x.sl, (x.c k c.toNat != n) = false :=
  faultsWith_of_fault hi fun _ s ⟨ht, hf⟩ => semBcu_disagrees s ht hf

theorem bc_flows (hi : runsAs i how (semBc c n j len tg)) : flowsTo i how fun x s u =>
    x.sl ≠ [] ∧ (∀ k ∈ x.sl, (x.c k c.toNat != n) = true) ∧ targetOk (tg x) = true ∧
      u = x.put s (branchTo x.g x x.sl (tg x)) :=
  flowsTo_of_flow hi fun _ s _ ⟨hl, ht, hok, hu⟩ => hu ▸ semBc_taken s hl ht hok

theorem bc_falls (hi : runsAs i how (semBc c n j len tg)) : goesOn i how fun x s u =>
    (∀ k ∈ x.sl, (x.c k c.toNat != n) = false) ∧ u = s :=
  goesOn_of_done hi fun _ _ _ ⟨hf, rfl⟩ => semBc_not_taken _ hf

theorem bc_faults_target (hi : runsAs i how (semBc c n j len tg)) : faultsWith i how 0x12 0 fun x _ =>
    targetOk (tg x) = false ∧ ∃ k ∈ x.sl, (x.c k c.toNat != n) = true :=
  faultsWith_of_fault hi fun _ s ⟨hok, ht⟩ => semBc_illegal s hok ht

theorem bc_faults_in_handler (hi : runsAs i how (semBc c n j len tg)) : faultsWith i how 0x30 0 fun x _ =>
    x.inH = true ∧ targetOk (tg x) = true ∧
      (∃ k ∈ x.sl, (x.c k c.toNat != n) = true) ∧ ∃ k ∈ x.sl, (x.c k c.toNat != n) = false :=
  faultsWith_of_fault hi fun _ s ⟨hh, hok, ht, hf⟩ => semBc_diverges_in_handler s hh hok ht hf

end

theorem runsAs_nop (y : Bool) : runsAs (.nop y) (howCtl (.nop y) y) fun _ s => .done s := fun _ => rfl

theorem runsAs_jmpi (y : Bool) (a : BitVec 7) : runsAs (.jmpi y a) (howCtl (.jmpi y a) y) (semJmpi a) := fun _ => rfl

/-- A target that is no multiple of 4 is illegal (R84). -/
theorem targetOk_misaligned {t : DWord} (h : t.toNat % 4 ≠ 0) : targetOk t = false := by
  simp [targetOk, h]

/-- Settles O23: each clause is the case of the branch's meaning in which its slices agree. -/
theorem branchesComplete : Obligations.branches_complete :=
  ⟨fun y => goesOn_of_done (runsAs_nop y) fun _ _ _ hu => by rw [hu],
    fun _ _ => bra_flows fun _ => rfl, fun _ _ => bra_flows fun _ => rfl,
    fun _ _ _ _ => bcu_flows fun _ => rfl, fun _ _ _ _ => bcu_falls fun _ => rfl,
    fun _ _ _ _ => bcu_flows fun _ => rfl, fun _ _ _ _ => bcu_falls fun _ => rfl,
    fun y a => flowsTo_of_flow (runsAs_jmpi y a) fun _ s _ ⟨hok, hs, hu⟩ => hu ▸ semJmpi_goes s hok hs,
    fun _ _ _ _ _ => bc_flows fun _ => rfl, fun _ _ _ _ _ => bc_falls fun _ => rfl,
    fun _ _ _ _ _ => bc_flows fun _ => rfl, fun _ _ _ _ _ => bc_falls fun _ => rfl⟩

/-- Settles O24: each clause is the case of the branch's meaning that raises its cause. -/
theorem branchesFault : Obligations.branches_fault :=
  ⟨fun _ _ => bra_faults fun _ => rfl, fun _ _ => bra_faults fun _ => rfl,
    fun _ _ _ _ _ => bc_faults_target fun _ => rfl, fun _ _ _ _ _ => bc_faults_target fun _ => rfl,
    fun _ _ _ _ => bcu_faults_target fun _ => rfl, fun _ _ _ _ => bcu_faults_target fun _ => rfl,
    fun _ => targetOk_misaligned,
    fun _ _ _ _ => bcu_faults_disagree fun _ => rfl, fun _ _ _ _ => bcu_faults_disagree fun _ => rfl,
    fun y a => faultsWith_of_fault (runsAs_jmpi y a) fun _ s h => semJmpi_illegal s h,
    fun y a => faultsWith_of_fault (runsAs_jmpi y a) fun _ s ⟨hok, hd⟩ => semJmpi_differs s hok hd,
    fun _ _ _ _ _ => bc_faults_in_handler fun _ => rfl, fun _ _ _ _ _ => bc_faults_in_handler fun _ => rfl⟩

end Sys2Proof.Proofs
end

section
/-! Local memory and the tag table (R193 to R196, R206 to R208, R242). -/

namespace Sys2Proof.Proofs

open Sys2Proof.Machine Sys2Proof.Safety Sys2Proof.Laws

/-- P of every form, where each form issues with a change of howOp and means sem of its operands. -/
theorem inForms3_of_sem_how {op : Nat} {b : BaseArgs → Instr} {l : BaseArgs → DWord → Instr} {e : ExtArgs → Instr}
    {P : Instr → IssueHow → ExtArgs → Prop} (sem : ExtArgs → Ctx → State → Res) (adj : ExtArgs → IssueHow → IssueHow)
    (hb : ∀ w, runsAs (b w) (adj (w.ext none) (howOp op false (w.ext none))) (sem (w.ext none)))
    (hl : ∀ w v, runsAs (l w v) (adj (w.ext (some v)) (howOp op false (w.ext (some v)))) (sem (w.ext (some v))))
    (he : ∀ w, runsAs (e w) (adj w (howOp op true w)) (sem w))
    (h : ∀ i how w, runsAs i (adj w how) (sem w) → P i how w) : inForms3 op b l e P :=
  ⟨⟨fun w => h _ _ _ (hb w), fun w => h _ _ _ (he w)⟩, fun w v => h _ _ _ (hl w v)⟩

/-! ### Local memory -/

section
variable {w : ExtArgs} {x : Ctx}

/-- Offsets that are aligned and inside local memory pass the checks of R205. -/
theorem checkLocal_ok {n : Nat} {l : List Nat} (h : localOk x n l) : checkLocal x n n l = none := by
  have halign : (l.any fun a => decide (a % n ≠ 0)) = false := by
    simpa using fun a ha => (h a ha).1
  have hin : (l.any fun a => decide (x.gr.launch.localSize < a + n)) = false := by
    simpa using fun a ha => (h a ha).2
  rw [checkLocal, halign, hin]
  rfl

theorem semLdl_ok (s : State) (h : localOk x (accessSize w) ((x.active w).map (x.eo w))) :
    semLdl w x s = .done (localLoaded x w s) := by
  simp only [semLdl, checkLocal_ok h]
  rfl

theorem semStl_ok (s : State) (h : localOk x (accessSize w) ((x.active w).map (x.eo w))) :
    semStl w x s = .done (localStored x w s) := by
  simp only [semStl, checkLocal_ok h]
  rfl

theorem semAtoml_ok (s : State) (h : localOk x (atomSize w) ((x.active w).map fun l => (x.v l w.a.toNat).toNat)) :
    semAtoml w x s = .done (localAtomics x w s) := by
  simp only [semAtoml, checkLocal_ok h]
  rfl

/-- Where no engine has written local memory behind the stream, each lane reads the bytes there (R242). -/
theorem localEach_seen (h : x.t.behind = []) (n c : Nat) (l : List (Nat × Nat)) :
    localEach x n c l = (l.map fun p => (p.1, readN x.t.mem p.2 n), []) := by
  have hbytes (c a : Nat) : localBytes x c a n = (readList x.t.mem a n, []) := by
    simp [localBytes, anyBehind, h, kget]
  induction l generalizing c with
  | nil => rfl
  | cons p l ih =>
    simp only [localEach, hbytes, ih]
    rfl

end

/-! ### The base forms of ATOML -/

/-- A base word of ATOML, with a literal or without, has SUB 0, which is no scope of ATOML (R76, R94, R208). -/
theorem opCheck_atoml_base (w : BaseArgs) (lit : Option DWord) (c : Option DecodeCtx) :
    opCheck 0xA7 false c (w.ext lit) = some 4 := by
  have hscope : atomScope (w.ext lit) = 0 := by simp [atomScope, BaseArgs.ext]
  have hsub : atomSubOk true false (w.ext lit) = false := by simp [atomSubOk, hscope]
  cases lit <;> simp [opCheck, opRow, opRowE, hsub]

/-- Such an instruction is illegal wherever it would issue. -/
theorem atoml_base_illegal {i : Instr} {how : IssueHow} {s : State} {x : Ctx}
    (hi : (∃ w, i = Instr.atoml w ∧ how = howOp 0xA7 false (w.ext none))
      ∨ ∃ w v, i = Instr.atomlL w v ∧ how = howOp 0xA7 false (w.ext (some v)))
    (hx : ctx? s = some x) (hf : free how x) (ht : x.inH = true ∨ (x.g.split x.e).trap = none) :
    exec i s = .next (streamFault (waitedState how x s) (waited how x) 0x10 4 0) := by
  rcases hi with ⟨w, rfl, rfl⟩ | ⟨w, v, rfl, rfl⟩
  · exact issue_illegal (how := howAtom (w.ext none) (howOp 0xA7 false (w.ext none))) _ hx hf ht (opCheck_atoml_base w none _)
  · exact issue_illegal (how := howAtom (w.ext (some v)) (howOp 0xA7 false (w.ext (some v)))) _ hx hf ht (opCheck_atoml_base w (some v) _)

/-! ### The tag table -/

section
variable {w : ExtArgs} {x : Ctx}

theorem semTagset_ok (s : State) (h : ∀ l ∈ x.active w, (x.v l w.d.toNat).toNat < 256) :
    let r := if repeats ((x.active w).map fun l => (x.v l w.a.toNat).toNat) then
        anyOrder (fun l => (x.v l w.a.toNat).toNat) (x.active w) s
      else anyOrder (fun l => (x.v l w.d.toNat).toNat) (x.active w) s
    semTagset w x s = .done (modTeam r.2 x.g.team fun t =>
      { t with tags := r.1.foldl (fun m l => tagSet m (x.v l w.d.toNat).toNat (x.v l w.a.toNat)) t.tags }) := by
  have hslot : ((x.active w).any fun l => decide (255 < (x.v l w.d.toNat).toNat)) = false := by
    simpa [Nat.le_iff_lt_add_one] using h
  simp only [semTagset, hslot]
  rfl

theorem semTagclr_ok (s : State) (h : ∀ l ∈ x.active w, (x.v l w.a.toNat).toNat < 256) :
    semTagclr w x s = .done (modTeam s x.g.team fun t =>
      { t with tags := (x.active w).foldl (fun m l => kdel m (x.v l w.a.toNat).toNat) t.tags }) := by
  have hslot : ((x.active w).any fun l => decide (255 < (x.v l w.a.toNat).toNat)) = false := by
    simpa [Nat.le_iff_lt_add_one] using h
  simp only [semTagclr, hslot]
  rfl

end

/-- Settles O33: an instruction whose offsets or slots pass their check acts on them, and a base ATOML fails its decode check. -/
theorem localMemoryCompletes : Obligations.local_memory_completes := by
  refine ⟨inForms3_of_sem semLdl (fun _ _ => rfl) (fun _ _ _ => rfl) (fun _ _ => rfl) fun i how w hi => ?_,
    fun x c n l h => localEach_seen h n c l,
    inForms3_of_sem_how semStl howRelease (fun _ _ => rfl) (fun _ _ _ => rfl) (fun _ _ => rfl) fun i how w hi => ?_,
    fun w => ?_, fun i how hi s x => atoml_base_illegal hi,
    inForms_of_sem semTagset (fun _ _ => rfl) (fun _ _ => rfl) fun i how w hi => ?_,
    inForms_of_sem semTagclr (fun _ _ => rfl) (fun _ _ => rfl) fun i how w hi => ?_⟩
  · exact goesOn_of_done hi fun x s u ⟨hok, hu⟩ => hu ▸ semLdl_ok s hok
  · exact goesOn_of_done hi fun x s u ⟨hok, hu⟩ => hu ▸ semStl_ok s hok
  · exact goesOn_of_done (body := semAtoml w) (fun _ => rfl) fun x s u ⟨hok, hu⟩ => hu ▸ semAtoml_ok s hok
  · exact goesOn_of_done hi fun x s u ⟨hok, hu⟩ => hu ▸ semTagset_ok s hok
  · exact goesOn_of_done hi fun x s u ⟨hok, hu⟩ => hu ▸ semTagclr_ok s hok

end Sys2Proof.Proofs
end

section
/-! Registers after a write to them (R109, R110, R114, R122). -/

namespace Sys2Proof.Proofs

open Sys2Proof.Machine Sys2Proof.Safety Sys2Proof.Laws

theorem fget_fset_same {w : Nat} {m : FMap w} (h : fwf m = true) (k : Nat) (v : BitVec w) : fget (fset m k v) k = v := by
  rw [fget_fset h, if_pos rfl]

/-- A predicate or a condition reads the lowest bit of what was written to it (R109). -/
theorem zeroExtend_lowestBit (v : Word) : (v.extractLsb' 0 1).zeroExtend 32 = v &&& 1 := by
  apply BitVec.eq_of_toNat_eq
  simp [Nat.and_one_is_mod]
  omega

/-- What a change of the running handler's bank makes of it is what the bank reads. -/
theorem bank_reads {o : Option Handler} {f : Handler → Handler} {π : Handler → Word} {u : Word} (ho : o.isSome = true)
    (hf : ∀ b, o = some b → π (f b) = u) : ((o.map f).map π).getD 0 = u := by
  obtain ⟨b, rfl⟩ := Option.isSome_iff_exists.mp ho
  exact hf b rfl

/-- A register that exists reads what was written to it: each file reads the key that the write stored at. -/
theorem reg_write_same {g : Group} (hg : groupOk g = true) {r : RegRef} (hr : refIn g r = true) (u : Word) :
    (g.write (r, u)).reg r = if oneBit r then u &&& 1 else u := by
  obtain ⟨hv, hp, -, -⟩ := (groupOk_iff g).mp hg
  have bit {m : FMap 1} (hm : fwf m = true) (k : Nat) :
      (fget (fset m k (u.extractLsb' 0 1)) k).zeroExtend 32 = u &&& 1 := by
    rw [fget_fset_same hm, zeroExtend_lowestBit]
  cases r with
  | v l n => exact fget_fset_same hv _ u
  | p l n => exact bit hp _
  | s k n =>
    simp only [refIn, decide_eq_true_eq] at hr
    simp only [write_s, Group.reg, slice_modSlice, hr, and_self, if_true]
    exact fget_fset_same (fwf_slice hg k).2 n u
  | c k n =>
    simp only [refIn, decide_eq_true_eq] at hr
    simp only [write_c, Group.reg, slice_modSlice, hr, and_self, if_true]
    exact bit (fwf_slice hg k).1 n
  | bv l n =>
    simp only [refIn, Bool.and_eq_true] at hr
    exact bank_reads hr.2 fun b hb => fget_fset_same (fwf_bank hg hb).1 _ u
  | bs k n =>
    simp only [refIn, Bool.and_eq_true] at hr
    exact bank_reads hr.2 fun b hb => fget_fset_same (fwf_bank hg hb).2.1 _ u
  | bp l n =>
    simp only [refIn, Bool.and_eq_true] at hr
    exact bank_reads hr.2 fun b hb => bit (fwf_bank hg hb).2.2.1 _
  | bc k n =>
    simp only [refIn, Bool.and_eq_true] at hr
    exact bank_reads hr.2 fun b hb => bit (fwf_bank hg hb).2.2.2 _

/-- Settles O17: the register that is written reads the value, and the keys of the others differ from its key. -/
theorem registerWriteAndRead : Obligations.register_write_and_read := by
  intro g r q v hg hr hq
  refine ⟨?_, groupOk_write hg _⟩
  split
  next h => rw [h]; exact reg_write_same hg hr v
  next h => exact reg_write_other hg hq hr (Ne.symm h)

end Sys2Proof.Proofs
end

section
/-! Taking a trap: the entry to the handler, and the wait for one that runs (R122, R132, R216, R217, R362). -/

namespace Sys2Proof.Proofs

open Sys2Proof.Machine Sys2Proof.Safety Sys2Proof.Laws

/-! ### What the entry to a handler sets -/

/-- V0 of each lane of the stream holds its number, and no other register of the bank anything (R122). -/
theorem fget_foldl_laneNumbers (lanes : List Nat) {m : FMap 32} (h : fwf m = true) (l : Nat) {n : Nat} (hn : n < 16) :
    fget (lanes.foldl (fun m l => fset m (l * 16) (BitVec.ofNat 32 l)) m) (l * 16 + n) =
      if n = 0 ∧ l ∈ lanes then BitVec.ofNat 32 l else fget m (l * 16 + n) := by
  induction lanes generalizing m with
  | nil => simp
  | cons k lanes ih =>
    rw [List.foldl_cons, ih (fset_wf h _ _), fget_fset h]
    by_cases hl : l = k
    · subst hl
      by_cases h0 : n = 0 <;> simp [h0]
    · have hkey : l * 16 + n ≠ k * 16 := by omega
      simp [hl, hkey]

theorem fget_bankV (lanes : List Nat) (l : Nat) {n : Nat} (hn : n < 16) :
    fget (bankV lanes) (l * 16 + n) = if n = 0 ∧ l ∈ lanes then BitVec.ofNat 32 l else 0 :=
  fget_foldl_laneNumbers lanes fwf_nil l hn

theorem setNeed_eq (g : Group) (need : List (Nat × Nat)) : g.setNeed need = { g with slices := (g.setNeed need).slices } := by
  induction need generalizing g with
  | nil => rfl
  | cons p need ih => exact ih (g.modSlice p.1 _)

theorem setNeed_length (g : Group) (need : List (Nat × Nat)) : (g.setNeed need).slices.length = g.slices.length := by
  induction need generalizing g with
  | nil => rfl
  | cons p need ih => exact (ih (g.modSlice p.1 _)).trans (List.length_modify ..)

theorem slice_setNeed_notMem (g : Group) {need : List (Nat × Nat)} {k : Nat} (hk : k ∉ need.map (·.1)) :
    (g.setNeed need).slice k = g.slice k := by
  induction need generalizing g with
  | nil => rfl
  | cons p need ih =>
    obtain ⟨hp, hneed⟩ : k ≠ p.1 ∧ k ∉ need.map (·.1) := by simpa only [List.map_cons, List.mem_cons, not_or] using hk
    refine (ih (g.modSlice p.1 _) hneed).trans ?_
    rw [slice_modSlice, if_neg fun h => hp h.1]

/-- A slice that a trap names once takes its need (R132). -/
theorem slice_setNeed_mem (g : Group) {need : List (Nat × Nat)} (hnd : (need.map (·.1)).Nodup) {k n : Nat}
    (hkn : (k, n) ∈ need) (hk : k < g.slices.length) : (g.setNeed need).slice k = { g.slice k with wneed := n } := by
  induction need generalizing g with
  | nil => cases hkn
  | cons p need ih =>
    obtain ⟨hp, hnd⟩ := List.nodup_cons.mp hnd
    rw [Group.setNeed, List.foldl_cons, ← Group.setNeed]
    rcases List.mem_cons.mp hkn with rfl | hkn
    · rw [slice_setNeed_notMem _ hp, slice_modSlice, if_pos ⟨rfl, hk⟩]
    · have hne : k ≠ p.1 := by rintro rfl; exact hp (List.mem_map_of_mem (f := (·.1)) hkn)
      rw [ih _ hnd hkn (by simpa [Group.modSlice, lmod] using hk), slice_modSlice, if_neg fun h => hne h.1]

/-! ### Where a trap goes -/

/-- The counters of R405 that a trap adds to: page faults and full stacks, of a team that is no shadow. -/
def trapCounted (s : State) (t : Team) (cause : Nat) : State :=
  if t.shadow then s else if cause = 1 then count s t.grid.toNat 13 1
  else if cause = 4 then count s t.grid.toNat 7 1 else s

/-- Counting an event of a grid moves no handler of it. -/
theorem handlerAddr_count (s : State) (h c n k cause : Nat) : handlerAddr (count s h c n) k cause = handlerAddr s k cause := by
  have hspace : (kget (count s h c n).grids k).bind (fun gr => kget s.spaces gr.space) =
      (kget s.grids k).bind fun gr => kget s.spaces gr.space := by
    unfold count
    split
    · rfl
    · rw [modGrid_grids, kget_kmod]
      split
      next hk => rw [hk]; cases kget s.grids h <;> rfl
      next => rfl
  have hspaces : (count s h c n).spaces = s.spaces := by
    unfold count
    split <;> rfl
  simp only [handlerAddr, hspaces, hspace]

theorem trapCounted_eq (s : State) (t : Team) (cause : Nat) :
    trapCounted s t cause = { s with grids := (trapCounted s t cause).grids } := by
  unfold trapCounted count
  (repeat' split) <;> rfl

theorem trapCounted_groups (s : State) (t : Team) (cause : Nat) : (trapCounted s t cause).groups = s.groups := by
  rw [trapCounted_eq]

theorem trapCounted_mem (s : State) (t : Team) (cause : Nat) : (trapCounted s t cause).mem = s.mem := by
  rw [trapCounted_eq]

theorem handlerAddr_trapCounted (s : State) (t : Team) (cause k c : Nat) :
    handlerAddr (trapCounted s t cause) k c = handlerAddr s k c := by
  unfold trapCounted
  split
  · rfl
  · split
    · exact handlerAddr_count ..
    · split
      · exact handlerAddr_count ..
      · rfl

section
variable {s : State} {u e c : Nat} {tr : Trap} {g : Group} {t : Team}

/-- A trap that its stream's handler is to run enters it where the partition is free, and waits where it is not. -/
theorem takeTrap_eq (hg : kget s.groups u = some g) (ht : kget s.teams g.team = some t) (hc : t.core = some c)
    (hon : handlerOn g e = false)
    (hpage : tr.cause = 1 → (∀ st, (g.split e).mapp ≠ some (st, tr.faddr)) ∧ hostMode s 0 = false)
    (haddr : handlerAddr s t.grid.toNat tr.cause ≠ 0) :
    takeTrap s u e tr = modGroup (trapCounted s t tr.cause) u fun g' =>
      if partitionBusy s c g.part then g'.modSplit e fun sp => { sp with trap := some tr }
      else g'.enterHandler e (handlerAddr s t.grid.toNat tr.cause) tr := by
  have hhost : ¬ (tr.cause = 1 ∧ hostMode (trapCounted s t tr.cause) 0 = true) := by
    rintro ⟨h1, h⟩
    rw [trapCounted_eq] at h
    exact Bool.false_ne_true ((hpage h1).2.symm.trans h)
  have hpassed : ¬ (tr.cause = 1 ∧ ((g.split e).mapp.any fun r => decide (r.2 = tr.faddr)) = true) := by
    rintro ⟨h1, h⟩
    obtain ⟨⟨st, a⟩, hmapp, ha⟩ := (Option.any_eq_true ..).mp h
    exact (hpage h1).1 st (hmapp.trans (congrArg some (Prod.ext rfl (of_decide_eq_true ha))))
  have hbusy : (t.core.any fun c => partitionBusy (trapCounted s t tr.cause) c g.part) = partitionBusy s c g.part := by
    rw [hc, trapCounted_eq]; rfl
  have haddr' := handlerAddr_trapCounted s t tr.cause t.grid.toNat tr.cause
  simp only [takeTrap, hg, ht, hon, Bool.false_eq_true, if_false]
  rw [← trapCounted, if_neg hhost, if_neg hpassed, haddr', if_neg haddr, hbusy]
  cases partitionBusy s c g.part <;> rfl

theorem kget_modGroup_trapCounted (hg : kget s.groups u = some g) (f : Group → Group) (cause : Nat) :
    kget (modGroup (trapCounted s t cause) u f).groups u = some (f g) := by
  rw [modGroup_groups, trapCounted_groups, kget_kmod, if_pos rfl, hg]
  rfl

end

/-- Settles O21: the stream's group after the trap is the one that has entered its handler, or that keeps the trap. -/
theorem takingATrap : Obligations.taking_a_trap := by
  intro s u e tr g t c hg ht hc hon hpage haddr
  rw [takeTrap_eq hg ht hc hon hpage haddr, modGroup_mem, trapCounted_mem]
  refine ⟨fun hfree => ?_, fun hbusy he => ?_⟩
  · rw [hfree]
    have hn := setNeed_eq g tr.need
    exact ⟨g.enterHandler e (handlerAddr s t.grid.toNat tr.cause) tr, _, kget_modGroup_trapCounted hg _ _, rfl, rfl, rfl, rfl,
      rfl, rfl, (congrArg Group.v hn :), (congrArg Group.p hn :), setNeed_length .., fun k hk => slice_setNeed_notMem g hk,
      fun k n hnd hkn hk => slice_setNeed_mem g hnd hkn hk, fun k n => ⟨rfl, rfl, rfl⟩, fun l n hn => fget_bankV _ l hn, rfl⟩
  · rw [hbusy]
    refine ⟨g.modSplit e fun sp => { sp with trap := some tr }, kget_modGroup_trapCounted hg _ _, ?_, rfl, rfl,
      fun k hk => ?_, rfl⟩
    · rw [split_modSplit, if_pos ⟨rfl, he⟩]
    · rw [split_modSplit, if_neg fun h => hk h.1]

end Sys2Proof.Proofs
end

section
/-! The state at reset (R135, R299, R335, R401, R410, R416). -/

namespace Sys2Proof.Proofs

open Sys2Proof.Machine

theorem coreAt_reset (c : Nat) : coreAt State.reset c = Core.init := rfl

/-- Every die's routing queue is empty at reset (R299). -/
theorem routeAt_reset (d : Nat) : routeAt State.reset d = [] :=
  match d with
  | 0 | 1 | 2 | 3 | _ + 4 => rfl

/-- Every sequencer is as it starts (R335). -/
theorem seqAt_reset (q : Nat) : seqAt State.reset q = Sequencer.init :=
  (List.getD_eq_getElem?_getD ..).trans (List.getElem?_getD_replicate_default_eq ..)

theorem ctxAt_reset (q k : Nat) : ctxAt State.reset q k = SeqCtx.init := by
  rw [ctxAt, seqAt_reset]
  match k with
  | 0 | 1 | 2 | 3 | _ + 4 => rfl

/-- Settles O8: the tables are empty, each core and sequencer is as it starts, and the registers have the values of R410. -/
theorem resetLeavesNoWork : Obligations.reset_leaves_no_work := by
  refine ⟨⟨rfl, rfl, rfl, rfl, rfl, rfl, rfl, rfl⟩, fun c => ?_, routeAt_reset, fun q k => ?_,
    ⟨rfl, rfl, rfl, rfl, rfl, rfl, rfl, rfl, rfl, rfl, rfl, rfl⟩, by decide⟩
  · rw [coreAt_reset]
    exact ⟨rfl, rfl, rfl, rfl, rfl, rfl, rfl⟩
  · rw [ctxAt_reset, seqAt_reset]
    exact ⟨rfl, rfl, rfl⟩

end Sys2Proof.Proofs
end

section
/-! Vector logic, bit counts, moves, bit fields, compares into predicates and selection (R123, R146, R149 to R153). -/

namespace Sys2Proof.Proofs

open Sys2Proof.Machine Sys2Proof.Safety Sys2Proof.Laws

/-! ### Instructions whose meaning is a list of register writes -/

/-- An instruction is issued with how, and what it does is to make the writes of r and raise its flags. -/
def writesAs (i : Instr) (how : IssueHow) (r : Ctx → List RegWrite × Flags) : Prop := ∀ s, exec i s = issueRegs how r s

section
variable {i : Instr} {how : IssueHow}

theorem writesNow_of_writesAs {r : Ctx → List RegWrite × Flags} (hi : writesAs i how r) : writesNow i how r := by
  intro s x h
  rw [hi, issueRegs_eq r h]

/-- Both forms of an instruction write what sem gives, where sem of its operands is what the statement gives. -/
theorem inForms_writesNow {op : Nat} {b : BaseArgs → Instr} {e : ExtArgs → Instr}
    (sem r : ExtArgs → Ctx → List RegWrite × Flags) (hr : ∀ w, sem w = r w)
    (hb : ∀ w, writesAs (b w) (howOp op false (w.ext none)) (sem (w.ext none)))
    (he : ∀ w, writesAs (e w) (howOp op true w) (sem w)) : inForms op b e fun i how w => writesNow i how (r w) := by
  obtain rfl : sem = r := funext hr
  exact ⟨fun w => writesNow_of_writesAs (hb w), fun w => writesNow_of_writesAs (he w)⟩

/-- The same with the base form that has a literal. -/
theorem inForms3_writesNow {op : Nat} {b : BaseArgs → Instr} {l : BaseArgs → DWord → Instr} {e : ExtArgs → Instr}
    (sem r : ExtArgs → Ctx → List RegWrite × Flags) (hr : ∀ w, sem w = r w)
    (hb : ∀ w, writesAs (b w) (howOp op false (w.ext none)) (sem (w.ext none)))
    (hl : ∀ w v, writesAs (l w v) (howOp op false (w.ext (some v))) (sem (w.ext (some v))))
    (he : ∀ w, writesAs (e w) (howOp op true w) (sem w)) : inForms3 op b l e fun i how w => writesNow i how (r w) := by
  obtain rfl : sem = r := funext hr
  exact ⟨inForms_writesNow sem sem hr hb he, fun w v => writesNow_of_writesAs (hl w v)⟩

end

/-! ### The meanings in the terms of the statements -/

/-- A two-source operation gives its values at the width of the type (R146). -/
theorem vecT_eq (w : ExtArgs) (f : {n : Nat} → BitVec n → BitVec n → BitVec n) :
    vecT w f = byType w (fun x l => f (x.a64 w l) (x.b64 w l)) fun x l => f (x.a32 w l) (x.b32 w l) := by
  funext x
  unfold vecT byType
  split <;> rfl

theorem vecT1_eq (w : ExtArgs) (f : {n : Nat} → BitVec n → BitVec n) :
    vecT1 w f = byType w (fun x l => f (x.a64 w l)) fun x l => f (x.a32 w l) := by
  funext x
  unfold vecT1 byType
  split <;> rfl

theorem semMov_eq (w : ExtArgs) : semMov w = byType w (fun x l => x.a64 w l) fun x l => x.a32 w l :=
  vecT1_eq w fun a => a

theorem semMoviX_eq (w : ExtArgs) : semMoviX w = if w.sub.getLsbD 0 then laneOp64 w fun _ _ => w.lit.getD 0
    else laneOp32 w fun _ _ => (w.lit.getD 0).extractLsb' 0 32 := by
  funext x
  unfold semMoviX
  split <;> rfl

/-- POPC counts the 1 bits (R149). -/
theorem popCount_eq {n : Nat} (a : BitVec n) : popCount a = (List.range n).countP fun i => a.getLsbD i := by
  have hfold (l : List Nat) (c : Nat) :
      l.foldl (fun c i => if a.getLsbD i then c + 1 else c) c = c + l.countP fun i => a.getLsbD i := by
    induction l generalizing c with
    | nil => rfl
    | cons i l ih =>
      rw [List.foldl_cons, ih, List.countP_cons]
      split <;> omega
  rw [popCount, hfold, Nat.zero_add]

theorem semPopc_eq (w : ExtArgs) : semPopc w = laneOp32 w fun x l => BitVec.ofNat 32 (if tWide w then
    (List.range 64).countP fun i => (x.a64 w l).getLsbD i else (List.range 32).countP fun i => (x.a32 w l).getLsbD i) := by
  simp only [semPopc, popCount_eq]

/-- AUX[2:0] as the number of a predicate. -/
theorem auxSel_eq (w : ExtArgs) : auxSel w = w.aux.toNat % 8 := by simp [auxSel]

theorem semIcmpp_eq (w : ExtArgs) : semIcmpp w = fun x => ((x.active w).flatMap fun l => x.wp l (cdDest w) (combineBit (combOf w)
    (if w.sub.getLsbD 0 then intCompare (cdCode w) (x.a64 w l) (x.b64 w l) else intCompare (cdCode w) (x.a32 w l) (x.b32 w l))
    (x.p l (w.aux.toNat % 8) != w.aux.getLsbD 3)), 0) := by
  funext x
  rw [semIcmpp, auxSel_eq]
  rfl

theorem semSel_eq (w : ExtArgs) : semSel w = laneOp32 w fun x l =>
    if x.p l (w.aux.toNat % 8) != w.aux.getLsbD 3 then x.a32 w l else x.b32 w l := by
  rw [semSel, auxSel_eq]
  rfl

/-- The operations of PSET by its SUB (R153). -/
theorem semPset_eq (w : ExtArgs) : semPset w = fun x => ((x.active w).flatMap fun l => x.wp l w.d.toNat
    (if w.sub = 0 then x.p l w.a.toNat && x.p l w.b.toNat else if w.sub = 1 then x.p l w.a.toNat || x.p l w.b.toNat
      else if w.sub = 2 then x.p l w.a.toNat != x.p l w.b.toNat else if w.sub = 3 then x.p l w.a.toNat && !x.p l w.b.toNat
      else x.p l w.a.toNat), 0) := by
  have hsub (k : BitVec 10) : w.sub = k ↔ w.sub.toNat = k.toNat := BitVec.toNat_inj.symm
  funext x
  simp only [semPset, hsub]
  generalize w.sub.toNat = n
  match n with
  | 0 | 1 | 2 | 3 => rfl
  | n + 4 => simp

/-- Settles O4: the meaning of each instruction, at the width of its type where it has one, is the one stated. -/
theorem vectorBitAndSelectResults : Obligations.vector_bit_and_select_results :=
  ⟨fun _ _ _ => writesNow_of_writesAs fun _ => rfl, fun _ _ _ => writesNow_of_writesAs fun _ => rfl,
    fun w => semMoviX_eq w ▸ writesNow_of_writesAs fun _ => rfl,
    inForms3_writesNow semAnd _ (fun w => vecT_eq w _) (fun _ _ => rfl) (fun _ _ _ => rfl) fun _ _ => rfl,
    inForms3_writesNow semOr _ (fun w => vecT_eq w _) (fun _ _ => rfl) (fun _ _ _ => rfl) fun _ _ => rfl,
    inForms3_writesNow semXor _ (fun w => vecT_eq w _) (fun _ _ => rfl) (fun _ _ _ => rfl) fun _ _ => rfl,
    inForms_writesNow semNot _ (fun w => vecT1_eq w _) (fun _ _ => rfl) fun _ _ => rfl,
    inForms_writesNow semBrev _ (fun w => vecT1_eq w _) (fun _ _ => rfl) fun _ _ => rfl,
    inForms_writesNow semPopc _ semPopc_eq (fun _ _ => rfl) fun _ _ => rfl,
    inForms_writesNow semClz _ (fun _ => rfl) (fun _ _ => rfl) fun _ _ => rfl,
    inForms_writesNow semMov _ semMov_eq (fun _ _ => rfl) fun _ _ => rfl,
    inForms3_writesNow semBfe _ (fun _ => rfl) (fun _ _ => rfl) (fun _ _ _ => rfl) fun _ _ => rfl,
    inForms3_writesNow semBfi _ (fun _ => rfl) (fun _ _ => rfl) (fun _ _ _ => rfl) fun _ _ => rfl,
    inForms3_writesNow semIcmpp _ semIcmpp_eq (fun _ _ => rfl) (fun _ _ _ => rfl) fun _ _ => rfl,
    inForms3_writesNow semSel _ semSel_eq (fun _ _ => rfl) (fun _ _ _ => rfl) fun _ _ => rfl,
    inForms_writesNow semPset _ semPset_eq (fun _ _ => rfl) fun _ _ => rfl⟩

end Sys2Proof.Proofs
end

section
/-! TSRD, CNTRD, GET and PUT, and the state registers (R118 to R121, R125, R402, R406). -/

namespace Sys2Proof.Proofs

open Sys2Proof.Machine Sys2Proof.Safety Sys2Proof.Laws

/-- P of the base and the extended form, where each issues with a change of howOp and means sem of its operands. -/
theorem inForms_of_sem_how {op : Nat} {b : BaseArgs → Instr} {e : ExtArgs → Instr} {P : Instr → IssueHow → ExtArgs → Prop}
    (sem : ExtArgs → Ctx → State → Res) (adj : ExtArgs → IssueHow → IssueHow)
    (hb : ∀ w, runsAs (b w) (adj (w.ext none) (howOp op false (w.ext none))) (sem (w.ext none)))
    (he : ∀ w, runsAs (e w) (adj w (howOp op true w)) (sem w))
    (h : ∀ i how w, runsAs i (adj w how) (sem w) → P i how w) : inForms op b e P :=
  ⟨fun w => h _ _ _ (hb w), fun w => h _ _ _ (he w)⟩

/-! ### The meanings, case by case -/

/-- An instruction that acts once has its effect, or is a NOP without an active lane (R80). -/
theorem once_done {w : ExtArgs} {x : Ctx} {s u v : State}
    (h : onceTo w (fun _ _ u => u = v) x s u) : once w x s (.done v) = .done u := by
  unfold onceTo at h
  unfold once
  split at h
  next hn => rw [if_pos hn, h]
  next hn => rw [if_neg hn, h]

/-- The half of a counter that CNTRD reads by the lowest bit of its operand (R406). -/
theorem counterWord_eq (v : DWord) (i : Nat) :
    (if i % 2 = 0 then v.extractLsb' 0 32 else v.extractLsb' 32 32 : Word) = v.extractLsb' (32 * (i % 2)) 32 := by
  rcases Nat.mod_two_eq_zero_or_one i with h | h <;> simp [h]

theorem semCntrd_eq (w : ExtArgs) (x : Ctx) (s : State) : semCntrd w x s = once w x s (.done (x.put s (x.g.writes
    (x.sl.flatMap fun k => x.ws k w.d.toNat
      ((x.gr.counters.getD (w.a.toNat / 2) 0).extractLsb' (32 * (w.a.toNat % 2)) 32))))) := by
  simp only [semCntrd, counterWord_eq]
  rfl

theorem semGet_privileged {w : ExtArgs} {x : Ctx} (s : State) (hn : handlerReg w.a.toNat = true) (hx : x.inH = false) :
    semGet w x s = .fault s 0x11 0 0 := by
  simp [semGet, hn, hx]

theorem semGet_reads {w : ExtArgs} {x : Ctx} (s : State) (h : handlerReg w.a.toNat = true → x.inH = true) :
    semGet w x s = .done (x.put s (x.g.writes (x.sl.flatMap fun k => x.ws k w.d.toNat (x.stateReg s w.a.toNat k)))) := by
  have hallowed : (handlerReg w.a.toNat && !x.inH) = false := by
    cases hn : handlerReg w.a.toNat with
    | false => rfl
    | true => simp [h hn]
  simp only [semGet, hallowed, Bool.false_eq_true, if_false]

/-- PUT writes fstat and the two scratch registers, and no other one (R121). -/
theorem semPut_eq (w : ExtArgs) (x : Ctx) (s : State) : semPut w x s = .done (x.put s
    (if w.d.toNat = 11 then x.g.putFstat x.e ((x.s x.low w.a.toNat).extractLsb' 0 6)
      else if w.d.toNat = 21 then { x.g with scratch0 := x.s x.low w.a.toNat }
      else if w.d.toNat = 22 then { x.g with scratch1 := x.s x.low w.a.toNat } else x.g)) := by
  rw [semPut]
  split
  next h => simp [h]
  next h => simp [h]
  next h => simp [h]
  next h0 h1 h2 => rw [if_neg h0, if_neg h1, if_neg h2]

/-! ### The state registers -/

/-- The two words of a pair make it. -/
theorem hiWord_append_loWord (v : DWord) : hiWord v ++ loWord v = v :=
  (BitVec.extractLsb'_append_extractLsb'_eq_extractLsb' (start₁ := 0) (start₂ := 32) rfl).trans BitVec.extractLsb'_eq_self

theorem handlerReg_iff (n : Nat) : handlerReg n = true ↔ n ∈ [18, 19, 20, 24, 25, 26] := List.contains_iff_mem

/-- Settles O44: each clause is the case of the instruction's meaning that it names, or the definition of its register. -/
theorem stateRegistersComplete : Obligations.state_registers_complete := by
  refine ⟨inForms_of_sem semTsrd (fun _ _ => rfl) (fun _ _ => rfl) fun i how w hi => ?_,
    inForms_of_sem semCntrd (fun _ _ => rfl) (fun _ _ => rfl) fun i how w hi => ?_,
    inForms_of_sem_how semGet howGet (fun _ _ => rfl) (fun _ _ => rfl) fun i how w hi => ?_, fun x s k => ?_, handlerReg_iff,
    inForms_of_sem_how semGet howGet (fun _ _ => rfl) (fun _ _ => rfl) fun i how w hi => ?_,
    inForms_of_sem semPut (fun _ _ => rfl) (fun _ _ => rfl) fun i how w hi => ?_, fun g e v => ?_⟩
  · exact goesOn_of_done hi fun x s u h => once_done h
  · exact goesOn_of_done hi fun x s u h => (semCntrd_eq w x s).trans (once_done h)
  · exact goesOn_of_done hi fun x s u ⟨ha, hu⟩ => hu ▸ semGet_reads s ha
  · exact ⟨rfl, rfl, rfl, rfl, rfl, rfl, rfl, rfl, hiWord_append_loWord _, rfl, rfl, rfl, rfl, rfl, rfl, rfl, rfl, rfl,
      hiWord_append_loWord _, rfl, rfl, rfl, hiWord_append_loWord _⟩
  · exact faultsWith_of_fault hi fun x s ⟨hn, hx⟩ => semGet_privileged s hn hx
  · exact goesOn_of_done hi fun x s u hu => hu ▸ semPut_eq w x s
  · refine ⟨rfl, fun r => by cases r <;> rfl, fun k hk => ?_, fun he => ?_⟩
    · exact (split_modSplit ..).trans (if_neg fun h => hk h.1)
    · exact (split_modSplit ..).trans (if_pos ⟨rfl, he⟩)

end Sys2Proof.Proofs
end

section
/-! CALL, CALLI and RET (R126 to R129, R134, R389): where they go, and where they fault or trap. -/

namespace Sys2Proof.Proofs

open Sys2Proof.Machine Sys2Proof.Safety Sys2Proof.Laws

theorem modSlices_congr (g : Group) {l : List Nat} {f f' : Nat → Slice → Slice} (h : ∀ k ∈ l, f k = f' k) :
    g.modSlices l f = g.modSlices l f' :=
  List.foldl_ext _ _ _ fun _ k hk => by rw [h k hk]

theorem low_mem {x : Ctx} (h : x.sl ≠ []) : x.low ∈ x.sl := by
  unfold Ctx.low
  cases hl : x.sl with
  | nil => exact absurd hl h
  | cons k l => simp

/-! ### Calls -/

section
variable {n len : Nat} {indirect : Bool} {tg : Ctx → Nat → DWord} {x : Ctx}

theorem semCall_illegal (s : State) (h : ∃ k ∈ x.sl, targetOk (tg x k) = false) :
    semCall n len indirect tg x s = .fault s 0x12 0 0 := by
  have hall : (x.sl.all fun k => targetOk (tg x k)) = false := by simpa using h
  simp [semCall, hall]

theorem semCall_differs (s : State) (h : ∀ k ∈ x.sl, targetOk (tg x k) = true) (hd : ∃ k ∈ x.sl, tg x k ≠ tg x x.low) :
    semCall n len true tg x s = .fault s 0x13 0 0 := by
  have hall : (x.sl.all fun k => targetOk (tg x k)) = true := by simpa using h
  have hsame : (x.sl.all fun k => decide (tg x k = tg x x.low)) = false := by simpa using hd
  simp [semCall, hall, hsame]

/-- The slices' targets are legal and one (R127), so that the checks of semCall on them pass. -/
def oneTarget (tg : Ctx → Nat → DWord) (x : Ctx) : Prop := ∀ k ∈ x.sl, targetOk (tg x k) = true ∧ tg x k = tg x x.low

theorem targets_pass (h : oneTarget tg x) (indirect : Bool) : (x.sl.all fun k => targetOk (tg x k)) = true ∧
    (indirect && !(x.sl.all fun k => decide (tg x k = tg x x.low))) = false := by
  have hsame : (x.sl.all fun k => decide (tg x k = tg x x.low)) = true := by simpa using fun k hk => (h k hk).2
  exact ⟨by simpa using fun k hk => (h k hk).1, by simp [hsame]⟩

theorem semCall_overflows (s : State) (ht : oneTarget tg x)
    (h : ∃ k ∈ x.sl, 2 ^ 20 < (x.g.slice k).wb + slideOf n + x.g.nregs) :
    semCall n len indirect tg x s = .fault s 0x15 0 0 := by
  obtain ⟨hok, hsame⟩ := targets_pass ht indirect
  have hover : (x.sl.any fun k => decide (2 ^ 20 < (x.g.slice k).wb + slideOf n + x.g.nregs)) = true := by simpa using h
  simp only [semCall, hok, hsame, hover, Bool.not_true, Bool.false_eq_true, if_false, if_true]

/-- The stack of every slice stays within 2^20 registers (R128). -/
theorem stack_fits (h : ∀ k ∈ x.sl, (x.g.slice k).wb + slideOf n + x.g.nregs ≤ 2 ^ 20) :
    (x.sl.any fun k => decide (2 ^ 20 < (x.g.slice k).wb + slideOf n + x.g.nregs)) = false := by
  simpa using h

/-- A call whose new window is not resident in some slices takes trap 2 for them (R128). -/
theorem semCall_traps (s : State) (ht : oneTarget tg x)
    (hfit : ∀ k ∈ x.sl, (x.g.slice k).wb + slideOf n + x.g.nregs ≤ 2 ^ 20) {need : List Nat}
    (hneed : need = x.sl.filter fun k => decide ((x.g.slice k).rb + x.g.alloc < (x.g.slice k).wb + slideOf n + x.g.nregs))
    (h : need ≠ []) : semCall n len indirect tg x s = .trap s
      { cause := 2, detail := 0, faddr := 0, fmask := laneMask (need.flatMap sliceLanes)
        need := need.map fun k => (k, ((x.g.slice k).wb + slideOf n + x.g.nregs - (x.g.slice k).rb - x.g.alloc) / 8) } := by
  obtain ⟨hok, hsame⟩ := targets_pass ht indirect
  have hpast : (x.sl.any fun k =>
      decide ((x.g.slice k).rb + x.g.alloc < (x.g.slice k).wb + slideOf n + x.g.nregs)) = true := by
    obtain ⟨k, hk⟩ := List.exists_mem_of_ne_nil _ h
    exact List.any_eq_true.mpr ⟨k, List.mem_filter.mp (hneed ▸ hk)⟩
  simp only [semCall, hok, hsame, stack_fits hfit, hpast, ← hneed, Bool.not_true, Bool.false_eq_true, if_false, if_true]

theorem semCall_goes (s : State) (ht : oneTarget tg x) (hfit : callFits x n) :
    semCall n len indirect tg x s = .flow (x.put s (called x n len (tg x x.low))) := by
  obtain ⟨hok, hsame⟩ := targets_pass ht indirect
  have hpast : (x.sl.any fun k =>
      decide ((x.g.slice k).rb + x.g.alloc < (x.g.slice k).wb + slideOf n + x.g.nregs)) = false := by
    simpa using fun k hk => (hfit k hk).2
  simp only [semCall, hok, hsame, stack_fits fun k hk => (hfit k hk).1, hpast, Bool.not_true, Bool.false_eq_true, if_false]
  rfl

end

theorem runsAs_callOffset (y : Bool) (n : BitVec 8) (off : BitVec 13) :
    runsAs (.call y n off) (howCall (.call y n off) y n.toNat)
      (semCall n.toNat 4 false fun x _ => x.pc + off.signExtend 64 * 4) := fun _ => rfl

theorem runsAs_callLit (y : Bool) (n : BitVec 8) (v : DWord) :
    runsAs (.callL y n v) (howCall (.callL y n v) y n.toNat) (semCall n.toNat 12 false fun _ _ => v) := fun _ => rfl

theorem runsAs_calli (y : Bool) (n : BitVec 8) (a : BitVec 7) :
    runsAs (.calli y n a) (howCall (.calli y n a) y n.toNat) (semCall n.toNat 4 true fun x k => x.ss k a.toNat) := fun _ => rfl

/-- Each form of a call issues with semCall of its slide, length and targets. -/
theorem runsAs_call {i : Instr} {how : IssueHow} {n len : Nat} {tgt : Ctx → Nat → DWord} (h : callForm i how n len tgt) :
    ∃ indirect, runsAs i how (semCall n len indirect tgt) := by
  rcases h with ⟨y, m, off, rfl, rfl, rfl, rfl, rfl⟩ | ⟨y, m, v, rfl, rfl, rfl, rfl, rfl⟩ | ⟨y, m, a, rfl, rfl, rfl, rfl, rfl⟩
  · exact ⟨false, runsAs_callOffset y m off⟩
  · exact ⟨false, runsAs_callLit y m v⟩
  · exact ⟨true, runsAs_calli y m a⟩

/-! ### Returns -/

theorem runsAs_ret (y : Bool) : runsAs (.ret y) (howCtl (.ret y) y) semRet := fun _ => rfl

section
variable {x : Ctx} {n : Nat → Nat} {ret : Nat → DWord} {loops : Nat → List LoopEntry}

/-- The link of every slice is resident (R129). -/
def linksResident (x : Ctx) : Prop := ∀ k ∈ x.sl, (x.g.slice k).rb + 8 ≤ (x.g.slice k).wb

/-- The link of every slice is well-formed, and holds these slides, return addresses and loops (R127, R129). -/
def linksHold (x : Ctx) (n : Nat → Nat) (ret : Nat → DWord) (loops : Nat → List LoopEntry) : Prop :=
  ∀ k ∈ x.sl, readLink x.g k ((x.g.slice k).wb - 8) (x.g.slice k).wb = some (n k, ret k, loops k)

theorem semRet_empty (s : State) (h : ∃ k ∈ x.sl, (x.g.slice k).wb = 0) : semRet x s = .fault s 0x16 0 0 := by
  have hzero : (x.sl.any fun k => decide ((x.g.slice k).wb = 0)) = true := by simpa using h
  simp only [semRet, hzero, if_true]

/-- Resident links leave no stack empty. -/
theorem linksResident.pass (h : linksResident x) : (x.sl.any fun k => decide ((x.g.slice k).wb = 0)) = false ∧
    (x.sl.any fun k => decide ((x.g.slice k).wb < (x.g.slice k).rb + 8)) = false :=
  ⟨by simpa using fun k hk => by have := h k hk; omega, by simpa [linksResident] using h⟩

theorem semRet_bad_link (s : State) (hr : linksResident x)
    (h : ∃ k ∈ x.sl, readLink x.g k ((x.g.slice k).wb - 8) (x.g.slice k).wb = none) : semRet x s = .fault s 0x17 0 0 := by
  obtain ⟨hzero, hlow⟩ := hr.pass
  have hbad : (x.sl.any fun k => (readLink x.g k ((x.g.slice k).wb - 8) (x.g.slice k).wb).isNone) = true := by simpa using h
  simp only [semRet, hzero, hlow, hbad, Bool.false_eq_true, if_false, if_true]

/-- The trap of a fill names the slices whose window lies below lo, with the units of 8 registers that they lack (R129, R134). -/
theorem fillTrap_eq (s : State) {l : List Nat} {p wb lo : Nat → Nat} (hp : ∀ k ∈ l, p k = lo k - wb k) :
    let lacking := l.filter fun k => decide (0 < p k)
    let need := l.filter fun k => decide (wb k < lo k)
    Res.trap s ⟨3, 0, 0, laneMask (lacking.flatMap sliceLanes), lacking.map fun k => (k, p k / 8)⟩ =
      .trap s ⟨3, 0, 0, laneMask (need.flatMap sliceLanes), need.map fun k => (k, (lo k - wb k) / 8)⟩ := by
  intro lacking need
  have hsame : lacking = need := List.filter_congr fun k hk => by
    rw [hp k hk]
    exact decide_eq_decide.mpr Nat.sub_pos_iff_lt
  have hunits : (need.map fun k => (k, p k / 8)) = need.map fun k => (k, (lo k - wb k) / 8) :=
    List.map_congr_left fun k hk => by rw [hp k (List.mem_filter.mp hk).1]
  rw [hsame, hunits]

theorem semRet_link_traps (s : State) (h0 : ∀ k ∈ x.sl, (x.g.slice k).wb ≠ 0) {need : List Nat}
    (hneed : need = x.sl.filter fun k => decide ((x.g.slice k).wb < (x.g.slice k).rb + 8)) (h : need ≠ []) :
    semRet x s = .trap s
      { cause := 3, detail := 0, faddr := 0, fmask := laneMask (need.flatMap sliceLanes)
        need := need.map fun k => (k, ((x.g.slice k).rb + 8 - (x.g.slice k).wb) / 8) } := by
  have hzero : (x.sl.any fun k => decide ((x.g.slice k).wb = 0)) = false := by simpa using h0
  have hlow : (x.sl.any fun k => decide ((x.g.slice k).wb < (x.g.slice k).rb + 8)) = true := by
    obtain ⟨k, hk⟩ := List.exists_mem_of_ne_nil _ h
    exact List.any_eq_true.mpr ⟨k, List.mem_filter.mp (hneed ▸ hk)⟩
  simp only [semRet, hzero, hlow, Bool.false_eq_true, if_false, if_true]
  rw [hneed]
  exact fillTrap_eq s fun _ _ => rfl

/-- Well-formed links pass the check of R129. -/
theorem linksHold.pass (h : linksHold x n ret loops) :
    (x.sl.any fun k => (readLink x.g k ((x.g.slice k).wb - 8) (x.g.slice k).wb).isNone) = false := by
  simpa using fun k hk => by simp [h k hk]

/-- What semRet takes of a slice's link: its return address, and the slide. -/
theorem linksHold.fields (h : linksHold x n ret loops) {k : Nat} (hk : k ∈ x.sl) :
    ((readLink x.g k ((x.g.slice k).wb - 8) (x.g.slice k).wb).map (·.2.1)).getD 0 = ret k ∧
      slideOf (((readLink x.g k ((x.g.slice k).wb - 8) (x.g.slice k).wb).map (·.1)).getD 0) = slideOf (n k) ∧
      ((readLink x.g k ((x.g.slice k).wb - 8) (x.g.slice k).wb).map (·.2.2)).getD [] = loops k := by
  simp [h k hk]

theorem semRet_links_differ (s : State) (hr : linksResident x) (hl : linksHold x n ret loops)
    (h : ∃ k ∈ x.sl, ∃ k' ∈ x.sl, ret k ≠ ret k') : semRet x s = .fault s 0x17 0 0 := by
  obtain ⟨hzero, hlow⟩ := hr.pass
  obtain ⟨k, hk, k', hk', hne⟩ := h
  have hret (j : Nat) (hj : j ∈ x.sl) := (hl.fields hj).1
  have hfst : x.low ∈ x.sl := low_mem (List.ne_nil_of_mem hk)
  have hsame : (x.sl.all fun k => decide (((readLink x.g k ((x.g.slice k).wb - 8) (x.g.slice k).wb).map (·.2.1)).getD 0 =
      ((readLink x.g x.low ((x.g.slice x.low).wb - 8) (x.g.slice x.low).wb).map (·.2.1)).getD 0)) = false := by
    rw [Bool.eq_false_iff]
    intro hall
    have hlowest (j : Nat) (hj : j ∈ x.sl) : ret j = ret x.low := by
      have := of_decide_eq_true (List.all_eq_true.mp hall j hj)
      rwa [hret j hj, hret _ hfst] at this
    exact hne ((hlowest k hk).trans (hlowest k' hk').symm)
  simp only [semRet, hzero, hlow, hl.pass, hsame, Bool.false_eq_true, if_false, Bool.not_false, if_true]

/-- Links that give one return address pass the check of R129. -/
theorem linksHold.one_return {a : DWord} (h : linksHold x n (fun _ => a) loops) :
    (x.sl.all fun k => decide (((readLink x.g k ((x.g.slice k).wb - 8) (x.g.slice k).wb).map (·.2.1)).getD 0 =
      ((readLink x.g x.low ((x.g.slice x.low).wb - 8) (x.g.slice x.low).wb).map (·.2.1)).getD 0)) = true :=
  List.all_eq_true.mpr fun _ hk =>
    decide_eq_true ((h.fields hk).1.trans (h.fields (low_mem (List.ne_nil_of_mem hk))).1.symm)

theorem semRet_window_traps (s : State) {a : DWord} (hr : linksResident x) (hl : linksHold x n (fun _ => a) loops)
    {need : List Nat} (hneed : need = x.sl.filter fun k => decide ((x.g.slice k).wb < (x.g.slice k).rb + slideOf (n k)))
    (h : need ≠ []) : semRet x s = .trap s
      { cause := 3, detail := 0, faddr := 0, fmask := laneMask (need.flatMap sliceLanes)
        need := need.map fun k => (k, ((x.g.slice k).rb + slideOf (n k) - (x.g.slice k).wb) / 8) } := by
  obtain ⟨hzero, hlow⟩ := hr.pass
  have hshort : (x.sl.any fun k => decide ((x.g.slice k).wb < (x.g.slice k).rb +
      slideOf (((readLink x.g k ((x.g.slice k).wb - 8) (x.g.slice k).wb).map (·.1)).getD 0))) = true := by
    obtain ⟨k, hk⟩ := List.exists_mem_of_ne_nil _ h
    obtain ⟨hk, hlt⟩ := List.mem_filter.mp (hneed ▸ hk)
    exact List.any_eq_true.mpr ⟨k, hk, by rwa [(hl.fields hk).2.1]⟩
  simp only [semRet, hzero, hlow, hl.pass, hl.one_return, hshort, Bool.false_eq_true, if_false, Bool.not_true, if_true]
  rw [hneed]
  exact fillTrap_eq s fun k hk => by rw [(hl.fields hk).2.1]

/-- The group after a return to a: the windows slide back, and the loops of the links are restored outside a handler (R129, R389). -/
def returned (x : Ctx) (n : Nat → Nat) (a : DWord) (loops : Nat → List LoopEntry) : Group :=
  let g := x.g.modSlices x.sl fun k q => { q with wb := q.wb - slideOf (n k), loops := if x.inH then q.loops else loops k }
  if x.inH then { g with handler := g.handler.map fun h => { h with pc := a } } else g.setPc x.sl a

theorem semRet_returns (s : State) {a : DWord} (hne : x.sl ≠ []) (hr : linksResident x)
    (hl : linksHold x n (fun _ => a) loops) (hw : ∀ k ∈ x.sl, (x.g.slice k).rb + slideOf (n k) ≤ (x.g.slice k).wb) :
    semRet x s = .flow (x.put s (returned x n a loops)) := by
  obtain ⟨hzero, hlow⟩ := hr.pass
  have hshort : (x.sl.any fun k => decide ((x.g.slice k).wb < (x.g.slice k).rb +
      slideOf (((readLink x.g k ((x.g.slice k).wb - 8) (x.g.slice k).wb).map (·.1)).getD 0))) = false :=
    List.any_eq_false.mpr fun k hk => by simpa [(hl.fields hk).2.1] using hw k hk
  simp only [semRet, hzero, hlow, hl.pass, hl.one_return, hshort, Bool.false_eq_true, if_false, Bool.not_true]
  rw [modSlices_congr x.g (f' := fun k q =>
    { q with wb := q.wb - slideOf (n k), loops := if x.inH then q.loops else loops k }) fun k hk => by
      rw [(hl.fields hk).2.1, (hl.fields hk).2.2], (hl.fields (low_mem hne)).1]
  rfl

end

/-! ### The statements -/

theorem call_flows {i : Instr} {how : IssueHow} {n len : Nat} {indirect : Bool} {tg : Ctx → Nat → DWord}
    (hi : runsAs i how (semCall n len indirect tg)) : flowsTo i how fun x s u =>
      targetOk (tg x x.low) = true ∧ (∀ k ∈ x.sl, tg x k = tg x x.low) ∧ callFits x n ∧
        u = x.put s (called x n len (tg x x.low)) :=
  flowsTo_of_flow hi fun _ s _ ⟨hok, hsame, hfit, hu⟩ =>
    hu ▸ semCall_goes s (fun k hk => ⟨(congrArg targetOk (hsame k hk)).trans hok, hsame k hk⟩) hfit

/-- Settles O26: each form of a call is semCall, and a return semRet, in the case that completes. -/
theorem callsAndReturnsComplete : Obligations.calls_and_returns_complete :=
  ⟨fun y n off s x u hs ⟨hok, hfit, hu⟩ => call_flows (runsAs_callOffset y n off) s x u hs ⟨hok, fun _ _ => rfl, hfit, hu⟩,
    fun y n v s x u hs ⟨hok, hfit, hu⟩ => call_flows (runsAs_callLit y n v) s x u hs ⟨hok, fun _ _ => rfl, hfit, hu⟩,
    fun y n a => call_flows (runsAs_calli y n a),
    fun y _ _ _ => flowsTo_of_flow (runsAs_ret y) fun _ s _ ⟨hne, hlinks, hu⟩ => hu ▸ semRet_returns s hne
      (fun k hk => (hlinks k hk).1) (fun k hk => (hlinks k hk).2.1) fun k hk => (hlinks k hk).2.2⟩

/-- Settles O27: each clause is the case of semCall or semRet that stops. -/
theorem callsAndReturnsStop : Obligations.calls_and_returns_stop := by
  refine ⟨fun i how n len tgt hi => ?_, fun y n a => ?_, fun y => ?_, fun y => ?_, fun y n ret loops => ?_,
    fun y s x hs => ?_, fun y s x n ret loops hs => ?_⟩
  · obtain ⟨indirect, hrun⟩ := runsAs_call hi
    refine ⟨faultsWith_of_fault hrun fun x s h => semCall_illegal s h,
      faultsWith_of_fault hrun fun x s ⟨ht, h⟩ => semCall_overflows s ht h, fun s x hs => ?_⟩
    intro z past need ht hfit hne
    rw [exec_of_runsAs hrun hs, semCall_traps _ ht hfit rfl hne]
    rfl
  · exact faultsWith_of_fault (runsAs_calli y n a) fun x s ⟨hok, hd⟩ => semCall_differs s hok hd
  · exact faultsWith_of_fault (runsAs_ret y) fun x s h => semRet_empty s h
  · exact faultsWith_of_fault (runsAs_ret y) fun x s ⟨hr, h⟩ => semRet_bad_link s hr h
  · exact faultsWith_of_fault (runsAs_ret y) fun x s ⟨hlinks, h⟩ =>
      semRet_links_differ s (fun k hk => (hlinks k hk).1) (fun k hk => (hlinks k hk).2) h
  · intro z need h0 hne
    rw [exec_of_runsAs (runsAs_ret y) hs, semRet_link_traps _ h0 rfl hne]
    rfl
  · intro z need hlinks hne
    rw [exec_of_runsAs (runsAs_ret y) hs,
      semRet_window_traps _ (fun k hk => (hlinks k hk).1) (fun k hk => (hlinks k hk).2) rfl hne]
    rfl

end Sys2Proof.Proofs
end

section
/-! The instructions of handlers (R133, R134, R202, R219, R352, R368): their effects, and where they fault or wait. -/

namespace Sys2Proof.Proofs

open Sys2Proof.Machine Sys2Proof.Safety Sys2Proof.Laws

/-! ### MAPP and TLBI -/

section
variable {w : BaseArgs} {x : Ctx}

theorem semMapp_outside (s : State) (h : x.inH = false) : semMapp w x s = .fault s 0x11 0 0 := by
  simp [semMapp, h]

theorem semMapp_handler (s : State) (h : x.inH = true) :
    let f := x.lowS w.b.toNat
    let r := if f.toNat / 2 ≠ 0 then (5, s)
      else mapPage s x.gr.space (dieOfCore x.core) (x.lowPair w.a.toNat).toNat (f.getLsbD 0)
    semMapp w x s = .done (modGroup r.2 x.uid fun g =>
      let g := g.writes (x.sl.flatMap fun k => x.ws k w.d.toNat (BitVec.ofNat 32 r.1))
      { g with handler := g.handler.map fun h => { h with mapp := some r.1 } }) := by
  simp only [semMapp, h, Bool.not_true, Bool.false_eq_true, if_false]
  rfl

/-- A first-touch page takes a frame, which becomes zero before the entry names it (R219). -/
theorem mapPage_first_touch {s v : State} {space die va a l size f : Nat} {e : DWord} (hva : inGridSpace va = true)
    (hw : walkSpace s space va = .invalid a e l size true) (hf : takeFrame s die size = some (f, v)) :
    ∃ t, mapPage s space die va false = (0, t) ∧ t.mem = writeN (fclear v.mem f size) a 8 (mappedEntry e f).toNat := by
  simp only [mapPage, hva, hw, hf, Bool.not_true, Bool.false_eq_true, if_false]
  exact ⟨_, rfl, rfl⟩

theorem mapPage_mapped {s : State} {space va a c d : Nat} {b : DWord} (hva : inGridSpace va = true)
    (hw : walkSpace s space va = .leaf a b c d) (die : Nat) (inspect : Bool) : mapPage s space die va inspect = (1, s) := by
  simp only [mapPage, hva, hw, Bool.not_true, Bool.false_eq_true, if_false]

theorem semTlbi_outside (s : State) (h : x.inH = false) : semTlbi w x s = .fault s 0x11 0 0 := by
  simp [semTlbi, h]

theorem semTlbi_handler (s : State) (h : x.inH = true) :
    let a := if w.d.toNat = 2 then 0 else (x.lowPair w.a.toNat).toNat
    let keep (t : TlbEntry) : Bool :=
      !(decide (t.space = x.gr.space) && tlbiDrops w.d.toNat a (x.lowS w.b.toNat).toNat t)
    semTlbi w x s = .done { s with
      cores := kmapV (fun _ k => { k with tlb := k.tlb.filter keep, wtlb := k.wtlb.filter keep }) s.cores } := by
  simp only [semTlbi, h, Bool.not_true, Bool.false_eq_true, if_false]

/-! ### WSPILL and WFILL -/

/-- The image address of a slice is aligned, and the slice has the units of registers to spill, or those to fill (R134). -/
def moveLegal (fill : Bool) (w : BaseArgs) (x : Ctx) (k : Nat) : Prop :=
  let q := x.g.slice k
  (x.ss k w.a.toNat).toNat % 256 = 0 ∧
    if fill then 8 * w.b.toNat ≤ q.rb ∧ w.b.toNat ≤ q.wneed else q.rb + 8 * w.b.toNat ≤ q.wb

/-- The check that semSpill makes of a slice. -/
def moveBad (fill : Bool) (w : BaseArgs) (x : Ctx) (k : Nat) : Bool :=
  let q := x.g.slice k
  decide ((x.ss k w.a.toNat).toNat % 256 ≠ 0) ||
    (if fill then decide (q.rb < 8 * w.b.toNat) || decide (q.wneed < w.b.toNat) else decide (q.wb < q.rb + 8 * w.b.toNat))

theorem moveBad_iff (fill : Bool) (k : Nat) : moveBad fill w x k = true ↔ ¬ moveLegal fill w x k := by
  cases fill <;> simp [moveBad, moveLegal, imp_iff_not_or]

/-- The registers of the slices of l that a WFILL or a WSPILL moves, by lane and logical index, each with its address in the image
(R133). -/
def movedCells (fill : Bool) (w : BaseArgs) (x : Ctx) (l : List Nat) : List ((Nat × Nat) × Nat) :=
  l.flatMap fun k =>
    (spillCells k (if fill then (x.g.slice k).rb - 8 * w.b.toNat else (x.g.slice k).rb) w.b.toNat).map fun p =>
      (p, imageAddr (x.ss k w.a.toNat).toNat x.g.width p.2 p.1)

/-- The writes of a WSPILL for the slices of l: each address with the value of its register (R133). -/
def spillWrites (w : BaseArgs) (x : Ctx) (l : List Nat) : List (Nat × Nat) :=
  (movedCells false w x l).map fun p => (p.2, (x.g.reg (.v p.1.1 (p.1.2 % x.g.alloc))).toNat)

/-- What a WFILL or a WSPILL that fails leaves: a spill may have made any part of its writes for the slices of l (R134). -/
def partMoved (fill : Bool) (w : BaseArgs) (x : Ctx) (l : List Nat) (s : State) : State :=
  if fill then s else somePart x 4 (spillWrites w x l) s

/-- After the transfers of a WFILL or a WSPILL at the physical addresses pas (R133). -/
def moved (fill : Bool) (w : BaseArgs) (x : Ctx) (pas : List Nat) (v : State) : State :=
  if fill then
    let r := readWords x v pas
    modGroup r.2 x.uid fun g =>
      (g.writes (((movedCells true w x x.sl).zip r.1).map fun p =>
        (RegRef.v p.1.1.1 (p.1.1.2 % x.g.alloc), BitVec.ofNat 32 p.2))).modSlices x.sl fun _ q =>
          { q with rb := q.rb - 8 * w.b.toNat, wneed := q.wneed - w.b.toNat }
  else
    modGroup (((movedCells false w x x.sl).zip pas).foldl (fun s p =>
        x.write s p.1.2 p.2 4 (x.g.reg (.v p.1.1.1 (p.1.1.2 % x.g.alloc))).toNat) v) x.uid fun g =>
      g.modSlices x.sl fun _ q => { q with rb := q.rb + 8 * w.b.toNat, wneed := q.wneed - w.b.toNat }

theorem semSpill_outside (fill : Bool) (s : State) (h : x.inH = false) : semSpill fill w x s = .fault s 0x11 0 0 := by
  simp [semSpill, h]

/-- In a handler, semSpill goes by its operands, and then by what the accesses to the image find (R134, R409). -/
theorem semSpill_handler (fill : Bool) (s : State) (h : x.inH = true) : semSpill fill w x s =
    if x.sl.any (moveBad fill w x) then
      .fault (partMoved fill w x (x.sl.filter fun k => !moveBad fill w x k) s) 0x31 0 0
    else
      match spillAddrs x s (if fill then needR else needW) 4 ((movedCells fill w x x.sl).map fun p => (p.1.1, p.2)) with
      | (none, v) => .fault (partMoved fill w x x.sl v) 0x31 0 0
      | (some pas, v) => if pas.any (accessAwaited s) then .stall s else .done (moved fill w x pas v) := by
  simp only [semSpill, h, Bool.not_true, Bool.false_eq_true, if_false]
  cases fill <;> rfl

theorem semSpill_illegal (fill : Bool) (s : State) (h : x.inH = true) (hbad : ∃ k ∈ x.sl, ¬ moveLegal fill w x k) :
    semSpill fill w x s = .fault (partMoved fill w x (x.sl.filter fun k => !moveBad fill w x k) s) 0x31 0 0 := by
  obtain ⟨k, hk, hb⟩ := hbad
  rw [semSpill_handler fill s h, if_pos (List.any_eq_true.mpr ⟨k, hk, (moveBad_iff fill k).mpr hb⟩)]

section
variable {fill : Bool} {s v : State} {pas : List Nat} (h : x.inH = true) (hok : ∀ k ∈ x.sl, moveLegal fill w x k)
include h hok

theorem semSpill_legal : semSpill fill w x s =
    match spillAddrs x s (if fill then needR else needW) 4 ((movedCells fill w x x.sl).map fun p => (p.1.1, p.2)) with
    | (none, v) => .fault (partMoved fill w x x.sl v) 0x31 0 0
    | (some pas, v) => if pas.any (accessAwaited s) then .stall s else .done (moved fill w x pas v) := by
  have hany : ¬ x.sl.any (moveBad fill w x) = true := by simpa [moveBad_iff] using hok
  rw [semSpill_handler fill s h, if_neg hany]

theorem semSpill_refused (hpas : spillAddrs x s (if fill then needR else needW) 4
      ((movedCells fill w x x.sl).map fun p => (p.1.1, p.2)) = (none, v)) :
    semSpill fill w x s = .fault (partMoved fill w x x.sl v) 0x31 0 0 := by
  rw [semSpill_legal h hok, hpas]

theorem semSpill_awaits (hpas : spillAddrs x s (if fill then needR else needW) 4
      ((movedCells fill w x x.sl).map fun p => (p.1.1, p.2)) = (some pas, v)) (hw : pas.any (accessAwaited s) = true) :
    semSpill fill w x s = .stall s := by
  rw [semSpill_legal h hok, hpas]
  exact if_pos hw

theorem semSpill_moves (hpas : spillAddrs x s (if fill then needR else needW) 4
      ((movedCells fill w x x.sl).map fun p => (p.1.1, p.2)) = (some pas, v)) (hw : pas.any (accessAwaited s) = false) :
    semSpill fill w x s = .done (moved fill w x pas v) := by
  rw [semSpill_legal h hok, hpas]
  exact if_neg (Bool.eq_false_iff.mp hw)

end

/-! ### DSPILL -/

/-- The operands of DSPILL that R352 allows. -/
def dspillLegal (w : BaseArgs) (x : Ctx) : Prop :=
  (x.lowPair w.a.toNat).toNat % 256 = 0 ∧ w.b.toNat ≤ x.g.dstack.length ∧
    (0 < x.g.spcnt → (x.lowPair w.a.toNat).toNat = x.g.spbase.toNat) ∧ x.g.spcnt + w.b.toNat ≤ 4095

/-- The words that DSPILL writes, each with its address: four for each of the oldest entries (R352). -/
def spilledWords (w : BaseArgs) (x : Ctx) : List (Nat × Nat) :=
  (x.g.dstack.reverse.take w.b.toNat).zipIdx.flatMap fun p => (List.range 4).map fun i =>
    (((x.lowPair w.a.toNat).toNat + 32 * (x.g.spcnt + p.2) + 8 * i) % 2 ^ 64, divToNat p.1 / 2 ^ (64 * i) % 2 ^ 64)

/-- The check that semDspill makes fails where its operands are not legal. -/
theorem dspillBad_iff : ((x.lowPair w.a.toNat).toNat % 256 ≠ 0 ∨ x.g.dstack.length < w.b.toNat ∨
      (0 < x.g.spcnt ∧ (x.lowPair w.a.toNat).toNat ≠ x.g.spbase.toNat) ∨ 4095 < x.g.spcnt + w.b.toNat) ↔
    ¬ dspillLegal w x := by
  unfold dspillLegal
  omega

theorem semDspill_outside (s : State) (h : x.inH = false) : semDspill w x s = .fault s 0x11 0 0 := by
  simp [semDspill, h]

theorem semDspill_illegal (s : State) (h : x.inH = true) (hbad : ¬ dspillLegal w x) :
    semDspill w x s = .fault (somePart x 8 (spilledWords w x) s) 0x32 0 0 := by
  simp only [semDspill, h, Bool.not_true, Bool.false_eq_true, if_false]
  exact if_pos (dspillBad_iff.mpr hbad)

/-- With legal operands, semDspill goes by what the accesses to the spill image find (R352, R409). -/
theorem semDspill_legal (s : State) (h : x.inH = true) (hok : dspillLegal w x) :
    semDspill w x s = match spillAddrs x s needW 8 ((spilledWords w x).map fun p => (x.low, p.1)) with
      | (none, v) => .fault (somePart x 8 (spilledWords w x) v) 0x32 0 0
      | (some pas, v) =>
        if pas.any (accessAwaited s) then .stall s
        else .done (modGroup (((spilledWords w x).zip pas).foldl (fun s p => x.write s p.1.1 p.2 8 p.1.2) v) x.uid fun g =>
          { g with
            dstack := g.dstack.take (g.dstack.length - w.b.toNat), spcnt := g.spcnt + w.b.toNat
            spbase := BitVec.ofNat 64 (x.lowPair w.a.toNat).toNat
            spill := g.spill.take g.spcnt ++ (x.g.dstack.reverse.take w.b.toNat).map fun d =>
              (d.owner, d.mask ||| d.arrived) }) := by
  simp only [semDspill, h, Bool.not_true, Bool.false_eq_true, if_false]
  exact if_neg (mt dspillBad_iff.mp (not_not_intro hok))

theorem semHalt_outside (s : State) (h : x.inH = false) : semHalt x s = .fault s 0x11 0 0 := by
  simp [semHalt, h]

theorem semHalt_handler (s : State) (h : x.inH = true) : semHalt x s = .fault s 0x39 0 0 := by
  simp [semHalt, h]

end

/-! ### The statement -/

theorem runsAs_mapp (w : BaseArgs) : runsAs (.mapp w) (howSys 0xE7 w) (semMapp w) := fun _ => rfl
theorem runsAs_tlbi (w : BaseArgs) : runsAs (.tlbi w) (howSys 0xE8 w) (semTlbi w) := fun _ => rfl
theorem runsAs_wspill (w : BaseArgs) : runsAs (.wspill w) (howSys 0xE9 w) (semSpill false w) := fun _ => rfl
theorem runsAs_wfill (w : BaseArgs) : runsAs (.wfill w) (howSys 0xEA w) (semSpill true w) := fun _ => rfl
theorem runsAs_dspill (w : BaseArgs) : runsAs (.dspill w) (howSys 0xEB w) (semDspill w) := fun _ => rfl
theorem runsAs_halt (y : Bool) : runsAs (.halt y) (howBare true) semHalt := fun _ => rfl

theorem not_moveLegal_false {w : BaseArgs} {x : Ctx} {k : Nat} (h : (x.ss k w.a.toNat).toNat % 256 ≠ 0 ∨
    (x.g.slice k).wb < (x.g.slice k).rb + 8 * w.b.toNat) : ¬ moveLegal false w x k :=
  fun ⟨ha, hq⟩ => h.elim (· ha) (Nat.not_lt.mpr hq)

theorem not_moveLegal_true {w : BaseArgs} {x : Ctx} {k : Nat} (h : (x.ss k w.a.toNat).toNat % 256 ≠ 0 ∨
    (x.g.slice k).rb < 8 * w.b.toNat ∨ (x.g.slice k).wneed < w.b.toNat) : ¬ moveLegal true w x k :=
  fun ⟨ha, hq, hn⟩ => h.elim (· ha) (Or.rec (Nat.not_lt.mpr hq) (Nat.not_lt.mpr hn))

/-- Settles O48: each clause is the case of the instruction's meaning that it names; the writes that a fault may have made in part
are those of the meaning itself. -/
theorem handlerInstructionsComplete : Obligations.handler_instructions_complete := by
  refine ⟨fun w => ?_, fun s space die va e l a size f v hva hw hf => mapPage_first_touch hva hw hf,
    fun s space die va a b c d hva hw inspect => mapPage_mapped hva hw die inspect, fun w => ?_, fun w pas v => ?_,
    fun w pas v => ?_, fun w pas v => ?_, fun w s x hs => ?_, fun w => ?_, fun w s x hs => ?_, fun w s x r v hs => ?_,
    fun w s x r v hs => ?_, fun w s x r v hs => ?_,
    fun y => faultsWith_of_fault (runsAs_halt y) fun _ s h => semHalt_handler s h,
    fun y => faultsWith_of_fault (runsAs_halt y) fun _ s h => semHalt_outside s h,
    fun w => faultsWith_of_fault (runsAs_mapp w) fun _ s h => semMapp_outside s h,
    fun w => faultsWith_of_fault (runsAs_tlbi w) fun _ s h => semTlbi_outside s h,
    fun w => faultsWith_of_fault (runsAs_wspill w) fun _ s h => semSpill_outside false s h,
    fun w => faultsWith_of_fault (runsAs_wfill w) fun _ s h => semSpill_outside true s h,
    fun w => faultsWith_of_fault (runsAs_dspill w) fun _ s h => semDspill_outside s h⟩
  · exact goesOn_of_done (runsAs_mapp w) fun _ s _ ⟨h, hu⟩ => hu ▸ semMapp_handler s h
  · exact goesOn_of_done (runsAs_tlbi w) fun _ s _ ⟨h, hu⟩ => hu ▸ semTlbi_handler s h
  · exact goesOn_of_done (runsAs_wspill w) fun _ _ _ ⟨h, hok, hpas, hw, hu⟩ => hu ▸ semSpill_moves (fill := false) h hok hpas hw
  · exact goesOn_of_done (runsAs_wfill w) fun _ _ _ ⟨h, hok, hpas, hw, hu⟩ => hu ▸ semSpill_moves (fill := true) h hok hpas hw
  · refine goesOn_of_done (runsAs_dspill w) fun x s u ⟨h, ha, hc, hb, hn, hpas, hw, hu⟩ => ?_
    have hok : dspillLegal w x := ⟨ha, hc, hb, hn⟩
    rw [semDspill_legal s h hok, spilledWords, hpas, hu]
    exact if_neg (Bool.eq_false_iff.mp hw)
  · intro z h ⟨k, hk, hbad⟩
    refine ⟨spillWrites w z (z.sl.filter fun k => !moveBad false w z k), ?_⟩
    rw [exec_of_runsAs (runsAs_wspill w) hs, semSpill_illegal false _ h ⟨k, hk, not_moveLegal_false hbad⟩]
    rfl
  · exact faultsWith_of_fault (runsAs_wfill w) fun x s ⟨h, k, hk, hbad⟩ =>
      semSpill_illegal true s h ⟨k, hk, not_moveLegal_true hbad⟩
  · intro z h hbad
    refine ⟨spilledWords w z, ?_⟩
    rw [exec_of_runsAs (runsAs_dspill w) hs, semDspill_illegal _ h (dspillBad_iff.mp hbad)]
    rfl
  · intro z t c cells h hok hpas
    refine ⟨?_, ?_⟩
    · rintro rfl
      refine ⟨spillWrites w z z.sl, ?_⟩
      rw [exec_of_runsAs (runsAs_wspill w) hs, semSpill_refused (fill := false) h hok hpas]
      rfl
    · rintro pas rfl hw
      rw [exec_of_runsAs (runsAs_wspill w) hs, semSpill_awaits (fill := false) h hok hpas hw]
      rfl
  · intro z t c cells h hok hpas
    refine ⟨?_, ?_⟩
    · rintro rfl
      rw [exec_of_runsAs (runsAs_wfill w) hs, semSpill_refused (fill := true) h hok hpas]
      rfl
    · rintro pas rfl hw
      rw [exec_of_runsAs (runsAs_wfill w) hs, semSpill_awaits (fill := true) h hok hpas hw]
      rfl
  · intro z t c a out h ha hc hb hn hpas
    have hok : dspillLegal w z := ⟨ha, hc, hb, hn⟩
    refine ⟨?_, ?_⟩
    · rintro rfl
      refine ⟨spilledWords w z, ?_⟩
      rw [exec_of_runsAs (runsAs_dspill w) hs, semDspill_legal _ h hok, spilledWords, hpas]
      rfl
    · rintro pas rfl hw
      rw [exec_of_runsAs (runsAs_dspill w) hs, semDspill_legal _ h hok, spilledWords, hpas]
      exact congrArg (outcome _ z) (if_pos hw)

end Sys2Proof.Proofs
end

section
/-! Scalar arithmetic, shifts, selection, VOTE and condition logic (R124, R141 to R145). -/

namespace Sys2Proof.Proofs

open Sys2Proof.Machine Sys2Proof.Safety Sys2Proof.Laws

/-! ### High products, smaller and larger values -/

/-- The upper half of the 2n-bit word of an integer is the n-bit word of its quotient by 2^n. -/
theorem extractLsb'_ofInt_upper (n : Nat) (p : Int) :
    (BitVec.ofInt (n + n) p).extractLsb' n n = BitVec.ofInt n (p / (2 ^ n : Nat)) := by
  have hN : ((2 ^ n : Nat) : Int) ≠ 0 := by positivity
  have hword : ((BitVec.ofInt (n + n) p).toNat : Int) = p % ((2 ^ n : Nat) * (2 ^ n : Nat)) := by
    rw [BitVec.toNat_ofInt, Int.toNat_of_nonneg (Int.emod_nonneg _ (by positivity)), pow_add, Nat.cast_mul]
  have hquot : p % ((2 ^ n : Nat) * (2 ^ n : Nat)) / (2 ^ n : Nat) % (2 ^ n : Nat) = p / (2 ^ n : Nat) % (2 ^ n : Nat) := by
    rw [Int.emod_def p, Int.mul_assoc, Int.sub_mul_ediv_left _ _ hN, Int.sub_mul_emod_self_left]
  apply BitVec.eq_of_toNat_eq
  rw [BitVec.extractLsb'_toNat, Nat.shiftRight_eq_div_pow, BitVec.toNat_ofInt (p / _), ← hquot, ← hword]
  norm_cast

/-- The high half of a product is the upper half of the exact product at twice the width (R141, R147). -/
theorem mulHigh_eq {n : Nat} (u : Bool) (a b : BitVec n) : mulHigh u a b =
    if u then (a.zeroExtend (n + n) * b.zeroExtend (n + n)).extractLsb' n n
    else (a.signExtend (n + n) * b.signExtend (n + n)).extractLsb' n n := by
  cases u with
  | false =>
    have hprod : a.signExtend (n + n) * b.signExtend (n + n) = BitVec.ofInt (n + n) (a.toInt * b.toInt) :=
      (BitVec.ofInt_mul _ _).symm
    rw [if_neg (by decide), hprod, extractLsb'_ofInt_upper]
    rfl
  | true =>
    have hprod : a.zeroExtend (n + n) * b.zeroExtend (n + n) = BitVec.ofInt (n + n) (a.toNat * b.toNat : Nat) := by
      rw [BitVec.ofInt_natCast, BitVec.ofNat_mul, BitVec.ofNat_toNat, BitVec.ofNat_toNat]
    rw [if_pos rfl, hprod, extractLsb'_ofInt_upper]
    rfl

/-- minMax chooses by the order of the type. -/
theorem minMax_eq {n : Nat} (max u : Bool) (a b : BitVec n) :
    minMax max u a b = if below u a b then (if max then b else a) else if max then a else b := by
  have hlt : (if u then decide (a.toNat < b.toNat) else decide (a.toInt < b.toInt)) = below u a b := by
    cases u <;> rfl
  rw [minMax, hlt]
  cases below u a b <;> cases max <;> rfl

theorem minMax_smaller {n : Nat} (u : Bool) (a b : BitVec n) : minMax false u a b = if below u a b then a else b :=
  minMax_eq false u a b

theorem minMax_larger {n : Nat} (u : Bool) (a b : BitVec n) : minMax true u a b = if below u a b then b else a :=
  minMax_eq true u a b

/-! ### The meanings in the terms of the statements -/

/-- A two-source operation gives f of the sources in each slice. -/
theorem scal2_eq (w : ExtArgs) (f : Word → Word → Word) :
    scal2 w f = sliceOp w fun x k => f (x.s k w.a.toNat) (x.bS w k) := rfl

theorem semScmp_eq (w : ExtArgs) : semScmp w = fun x => (x.sl.flatMap fun k => x.wc k (cdDest w) (combineBit (combOf w)
    (intCompare (cdCode w) (x.s k w.a.toNat) (x.bS w k)) (x.c k (w.aux.toNat % 8) != w.aux.getLsbD 3)), 0) := by
  funext x
  rw [semScmp, auxSel_eq]
  rfl

/-- The operations of VOTE by its SUB (R144). -/
theorem semVote_eq (w : ExtArgs) : semVote w = fun x => (if w.sub = 0 then
      (if x.g.width = 64 then x.sl.flatMap fun k => x.wss k w.d.toNat (laneMask (x.lanes.filter fun l => x.p l w.a.toNat))
        else x.wsAll w.d.toNat ((laneMask (x.lanes.filter fun l => x.p l w.a.toNat)).extractLsb' 0 32))
    else if w.sub = 1 then x.sl.flatMap fun k => x.wc k w.d.toNat (x.lanes.all fun l => x.p l w.a.toNat)
    else x.sl.flatMap fun k => x.wc k w.d.toNat (x.lanes.any fun l => x.p l w.a.toNat), 0) := by
  have hsub (k : BitVec 10) : w.sub = k ↔ w.sub.toNat = k.toNat := BitVec.toNat_inj.symm
  funext x
  simp only [semVote, hsub]
  generalize w.sub.toNat = n
  match n with
  | 0 | 1 => rfl
  | n + 2 => simp

/-- SETC tests whether the scalar is other than 0 (R145). -/
theorem semSetc_eq (w : ExtArgs) : semSetc w = fun x =>
    (x.sl.flatMap fun k => x.wc k w.d.toNat (x.s k w.a.toNat != 0), 0) := by
  have hne (a : Word) : decide (a ≠ 0) = (a != 0) := decide_not
  funext x
  simp only [semSetc, hne]

/-- Settles O1: each meaning is the operation stated of each slice's sources; SMULH by the law of high products, SMIN and SMAX by that
of the order. -/
theorem scalarArithmeticResults : Obligations.scalar_arithmetic_results :=
  ⟨fun _ _ _ => writesNow_of_writesAs fun _ => rfl, fun _ _ _ => writesNow_of_writesAs fun _ => rfl,
    inForms_writesNow semSmov _ (fun _ => rfl) (fun _ _ => rfl) fun _ _ => rfl,
    inForms3_writesNow semSadd _ (fun w => scal2_eq w _) (fun _ _ => rfl) (fun _ _ _ => rfl) fun _ _ => rfl,
    inForms3_writesNow semSsub _ (fun w => scal2_eq w _) (fun _ _ => rfl) (fun _ _ _ => rfl) fun _ _ => rfl,
    inForms3_writesNow semSmul _ (fun w => scal2_eq w _) (fun _ _ => rfl) (fun _ _ _ => rfl) fun _ _ => rfl,
    inForms3_writesNow semSmulh _ (fun w => by simp only [semSmulh, scal2_eq, mulHigh_eq]) (fun _ _ => rfl)
      (fun _ _ _ => rfl) fun _ _ => rfl,
    inForms3_writesNow semSand _ (fun w => scal2_eq w _) (fun _ _ => rfl) (fun _ _ _ => rfl) fun _ _ => rfl,
    inForms3_writesNow semSor _ (fun w => scal2_eq w _) (fun _ _ => rfl) (fun _ _ _ => rfl) fun _ _ => rfl,
    inForms3_writesNow semSxor _ (fun w => scal2_eq w _) (fun _ _ => rfl) (fun _ _ _ => rfl) fun _ _ => rfl,
    inForms3_writesNow semSshl _ (fun w => scal2_eq w shiftL) (fun _ _ => rfl) (fun _ _ _ => rfl) fun _ _ => rfl,
    inForms3_writesNow semSshr _ (fun w => scal2_eq w shiftR) (fun _ _ => rfl) (fun _ _ _ => rfl) fun _ _ => rfl,
    inForms3_writesNow semSsra _ (fun w => scal2_eq w shiftA) (fun _ _ => rfl) (fun _ _ _ => rfl) fun _ _ => rfl,
    inForms3_writesNow semSmin _ (fun w => by simp only [semSmin, scal2_eq, minMax_smaller]) (fun _ _ => rfl)
      (fun _ _ _ => rfl) fun _ _ => rfl,
    inForms3_writesNow semSmax _ (fun w => by simp only [semSmax, scal2_eq, minMax_larger]) (fun _ _ => rfl)
      (fun _ _ _ => rfl) fun _ _ => rfl⟩

/-- Settles O2: each meaning is the one stated, with SUB and AUX read as numbers and the 1 bits counted. -/
theorem scalarConditionResults : Obligations.scalar_condition_results :=
  ⟨inForms3_writesNow semSsel _ (fun w => by rw [semSsel, auxSel_eq]) (fun _ _ => rfl) (fun _ _ _ => rfl) fun _ _ => rfl,
    inForms_writesNow semSpopc _ (fun w => by simp only [semSpopc, popCount_eq]) (fun _ _ => rfl) fun _ _ => rfl,
    inForms3_writesNow semScmp _ semScmp_eq (fun _ _ => rfl) (fun _ _ _ => rfl) fun _ _ => rfl,
    inForms_writesNow semVote _ semVote_eq (fun _ _ => rfl) fun _ _ => rfl,
    inForms_writesNow semCand _ (fun _ => rfl) (fun _ _ => rfl) fun _ _ => rfl,
    inForms_writesNow semCor _ (fun _ => rfl) (fun _ _ => rfl) fun _ _ => rfl,
    inForms_writesNow semCxor _ (fun _ => rfl) (fun _ _ => rfl) fun _ _ => rfl,
    inForms_writesNow semSetc _ semSetc_eq (fun _ _ => rfl) fun _ _ => rfl⟩

end Sys2Proof.Proofs
end

section
/-! Vector integer arithmetic (R146 to R149). -/

namespace Sys2Proof.Proofs

open Sys2Proof.Machine Sys2Proof.Safety Sys2Proof.Laws

/-- The results of a stream at the width of the type. -/
theorem byType_apply (w : ExtArgs) (f : Ctx → Nat → DWord) (g : Ctx → Nat → Word) (x : Ctx) :
    byType w f g x = if tWide w then laneOp64 w f x else laneOp32 w g x := by
  unfold byType
  split <;> rfl

/-- A shift gives its values at the width of the type, by a count of 32 bits at every type (R140). -/
theorem vecShift_eq (w : ExtArgs) (f : {n : Nat} → BitVec n → Word → BitVec n) :
    vecShift w f = byType w (fun x l => f (x.a64 w l) (x.b32 w l)) fun x l => f (x.a32 w l) (x.b32 w l) :=
  funext fun x => (byType_apply w _ _ x).symm

theorem semImad_eq (w : ExtArgs) : semImad w =
    byType w (fun x l => x.a64 w l * x.b64 w l + x.c64 w l) fun x l => x.a32 w l * x.b32 w l + x.c32 w l :=
  funext fun x => (byType_apply w _ _ x).symm

/-- IMADW extends both factors as the type says (R148). -/
theorem semImadw_eq (w : ExtArgs) : semImadw w = laneOp64 w fun x l =>
    (if tUnsigned w then (x.a32 w l).zeroExtend 64 * (x.b32 w l).zeroExtend 64
      else (x.a32 w l).signExtend 64 * (x.b32 w l).signExtend 64) + x.c64 w l := by
  unfold semImadw
  cases tUnsigned w <;> rfl

/-- Settles O3: each meaning is the operation stated at the width of its type; IMULH, IMIN and IMAX by the laws that also give SMULH,
SMIN and SMAX, and IABS because a negative value has its top bit set. -/
theorem vectorArithmeticResults : Obligations.vector_arithmetic_results :=
  ⟨inForms3_writesNow semIadd _ (fun _ => rfl) (fun _ _ => rfl) (fun _ _ _ => rfl) fun _ _ => rfl,
    inForms3_writesNow semIsub _ (fun _ => rfl) (fun _ _ => rfl) (fun _ _ _ => rfl) fun _ _ => rfl,
    inForms3_writesNow semImul _ (fun w => vecT_eq w _) (fun _ _ => rfl) (fun _ _ _ => rfl) fun _ _ => rfl,
    inForms3_writesNow semImulh _ (fun w => by simp only [semImulh, vecT_eq, mulHigh_eq]) (fun _ _ => rfl)
      (fun _ _ _ => rfl) fun _ _ => rfl,
    inForms3_writesNow semImin _ (fun w => by simp only [semImin, vecT_eq, minMax_smaller]) (fun _ _ => rfl)
      (fun _ _ _ => rfl) fun _ _ => rfl,
    inForms3_writesNow semImax _ (fun w => by simp only [semImax, vecT_eq, minMax_larger]) (fun _ _ => rfl)
      (fun _ _ _ => rfl) fun _ _ => rfl,
    inForms3_writesNow semShl _ (fun w => vecShift_eq w shiftL) (fun _ _ => rfl) (fun _ _ _ => rfl) fun _ _ => rfl,
    inForms3_writesNow semShr _ (fun w => vecShift_eq w shiftR) (fun _ _ => rfl) (fun _ _ _ => rfl) fun _ _ => rfl,
    inForms3_writesNow semSra _ (fun w => vecShift_eq w shiftA) (fun _ _ => rfl) (fun _ _ _ => rfl) fun _ _ => rfl,
    inForms3_writesNow semImad _ semImad_eq (fun _ _ => rfl) (fun _ _ _ => rfl) fun _ _ => rfl,
    inForms3_writesNow semImadw _ semImadw_eq (fun _ _ => rfl) (fun _ _ _ => rfl) fun _ _ => rfl,
    inForms_writesNow semIabs _ (fun w => by simp only [semIabs, vecT1_eq, BitVec.msb_eq_toInt]) (fun _ _ => rfl)
      fun _ _ => rfl,
    inForms_writesNow semIneg _ (fun w => vecT1_eq w _) (fun _ _ => rfl) fun _ _ => rfl⟩

end Sys2Proof.Proofs
end

section
/-! Floating point, packed arithmetic, conversions and cross-lane instructions (R154 to R166, R182 to R188, R196, R429). -/

namespace Sys2Proof.Proofs

open Sys2Proof.Machine Sys2Proof.Safety Sys2Proof.Laws

/-! ### Instructions whose results are of variable latency -/

/-- An instruction is issued with how, and what it does is to leave the writes of r and their flags outstanding (R52). -/
def landsAs (i : Instr) (how : IssueHow) (r : Ctx → List RegWrite × Flags) : Prop := ∀ s, exec i s = issueVar how r s

theorem writesLater_of_landsAs {i : Instr} {how : IssueHow} {r : Ctx → List RegWrite × Flags} (hi : landsAs i how r) :
    writesLater i how r := by
  intro s x h
  rw [hi, issueVar_eq r h]

/-- Both forms of an instruction leave outstanding what sem gives, where sem of its operands is what the statement gives. -/
theorem inForms_writesLater {op : Nat} {b : BaseArgs → Instr} {e : ExtArgs → Instr}
    (sem r : ExtArgs → Ctx → List RegWrite × Flags) (hr : ∀ w, sem w = r w)
    (hb : ∀ w, landsAs (b w) (howOp op false (w.ext none)) (sem (w.ext none)))
    (he : ∀ w, landsAs (e w) (howOp op true w) (sem w)) : inForms op b e fun i how w => writesLater i how (r w) := by
  obtain rfl : sem = r := funext hr
  exact ⟨fun w => writesLater_of_landsAs (hb w), fun w => writesLater_of_landsAs (he w)⟩

/-- The same with the base form that has a literal. -/
theorem inForms3_writesLater {op : Nat} {b : BaseArgs → Instr} {l : BaseArgs → DWord → Instr} {e : ExtArgs → Instr}
    (sem r : ExtArgs → Ctx → List RegWrite × Flags) (hr : ∀ w, sem w = r w)
    (hb : ∀ w, landsAs (b w) (howOp op false (w.ext none)) (sem (w.ext none)))
    (hl : ∀ w v, landsAs (l w v) (howOp op false (w.ext (some v))) (sem (w.ext (some v))))
    (he : ∀ w, landsAs (e w) (howOp op true w) (sem w)) : inForms3 op b l e fun i how w => writesLater i how (r w) := by
  obtain rfl : sem = r := funext hr
  exact ⟨inForms_writesLater sem sem hr hb he, fun w v => writesLater_of_landsAs (hl w v)⟩

/-! ### The meanings in the terms of the statements -/

/-- A transcendental's exact result is rounded to nearest, with the flag that it raises itself (R157). -/
theorem transc_eq (w : ExtArgs) (f : Exact → Exact × Flags) :
    transc w f = laneOpF w fun x l => rounded w.sat (f (fp32 (fA w x l))) := rfl

theorem semFcmpp_eq (w : ExtArgs) : semFcmpp w = fun x => perLane (x.active w) fun l =>
    (x.wp l (cdDest w) (combineBit (combOf w) (fpCompare (cdCode w) (fp32 (x.a32 w l)) (fp32 (x.b32 w l))).1
      (x.p l (w.aux.toNat % 8) != w.aux.getLsbD 3)), (fpCompare (cdCode w) (fp32 (x.a32 w l)) (fp32 (x.b32 w l))).2) := by
  funext x
  rw [semFcmpp, auxSel_eq]
  rfl

/-- The conversions of CVTI by its SUB (R184). -/
theorem semCvti_eq (w : ExtArgs) : semCvti w = fun x => perLane (x.active w) fun l =>
    (x.wv l w.d.toNat (if w.sub.toNat = 0 then (fpToInt false (rmOf w) w.sat (fp32 (x.v l w.a.toNat))).1
      else if w.sub.toNat = 1 then (fpToInt true (rmOf w) w.sat (fp32 (x.v l w.a.toNat))).1
      else if w.sub.toNat = 2 then BitVec.ofNat 32 (narrowFloat fmt32 (rmOf w) false (exactInt (x.v l w.a.toNat).toInt)).1
      else BitVec.ofNat 32 (narrowFloat fmt32 (rmOf w) false (exactInt (x.v l w.a.toNat).toNat)).1),
     if w.sub.toNat = 0 then (fpToInt false (rmOf w) w.sat (fp32 (x.v l w.a.toNat))).2
      else if w.sub.toNat = 1 then (fpToInt true (rmOf w) w.sat (fp32 (x.v l w.a.toNat))).2
      else if w.sub.toNat = 2 then (narrowFloat fmt32 (rmOf w) false (exactInt (x.v l w.a.toNat).toInt)).2
      else (narrowFloat fmt32 (rmOf w) false (exactInt (x.v l w.a.toNat).toNat)).2) := by
  funext x
  unfold semCvti
  generalize w.sub.toNat = n
  match n with
  | 0 | 1 | 2 => rfl
  | n + 3 => simp

/-- The lane that SHFL reads, by its SUB; where the group has no such lane, a lane keeps its own value (R162). -/
theorem semShfl_eq (w : ExtArgs) : semShfl w = laneOp32 w fun x l =>
    let k := (x.b32 w l).toNat
    let n := x.g.width
    let j : Int := if w.sub.toNat = 0 then ((k % n : Nat) : Int) else if w.sub.toNat = 1 then (l : Int) - k
      else if w.sub.toNat = 2 then (l : Int) + k else ((l ^^^ (k % n) : Nat) : Int)
    if 0 ≤ j ∧ j < n then (if x.lanes.contains j.toNat then x.v j.toNat w.a.toNat else 0) else x.v l w.a.toNat := by
  have hout (j n : Int) : (j < 0 ∨ n ≤ j) ↔ ¬ (0 ≤ j ∧ j < n) := by omega
  simp only [semShfl, hout, ite_not]
  generalize w.sub.toNat = n
  match n with
  | 0 | 1 | 2 => rfl
  | n + 3 => simp [crossRead]

/-- LRED gives every active lane the last prefix; without an active lane it writes nothing and raises no flag (R164). -/
theorem semLred_eq (w : ExtArgs) : semLred w = fun x => ((x.active w).flatMap fun l => x.wv l w.d.toNat
    ((scanList w.sub.toNat none ((x.active w).map fun l => x.v l w.a.toNat)).1.getLastD 0),
    (scanList w.sub.toNat none ((x.active w).map fun l => x.v l w.a.toNat)).2) := by
  funext x
  unfold semLred
  cases x.active w with
  | nil => rfl
  | cons l ls => rfl

/-- TAGQ gives the entry that holds the lane's tag (R196). -/
theorem semTagq_eq (w : ExtArgs) : semTagq w = laneOp32 w fun x l =>
    match x.t.tags.find? fun e => decide (e.2 = x.v l w.a.toNat) with
    | some e => BitVec.ofNat 32 e.1
    | none => 0xFFFFFFFF := by
  refine congrArg (laneOp32 w) (funext fun x => funext fun l => ?_)
  unfold tagFind
  cases x.t.tags.find? fun e => decide (e.2 = x.v l w.a.toNat) <;> rfl

/-- Settles O5: each meaning is the operation stated of the sources after their sign modifiers. -/
theorem floatingPointResults : Obligations.floating_point_results :=
  ⟨inForms3_writesNow semFadd _ (fun _ => rfl) (fun _ _ => rfl) (fun _ _ _ => rfl) fun _ _ => rfl,
    inForms3_writesNow semFsub _ (fun _ => rfl) (fun _ _ => rfl) (fun _ _ _ => rfl) fun _ _ => rfl,
    inForms3_writesNow semFmul _ (fun _ => rfl) (fun _ _ => rfl) (fun _ _ _ => rfl) fun _ _ => rfl,
    inForms3_writesNow semFfma _ (fun _ => rfl) (fun _ _ => rfl) (fun _ _ _ => rfl) fun _ _ => rfl,
    inForms3_writesNow semFmin _ (fun _ => rfl) (fun _ _ => rfl) (fun _ _ _ => rfl) fun _ _ => rfl,
    inForms3_writesNow semFmax _ (fun _ => rfl) (fun _ _ => rfl) (fun _ _ _ => rfl) fun _ _ => rfl,
    inForms3_writesNow semFmaxa _ (fun _ => rfl) (fun _ _ => rfl) (fun _ _ _ => rfl) fun _ _ => rfl,
    inForms_writesLater semFrcp _ (fun w => transc_eq w fpRcp) (fun _ _ => rfl) fun _ _ => rfl,
    inForms_writesLater semFrsq _ (fun w => transc_eq w fpRsq) (fun _ _ => rfl) fun _ _ => rfl,
    inForms_writesLater semFsqrt _ (fun w => transc_eq w fpSqrt) (fun _ _ => rfl) fun _ _ => rfl,
    inForms_writesLater semFexp2 _ (fun _ => rfl) (fun _ _ => rfl) fun _ _ => rfl,
    inForms_writesLater semFlog2 _ (fun _ => rfl) (fun _ _ => rfl) fun _ _ => rfl,
    inForms3_writesNow semFcmpp _ semFcmpp_eq (fun _ _ => rfl) (fun _ _ _ => rfl) fun _ _ => rfl,
    inForms_writesNow semFclass _ (fun _ => rfl) (fun _ _ => rfl) fun _ _ => rfl,
    inForms3_writesNow semFscale _ (fun _ => rfl) (fun _ _ => rfl) (fun _ _ _ => rfl) fun _ _ => rfl⟩

/-- Settles O6: each meaning is the one stated; CVTI by the cases of its SUB. -/
theorem packedAndConversionResults : Obligations.packed_and_conversion_results :=
  ⟨inForms3_writesNow semHadd2 _ (fun _ => rfl) (fun _ _ => rfl) (fun _ _ _ => rfl) fun _ _ => rfl,
    inForms3_writesNow semHmul2 _ (fun _ => rfl) (fun _ _ => rfl) (fun _ _ _ => rfl) fun _ _ => rfl,
    inForms3_writesNow semHfma2 _ (fun _ => rfl) (fun _ _ => rfl) (fun _ _ _ => rfl) fun _ _ => rfl,
    inForms_writesNow semFdot4 _ (fun _ => rfl) (fun _ _ => rfl) fun _ _ => rfl,
    inForms_writesNow semCvt _ (fun _ => rfl) (fun _ _ => rfl) fun _ _ => rfl,
    inForms_writesNow semCvtf _ (fun _ => rfl) (fun _ _ => rfl) fun _ _ => rfl,
    inForms_writesNow semCvti _ semCvti_eq (fun _ _ => rfl) fun _ _ => rfl,
    inForms_writesNow semPack _ (fun _ => rfl) (fun _ _ => rfl) fun _ _ => rfl,
    inForms_writesNow semUnpack _ (fun _ => rfl) (fun _ _ => rfl) fun _ _ => rfl,
    inForms_writesNow semQscale _ (fun _ => rfl) (fun _ _ => rfl) fun _ _ => rfl⟩

/-- Settles O7: each meaning is the one stated, and its results are outstanding; SHFL, LRED and TAGQ by the laws of what a lane reads. -/
theorem crossLaneResults : Obligations.cross_lane_results :=
  ⟨inForms3_writesLater semShfl _ semShfl_eq (fun _ _ => rfl) (fun _ _ _ => rfl) fun _ _ => rfl,
    inForms_writesLater semBcast _ (fun _ => rfl) (fun _ _ => rfl) fun _ _ => rfl,
    inForms_writesLater semLred _ semLred_eq (fun _ _ => rfl) fun _ _ => rfl,
    inForms_writesLater semLscan _ (fun _ => rfl) (fun _ _ => rfl) fun _ _ => rfl,
    inForms_writesLater semElect _ (fun _ => rfl) (fun _ _ => rfl) fun _ _ => rfl,
    inForms_writesLater semRndx _ (fun _ => rfl) (fun _ _ => rfl) fun _ _ => rfl,
    inForms_writesLater semTagq _ semTagq_eq (fun _ _ => rfl) fun _ _ => rfl⟩

end Sys2Proof.Proofs
end

section
/-! Traps that do not enter the handler (R216, R218, R221, R362, R409). -/

namespace Sys2Proof.Proofs

open Sys2Proof.Machine

section
variable {s : State} {u e : Nat} {tr : Trap} {g : Group} {t : Team}

theorem hostMode_trapCounted (s : State) (t : Team) (cause bit : Nat) :
    hostMode (trapCounted s t cause) bit = hostMode s bit := by
  rw [trapCounted_eq]; rfl

/-- The page of a trap is one that the handler of the stream has passed on. -/
theorem mapp_any_iff (sp : Split) (a : DWord) :
    (sp.mapp.any fun r => decide (r.2 = a)) = true ↔ ∃ st, sp.mapp = some (st, a) := by
  cases hm : sp.mapp with
  | none => simp
  | some r => simp [Prod.ext_iff]

theorem takeTrap_in_handler (hg : kget s.groups u = some g) (ht : kget s.teams g.team = some t) (hon : handlerOn g e = true) :
    takeTrap s u e tr = endByFault (trapCounted s t tr.cause) g.team u e g.gid 0x30 tr.cause true
      ((g.handler.map (·.pc)).getD 0) tr.faddr := by
  simp only [takeTrap, hg, ht, hon, if_true]
  rfl

/-- In host-assisted mode a page fault is the host's. -/
theorem takeTrap_to_host (hg : kget s.groups u = some g) (ht : kget s.teams g.team = some t) (hon : handlerOn g e = false)
    (hc : tr.cause = 1) (hm : hostMode s 0 = true) : takeTrap s u e tr =
      ctlTell (modGroup (trapCounted s t tr.cause) u fun g => g.modSplit e fun sp => { sp with run := .host tr.faddr false })
        (cpOf (trapCounted s t tr.cause) t.grid.toNat) "page" [t.grid.toNat, t.num, g.gid, e, tr.faddr.toNat] := by
  simp only [takeTrap, hg, ht, hon, Bool.false_eq_true, if_false]
  rw [← trapCounted, hostMode_trapCounted, if_pos ⟨hc, hm⟩]

/-- A page that the handler has passed on ends the team. -/
theorem takeTrap_passed_page (hg : kget s.groups u = some g) (ht : kget s.teams g.team = some t) (hon : handlerOn g e = false)
    (hc : tr.cause = 1) (hm : hostMode s 0 = false) (hp : ∃ st, (g.split e).mapp = some (st, tr.faddr)) :
    takeTrap s u e tr = endByFault (trapCounted s t tr.cause) g.team u e g.gid 0x28 1 false
      (g.slice ((maskSlices (g.split e).mask).headD 0)).pc tr.faddr := by
  simp only [takeTrap, hg, ht, hon, Bool.false_eq_true, if_false]
  rw [← trapCounted, hostMode_trapCounted, if_neg (by simp [hm]), if_pos ⟨hc, (mapp_any_iff ..).mpr hp⟩]

/-- Without an address for the cause the team ends with the cause of the trap. -/
theorem takeTrap_no_address (hg : kget s.groups u = some g) (ht : kget s.teams g.team = some t) (hon : handlerOn g e = false)
    (hpage : tr.cause = 1 → (∀ st, (g.split e).mapp ≠ some (st, tr.faddr)) ∧ hostMode s 0 = false)
    (ha : handlerAddr (trapCounted s t tr.cause) t.grid.toNat tr.cause = 0) :
    takeTrap s u e tr = endByFault (trapCounted s t tr.cause) g.team u e g.gid tr.cause tr.detail false
      (g.slice ((maskSlices (g.split e).mask).headD 0)).pc tr.faddr := by
  have hhost : ¬ (tr.cause = 1 ∧ hostMode s 0 = true) := fun ⟨h1, h⟩ => by simp [(hpage h1).2] at h
  have hpassed : ¬ (tr.cause = 1 ∧ ((g.split e).mapp.any fun r => decide (r.2 = tr.faddr)) = true) := fun ⟨h1, h⟩ => by
    obtain ⟨st, hst⟩ := (mapp_any_iff ..).mp h
    exact (hpage h1).1 st hst
  simp only [takeTrap, hg, ht, hon, Bool.false_eq_true, if_false]
  rw [← trapCounted, hostMode_trapCounted, if_neg hhost, if_neg hpassed, if_pos ha]

end

/-- Settles O22: each clause is the branch of takeTrap that it names. -/
theorem trapsWithoutAHandler : Obligations.traps_without_a_handler := by
  intro s u e tr g t hg ht
  exact ⟨takeTrap_in_handler hg ht, takeTrap_passed_page hg ht, takeTrap_to_host hg ht, takeTrap_no_address hg ht⟩

end Sys2Proof.Proofs
end

section
/-! RTE: the return from a handler (R220, R221, R223). -/

namespace Sys2Proof.Proofs

open Sys2Proof.Machine Sys2Proof.Safety

theorem semRte_outside {x : Ctx} (s : State) (h : x.inH = false) : semRte x s = .fault s 0x11 0 0 := by
  unfold semRte
  cases x.g.handler with
  | none => rfl
  | some b => simp [h]

theorem semRte_handler {x : Ctx} {b : Handler} (s : State) (h : x.inH = true) (hb : x.g.handler = some b) : semRte x s =
    .flow (if b.engine then mapOps (x.put s (mergeAll (returnFromTrap x.g)))
        (resumeOp x.uid x.e (if b.mapp = some 2 ∨ b.mapp = some 3 then some x.g.faddr else none))
      else x.put s (mergeAll (returnFromTrap x.g))) := by
  simp only [semRte, hb, h, Bool.not_true, Bool.false_eq_true, if_false]

section
variable {g : Group} {b : Handler}

/-- A status 2 or 3 of the last MAPP, with the page (R221). -/
def passedPage (g : Group) (b : Handler) : Option (Nat × DWord) :=
  if b.mapp = some 2 ∨ b.mapp = some 3 then b.mapp.map fun n => (n, g.faddr) else none

theorem returnFromTrap_eq (hb : g.handler = some b) : returnFromTrap g =
    { g with fmask := 0, fcause := 0, faddr := 0, handler := none
             slices := g.slices.map fun q => { q with wneed := 0 }
             splits := lmod g.splits b.entry fun sp => if b.engine then sp else { sp with mapp := passedPage g b } } := by
  rcases hm : b.mapp with _ | _ | _ | _ | _ | n <;> simp [returnFromTrap, hb, passedPage, hm]

theorem slice_returnFromTrap (hb : g.handler = some b) {k : Nat} (hk : k < g.slices.length) :
    (returnFromTrap g).slice k = { g.slice k with wneed := 0 } := by
  rw [returnFromTrap_eq hb]
  simp [Group.slice, hk]

theorem split_returnFromTrap (hb : g.handler = some b) (k : Nat) : (returnFromTrap g).split k =
    if k = b.entry ∧ k < g.splits.length then
      if b.engine then g.split k else { g.split k with mapp := passedPage g b }
    else g.split k := by
  rw [returnFromTrap_eq hb]
  exact split_modSplit g b.entry k _

end

/-- Settles O47: RTE puts returnFromTrap of its group, whose fields, slices and splits are the ones stated. -/
theorem returnFromATrapCompletes : Obligations.return_from_a_trap_completes := by
  refine ⟨fun y h => ?_, fun g h hh => ?_, fun g h hh he => ⟨?_, fun k hk => ?_⟩, fun y => ?_⟩
  · refine flowsTo_of_flow (body := semRte) (fun _ => rfl) fun x s u ⟨hi, hh, hu⟩ => ?_
    rw [hu, semRte_handler s hi hh]
  · have hslice (k : Nat) (hk : k < g.slices.length) := slice_returnFromTrap hh hk
    rw [returnFromTrap_eq hh] at hslice ⊢
    exact ⟨rfl, rfl, rfl, rfl, rfl, rfl, rfl, fun k hk => by rw [hslice k hk]; exact ⟨rfl, rfl, rfl, rfl⟩⟩
  · rw [split_returnFromTrap hh, if_pos ⟨rfl, he⟩]
    cases h.engine <;> rfl
  · rw [split_returnFromTrap hh, if_neg fun hn => hk hn.1]
  · exact faultsWith_of_fault (body := semRte) (fun _ => rfl) fun x s h => semRte_outside s h

end Sys2Proof.Proofs
end

section
/-! Stores (R203 to R207). -/

namespace Sys2Proof.Proofs

open Sys2Proof.Machine Sys2Proof.Safety

theorem storeMem_reached {x : Ctx} {w : ExtArgs} {s v : State} {l : List (Nat × Nat)} {acc : List Acc}
    (h : reached x s { needW with scope := if ordered w then some (orderScope w) else none } (accessSize w) l = some (acc, v))
    (lanesOf : Nat → List Nat) (val : Nat → Nat) (reg : Nat → Nat → RegRef) :
    storeMem x w l lanesOf val reg s = .done (stored x (accessSize w) (dataRegs w reg) val v acc) := by
  rw [storeMem, memAccess_reached h]
  rfl

/-- A store of one form goes on where its accesses are reached. -/
theorem goesOn_of_store {i : Instr} {how : IssueHow} {w : ExtArgs} {l : Ctx → List (Nat × Nat)} {lanesOf : Nat → List Nat}
    {val : Ctx → Nat → Nat} {reg : Ctx → Nat → Nat → RegRef}
    (hi : runsAs i how fun x s => storeMem x w (l x) lanesOf (val x) (reg x) s) (acc : List Acc) (v : State) :
    goesOn i how fun x s u =>
      reached x s { needW with scope := if ordered w then some (orderScope w) else none } (accessSize w) (l x) = some (acc, v) ∧
        u = stored x (accessSize w) (dataRegs w (reg x)) (val x) v acc :=
  goesOn_of_done hi fun x _ _ ⟨hr, hu⟩ => by rw [hu]; exact storeMem_reached hr lanesOf (val x) (reg x)

/-- Settles O32: ST and SST are storeMem of their addresses, values and registers. -/
theorem storesComplete : Obligations.stores_complete :=
  ⟨inForms3_of_sem_how semSt howRelease (fun _ _ => rfl) (fun _ _ _ => rfl) (fun _ _ => rfl)
      fun _ _ _ hi acc v => goesOn_of_store hi acc v,
    inForms3_of_sem_how semSst howRelease (fun _ _ => rfl) (fun _ _ _ => rfl) (fun _ _ => rfl)
      fun _ _ _ hi acc v => goesOn_of_store hi acc v⟩

end Sys2Proof.Proofs
end

section
/-! Atomics (R208 to R211, R380). -/

namespace Sys2Proof.Proofs

open Sys2Proof.Machine Sys2Proof.Safety

section
variable {x : Ctx} {w : ExtArgs} {s v : State} {acc : List Acc}

/-- The address of a lane's atomic: RED has the address of a load or store, ATOM a pair without offset (R204, R208). -/
def atomAddr (red : Bool) (x : Ctx) (w : ExtArgs) (l : Nat) : Nat := if red then x.ea w l else (x.vv l w.a.toNat).toNat

theorem semAtomic_performs (red : Bool) (ht : x.t.shadow = false)
    (h : reached x s (atomNeed w) (atomSize w) ((x.active w).map fun l => (l, atomAddr red x w l)) = some (acc, v)) :
    semAtomic red w x s = .done (atomicsDone x w red v acc) := by
  unfold semAtomic
  refine (memAccess_reached h _ _).trans ?_
  rw [ht]
  rfl

/-- The shadow takes what its primary has forwarded. -/
theorem semAtomic_takes_forwarded (red : Bool) (ht : x.t.shadow = true) {old : List Nat}
    (h : reached x s (atomNeed w) (atomSize w) ((x.active w).map fun l => (l, atomAddr red x w l)) = some (acc, v))
    (ho : forwarded x.t x.g.gid x.e = some old) : semAtomic red w x s = .done (atomicsForwarded x w red v acc old) := by
  unfold semAtomic
  refine (memAccess_reached h _ _).trans ?_
  simp only [ht, ho, if_true]
  rfl

end

/-- Settles O34: ATOM and RED are semAtomic, of a primary or single team and of a shadow. -/
theorem atomicsComplete : Obligations.atomics_complete := by
  refine ⟨inForms3_of_sem_how semAtom howAtom (fun _ _ => rfl) (fun _ _ _ => rfl) (fun _ _ => rfl) fun i how w hi acc v => ?_,
    inForms3_of_sem_how semRed howAtom (fun _ _ => rfl) (fun _ _ _ => rfl) (fun _ _ => rfl) fun i how w hi acc v => ?_,
    inForms3_of_sem_how semAtom howAtom (fun _ _ => rfl) (fun _ _ _ => rfl) (fun _ _ => rfl) fun i how w hi acc v old => ?_,
    inForms3_of_sem_how semRed howAtom (fun _ _ => rfl) (fun _ _ _ => rfl) (fun _ _ => rfl) fun i how w hi acc v old => ?_⟩
  · exact goesOn_of_done hi fun x s u ⟨ht, hr, hu⟩ => hu ▸ semAtomic_performs false ht hr
  · exact goesOn_of_done hi fun x s u ⟨ht, hr, hu⟩ => hu ▸ semAtomic_performs true ht hr
  · exact goesOn_of_done hi fun x s u ⟨ht, hr, ho, hu⟩ => hu ▸ semAtomic_takes_forwarded false ht hr ho
  · exact goesOn_of_done hi fun x s u ⟨ht, hr, ho, hu⟩ => hu ▸ semAtomic_takes_forwarded true ht hr ho

end Sys2Proof.Proofs
end

section
/-! Where accesses stop (R193 to R195, R205, R217, R372, R409). -/

namespace Sys2Proof.Proofs

open Sys2Proof.Machine Sys2Proof.Safety

/-! ### The checks of R205 in their order -/

theorem count_zero (x : Ctx) (s : State) (c : Nat) : x.count s c 0 = s := by simp [Ctx.count, Machine.count]

section
variable {s v : State} {core space align miss : Nat} {ahead : Bool} {n : Need} {l : List (Nat × Nat)}
  {r : List (Nat × Nat × AddrCheck)}

theorem checkAccesses_misaligned {e : Nat × Nat} (h : l.find? (fun e => decide (e.2 % align ≠ 0)) = some e) :
    checkAccesses s core space ahead n align l = (.fault 0x20 0 e.2, 0, s) := by
  simp only [checkAccesses, h]

/-- The first access of the lowest detail that any has. -/
theorem checkAccesses_access {d a : Nat} (hal : ∀ e ∈ l, e.2 % align = 0)
    (hr : checkEach core space ahead n s l = (r, miss, v)) (hd : d < 4) (hlow : ∀ d' < d, firstAccess d' r = none)
    (ha : firstAccess d r = some a) : checkAccesses s core space ahead n align l = (.fault 0x22 d a, miss, v) := by
  have hfind : l.find? (fun e => decide (e.2 % align ≠ 0)) = none := List.find?_eq_none.mpr (by simpa using hal)
  match d with
  | 0 => simp only [checkAccesses, hfind, hr, ha]
  | 1 => simp only [checkAccesses, hfind, hr, ha, hlow 0 (by decide)]
  | 2 => simp only [checkAccesses, hfind, hr, ha, hlow 0 (by decide), hlow 1 (by decide)]
  | 3 => simp only [checkAccesses, hfind, hr, ha, hlow 0 (by decide), hlow 1 (by decide), hlow 2 (by decide)]

/-- The keys of the accesses that found V = 0, each with its page. -/
def pageFaults (r : List (Nat × Nat × AddrCheck)) : List (Nat × Nat) :=
  r.filterMap fun e => match e.2.2 with
    | .page b => some (e.1, b)
    | _ => none

/-- Where no access has a fault, page faults are what is left, and else the accesses that are allowed. -/
theorem checkAccesses_no_access (hal : ∀ e ∈ l, e.2 % align = 0) (hr : checkEach core space ahead n s l = (r, miss, v))
    (hno : ∀ d < 4, firstAccess d r = none) : checkAccesses s core space ahead n align l =
      match pageFaults r with
      | p :: _ => (.page ((pageFaults r).map (·.1)) p.2, miss, v)
      | [] => (.ok (r.filterMap fun e => match e.2.2 with
          | .ok pa leaf => some (pa, leaf)
          | _ => none), miss, v) := by
  have hfind : l.find? (fun e => decide (e.2 % align ≠ 0)) = none := List.find?_eq_none.mpr (by simpa using hal)
  simp only [checkAccesses, hfind, hr, hno 0 (by decide), hno 1 (by decide), hno 2 (by decide), hno 3 (by decide)]
  rfl

theorem checkAccesses_page {p : Nat × Nat} {q : List (Nat × Nat)} (hal : ∀ e ∈ l, e.2 % align = 0)
    (hr : checkEach core space ahead n s l = (r, miss, v)) (hno : ∀ d < 4, firstAccess d r = none)
    (hp : pageFaults r = p :: q) :
    checkAccesses s core space ahead n align l = (.page (p.1 :: q.map (·.1)) p.2, miss, v) := by
  rw [checkAccesses_no_access hal hr hno, hp]
  rfl

end

/-- A walk is no access of detail 0: that is an address outside grid space. -/
theorem checkWalk_ne_access_zero (pkg : BitVec 12) (die : Option Nat) (va : Nat) (n : Need) (w : Walk) :
    checkWalk pkg die va n w ≠ .access 0 := by
  unfold checkWalk
  split
  · simp
  · simp
  · dsimp only
    split
    · simp
    · split <;> simp

/-- The accesses of detail 0 are those outside grid space. -/
theorem firstAccess_zero_checkFrom (old : List TlbEntry) (core space : Nat) (ahead : Bool) (n : Need) (s : State)
    (l : List (Nat × Nat)) :
    firstAccess 0 (checkFrom old core space ahead n s l).1 = (l.find? fun e => !inGridSpace e.2).map (·.2) := by
  induction l generalizing s with
  | nil => rfl
  | cons e l ih =>
    obtain ⟨k, va⟩ := e
    cases hva : inGridSpace va with
    | false => simp [checkFrom, firstAccess, hva]
    | true =>
      have hw := checkWalk_ne_access_zero (translateFrom old s core ahead space va).2.2.pkg (some (dieOfCore core)) va n
        (translateFrom old s core ahead space va).1
      have hrest := ih (translateFrom old s core ahead space va).2.2
      unfold firstAccess at hrest ⊢
      simpa [checkFrom, hva, hw] using hrest

section
variable {pkg : BitVec 12} {die : Option Nat} {va a b size : Nat} {n : Need} {e : DWord}

theorem checkWalk_right_missing (h : (n.r = true ∧ leafR e = false) ∨ (n.w = true ∧ leafW e = false) ∨
    (n.x = true ∧ leafX e = false)) : checkWalk pkg die va n (.leaf a e b size) = .access 2 := by
  rcases h with ⟨h1, h2⟩ | ⟨h1, h2⟩ | ⟨h1, h2⟩ <;> simp [checkWalk, h1, h2]

/-- Where no right is missing the class decides. -/
theorem checkWalk_rights (hr : n.r = true → leafR e = true) (hw : n.w = true → leafW e = true)
    (hx : n.x = true → leafX e = true) : checkWalk pkg die va n (.leaf a e b size) =
      if classOk pkg die (leafCls e) (leafFrame e + (va - b)) n then .ok (leafFrame e + (va - b)) e else .access 3 := by
  have hok : ((n.r && !leafR e) || (n.w && !leafW e) || (n.x && !leafX e)) = false := by
    simp only [Bool.or_eq_false_iff, Bool.and_eq_false_imp, Bool.not_eq_false']
    exact ⟨⟨hr, hw⟩, hx⟩
  simp only [checkWalk, hok, Bool.false_eq_true, if_false, Bool.not_eq_true']
  cases classOk pkg die (leafCls e) (leafFrame e + (va - b)) n <;> rfl

end

/-! ### Accesses to memory -/

section
variable {x : Ctx} {s v : State} {n : Need} {align miss : Nat} {l : List (Nat × Nat)}

theorem memAccess_fault {cause d a : Nat} (h : checkAccesses s x.core x.gr.space false n align l = (.fault cause d a, miss, v))
    (lanesOf : Nat → List Nat) (act : List Acc → State → Res) :
    memAccess x s n align l lanesOf act = .fault (x.count v 11 miss) cause d (BitVec.ofNat 64 a) := by
  simp only [memAccess, h]

theorem memAccess_page {keys : List Nat} {b : Nat}
    (h : checkAccesses s x.core x.gr.space false n align l = (.page keys b, miss, v)) (lanesOf : Nat → List Nat)
    (act : List Acc → State → Res) : memAccess x s n align l lanesOf act =
      .trap (x.count v 11 miss) ⟨1, 0, BitVec.ofNat 64 b, laneMask (keys.flatMap lanesOf), []⟩ := by
  simp only [memAccess, h]

/-- Accesses that their targets let pass, of which one needs a route that is to come, do not issue. -/
theorem memAccess_awaits {r : List (Nat × DWord)}
    (h : checkAccesses s x.core x.gr.space false n align l = (.ok r, miss, v)) (hlen : r.length = l.length)
    (hgood : ∀ a ∈ r, targetRefuses (x.count v 11 miss) a.1 = false)
    (hwait : ∃ a ∈ r, mustWait (x.count v 11 miss) x.core n a.1 = true) (lanesOf : Nat → List Nat)
    (act : List Acc → State → Res) : memAccess x s n align l lanesOf act = .stall s := by
  have hsnd : (l.zip r).map (·.2) = r := List.map_snd_zip hlen.le
  have hbad : ((l.zip r).map fun p => ({ key := p.1.1, va := p.1.2, pa := p.2.1, leaf := p.2.2 } : Acc)).filter
      (fun a => targetRefuses (x.count v 11 miss) a.pa) = [] := by
    refine List.filter_eq_nil_iff.mpr fun a ha => ?_
    obtain ⟨p, hp, rfl⟩ := List.mem_map.mp ha
    simp [hgood p.2 (List.of_mem_zip hp).2]
  have hany : ((l.zip r).map fun p => ({ key := p.1.1, va := p.1.2, pa := p.2.1, leaf := p.2.2 } : Acc)).any
      (fun a => mustWait (x.count v 11 miss) x.core n a.pa) = true := by
    obtain ⟨a, ha, hw⟩ := hwait
    rw [← hsnd] at ha
    obtain ⟨p, hp, rfl⟩ := List.mem_map.mp ha
    exact List.any_eq_true.mpr ⟨_, List.mem_map_of_mem hp, hw⟩
  simp only [memAccess, h, hbad, hany, if_true]

end

/-- An instruction whose meaning is to make accesses stops where they do. -/
theorem accessesStop_of_memAccess {i : Instr} {how : IssueHow} {n : Need} {align : Nat} {l : Ctx → List (Nat × Nat)}
    {lanesOf : Ctx → Nat → List Nat} {body : Ctx → State → Res} (hi : runsAs i how body)
    (hb : ∀ x s, ∃ act, body x s = memAccess x s n align (l x) (lanesOf x) act) : accessesStop i how n align l lanesOf := by
  intro s x hs
  obtain ⟨act, hact⟩ := hb (waited how x) (waitedState how x s)
  have hexec := exec_of_runsAs hi hs
  rw [hact] at hexec
  refine ⟨fun e he => ?_, fun r miss v hc hgood hlen hwait => ?_, fun r miss v hal hr => ⟨fun d a hd hlow ha => ?_, fun k b q hno hp => ?_⟩⟩
  · rw [hexec, memAccess_fault (checkAccesses_misaligned he), count_zero]
    rfl
  · rw [hexec, memAccess_awaits hc hlen hgood hwait]
    rfl
  · rw [hexec, memAccess_fault (checkAccesses_access hal hr hd hlow ha)]
    rfl
  · rw [hexec, memAccess_page (checkAccesses_page hal hr hno hp)]
    rfl

section
variable {w : ExtArgs} (x : Ctx) (s : State) (l : List (Nat × Nat)) (lanesOf : Nat → List Nat)

theorem loadMem_accesses (dst : Nat → List Word → List RegWrite) : ∃ act, loadMem x w l lanesOf dst s =
    memAccess x s { needR with scope := if ordered w then some (orderScope w) else none } (accessSize w) l lanesOf act := by
  unfold loadMem
  exact ⟨_, rfl⟩

theorem storeMem_accesses (val : Nat → Nat) (reg : Nat → Nat → RegRef) : ∃ act, storeMem x w l lanesOf val reg s =
    memAccess x s { needW with scope := if ordered w then some (orderScope w) else none } (accessSize w) l lanesOf act := by
  unfold storeMem
  exact ⟨_, rfl⟩

theorem semAtomic_accesses (red : Bool) : ∃ act, semAtomic red w x s = memAccess x s (atomNeed w) (atomSize w)
    ((x.active w).map fun l => (l, atomAddr red x w l)) (fun l => [l]) act := by
  unfold semAtomic
  exact ⟨_, rfl⟩

end

/-! ### Poisoned results -/

/-- A poisoned result that lands raises its fault, and is no longer outstanding (R372). -/
theorem execResultWriteback_bad {u k : Nat} {e : BitVec 2} {s : State} {g : Group} {p : Pending} {b : Bad}
    (hg : kget s.groups u = some g) (hv : (g.split e.toNat).valid = true) (hp : (g.split e.toNat).pend[k]? = some p)
    (ha : p.await = none) (hb : p.bad = some b) : execResultWriteback u e k s = .next (endByFault
      { s with groups := kset s.groups u (g.modSplit e.toNat fun sp => { sp with pend := sp.pend.eraseIdx k }) }
      g.team u e.toNat g.gid 0x40 b.detail b.inH b.pc 0) := by
  simp [execResultWriteback, hg, hv, hp, ha, hb]

/-! ### Local memory and the tag table -/

theorem checkLocal_misaligned {x : Ctx} {n : Nat} {l : List Nat} (h : ∃ a ∈ l, a % n ≠ 0) : checkLocal x n n l = some 0x20 := by
  have hany : (l.any fun a => decide (a % n ≠ 0)) = true := by simpa using h
  rw [checkLocal, if_pos hany]

theorem checkLocal_outside {x : Ctx} {n : Nat} {l : List Nat} (hal : ∀ a ∈ l, a % n = 0)
    (h : ∃ a ∈ l, x.gr.launch.localSize < a + n) : checkLocal x n n l = some 0x21 := by
  have halign : ¬ (l.any fun a => decide (a % n ≠ 0)) = true := by simpa using hal
  have hany : (l.any fun a => decide (x.gr.launch.localSize < a + n)) = true := by simpa using h
  rw [checkLocal, if_neg halign, if_pos hany]

/-- An instruction that raises what the check of its local offsets finds stops where they do. -/
theorem localStops_of_checkLocal {i : Instr} {how : IssueHow} {n : Nat} {l : Ctx → List Nat} {body : Ctx → State → Res}
    (hi : runsAs i how body) (hf : ∀ x s c, checkLocal x n n (l x) = some c → body x s = .fault s c 0 0) :
    localStops i how n l :=
  ⟨faultsWith_of_fault hi fun x s h => hf x s _ (checkLocal_misaligned h),
    faultsWith_of_fault hi fun x s ⟨hal, h⟩ => hf x s _ (checkLocal_outside hal h)⟩

section
variable {w : ExtArgs} {x : Ctx} {c : Nat} (s : State)

theorem semLdl_stops (h : checkLocal x (accessSize w) (accessSize w) ((x.active w).map (x.eo w)) = some c) :
    semLdl w x s = .fault s c 0 0 := by
  simp only [semLdl, h]

theorem semStl_stops (h : checkLocal x (accessSize w) (accessSize w) ((x.active w).map (x.eo w)) = some c) :
    semStl w x s = .fault s c 0 0 := by
  simp only [semStl, h]

theorem semAtoml_stops
    (h : checkLocal x (atomSize w) (atomSize w) ((x.active w).map fun l => (x.v l w.a.toNat).toNat) = some c) :
    semAtoml w x s = .fault s c 0 0 := by
  simp only [semAtoml, h]

theorem semTagset_slot (h : ∃ l ∈ x.active w, 255 < (x.v l w.d.toNat).toNat) : semTagset w x s = .fault s 0x23 0 0 :=
  if_pos (by simpa using h)

theorem semTagclr_slot (h : ∃ l ∈ x.active w, 255 < (x.v l w.a.toNat).toNat) : semTagclr w x s = .fault s 0x23 0 0 :=
  if_pos (by simpa using h)

end

/-- Settles O35: the instructions of memory make their accesses with memAccess, and those of local memory check their offsets first. -/
theorem accessesFault : Obligations.accesses_fault := by
  refine ⟨?_, ?_, ?_, ?_, ?_, ?_, fun core space n s l r miss v hr => ?_, fun pkg die va n a e b size first => ?_,
    fun u e k s g p b hg hv hp ha hb => execResultWriteback_bad hg hv hp ha hb, ?_, ?_, fun w => ?_, ?_, ?_⟩
  · exact inForms3_of_sem semLd (fun _ _ => rfl) (fun _ _ _ => rfl) (fun _ _ => rfl) fun _ _ _ hi =>
      accessesStop_of_memAccess hi fun x s => loadMem_accesses x s _ _ _
  · exact inForms3_of_sem semSld (fun _ _ => rfl) (fun _ _ _ => rfl) (fun _ _ => rfl) fun _ _ _ hi =>
      accessesStop_of_memAccess hi fun x s => loadMem_accesses x s _ _ _
  · exact inForms3_of_sem_how semSt howRelease (fun _ _ => rfl) (fun _ _ _ => rfl) (fun _ _ => rfl) fun _ _ _ hi =>
      accessesStop_of_memAccess hi fun x s => storeMem_accesses x s _ _ _ _
  · exact inForms3_of_sem_how semSst howRelease (fun _ _ => rfl) (fun _ _ _ => rfl) (fun _ _ => rfl) fun _ _ _ hi =>
      accessesStop_of_memAccess hi fun x s => storeMem_accesses x s _ _ _ _
  · exact inForms3_of_sem_how semAtom howAtom (fun _ _ => rfl) (fun _ _ _ => rfl) (fun _ _ => rfl) fun _ _ _ hi =>
      accessesStop_of_memAccess hi fun x s => semAtomic_accesses x s false
  · exact inForms3_of_sem_how semRed howAtom (fun _ _ => rfl) (fun _ _ _ => rfl) (fun _ _ => rfl) fun _ _ _ hi =>
      accessesStop_of_memAccess hi fun x s => semAtomic_accesses x s true
  · exact (congrArg (firstAccess 0 ·.1) hr).symm.trans (firstAccess_zero_checkFrom ..)
  · exact ⟨rfl, rfl, checkWalk_right_missing, checkWalk_rights⟩
  · exact inForms3_of_sem semLdl (fun _ _ => rfl) (fun _ _ _ => rfl) (fun _ _ => rfl) fun _ _ _ hi =>
      localStops_of_checkLocal hi fun _ s _ => semLdl_stops s
  · exact inForms3_of_sem_how semStl howRelease (fun _ _ => rfl) (fun _ _ _ => rfl) (fun _ _ => rfl) fun _ _ _ hi =>
      localStops_of_checkLocal hi fun _ s _ => semStl_stops s
  · exact localStops_of_checkLocal (body := semAtoml w) (fun _ => rfl) fun _ s _ => semAtoml_stops s
  · exact inForms_of_sem semTagset (fun _ _ => rfl) (fun _ _ => rfl) fun _ _ _ hi =>
      faultsWith_of_fault hi fun _ s h => semTagset_slot s h
  · exact inForms_of_sem semTagclr (fun _ _ => rfl) (fun _ _ => rfl) fun _ _ _ hi =>
      faultsWith_of_fault hi fun _ s h => semTagclr_slot s h

end Sys2Proof.Proofs
end

section
/-! What an acquire changes (R228, R230, R236, R237, R242). -/

namespace Sys2Proof.Proofs

open Sys2Proof.Machine Sys2Proof.Safety Sys2Proof.Laws

/-- A store into a finite map at a key whose entry answers p alike changes no search by p. -/
theorem any_kset {α : Type} (m : KMap α) (k : Nat) (v : α) (p : α → Bool) (h : p v = (kget m k).any p) :
    (kset m k v).any (fun e => p e.2) = m.any fun e => p e.2 := by
  induction m with
  | nil => simpa [kset, kget] using h
  | cons e m ih =>
    obtain ⟨j, u⟩ := e
    by_cases hj : j = k
    · have hv : p v = p u := by simpa [kget, hj] using h
      simp [kset, hj, hv]
    · by_cases hk : k < j
      · have hv : p v = false := by simpa [kget, hj, hk] using h
        simp [kset, hj, hk, hv]
      · have hrest : p v = (kget m k).any p := by simpa [kget, hj, hk] using h
        simp [kset, hj, hk, ih hrest]

@[simp] theorem coreAt_modCore (s : State) (c : Nat) (f : Core → Core) : coreAt (modCore s c f) c = f (coreAt s c) := by
  simp [coreAt]

/-- A core without an L1 has the engine operations that it had. -/
theorem opLive_dropL1 (s : State) (c id : Nat) : opLive (dropL1 s c) id = opLive s id := by
  have hcores := any_kset s.cores c { coreAt s c with l1 := [] }
    (fun k => k.copyq.any (fun o => decide (o.id = id)) || k.collq.any (fun o => decide (o.id = id))) (by
      unfold coreAt
      cases kget s.cores c <;> rfl)
  exact congrArg (· || s.routeq.any fun q => q.any fun o => decide (o.id = id)) hcores

theorem seesAt_dropL1 (s : State) (x : Ctx) (c scope : Nat) (loc : Bool) :
    seesAt (dropL1 s c) x scope loc = seesAt s x scope loc := by
  funext v
  simp only [seesAt, opLive_dropL1]
  rfl

theorem seeScope_cores (s : State) (x : Ctx) (scope : Nat) : (seeScope s x scope).cores = s.cores := by
  unfold seeScope
  split <;> rfl

theorem seeScope_behind (s : State) (x : Ctx) (scope : Nat) :
    (seeScope s x scope).behind = seeAll x.keys (seesAt s x scope false) s.behind := by
  unfold seeScope
  split <;> rfl

/-- An acquire of DIE scope or wider drops the core's L1. -/
theorem acquire_l1 (s : State) (x : Ctx) (scope : Nat) :
    (coreAt (acquire s x scope) x.core).l1 = if scope ≤ 3 then [] else (coreAt s x.core).l1 := by
  rw [acquire, coreAt, seeScope_cores, ← coreAt]
  split
  · simp [dropL1]
  · rfl

/-- An acquire sees the writes that its scope gives it. -/
theorem kget_acquire_behind (s : State) (x : Ctx) (scope a : Nat) : kget (acquire s x scope).behind a =
    (kget s.behind a).map fun l => l.map fun v => if seesAt s x scope false v then v.add x.keys else v := by
  rw [acquire, seeScope_behind, kget_seeAll]
  split
  · rw [seesAt_dropL1]
    rfl
  · rfl

/-- A FENCE that acts and is no release alone acquires at its scope. -/
theorem semFence_eq (scope kind : Nat) (act : Ctx → Bool) (x : Ctx) (s : State) :
    semFence scope kind act x s = .done (if act x = false ∨ kind = 2 then s else acquire s x scope) := by
  unfold semFence
  by_cases hk : kind = 2 <;> cases act x <;> simp [hk]

end Sys2Proof.Proofs
end

section
/-! Translations that raise nothing, prefetches and cache control (R201, R212, R214, R215, R249). -/

namespace Sys2Proof.Proofs

open Sys2Proof.Machine Sys2Proof.Safety Sys2Proof.Laws

/-! ### What accesses to caches leave alone -/

/-- u has the memory, the groups and the teams of s. -/
structure SameStore (s u : State) : Prop where
  mem : u.mem = s.mem
  groups : u.groups = s.groups
  teams : u.teams = s.teams

theorem SameStore.refl (s : State) : SameStore s s := ⟨rfl, rfl, rfl⟩

theorem SameStore.trans {s t u : State} (h : SameStore s t) (k : SameStore t u) : SameStore s u :=
  ⟨k.mem.trans h.mem, k.groups.trans h.groups, k.teams.trans h.teams⟩

/-- What each step of a list keeps, the list keeps. -/
theorem sameStore_foldl {α : Type} {f : State → α → State} (hf : ∀ s a, SameStore s (f s a)) (s : State) (l : List α) :
    SameStore s (l.foldl f s) := by
  induction l generalizing s with
  | nil => exact .refl s
  | cons a l ih => exact (hf s a).trans (ih _)

/-- A TLB lookup changes nothing but the free choices that it draws. -/
theorem tlbLookup_eq (cap : Nat) (old tlb : List TlbEntry) (space va : Nat) (w : Walk) (s : State) :
    (tlbLookup cap old tlb space va w s).2.2.2 =
      { s with freeCtr := (tlbLookup cap old tlb space va w s).2.2.2.freeCtr } := by
  unfold tlbLookup
  extract_lets fill same now
  have hfill (l : List TlbEntry) (s : State) : (fill l s).2 = { s with freeCtr := (fill l s).2.freeCtr } := by
    cases w with
    | leaf at_ e base size =>
      simp only [fill]
      split <;> rfl
    | invalid | bad => rfl
  have hnow (s : State) : (now s).2.2.2 = { s with freeCtr := (now s).2.2.2.freeCtr } := by
    simp only [now]
    split
    · rfl
    · exact hfill _ s
  split
  · exact hnow s
  · split
    · exact hnow s
    · dsimp only
      split
      · rfl
      · exact hnow _

/-- A translation fills the TLB of its core, and draws free choices. -/
theorem translateFrom_eq (old : List TlbEntry) (s : State) (core : Nat) (ahead : Bool) (space va : Nat) :
    (translateFrom old s core ahead space va).2.2 = { s with
      freeCtr := (translateFrom old s core ahead space va).2.2.freeCtr
      cores := (translateFrom old s core ahead space va).2.2.cores } := by
  have h := tlbLookup_eq (if ahead then 512 else 2048) old (tlbOf s core ahead) space va (walkSpace s space va) s
  unfold translateFrom
  generalize tlbLookup (if ahead then 512 else 2048) old (tlbOf s core ahead) space va (walkSpace s space va) s = r at h ⊢
  obtain ⟨w, hit, l, t⟩ := r
  dsimp only at h ⊢
  rw [h]
  cases hit <;> rfl

theorem sameStore_translateFrom (old : List TlbEntry) (s : State) (core : Nat) (ahead : Bool) (space va : Nat) :
    SameStore s (translateFrom old s core ahead space va).2.2 := by
  rw [translateFrom_eq]; exact ⟨rfl, rfl, rfl⟩

theorem sameStore_checkFrom (old : List TlbEntry) (core space : Nat) (ahead : Bool) (n : Need) (s : State)
    (l : List (Nat × Nat)) : SameStore s (checkFrom old core space ahead n s l).2.2 := by
  induction l generalizing s with
  | nil => exact .refl s
  | cons e l ih =>
    obtain ⟨k, va⟩ := e
    cases hva : inGridSpace va with
    | false => simpa [checkFrom, hva] using ih s
    | true => simpa [checkFrom, hva] using (sameStore_translateFrom old s core ahead space va).trans (ih _)

theorem sameStore_count (x : Ctx) (s : State) (c n : Nat) : SameStore s (x.count s c n) := by
  rw [count_eq]; exact ⟨rfl, rfl, rfl⟩

theorem sameStore_prefAddr (old : List TlbEntry) (x : Ctx) (s : State) (va : Nat) : SameStore s (prefAddr old x s va).2 := by
  have h := sameStore_checkFrom old x.core x.gr.space false needR s [(0, va)]
  unfold prefAddr
  split
  · exact .refl s
  · split
    next heq => rw [heq] at h; exact h.trans (sameStore_count ..)
    next heq => rw [heq] at h; exact h.trans (sameStore_count ..)

theorem sameStore_tryRequest {s u : State} {die : BitVec 2} {line : Nat} {kind : CohKind} {stamp : Stamp} {pay : Payload}
    (h : tryRequest s die line kind stamp pay = some u) : SameStore s u := by
  have htake {p : BitVec 12} {t : State} (ht : takeRequest s p = some t) : SameStore s t := by
    unfold takeRequest at ht
    split at ht
    · cases ht
    · split at ht
      · cases ht; exact .refl s
      · split at ht
        · split at ht <;> cases ht
          exact ⟨rfl, rfl, rfl⟩
        · cases ht
  unfold tryRequest at h
  extract_lets go at h
  split at h
  · cases h; exact .refl s
  · split at h
    · obtain ⟨t, ht, rfl⟩ := Option.map_eq_some_iff.mp h
      exact ⟨(htake ht).mem, (htake ht).groups, (htake ht).teams⟩
    · cases h; exact ⟨rfl, rfl, rfl⟩

theorem sameStore_waitRequest (s : State) (e : Nat × Nat × CohKind × Payload) : SameStore s (waitRequest s e) := by
  unfold waitRequest
  split <;> exact ⟨rfl, rfl, rfl⟩

theorem sameStore_issueRequest (s : State) (die line tag : Nat) (kind : CohKind) (pay : Payload) :
    SameStore s (issueRequest s die line tag kind pay) := by
  unfold issueRequest
  extract_lets st d sent m t
  have ht : SameStore s t := by
    cases hs : sent with
    | none => simp only [t, hs]; exact .refl s
    | some u => simp only [t, hs]; exact sameStore_tryRequest hs
  exact ⟨ht.mem, ht.groups, ht.teams⟩

theorem sameStore_cohRequest (s : State) (die line : Nat) (kind : CohKind) (pay : Payload) :
    SameStore s (cohRequest s die line kind pay) := by
  unfold cohRequest
  split
  · exact sameStore_waitRequest ..
  · split
    · split
      · exact .refl s
      · exact sameStore_waitRequest ..
    · split
      · exact sameStore_waitRequest ..
      · exact sameStore_issueRequest ..

theorem sameStore_l2Evict (s : State) (die line : Nat) : SameStore s (l2Evict s die line) := by
  unfold l2Evict
  dsimp only
  split
  · exact ⟨rfl, rfl, rfl⟩
  · have h := sameStore_cohRequest (setL2 s die line .inv) die line
      (if l2At s die line = .owned ∨ l2At s die line = .modified then .writeBack else .cleanEvict) .none
    exact ⟨h.mem, h.groups, h.teams⟩

theorem sameStore_l2Put (s : State) (die line : Nat) (st : LineState) : SameStore s (l2Put s die line st) := by
  unfold l2Put
  dsimp only
  split
  · exact ⟨rfl, rfl, rfl⟩
  · have h := sameStore_l2Evict (pick s (s.coh.l2.getD die []).length).2 die
      ((((s.coh.l2.getD die [])[(pick s (s.coh.l2.getD die []).length).1]?).map (·.1)).getD 0)
    exact ⟨h.mem, h.groups, h.teams⟩

theorem sameStore_takeLine (s : State) (die line : Nat) (new : LineState) (kind : CohKind) (pay : Payload) :
    SameStore s (takeLine s die line new kind pay) := by
  unfold takeLine
  split
  · exact sameStore_l2Put ..
  · exact sameStore_cohRequest ..

/-- A load that reaches an L2 changes no memory. -/
theorem sameStore_l2Touch_load (s : State) (die pa : Nat) : SameStore s (l2Touch s die pa .load) := by
  unfold l2Touch
  dsimp only
  split
  · exact .refl s
  · split
    · split
      · have h := sameStore_cohRequest (pick s 2).2 die (pa / 128) .readShared .none
        exact ⟨h.mem, h.groups, h.teams⟩
      · exact ⟨rfl, rfl, rfl⟩
    · exact sameStore_takeLine ..

theorem sameStore_groupBytes (found s : State) (keys : List Nat) (held : KMap Byte) (pa : Nat) (l : List Byte) :
    SameStore s (groupBytes found s keys held pa l).2 := ⟨by simp, by simp, by simp⟩

theorem sameStore_loadFrom (found s : State) (core : Nat) (keys : List Nat) (held : KMap Byte) (nc : Bool) (pa n : Nat) :
    SameStore s (loadFrom found s core keys held nc pa n).2.2 := by
  unfold loadFrom
  extract_lets k fresh answer insert
  have hanswer (line : FMap 8) (hit : Bool) {t : State} (ht : SameStore s t) : SameStore s (answer line hit t).2.2 :=
    ht.trans (sameStore_groupBytes ..)
  have hinsert {t : State} (ht : SameStore s t) : SameStore s (insert t) := by
    have h := ht.trans (sameStore_l2Touch_load t (dieOfCore core) pa)
    simp only [insert]
    split
    · exact h
    · split <;> exact ⟨h.mem, h.groups, h.teams⟩
  split
  · exact hanswer _ _ (hinsert (.refl s))
  · split
    · exact hanswer _ _ (.refl s)
    · dsimp only
      split
      · exact hanswer _ _ ⟨rfl, rfl, rfl⟩
      · refine hanswer _ _ ?_
        split
        · exact ⟨rfl, rfl, rfl⟩
        · exact hinsert ⟨rfl, rfl, rfl⟩

/-- PREF goes on, and changes no memory. -/
theorem semPref_sameStore (w : ExtArgs) (x : Ctx) (s : State) : ∃ u, semPref w x s = .done u ∧ SameStore s u := by
  refine ⟨_, rfl, sameStore_foldl (fun t l => ?_) s _⟩
  dsimp only
  split
  · exact ⟨rfl, rfl, rfl⟩
  · have h := sameStore_prefAddr (tlbOf s x.core false) x (pick t 2).2 (x.ea w l)
    have hp : SameStore t (prefAddr (tlbOf s x.core false) x (pick t 2).2 (x.ea w l)).2 := ⟨h.mem, h.groups, h.teams⟩
    split
    next heq =>
      rw [heq] at hp
      split
      · exact hp.trans (sameStore_l2Touch_load ..)
      · exact hp.trans (sameStore_loadFrom ..)
    next heq => rw [heq] at hp; exact hp

end Sys2Proof.Proofs
end

section
/-! CCTL (R215, R249): the lines that translations find, and what becomes of them. -/

namespace Sys2Proof.Proofs

open Sys2Proof.Machine Sys2Proof.Safety Sys2Proof.Laws

/-- A change of the state that a translation of the stream does not see, and that does not see it. -/
structure Apart (x : Ctx) (f : State → State) : Prop where
  pick : ∀ s n, Machine.pick (f s) n = ((Machine.pick s n).1, f (Machine.pick s n).2)
  walk : ∀ s va, walkSpace (f s) x.gr.space va = walkSpace s x.gr.space va
  tlb : ∀ s, tlbOf (f s) x.core false = tlbOf s x.core false
  fill : ∀ s l, modCore (f s) x.core (fun k => { k with tlb := l }) = f (modCore s x.core fun k => { k with tlb := l })
  count : ∀ s, x.count (f s) 11 1 = f (x.count s 11 1)

theorem tlbLookup_apart {f : State → State} (hf : ∀ s n, pick (f s) n = ((pick s n).1, f (pick s n).2)) (cap : Nat)
    (old tlb : List TlbEntry) (space va : Nat) (w : Walk) (s : State) :
    tlbLookup cap old tlb space va w (f s) =
      ((tlbLookup cap old tlb space va w s).1, (tlbLookup cap old tlb space va w s).2.1,
        (tlbLookup cap old tlb space va w s).2.2.1, f (tlbLookup cap old tlb space va w s).2.2.2) := by
  unfold tlbLookup
  extract_lets fill same now
  have hfill (l : List TlbEntry) (s : State) : fill l (f s) = ((fill l s).1, f (fill l s).2) := by
    cases w with
    | leaf at_ e base size =>
      simp only [fill, hf]
      split <;> rfl
    | invalid | bad => rfl
  have hnow (s : State) : now (f s) = ((now s).1, (now s).2.1, (now s).2.2.1, f (now s).2.2.2) := by
    simp only [now, hfill]
    split <;> rfl
  split
  · exact hnow s
  · split
    · exact hnow s
    · simp only [hf, hnow]
      split <;> rfl

theorem Apart.quietAddr {x : Ctx} {f : State → State} (hf : Apart x f) (old : List TlbEntry) (s : State) (va : Nat) :
    quietAddr old x (f s) va = ((quietAddr old x s va).1, f (quietAddr old x s va).2) := by
  unfold Machine.quietAddr translateFrom
  rw [hf.walk, hf.tlb, tlbLookup_apart hf.pick]
  generalize tlbLookup (if false = true then 512 else 2048) old (tlbOf s x.core false) x.gr.space va (walkSpace s x.gr.space va) s = r
  obtain ⟨w, hit, l, t⟩ := r
  cases inGridSpace va with
  | false => rfl
  | true =>
    cases hit <;> cases w <;> simp [hf.fill, hf.count]

theorem kset_kset {α : Type} (m : KMap α) (k : Nat) (u v : α) : kset (kset m k u) k v = kset m k v := by
  induction m with
  | nil => simp [kset]
  | cons e m ih =>
    obtain ⟨j, a⟩ := e
    by_cases hj : j = k
    · simp [kset, hj]
    · by_cases hk : k < j <;> simp [kset, hj, hk, ih]

theorem modCore_modCore (s : State) (c : Nat) (f g : Core → Core) :
    modCore (modCore s c f) c g = modCore s c fun k => g (f k) := by
  rw [modCore, coreAt_modCore]
  simp only [modCore, setCore, kset_kset]

theorem count_modCore (x : Ctx) (s : State) (c n m : Nat) (f : Core → Core) :
    x.count (modCore s c f) n m = modCore (x.count s n m) c f := by
  unfold Ctx.count Machine.count
  split
  · rfl
  · split <;> rfl

/-- A change of a core that its TLB has no part in. -/
theorem apart_modCore (x : Ctx) {f : Core → Core} (hf : ∀ k l, f { k with tlb := l } = { f k with tlb := l })
    (ht : ∀ k, (f k).tlb = k.tlb) : Apart x fun s => modCore s x.core f where
  pick _ _ := rfl
  walk _ _ := rfl
  tlb s := by simp [tlbOf, ht]
  fill s l := by
    rw [modCore_modCore, modCore_modCore]
    exact congrArg (modCore s x.core) (funext fun k => (hf k l).symm)
  count s := count_modCore ..

theorem apart_writeBackLine (x : Ctx) (n : Nat) : Apart x (writeBackLine n) where
  pick _ _ := rfl
  walk _ _ := rfl
  tlb _ := rfl
  fill _ _ := rfl
  count s := by
    unfold Ctx.count Machine.count
    split
    · rfl
    · split <;> rfl

/-! ### The lines of an instruction -/

/-- The state that the translations of some addresses leave. -/
def quietAll (old : List TlbEntry) (x : Ctx) (s : State) (l : List Nat) : State :=
  l.foldl (fun s va => (quietAddr old x s va).2) s

/-- f of each line that the addresses of l find, after their translations. -/
def eachLine (old : List TlbEntry) (x : Ctx) (f : Nat → State → State) (s : State) (l : List Nat) : State :=
  (cctlLines old x s l).foldl (fun s n => f n s) (quietAll old x s l)

section
variable {x : Ctx} {f : State → State} (old : List TlbEntry) (s : State) (l : List Nat)

theorem Apart.quietAll (hf : Apart x f) : quietAll old x (f s) l = f (quietAll old x s l) := by
  induction l generalizing s with
  | nil => rfl
  | cons va l ih =>
    simp only [Proofs.quietAll, List.foldl_cons, hf.quietAddr] at ih ⊢
    exact ih _

theorem Apart.cctlLines (hf : Apart x f) : cctlLines old x (f s) l = cctlLines old x s l := by
  induction l generalizing s with
  | nil => rfl
  | cons va l ih => simp only [Safety.cctlLines, hf.quietAddr, ih]

/-- What CCTL does with an address: f of its line where it translates. -/
def quietLine (x : Ctx) (f : Nat → State → State) (s : State) (va : Nat) : State :=
  ((quietAddr old x s va).1.map (· / 128)).elim (quietAddr old x s va).2 fun n => f n (quietAddr old x s va).2

/-- Where the changes of lines are apart from the translations, they may all come after them. -/
theorem foldl_quietLine {f : Nat → State → State} (hf : ∀ n, Apart x (f n)) :
    l.foldl (quietLine old x f) s = eachLine old x f s l := by
  induction l generalizing s with
  | nil => rfl
  | cons va l ih =>
    simp only [eachLine, quietAll, quietLine, List.foldl_cons, Safety.cctlLines] at ih ⊢
    rcases (quietAddr old x s va).1 with _ | pa
    · exact ih _
    · have hq := (hf (pa / 128)).quietAll old (quietAddr old x s va).2 l
      have hl := (hf (pa / 128)).cctlLines old (quietAddr old x s va).2 l
      simp only [quietAll] at hq
      simp [ih, hq, hl]

end

end Sys2Proof.Proofs
end

section
/-! FENCE, PREF, CCTL and PUTI complete (R214, R215, R236, R237, R324). -/

namespace Sys2Proof.Proofs

open Sys2Proof.Machine Sys2Proof.Safety Sys2Proof.Laws

/-! ### Translations that raise nothing -/

/-- u has the store of s, its coherence state, and what the core's L1 and instruction cache hold. -/
structure SameCaches (core : Nat) (s u : State) : Prop extends SameStore s u where
  coh : u.coh = s.coh
  l1 : (coreAt u core).l1 = (coreAt s core).l1
  icache : (coreAt u core).icache = (coreAt s core).icache

theorem SameCaches.refl (core : Nat) (s : State) : SameCaches core s s := ⟨.refl s, rfl, rfl, rfl⟩

theorem SameCaches.trans {core : Nat} {s t u : State} (h : SameCaches core s t) (k : SameCaches core t u) :
    SameCaches core s u :=
  ⟨h.toSameStore.trans k.toSameStore, k.coh.trans h.coh, k.l1.trans h.l1, k.icache.trans h.icache⟩

theorem sameCaches_translateFrom (old : List TlbEntry) (s : State) (core space va : Nat) :
    SameCaches core s (translateFrom old s core false space va).2.2 := by
  have h := tlbLookup_eq (if false then 512 else 2048) old (tlbOf s core false) space va (walkSpace s space va) s
  unfold translateFrom
  generalize tlbLookup (if false then 512 else 2048) old (tlbOf s core false) space va (walkSpace s space va) s = r at h ⊢
  obtain ⟨w, hit, l, t⟩ := r
  dsimp only at h ⊢
  have ht : SameCaches core s t := by rw [h]; exact ⟨⟨rfl, rfl, rfl⟩, rfl, rfl, rfl⟩
  cases hit with
  | true => exact ht
  | false => exact ht.trans ⟨⟨rfl, rfl, rfl⟩, rfl, by simp, by simp⟩

theorem sameCaches_count (core : Nat) (x : Ctx) (s : State) (c n : Nat) : SameCaches core s (x.count s c n) := by
  rw [count_eq]; exact ⟨⟨rfl, rfl, rfl⟩, rfl, rfl, rfl⟩

theorem sameCaches_quietAddr (old : List TlbEntry) (x : Ctx) (s : State) (va : Nat) :
    SameCaches x.core s (quietAddr old x s va).2 := by
  have h := sameCaches_translateFrom old s x.core x.gr.space va
  unfold quietAddr
  generalize translateFrom old s x.core false x.gr.space va = r at h ⊢
  obtain ⟨w, hit, t⟩ := r
  cases inGridSpace va with
  | false => exact .refl ..
  | true =>
    have ht : SameCaches x.core s (if hit = true then t else x.count t 11 1) := by
      cases hit with
      | true => exact h
      | false => exact h.trans (sameCaches_count ..)
    cases w <;> exact ht

theorem sameCaches_quietAll (old : List TlbEntry) (x : Ctx) (s : State) (l : List Nat) :
    SameCaches x.core s (quietAll old x s l) := by
  induction l generalizing s with
  | nil => exact .refl ..
  | cons va l ih => exact (sameCaches_quietAddr old x s va).trans (ih _)

section
variable {x : Ctx} {s : State} {va : Nat}

theorem quietAddr_outside (old : List TlbEntry) (h : inGridSpace va = false) : quietAddr old x s va = (none, s) := by
  simp [quietAddr, h]

/-- With an empty TLB a translation is the walk of the tables. -/
theorem translateFrom_empty (ht : tlbOf s x.core false = []) (space : Nat) :
    (translateFrom [] s x.core false space va).1 = walkSpace s space va := by
  simp [translateFrom, tlbLookup, ht, tlbFind]

theorem quietAddr_leaf (ht : tlbOf s x.core false = []) (h : inGridSpace va = true) {a b n : Nat} {e : DWord}
    (hw : walkSpace s x.gr.space va = .leaf a e b n) : (quietAddr [] x s va).1 = some (leafFrame e + (va - b)) := by
  simp [quietAddr, h, translateFrom_empty ht, hw]

theorem quietAddr_no_leaf (ht : tlbOf s x.core false = []) (h : inGridSpace va = true)
    (hw : ∀ a e b n, walkSpace s x.gr.space va ≠ .leaf a e b n) : (quietAddr [] x s va).1 = none := by
  cases hl : walkSpace s x.gr.space va with
  | leaf a e b n => exact absurd hl (hw a e b n)
  | invalid | bad => simp [quietAddr, h, translateFrom_empty ht, hl]

end

/-! ### CCTL -/

section
variable (x : Ctx) (w : ExtArgs) (wb : Nat → State → State) (s : State)

/-- The line leaves the core's L1, and the core's instruction cache. -/
def l1Drop (core n : Nat) (s : State) : State := modCore s core fun k => { k with l1 := kdel k.l1 n }
def icDrop (core n : Nat) (s : State) : State := modCore s core fun k => { k with icache := kdel k.icache n }

theorem semCctl_lines {f : Nat → State → State} (h : w.sub = 0 ∧ f = l1Drop x.core ∨ w.sub = 2 ∧ f = icDrop x.core ∨
    w.sub = 3 ∧ f = wb) : semCctl wb w x s =
      .done (((x.active w).map (x.ea w)).foldl (quietLine (tlbOf s x.core false) x f) s) := by
  have hstep (f : Nat → State → State) (t : State) (l : Nat) : quietLine (tlbOf s x.core false) x f t (x.ea w l) =
      match quietAddr (tlbOf s x.core false) x t (x.ea w l) with
      | (some pa, s) => f (pa / 128) s
      | (none, s) => s := by
    unfold quietLine
    rcases quietAddr (tlbOf s x.core false) x t (x.ea w l) with ⟨_ | pa, t⟩ <;> rfl
  simp only [List.foldl_map, hstep]
  rcases h with ⟨hs, rfl⟩ | ⟨hs, rfl⟩ | ⟨hs, rfl⟩ <;> (unfold semCctl; rw [hs]; rfl)

/-- All lines of the core's L1 go at once where a lane acts. -/
theorem semCctl_all (h : w.sub = 1) : semCctl wb w x s =
    .done (if (x.active w).isEmpty then s else modCore s x.core fun k => { k with l1 := [] }) := by
  unfold semCctl
  rw [h]
  rfl

end

/-- Lines that leave the core's L1, its instruction cache, or are written back. -/
theorem foldl_l1Drop (core : Nat) (l : List Nat) (s : State) :
    SameStore s (l.foldl (fun s n => l1Drop core n s) s) ∧ (l.foldl (fun s n => l1Drop core n s) s).coh = s.coh ∧
      (coreAt (l.foldl (fun s n => l1Drop core n s) s) core).l1 = l.foldl kdel (coreAt s core).l1 ∧
      (coreAt (l.foldl (fun s n => l1Drop core n s) s) core).icache = (coreAt s core).icache := by
  induction l generalizing s with
  | nil => exact ⟨.refl s, rfl, rfl, rfl⟩
  | cons n l ih =>
    obtain ⟨hs, hc, hl, hi⟩ := ih (l1Drop core n s)
    exact ⟨⟨hs.mem, hs.groups, hs.teams⟩, hc, hl.trans (by simp [l1Drop]), hi.trans (by simp [l1Drop])⟩

theorem foldl_icDrop (core : Nat) (l : List Nat) (s : State) :
    SameStore s (l.foldl (fun s n => icDrop core n s) s) ∧ (l.foldl (fun s n => icDrop core n s) s).coh = s.coh ∧
      (coreAt (l.foldl (fun s n => icDrop core n s) s) core).l1 = (coreAt s core).l1 ∧
      (coreAt (l.foldl (fun s n => icDrop core n s) s) core).icache = l.foldl kdel (coreAt s core).icache := by
  induction l generalizing s with
  | nil => exact ⟨.refl s, rfl, rfl, rfl⟩
  | cons n l ih =>
    obtain ⟨hs, hc, hl, hi⟩ := ih (icDrop core n s)
    exact ⟨⟨hs.mem, hs.groups, hs.teams⟩, hc, hl.trans (by simp [icDrop]), hi.trans (by simp [icDrop])⟩

theorem foldl_writeBackLine (l : List Nat) (s : State) : l.foldl (fun s n => writeBackLine n s) s =
    { s with coh := { s.coh with l2 := l.foldl (fun m n => m.map fun k => kmod k n cleanState) s.coh.l2 } } := by
  induction l generalizing s with
  | nil => rfl
  | cons n l ih => exact ih (writeBackLine n s)

/-- CCTL of lines, after the translations that find them. -/
theorem semCctl_eachLine {x : Ctx} {w : ExtArgs} {s : State} {f : Nat → State → State}
    (h : w.sub = 0 ∧ f = l1Drop x.core ∨ w.sub = 2 ∧ f = icDrop x.core ∨ w.sub = 3 ∧ f = writeBackLine) :
    semCctl writeBackLine w x s = .done (eachLine (tlbOf s x.core false) x f s ((x.active w).map (x.ea w))) := by
  have hf (n : Nat) : Apart x (f n) := by
    rcases h with ⟨-, rfl⟩ | ⟨-, rfl⟩ | ⟨-, rfl⟩
    · exact apart_modCore x (fun _ _ => rfl) fun _ => rfl
    · exact apart_modCore x (fun _ _ => rfl) fun _ => rfl
    · exact apart_writeBackLine x n
  rw [semCctl_lines x w writeBackLine s h, foldl_quietLine _ _ _ hf]

/-- What CCTL leaves: each clause says what one of its operations does, and that the others do not. -/
structure CctlDone (x : Ctx) (w : ExtArgs) (s : State) (lines : List Nat) (u : State) : Prop extends SameStore s u where
  l1 : w.sub ≠ 1 → (coreAt u x.core).l1 = if w.sub = 0 then lines.foldl kdel (coreAt s x.core).l1 else (coreAt s x.core).l1
  icache : (coreAt u x.core).icache = if w.sub = 2 then lines.foldl kdel (coreAt s x.core).icache else (coreAt s x.core).icache
  back : w.sub = 3 → u.coh.l2 = lines.foldl (fun m n => m.map fun k => kmod k n cleanState) s.coh.l2
  coh : w.sub ≠ 3 → u.coh = s.coh

theorem semCctl_done (x : Ctx) {w : ExtArgs} (s : State) (hsub : w.sub.toNat < 4) :
    ∃ u, semCctl writeBackLine w x s = .done u ∧
      CctlDone x w s (cctlLines (tlbOf s x.core false) x s ((x.active w).map (x.ea w))) u := by
  have hq := sameCaches_quietAll (tlbOf s x.core false) x s ((x.active w).map (x.ea w))
  have hw : w.sub = 0 ∨ w.sub = 1 ∨ w.sub = 2 ∨ w.sub = 3 := by bv_omega
  rcases hw with hw | hw | hw | hw
  · refine ⟨_, semCctl_eachLine (.inl ⟨hw, rfl⟩), ?_⟩
    obtain ⟨hs, hc, hl, hi⟩ := foldl_l1Drop x.core (cctlLines (tlbOf s x.core false) x s ((x.active w).map (x.ea w)))
      (quietAll (tlbOf s x.core false) x s ((x.active w).map (x.ea w)))
    exact { toSameStore := hq.toSameStore.trans hs, l1 := fun _ => by rw [if_pos hw, ← hq.l1]; exact hl
            icache := by rw [if_neg (by rw [hw]; decide)]; exact hi.trans hq.icache
            back := fun h => absurd (hw.symm.trans h) (by decide), coh := fun _ => hc.trans hq.coh }
  · refine ⟨_, semCctl_all x w writeBackLine s hw, ?_⟩
    split
    · exact { toSameStore := .refl s, l1 := fun h => absurd hw h, icache := by rw [if_neg (by rw [hw]; decide)]
              back := fun h => absurd (hw.symm.trans h) (by decide), coh := fun _ => rfl }
    · exact { toSameStore := ⟨rfl, rfl, rfl⟩, l1 := fun h => absurd hw h
              icache := by rw [if_neg (by rw [hw]; decide), coreAt_modCore]
              back := fun h => absurd (hw.symm.trans h) (by decide), coh := fun _ => rfl }
  · refine ⟨_, semCctl_eachLine (.inr (.inl ⟨hw, rfl⟩)), ?_⟩
    obtain ⟨hs, hc, hl, hi⟩ := foldl_icDrop x.core (cctlLines (tlbOf s x.core false) x s ((x.active w).map (x.ea w)))
      (quietAll (tlbOf s x.core false) x s ((x.active w).map (x.ea w)))
    exact { toSameStore := hq.toSameStore.trans hs, l1 := fun _ => by rw [if_neg (by rw [hw]; decide)]; exact hl.trans hq.l1
            icache := by rw [if_pos hw, ← hq.icache]; exact hi
            back := fun h => absurd (hw.symm.trans h) (by decide), coh := fun _ => hc.trans hq.coh }
  · refine ⟨_, semCctl_eachLine (.inr (.inr ⟨hw, rfl⟩)), ?_⟩
    rw [eachLine, foldl_writeBackLine]
    exact { toSameStore := ⟨hq.mem, hq.groups, hq.teams⟩, l1 := fun _ => by rw [if_neg (by rw [hw]; decide)]; exact hq.l1
            icache := by rw [if_neg (by rw [hw]; decide)]; exact hq.icache
            back := fun _ => by rw [← hq.coh], coh := fun h => absurd hw h }

/-! ### How these issue -/

/-- An instruction that issues passes its decode checks. -/
theorem chk_of_issues {how : IssueHow} {s : State} {x : Ctx} (h : issues how s x = true) :
    how.chk (waited how x).dec = none := by
  simp only [issues, Bool.and_eq_true, Option.isNone_iff_eq_none] at h
  exact h.1.1.2

/-- An instruction that passes its decode checks has a legal SUB (R93, order 4). -/
theorem subOk_of_opCheck {op : Nat} {e : Bool} {c : Option DecodeCtx} {w : ExtArgs} {r : OpRow} (h : opCheck op e c w = none)
    (hr : opRow op = some r) : r.subOk w = true := by
  by_contra hn
  unfold opCheck at h
  rw [hr] at h
  dsimp only at h
  simp only [hn] at h
  split at h <;> cases h

theorem cctl_sub {e : Bool} {w : ExtArgs} {s : State} {x : Ctx} (h : issues (howOp 0xAE e w) s x = true) : w.sub.toNat < 4 :=
  of_decide_eq_true (subOk_of_opCheck (show opCheck 0xAE e (some _) w = none from chk_of_issues h) rfl)

/-- CCTL of one form. -/
theorem cctl_completes {i : Instr} {e : Bool} {w : ExtArgs} (hi : runsAs i (howOp 0xAE e w) (semCctl writeBackLine w)) :
    (goesOn i (howOp 0xAE e w) fun x s u => w.sub = 1 ∧ x.active w ≠ [] ∧ u = modCore s x.core fun k => { k with l1 := [] }) ∧
    ∀ s x, issues (howOp 0xAE e w) s x = true →
      let z := waited (howOp 0xAE e w) x
      let t := waitedState (howOp 0xAE e w) x s
      let lines := cctlLines (tlbOf t z.core false) z t ((z.active w).map (z.ea w))
      ∃ u, exec i s = .next (afterDone (howOp 0xAE e w) z u) ∧ u.mem = s.mem ∧ u.groups = t.groups ∧ u.teams = s.teams ∧
        (w.sub ≠ 1 → (coreAt u z.core).l1 = if w.sub = 0 then lines.foldl kdel (coreAt s z.core).l1 else (coreAt s z.core).l1) ∧
        (coreAt u z.core).icache = (if w.sub = 2 then lines.foldl kdel (coreAt s z.core).icache else (coreAt s z.core).icache) ∧
        (w.sub = 3 → u.coh.l2 = lines.foldl (fun m n => m.map fun k => kmod k n cleanState) s.coh.l2) ∧
        (w.sub ≠ 3 → u.coh = s.coh) := by
  refine ⟨goesOn_of_done hi fun x s u ⟨hw, ha, hu⟩ => ?_, ?_⟩
  · rw [semCctl_all _ _ _ _ hw, if_neg (by simpa using ha), hu]
  · intro s x hs z t lines
    obtain ⟨u, hu, hd⟩ := semCctl_done z t (cctl_sub hs)
    have ht : t = { s with groups := t.groups } := waitedState_eq _ x s
    have hcore : coreAt t z.core = coreAt s z.core := by rw [ht]; rfl
    have hcoh : t.coh = s.coh := (congrArg State.coh ht :)
    obtain ⟨⟨hmem, hgroups, hteams⟩, hl1, hic, hback, hsame⟩ := hd
    rw [hcore] at hl1 hic
    rw [hcoh] at hback hsame
    exact ⟨u, by rw [exec_of_runsAs hi hs, hu]; rfl, hmem.trans (congrArg State.mem ht :), hgroups,
      hteams.trans (congrArg State.teams ht :), hl1, hic, hback, hsame⟩

/-! ### PREF -/

theorem pref_completes {i : Instr} {how : IssueHow} {w : ExtArgs} (hi : runsAs i how (semPref w)) :
    (goesOn i how fun x s u => x.active w = [] ∧ u = s) ∧
    ∀ s x, issues how s x = true → ∃ u, exec i s = .next (afterDone how (waited how x) u) ∧ u.mem = s.mem ∧
      u.groups = (waitedState how x s).groups ∧ u.teams = s.teams := by
  refine ⟨goesOn_of_done hi fun x s u ⟨ha, hu⟩ => ?_, fun s x hs => ?_⟩
  · rw [semPref, ha, hu]
    rfl
  · obtain ⟨u, hu, hmem, hgroups, hteams⟩ := semPref_sameStore w (waited how x) (waitedState how x s)
    have ht := waitedState_eq how x s
    exact ⟨u, by rw [exec_of_runsAs hi hs, hu]; rfl, hmem.trans (congrArg State.mem ht :), hgroups,
      hteams.trans (congrArg State.teams ht :)⟩

/-! ### PUTI -/

theorem frPut_eq {s t : State} {g : Grid} {off n v : Nat} (h : frPut s g off n v = some t) : t = { s with mem := t.mem } := by
  unfold frPut at h
  dsimp only at h
  split at h
  · cases h
  · split at h
    · split at h <;> cases h
      rfl
    · cases h

theorem frWrite_header_eq (s : State) (h : Nat) :
    frWrite s h none = { s with mem := (frWrite s h none).mem, grids := (frWrite s h none).grids } := by
  unfold frWrite
  split
  · rfl
  · dsimp only [Option.bind_some]
    split
    · rfl
    · split
      next hp => rw [frPut_eq hp]
      next => rfl

/-- A set that becomes non-replayable changes in its grids and their record alone. -/
theorem noReplay_eq (s : State) (x : Ctx) :
    noReplay s x = { s with mem := (noReplay s x).mem, grids := (noReplay s x).grids } := by
  have hm : markNonReplay s x.t.grid.toNat = { s with grids := (markNonReplay s x.t.grid.toNat).grids } := by
    unfold markNonReplay
    split <;> rfl
  unfold noReplay snapReport
  simp only [Bool.false_eq_true, if_false]
  generalize markNonReplay s x.t.grid.toNat = m at hm ⊢
  split
  · split
    · rw [frWrite_header_eq, hm]
    · rw [hm]
  · rw [hm]

/-- The remote write that PUTI sends (R324). -/
def putiMsg (x : Ctx) (w : ExtArgs) (s : State) : PutMsg :=
  { pid := pidOf s x.gr.space, src := s.pkg, dst := BitVec.ofNat 12 (x.lowS w.b.toNat).toNat
    key := (x.lowPair w.a.toNat).extractLsb' 32 32, offset := (x.lowPair w.a.toNat).extractLsb' 0 32
    value := w.lit.getD 0, word := x.lowS w.d.toNat, putk := false
    issuer := .grid x.t.grid (BitVec.ofNat 32 x.t.num) (BitVec.ofNat 5 x.g.gid) }

section
variable {x : Ctx} {w : ExtArgs} {s : State}

theorem semPuti_range (s : State) (ha : x.active w ≠ []) (hp : 2303 < (x.lowS w.b.toNat).toNat) :
    semPuti w x s = .fault s 0x24 0 0 := by
  rw [semPuti, once_act w s _ ha, if_pos hp]

theorem semPuti_waits (ha : x.active w ≠ []) (hp : (x.lowS w.b.toNat).toNat ≤ 2303)
    (hc : takeBulk s (BitVec.ofNat 12 (x.lowS w.b.toNat).toNat) = none) : semPuti w x s = .stall s := by
  rw [semPuti, once_act w s _ ha, if_neg (Nat.not_lt.mpr hp), hc]

/-- With its credit the message leaves, and the set is non-replayable. -/
theorem semPuti_sends {v : State} (ha : x.active w ≠ []) (hp : (x.lowS w.b.toNat).toNat ≤ 2303)
    (hc : takeBulk s (BitVec.ofNat 12 (x.lowS w.b.toNat).toNat) = some v) : semPuti w x s =
      .done (emit (modGrid (noReplay v x) x.t.grid.toNat fun g => { g with puts := g.puts + 1 }) (.put (putiMsg x w v))) := by
  rw [semPuti, once_act w s _ ha, if_neg (Nat.not_lt.mpr hp), hc]
  dsimp only
  have hmsg : putiMsg x w (modGrid (noReplay v x) x.t.grid.toNat fun g => { g with puts := g.puts + 1 }) = putiMsg x w v := by
    rw [noReplay_eq]
    rfl
  rw [← hmsg]
  rfl

end

theorem runsAs_puti {i : Instr} {how : IssueHow} {w : ExtArgs}
    (h : (∃ b v, i = .puti b v ∧ how = howOp 0xAF false (b.ext (some v)) ∧ w = b.ext (some v))
      ∨ (i = .putiX w ∧ how = howOp 0xAF true w)) : runsAs i (howCompare w how) (semPuti w) := by
  rcases h with ⟨b, v, rfl, rfl, rfl⟩ | ⟨rfl, rfl⟩ <;> exact fun _ => rfl

/-- Settles O36: each clause is the meaning of its instruction where its conditions hold. -/
theorem fencesAndCachesComplete : Obligations.fences_and_caches_complete := by
  refine ⟨fun y scope kind => ?_, fun w => ?_, fun s x scope => ⟨acquire_l1 s x scope, kget_acquire_behind s x scope⟩,
    inForms3_of_sem semPref (fun _ _ => rfl) (fun _ _ _ => rfl) (fun _ _ => rfl) fun _ _ _ hi => pref_completes hi,
    ⟨⟨fun w => cctl_completes fun _ => rfl, fun w => cctl_completes fun _ => rfl⟩, fun w v => cctl_completes fun _ => rfl⟩,
    fun x s va ht => ⟨quietAddr_outside [], fun hva => ⟨fun a e b n => quietAddr_leaf ht hva, quietAddr_no_leaf ht hva⟩⟩,
    fun i how w hw => ⟨fun v => ?_, ?_, fun s x hs => ?_⟩⟩
  · refine goesOn_of_done (body := semFence scope.toNat kind.toNat fun _ => true) (fun _ => rfl) fun x s u hu => ?_
    have hk : kind.toNat = 2 ↔ kind = 2 := BitVec.toNat_inj (y := 2)
    simp only [semFence_eq, hk, hu, Bool.true_eq_false, false_or]
  · refine goesOn_of_done (body := semFence (w.d.extractLsb' 0 3).toNat (w.d.extractLsb' 3 2).toNat
      fun x => !(x.active w).isEmpty) (fun _ => rfl) fun x s u hu => ?_
    have hk : (w.d.extractLsb' 3 2).toNat = 2 ↔ w.d.extractLsb' 3 2 = 2 := BitVec.toNat_inj (y := 2)
    simp only [semFence_eq, hk, hu, Bool.not_eq_false']
  · exact goesOn_of_done (runsAs_puti hw) fun x s u h => done_of_onceTo w h ⟨_, rfl⟩ fun ha ⟨hp, hc, hu⟩ => by
      rw [hu]
      exact semPuti_sends ha hp hc
  · exact faultsWith_of_fault (runsAs_puti hw) fun x s ⟨ha, hp⟩ => semPuti_range s ha hp
  · intro z t ha hp hc
    rw [exec_of_runsAs (runsAs_puti hw) hs, semPuti_waits ha hp hc]
    rfl

end Sys2Proof.Proofs
end

section
/-! The engines at the heads of their queues, and the ends of waits (R191, R221, R223, R270, R271, R273, R286 to R290, R296, R321,
R395 to R399). -/

namespace Sys2Proof.Proofs

open Sys2Proof.Machine

/-! ### The matrix FIFO -/

section
variable {c : Nat} {s : State} {o : MatOp} {l : List MatOp}

/-- A head that finds its slots is performed and leaves the FIFO (R270). -/
theorem execMatrixFifoHead_done (hfifo : (coreAt s c).fifo = o :: l) (hperf : o.performs = true)
    (hdone : (performMat s c o).2 = true) :
    execMatrixFifoHead c s = .next (popFifo (performMat s c o).1 c o) := by
  rcases hp : performMat s c o with ⟨t, done⟩
  obtain rfl : done = true := by simpa [hp] using hdone
  simp [execMatrixFifoHead, hfifo, hperf, hp]

/-- A head that finds no slot keeps the handles it has bound, and the clock of its wait starts unless it runs already (R271). -/
theorem execMatrixFifoHead_waits (hfifo : (coreAt s c).fifo = o :: l) (hperf : o.performs = true)
    (hwait : (performMat s c o).2 = false) :
    execMatrixFifoHead c s = .next (if (coreAt (performMat s c o).1 c).starve.isSome then (performMat s c o).1
      else modCore (performMat s c o).1 c fun k => { k with starve := some (performMat s c o).1.dtime }) := by
  rcases hp : performMat s c o with ⟨t, done⟩
  obtain rfl : done = false := by simpa [hp] using hwait
  simp [execMatrixFifoHead, hfifo, hperf, hp]

/-- The limit of R271 with an empty free list removes the team's operations, frees its slots and ends it with 0x26. -/
theorem execAccumulatorStarvation_ends {since : DWord} (hfifo : (coreAt s c).fifo = o :: l)
    (hstarve : (coreAt s c).starve = some since) (hlimit : starveLimit ≤ (s.dtime - since).toNat)
    (hfree : (coreAt s c).free = []) :
    let ids := ((coreAt s c).fifo.filter fun x => decide (x.team = o.team)).map (·.id)
    let u := mapOps (modCore s c fun k => { k with fifo := k.fifo.filter fun x => !decide (x.team = o.team), starve := none })
      fun x => dropFence ids (abortDrain ids x)
    let v := (teamGroups u o.team).foldl (fun s p => (List.range 16).foldl (fun s h => releaseHandle s c p.1 h) s) u
    execAccumulatorStarvation c s = .next (queueMoved
      (endByFault v o.team o.group 16 (((kget v.groups o.group).map (·.gid)).getD 0) 0x26 0 false 0 0) o.team) := by
  simp only [execAccumulatorStarvation, hfifo, hstarve, hlimit, hfree, decide_true, List.isEmpty_nil, Bool.and_true, whenOk_true,
    happens_some]

/-- The oldest batch of which no operation stands is retired (R273). -/
theorem execBatchRetire_retires {u : Nat} {g : Group} (hgroup : kget s.groups u = some g) (hopen : g.mopen ≠ 0)
    (hover : batchOpen s u (g.mbatch - BitVec.ofNat 8 g.mopen) = false) :
    execBatchRetire u s = .next (modGroup s u fun g => { g with mopen := g.mopen - 1 }) := by
  simp [execBatchRetire, hgroup, hopen, hover]

end

/-! ### The engines' queues -/

section
variable {q : EngQueue} {s : State} {o : EngOp} {f : EngOp → Option State}

/-- An engine works on a head that has work left. -/
theorem work_unworked (hhead : q.head s = some o) (hwork : o.worked = false) : q.work s f = f o := by
  simp [EngQueue.work, hhead, hwork]

/-- A head of which only the completion remains leaves, whatever the engine would do. -/
theorem work_worked (hhead : q.head s = some o) (hwork : o.worked = true) : q.work s f = some (q.leave o s) := by
  simp [EngQueue.work, hhead, hwork]

/-- An event of an engine makes such a head leave. -/
theorem happens_work_worked (hhead : q.head s = some o) (hwork : o.worked = true) (f : EngOp → Option State) :
    happens s (q.work s f) = .next (q.leave o s) := by
  rw [work_worked hhead hwork, happens_some]

end

section
variable {c : Nat} {s : State} {o : EngOp} {d src : Shape} {w : Word}

/-- The barge stores a tile that the matrix FIFO has handed over (R287). -/
theorem execBargeDrain_runs {f : FmtSlot} {add : Bool} {tile : FMap 32} (hhead : (EngQueue.copy c).head s = some o)
    (hwork : o.worked = false) (hkind : o.kind = .drain d f add w (some tile) false) :
    execBargeDrain c s = .next ((EngQueue.copy c).run none o (tileCount d.box) (drainElem d f add tile) s) := by
  simp [execBargeDrain, bargeDrain, work_unworked hhead hwork, hkind]

/-- The reserved entry of a removed ADRAIN fails with error 4 (R271). -/
theorem execAbortedDrain_fails {f : FmtSlot} {add : Bool} {tile : Option (FMap 32)}
    (hhead : (EngQueue.copy c).head s = some o) (hwork : o.worked = false) (hkind : o.kind = .drain d f add w tile true) :
    execAbortedDrain c s = .next ((EngQueue.copy c).fail o 4 none s) := by
  simp [execAbortedDrain, work_unworked hhead hwork, hkind]

/-- The barge copies a tile (R288). -/
theorem execBcopyPerform_runs (hhead : (EngQueue.copy c).head s = some o) (hwork : o.worked = false)
    (hkind : o.kind = .bcopy d src w) :
    execBcopyPerform c s = .next ((EngQueue.copy c).run none o (tileCount d.box)
      (copyElem d src fun o s b v => engWrite o s d.loc d.base b (elemBits d.elem) v) s) := by
  simp [execBcopyPerform, bargeCopy, work_unworked hhead hwork, hkind]

/-- An operation whose kind is written again as it stands is unchanged. -/
theorem EngOp_kind_eta {k : EngKind} (hkind : o.kind = k) : { o with kind := k } = o := by
  subst hkind
  rfl

/-- The barge copies a tile to the receivers that the operation has taken down (R289). -/
theorem execBcopymPerform_runs {mask : BitVec 8} {l : List Nat} (hhead : (EngQueue.copy c).head s = some o)
    (hwork : o.worked = false) (hkind : o.kind = .bcopym mask d src (some l)) :
    execBcopymPerform c s = .next ((EngQueue.copy c).run none o (if mask = 0 then 0 else tileCount d.box)
      (copyElem d src fun o s b v => multiWrite o l d s b v) s) := by
  simp only [execBcopymPerform, bargeMulti, work_unworked hhead hwork, hkind, Option.getD_some, EngOp_kind_eta hkind, happens_some]

/-- The sluice works on a ROUTE (R296). -/
theorem execRoutePerform_runs {die : BitVec 2} {a : RouteArgs} (hhead : (EngQueue.route die.toNat).head s = some o)
    (hwork : o.worked = false) (hkind : o.kind = .route a) :
    execRoutePerform die s = .next (routeWork none die.toNat a o s) := by
  simp [execRoutePerform, sluiceRoute, work_unworked hhead hwork, hkind]

/-- A COLL is performed with the tile that it has read (R321, R322). -/
theorem execCollPerform_runs {p : EngOp} {t : State} {f : FmtSlot} {h : Nat} {k : List Nat} {tile : FMap 32} {fl inc : DWord}
    (hhead : (EngQueue.coll c).head s = some o) (hwork : o.worked = false) (hread : readCollTile c o s = (p, t))
    (hkind : p.kind = .coll d f h k (some tile) fl inc w) :
    execCollPerform c s = .next ((EngQueue.coll c).run none p (tileCount d.box + 1)
      (collElem d f tile (tileCount d.box)) t) := by
  simp [execCollPerform, collWork, work_unworked hhead hwork, hread, hkind]

/-- Each event of the barge completes a head whose work is done. -/
theorem exec_barge_worked (hhead : (EngQueue.copy c).head s = some o) (hwork : o.worked = true) {i : Instr}
    (hi : i ∈ [.bargeDrain c, .abortedDrain c, .bcopyPerform c, .bcopymPerform c]) : exec i s = .next ((EngQueue.copy c).leave o s) := by
  simp only [List.mem_cons, List.not_mem_nil, or_false] at hi
  obtain rfl | rfl | rfl | rfl := hi <;> exact happens_work_worked hhead hwork _

end

/-! ### The hand-over of a drained tile -/

/-- The drain that the ADRAIN reserved takes the tile of the slot, empty where the handle is unbound, and the ADRAIN leaves the FIFO
(R287). -/
theorem execAdrainHandOver_gives {c : Nat} {s : State} {o : MatOp} {l : List MatOp} {h : Nat}
    (hfifo : (coreAt s c).fifo = o :: l) (hkind : o.kind = .adrain h) :
    let tile := ((boundSlot s o.group h).map (accTile (coreAt s c))).getD []
    execAdrainHandOver c s = .next (queueMoved (modCore s c fun k => { k with
      fifo := k.fifo.tail
      copyq := k.copyq.map fun x => match x.kind with
        | .drain d f a w none false =>
          if x.id = o.id then { x with kind := .drain d f a w (some tile) false } else x
        | _ => x }) o.team) := by
  simp only [execAdrainHandOver, hfifo, hkind]
  cases boundSlot s o.group h <;> rfl

/-! ### Page faults of the engines -/

section
variable {eng : EngineId} {s : State} {o : EngOp} {l : List EngOp} {page : DWord} {t : Team}

/-- The operation of a team that is gone fails. -/
theorem execEngineFaultDelivery_no_team (hqueue : (queueOf eng).get s = o :: l) (hpage : o.page = some page)
    (hteam : kget s.teams o.team = none) :
    execEngineFaultDelivery eng s = .next ((queueOf eng).fail { o with page := none } 2 none s) := by
  simp [execEngineFaultDelivery, hqueue, hpage, hteam]

/-- With no group that runs to take the fault the operation fails (R223), as it does while its set stops for a replay (R375). -/
theorem execEngineFaultDelivery_no_stream (hqueue : (queueOf eng).get s = o :: l) (hpage : o.page = some page)
    (hteam : kget s.teams o.team = some t)
    (hnone : t.ended = true ∨ o.replaying s = true ∨ faultGroup s o = none ∨ t.core = none) :
    execEngineFaultDelivery eng s =
      .next ((queueOf eng).fail { o with page := none } 2 none (countTeam s o.team 13)) := by
  simp only [execEngineFaultDelivery, hqueue, hpage, hteam]
  obtain h | h | h | h := hnone
  · simp [h]
  · simp [h]
  · simp [h]
  · cases hg : (if (t.ended || o.replaying s) = true then none else faultGroup s o) <;> simp [h]

/-- A stream that can take the fault takes it; with no handler its team ends and the operation fails (R223, R362). -/
theorem execEngineFaultDelivery_delivers {u e c : Nat} {g : Group} (hqueue : (queueOf eng).get s = o :: l)
    (hpage : o.page = some page) (hteam : kget s.teams o.team = some t) (hended : t.ended = false)
    (hreplay : o.replaying s = false) (hgroup : faultGroup s o = some (u, g, e)) (hcore : t.core = some c)
    (hpend : o.pend = none) (hstop : t.stop = none) (hbusy : partitionBusy s c g.part = false)
    (hasked : (g.split e).asked = false) :
    execEngineFaultDelivery eng s = .next (if handlerAddr s t.grid.toNat 1 = 0 ∧ hostMode s 0 = false
      then (queueOf eng).fail { o with page := none } 2 none
        (endByFault (countTeam s o.team 13) o.team u e g.gid 1 2 false (g.stands e).1 page)
      else (queueOf eng).put { o with pend := some (u, e) } (deliver (countTeam s o.team 13) t u g e page)) := by
  simp only [execEngineFaultDelivery, hqueue, hpage, hteam, hended, hreplay, hgroup, hcore, hpend, hstop, hbusy, hasked,
    Bool.or_false, Bool.false_eq_true, if_false, Option.isSome_none, Bool.not_eq_true]
  split <;> rfl

end

/-! ### The ends of waits -/

section
variable {u : Nat} {e : BitVec 2} {s t v : State} {w : Wait} {x : Ctx} (hwait : waiting s u e.toNat = some (w, x, t))
include hwait

section
variable {word : Word} {phase : Bool} (hfor : w.for_ = .barrier word phase)
include hfor

/-- A barrier whose phase has turned lets the stream go on, which acquires at the barrier's scope (R395). -/
theorem execWaitWake_barrier {q : BarLoc × Barrier} (hread : barrierAt x t word none = .ok q v)
    (hclean : barrierPoison v q.1 = none) (hturned : q.2.phase ≠ phase) :
    execWaitWake u e s = .next (endWait w x (acquire v x q.2.scope)) := by
  simp [execWaitWake, hwait, hfor, hread, hclean, hturned]

/-- A barrier whose read stops stops the wait. -/
theorem execWaitWake_barrier_stops {r : Res} (hread : barrierAt x t word none = .stop r) :
    execWaitWake u e s = .next (stopWait w x r) := by
  simp [execWaitWake, hwait, hfor, hread]

/-- A poisoned barrier faults the stream with its detail. -/
theorem execWaitWake_barrier_poison {q : BarLoc × Barrier} {d : Nat} (hread : barrierAt x t word none = .ok q v)
    (hpoison : barrierPoison v q.1 = some d) : execWaitWake u e s = .next (streamFault v x 0x40 d 0) := by
  simp [execWaitWake, hwait, hfor, hread, hpoison]

end

section
variable {addr : DWord} {code : Nat} {n : Word} (hfor : w.for_ = .value addr code n)
include hfor

/-- A word that satisfies the compare lets the stream go on (R398). -/
theorem execWaitWake_value {p : Nat × DWord} (hread : waitvRead x t addr.toNat = .ok p v)
    (hmet : intCompare code (BitVec.ofNat 32 p.1) n = true) :
    execWaitWake u e s = .next (endWait w x (acquire v x (widestScope p.2))) := by
  simp [execWaitWake, hwait, hfor, hread, hmet]

/-- A word that is read again ends the wait or lets it stand (R398). -/
theorem execWaitvRecheck_value {p : Nat × DWord} (hread : waitvRead x t addr.toNat = .ok p v) :
    execWaitvRecheck u e s = .next (if intCompare code (BitVec.ofNat 32 p.1) n = true
      then endWait w x (acquire v x (widestScope p.2))
      else modGroup v x.uid fun g => g.modSplit x.e fun sp => { sp with run := .wait w }) := by
  simp [execWaitvRecheck, hwait, hfor, hread]

/-- A word whose read stops stops the wait, at its wake and at its recheck. -/
theorem execWaits_value_stop {r : Res} (hread : waitvRead x t addr.toNat = .stop r) :
    execWaitWake u e s = .next (stopWait w x r) ∧ execWaitvRecheck u e s = .next (stopWait w x r) := by
  simp [execWaitWake, execWaitvRecheck, hwait, hfor, hread]

end

/-- A child that is over lets the stream go on with its status (R399). -/
theorem execWaitWake_child {word : Word} {d : Nat} (hfor : w.for_ = .child word d)
    (hover : liveChild t x.t.grid (word.toNat / 256) = false) :
    let v := childStatus x.gr (word.toNat / 256)
    execWaitWake u e s = .next (endWait w x (modGroup (if v = 0xFFFFFFFF then t else acquire t x 0) x.uid fun g =>
      g.writes (x.wsAll d v))) := by
  simp [execWaitWake, hwait, hfor, hover]

/-- A wait that has stood for its ticks faults with 0x27 and the detail of its kind (R396). -/
theorem execWaitTimeout_faults (hticks : w.ticks ≤ (s.dtime - w.since).toNat) :
    execWaitTimeout u e s = .next (streamFault t x 0x27 w.for_.detail 0) := by
  simp only [execWaitTimeout, hwait, hticks, decide_true, whenOk_true, happens_some]

end

/-- An access that its target refuses ends the team at the instruction and its address, inside a handler as a handler fault
(R191, R218). -/
theorem execRefusedByTarget_ends {u : Nat} {e : BitVec 2} {s : State} {g : Group} {pc : DWord} {va : DWord}
    (hgroup : kget s.groups u = some g) (hrefused : (g.split e.toNat).refused = some (pc, va)) :
    let t := modGroup s u fun g => g.modSplit e.toNat fun sp => { sp with refused := none }
    execRefusedByTarget u e s = .next (if handlerOn g e.toNat then endByFault t g.team u e.toNat g.gid 0x30 0x22 true pc va
      else endByFault t g.team u e.toNat g.gid 0x22 4 false pc va) := by
  simp only [execRefusedByTarget, hgroup, hrefused, happens_some]

/-! ### The obligation -/

/-- The head of the matrix FIFO that finds no slot starts the clock of its wait. -/
theorem exec_matrixFifoHead_starts {c : Nat} {s : State} {o : MatOp} {l : List MatOp} (hfifo : (coreAt s c).fifo = o :: l)
    (hperf : o.performs = true) (hwait : (performMat s c o).2 = false)
    (hstarve : (coreAt (performMat s c o).1 c).starve = none) :
    exec (.matrixFifoHead c) s =
      .next (modCore (performMat s c o).1 c fun k => { k with starve := some (performMat s c o).1.dtime }) :=
  (execMatrixFifoHead_waits hfifo hperf hwait).trans (by rw [hstarve]; rfl)

/-- The head of the matrix FIFO that finds no slot goes on waiting where the clock runs. -/
theorem exec_matrixFifoHead_goes_on {c : Nat} {s : State} {o : MatOp} {l : List MatOp} (hfifo : (coreAt s c).fifo = o :: l)
    (hperf : o.performs = true) (hwait : (performMat s c o).2 = false)
    (hstarve : (coreAt (performMat s c o).1 c).starve.isSome = true) :
    exec (.matrixFifoHead c) s = .next (performMat s c o).1 :=
  (execMatrixFifoHead_waits hfifo hperf hwait).trans (by rw [if_pos hstarve])

/-- Settles O57, event by event: each takes place where its conditions hold, with the state that its own lemma names. -/
theorem engineAndWaitEventsComplete : Obligations.engine_and_wait_events_complete := by
  unfold Obligations.engine_and_wait_events_complete
  refine ⟨fun _ _ _ _ hfifo hperf hdone => execMatrixFifoHead_done hfifo hperf hdone,
    fun _ _ _ _ hfifo hperf hwait hstarve => exec_matrixFifoHead_starts hfifo hperf hwait hstarve,
    fun _ _ _ _ hfifo hperf hwait hstarve => exec_matrixFifoHead_goes_on hfifo hperf hwait hstarve,
    fun _ _ _ _ _ hfifo hstarve hlimit hfree => execAccumulatorStarvation_ends hfifo hstarve hlimit hfree,
    fun _ _ _ hgroup hopen hover => execBatchRetire_retires hgroup hopen hover,
    fun _ _ _ _ _ hfifo hkind => execAdrainHandOver_gives hfifo hkind,
    fun _ _ _ _ _ _ _ _ hhead hwork hkind => execBargeDrain_runs hhead hwork hkind,
    fun _ _ _ _ _ _ _ _ hhead hwork hkind => execAbortedDrain_fails hhead hwork hkind,
    fun _ _ _ _ _ _ hhead hwork hkind => execBcopyPerform_runs hhead hwork hkind,
    fun _ _ _ _ _ _ _ hhead hwork hkind => execBcopymPerform_runs hhead hwork hkind,
    fun _ _ _ _ hhead hwork hkind => execRoutePerform_runs hhead hwork hkind,
    fun _ _ _ _ _ _ _ _ _ _ _ _ _ hhead hwork hread hkind => execCollPerform_runs hhead hwork hread hkind,
    fun _ _ _ hhead hwork _ hi => exec_barge_worked hhead hwork hi,
    fun _ _ _ hhead hwork => happens_work_worked hhead hwork _,
    fun _ _ _ hhead hwork => happens_work_worked hhead hwork _,
    ?delivery, fun _ _ _ _ _ hqueue hpage hteam => execEngineFaultDelivery_no_team hqueue hpage hteam, ?waits,
    fun _ _ _ _ _ _ hgroup hrefused => execRefusedByTarget_ends hgroup hrefused⟩
  case delivery =>
    intro eng s o l page t hqueue hpage hteam
    refine ⟨execEngineFaultDelivery_no_stream hqueue hpage hteam, ?_⟩
    intro u g e c hended hreplay hgroup hcore hpend hstop hbusy hasked
    exact execEngineFaultDelivery_delivers hqueue hpage hteam hended hreplay hgroup hcore hpend hstop hbusy hasked
  case waits =>
    intro u e s w x t hwait
    exact ⟨fun _ _ _ _ hfor hread hclean hturned => execWaitWake_barrier hwait hfor hread hclean hturned,
      fun _ _ _ _ _ hfor hread =>
        ⟨fun hmet => execWaitWake_value hwait hfor hread hmet, execWaitvRecheck_value hwait hfor hread⟩,
      fun _ _ hfor hover => execWaitWake_child hwait hfor hover,
      fun _ _ _ hfor hread => execWaitWake_barrier_stops hwait hfor hread,
      fun _ _ _ _ _ hfor hread hpoison => execWaitWake_barrier_poison hwait hfor hread hpoison,
      fun _ _ _ _ hfor hread => execWaits_value_stop hwait hfor hread,
      fun hticks => execWaitTimeout_faults hwait hticks⟩

end Sys2Proof.Proofs
end

section
/-! The batches of MFENCE and MWAIT (R231, R269, R273, R275). -/

namespace Sys2Proof.Proofs

open Sys2Proof.Machine Sys2Proof.Safety

/-- Register writes leave the count of batches, closed and outstanding. -/
theorem writes_batches (g : Group) (l : List RegWrite) : (g.writes l).mbatch = g.mbatch ∧ (g.writes l).mopen = g.mopen := by
  rw [(registersOnly_writes g l).eq]
  exact ⟨rfl, rfl⟩

section
variable {w : ExtArgs} {x : Ctx}

theorem semMfence_closes {s : State} (ha : x.active w ≠ []) (hn : x.g.mopen < 64) : semMfence w x s =
    .done (x.put s { x.g.writes (x.wsAll w.d.toNat (x.g.mbatch.zeroExtend 32)) with
      mbatch := x.g.mbatch + 1, mopen := x.g.mopen + 1 }) := by
  rw [semMfence, once_act w s _ ha, if_neg (Nat.not_le.mpr hn)]
  obtain ⟨hbatch, hopen⟩ := writes_batches x.g (x.wsAll w.d.toNat (x.g.mbatch.zeroExtend 32))
  simp only [hbatch, hopen]

theorem semMfence_waits {s : State} (ha : x.active w ≠ []) (hn : 64 ≤ x.g.mopen) : semMfence w x s = .stall s := by
  rw [semMfence, once_act w s _ ha, if_pos hn]

/-- What MWAIT does with the number and the distance that it has. -/
theorem semMwait_eq (w : ExtArgs) (x : Ctx) (s : State) : semMwait w x s = once w x s (
    if 256 ≤ mwaitNumber x w then .fault s 0x24 0 0
    else if mwaitDist x w = 0 ∨ 128 < mwaitDist x w then .fault s 0x25 0 0
    else if mwaitDist x w ≤ x.g.mopen then .stall s
    else .done (acquire s x 4)) := by
  have hbyte (v : Word) : v.extractLsb' 0 8 = BitVec.ofNat 8 v.toNat := rfl
  simp only [semMwait, mwaitNumber, mwaitDist, hbyte]
  rfl

theorem semMwait_number {s : State} (ha : x.active w ≠ []) (hn : 256 ≤ mwaitNumber x w) :
    semMwait w x s = .fault s 0x24 0 0 := by
  rw [semMwait_eq, once_act w s _ ha, if_pos hn]

theorem semMwait_distance {s : State} (ha : x.active w ≠ []) (hn : mwaitNumber x w < 256)
    (hd : mwaitDist x w = 0 ∨ 128 < mwaitDist x w) : semMwait w x s = .fault s 0x25 0 0 := by
  rw [semMwait_eq, once_act w s _ ha, if_neg (Nat.not_le.mpr hn), if_pos hd]

/-- A number and a distance that R275 allows: MWAIT waits for its batch, or acquires at CORE scope. -/
theorem semMwait_legal {s : State} (ha : x.active w ≠ []) (hn : mwaitNumber x w < 256) (hd : 1 ≤ mwaitDist x w)
    (hd' : mwaitDist x w ≤ 128) :
    semMwait w x s = if mwaitDist x w ≤ x.g.mopen then .stall s else .done (acquire s x 4) := by
  have hdist : ¬ (mwaitDist x w = 0 ∨ 128 < mwaitDist x w) := by omega
  rw [semMwait_eq, once_act w s _ ha, if_neg (Nat.not_le.mpr hn), if_neg hdist]

end

theorem active_of_isEmpty {w : ExtArgs} {x : Ctx} (h : (x.active w).isEmpty = false) : x.active w ≠ [] :=
  List.isEmpty_eq_false_iff.mp h

/-- Settles O39: each clause is the case of MFENCE's or MWAIT's meaning that it names. -/
theorem batchesComplete : Obligations.batches_complete := by
  refine ⟨inForms_of_sem semMfence (fun _ _ => rfl) (fun _ _ => rfl) fun i how w hi => ?closes,
    inForms3_of_sem semMwait (fun _ _ => rfl) (fun _ _ _ => rfl) (fun _ _ => rfl) fun i how w hi => ?retired,
    inForms_of_sem semMfence (fun _ _ => rfl) (fun _ _ => rfl) fun i how w hi => ?full,
    inForms3_of_sem semMwait (fun _ _ => rfl) (fun _ _ _ => rfl) (fun _ _ => rfl) fun i how w hi => ?number,
    inForms3_of_sem semMwait (fun _ _ => rfl) (fun _ _ _ => rfl) (fun _ _ => rfl) fun i how w hi => ?distance,
    inForms3_of_sem semMwait (fun _ _ => rfl) (fun _ _ _ => rfl) (fun _ _ => rfl) fun i how w hi => ?outstanding⟩
  case closes =>
    refine goesOn_of_done hi fun x s u h => done_of_onceTo w h ⟨_, rfl⟩ fun ha ⟨hn, hu⟩ => ?_
    rw [hu]
    exact semMfence_closes ha hn
  case retired =>
    refine goesOn_of_done hi fun x s u h => done_of_onceTo w h ⟨_, rfl⟩ fun ha ⟨hn, hd, hd', hopen, hu⟩ => ?_
    rw [semMwait_legal ha hn hd hd', if_neg (Nat.not_le.mpr hopen), hu]
  case full => exact waitsWhile_of_stall hi fun x s ⟨ha, hn⟩ => semMfence_waits ha hn
  case number => exact faultsWith_of_fault hi fun x s ⟨ha, hn⟩ => semMwait_number (active_of_isEmpty ha) hn
  case distance => exact faultsWith_of_fault hi fun x s ⟨ha, hn, hd⟩ => semMwait_distance (active_of_isEmpty ha) hn hd
  case outstanding =>
    intro s x hs ha hn hd hd' hopen
    rw [exec_of_runsAs hi hs, semMwait_legal (active_of_isEmpty ha) hn hd hd', if_pos hopen]
    rfl

end Sys2Proof.Proofs
end

section
/-! A request that is issued again without a credit (R258, R328): its entry is marked as one that waits. -/

namespace Sys2Proof.Proofs

open Sys2Proof.Machine

/-- A request whose 50,000 units are over is sent again with its new time. -/
theorem execRequestReissue_eq {tag : BitVec 12} {s : State} {m : Mshr}
    (hm : s.coh.mshrs.find? (fun m => decide (m.stamp.tag = tag)) = some m) (hown : ownLine s m.line = false)
    (hhome : homeNode m.line ≠ .host) (hdue : 50000 ≤ (s.dtime - m.sentAt).toNat) :
    let n : Mshr := { m with sentAt := s.dtime }
    exec (.requestReissue tag) s =
      .next (sendReq (modCoh s fun c => { c with mshrs := c.mshrs.map fun x => if x = m then n else x }) n) := by
  change execRequestReissue tag s = _
  simp only [execRequestReissue, hm, hown, hhome, hdue, ne_eq, not_false_eq_true, decide_true, Bool.not_false, Bool.and_self,
    whenOk_true, happens_some]

/-- A request that finds no credit is marked as one that waits, and is sent when a credit has come back (R328). -/
theorem mshrs_sendReq_waits {s : State} {m : Mshr} (h : tryRequest s m.die m.line m.kind m.stamp m.pay = none) :
    (sendReq s m).coh.mshrs = s.coh.mshrs.map fun x => if x = m then { m with unsent := true } else x := by
  simp only [sendReq, h, Option.getD_none, Option.isNone_none]

/-- Die 0 has asked package 1 for a line of that package, at time 0. -/
def sentRequest : Mshr :=
  { die := 0, line := 2 ^ 33, kind := .readShared, stamp := { time := 0, pkg := 0, tag := 0 }, sentAt := 0, taken := false
    unsent := false }

/-- Package 0 of two, 50,000 units later, with no request credit of package 1 left. -/
def creditlessState : State :=
  { State.reset with
    pkgs := [0, 1]
    peers := [(1, { Peer.init 0 with reqs := 0 })]
    coh := { State.reset.coh with mshrs := [sentRequest] }
    dtime := 50000 }

/-- The request as it is issued again. -/
def resentRequest : Mshr := { sentRequest with sentAt := creditlessState.dtime }

/-- The same package with the request's new time. -/
def reissuedState : State :=
  modCoh creditlessState fun c => { c with mshrs := c.mshrs.map fun x => if x = sentRequest then resentRequest else x }

theorem reissuedState_no_credit :
    tryRequest reissuedState sentRequest.die sentRequest.line sentRequest.kind sentRequest.stamp sentRequest.pay = none := by
  rfl

theorem creditlessState_reissues :
    exec (.requestReissue 0) creditlessState = .next (sendReq reissuedState resentRequest) :=
  execRequestReissue_eq (m := sentRequest) rfl rfl (by decide) (by decide)

/-- In the model the entry waits for a credit. -/
theorem mshrs_sendReq_resent : (sendReq reissuedState resentRequest).coh.mshrs = [{ resentRequest with unsent := true }] := by
  rw [mshrs_sendReq_waits (m := resentRequest) reissuedState_no_credit]
  rfl

/-- The request with its old time is no entry any more, and sending that marks none. -/
theorem mshrs_sendReq_sent : (sendReq reissuedState sentRequest).coh.mshrs = [resentRequest] := by
  rw [mshrs_sendReq_waits reissuedState_no_credit]
  rfl

/-- Refutes O58: of a request that is issued again it says that what is sent is the request with its old time, so that the entry, which has
the new time, stays as it was; but where there is no credit for it the entry is marked as one that waits for the credit (R328). In
creditlessState the request of tag 0 is so. -/
theorem not_coherenceEventsComplete : ¬ Obligations.coherence_events_complete := by
  unfold Obligations.coherence_events_complete
  intro h
  obtain ⟨-, -, -, -, -, -, -, -, -, -, -, -, -, hreissue, -⟩ := h
  have hstated : exec (.requestReissue 0) creditlessState = .next (sendReq reissuedState sentRequest) :=
    hreissue 0 creditlessState sentRequest rfl rfl (by decide) (by decide)
  have hstates := Host.Outcome.next.inj (creditlessState_reissues.symm.trans hstated)
  have hentries := congrArg (fun s => s.coh.mshrs) hstates
  simp only [mshrs_sendReq_resent, mshrs_sendReq_sent] at hentries
  exact absurd hentries (by decide)

end Sys2Proof.Proofs
end

section
/-! The state at reset meets the invariant (R300, R335, R408, R410). -/

namespace Sys2Proof.Proofs

open Sys2Proof.Machine

/-- Settles O14: the tables are empty or of their fixed sizes, and the registers hold the values of R410. -/
theorem resetMeetsTheInvariant : Obligations.reset_meets_the_invariant := by
  unfold Obligations.reset_meets_the_invariant
  decide

end Sys2Proof.Proofs
end

section
/-! Reads at issue of operands and shape records, and where they stop (R217, R265, R284, R372, R409). -/

namespace Sys2Proof.Proofs

open Sys2Proof.Machine Sys2Proof.Safety

/-! ### An operand -/

section
variable {x : Ctx} {s u : State} {va n align miss : Nat}

theorem getOperand_fault {k d a : Nat}
    (h : checkAccesses s x.core x.gr.space false needR align [(x.low, va)] = (.fault k d a, miss, u)) :
    getOperand x s va n align = .stop (.fault (x.count u 11 miss) k d (BitVec.ofNat 64 a)) := by
  simp only [getOperand, readOperand, h]

/-- A page fault takes trap 1 on all lanes of the stream. -/
theorem getOperand_page {ks : List Nat} {b : Nat}
    (h : checkAccesses s x.core x.gr.space false needR align [(x.low, va)] = (.page ks b, miss, u)) :
    getOperand x s va n align = .stop (.trap (x.count u 11 miss)
      { cause := 1, detail := 0, faddr := BitVec.ofNat 64 b, fmask := laneMask x.lanes, need := [] }) := by
  simp only [getOperand, readOperand, h]

section
variable {pa : Nat} {leaf : DWord}
  (hc : checkAccesses s x.core x.gr.space false needR align [(x.low, va)] = (.ok [(pa, leaf)], miss, u))
  (hr : targetRefuses (x.count u 11 miss) pa = false)
include hc hr

/-- A read that needs a route which is to come does not issue yet. -/
theorem getOperand_awaits (hw : mustWait (x.count u 11 miss) x.core needR pa = true) :
    getOperand x s va n align = .stop (.stall s) := by
  simp [getOperand, readOperand, hc, hr, hw]

theorem getOperand_poisoned (hw : mustWait (x.count u 11 miss) x.core needR pa = false) {d : Nat} {q : State}
    (hp : readPoison (x.count u 11 miss) x.core pa n = (some d, q)) :
    getOperand x s va n align = .stop (.fault q 0x40 d 0) := by
  simp [getOperand, readOperand, hc, hr, hw, hp]

end
end

/-! ### Reads in sequence -/

@[simp] theorem Got.bind_ok {α β : Type} (v : α) (s : State) (f : α → State → Got β) : (Got.ok v s).bind f = f v s := rfl
@[simp] theorem Got.bind_stop {α β : Type} (r : Res) (f : α → State → Got β) : (Got.stop r).bind f = .stop r := rfl
@[simp] theorem Got.run_ok {α : Type} (v : α) (s : State) (f : α → State → Res) : (Got.ok v s).run f = f v s := rfl
@[simp] theorem Got.run_stop {α : Type} (r : Res) (f : α → State → Res) : (Got.stop r).run f = r := rfl

/-! ### A shape record -/

section
variable {x : Ctx} {s u : State} {a : DWord}

theorem readShape_address (h : a.toNat % 128 ≠ 0 ∨ canonical a.toNat = false) : readShape x s a = .stop (.fault s 0x24 0 0) :=
  if_pos (h.imp_right fun hc => by simp [hc])

variable (hal : a.toNat % 128 = 0) (hcan : canonical a.toNat = true)
include hal hcan

theorem readShape_unread {r : Res} (h : getOperand x s a.toNat 128 128 = .stop r) : readShape x s a = .stop r := by
  simp [readShape, hal, hcan, h]

/-- A record that R284 calls ill-formed. -/
theorem readShape_ill_formed {v : Nat} (h : getOperand x s a.toNat 128 128 = .ok v u)
    (hv : parseShape (gridElems x.gr.launch.slots) x.gr.launch.localSize v = none) :
    readShape x s a = .stop (.fault u 0x24 0 0) := by
  simp [readShape, hal, hcan, h, hv, badOperand]

end

end Sys2Proof.Proofs
end

section
/-! BCOPY, BCOPYM, QFENCE and SREC (R264 to R267, R285, R288, R289). -/

namespace Sys2Proof.Proofs

open Sys2Proof.Machine Sys2Proof.Safety

/-! ### Copies -/

/-- The records of a copy in the order in which they are read: the destination's at a, then the source's at b. -/
def readShapes (x : Ctx) (s : State) (a b : DWord) : Got (Shape × Shape) :=
  (readShape x s a).bind fun dst s => (readShape x s b).bind fun src s => .ok (dst, src) s

section
variable {x : Ctx} {s v v' : State} {a b : DWord} {dst src : Shape} {r : Res}

theorem readShapes_ok (hd : readShape x s a = .ok dst v) (hs : readShape x v b = .ok src v') :
    readShapes x s a b = .ok (dst, src) v' := by
  simp only [readShapes, hd, hs, Got.bind_ok]

theorem readShapes_stop_dst (hd : readShape x s a = .stop r) : readShapes x s a b = .stop r := by
  simp only [readShapes, hd, Got.bind_stop]

theorem readShapes_stop_src (hd : readShape x s a = .ok dst v) (hs : readShape x v b = .stop r) :
    readShapes x s a b = .stop r := by
  simp only [readShapes, hd, hs, Got.bind_ok, Got.bind_stop]

end

section
variable {w : ExtArgs} {x : Ctx} {s v : State} {dst src : Shape} {r : Res}

/-- What BCOPY does not take of its records and its completion word (R266, R288). -/
def bcopyBad (x : Ctx) (w : ExtArgs) (dst src : Shape) : Prop :=
  dst.box ≠ src.box ∨ elemBits dst.elem ≠ elemBits src.elem ∨ wordOk x.gr.launch.localSize (x.lowS w.b.toNat) = false

/-- What BCOPYM does not take of its records, its mask and the completion word of its destination (R266, R289). -/
def bcopymBad (x : Ctx) (w : ExtArgs) (dst src : Shape) : Prop :=
  dst.box ≠ src.box ∨ elemBits dst.elem ≠ elemBits src.elem ∨ dst.loc = false ∨ src.loc = true ∨
    256 ≤ (x.lowS w.d.toNat).toNat ∨ wordOk x.gr.launch.localSize (dst.crec.extractLsb' 0 32) = false

theorem semBcopy_full (ha : x.active w ≠ []) (hf : copyFull s x.core = true) : semBcopy w x s = .stall s := by
  rw [semBcopy, once_act w s _ ha, if_pos hf]

theorem semBcopym_full (ha : x.active w ≠ []) (hf : copyFull s x.core = true) : semBcopym w x s = .stall s := by
  rw [semBcopym, once_act w s _ ha, if_pos hf]

variable (ha : x.active w ≠ []) (hf : copyFull s x.core = false)
include ha hf

/-- A copy with room in its queue: the reads of its records, and what it then posts. -/
theorem semBcopy_room : semBcopy w x s = (readShapes x s (x.lowPair w.d.toNat) (x.lowPair w.a.toNat)).run fun p s =>
    if p.1.box ≠ p.2.box ∨ elemBits p.1.elem ≠ elemBits p.2.elem ∨ ¬ wordOk x.gr.launch.localSize (x.lowS w.b.toNat) then
      .fault s 0x24 0 0
    else .done (postCopy x s (.bcopy p.1 p.2 (x.lowS w.b.toNat))) := by
  rw [semBcopy, once_act w s _ ha, if_neg (by simp [hf])]
  rfl

theorem semBcopym_room : semBcopym w x s = (readShapes x s (x.lowPair w.b.toNat) (x.lowPair w.a.toNat)).run fun p s =>
    if p.1.box ≠ p.2.box ∨ elemBits p.1.elem ≠ elemBits p.2.elem ∨ ¬ p.1.loc ∨ p.2.loc ∨ 256 ≤ (x.lowS w.d.toNat).toNat
        ∨ ¬ wordOk x.gr.launch.localSize (p.1.crec.extractLsb' 0 32) then .fault s 0x24 0 0
    else .done (postCopy x s (.bcopym ((x.lowS w.d.toNat).extractLsb' 0 8) p.1 p.2 none)) := by
  rw [semBcopym, once_act w s _ ha, if_neg (by simp [hf])]
  rfl

theorem semBcopy_unread (hr : readShapes x s (x.lowPair w.d.toNat) (x.lowPair w.a.toNat) = .stop r) :
    semBcopy w x s = r := by
  rw [semBcopy_room ha hf, hr, Got.run_stop]

theorem semBcopym_unread (hr : readShapes x s (x.lowPair w.b.toNat) (x.lowPair w.a.toNat) = .stop r) :
    semBcopym w x s = r := by
  rw [semBcopym_room ha hf, hr, Got.run_stop]

section
variable (hr : readShapes x s (x.lowPair w.d.toNat) (x.lowPair w.a.toNat) = .ok (dst, src) v)
include hr

theorem semBcopy_refused (hbad : bcopyBad x w dst src) : semBcopy w x s = .fault v 0x24 0 0 := by
  rw [semBcopy_room ha hf, hr, Got.run_ok, if_pos (by simpa [bcopyBad] using hbad)]

theorem semBcopy_posts (hok : ¬ bcopyBad x w dst src) :
    semBcopy w x s = .done (postCopy x v (.bcopy dst src (x.lowS w.b.toNat))) := by
  rw [semBcopy_room ha hf, hr, Got.run_ok, if_neg (by simpa [bcopyBad] using hok)]

end

section
variable (hr : readShapes x s (x.lowPair w.b.toNat) (x.lowPair w.a.toNat) = .ok (dst, src) v)
include hr

theorem semBcopym_refused (hbad : bcopymBad x w dst src) : semBcopym w x s = .fault v 0x24 0 0 := by
  rw [semBcopym_room ha hf, hr, Got.run_ok, if_pos (by simpa [bcopymBad] using hbad)]

theorem semBcopym_posts (hok : ¬ bcopymBad x w dst src) :
    semBcopym w x s = .done (postCopy x v (.bcopym ((x.lowS w.d.toNat).extractLsb' 0 8) dst src none)) := by
  rw [semBcopym_room ha hf, hr, Got.run_ok, if_neg (by simpa [bcopymBad] using hok)]

end
end

/-! ### QFENCE -/

/-- A queue that a fence over those of m enters is full (R264). -/
def fencedFull (s : State) (core : Nat) (m : BitVec 4) : Prop :=
  (m.getLsbD 0 = true ∧ fifoFull s core = true) ∨ (m.getLsbD 1 = true ∧ copyFull s core = true) ∨
    (m.getLsbD 2 = true ∧ routeFull s core = true) ∨ (m.getLsbD 3 = true ∧ collFull s core = true)

section
variable {w : ExtArgs} {x : Ctx} {s : State} (ha : x.active w ≠ [])
include ha

theorem semQfence_waits (hf : fencedFull s x.core (w.d.extractLsb' 0 4)) : semQfence w x s = .stall s := by
  rw [semQfence, once_act w s _ ha]
  exact if_pos (by simpa only [fencedFull, Bool.or_eq_true, Bool.and_eq_true, or_assoc] using hf)

theorem semQfence_enters (hf : ¬ fencedFull s x.core (w.d.extractLsb' 0 4)) :
    semQfence w x s = .done (fenced x s (w.d.extractLsb' 0 4)) := by
  rw [semQfence, once_act w s _ ha]
  exact if_neg (by simpa only [fencedFull, Bool.or_eq_true, Bool.and_eq_true, or_assoc] using hf)

end

/-! ### SREC -/

theorem reached_nil (x : Ctx) (s : State) (n : Need) (align : Nat) : reached x s n align [] = some ([], s) := by
  simp [reached, checkAccesses, checkEach, checkFrom, firstAccess, count_zero]

/-- The access of an SREC: none where it does nothing, or where its operands are out of their ranges (R285). -/
def srecAccess (w : ExtArgs) (x : Ctx) : List (Nat × Nat) :=
  if (x.active w).isEmpty ∨ 31 < (x.lowS w.a.toNat).toNat ∨ (x.lowPair w.d.toNat).toNat % 128 ≠ 0 then []
  else [(x.low, (x.lowPair w.d.toNat).toNat + 4 * (x.lowS w.a.toNat).toNat)]

section
variable {w : ExtArgs} {x : Ctx} {s : State}

theorem semSrec_range (ha : x.active w ≠ [])
    (h : 31 < (x.lowS w.a.toNat).toNat ∨ (x.lowPair w.d.toNat).toNat % 128 ≠ 0) : semSrec w x s = .fault s 0x24 0 0 := by
  rw [semSrec, once_act w s _ ha]
  exact if_pos h

theorem semSrec_access (ha : x.active w ≠ [])
    (h : ¬ (31 < (x.lowS w.a.toNat).toNat ∨ (x.lowPair w.d.toNat).toNat % 128 ≠ 0)) :
    semSrec w x s = memAccess x s needW 4 [(x.low, (x.lowPair w.d.toNat).toNat + 4 * (x.lowS w.a.toNat).toNat)]
      (fun _ => x.lanes) fun acc s => .done (acc.foldl (fun s a => x.write s a.va a.pa 4 (x.bS w x.low).toNat) s) := by
  rw [semSrec, once_act w s _ ha]
  exact if_neg h

/-- An SREC makes its access, of which there is none where it is a NOP or faults. -/
theorem semSrec_accesses (w : ExtArgs) (x : Ctx) (s : State) :
    ∃ act, semSrec w x s = memAccess x s needW 4 (srecAccess w x) (fun _ => x.lanes) act := by
  by_cases h : (x.active w).isEmpty ∨ 31 < (x.lowS w.a.toNat).toNat ∨ (x.lowPair w.d.toNat).toNat % 128 ≠ 0
  · rw [srecAccess, if_pos h]
    exact ⟨_, (memAccess_reached (reached_nil x s needW 4) _ fun _ _ => semSrec w x s).symm⟩
  · obtain ⟨ha, hr⟩ := not_or.mp h
    rw [srecAccess, if_neg h]
    exact ⟨_, semSrec_access (active_of_isEmpty (Bool.of_not_eq_true ha)) hr⟩

end

/-! ### The statement -/

/-- Settles O40: a full queue stalls a post, a read that stops stops its instruction, and what is read is posted or refused by the case of
the instruction's meaning. -/
theorem copiesAndFencesPost : Obligations.copies_and_fences_post := by
  refine ⟨inForms_of_sem semBcopy (fun _ _ => rfl) (fun _ _ => rfl) fun i how w hi dst src v v' => ?bcopy,
    inForms_of_sem semBcopym (fun _ _ => rfl) (fun _ _ => rfl) fun i how w hi dst src v v' => ?bcopym,
    inForms_of_sem semQfence (fun _ _ => rfl) (fun _ _ => rfl) fun i how w hi => ?qfence,
    inForms3_of_sem semSrec (fun _ _ => rfl) (fun _ _ _ => rfl) (fun _ _ => rfl) fun i how w hi acc v => ?srec,
    fun x s a => ⟨readShape_address, fun hal hcan =>
      ⟨fun r h => readShape_unread hal hcan h, fun v u h hv => readShape_ill_formed hal hcan h hv⟩⟩,
    fun x s va n align c miss u hc => ⟨?fault, ?page, ?access⟩,
    inForms_of_sem semBcopy (fun _ _ => rfl) (fun _ _ => rfl) fun i how w hi => ⟨?bcopyWaits, ?bcopyStops⟩,
    inForms_of_sem semBcopym (fun _ _ => rfl) (fun _ _ => rfl) fun i how w hi => ⟨?bcopymWaits, ?bcopymStops⟩,
    inForms_of_sem semQfence (fun _ _ => rfl) (fun _ _ => rfl) fun i how w hi => ?qfenceWaits,
    inForms3_of_sem semSrec (fun _ _ => rfl) (fun _ _ _ => rfl) (fun _ _ => rfl) fun i how w hi => ⟨?srecRange, ?srecStops⟩⟩
  case bcopy =>
    refine goesOn_of_done hi fun x s u h => done_of_onceTo w h ⟨_, rfl⟩ fun ha ⟨hf, hd, hs, hbox, helem, hword, hu⟩ => ?_
    rw [hu]
    exact semBcopy_posts ha hf (readShapes_ok hd hs) (by simp [bcopyBad, hbox, helem, hword])
  case bcopym =>
    refine goesOn_of_done hi fun x s u h => done_of_onceTo w h ⟨_, rfl⟩
      fun ha ⟨hf, hd, hs, hbox, helem, hdst, hsrc, hmask, hword, hu⟩ => ?_
    rw [hu]
    exact semBcopym_posts ha hf (readShapes_ok hd hs) (by simp [bcopymBad, hbox, helem, hdst, hsrc, hmask, hword])
  case qfence =>
    refine goesOn_of_done hi fun x s u h => done_of_onceTo w h ⟨_, rfl⟩ fun ha ⟨hfifo, hcopy, hroute, hcoll, hu⟩ => ?_
    rw [hu]
    refine semQfence_enters ha ?_
    rintro (⟨hm, hf⟩ | ⟨hm, hf⟩ | ⟨hm, hf⟩ | ⟨hm, hf⟩)
    · simp [hfifo hm] at hf
    · simp [hcopy hm] at hf
    · simp [hroute hm] at hf
    · simp [hcoll hm] at hf
  case srec =>
    refine goesOn_of_done hi fun x s u h => done_of_onceTo w h ⟨_, rfl⟩ fun ha ⟨hindex, hrec, hreach, hu⟩ => ?_
    rw [semSrec_access ha (by omega), memAccess_reached hreach, hu]
  case fault =>
    rintro k d a rfl
    exact getOperand_fault hc
  case page =>
    rintro ks b rfl
    exact getOperand_page hc
  case access =>
    rintro pa leaf rfl hr
    exact ⟨getOperand_awaits hc hr, fun d q hw hp => getOperand_poisoned hc hr hw hp⟩
  case bcopyWaits => exact waitsWhile_of_stall hi fun x s ⟨ha, hf⟩ => semBcopy_full ha hf
  case bcopyStops =>
    refine stopsAt_of_res hi fun x s r ⟨ha, hf, h⟩ => ?_
    rcases h with hd | ⟨dst, v, hd, hs | ⟨src, v', hs, rfl, hbad⟩⟩
    · exact semBcopy_unread ha hf (readShapes_stop_dst hd)
    · exact semBcopy_unread ha hf (readShapes_stop_src hd hs)
    · exact semBcopy_refused ha hf (readShapes_ok hd hs) hbad
  case bcopymWaits => exact waitsWhile_of_stall hi fun x s ⟨ha, hf⟩ => semBcopym_full ha hf
  case bcopymStops =>
    refine stopsAt_of_res hi fun x s r ⟨ha, hf, h⟩ => ?_
    rcases h with hd | ⟨dst, v, hd, hs | ⟨src, v', hs, rfl, hbad⟩⟩
    · exact semBcopym_unread ha hf (readShapes_stop_dst hd)
    · exact semBcopym_unread ha hf (readShapes_stop_src hd hs)
    · exact semBcopym_refused ha hf (readShapes_ok hd hs) hbad
  case qfenceWaits => exact waitsWhile_of_stall hi fun x s ⟨ha, hf⟩ => semQfence_waits ha hf
  case srecRange => exact faultsWith_of_fault hi fun x s ⟨ha, h⟩ => semSrec_range ha h
  case srecStops => exact accessesStop_of_memAccess hi (semSrec_accesses w)

end Sys2Proof.Proofs
end

section
/-! ROUTE, COLL and SEQGO (R265, R266, R292, R317, R318, R321, R374). -/

namespace Sys2Proof.Proofs

open Sys2Proof.Machine Sys2Proof.Safety

/-! ### ROUTE -/

/-- The address of the outputs of a ROUTE, and that of its parameter block. -/
def outsAt (x : Ctx) (w : ExtArgs) : Nat := (x.lowPair w.d.toNat).toNat
def blockAt (x : Ctx) (w : ExtArgs) : Nat := (x.lowPair w.b.toNat).toNat

/-- The parameter block v and the score record of a ROUTE meet their rules (R266, R292). -/
def blockOk (x : Ctx) (w : ExtArgs) (sh : Shape) (v : Nat) : Bool :=
  routeRules (w.sub.getLsbD 0) v && scoreRules sh (fieldOf v 0 4) (fieldOf v 4 4)
    && wordOk x.gr.launch.localSize (BitVec.ofNat 32 (fieldOf v 0x20 4))

/-- The replicas of a parameter block: one of each expert where it names no table. -/
def replicasOf (x : Ctx) (v : Nat) (s : State) : Got (List Nat) :=
  if fieldOf v 0x18 8 = 0 then .ok (List.range (fieldOf v 4 4)) s
  else readReplicas x (fieldOf v 4 4) (fieldOf v 0x18 8) [] s

/-- The operation of a ROUTE with the block v, the replicas rep and the outputs d. -/
def routeArgsOf (w : ExtArgs) (sh : Shape) (v : Nat) (rep : List Nat) (d : Nat) : RouteArgs :=
  { expert := w.sub.getLsbD 0, t := fieldOf v 0 4, e := fieldOf v 4 4, p := fieldOf v 8 4, k := fieldOf v 12 4
    capacity := fieldOf v 16 4, renorm := decide (fieldOf v 20 4 = 1), rep := rep
    word := BitVec.ofNat 32 (fieldOf v 0x20 4)
    outs := (List.range 4).map fun i => BitVec.ofNat 64 (fieldOf d (8 * i) 8), score := sh }

/-- What a ROUTE reads after its replicas: each names one of the packages, and then the outputs. -/
def readOuts (x : Ctx) (w : ExtArgs) (sh : Shape) (v : Nat) (rep : List Nat) (s : State) : Got RouteArgs :=
  if rep.any fun r => decide (fieldOf v 8 4 ≤ r) then badOperand s
  else (getOperand x s (outsAt x w) 32 32).bind fun d s => .ok (routeArgsOf w sh v rep d) s

/-- What a ROUTE reads after its parameter block. -/
def readTables (x : Ctx) (w : ExtArgs) (sh : Shape) (v : Nat) (s : State) : Got RouteArgs :=
  if !blockOk x w sh v then badOperand s else (replicasOf x v s).bind (readOuts x w sh v)

/-- The reads of a ROUTE, in order. -/
def readRoute (x : Ctx) (w : ExtArgs) (s : State) : Got RouteArgs :=
  (readShape x s (x.lowPair w.a.toNat)).bind fun sh s =>
    (getOperand x s (blockAt x w) 64 64).bind fun v s => readTables x w sh v s

section
variable {x : Ctx} {w : ExtArgs} {s s' : State} {sh : Shape} {v d : Nat} {rep : List Nat} {r : Res}

theorem readRoute_shape_stops (h : readShape x s (x.lowPair w.a.toNat) = .stop r) : readRoute x w s = .stop r := by
  rw [readRoute, h, Got.bind_stop]

theorem readRoute_shape (h : readShape x s (x.lowPair w.a.toNat) = .ok sh s') :
    readRoute x w s = (getOperand x s' (blockAt x w) 64 64).bind fun v s => readTables x w sh v s := by
  rw [readRoute, h, Got.bind_ok]

theorem readTables_bad (h : blockOk x w sh v = false) : readTables x w sh v s = .stop (.fault s 0x24 0 0) :=
  if_pos (by simp [h])

theorem readTables_ok (h : blockOk x w sh v = true) :
    readTables x w sh v s = (replicasOf x v s).bind (readOuts x w sh v) := if_neg (by simp [h])

theorem replicasOf_ok (h : if fieldOf v 0x18 8 = 0 then rep = List.range (fieldOf v 4 4) ∧ s' = s
    else readReplicas x (fieldOf v 4 4) (fieldOf v 0x18 8) [] s = .ok rep s') : replicasOf x v s = .ok rep s' := by
  unfold replicasOf
  split at h
  next h0 =>
    obtain ⟨rfl, rfl⟩ := h
    exact if_pos h0
  next h0 => rw [if_neg h0, h]

theorem readOuts_bad (h : ∃ q ∈ rep, fieldOf v 8 4 ≤ q) : readOuts x w sh v rep s = .stop (.fault s 0x24 0 0) :=
  if_pos (by simpa using h)

theorem readOuts_ok (h : ∀ q ∈ rep, q < fieldOf v 8 4) : readOuts x w sh v rep s =
    (getOperand x s (outsAt x w) 32 32).bind fun d s => .ok (routeArgsOf w sh v rep d) s :=
  if_neg (by simpa using h)

theorem semRoute_full (ha : x.active w ≠ []) (hf : routeFull s x.core = true) : semRoute w x s = .stall s := by
  rw [semRoute, once_act w s _ ha, if_pos hf]

variable (ha : x.active w ≠ []) (hf : routeFull s x.core = false)
include ha hf

theorem semRoute_misaligned (h : outsAt x w % 32 ≠ 0 ∨ blockAt x w % 64 ≠ 0) : semRoute w x s = .fault s 0x24 0 0 := by
  rw [semRoute, once_act w s _ ha, if_neg (by simp [hf])]
  exact if_pos h

/-- A ROUTE with room in its queue posts what it has read. -/
theorem semRoute_aligned (ho : outsAt x w % 32 = 0) (hb : blockAt x w % 64 = 0) :
    semRoute w x s = (readRoute x w s).run fun args s =>
      .done (nextOp (modRoute s (dieOfCore x.core) (· ++ [x.engOp s.opCtr (.route args)]))) := by
  have halign : ¬ (outsAt x w % 32 ≠ 0 ∨ blockAt x w % 64 ≠ 0) := by omega
  simp only [readRoute, readTables, blockOk, Bool.not_and]
  rw [semRoute, once_act w s _ ha, if_neg (by simp [hf])]
  exact if_neg halign

/-- A read that stops stops the ROUTE. -/
theorem semRoute_unread (ho : outsAt x w % 32 = 0) (hb : blockAt x w % 64 = 0) (h : readRoute x w s = .stop r) :
    semRoute w x s = r := by
  rw [semRoute_aligned ha hf ho hb, h, Got.run_stop]

end

/-! ### COLL -/

/-- The address of the descriptor of a COLL. -/
def descAt (x : Ctx) (w : ExtArgs) : Nat := (x.lowPair w.a.toNat).toNat

/-- What COLL takes of its descriptor v and its completion word (R266, R321). -/
def descOk (x : Ctx) (w : ExtArgs) (v : Nat) : Prop :=
  fieldOf v 8 8 % 8 = 0 ∧ fieldOf v 0x18 8 = 0 ∧ wordOk x.gr.launch.localSize (x.lowS w.b.toNat) = true

/-- What COLL does not take of its record and its flag's page. -/
def collBad (x : Ctx) (v : Nat) (sh : Shape) (s : State) : Prop :=
  sh.loc = true ∨ tileShape sh = false ∨ (sh.elem ≠ .fp32 ∧ sh.elem ≠ .bf16) ∨
    flagOnNC s x.gr.space (fieldOf v 8 8) = true

/-- What COLL reads after its descriptor: its record. -/
def readCollShape (x : Ctx) (w : ExtArgs) (v : Nat) (s : State) : Got (Nat × Shape) :=
  if fieldOf v 8 8 % 8 ≠ 0 ∨ fieldOf v 0x18 8 ≠ 0 ∨ ¬ wordOk x.gr.launch.localSize (x.lowS w.b.toNat) then badOperand s
  else
    (readShape x s (BitVec.ofNat 64 (fieldOf v 0 8))).bind fun sh s =>
      if sh.loc ∨ ¬ tileShape sh ∨ (sh.elem ≠ .fp32 ∧ sh.elem ≠ .bf16) ∨ flagOnNC s x.gr.space (fieldOf v 8 8) then badOperand s
      else .ok (v, sh) s

/-- The reads of a COLL, in order. -/
def readColl (x : Ctx) (w : ExtArgs) (s : State) : Got (Nat × Shape) :=
  (getOperand x s (descAt x w) 32 32).bind (readCollShape x w)

section
variable {x : Ctx} {w : ExtArgs} {s s' : State} {sh : Shape} {v : Nat} {r : Res}

theorem readColl_desc_stops (h : getOperand x s (descAt x w) 32 32 = .stop r) : readColl x w s = .stop r := by
  rw [readColl, h, Got.bind_stop]

theorem readColl_desc (h : getOperand x s (descAt x w) 32 32 = .ok v s') : readColl x w s = readCollShape x w v s' := by
  rw [readColl, h, Got.bind_ok]

theorem readCollShape_bad (h : ¬ descOk x w v) : readCollShape x w v s = .stop (.fault s 0x24 0 0) :=
  if_pos (by simpa only [descOk, not_and_or] using h)

section
variable (hok : descOk x w v)
include hok

theorem readCollShape_stops (h : readShape x s (BitVec.ofNat 64 (fieldOf v 0 8)) = .stop r) :
    readCollShape x w v s = .stop r := by
  rw [readCollShape, if_neg (by simpa [descOk] using hok), h, Got.bind_stop]

variable (h : readShape x s (BitVec.ofNat 64 (fieldOf v 0 8)) = .ok sh s')
include h

theorem readCollShape_refused (hbad : collBad x v sh s') : readCollShape x w v s = .stop (.fault s' 0x24 0 0) := by
  rw [readCollShape, if_neg (by simpa [descOk] using hok), h, Got.bind_ok]
  exact if_pos (by simpa [collBad] using hbad)

theorem readCollShape_ok (hgood : ¬ collBad x v sh s') : readCollShape x w v s = .ok (v, sh) s' := by
  rw [readCollShape, if_neg (by simpa [descOk] using hok), h, Got.bind_ok]
  exact if_neg (by simpa [collBad] using hgood)

end

theorem semColl_full (ha : x.active w ≠ []) (hf : collFull s x.core = true) : semColl w x s = .stall s := by
  rw [semColl, once_act w s _ ha, if_pos hf]

variable (ha : x.active w ≠ []) (hf : collFull s x.core = false)
include ha hf

theorem semColl_address (h : descAt x w % 32 ≠ 0 ∨ canonical (descAt x w) = false) :
    semColl w x s = .fault s 0x24 0 0 := by
  rw [semColl, once_act w s _ ha, if_neg (by simp [hf])]
  exact if_pos (h.imp_right Bool.eq_false_iff.mp)

variable (hal : descAt x w % 32 = 0) (hcan : canonical (descAt x w) = true)
include hal hcan

/-- A COLL with room in its queue posts what it has read, and its set is replayable no more (R374). -/
theorem semColl_reads : semColl w x s = (readColl x w s).run fun r s =>
    .done (nextOp (modCore (noReplay s x) x.core fun q => { q with collq := q.collq ++ [x.engOp s.opCtr
      (.coll r.2 (x.slot r.2.slot) w.d.toNat [] none (BitVec.ofNat 64 (fieldOf r.1 8 8))
        (BitVec.ofNat 64 (fieldOf r.1 0x10 8)) (x.lowS w.b.toNat))] })) := by
  have haddr : ¬ (descAt x w % 32 ≠ 0 ∨ ¬ canonical (descAt x w)) := by simp [hal, hcan]
  rw [semColl, once_act w s _ ha, if_neg (by simp [hf])]
  exact if_neg haddr

/-- A read that stops stops the COLL. -/
theorem semColl_unread (h : readColl x w s = .stop r) : semColl w x s = r := by
  rw [semColl_reads ha hf hal hcan, h, Got.run_stop]

end

/-! ### SEQGO -/

/-- The launch that a SEQGO makes once its packet's page can be read, and the status that it writes (R318). -/
def seqgoLaunch (w : ExtArgs) (x : Ctx) (s : State) : Res :=
  match launchColl x.gr.space (x.lowPair w.a.toNat) none s with
  | .wait s => .stall s
  | .status st _ s => .done (modGroup (noReplay s x) x.uid fun g => g.writes (x.wsAll w.d.toNat (BitVec.ofNat 32 st)))

section
variable {x : Ctx} {w : ExtArgs} {s u : State} {c : Checked} {miss : Nat}

theorem seqgoLaunch_status {st : Nat} {cid : BitVec 28} (h : launchColl x.gr.space (x.lowPair w.a.toNat) none s = .status st cid u) :
    seqgoLaunch w x s =
      .done (modGroup (noReplay u x) x.uid fun g => g.writes (x.sl.flatMap fun k => x.ws k w.d.toNat (BitVec.ofNat 32 st))) := by
  rw [seqgoLaunch, h]
  rfl

variable (ha : x.active w ≠ [])
include ha

/-- A packet that is not aligned is launched, and gets the status of that. -/
theorem semSeqgo_misaligned (hal : (x.lowPair w.a.toNat).toNat % 64 ≠ 0) : semSeqgo w x s = seqgoLaunch w x s := by
  rw [semSeqgo, once_act w s _ ha]
  exact if_pos hal

variable (hal : (x.lowPair w.a.toNat).toNat % 64 = 0)
include hal

/-- A packet whose page is there, or whose access has a fault, is launched. -/
theorem semSeqgo_checked
    (hc : checkAccesses s x.core x.gr.space false needR 64 [(x.low, (x.lowPair w.a.toNat).toNat)] = (c, miss, u))
    (hno : ∀ ks b, c ≠ .page ks b) : semSeqgo w x s = seqgoLaunch w x (x.count u 11 miss) := by
  rw [semSeqgo, once_act w s _ ha, if_neg (not_not.mpr hal), hc]
  cases c with
  | page ks b => exact absurd rfl (hno ks b)
  | ok | fault => rfl

/-- A packet on a page with V = 0 takes trap 1. -/
theorem semSeqgo_page {ks : List Nat} {b : Nat}
    (hc : checkAccesses s x.core x.gr.space false needR 64 [(x.low, (x.lowPair w.a.toNat).toNat)] = (.page ks b, miss, u)) :
    semSeqgo w x s = .trap (x.count u 11 miss)
      { cause := 1, detail := 0, faddr := BitVec.ofNat 64 b, fmask := laneMask x.lanes, need := [] } := by
  rw [semSeqgo, once_act w s _ ha, if_neg (not_not.mpr hal), hc]

end

/-! ### The statement -/

/-- Settles O41: ROUTE and COLL post what their reads give and stop where one of them does, and SEQGO launches once its packet's page has
been checked. -/
theorem routingAndCollectivesPost : Obligations.routing_and_collectives_post := by
  refine ⟨inForms_of_sem semRoute (fun _ _ => rfl) (fun _ _ => rfl) fun i how w hi sh v rep d s1 s2 s3 s4 => ?route,
    inForms_of_sem semColl (fun _ _ => rfl) (fun _ _ => rfl) fun i how w hi v sh s1 s2 => ?coll,
    inForms_of_sem semSeqgo (fun _ _ => rfl) (fun _ _ => rfl) fun i how w hi st cid v v' => ?seqgo,
    inForms_of_sem semRoute (fun _ _ => rfl) (fun _ _ => rfl) fun i how w hi => ⟨?routeWaits, ?routeStops⟩,
    inForms_of_sem semColl (fun _ _ => rfl) (fun _ _ => rfl) fun i how w hi => ⟨?collWaits, ?collStops⟩,
    inForms_of_sem semSeqgo (fun _ _ => rfl) (fun _ _ => rfl) fun i how w hi => ?seqgoStops⟩
  case route =>
    refine goesOn_of_done hi fun x s u h => done_of_onceTo w h ⟨_, rfl⟩
      fun ha ⟨hf, ho, hb, hsh, hv, hrules, hscore, hword, hrep, hin, hd, hu⟩ => ?_
    have hok : blockOk x w sh v = true := by rw [blockOk, hrules, hscore, hword]; rfl
    have hread : readRoute x w s = .ok (routeArgsOf w sh v rep d) s4 := by
      rw [readRoute_shape hsh, blockAt, hv, Got.bind_ok, readTables_ok hok, replicasOf_ok hrep, Got.bind_ok, readOuts_ok hin,
        outsAt, hd, Got.bind_ok]
    rw [semRoute_aligned ha hf ho hb, hread, hu]
    rfl
  case coll =>
    refine goesOn_of_done hi fun x s u h => done_of_onceTo w h ⟨_, rfl⟩
      fun ha ⟨hf, hal, hcan, hv, hflag, hzero, hword, hsh, hloc, htile, helem, hnc, hu⟩ => ?_
    have hgood : ¬ collBad x v sh s2 := by
      rcases helem with he | he <;> simp [collBad, hloc, htile, he, hnc]
    rw [semColl_reads ha hf hal hcan, readColl_desc hv, readCollShape_ok ⟨hflag, hzero, hword⟩ hsh hgood, hu]
    rfl
  case seqgo =>
    refine goesOn_of_done hi fun x s u h => done_of_onceTo w h ⟨_, rfl⟩ fun ha ⟨hv, hlaunch, hu⟩ => ?_
    rw [hu, ← seqgoLaunch_status hlaunch]
    split at hv
    next hal => rw [semSeqgo_misaligned ha hal, hv]
    next hal =>
      obtain ⟨c, miss, q, hc, hno, rfl⟩ := hv
      exact semSeqgo_checked ha (not_not.mp hal) hc hno
  case routeWaits => exact waitsWhile_of_stall hi fun x s ⟨ha, hf⟩ => semRoute_full ha hf
  case routeStops =>
    refine stopsAt_of_res hi fun x s r ⟨ha, hf, h⟩ => ?_
    rcases h with ⟨rfl, h⟩ | ⟨ho, hb, h⟩
    · exact semRoute_misaligned ha hf h
    · refine semRoute_unread ha hf ho hb ?_
      rcases h with hsh | ⟨sh, s1, hsh, h⟩
      · exact readRoute_shape_stops hsh
      rw [readRoute_shape hsh]
      rcases h with hv | ⟨v, s2, hv, h⟩
      · rw [blockAt, hv, Got.bind_stop]
      rw [blockAt, hv, Got.bind_ok]
      rcases h with ⟨hbad, rfl⟩ | ⟨hok, h⟩
      · exact readTables_bad hbad
      rw [readTables_ok hok]
      rcases h with ⟨htable, hrep⟩ | ⟨rep, s3, hrep, h⟩
      · rw [replicasOf, if_neg htable, hrep, Got.bind_stop]
      rw [replicasOf_ok hrep, Got.bind_ok]
      rcases h with ⟨hout, rfl⟩ | ⟨hin, hd⟩
      · exact readOuts_bad hout
      · rw [readOuts_ok hin, outsAt, hd, Got.bind_stop]
  case collWaits => exact waitsWhile_of_stall hi fun x s ⟨ha, hf⟩ => semColl_full ha hf
  case collStops =>
    refine stopsAt_of_res hi fun x s r ⟨ha, hf, h⟩ => ?_
    rcases h with ⟨rfl, h⟩ | ⟨hal, hcan, h⟩
    · exact semColl_address ha hf h
    · refine semColl_unread ha hf hal hcan ?_
      rcases h with hd | ⟨v, s1, hd, h⟩
      · exact readColl_desc_stops hd
      rw [readColl_desc hd]
      rcases h with ⟨hbad, rfl⟩ | ⟨hok, hsh | ⟨sh, s2, hsh, rfl, hbad⟩⟩
      · exact readCollShape_bad hbad
      · exact readCollShape_stops hok hsh
      · exact readCollShape_refused hok hsh hbad
  case seqgoStops =>
    refine stopsAt_of_res hi fun x s r ⟨ha, hal, ks, b, miss, q, hc, hr⟩ => ?_
    rw [hr]
    exact semSeqgo_page ha hal hc

end Sys2Proof.Proofs
end

section
/-! Command rings: doorbells, enables, and the starts and completions of entries (R297, R298, R319, R412, R413). -/

namespace Sys2Proof.Proofs

open Sys2Proof.Machine Sys2Proof.Safety

/-! ### The record of a ring -/

section
variable {s : State} {r : Nat}

theorem ringEnable_queued (he : (ringAt s r).enabled = false) (hd : delayed s (ringCp r) = true) :
    ringEnable s r = queueFor (modRing s r fun q => { q with enabled := true }) (ringCp r) (.enable r) := by
  rw [ringEnable, if_neg (by simp [he]), if_pos hd]

theorem ringEnable_reads (he : (ringAt s r).enabled = false) (hd : delayed s (ringCp r) = false) :
    ringEnable s r = bindRing s r := by
  rw [ringEnable, if_neg (by simp [he]), if_neg (by simp [hd])]

/-- The record of ring r at a cannot be read (R412, R413). -/
def recordUnread (s : State) (a : Nat) : Prop :=
  a % 64 ≠ 0 ∨ 2 ^ 52 ≤ a ∨ targetRefuses s a = true ∨ (poisonAt s a 64).isSome = true

/-- A well-formed record gives the ring a space of its own. -/
theorem bindRing_record {sp : Space} (hr : ¬ recordUnread s (ringAt s r).rspace.toNat)
    (hsp : spaceOf (readN s.mem (ringAt s r).rspace.toNat 64) = some sp) :
    bindRing s r = modRing { s with spaces := kset s.spaces (max 1 (kfresh s.spaces)) sp } r fun q =>
      { q with enabled := true, bad := false, space := max 1 (kfresh s.spaces) } := by
  have hread : (if (ringAt s r).rspace.toNat % 64 ≠ 0 ∨ 2 ^ 52 ≤ (ringAt s r).rspace.toNat
      ∨ targetRefuses s (ringAt s r).rspace.toNat ∨ (poisonAt s (ringAt s r).rspace.toNat 64).isSome then none
      else spaceOf (readN s.mem (ringAt s r).rspace.toNat 64)) = some sp := (if_neg hr).trans hsp
  simp only [bindRing, hread]

/-- A record that cannot be read, or is ill-formed, disables the ring. -/
theorem bindRing_no_record
    (h : recordUnread s (ringAt s r).rspace.toNat ∨ spaceOf (readN s.mem (ringAt s r).rspace.toNat 64) = none) :
    bindRing s r = modRing s r fun q => { q with enabled := false, bad := true } := by
  have hread : (if (ringAt s r).rspace.toNat % 64 ≠ 0 ∨ 2 ^ 52 ≤ (ringAt s r).rspace.toNat
      ∨ targetRefuses s (ringAt s r).rspace.toNat ∨ (poisonAt s (ringAt s r).rspace.toNat 64).isSome then none
      else spaceOf (readN s.mem (ringAt s r).rspace.toNat 64)) = none :=
    ite_eq_left_iff.mpr fun hr => h.resolve_left hr
  simp only [bindRing, hread]

end

/-! ### The start of the head entry -/

section
variable {s t : State} {r kind i v : Nat} {f : Nat → Nat → RingEntry → State → Option State}

/-- A malformed entry is rejected, whatever its kind. -/
theorem startEntry_malformed (h : headEntry s r = some (i, v)) (hbad : (entryFields v).ok = false) (kind : Nat)
    (f : Nat → Nat → RingEntry → State → Option State) :
    startEntry s r kind f = some (completeEntry (passed s r i) r i v 4 0xFD false) := by
  simp only [startEntry, h, hbad]
  rfl

/-- An entry of the kind starts with its effect. -/
theorem startEntry_starts (h : headIs s r kind i v) (hf : f i v (entryFields v) (passed s r i) = some t) :
    startEntry s r kind f = some t := by
  obtain ⟨hhead, hok, hkind⟩ := h
  have hf' : f i v (entryFields v) (modRing s r fun q => { q with head := BitVec.ofNat 32 (q.wrap (i + 1)) }) = some t := hf
  simp [startEntry, hhead, hok, hkind, hf']

/-- The event of an entry's start takes place where the entry starts. -/
theorem happens_startEntry (h : headIs s r kind i v) (hf : f i v (entryFields v) (passed s r i) = some t) :
    happens s (startEntry s r kind f) = .next t := by
  rw [startEntry_starts h hf, happens_some]

/-- Every kind's event rejects a malformed entry. -/
theorem exec_malformed_entry {r : BitVec 6} {core : Nat} (h : headEntry s r.toNat = some (i, v))
    (hbad : (entryFields v).ok = false) {e : Instr}
    (he : e ∈ [Instr.cmdLaunch r, .cmdCopy r core, .cmdSequencerStart r, .cmdWait r, .cmdSignal r, .cmdFence r]) :
    exec e s = .next (completeEntry (passed s r.toNat i) r.toNat i v 4 0xFD false) := by
  have hev (kind : Nat) (f : Nat → Nat → RingEntry → State → Option State) :
      happens s (startEntry s r.toNat kind f) = .next (completeEntry (passed s r.toNat i) r.toNat i v 4 0xFD false) := by
    rw [startEntry_malformed h hbad, happens_some]
  simp only [List.mem_cons, List.not_mem_nil, or_false] at he
  obtain rfl | rfl | rfl | rfl | rfl | rfl := he <;> exact hev ..

end

/-! ### The kinds of entries -/

section
variable {r core i v : Nat} {e : RingEntry} {s : State}

theorem startLaunch_accepts (hrun : allRun s = true) {st : Nat} {l : Launch}
    (h : validate s (ringAt s r).space e.arg0 0 = (st, some l)) : startLaunch r i v e s =
      some (newGrid (beginEntry s r i v) l (ringAt s r).space 0 none (.ring r i)).2 := by
  simp [startLaunch, hrun, h]

theorem startLaunch_rejects (hrun : allRun s = true) {st : Nat}
    (h : validate s (ringAt s r).space e.arg0 0 = (st, none)) : startLaunch r i v e s =
      some (completeEntry s r i v 4 st false) := by
  simp [startLaunch, hrun, h]

section
variable (hcore : core < coreCount) (hroom : copyFull s core = false)
include hcore hroom

/-- The barge of a core with room in its copy queue can take a copy. -/
theorem copy_can_start : ¬ (coreCount ≤ core ∨ copyFull s core = true) := by
  simp [hcore, hroom]

section
variable {dst src : Shape} (hd : cpShape s (ringAt s r).space e.arg1 = some (.inl dst))
  (hs : cpShape s (ringAt s r).space e.arg0 = some (.inl src))
include hd hs

theorem startCopy_queues (hbox : dst.box = src.box) (helem : elemBits dst.elem = elemBits src.elem) :
    startCopy r core i v e s = some (nextOp (modCore (beginEntry s r i v) core fun k =>
      { k with copyq := k.copyq ++ [hostOp s (ringAt s r).space core (.host dst src r i)] })) := by
  have hsame : ¬ (dst.box ≠ src.box ∨ elemBits dst.elem ≠ elemBits src.elem) := by simp [hbox, helem]
  simp only [startCopy, if_neg (copy_can_start hcore hroom), hd, hs, if_neg hsame]

/-- Records that differ reject the copy as a malformed entry is rejected. -/
theorem startCopy_differ (h : dst.box ≠ src.box ∨ elemBits dst.elem ≠ elemBits src.elem) :
    startCopy r core i v e s = some (completeEntry s r i v 4 0xFD false) := by
  simp only [startCopy, if_neg (copy_can_start hcore hroom), hd, hs, if_pos h]

end

/-- A record whose read fails ends the copy with the ERROR of R286: the destination's comes first. -/
theorem startCopy_unread {c : Nat}
    (h : (cpShape s (ringAt s r).space e.arg1 = some (.inr c) ∧ (cpShape s (ringAt s r).space e.arg0).isSome = true) ∨
      ∃ d, cpShape s (ringAt s r).space e.arg1 = some (.inl d) ∧ cpShape s (ringAt s r).space e.arg0 = some (.inr c)) :
    startCopy r core i v e s = some (completeEntry s r i v 3 c false) := by
  have hstart := copy_can_start hcore hroom
  rcases h with ⟨hd, hs⟩ | ⟨d, hd, hs⟩
  · obtain ⟨p, hs⟩ := Option.isSome_iff_exists.mp hs
    simp only [startCopy, if_neg hstart, hd, hs]
  · simp only [startCopy, if_neg hstart, hd, hs]

/-- An ill-formed record rejects the copy. -/
theorem startCopy_ill_formed
    (h : cpShape s (ringAt s r).space e.arg1 = none ∨ cpShape s (ringAt s r).space e.arg0 = none) :
    startCopy r core i v e s = some (completeEntry s r i v 4 0xFD false) := by
  have hstart := copy_can_start hcore hroom
  rcases h with h | h
  · simp only [startCopy, if_neg hstart, h]
  · simp only [startCopy, if_neg hstart, h]
    rcases cpShape s (ringAt s r).space e.arg1 with _ | ⟨_ | _⟩ <;> rfl

end

theorem startSeq_status {st : Nat} {cid : BitVec 28} {t : State}
    (h : launchColl (ringAt s r).space e.arg0 (some (r, i)) s = .status st cid t) : startSeq r i v e s =
      some (if st = 0 then beginEntry t r i v else completeEntry t r i v 3 st false) := by
  rw [startSeq, h]

theorem readWait_fails {c : Nat} (h : cpRead s (ringAt s r).space e.arg0.toNat 8 = .inr c) :
    readWait r i e s = some (finishEntry s r i 3 0x02 false) := by
  rw [readWait, h]

theorem readWait_word {n : Nat} (h : cpRead s (ringAt s r).space e.arg0.toNat 8 = .inl n) :
    readWait r i e s = if e.arg1.toNat ≤ n then some (finishEntry s r i 2 0 false) else none := by
  rw [readWait, h]

/-- A wait whose word is not reached stands from now. -/
theorem startWait_word {n : Nat}
    (h : cpRead (beginEntry s r i v) (ringAt (beginEntry s r i v) r).space e.arg0.toNat 8 = .inl n) :
    startWait r i v e s = some (if e.arg1.toNat ≤ n then finishEntry (beginEntry s r i v) r i 2 0 false
      else modRing (beginEntry s r i v) r fun q => { q with waits := q.waits ++ [(i, (beginEntry s r i v).dtime)] }) := by
  simp only [startWait, readWait_word h]
  by_cases hn : e.arg1.toNat ≤ n
  · simp only [if_pos hn]
  · simp only [if_neg hn]

theorem startWait_fails {c : Nat}
    (h : cpRead (beginEntry s r i v) (ringAt (beginEntry s r i v) r).space e.arg0.toNat 8 = .inr c) :
    startWait r i v e s = some (finishEntry (beginEntry s r i v) r i 3 0x02 false) := by
  simp only [startWait, readWait_fails h]

theorem startSignal_writes {t : State} (h : sysWrite s (ringAt s r).space e.arg0.toNat 8 e.arg1.toNat = some t) :
    startSignal r i v e s = some (completeEntry t r i v 2 0 false) := by
  rw [startSignal, h]

theorem startSignal_fails (h : sysWrite s (ringAt s r).space e.arg0.toNat 8 e.arg1.toNat = none) :
    startSignal r i v e s = some (completeEntry s r i v 3 0x02 false) := by
  rw [startSignal, h]

theorem startFence_completes (h : (ringAt s r).starts = []) :
    startFence r i v e s = some (completeEntry s r i v 2 0 false) := by
  rw [startFence, h]
  rfl

end

/-! ### Waits that stand -/

section
variable {r : BitVec 6} {i : Nat} {s : State} {e : RingEntry} {since : DWord} (h : standingWait s r.toNat i = some (e, since))
include h

theorem execCmdWaitSatisfied_reached {n : Nat} (hread : cpRead s (ringAt s r.toNat).space e.arg0.toNat 8 = .inl n)
    (hn : e.arg1.toNat ≤ n) : execCmdWaitSatisfied r i s = .next (finishEntry s r.toNat i 2 0 false) := by
  simp only [execCmdWaitSatisfied, h, readWait_word hread, if_pos hn, happens_some]

theorem execCmdWaitSatisfied_fails {c : Nat} (hread : cpRead s (ringAt s r.toNat).space e.arg0.toNat 8 = .inr c) :
    execCmdWaitSatisfied r i s = .next (finishEntry s r.toNat i 3 0x02 false) := by
  simp only [execCmdWaitSatisfied, h, readWait_fails hread, happens_some]

theorem execCmdWaitTimeout_ends (hlimit : e.arg2 ≠ 0) (hover : e.arg2 ≤ (s.dtime - since).toNat) :
    execCmdWaitTimeout r i s = .next (finishEntry s r.toNat i 3 0x01 false) := by
  have hticks : (decide (e.arg2 ≠ 0) && decide (e.arg2 ≤ (s.dtime - since).toNat)) = true := by
    rw [decide_eq_true hlimit, decide_eq_true hover, Bool.and_self]
  simp only [execCmdWaitTimeout, h, hticks, whenOk_true, happens_some]

end

/-! ### The statement -/

/-- Settles O52: an enable is decided by the ring's record, and the start of an entry by the effect of its kind. -/
theorem ringsComplete : Obligations.rings_complete := by
  refine ⟨fun _ _ _ => rfl, fun _ _ => rfl, fun r s sp he hal hspan href hpoison hd hsp => ?enable,
    fun r s he => ⟨fun hd => congrArg _ (ringEnable_queued he hd), fun hd h => ?disable⟩,
    fun r core s i v h hbad e he => exec_malformed_entry h hbad he,
    fun r s i v h hrun => ⟨fun st l hv => happens_startEntry h (startLaunch_accepts hrun hv),
      fun st hv => happens_startEntry h (startLaunch_rejects hrun hv)⟩,
    fun r core s i v dst src h hcore hroom hd hs hbox helem =>
      happens_startEntry h (startCopy_queues hcore hroom hd hs hbox helem),
    fun r core s i v h hcore hroom =>
      ⟨fun c hc => happens_startEntry h (startCopy_unread hcore hroom hc), fun hbad => happens_startEntry h ?rejected⟩,
    fun r s i v st cid t h hlaunch => happens_startEntry h (startSeq_status hlaunch),
    fun r s i v n h hread => happens_startEntry h (startWait_word hread),
    fun r s i v n h hread => happens_startEntry h (startWait_fails hread),
    fun r s i e since h => ⟨fun n hread hn => execCmdWaitSatisfied_reached h hread hn,
      fun n hread => execCmdWaitSatisfied_fails h hread, fun hlimit hover => execCmdWaitTimeout_ends h hlimit hover⟩,
    fun r s i v t h hwrite => happens_startEntry h (startSignal_writes hwrite),
    fun r s i v h hwrite => happens_startEntry h (startSignal_fails hwrite),
    fun r s i v h hstarts => happens_startEntry h (startFence_completes hstarts)⟩
  case enable =>
    have hread : ¬ recordUnread s (ringAt s r.toNat).rspace.toNat := by
      simpa [recordUnread, hal, href, hpoison] using hspan
    exact congrArg _ ((ringEnable_reads he hd).trans (bindRing_record hread hsp))
  case disable =>
    refine congrArg _ ((ringEnable_reads he hd).trans (bindRing_no_record ?_))
    simpa only [recordUnread, or_assoc] using h
  case rejected =>
    rcases hbad with hd | hs | ⟨d, e, hd, hs, hdiff⟩
    · exact startCopy_ill_formed hcore hroom (.inl hd)
    · exact startCopy_ill_formed hcore hroom (.inr hs)
    · exact startCopy_differ hcore hroom hd hs hdiff

end Sys2Proof.Proofs
end

section
/-! How a sequencer instruction's meaning becomes its outcome (R302, R331, R332), and what a step with a turn executes (R304). -/

namespace Sys2Proof.Proofs

open Sys2Proof.Machine Sys2Proof.Safety

/-! ### The context that issues -/

/-- x is what the current sequencer runs (R302): a context that is running, and its collective. -/
structure RunsNow (s : State) (x : SCtx) : Prop where
  cur : s.curSeq = some x.sq
  run : (seqAt s x.sq).run = some x.cx
  ctx : x.c = ctxAt s x.sq x.cx
  coll : collOf s x.c = some x.coll
  state : x.c.state = .running

theorem runsNow_of_sctx {s : State} {x : SCtx} (h : sctx? s = some x) : RunsNow s x := by
  unfold sctx? at h
  split at h
  · cases h
  next n hn =>
  split at h
  · cases h
  next k hk =>
  dsimp only at h
  split at h
  case h_2 => cases h
  case h_1 co hco =>
    split at h
    case isFalse => cases h
    case isTrue hrun =>
      cases h
      exact ⟨hn, hk, rfl, hco, hrun.1⟩

/-! ### The outcome of a meaning -/

section
variable {body : SCtx → State → SeqRes} {s u : State} {x : SCtx} (hx : sctx? s = some x)
include hx

theorem issueSeq_go {c : SeqCtx} (h : body x s = .go c u) : issueSeq body s = .next (seqStepDone u x c) := by
  simp only [issueSeq, hx, h]

theorem issueSeq_wait {w : SeqWait} (h : body x s = .wait w u) : issueSeq body s = .next (seqWaits u x w) := by
  simp only [issueSeq, hx, h, seqWaits]

theorem issueSeq_fault {c a : Nat} (h : body x s = .fault c a u) : issueSeq body s = .next (seqFault u x.sq x.cx c a) := by
  simp only [issueSeq, hx, h]

theorem issueSeq_stop (h : body x s = .stop u) : issueSeq body s = .next (leaveSeq u x.sq x.cx (atSwitch SeqCtx.ended)) := by
  simp only [issueSeq, hx, h]

end

/-! ### The turn of a sequencer -/

section
variable {s : State} {rest : List Turn} {n : Nat} {x : SCtx} (ha : s.agenda = .seq n :: rest)
  (hx : sctx? { s with agenda := rest, curSeq := some n } = some x)
include ha hx

theorem step_seq_fetched {i : Instr} (hlo : x.c.lo ≤ x.c.pc.toNat) (hhi : x.c.pc.toNat < x.c.lo + x.c.words)
    (hi : decodeSeq (fget (seqAt s n).imem x.c.pc.toNat) = some i) :
    step s = exec i { s with agenda := rest, curSeq := some n } := by
  have hn : x.sq = n := (Option.some.inj (runsNow_of_sctx hx).cur).symm
  have hin : ¬ (x.c.pc.toNat < x.c.lo ∨ x.c.lo + x.c.words ≤ x.c.pc.toNat) := by omega
  have hi' : decodeSeq (fget (seqAt { s with agenda := rest, curSeq := some n } x.sq).imem x.c.pc.toNat) = some i := by
    rw [hn]
    exact hi
  simp only [step, ha, takeTurn, runSeq, hx, if_neg hin, hi']

theorem step_seq_outside (hout : x.c.pc.toNat < x.c.lo ∨ x.c.lo + x.c.words ≤ x.c.pc.toNat) :
    step s = .next (seqFault { s with agenda := rest, curSeq := some n } x.sq x.cx 0x02 0) := by
  simp only [step, ha, takeTurn, runSeq, hx, if_pos hout]

end

theorem step_event {s : State} {rest : List Turn} {i : Instr} (ha : s.agenda = .event i :: rest) (hi : isEvent i = true) :
    step s = exec i { s with agenda := rest } := by
  simp only [step, ha, takeTurn, hi, if_true]

/-- Settles O11: the turn of a sequencer fetches within the loaded range and decodes, and the turn of an event is that event. -/
theorem stepRunsSequencersAndEvents : Obligations.step_runs_sequencers_and_events :=
  ⟨fun _ _ _ _ _ ha hx hlo hhi hi => step_seq_fetched ha hx hlo hhi hi, fun _ _ _ ha hi => step_event ha hi⟩

end Sys2Proof.Proofs
end

section
/-! Sequencers and their contexts after an instruction or a switch (R302), and SETK and ADDK (R311). -/

namespace Sys2Proof.Proofs

open Sys2Proof.Machine Sys2Proof.Safety Sys2Proof.Laws

/-! ### Contexts after updates -/

theorem seqAt_modSeq (s : State) (n m : Nat) (f : Sequencer → Sequencer) :
    seqAt (modSeq s n f) m = if m = n ∧ m < s.seqs.length then f (seqAt s m) else seqAt s m := getD_lmod ..

/-- There is a context where one that is not idle stands. -/
theorem ctx_in_range {s : State} {n k : Nat} (h : (ctxAt s n k).state ≠ .idle) :
    n < s.seqs.length ∧ k < (seqAt s n).ctxs.length := by
  have hk : k < (seqAt s n).ctxs.length := by
    by_contra hk
    refine h ?_
    rw [ctxAt, List.getD_eq_default _ _ (Nat.le_of_not_lt hk)]
    rfl
  refine ⟨?_, hk⟩
  by_contra hn
  have h0 : seqAt s n = Sequencer.init := List.getD_eq_default _ _ (Nat.le_of_not_lt hn)
  rw [h0] at hk
  refine h ?_
  rw [ctxAt, h0]
  match k, hk with
  | 0, _ | 1, _ | 2, _ | 3, _ => rfl

section
variable {s : State} {n k : Nat} (hn : n < s.seqs.length)
include hn

theorem seqAt_modSeq_same (f : Sequencer → Sequencer) : seqAt (modSeq s n f) n = f (seqAt s n) := by
  rw [seqAt_modSeq, if_pos ⟨rfl, hn⟩]

/-- A context that an update of its sequencer changes by f. -/
theorem ctxAt_modSeq_same (hk : k < (seqAt s n).ctxs.length) {g : Sequencer → Sequencer} {f : SeqCtx → SeqCtx}
    (hg : (g (seqAt s n)).ctxs = lmod (seqAt s n).ctxs k f) : ctxAt (modSeq s n g) n k = f (ctxAt s n k) := by
  rw [ctxAt, seqAt_modSeq_same hn, hg, getD_lmod, if_pos ⟨rfl, hk⟩, ctxAt]

end

theorem ctxAt_modCtx {s : State} {n k : Nat} (h : (ctxAt s n k).state ≠ .idle) (f : SeqCtx → SeqCtx) :
    ctxAt (modCtx s n k f) n k = f (ctxAt s n k) := by
  obtain ⟨hn, hk⟩ := ctx_in_range h
  exact ctxAt_modSeq_same hn hk rfl

/-! ### Switches (R302) -/

theorem nextReady_ready {q : Sequencer} {k : Nat} (h : nextReady q = some k) : (q.ctxs.getD k SeqCtx.init).state = .ready := by
  simpa using List.find?_some h

/-- A switch starts ready contexts only. -/
theorem ctxAt_schedule {s : State} {m k : Nat} (h : (ctxAt s m k).state ≠ .ready) (n : Nat) :
    ctxAt (schedule s n) m k = ctxAt s m k := by
  rw [ctxAt, schedule, seqAt_modSeq]
  split
  case isFalse => rfl
  case isTrue =>
    split
    · rfl
    split
    next j hj =>
      rw [getD_lmod]
      split
      next hkj =>
        rw [← hkj.1] at hj
        exact absurd (nextReady_ready hj) h
      · rfl
    · rfl

section
variable {s : State} {n k : Nat} {f : SeqCtx → SeqCtx} (h : (ctxAt s n k).state ≠ .idle) (hf : (f (ctxAt s n k)).state ≠ .ready)
include h hf

/-- A context that leaves its sequencer and is not ready stands there as it was changed. -/
theorem ctxAt_leaveSeq : ctxAt (leaveSeq s n k f) n k = f (ctxAt s n k) := by
  obtain ⟨hn, hk⟩ := ctx_in_range h
  have hc := ctxAt_modSeq_same (g := fun q => { q with run := none, last := some k, ctxs := lmod q.ctxs k f }) hn hk rfl
  rw [← hc] at hf
  exact (ctxAt_schedule hf n).trans hc

theorem ctxAt_moveCtx : ctxAt (moveCtx s n k f) n k = f (ctxAt s n k) := by
  unfold moveCtx
  split
  · exact ctxAt_leaveSeq h hf
  · exact ctxAt_modCtx h f

end

/-! ### Instructions that are no switch points -/

section
variable {s : State} {x : SCtx} (hx : sctx? s = some x)
include hx

theorem ctx_running : (ctxAt s x.sq x.cx).state ≠ .idle := by
  have hr := runsNow_of_sctx hx
  rw [← hr.ctx, hr.state]
  decide

/-- A context that is not to halt goes on where it runs (R311, R334). -/
theorem seqStepDone_goes_on {c : SeqCtx} (hc : c.halt = false) :
    (seqAt (seqStepDone s x c) x.sq).run = some x.cx ∧ ctxAt (seqStepDone s x c) x.sq x.cx = c := by
  obtain ⟨hn, hk⟩ := ctx_in_range (ctx_running hx)
  rw [seqStepDone, if_neg (by simp [hc])]
  refine ⟨?_, ctxAt_modSeq_same (f := fun _ => c) hn hk rfl⟩
  rw [seqAt_modSeq_same hn]
  exact (runsNow_of_sctx hx).run

end

/-! ### SETK and ADDK -/

/-- A field that the mode of SETK does not use (R311). -/
def setkUnused (a : BitVec 4) (mode : BitVec 2) (im : Word) : Prop := mode = 3 ∧ im ≠ 0 ∨ mode ≠ 3 ∧ a ≠ 0

/-- The value of SETK (R311). -/
def setkValue (x : SCtx) (d a : BitVec 4) (mode : BitVec 2) (im : Word) : DWord :=
  match mode.toNat with
  | 0 => im.signExtend 64
  | 1 => im.zeroExtend 64
  | 2 => im ++ (x.k d).extractLsb' 0 32
  | _ => x.k a

/-- A field that the mode of ADDK does not use, or its modulus 0 (R311). -/
def addkUnused (b : BitVec 4) (mode : BitVec 2) (im : Word) : Prop :=
  mode = 0 ∧ b ≠ 0 ∨ (mode = 1 ∨ mode = 3) ∧ im ≠ 0 ∨ mode = 2 ∧ im = 0

/-- The value of ADDK (R311). -/
def addkValue (x : SCtx) (a b : BitVec 4) (mode : BitVec 2) (im : Word) : DWord :=
  match mode.toNat with
  | 0 => x.k a + im.signExtend 64
  | 1 => x.k a + x.k b
  | 2 => BitVec.ofNat 64 (((x.k a).toNat + (x.k b).toNat) % im.toNat)
  | _ => x.k a - x.k b

section
variable {d a b : BitVec 4} {mode : BitVec 2} {im : Word} {s : State} {x : SCtx} (hx : sctx? s = some x)
include hx

theorem exec_setk_illegal (h : setkUnused a mode im) : exec (.setk d a mode im) s = .next (seqFault s x.sq x.cx 0x01 0) :=
  issueSeq_fault (body := semSetk d a mode im) hx (if_pos h)

theorem exec_setk_legal (h : ¬ setkUnused a mode im) :
    exec (.setk d a mode im) s = .next (seqStepDone s x (kSet x d (setkValue x d a mode im))) :=
  issueSeq_go (body := semSetk d a mode im) hx ((if_neg h).trans rfl)

theorem exec_addk_illegal (h : addkUnused b mode im) : exec (.addk d a b mode im) s = .next (seqFault s x.sq x.cx 0x01 0) :=
  issueSeq_fault (body := semAddk d a b mode im) hx (if_pos h)

theorem exec_addk_legal (h : ¬ addkUnused b mode im) :
    exec (.addk d a b mode im) s = .next (seqStepDone s x (kSet x d (addkValue x a b mode im))) :=
  issueSeq_go (body := semAddk d a b mode im) hx ((if_neg h).trans rfl)

end

/-- Settles O49: SETK and ADDK go on with the value of the mode where its fields are legal, and fault where they are not. -/
theorem setkAndAddkResults : Obligations.setk_and_addk_results := by
  refine ⟨fun d v i a im x => ⟨rfl, fun hk => ?read, fun s hx => ⟨exec_setk_legal hx ?_, exec_setk_legal hx ?_,
      exec_setk_legal hx ?_, exec_setk_legal hx ?_⟩⟩,
    fun d a b im s x hx => ⟨exec_addk_legal hx ?_, exec_addk_legal hx ?_, fun him => exec_addk_legal hx ?_,
      exec_addk_illegal hx ?_, exec_addk_legal hx ?_⟩,
    fun d a b mode im s x hx => ⟨fun h => exec_setk_illegal hx h, fun h => exec_addk_illegal hx (h.imp_right .inl)⟩,
    fun s x c hx hc => seqStepDone_goes_on hx hc⟩
  case read =>
    rw [kSet, fget_fset hk, SCtx.k]
    simp only [BitVec.toNat_inj]
  all_goals simp_all [setkUnused, addkUnused]

end Sys2Proof.Proofs
end

section
/-! What the lock die's messages and writes leave alone (R211, R242, R250, R327, R328): the writes of link sequencers are its own. -/

namespace Sys2Proof.Proofs

open Sys2Proof.Machine

/-! ### Messages, credits and the directory -/

/-- t is s but for messages, free choices, credits and coherence. -/
inductive Told (s : State) : State → Prop
  | mk (outbox : List OutMsg) (issued : List Issued) (freeCtr : Nat) (peers : KMap Peer) (coh : Coherence) :
    Told s { s with outbox := outbox, issued := issued, freeCtr := freeCtr, peers := peers, coh := coh }

theorem Told.refl (s : State) : Told s s := .mk ..

theorem Told.trans {s t u : State} (h : Told s t) (k : Told t u) : Told s u := by
  cases h
  cases k
  exact .mk ..

theorem Told.pkg {s t : State} (h : Told s t) : t.pkg = s.pkg := by cases h; rfl
theorem Told.mem {s t : State} (h : Told s t) : t.mem = s.mem := by cases h; rfl

theorem Told.foldl {α : Type} {f : State → α → State} (hf : ∀ s a, Told s (f s a)) (s : State) (l : List α) :
    Told s (l.foldl f s) :=
  List.foldlRecOn l f (.refl s) fun t ht a _ => ht.trans (hf t a)

theorem told_emit (s : State) (m : OutMsg) : Told s (emit s m) := .mk ..
theorem told_emitOn (s : State) (l : Option Nat) (m : OutMsg) : Told s (emitOn s l m) := .mk ..
theorem told_modCoh (s : State) (f : Coherence → Coherence) : Told s (modCoh s f) := .mk ..
theorem told_pick (s : State) (n : Nat) : Told s (pick s n).2 := .mk ..
theorem told_sendCoh (s : State) (kind : String) (src dst : CohNode) (line : Nat) (stamp : Stamp) (data : Payload) :
    Told s (sendCoh s kind src dst line stamp data) := told_emit ..

theorem told_tellAccess (s : State) (write : Bool) (pa n : Nat) (l : List Byte) : Told s (tellAccess s write pa n l) := by
  unfold tellAccess
  split
  · exact .foldl (fun s i => told_emit ..) s _
  · exact .refl s

theorem told_returnCredits (s : State) (src : BitVec 12) (kind : String) (n : Nat) : Told s (returnCredits s src kind n) := by
  unfold returnCredits
  split
  · exact .refl s
  · exact told_emit ..

theorem told_takeRequest {s t : State} {p : BitVec 12} (h : takeRequest s p = some t) : Told s t := by
  unfold takeRequest at h
  split at h
  · cases h
  split at h
  · cases h
    exact .refl s
  split at h
  case h_2 => cases h
  case h_1 =>
    split at h
    · cases h
    · cases h
      exact .mk ..

theorem told_takeCredits (s : State) (g : Grantor) (n : Nat) : Told s (takeCredits s g n).2 := by
  unfold takeCredits
  split
  · exact .refl s
  split
  · exact .mk ..
  · exact .refl s

theorem told_takeBulk {s t : State} {p : BitVec 12} (h : takeBulk s p = some t) : Told s t := by
  unfold takeBulk at h
  split at h
  · cases h
  split at h
  next u hu =>
    cases h
    have := told_takeCredits s (.pkg p) 1
    rwa [hu] at this
  · cases h

/-! ### What the lock die asks of this package's home (R250, R313) -/

theorem told_addGrant (s : State) (line : Nat) (role : GrantRole) (kind : CohKind) (r : CohReq) (l : List CohNode) (answer : String) :
    Told s (addGrant s line role kind r l answer) := .mk ..

theorem told_sendSnoops (s : State) (kind : CohKind) (r : CohReq) (line : Nat) (l : List (String × CohNode)) :
    Told s (sendSnoops s kind r line l) :=
  Told.trans (.foldl (fun _ _ => told_sendCoh ..) s l) (.mk ..)

section
variable {s : State} {r : CohReq} (h : r.src = selfNode s)
include h

/-- A request of the lock die itself has no answer and brings no data. -/
theorem answerReq_self (answer : String) : answerReq s r answer = s := by
  rw [answerReq, if_pos h]

theorem respond_self (kind : CohKind) (answer : String) : respond s kind r answer = s := by
  simp only [respond, answerReq_self h]
  rw [h, selfNode]
  simp

theorem told_serve (kind : CohKind) : Told s (serve s kind r) := by
  unfold serve
  split
  · rw [answerReq_self h]
    exact .refl s
  extract_lets p s1 s2 s3 s4
  split
  · exact .trans (.trans (told_pick s (victims s r.line).length) (.foldl (fun _ _ => told_sendCoh ..) _ _)) (told_addGrant ..)
  have h1 : Told s s1 := .mk ..
  have h2 : Told s s2 := by
    unfold s2
    split
    · exact h1.trans (told_modCoh ..)
    · exact h1
  have h3 : Told s s3 := by
    unfold s3
    split
    · split
      · exact h2
      · exact h2.trans (told_modCoh ..)
    · exact h2
  have h4 : Told s s4 := h3.trans (told_sendSnoops ..)
  split
  · rw [respond_self (h.trans (by rw [selfNode, selfNode, h4.pkg]))]
    exact h4
  · exact h4.trans (told_addGrant ..)

end

theorem told_askHome (s : State) (line : Nat) : Told s (askHome s line) := by
  unfold askHome
  extract_lets r
  split
  · exact told_modCoh ..
  split
  · exact told_modCoh ..
  · exact told_serve rfl _

theorem told_askHomes (s : State) (pa n : Nat) : Told s (askHomes s pa n) :=
  .foldl (fun s i => by
    split
    · exact told_askHome ..
    · exact .refl s) s _

end Sys2Proof.Proofs
end

section
/-! What a sequencer's writes and faults leave alone (R331, R333), and the instructions that control its contexts (R304, R312). -/

namespace Sys2Proof.Proofs

open Sys2Proof.Machine Sys2Proof.Safety

/-! ### Writes of the lock die -/

/-- t is s but for memory, the entries of collectives, and what messages change. -/
inductive Wrote (s : State) : State → Prop
  | mk (mem : Memory) (behind : KMap (List Unseen)) (colls : KMap Collective) (outbox : List OutMsg) (issued : List Issued)
      (freeCtr : Nat) (peers : KMap Peer) (coh : Coherence) :
    Wrote s { s with mem := mem, behind := behind, colls := colls, outbox := outbox, issued := issued, freeCtr := freeCtr,
                     peers := peers, coh := coh }

theorem Wrote.refl (s : State) : Wrote s s := .mk ..

theorem Wrote.trans {s t u : State} (h : Wrote s t) (k : Wrote t u) : Wrote s u := by
  cases h
  cases k
  exact .mk ..

theorem Told.wrote {s t : State} (h : Told s t) : Wrote s t := by
  cases h
  exact .mk ..

theorem Wrote.foldl {α : Type} {f : State → α → State} (hf : ∀ s a, Wrote s (f s a)) (s : State) (l : List α) :
    Wrote s (l.foldl f s) :=
  List.foldlRecOn l f (.refl s) fun t ht a _ => ht.trans (hf t a)

theorem Wrote.ctxAt {s t : State} (h : Wrote s t) (n k : Nat) : ctxAt t n k = ctxAt s n k := by
  cases h
  rfl

theorem wrote_lockWrite (s : State) (pa : Nat) (l : List Byte) : Wrote s (lockWrite s pa l) :=
  .trans (.mk ..) ((told_askHomes ..).trans (told_tellAccess ..)).wrote

theorem wrote_lockAtomic {s t : State} {pa n v : Nat} {pay : Payload} (h : lockAtomic s pa n v pay = some t) : Wrote s t := by
  unfold lockAtomic at h
  extract_lets line done at h
  have hdone (u : State) : Wrote u (done u) := .mk ..
  split at h
  · split at h
    · cases h
      refine .trans ?_ (hdone _)
      split
      · exact (told_askHome ..).wrote
      · exact .refl s
    · obtain ⟨u, hu, rfl⟩ := Option.map_eq_some_iff.mp h
      exact ((told_takeRequest hu).trans (told_sendCoh ..)).wrote.trans (hdone _)
  · cases h
    exact hdone s

/-! ### Chunks that are abandoned -/

theorem wrote_someBytes (s : State) (g : Seg) (l : List Byte) : Wrote s (someBytes s g l) :=
  .foldl (fun s p => by
    refine .trans (told_pick s 2).wrote ?_
    dsimp only
    split
    · exact .refl _
    · exact wrote_lockWrite ..) s _

theorem told_freeBytes (n : Nat) (s : State) : Told s (freeBytes n s).2 := by
  induction n generalizing s with
  | zero => exact .refl s
  | succ n ih => exact (told_pick s 256).trans (ih _)

/-- The sum of a presentation: the chunk itself with one contributor (R310). -/
theorem told_sumBytes (n : Nat) (own : List Byte) (s : State) :
    Told s (if n = 1 then (own, s) else freeBytes own.length s).2 := by
  split
  · exact .refl s
  · exact told_freeBytes ..

theorem wrote_receivePart (s : State) (src dst : Route) (tag : BitVec 16) (data : List Byte) :
    Wrote s (receivePart s src dst tag data) := by
  unfold receivePart
  split
  · exact .refl s
  split
  · split
    · exact wrote_someBytes ..
    · exact .refl s
  · exact .refl s

theorem wrote_someDue (s : State) (due : Option StoreDue) : Wrote s (someDue s due) := by
  unfold someDue
  split
  · exact wrote_someBytes ..
  · exact .refl s

theorem told_inFlight (s : State) (n k : Nat) (op : RxOp) : Told s (inFlight s n k op).2 := by
  unfold inFlight
  extract_lets me
  split
  · exact told_freeBytes ..
  · split <;> exact .refl s

theorem wrote_abandon (s : State) (n k : Nat) : Wrote s (abandon s n k) := by
  unfold abandon
  extract_lets me
  split
  · exact wrote_someBytes ..
  · exact (wrote_someDue ..).trans (wrote_receivePart ..)
  · exact wrote_someDue ..
  · extract_lets t
    split
    · exact (wrote_someDue ..).trans (wrote_receivePart ..)
    · exact wrote_someDue ..
  next op a r f hw =>
    have ht := told_inFlight s n k op
    split
    next data t h =>
      rw [h] at ht
      exact ht.wrote.trans (wrote_someBytes ..)
    next t h =>
      rw [h] at ht
      exact ht.wrote
  next dst own count hw =>
    have ht := told_sumBytes count own s
    split
    next l t h =>
      rw [h] at ht
      exact ht.wrote.trans (wrote_someBytes ..)
  · exact .refl s

theorem told_dropMessages (s : State) (n k : Nat) : Told s (dropMessages s n k) := .mk ..

theorem told_drainChunk (s : State) (w : SeqWait) : Told s (drainChunk s w) := by
  unfold drainChunk
  split
  · exact told_returnCredits ..
  · exact .refl s

/-! ### Faults that stand -/

theorem wrote_sysWriteBytes {s t : State} {space va : Nat} {l : List Byte} (h : sysWriteBytes s space va l = some t) :
    Wrote s t := by
  unfold sysWriteBytes at h
  extract_lets pas at h
  split at h
  · cases h
  · cases h
    exact .foldl (fun s p => .trans (.mk ..) (told_tellAccess ..).wrote) s _

theorem told_sendAbort (s : State) (cid : BitVec 28) (cause : Nat) : Told s (sendAbort s cid cause) := by
  unfold sendAbort
  extract_lets l
  split
  · exact .foldl (fun s p => told_emit ..) s _
  · exact told_emit ..

theorem wrote_recordFault (s : State) (cid : BitVec 28) (n k cause addr : Nat) (pc : BitVec 11) :
    Wrote s (recordFault s cid n k cause addr pc) := by
  unfold recordFault
  split
  · exact .refl s
  split
  · exact .refl s
  extract_lets co
  split
  next co' t h =>
    refine .trans ?_ (.mk ..)
    split at h
    · cases h
      exact .refl s
    split at h
    next u hu =>
      cases h
      exact wrote_sysWriteBytes hu
    · cases h
      exact .refl s

/-- A fault writes and tells what it has to, and then its context leaves (R331, R333). -/
theorem seqFault_moves {s : State} {n k : Nat} (h : (ctxAt s n k).state ≠ .idle ∧ (ctxAt s n k).state ≠ .faulted)
    (cause addr : Nat) : ∃ t, Wrote s t ∧ seqFault s n k cause addr = moveCtx t n k fun c => c.faultedBy cause addr := by
  have hruns : ¬ ((ctxAt s n k).state = .idle ∨ (ctxAt s n k).state = .faulted) := not_or.mpr h
  rw [seqFault, if_neg hruns]
  extract_lets s1 s2 s3
  refine ⟨s3, ?_, rfl⟩
  have h1 : Wrote s s1 := by
    unfold s1
    split
    · exact wrote_abandon ..
    · exact .refl s
  have h2 : Wrote s s2 := h1.trans ((told_dropMessages ..).trans (told_drainChunk ..)).wrote
  unfold s3
  split
  · exact h2
  split
  · exact h2.trans ((wrote_recordFault ..).trans (told_sendAbort ..).wrote)
  · exact h2

/-- The context that has faulted stands as the fault leaves it. -/
theorem ctxAt_seqFault {s : State} {n k : Nat} (h : (ctxAt s n k).state ≠ .idle ∧ (ctxAt s n k).state ≠ .faulted)
    (cause addr : Nat) : ctxAt (seqFault s n k cause addr) n k = (ctxAt s n k).faultedBy cause addr := by
  obtain ⟨t, ht, hmove⟩ := seqFault_moves h cause addr
  rw [hmove, ctxAt_moveCtx (by rw [ht.ctxAt]; exact h.1) (by simp [SeqCtx.faultedBy]), ht.ctxAt]

/-! ### LOOPK, JMPK, SNOP and SEQEND -/

/-- JMPK breaks its layout: its condition is reserved, or it names a register that is not read (R312). -/
def jmpkIllegal (a : BitVec 4) (cond : BitVec 2) : Prop := cond = 3 ∨ (cond = 0 ∧ a ≠ 0)

/-- JMPK jumps: always, where the register is 0, or where it is not (R312). -/
def jmpkTaken (x : SCtx) (a : BitVec 4) (cond : BitVec 2) : Bool :=
  decide (cond = 0) || (decide (cond = 1) && decide (x.k a = 0)) || (decide (cond = 2) && decide (x.k a ≠ 0))

section
variable {s : State} {x : SCtx} (hx : sctx? s = some x)
include hx

theorem exec_loopk (d : BitVec 4) (target : BitVec 11) : exec (.loopk d target) s = .next (seqStepDone s x { x.c with
    k := fset x.c.k d.toNat (x.k d - 1)
    pc := if x.k d - 1 ≠ 0 then target else x.c.pc + 1 }) :=
  issueSeq_go (body := semLoopk d target) hx rfl

theorem exec_jmpk_illegal {a : BitVec 4} {cond : BitVec 2} (target : BitVec 11) (h : jmpkIllegal a cond) :
    exec (.jmpk a target cond) s = .next (seqFault s x.sq x.cx 0x01 0) :=
  issueSeq_fault (body := semJmpk a target cond) hx (if_pos h)

theorem exec_jmpk_legal {a : BitVec 4} {cond : BitVec 2} (target pc : BitVec 11) (h : ¬ jmpkIllegal a cond)
    (hpc : pc = if jmpkTaken x a cond then target else x.c.pc + 1) :
    exec (.jmpk a target cond) s = .next (seqStepDone s x { x.c with pc := pc }) :=
  issueSeq_go (body := semJmpk a target cond) hx ((if_neg h).trans (by rw [hpc]; rfl))

theorem exec_snop : exec .snop s = .next (seqStepDone s x { x.c with pc := x.c.pc + 1 }) :=
  issueSeq_go (body := fun x s => x.next x.c s) hx rfl

theorem exec_seqend : exec .seqend s = .next (leaveSeq s x.sq x.cx (atSwitch SeqCtx.ended)) :=
  issueSeq_stop (body := fun _ s => .stop s) hx rfl

/-- The end of a program leaves its context idle (R312). -/
theorem ctxAt_seqend (ha : x.c.abort = false) : ctxAt (leaveSeq s x.sq x.cx (atSwitch SeqCtx.ended)) x.sq x.cx =
    { x.c with state := .idle, step := x.c.step && !x.c.halt, due := false } := by
  have hend : atSwitch SeqCtx.ended (ctxAt s x.sq x.cx) = x.c.ended := by
    rw [← (runsNow_of_sctx hx).ctx, atSwitch, if_neg (by simp [ha])]
  rw [ctxAt_leaveSeq (ctx_running hx) (by rw [hend]; simp [SeqCtx.ended]), hend]
  rfl

end

/-- Settles O50: each control instruction has its outcome, and a fetch outside the loaded range faults where its context stands. -/
theorem sequencerControlResults : Obligations.sequencer_control_results := by
  refine ⟨fun s x d target hx => exec_loopk hx d target, fun s x a target hx => ⟨exec_jmpk_legal hx _ _ ?_ ?_,
      exec_jmpk_legal hx _ _ ?_ ?_, exec_jmpk_legal hx _ _ ?_ ?_⟩, fun s x hx => exec_snop hx,
    fun s x hx ha => ⟨_, exec_seqend hx, rfl, ctxAt_seqend hx ha, fun hheld => ?ends⟩,
    fun s rest n x ha hx hout => ⟨step_seq_outside ha hx hout, ?pc⟩⟩
  case ends =>
    simp [ctxOver, ctxAt_seqend hx ha, hheld]
  case pc =>
    have hr := runsNow_of_sctx hx
    rw [ctxAt_seqFault ⟨ctx_running hx, by rw [← hr.ctx, hr.state]; decide⟩, ← hr.ctx]
    rfl
  all_goals simp [jmpkIllegal, jmpkTaken]

end Sys2Proof.Proofs
end

section
/-! Messages to the contexts of link sequencers, their completions and timeouts, and collectives (R302, R306, R307, R310, R313,
R315, R317, R320, R330 to R333). -/

namespace Sys2Proof.Proofs

open Sys2Proof.Machine

theorem happens_whenOk {s : State} {c : Bool} (hc : c = true) (t : Unit → State) : happens s (whenOk c t) = .next (t ()) := by
  rw [hc, whenOk_true, happens_some]

/-! ### Messages -/

section
variable {s t : State} {m : ReadyMsg} (hhere : isHere s m.dst = true) (ht : arrive s m.src.pkg (.ready m) = some t)
include hhere ht

theorem execReadyMessage_differs (hpid : pidDiffers t m.dst.sq.toNat m.dst.ctx.toNat m.pid = true) :
    execReadyMessage m s = .next (pidFault t m.dst.sq.toNat m.dst.ctx.toNat m.src m.tag) := by
  simp [execReadyMessage, hhere, ht, hpid]

theorem execReadyMessage_held (hpid : pidDiffers t m.dst.sq.toNat m.dst.ctx.toNat m.pid = false)
    (hroom : (ctxAt t m.dst.sq.toNat m.dst.ctx.toNat).readys.length < 64) :
    execReadyMessage m s = .next (advanceCtx (modCtx t m.dst.sq.toNat m.dst.ctx.toNat fun c => { c with readys := c.readys ++ [m] })
      m.dst.sq.toNat m.dst.ctx.toNat) := by
  simp [execReadyMessage, hhere, ht, hpid, Nat.not_le_of_lt hroom]

end

theorem execReadyRetry_refused {q : BitVec 5} {k : BitVec 2} {s : State} {op : RxOp} {t : DWord} {f : Bool}
    (hw : (ctxAt s q.toNat k.toNat).wait = .rx op (some t) true f) (hs : (ctxAt s q.toNat k.toNat).state = .waiting)
    (hlong : 1024 ≤ (s.dtime - t).toNat) : execReadyRetry q k s = .next (sendReady s q.toNat k.toNat op) := by
  simp only [execReadyRetry, hw]
  exact happens_whenOk (by rw [hs, decide_eq_true hlong]; rfl) _

theorem execChunkMessage_received {s q : State} {m : ChunkMsg} {op : RxOp} {a : DWord} {r f : Bool}
    (hhere : isHere s m.dst = true) (hq : arrive s m.src.pkg (.chunk m) = some q)
    (hpid : pidDiffers (echoMark q m.src.pkg) m.dst.sq.toNat m.dst.ctx.toNat m.pid = false)
    (hw : (ctxAt (echoMark q m.src.pkg) m.dst.sq.toNat m.dst.ctx.toNat).wait = .rx op (some a) r f)
    (hs : (ctxAt (echoMark q m.src.pkg) m.dst.sq.toNat m.dst.ctx.toNat).state = .waiting) (hsrc : op.src = m.src)
    (htag : op.tag = m.tag) (hlen : op.len = m.data.length) :
    execChunkMessage m s =
      .next (receiveChunk (echoMark q m.src.pkg) m.dst.sq.toNat m.dst.ctx.toNat op m.data) := by
  have hmatches : op.src = m.src ∧ op.tag = m.tag ∧ op.len = m.data.length ∧
      (ctxAt (echoMark q m.src.pkg) m.dst.sq.toNat m.dst.ctx.toNat).state = .waiting := ⟨hsrc, htag, hlen, hs⟩
  simp only [execChunkMessage, hhere, hq, hpid, hw, if_pos hmatches]
  rfl

section
variable {s : State} {m : NackMsg} (hhere : isHere s m.dst = true) (hown : s.outbox.contains (.nack m) = true)
include hhere hown

/-- A NACK that this package has sent itself may arrive. -/
theorem nack_arrives : (isHere s m.dst && (s.outbox.contains (.nack m) || decide (1 < s.pkgs.length))) = true := by
  rw [hhere, hown]
  rfl

theorem execNackMessage_receiver {op : RxOp} {a : Option DWord} {r f : Bool}
    (hw : (ctxAt s m.dst.sq.toNat m.dst.ctx.toNat).wait = .rx op a r f) (htag : op.tag = m.tag) :
    execNackMessage m s = .next (seqFault { s with outbox := s.outbox.erase (.nack m) } m.dst.sq.toNat m.dst.ctx.toNat
      (if m.pidFault then 0x05 else 0x06) 0) := by
  have hw' : (ctxAt { s with outbox := s.outbox.erase (.nack m) } m.dst.sq.toNat m.dst.ctx.toNat).wait = .rx op a r f := hw
  refine (happens_whenOk (nack_arrives hhere hown) _).trans ?_
  simp only [hown, if_true, hw', if_pos htag]
  cases m.pidFault <;> rfl

theorem execNackMessage_sender {src : Seg} {len : Nat} {dst : Route} {lnk : Nat}
    (hw : (ctxAt s m.dst.sq.toNat m.dst.ctx.toNat).wait = .tx src len dst m.tag lnk) (hpid : m.pidFault = true) :
    execNackMessage m s =
      .next (seqFault { s with outbox := s.outbox.erase (.nack m) } m.dst.sq.toNat m.dst.ctx.toNat 0x05 0) := by
  have hw' : (ctxAt { s with outbox := s.outbox.erase (.nack m) } m.dst.sq.toNat m.dst.ctx.toNat).wait =
    .tx src len dst m.tag lnk := hw
  refine (happens_whenOk (nack_arrives hhere hown) _).trans ?_
  simp only [hown, if_true, hw', hpid]

end

/-! ### Completions and timeouts -/

/-- What is waited for is a part of a rendezvous, with a context or with the switch (R306, R310). -/
def atRendezvous (w : SeqWait) : Bool :=
  match w with
  | .tx .. | .flow .. | .sent .. | .rx .. | .offer .. | .sred .. => true
  | _ => false

section
variable {q : BitVec 5} {k : BitVec 2} {s : State} (hs : (ctxAt s q.toNat k.toNat).state = .waiting)
include hs

/-- A context that waits is not passed over by the completion of its chunk. -/
theorem completes : ¬ (ctxAt s q.toNat k.toNat).state ≠ .waiting := not_not.mpr hs

theorem execChunkComplete_done {due : Option StoreDue} (hw : (ctxAt s q.toNat k.toNat).wait = .done due) :
    execChunkComplete q k s = .next (seqComplete (finishDue s q.toNat k.toNat due) q.toNat k.toNat) := by
  simp only [execChunkComplete, if_neg (completes hs), hw, happens_some]

theorem execChunkComplete_converted {dst : Seg} {out : List Byte} {clamp : Bool}
    (hw : (ctxAt s q.toNat k.toNat).wait = .cvt dst out clamp) : execChunkComplete q k s = .next (seqComplete
      (modCtx (writeSeg s dst out) q.toNat k.toNat fun c => { c with clamp := c.clamp || clamp }) q.toNat k.toNat) := by
  simp only [execChunkComplete, if_neg (completes hs), hw, happens_some]

theorem execChunkComplete_sent {dst : Route} {tag : BitVec 16} {due : Option StoreDue}
    (hw : (ctxAt s q.toNat k.toNat).wait = .sent dst tag due) (haway : dst.pkg ≠ s.pkg) :
    execChunkComplete q k s = .next (seqComplete (finishDue s q.toNat k.toNat due) q.toNat k.toNat) := by
  simp only [execChunkComplete, if_neg (completes hs), hw]
  exact happens_whenOk (bne_iff_ne.mpr haway) _

theorem execChunkComplete_combines {op : RxOp} {data : List Byte} {cmb : BitVec 3} {n : Word} {co : Collective}
    (hw : (ctxAt s q.toNat k.toNat).wait = .replay op data) (hcmb : op.cmb = some cmb) (hseq : op.seq = some n)
    (hco : collOf s (ctxAt s q.toNat k.toNat) = some co) (hturn : co.combines = n) :
    execChunkComplete q k s = .next (startCombine s q.toNat k.toNat op cmb data) := by
  simp only [execChunkComplete, if_neg (completes hs), hw, hcmb, hseq, hco]
  exact happens_whenOk (decide_eq_true hturn) _

theorem execSredResult_comes {dst : Seg} {own : List Byte} {n : Nat} {pid : BitVec 12} {data : List Byte}
    (hw : (ctxAt s q.toNat k.toNat).wait = .sred dst own n) (hlen : data.length = own.length) (hsum : n ≠ 1 ∨ data = own) :
    execSredResult q k ⟨pid, data⟩ s = .next (if pidDiffers s q.toNat k.toNat pid
      then seqFault (modCtx s q.toNat k.toNat fun c => { c with wait := .none }) q.toNat k.toNat 0x05 0
      else seqComplete (writeSeg s dst data) q.toNat k.toNat) := by
  simp only [execSredResult, hw]
  exact happens_whenOk (by simpa [hs, hlen] using hsum) _

theorem execWflgRecheck_reads {pa : Nat} {v : DWord} {l : Nat} (hw : (ctxAt s q.toNat k.toNat).wait = .flag pa v l)
    (hclean : poisonAt s pa 8 = none) : execWflgRecheck q k s =
      .next (if v.toNat ≤ readN s.mem pa 8 then seqComplete s q.toNat k.toNat else s) := by
  simp only [execWflgRecheck, hw]
  refine (happens_whenOk (decide_eq_true hs) _).trans ?_
  simp only [hclean, Option.isSome_none, Bool.false_eq_true, if_false]

theorem execSeqPageResolved_by_host {va : Nat} {co : Collective} (hw : (ctxAt s q.toNat k.toNat).wait = .page va true)
    (hco : collOf s (ctxAt s q.toNat k.toNat) = some co) (mapped : Bool) : execSeqPageResolved q k mapped s = .next (if mapped
      then schedule (modCtx s q.toNat k.toNat (atSwitch fun c => { c with wait := .none }.retried)) q.toNat
      else seqFault s q.toNat k.toNat 0x03 va) := by
  simp only [execSeqPageResolved, hw, hco]
  exact happens_whenOk (decide_eq_true hs) _

/-- A context has waited for its limit, where its collective does not debug. -/
theorem waitedFor_long {co : Collective} (hco : collOf s (ctxAt s q.toNat k.toNat) = some co) (hd : co.debug = false)
    {f : Collective → Nat} (hlong : f co ≤ (s.dtime - (ctxAt s q.toNat k.toNat).since).toNat) :
    waitedFor s (ctxAt s q.toNat k.toNat) f = true := by
  rw [waitedFor, hco, decide_eq_true hs, Option.any_some, hd, decide_eq_true hlong]
  rfl

section
variable {co : Collective} (hco : collOf s (ctxAt s q.toNat k.toNat) = some co) (hd : co.debug = false)
include hco hd

section
variable (hlong : 1024 * co.timeout ≤ (s.dtime - (ctxAt s q.toNat k.toNat).since).toNat)
include hlong

/-- A rendezvous that times out ends at both of its ends (R306). -/
theorem execRendezvousTimeout_ends {w : SeqWait} (hw : (ctxAt s q.toNat k.toNat).wait = w) (hopen : atRendezvous w = true) :
    execRendezvousTimeout q k s =
    .next (faultPartners (seqFault s q.toNat k.toNat 0x07 0) (selfRoute s q.toNat k.toNat) w.partners 0x07) := by
  subst hw
  exact happens_whenOk (by rw [waitedFor_long hs hco hd hlong, Bool.and_true]; exact hopen) _

theorem execCombineReplayTimeout_ends {op : RxOp} {data : List Byte} (hw : (ctxAt s q.toNat k.toNat).wait = .replay op data) :
    execCombineReplayTimeout q k s = .next (seqFault s q.toNat k.toNat 0x08 0) :=
  happens_whenOk (by rw [waitedFor_long hs hco hd hlong, hw]; rfl) _

end

theorem execWflgTimeout_ends {pa : Nat} {v : DWord} {l : Nat} (hw : (ctxAt s q.toNat k.toNat).wait = .flag pa v l) (hl : l ≠ 0)
    (hlong : l ≤ (s.dtime - (ctxAt s q.toNat k.toNat).since).toNat) :
    execWflgTimeout q k s = .next (seqFault s q.toNat k.toNat 0x07 0) := by
  simp only [execWflgTimeout, hw]
  exact happens_whenOk (by rw [waitedFor_long hs hco hd hlong, decide_eq_true hl]; rfl) _

end

end

theorem execContextRunLimit_leaves {q : BitVec 5} {s : State} {k : Nat} (hrun : (seqAt s q.toNat).run = some k)
    (hlimit : 256 ≤ (seqAt s q.toNat).streak) : execContextRunLimit q s =
      .next (leaveSeq s q.toNat k (atSwitch fun c => { c with state := .ready })) := by
  simp only [execContextRunLimit, hrun]
  exact happens_whenOk (decide_eq_true hlimit) _

/-! ### Collectives -/

theorem execCollectiveLaunchMessage_answers {m : LaunchMsg} {s t : State} {sp : Space} {st : Nat} {p : Packet}
    {l : List (BitVec 12)} (haway : originOf m.cid ≠ s.pkg) (hpresent : present s (originOf m.cid) = true)
    (hnew : kget s.colls m.cid.toNat = none) (hsp : kget s.spaces m.space = some sp) (hpid : sp.pid = m.pid)
    (hload : loadPackage m.space m.packet m.cid none (fun _ _ => []) s = .done st p l t) :
    execCollectiveLaunchMessage m s = .next (emit t (.coll "answer" (originOf m.cid) m.cid st)) := by
  refine (happens_whenOk (by simp [haway, hpresent, hnew, hsp, hpid]) _).trans ?_
  simp only [hload]

theorem execAbortMessage_own {cid : BitVec 28} {cause : BitVec 8} {s : State} {co : Collective}
    (hco : kget s.colls cid.toNat = some co) (hown : s.outbox.contains (.coll "abort" s.pkg cid cause.toNat) = true) :
    execAbortMessage ⟨cid, cause⟩ s =
      .next (abortAll { s with outbox := s.outbox.erase (.coll "abort" s.pkg cid cause.toNat) } cid co) := by
  simp only [execAbortMessage, hco, hown, if_true, happens_some]

/-- What an abort from another package makes of its collective: its cause is the first where none is known (R333). -/
def abortedColl (co : Collective) (cause : Nat) : Collective :=
  if co.cause = 0 then { co with cause := cause, recorded := true } else co

theorem execAbortMessage_other {cid : BitVec 28} {cause : BitVec 8} {s : State} {co : Collective}
    (hco : kget s.colls cid.toNat = some co) (hown : s.outbox.contains (.coll "abort" s.pkg cid cause.toNat) = false)
    (haway : ∃ p ∈ co.pkgs, p ≠ s.pkg) (hlo : 1 ≤ cause.toNat) (hhi : cause.toNat ≤ 10) (horigin : originOf cid ≠ s.pkg) :
    execAbortMessage ⟨cid, cause⟩ s =
      .next (abortAll { s with colls := kset s.colls cid.toNat (abortedColl co cause.toNat) } cid
        (abortedColl co cause.toNat)) := by
  simp only [execAbortMessage, hco, hown, Bool.false_eq_true, if_false]
  refine (happens_whenOk (by simpa [hlo, hhi] using haway) _).trans ?_
  simp only [if_neg horigin]
  rfl

theorem execCollectiveEnd_ends {cid : BitVec 28} {s : State} {co : Collective} (hco : kget s.colls cid.toNat = some co)
    (hstarted : co.started = true) (hover : ∀ p ∈ co.ctxs, ctxOver s cid p = true) :
    let w := if originOf cid = s.pkg then writeDone s co else (s, false)
    let t := co.ctxs.foldl (freeCtx cid) { w.1 with colls := kdel w.1.colls cid.toNat }
    execCollectiveEnd cid s = .next (match co.source with
      | some (r, i) => finishEntry t r i (if co.cause = 0 then 2 else 3) co.cause w.2
      | none => t) := by
  intro w t
  simp only [execCollectiveEnd, hco]
  refine (happens_whenOk ?_ _).trans rfl
  rw [hstarted, Bool.true_and]
  exact List.all_eq_true.mpr hover

/-- Settles O60: each clause is its event's law where its conditions hold. -/
theorem collectiveEventsComplete : Obligations.collective_events_complete := by
  refine ⟨fun m s t hhere ht => ⟨execReadyMessage_differs hhere ht, execReadyMessage_held hhere ht⟩,
    fun q c s op t f hw hs hlong => execReadyRetry_refused hw hs hlong,
    fun m s q op a r f hhere hq hpid hw hs hsrc htag hlen => execChunkMessage_received hhere hq hpid hw hs hsrc htag hlen,
    fun m s hhere hown => ⟨fun op a r f hw htag => execNackMessage_receiver hhere hown hw htag,
      fun src len dst lnk hw hpid => execNackMessage_sender hhere hown hw hpid⟩,
    fun q k s hs => ⟨fun due => execChunkComplete_done hs, fun dst out clamp => execChunkComplete_converted hs,
      fun dst tag due => execChunkComplete_sent hs, fun op data cmb n co => execChunkComplete_combines hs,
      fun dst own n pid data => execSredResult_comes hs, fun pa v l => execWflgRecheck_reads hs,
      fun va co hw hco => ⟨execSeqPageResolved_by_host hs hw hco true, execSeqPageResolved_by_host hs hw hco false⟩,
      fun co hco hd hlong => ⟨fun d o n hw => execRendezvousTimeout_ends hs hco hd hlong hw rfl,
        fun dst tag due hw => execRendezvousTimeout_ends hs hco hd hlong hw rfl,
        fun op a r f hw => execRendezvousTimeout_ends hs hco hd hlong hw rfl,
        fun op data hw => execCombineReplayTimeout_ends hs hco hd hlong hw⟩,
      fun co pa v l hco hd hw hl hlong => execWflgTimeout_ends hs hco hd hw hl hlong⟩,
    fun q s k hrun hlimit => execContextRunLimit_leaves hrun hlimit,
    fun m s sp st p l t haway hpresent hnew hsp hpid hload =>
      execCollectiveLaunchMessage_answers haway hpresent hnew hsp hpid hload,
    fun cid s h => ⟨happens_whenOk h _, happens_whenOk h _⟩,
    fun cid cause s co hco => ⟨execAbortMessage_own hco, execAbortMessage_other hco⟩,
    fun cid s co hco hstarted hover => execCollectiveEnd_ends hco hstarted hover⟩

end Sys2Proof.Proofs
end

section
/-! What the instructions of link sequencers leave alone (R301, R302): groups, teams, grids and cores, and, where they only translate,
every context. -/

namespace Sys2Proof.Proofs

open Sys2Proof.Machine Sys2Proof.Safety

/-! ### Translations (R303) -/

/-- t is s but for messages, free choices and the translation buffers of sequencers. -/
inductive Looked (s : State) : State → Prop
  | mk (outbox : List OutMsg) (issued : List Issued) (freeCtr : Nat) (seqs : List Sequencer)
      (h : ∀ n k, (seqs.getD n Sequencer.init).ctxs.getD k SeqCtx.init = ctxAt s n k) :
    Looked s { s with outbox := outbox, issued := issued, freeCtr := freeCtr, seqs := seqs }

theorem Looked.refl (s : State) : Looked s s := .mk _ _ _ _ fun _ _ => rfl

theorem Looked.ctxAt {s t : State} (h : Looked s t) (n k : Nat) : ctxAt t n k = ctxAt s n k := by
  cases h
  case mk h => exact h n k

theorem Looked.trans {s t u : State} (h : Looked s t) (k : Looked t u) : Looked s u := by
  have hc := h.ctxAt
  cases h
  cases k
  case mk hk => exact .mk _ _ _ _ fun n k => (hk n k).trans (hc n k)

theorem Looked.pkg {s t : State} (h : Looked s t) : t.pkg = s.pkg := by cases h; rfl
theorem Looked.colls {s t : State} (h : Looked s t) : t.colls = s.colls := by cases h; rfl

theorem Looked.linkReaches {s t : State} (h : Looked s t) (lnk : Nat) (p : BitVec 12) :
    linkReaches t lnk p = linkReaches s lnk p := by
  cases h
  rfl

theorem looked_tellAccess (s : State) (write : Bool) (pa n : Nat) (l : List Byte) : Looked s (tellAccess s write pa n l) := by
  unfold tellAccess
  split
  · exact List.foldlRecOn _ _ (.refl s) fun t ht i _ => ht.trans (.mk _ _ _ _ fun _ _ => rfl)
  · exact .refl s

theorem looked_tlbLookup (cap : Nat) (old tlb : List TlbEntry) (space va : Nat) (w : Walk) (s : State) :
    Looked s (tlbLookup cap old tlb space va w s).2.2.2 := by
  rw [tlbLookup_eq]
  exact .mk _ _ _ _ fun _ _ => rfl

/-- The translation buffer of a sequencer is filled. -/
theorem looked_tlb (s : State) (n : Nat) (tlb : List TlbEntry) : Looked s (modSeq s n fun q => { q with tlb := tlb }) := by
  refine .mk _ _ _ _ fun m k => ?_
  have hm := seqAt_modSeq s n m fun q => { q with tlb := tlb }
  rw [seqAt] at hm
  rw [show (lmod s.seqs n _).getD m Sequencer.init = _ from hm]
  split <;> rfl

/-- The state that a translation leaves. -/
def SeqTrans.state : SeqTrans → State
  | .ok _ s | .page _ s | .fault _ s | .await s => s

theorem looked_transParts (n space : Nat) (need : Need) (l : List (Nat × Nat)) (g : Seg) (s : State) :
    Looked s (SeqTrans.state (transParts n space need l g s)) := by
  induction l generalizing g s with
  | nil => exact .refl s
  | cons p l ih =>
    obtain ⟨va, len⟩ := p
    rw [transParts]
    split
    · exact .refl s
    have hlook := looked_tlbLookup 64 (seqAt s n).tlb (seqAt s n).tlb space va (walkSpace s space va) s
    split
    next w hit tlb t ht =>
      rw [ht] at hlook
      have ht := hlook.trans (looked_tlb t n tlb)
      extract_lets u
      split
      · exact ht
      · exact ht
      split
      · exact ht
      split
      · exact ht
      refine ht.trans (.trans ?_ (ih ..))
      split
      · exact looked_tellAccess ..
      · exact .refl _

theorem looked_transChunk (n space : Nat) (need : Need) (va len : Nat) (s : State) :
    Looked s (SeqTrans.state (transChunk n space need va len s)) := by
  unfold transChunk
  split
  · exact .refl s
  · exact looked_transParts ..

/-! ### What happens in the sequencers -/

/-- t is s but for the sequencers and what the lock die writes and tells. -/
inductive InSeqs (s : State) : State → Prop
  | mk (seqs : List Sequencer) (mem : Memory) (behind : KMap (List Unseen)) (colls : KMap Collective) (outbox : List OutMsg)
      (issued : List Issued) (freeCtr : Nat) (peers : KMap Peer) (coh : Coherence) :
    InSeqs s { s with seqs := seqs, mem := mem, behind := behind, colls := colls, outbox := outbox, issued := issued,
                      freeCtr := freeCtr, peers := peers, coh := coh }

theorem InSeqs.refl (s : State) : InSeqs s s := .mk ..

theorem InSeqs.trans {s t u : State} (h : InSeqs s t) (k : InSeqs t u) : InSeqs s u := by
  cases h
  cases k
  exact .mk ..

theorem Wrote.inSeqs {s t : State} (h : Wrote s t) : InSeqs s t := by
  cases h
  exact .mk ..

theorem Told.inSeqs {s t : State} (h : Told s t) : InSeqs s t := h.wrote.inSeqs

theorem Looked.inSeqs {s t : State} (h : Looked s t) : InSeqs s t := by
  cases h
  exact .mk ..

theorem inSeqs_modSeq (s : State) (n : Nat) (f : Sequencer → Sequencer) : InSeqs s (modSeq s n f) := .mk ..
theorem inSeqs_modCtx (s : State) (n k : Nat) (f : SeqCtx → SeqCtx) : InSeqs s (modCtx s n k f) := .mk ..
theorem inSeqs_leaveSeq (s : State) (n k : Nat) (f : SeqCtx → SeqCtx) : InSeqs s (leaveSeq s n k f) := .mk ..

theorem inSeqs_seqFault (s : State) (n k cause addr : Nat) : InSeqs s (seqFault s n k cause addr) := by
  by_cases h : (ctxAt s n k).state = .idle ∨ (ctxAt s n k).state = .faulted
  · rw [seqFault, if_pos h]
    exact .refl s
  · obtain ⟨t, ht, hmove⟩ := seqFault_moves (not_or.mp h) cause addr
    rw [hmove, moveCtx]
    split
    · exact ht.inSeqs.trans (inSeqs_leaveSeq ..)
    · exact ht.inSeqs.trans (inSeqs_modCtx ..)

theorem inSeqs_sendReady (s : State) (n k : Nat) (op : RxOp) : InSeqs s (sendReady s n k op) :=
  .trans (told_emit ..).inSeqs (inSeqs_modCtx ..)

theorem inSeqs_sendChunk (s : State) (n k : Nat) (dst : Route) (tag : BitVec 16) (l : List Byte) (left lnk : Nat)
    (due : Option StoreDue) : InSeqs s (sendChunk s n k dst tag l left lnk due) := by
  unfold sendChunk
  extract_lets c waitFor
  split
  · split
    · exact inSeqs_modCtx ..
    · exact inSeqs_seqFault ..
  have ht := (told_takeCredits s (.pkg dst.pkg) left).inSeqs
  split
  next t h =>
    rw [h] at ht
    exact ht.trans (.trans (told_emitOn ..).inSeqs (inSeqs_modCtx ..))
  next left' t _ h =>
    rw [h] at ht
    exact ht.trans (inSeqs_modCtx ..)

theorem inSeqs_offerSum (s : State) (n k : Nat) (dst : Seg) (own : List Byte) (count left link : Nat) (desc : DWord) :
    InSeqs s (offerSum s n k dst own count left link desc) := by
  unfold offerSum
  extract_lets c waitFor
  split
  · split
    · exact inSeqs_modCtx ..
    · exact inSeqs_seqFault ..
  have ht := (told_takeCredits s (.switch (BitVec.ofNat 5 link)) left).inSeqs
  split
  next t h =>
    rw [h] at ht
    exact ht.trans (.trans (told_emit ..).inSeqs (inSeqs_modCtx ..))
  next left' t _ h =>
    rw [h] at ht
    exact ht.trans (inSeqs_modCtx ..)

theorem inSeqs_mismatch (s : State) (n k : Nat) (dst : Route) (tag : BitVec 16) : InSeqs s (mismatch s n k dst tag) :=
  .trans (told_emit ..).inSeqs (inSeqs_seqFault ..)

theorem inSeqs_advanceCtx (s : State) (n k : Nat) : InSeqs s (advanceCtx s n k) := by
  unfold advanceCtx
  extract_lets c from_ drop
  have hdrop (t : State) (m : ReadyMsg) : InSeqs t (drop t m) := inSeqs_modCtx ..
  split
  · exact .refl s
  split
  · split
    · exact .refl s
    split
    · exact (hdrop ..).trans (inSeqs_mismatch ..)
    split
    · exact (hdrop ..).trans ((wrote_receivePart ..).inSeqs.trans (inSeqs_seqFault ..))
    · exact (hdrop ..).trans (inSeqs_sendChunk ..)
  · exact inSeqs_sendChunk ..
  · exact inSeqs_offerSum ..
  · split
    · exact inSeqs_sendReady ..
    split
    · exact .refl s
    split
    · exact (hdrop ..).trans (inSeqs_mismatch ..)
    · exact (hdrop ..).trans (.trans (inSeqs_modCtx ..) (inSeqs_sendReady ..))
  · exact .refl s

theorem inSeqs_seqStepDone (s : State) (x : SCtx) (c : SeqCtx) : InSeqs s (seqStepDone s x c) := by
  unfold seqStepDone
  split
  · exact inSeqs_leaveSeq ..
  · exact inSeqs_modSeq ..

/-! ### The meanings -/

/-- The state that a meaning leaves, before its outcome is taken. -/
def SeqRes.state : SeqRes → State
  | .go _ s | .wait _ s | .page _ s | .fault _ _ s | .stop s => s

/-- An issue stays in the sequencers where its meaning does. -/
theorem inSeqs_issueSeq {body : SCtx → State → SeqRes} (hbody : ∀ x s, InSeqs s (SeqRes.state (body x s))) {s t : State}
    (h : issueSeq body s = .next t) : InSeqs s t := by
  unfold issueSeq at h
  split at h
  · cases h
    exact .refl s
  next x hx =>
    have hb := hbody x s
    extract_lets halt at h
    have hhalt (u : State) (w : SeqWait) : InSeqs u (halt u w) := inSeqs_leaveSeq ..
    split at h
    next c u hr =>
      rw [hr] at hb
      cases h
      exact hb.trans (inSeqs_seqStepDone ..)
    next w u hr =>
      rw [hr] at hb
      cases h
      exact hb.trans ((hhalt ..).trans (inSeqs_advanceCtx ..))
    next va u hr =>
      rw [hr] at hb
      cases h
      refine hb.trans ((hhalt u (.page va (hostMode u 0))).trans ?_)
      split
      · exact .mk ..
      · exact .refl _
    next cause addr u hr =>
      rw [hr] at hb
      cases h
      exact hb.trans (inSeqs_seqFault ..)
    next u hr =>
      rw [hr] at hb
      cases h
      exact hb.trans (inSeqs_leaveSeq ..)

/-- What follows a translation stays in the sequencers where that does. -/
theorem inSeqs_andThen {s : State} {t : SeqTrans} {f : Seg → State → SeqRes} (ht : Looked s (SeqTrans.state t))
    (hf : ∀ g u, InSeqs u (SeqRes.state (f g u))) : InSeqs s (SeqRes.state (t.andThen f)) := by
  cases t with
  | ok g u => exact ht.inSeqs.trans (hf g u)
  | page va u => exact ht.inSeqs
  | fault a u => exact ht.inSeqs
  | await u => exact ht.inSeqs

theorem inSeqs_chunk {x : SCtx} {need : Need} {va : DWord} {len : Nat} {s : State} {f : Seg → State → SeqRes}
    (hf : ∀ g u, InSeqs u (SeqRes.state (f g u))) : InSeqs s (SeqRes.state (x.chunk need va len s f)) :=
  inSeqs_andThen (looked_transChunk ..) hf

theorem inSeqs_word {x : SCtx} {need : Need} {va : DWord} {n : Nat} {s : State} {f : Nat → State → SeqRes}
    (hf : ∀ pa u, InSeqs u (SeqRes.state (f pa u))) : InSeqs s (SeqRes.state (x.word need va n s f)) := by
  unfold SCtx.word
  split
  · exact .refl s
  · exact inSeqs_andThen (looked_transParts ..) fun g u => hf ..

theorem inSeqs_recordAt {x : SCtx} {s : State} {f : Seg → State → SeqRes} (hf : ∀ g u, InSeqs u (SeqRes.state (f g u))) :
    InSeqs s (SeqRes.state (x.recordAt s f)) := by
  unfold SCtx.recordAt
  split
  · exact hf ..
  · exact inSeqs_andThen (looked_transParts ..) hf

theorem inSeqs_replayEntry {x : SCtx} {src : Route} {s : State} {f : Option Word → State → SeqRes}
    (hf : ∀ q u, InSeqs u (SeqRes.state (f q u))) : InSeqs s (SeqRes.state (x.replayEntry src s f)) := by
  unfold SCtx.replayEntry
  split
  · exact hf ..
  refine inSeqs_andThen (looked_transParts ..) fun g u => ?_
  split
  · exact .refl u
  extract_lets v me
  split
  · exact .refl u
  · exact (inSeqs_modCtx ..).trans (hf ..)

/-- The bytes that CVTB reads, and those that it writes (R309). -/
def cvtbReads (len : BitVec 12) (dir : Bool) : Nat := if dir then 2 * chunkLen len else chunkLen len
def cvtbWrites (len : BitVec 12) (dir : Bool) : Nat := if dir then chunkLen len else 2 * chunkLen len

/-- The conversion of CVTB, once its ranges are translated (R309). -/
def cvtbConverts (a b : BitVec 4) (dir : Bool) (x : SCtx) (gs gd : Seg) (s : State) : SeqRes :=
  let e := max (-1100) (min 1100 (x.k b).toInt)
  let l := readSeg s gs
  let r := (elemsOf 4 l.length l).map fun v => toBlockFixed (BitVec.ofNat 32 v) e
  let out := if dir then (elemsOf 8 l.length l).flatMap fun v => toBytes 4 (ofBlockFixed v e) else r.flatMap fun p => toBytes 8 p.1
  if segPoison s gs then .fault 0x0A (x.k a).toNat (someBytes s gd out) else .wait (.cvt gd out (!dir && r.any (·.2))) s

theorem semCvtb_eq (d a b : BitVec 4) (len : BitVec 12) (dir : Bool) (x : SCtx) (s : State) : semCvtb d a b len dir x s =
    if 2047 < len.toNat then .fault 0x01 0 s
    else if (x.k a).toNat < (x.k d).toNat + cvtbWrites len dir ∧ (x.k d).toNat < (x.k a).toNat + cvtbReads len dir then
      .fault 0x04 (x.k d).toNat s
    else x.chunk needR (x.k a) (cvtbReads len dir) s fun gs s =>
      x.chunk needW (x.k d) (cvtbWrites len dir) s (cvtbConverts a b dir x gs) := by
  cases dir <;> rfl

section
variable (d a b : BitVec 4) (len : BitVec 12) (lnk : BitVec 5) (cmb : BitVec 3) (tag : BitVec 16) (x : SCtx) (s : State)

theorem inSeqs_semTxc : InSeqs s (SeqRes.state (semTxc a b len lnk tag x s)) := by
  unfold semTxc
  split
  · exact .refl s
  split
  · exact .refl s
  split
  · exact .refl s
  · exact inSeqs_chunk fun g u => .refl u

theorem inSeqs_semRxs : InSeqs s (SeqRes.state (semRxs d b len tag x s)) := by
  unfold semRxs
  split
  · exact .refl s
  · exact inSeqs_chunk fun g u => .refl u

theorem inSeqs_semRxc : InSeqs s (SeqRes.state (semRxc d a b len cmb tag x s)) := by
  unfold semRxc
  extract_lets n
  split
  · exact .refl s
  split
  · exact .refl s
  split
  · exact .refl s
  · exact inSeqs_chunk fun _ _ => inSeqs_chunk fun _ _ => inSeqs_recordAt fun _ _ => inSeqs_replayEntry fun _ u => .refl u

theorem inSeqs_semRxcf (sto : Bool) : InSeqs s (SeqRes.state (semRxcf d a b len lnk cmb sto tag x s)) := by
  unfold semRxcf
  extract_lets n
  split
  · split
    · exact .refl s
    split
    · exact .refl s
    · exact inSeqs_chunk fun _ _ => inSeqs_recordAt fun _ _ => inSeqs_replayEntry fun _ u => .refl u
  · exact .refl s

theorem inSeqs_semWflg (timeout : Word) : InSeqs s (SeqRes.state (semWflg a b timeout x s)) :=
  inSeqs_word fun pa u => by
    split
    · exact .refl u
    split
    · exact .refl u
    · exact .refl u

theorem inSeqs_semSflg (mode : BitVec 2) (im : Word) : InSeqs s (SeqRes.state (semSflg a b mode im x s)) := by
  unfold semSflg
  extract_lets v need
  split
  · exact .refl s
  refine inSeqs_word fun pa u => ?_
  split
  · exact (wrote_lockWrite ..).inSeqs
  split
  · exact .refl u
  split
  next w hw => exact (wrote_lockAtomic hw).inSeqs
  · exact .refl u

theorem inSeqs_semJmpk (target : BitVec 11) (cond : BitVec 2) : InSeqs s (SeqRes.state (semJmpk a target cond x s)) := by
  unfold semJmpk
  split
  · exact .refl s
  · exact .refl s

theorem inSeqs_semSetk (mode : BitVec 2) (im : Word) : InSeqs s (SeqRes.state (semSetk d a mode im x s)) := by
  unfold semSetk
  split
  · exact .refl s
  · exact .refl s

theorem inSeqs_semAddk (mode : BitVec 2) (im : Word) : InSeqs s (SeqRes.state (semAddk d a b mode im x s)) := by
  unfold semAddk
  extract_lets p q
  split
  · exact .refl s
  · exact .refl s

theorem inSeqs_semCvtb (dir : Bool) : InSeqs s (SeqRes.state (semCvtb d a b len dir x s)) := by
  rw [semCvtb_eq]
  split
  · exact .refl s
  split
  · exact .refl s
  refine inSeqs_chunk fun gs _ => inSeqs_chunk fun gd u => ?_
  unfold cvtbConverts
  extract_lets e l r out
  split
  · exact (wrote_someBytes ..).inSeqs
  · exact .refl u

theorem inSeqs_semSred : InSeqs s (SeqRes.state (semSred d a b len lnk x s)) := by
  unfold semSred
  extract_lets desc n
  split
  · exact .refl s
  split
  · exact .refl s
  refine inSeqs_chunk fun gs _ => inSeqs_chunk fun gd u => ?_
  extract_lets own
  split
  · have ht := told_sumBytes n own u
    split
    next l v h =>
      rw [h] at ht
      exact ht.inSeqs.trans (wrote_someBytes ..).inSeqs
  · exact .refl u

theorem inSeqs_semPutk : InSeqs s (SeqRes.state (semPutk d a b x s)) := by
  unfold semPutk
  extract_lets r p
  split
  · exact .refl s
  split
  · exact .refl s
  next u hu => exact (told_takeBulk hu).inSeqs.trans (told_emit ..).inSeqs

theorem inSeqs_semLoga (mode : BitVec 2) : InSeqs s (SeqRes.state (semLoga a b mode x s)) := by
  unfold semLoga
  extract_lets buf size
  split
  · exact .refl s
  · exact .refl s

end

/-- Every sequencer instruction stays in the sequencers, but for what the lock die writes and tells. -/
theorem inSeqs_exec {i : Instr} {w : DWord} (hi : i.parts = .seq w) {s t : State} (h : exec i s = .next t) : InSeqs s t := by
  cases i
  case snop => exact inSeqs_issueSeq (body := fun x s => x.next x.c s) (fun _ s => .refl s) h
  case txc a b len lnk tag => exact inSeqs_issueSeq (inSeqs_semTxc a b len lnk tag) h
  case rxs d b len tag => exact inSeqs_issueSeq (inSeqs_semRxs d b len tag) h
  case rxc d a b len cmb tag => exact inSeqs_issueSeq (inSeqs_semRxc d a b len cmb tag) h
  case rxcf d a b len lnk cmb sto tag => exact inSeqs_issueSeq (fun x s => inSeqs_semRxcf d a b len lnk cmb tag x s sto) h
  case wflg a b timeout => exact inSeqs_issueSeq (fun x s => inSeqs_semWflg a b x s timeout) h
  case sflg a b mode im => exact inSeqs_issueSeq (fun x s => inSeqs_semSflg a b x s mode im) h
  case loopk d target => exact inSeqs_issueSeq (body := semLoopk d target) (fun _ s => .refl s) h
  case jmpk a target cond => exact inSeqs_issueSeq (fun x s => inSeqs_semJmpk a x s target cond) h
  case setk d a mode im => exact inSeqs_issueSeq (fun x s => inSeqs_semSetk d a x s mode im) h
  case addk d a b mode im => exact inSeqs_issueSeq (fun x s => inSeqs_semAddk d a b x s mode im) h
  case cvtb d a b len dir => exact inSeqs_issueSeq (fun x s => inSeqs_semCvtb d a b len x s dir) h
  case sred d a b len lnk => exact inSeqs_issueSeq (inSeqs_semSred d a b len lnk) h
  case putk d a b => exact inSeqs_issueSeq (inSeqs_semPutk d a b) h
  case loga a b mode => exact inSeqs_issueSeq (fun x s => inSeqs_semLoga a b x s mode) h
  case seqend => exact inSeqs_issueSeq (body := fun _ s => .stop s) (fun _ s => .refl s) h
  all_goals cases hi

end Sys2Proof.Proofs
end

section
/-! Memory after the writes of link sequencers (R242, R313), the ranges of chunks and flags (R303), and TXC (R306, R307). -/

namespace Sys2Proof.Proofs

open Sys2Proof.Machine Sys2Proof.Safety Sys2Proof.Laws

/-! ### Memory after the lock die's writes -/

theorem lockWrite_mem (s : State) (pa : Nat) (l : List Byte) : (lockWrite s pa l).mem = writeList s.mem pa l :=
  ((told_askHomes ..).trans (told_tellAccess ..)).mem

theorem lockAtomic_mem {s w : State} {pa n v : Nat} {pay : Payload} (h : lockAtomic s pa n v pay = some w) :
    w.mem = writeN s.mem pa n v := by
  unfold lockAtomic at h
  extract_lets line done at h
  have hdone {u : State} (hu : u.mem = s.mem) : (done u).mem = writeN s.mem pa n v := hu ▸ rfl
  split at h
  · split at h
    · cases h
      refine hdone ?_
      split
      · exact (told_askHome ..).mem
      · rfl
    · obtain ⟨u, hu, rfl⟩ := Option.map_eq_some_iff.mp h
      exact hdone (told_takeRequest hu).mem
  · cases h
    rfl

/-- An atomic at home, or on host memory, waits for no credit (R313). -/
theorem lockAtomic_at_home {s : State} {pa : Nat} (n v : Nat) (pay : Payload)
    (h : homeNode (pa / 128) = .pkg s.pkg ∨ homeNode (pa / 128) = .host) : (lockAtomic s pa n v pay).isSome = true := by
  rcases h with h | h
  · simp [lockAtomic, h]
  · simp [lockAtomic, h]

/-- A byte outside a range is as before a write of it. -/
theorem fget_writeSeg_outside {s : State} {g : Seg} {l : List Byte} {b : Nat} (h : fwf s.mem = true)
    (hb : ∀ p ∈ g, b < p.1 ∨ p.1 + p.2 ≤ b) : fget (writeSeg s g l).mem b = fget s.mem b := by
  induction g generalizing s l with
  | nil => rfl
  | cons p g ih =>
    obtain ⟨pa, n⟩ := p
    have hmem := lockWrite_mem s pa (l.take n)
    have hwf : fwf (lockWrite s pa (l.take n)).mem = true := hmem ▸ writeList_wf h pa _
    have hout : b < pa ∨ pa + (l.take n).length ≤ b := by
      have hp := hb (pa, n) List.mem_cons_self
      have hn := List.length_take_le n l
      dsimp only at hp
      omega
    calc fget (writeSeg s ((pa, n) :: g) l).mem b
        = fget (lockWrite s pa (l.take n)).mem b := ih hwf fun p hp => hb p (List.mem_cons_of_mem _ hp)
      _ = fget s.mem b := by rw [hmem, fget_writeList_outside h pa _ hout]

theorem seqStepDone_mem (s : State) (x : SCtx) (c : SeqCtx) : (seqStepDone s x c).mem = s.mem := by
  unfold seqStepDone
  split <;> rfl

/-! ### Ranges -/

section
variable {x : SCtx} {need : Need} {va : DWord} {n : Nat} {s u : State}

theorem chunk_ok {g : Seg} (h : transChunk x.sq x.coll.space need va.toNat n s = .ok g u) (f : Seg → State → SeqRes) :
    x.chunk need va n s f = f g u := by
  rw [SCtx.chunk, h, SeqTrans.andThen]

theorem chunk_misaligned (h : va.toNat % 256 ≠ 0) (f : Seg → State → SeqRes) :
    x.chunk need va n s f = .fault 0x04 va.toNat s := by
  rw [SCtx.chunk, transChunk, if_pos h, SeqTrans.andThen]

theorem word_ok {pa : Nat} (hal : va.toNat % n = 0) (h : transParts x.sq x.coll.space need [(va.toNat, n)] [] s = .ok [(pa, n)] u)
    (f : Nat → State → SeqRes) : x.word need va n s f = f pa u := by
  rw [SCtx.word, if_neg (not_not.mpr hal), h, SeqTrans.andThen]
  rfl

theorem word_misaligned (h : va.toNat % n ≠ 0) (f : Nat → State → SeqRes) : x.word need va n s f = .fault 0x04 va.toNat s := by
  rw [SCtx.word, if_pos h]

end

/-! ### TXC -/

/-- A send on a link to a package may start: the link leads there, or a route is waited for (R306, R409). -/
def linkServes (s : State) (lnk : Nat) (p : BitVec 12) : Prop := linkReaches s lnk p = true ∨ routeAwaited s [lnk] p = true

theorem not_cut_off {s : State} {lnk : Nat} {p : BitVec 12} (h : linkServes s lnk p) :
    ¬ (!linkReaches s lnk p && !routeAwaited s [lnk] p) = true := by
  rcases h with h | h <;> simp [h]

section
variable {a b : BitVec 4} {len : BitVec 12} {lnk : BitVec 5} {tag : BitVec 16} {x : SCtx} {s : State}

theorem semTxc_illegal (h : routeOf (x.k b) = none ∨ 23 < lnk.toNat) : semTxc a b len lnk tag x s = .fault 0x01 0 s := by
  unfold semTxc
  split
  · rfl
  next r hr => rw [if_pos (h.resolve_left (by simp [hr]))]

section
variable {r : Route} (hr : routeOf (x.k b) = some r) (hl : lnk.toNat ≤ 23)
include hr hl

theorem semTxc_cut_off (hn : linkReaches s lnk.toNat r.pkg = false) (hw : routeAwaited s [lnk.toNat] r.pkg = false) :
    semTxc a b len lnk tag x s = .fault 0x09 0 s := by
  simp only [semTxc, hr, if_neg (Nat.not_lt.mpr hl), hn, hw]
  rfl

theorem semTxc_starts (h : linkServes s lnk.toNat r.pkg) : semTxc a b len lnk tag x s =
    x.chunk needR (x.k a) (chunkLen len) s fun g s => .wait (.tx g (chunkLen len) r tag lnk.toNat) s := by
  simp only [semTxc, hr, if_neg (Nat.not_lt.mpr hl), if_neg (not_cut_off h)]

end

end

/-- A context takes the one READY that it holds where that matches its chunk (R306). -/
theorem advanceCtx_takes_ready {s : State} {n k : Nat} {src : Seg} {len : Nat} {dst : Route} {tag : BitVec 16} {lnk : Nat}
    {m : ReadyMsg} (hs : (ctxAt s n k).state = .waiting) (hw : (ctxAt s n k).wait = .tx src len dst tag lnk) (hr : (ctxAt s n k).readys = [m])
    (hsrc : m.src = dst) (htag : m.tag = tag) (hlen : m.length = len) (hp : segPoison s src = false) :
    advanceCtx s n k = sendChunk (modCtx s n k fun c => { c with readys := c.readys.erase m }) n k dst tag (readSeg s src)
      (len / 256) lnk none := by
  have hfind : [m].find? (fun m => decide (m.tag = tag ∧ m.src = dst)) = some m := by simp [hsrc, htag]
  simp only [advanceCtx, hs, ne_eq, not_true_eq_false, if_false, hw, hr, hfind, hlen, hp, Bool.false_eq_true]

/-- A chunk for a context of this package needs no credit (R328). -/
theorem sendChunk_here {s : State} {n k : Nat} {dst : Route} {tag : BitVec 16} {l : List Byte} {left lnk : Nat}
    {due : Option StoreDue} (hl : linkReaches s lnk dst.pkg = true) (hd : dst.pkg = s.pkg) : sendChunk s n k dst tag l left lnk due =
    modCtx (emitOn s (some lnk) (.chunk { src := selfRoute s n k, dst := dst, pid := ((collOf s (ctxAt s n k)).map (·.pid)).getD 0
                                          tag := tag, data := l })) n k fun c => { c with wait := .sent dst tag due } := by
  have hfree : creditFree s (.pkg dst.pkg) = true := by simp [creditFree, hd]
  simp only [sendChunk, hl, Bool.not_true, Bool.false_eq_true, if_false, takeCredits, hfree, if_true]

/-- A context that waits to send to one of this package, and holds its READY, sends its chunk and waits for the acknowledgement. -/
theorem advanceCtx_sends_here {s : State} {n k : Nat} {src : Seg} {len : Nat} {dst : Route} {tag : BitVec 16} {lnk : Nat}
    {m : ReadyMsg} {co : Collective} (hs : (ctxAt s n k).state = .waiting) (hw : (ctxAt s n k).wait = .tx src len dst tag lnk)
    (hr : (ctxAt s n k).readys = [m]) (hsrc : m.src = dst) (htag : m.tag = tag) (hlen : m.length = len)
    (hp : segPoison s src = false) (hl : linkReaches s lnk dst.pkg = true) (hd : dst.pkg = s.pkg)
    (hco : collOf s (ctxAt s n k) = some co) :
    let t := advanceCtx s n k
    (ctxAt t n k).wait = .sent dst tag none ∧ (ctxAt t n k).readys = [] ∧
      t.outbox = .chunk { src := selfRoute s n k, dst := dst, pid := co.pid, tag := tag, data := readSeg s src } :: s.outbox := by
  intro t
  let y := modCtx s n k fun c => { c with readys := c.readys.erase m }
  have hy : ctxAt y n k = { ctxAt s n k with readys := [] } := by
    rw [ctxAt_modCtx (by simp [hs]), hr, List.erase_cons_head]
  have hco' : collOf y (ctxAt y n k) = some co := by
    rw [hy]
    exact hco
  let msg : ChunkMsg := { src := selfRoute s n k, dst := dst, pid := co.pid, tag := tag, data := readSeg s src }
  have ht : t = modCtx (emitOn y (some lnk) (.chunk msg)) n k fun c => { c with wait := .sent dst tag none } := by
    rw [show t = _ from advanceCtx_takes_ready hs hw hr hsrc htag hlen hp, sendChunk_here (s := y) hl hd, hco']
    rfl
  have hsent : ctxAt t n k = { ctxAt y n k with wait := .sent dst tag none } := by
    rw [ht]
    refine ctxAt_modCtx (s := emitOn y (some lnk) (.chunk msg)) ?_ _
    change (ctxAt y n k).state ≠ .idle
    simp [hy, hs]
  refine ⟨by rw [hsent], by rw [hsent, hy], by rw [ht]; rfl⟩

section
variable {s u : State} {x : SCtx} (hx : sctx? s = some x) (hu : Looked s u) (ha : x.c.abort = false)
include hx hu ha

/-- The running context as it comes to wait (R302). -/
theorem ctxAt_waits (w : SeqWait) :
    ctxAt (leaveSeq u x.sq x.cx (atSwitch fun c => { c with state := .waiting, wait := w, since := u.dtime })) x.sq x.cx =
      { x.c with state := .waiting, wait := w, since := u.dtime } := by
  have hc : ctxAt u x.sq x.cx = x.c := (hu.ctxAt ..).trans (runsNow_of_sctx hx).ctx.symm
  rw [ctxAt_leaveSeq (by rw [hu.ctxAt]; exact ctx_running hx) (by simp [hc, atSwitch, ha]), hc, atSwitch, if_neg (by simp [ha])]

/-- A send that has its READY leaves at once where the receiver is of this package (R306, R307). -/
theorem seqWaits_sends_here {g : Seg} {n : Nat} {r : Route} {tag : BitVec 16} {lnk : Nat} {m : ReadyMsg}
    (hl : linkReaches s lnk r.pkg = true) (hr : r.pkg = s.pkg) (hp : segPoison u g = false)
    (hm : x.c.readys = [m]) (hsrc : m.src = r) (htag : m.tag = tag) (hlen : m.length = n) :
    let t := seqWaits u x (.tx g n r tag lnk)
    (ctxAt t x.sq x.cx).wait = .sent r tag none ∧ (ctxAt t x.sq x.cx).readys = [] ∧
      t.outbox =
        .chunk { src := selfRoute s x.sq x.cx, dst := r, pid := x.coll.pid, tag := tag, data := readSeg u g } :: u.outbox := by
  have hz := ctxAt_waits hx hu ha (.tx g n r tag lnk)
  have hself : selfRoute u x.sq x.cx = selfRoute s x.sq x.cx := by rw [selfRoute, hu.pkg, selfRoute]
  have hcoll : kget u.colls x.c.cid.toNat = some x.coll := hu.colls ▸ (runsNow_of_sctx hx).coll
  rw [← hself]
  exact advanceCtx_sends_here (by rw [hz]) (by rw [hz]) (by rw [hz]; exact hm) hsrc htag hlen hp
    ((hu.linkReaches ..).trans hl) (hr.trans hu.pkg.symm) (by rw [hz]; exact hcoll)

end

end Sys2Proof.Proofs
end

section
/-! Receives, flags, conversions, sums, PUTs and logs of link sequencers (R307 to R310, R313, R314, R325), and all their transfers. -/

namespace Sys2Proof.Proofs

open Sys2Proof.Machine Sys2Proof.Safety

/-! ### Receives -/

section
variable {x : SCtx} {s : State}

/-- Outside the record mode nothing is logged (R314). -/
theorem recordAt_off (h : x.c.logm = 0) (f : Seg → State → SeqRes) : x.recordAt s f = f [] s := by
  rw [SCtx.recordAt, if_pos (by simp [h])]

/-- Outside the replay mode nothing is read of a log (R315). -/
theorem replayEntry_off (h : x.c.logm = 0) (r : Route) (f : Option Word → State → SeqRes) : x.replayEntry r s f = f none s := by
  rw [SCtx.replayEntry, if_pos (by simp [h])]

end

section
variable {d a b : BitVec 4} {len : BitVec 12} {lnk : BitVec 5} {cmb : BitVec 3} {sto : Bool} {tag : BitVec 16} {x : SCtx} {s : State}

theorem semRxs_illegal (h : routeOf (x.k b) = none) : semRxs d b len tag x s = .fault 0x01 0 s := by
  simp only [semRxs, h]

theorem semRxc_illegal (h : routeOf (x.k b) = none ∨ 6 ≤ cmb.toNat) : semRxc d a b len cmb tag x s = .fault 0x01 0 s := by
  unfold semRxc
  extract_lets n
  split
  · rfl
  next r hr => rw [if_pos (h.resolve_left (by simp [hr]))]

theorem semRxcf_illegal (h : routeOf (x.k b) = none ∨ routeOf (x.k d) = none ∨ 6 ≤ cmb.toNat ∨ 23 < lnk.toNat) :
    semRxcf d a b len lnk cmb sto tag x s = .fault 0x01 0 s := by
  unfold semRxcf
  extract_lets n
  split
  next r f hr hf => rw [if_pos ((h.resolve_left (by simp [hr])).resolve_left (by simp [hf]))]
  · rfl

section
variable {r : Route} (hr : routeOf (x.k b) = some r)
include hr

theorem semRxs_starts : semRxs d b len tag x s =
    x.chunk needW (x.k d) (chunkLen len) s fun g s => rxWait (rxOf g [] len tag r none none) s := by
  simp only [semRxs, hr]
  rfl

section
variable (hc : cmb.toNat < 6)
include hc

theorem semRxc_crosses (h : crosses (x.k d).toNat (x.k a).toNat (chunkLen len) = true) :
    semRxc d a b len cmb tag x s = .fault 0x04 (x.k d).toNat s := by
  simp only [semRxc, hr, if_neg (Nat.not_le.mpr hc), if_pos h]

theorem semRxc_starts (h : crosses (x.k d).toNat (x.k a).toNat (chunkLen len) = false) : semRxc d a b len cmb tag x s =
    x.chunk needR (x.k a) (chunkLen len) s fun loc s => x.chunk needW (x.k d) (chunkLen len) s fun dst s =>
      x.recordAt s fun log s => x.replayEntry r s fun q s =>
        rxWait { rxOf dst loc len tag r (some cmb) none with log := log, seq := q } s := by
  simp only [semRxc, hr, if_neg (Nat.not_le.mpr hc), h]
  rfl

section
variable {f : Route} (hf : routeOf (x.k d) = some f) (hl : lnk.toNat ≤ 23)
include hf hl

theorem semRxcf_cut_off (hn : linkReaches s lnk.toNat f.pkg = false) (hw : routeAwaited s [lnk.toNat] f.pkg = false) :
    semRxcf d a b len lnk cmb sto tag x s = .fault 0x09 0 s := by
  have hlegal : ¬ (6 ≤ cmb.toNat ∨ 23 < lnk.toNat) := by omega
  simp only [semRxcf, hr, hf, if_neg hlegal, hn, hw]
  rfl

theorem semRxcf_starts (h : linkServes s lnk.toNat f.pkg) : semRxcf d a b len lnk cmb sto tag x s =
    x.chunk { needR with w := sto } (x.k a) (chunkLen len) s fun loc s => x.recordAt s fun log s => x.replayEntry r s fun q s =>
      rxWait { rxOf (if sto then loc else []) loc len tag r (some cmb) (some f) with log := log, seq := q, lnk := lnk.toNat } s := by
  have hlegal : ¬ (6 ≤ cmb.toNat ∨ 23 < lnk.toNat) := by omega
  simp only [semRxcf, hr, hf, if_neg hlegal, if_neg (not_cut_off h)]
  rfl

end

end

end

end

/-! ### Flags (R313) -/

section
variable {a b : BitVec 4} {x : SCtx} {s u : State} {pa : Nat}

theorem semWflg_reads (timeout : Word) (hal : (x.k a).toNat % 8 = 0)
    (ht : transParts x.sq x.coll.space needR [((x.k a).toNat, 8)] [] s = .ok [(pa, 8)] u) (hp : poisonAt u pa 8 = none) :
    semWflg a b timeout x s = if (x.k b).toNat ≤ readN u.mem pa 8 then .go { x.c with pc := x.c.pc + 1 } u
      else .wait (.flag pa (x.k b) (1024 * timeout.toNat)) u := by
  rw [semWflg, word_ok hal ht]
  simp only [hp, Option.isSome_none, Bool.false_eq_true, if_false]
  rfl

/-- SFLG breaks its layout: its mode is reserved, or a field that its mode does not use is not zero. -/
def sflgIllegal (b : BitVec 4) (mode : BitVec 2) (im : Word) : Prop := mode = 3 ∨ (mode = 0 ∧ b ≠ 0) ∨ (mode ≠ 0 ∧ im ≠ 0)

/-- What SFLG adds or stores. -/
def sflgValue (x : SCtx) (b : BitVec 4) (mode : BitVec 2) (im : Word) : DWord := if mode = 0 then im.zeroExtend 64 else x.k b

/-- The add to a flag by the lock die; none where it waits for a credit. -/
def flagAdd (u : State) (pa : Nat) (v : DWord) : Option State :=
  lockAtomic u pa 8 ((readN u.mem pa 8 + v.toNat) % 2 ^ 64) (.atomic (BitVec.ofNat 7 pa) true 0 false v 0 none)

theorem semSflg_illegal {mode : BitVec 2} {im : Word} (h : sflgIllegal b mode im) : semSflg a b mode im x s = .fault 0x01 0 s := by
  rw [semSflg]
  exact if_pos h

section
variable {mode : BitVec 2} {im : Word} (hok : ¬ sflgIllegal b mode im)
include hok

theorem semSflg_misaligned (hal : (x.k a).toNat % 8 ≠ 0) : semSflg a b mode im x s = .fault 0x04 (x.k a).toNat s :=
  (if_neg hok).trans (word_misaligned hal _)

section
variable (hadd : mode ≠ 2) (hal : (x.k a).toNat % 8 = 0)
  (ht : transParts x.sq x.coll.space { needW with r := true, atom := some 0 } [((x.k a).toNat, 8)] [] s = .ok [(pa, 8)] u)
include hadd hal ht

theorem semSflg_poisoned (hp : (poisonAt u pa 8).isSome = true) : semSflg a b mode im x s = .fault 0x0A (x.k a).toNat u := by
  refine (if_neg hok).trans ((word_ok hal (by rw [if_neg hadd]; exact ht) _).trans ?_)
  rw [if_neg hadd, if_pos hp]

theorem semSflg_adds (hp : poisonAt u pa 8 = none) {w : State} (hw : flagAdd u pa (sflgValue x b mode im) = some w) :
    semSflg a b mode im x s = .go { x.c with pc := x.c.pc + 1 } w := by
  refine (if_neg hok).trans ((word_ok hal (by rw [if_neg hadd]; exact ht) _).trans ?_)
  rw [flagAdd, sflgValue] at hw
  simp only [if_neg hadd, hp, Option.isSome_none, Bool.false_eq_true, if_false, hw, SCtx.next]

theorem semSflg_awaits_credit (hp : poisonAt u pa 8 = none) (hw : flagAdd u pa (sflgValue x b mode im) = none) :
    semSflg a b mode im x s = .wait .credit u := by
  refine (if_neg hok).trans ((word_ok hal (by rw [if_neg hadd]; exact ht) _).trans ?_)
  rw [flagAdd, sflgValue] at hw
  simp only [if_neg hadd, hp, Option.isSome_none, Bool.false_eq_true, if_false, hw]

end

theorem semSflg_stores (hstore : mode = 2) (hal : (x.k a).toNat % 8 = 0)
    (ht : transParts x.sq x.coll.space needW [((x.k a).toNat, 8)] [] s = .ok [(pa, 8)] u) : semSflg a b mode im x s =
      .go { x.c with pc := x.c.pc + 1 } (lockWrite u pa (toBytes 8 (sflgValue x b mode im).toNat)) := by
  refine (if_neg hok).trans ((word_ok hal (by rw [if_pos hstore]; exact ht) _).trans ?_)
  rw [if_pos hstore]
  rfl

end

end

/-! ### CVTB (R309) -/

section
variable {d a b : BitVec 4} {len : BitVec 12} {dir : Bool} {x : SCtx} {s : State}

theorem semCvtb_long (h : 2047 < len.toNat) : semCvtb d a b len dir x s = .fault 0x01 0 s := by
  rw [semCvtb_eq, if_pos h]

section
variable (hlen : len.toNat ≤ 2047)
include hlen

theorem semCvtb_overlaps (h : (x.k a).toNat < (x.k d).toNat + cvtbWrites len dir)
    (h' : (x.k d).toNat < (x.k a).toNat + cvtbReads len dir) : semCvtb d a b len dir x s = .fault 0x04 (x.k d).toNat s := by
  rw [semCvtb_eq, if_neg (Nat.not_lt.mpr hlen), if_pos ⟨h, h'⟩]

theorem semCvtb_apart (h : (x.k d).toNat + cvtbWrites len dir ≤ (x.k a).toNat ∨ (x.k a).toNat + cvtbReads len dir ≤ (x.k d).toNat) :
    semCvtb d a b len dir x s = x.chunk needR (x.k a) (cvtbReads len dir) s fun gs s =>
      x.chunk needW (x.k d) (cvtbWrites len dir) s (cvtbConverts a b dir x gs) := by
  rw [semCvtb_eq, if_neg (Nat.not_lt.mpr hlen), if_neg (by omega)]

end

/-- A conversion of a chunk that is not poisoned, into FP32 and from it. -/
theorem cvtbConverts_to_fp32 {gs gd : Seg} (hp : segPoison s gs = false) : cvtbConverts a b true x gs gd s =
    .wait (.cvt gd ((elemsOf 8 (readSeg s gs).length (readSeg s gs)).flatMap fun i =>
      toBytes 4 (ofBlockFixed i (max (-1100) (min 1100 (x.k b).toInt)))) false) s := by
  simp [cvtbConverts, hp]

theorem cvtbConverts_from_fp32 {gs gd : Seg} (hp : segPoison s gs = false) :
    let e := max (-1100) (min 1100 (x.k b).toInt)
    let l := elemsOf 4 (readSeg s gs).length (readSeg s gs)
    cvtbConverts a b false x gs gd s = .wait (.cvt gd (l.flatMap fun i => toBytes 8 (toBlockFixed (BitVec.ofNat 32 i) e).1)
      (l.any fun i => (toBlockFixed (BitVec.ofNat 32 i) e).2)) s := by
  simp only [cvtbConverts, hp, Bool.false_eq_true, if_false, List.flatMap_map, Bool.not_false, Bool.true_and, List.any_map]
  rfl

end

/-! ### SRED, PUTK and LOGA -/

section
variable {d a b : BitVec 4} {len : BitVec 12} {lnk : BitVec 5} {x : SCtx} {s : State}

/-- The contributors that the descriptor of SRED names (R310). -/
def sredCount (x : SCtx) (b : BitVec 4) : Nat := (x.k b).toNat / 2 ^ 16 % 2 ^ 12

/-- SRED breaks its layout: its link, or its descriptor's size or count, is out of range (R310). -/
def sredIllegal (x : SCtx) (b : BitVec 4) (lnk : BitVec 5) : Prop :=
  23 < lnk.toNat ∨ 2 ^ 28 ≤ (x.k b).toNat ∨ sredCount x b < 1 ∨ 2304 < sredCount x b

/-- The presentation of SRED, once its ranges are translated (R310). -/
def sredPresents (a b : BitVec 4) (lnk : BitVec 5) (x : SCtx) (gs gd : Seg) (s : State) : SeqRes :=
  let own := readSeg s gs
  if segPoison s gs then
    let (l, s) := if sredCount x b = 1 then (own, s) else freeBytes own.length s
    .fault 0x0A (x.k a).toNat (someBytes s gd l)
  else .wait (.offer gd own (sredCount x b) (own.length / 256) lnk.toNat (x.k b)) s

theorem semSred_illegal (h : sredIllegal x b lnk) : semSred d a b len lnk x s = .fault 0x01 0 s := if_pos h

section
variable (hok : ¬ sredIllegal x b lnk)
include hok

theorem semSred_no_switch (hn : leadsToSwitch s lnk.toNat = false) (hw : switchAwaited s lnk.toNat = false) :
    semSred d a b len lnk x s = .fault 0x09 0 s :=
  (if_neg hok).trans (if_pos (by rw [hn, hw]; rfl))

theorem semSred_starts (hs : leadsToSwitch s lnk.toNat = true ∨ switchAwaited s lnk.toNat = true) : semSred d a b len lnk x s =
    x.chunk needR (x.k a) (chunkLen len) s fun gs s => x.chunk needW (x.k d) (chunkLen len) s (sredPresents a b lnk x gs) := by
  have hserved : ¬ (!leadsToSwitch s lnk.toNat && !switchAwaited s lnk.toNat) = true := by
    rcases hs with h | h <;> simp [h]
  exact (if_neg hok).trans (if_neg hserved)

end

theorem sredPresents_clean {gs gd : Seg} (hp : segPoison s gs = false) : sredPresents a b lnk x gs gd s =
    .wait (.offer gd (readSeg s gs) (sredCount x b) ((readSeg s gs).length / 256) lnk.toNat (x.k b)) s := by
  simp only [sredPresents, hp, Bool.false_eq_true, if_false]

/-- The word of PUTK breaks its layout: its package, or a reserved bit (R325). -/
def putkIllegal (x : SCtx) (d : BitVec 4) : Prop := 2303 < (x.k d).toNat % 2 ^ 12 ∨ (x.k d).extractLsb' 12 20 ≠ 0

theorem semPutk_illegal (h : putkIllegal x d) : semPutk d a b x s = .fault 0x01 0 s := if_pos h

theorem semPutk_sends (hok : ¬ putkIllegal x d) {u : State} (hu : takeBulk s (BitVec.ofNat 12 ((x.k d).toNat % 2 ^ 12)) = some u) :
    semPutk d a b x s = .go { x.c with pc := x.c.pc + 1 } (emit u (.put (putkMsg u x a b d))) :=
  (if_neg hok).trans (by rw [hu]; rfl)

theorem semPutk_awaits_credit (hok : ¬ putkIllegal x d) (hu : takeBulk s (BitVec.ofNat 12 ((x.k d).toNat % 2 ^ 12)) = none) :
    semPutk d a b x s = .wait .credit s :=
  (if_neg hok).trans (by rw [hu])

/-- LOGA breaks its layout: a reserved mode, a register that is not used, or a buffer or size that is not allowed (R314). -/
def logaIllegal (x : SCtx) (a b : BitVec 4) (mode : BitVec 2) : Prop :=
  mode = 3 ∨ (mode = 0 ∧ (a ≠ 0 ∨ b ≠ 0)) ∨
    (mode ≠ 0 ∧ ((x.k a).toNat % 16 ≠ 0 ∨ (x.k b).toNat % 16 ≠ 0 ∨ (x.k b).toNat < 16))

theorem semLoga_illegal {mode : BitVec 2} (h : logaIllegal x a b mode) : semLoga a b mode x s = .fault 0x01 0 s := if_pos h

theorem semLoga_sets {mode : BitVec 2} (h : ¬ logaIllegal x a b mode) : semLoga a b mode x s = .go { x.c with
    logm := mode
    logpos := 0
    logovf := false
    logbuf := if mode = 0 then 0 else (x.k a).toNat
    logsize := if mode = 0 then 0 else (x.k b).toNat
    pc := x.c.pc + 1 } s :=
  (if_neg h).trans rfl

end

/-! ### The statement -/

/-- Settles O51: each transfer waits, goes on or faults as its operands and links have it, and changes nothing outside the
sequencers but what the lock die writes and tells. -/
theorem sequencerTransfersComplete : Obligations.sequencer_transfers_complete := by
  refine ⟨fun a b len lnk tag s x r g u hx hr hl => ⟨?txcWaits, ?txcCutOff, ?txcMisaligned⟩,
    fun a b len lnk tag s x r g u m hx hr hl hreach hhere ht hp ha hm hsrc htag hlen _ _ => ?txcSends,
    fun d a b len lnk cmb sto tag s x hx => ⟨fun h => issueSeq_fault hx (semTxc_illegal h),
      fun h => issueSeq_fault hx (semRxs_illegal h), fun h => issueSeq_fault hx (semRxc_illegal h),
      fun h => issueSeq_fault hx (semRxcf_illegal h), ?rxcfCutOff, ?rxsMisaligned, ?rxcCrosses, ?rxcMisaligned, ?rxcfMisaligned⟩,
    fun d b len tag s x r g u hx hr ht => issueSeq_wait hx ((semRxs_starts hr).trans (chunk_ok ht _)), ?rxc, ?rxcf, ?wflg, ?sflg,
    fun s pa n v pay => ⟨fun w hw => lockAtomic_mem hw, lockAtomic_at_home n v pay, lockWrite_mem s pa⟩,
    fun a b timeout im s x hx hal => ⟨issueSeq_fault hx (word_misaligned hal _),
      issueSeq_fault (body := semSflg a 0 0 im) hx (semSflg_misaligned (by simp [sflgIllegal]) hal)⟩,
    fun a b mode im s x hx h => issueSeq_fault hx (semSflg_illegal h),
    fun a target cond s x hx h => exec_jmpk_illegal hx target h,
    fun d a b len dir s x hx => ⟨fun h => issueSeq_fault hx (semCvtb_long h),
      fun hlen h h' => issueSeq_fault hx (semCvtb_overlaps hlen h h'),
      fun hlen h => ⟨fun hal => ?cvtbSource, fun g u hg hal => ?cvtbTarget⟩⟩,
    fun d a b len s x gs gd u v hx hlen => ⟨fun h hs hd hp => ?cvtbTo, fun h hs hd hp => ?cvtbFrom⟩,
    ?sred,
    fun d a b s x hx hp h0 =>
      have hok : ¬ putkIllegal x d := not_or.mpr ⟨Nat.not_lt.mpr hp, not_not.mpr h0⟩
      ⟨fun u hu => issueSeq_go hx (semPutk_sends hok hu), fun hu => issueSeq_wait hx (semPutk_awaits_credit hok hu)⟩,
    fun d a b s x hx h => issueSeq_fault hx (semPutk_illegal h),
    fun a b mode s x hx h => issueSeq_fault hx (semLoga_illegal h), ?frame, seqStepDone_mem,
    fun s g l b hm hb => fget_writeSeg_outside hm hb, ?loga⟩
  case txcWaits => exact fun h ht => issueSeq_wait hx ((semTxc_starts hr hl h).trans (chunk_ok ht _))
  case txcCutOff => exact fun hn hw => issueSeq_fault hx (semTxc_cut_off hr hl hn hw)
  case txcMisaligned => exact fun h hal => issueSeq_fault hx ((semTxc_starts hr hl (.inl h)).trans (chunk_misaligned hal _))
  case txcSends =>
    have hlook := looked_transChunk x.sq x.coll.space needR (x.k a).toNat (chunkLen len) s
    rw [ht] at hlook
    exact ⟨_, issueSeq_wait hx ((semTxc_starts hr hl (.inl hreach)).trans (chunk_ok ht _)),
      seqWaits_sends_here hx hlook ha hreach hhere hp hm hsrc htag hlen⟩
  case rxcfCutOff =>
    intro f hr hf hc hl hn hw
    obtain ⟨r, hr⟩ := Option.ne_none_iff_exists'.mp hr
    exact issueSeq_fault hx (semRxcf_cut_off hr hc hf hl hn hw)
  case rxsMisaligned =>
    intro hr hal
    obtain ⟨r, hr⟩ := Option.ne_none_iff_exists'.mp hr
    exact issueSeq_fault hx ((semRxs_starts hr).trans (chunk_misaligned hal _))
  case rxcCrosses =>
    intro hr hc h
    obtain ⟨r, hr⟩ := Option.ne_none_iff_exists'.mp hr
    exact issueSeq_fault hx (semRxc_crosses hr hc h)
  case rxcMisaligned =>
    intro hr hc h
    obtain ⟨r, hr⟩ := Option.ne_none_iff_exists'.mp hr
    exact ⟨fun hal => issueSeq_fault hx ((semRxc_starts hr hc h).trans (chunk_misaligned hal _)), fun g u ht hal =>
      issueSeq_fault hx ((semRxc_starts hr hc h).trans ((chunk_ok ht _).trans (chunk_misaligned hal _)))⟩
  case rxcfMisaligned =>
    intro f hr hf hc hl h hal
    obtain ⟨r, hr⟩ := Option.ne_none_iff_exists'.mp hr
    exact issueSeq_fault hx ((semRxcf_starts hr hc hf hl (.inl h)).trans (chunk_misaligned hal _))
  case rxc =>
    intro d a b len cmb tag s x r g h u v hx hr hc hcross hlog hg hh
    refine issueSeq_wait hx ((semRxc_starts hr hc hcross).trans ((chunk_ok hg _).trans ((chunk_ok hh _).trans ?_)))
    rw [recordAt_off hlog, replayEntry_off hlog]
    rfl
  case rxcf =>
    intro d a b len lnk cmb sto tag s x r f g u hx hr hf hc hl hlink hlog hg
    refine issueSeq_wait hx ((semRxcf_starts hr hc hf hl hlink).trans ((chunk_ok hg _).trans ?_))
    rw [recordAt_off hlog, replayEntry_off hlog]
    rfl
  case wflg =>
    intro a b timeout s x pa u hx hal ht hp
    have hreads := semWflg_reads (b := b) timeout hal ht hp
    split
    next h => exact issueSeq_go hx (hreads.trans (if_pos h))
    next h => exact issueSeq_wait hx (hreads.trans (if_neg h))
  case sflg =>
    intro a b im s x pa u hx hal
    have himm : ¬ sflgIllegal 0 0 im := by simp [sflgIllegal]
    have hreg : ¬ sflgIllegal b 1 0 := by simp [sflgIllegal]
    have hstore : ¬ sflgIllegal b 2 0 := by simp [sflgIllegal]
    exact ⟨fun ht hp => ⟨issueSeq_fault hx (semSflg_poisoned himm (by decide) hal ht hp),
        issueSeq_fault hx (semSflg_poisoned hreg (by decide) hal ht hp)⟩,
      fun ht hp => ⟨fun w hw => issueSeq_go hx (semSflg_adds himm (by decide) hal ht hp hw),
        fun hw => issueSeq_wait hx (semSflg_awaits_credit himm (by decide) hal ht hp hw),
        fun w hw => issueSeq_go hx (semSflg_adds hreg (by decide) hal ht hp hw),
        fun hw => issueSeq_wait hx (semSflg_awaits_credit hreg (by decide) hal ht hp hw)⟩,
      fun ht => issueSeq_go hx (semSflg_stores hstore rfl hal ht)⟩
  case cvtbSource => exact issueSeq_fault hx ((semCvtb_apart hlen h).trans (chunk_misaligned hal _))
  case cvtbTarget => exact issueSeq_fault hx ((semCvtb_apart hlen h).trans ((chunk_ok hg _).trans (chunk_misaligned hal _)))
  case cvtbTo =>
    exact issueSeq_wait hx ((semCvtb_apart (dir := true) hlen h.symm).trans
      ((chunk_ok hs _).trans ((chunk_ok hd _).trans (cvtbConverts_to_fp32 hp))))
  case cvtbFrom =>
    exact issueSeq_wait hx ((semCvtb_apart (dir := false) hlen h.symm).trans
      ((chunk_ok hs _).trans ((chunk_ok hd _).trans (cvtbConverts_from_fp32 hp))))
  case sred =>
    intro d a b len lnk s x hx n
    refine ⟨fun h => issueSeq_fault hx (semSred_illegal h), fun hl hb hlo hhi => ?_⟩
    have hok : ¬ sredIllegal x b lnk := by
      simp only [sredIllegal, sredCount]
      omega
    exact ⟨fun hn hw => issueSeq_fault hx (semSred_no_switch hok hn hw), fun hs =>
      have hstarts := semSred_starts (d := d) (a := a) (len := len) hok hs
      ⟨fun hal => issueSeq_fault hx (hstarts.trans (chunk_misaligned hal _)), fun gs u hgs =>
        ⟨fun hal => issueSeq_fault hx (hstarts.trans ((chunk_ok hgs _).trans (chunk_misaligned hal _))), fun gd v hgd hp =>
          issueSeq_wait hx (hstarts.trans ((chunk_ok hgs _).trans ((chunk_ok hgd _).trans (sredPresents_clean hp))))⟩⟩⟩
  case frame =>
    intro i w s t hi h
    cases inSeqs_exec hi h
    exact ⟨rfl, rfl, rfl, rfl⟩
  case loga =>
    intro a b mode s x hx
    refine ⟨issueSeq_go (body := semLoga 0 0 0) hx (semLoga_sets (by simp [logaIllegal])), fun hmode ha hb hsize => ?_⟩
    have h0 : mode ≠ 0 := by rcases hmode with rfl | rfl <;> decide
    have hok : ¬ logaIllegal x a b mode := by
      rcases hmode with rfl | rfl <;> simp [logaIllegal, ha, hb, hsize]
    have hsets := semLoga_sets (s := s) hok
    rw [if_neg h0, if_neg h0] at hsets
    exact issueSeq_go hx hsets

end Sys2Proof.Proofs
end

section
/-! BC whose slices disagree (R337, R338, R342, R343, R345): the stream splits, pushes a path, or takes trap 4. -/

namespace Sys2Proof.Proofs

open Sys2Proof.Machine Sys2Proof.Safety Sys2Proof.Laws

/-! ### Fetches leave memory, groups and teams -/

theorem sameStore_icacheWord (s : State) (core pa : Nat) : SameStore s (icacheWord s core pa).2 := by
  unfold icacheWord
  cases kget (coreAt s core).icache (pa / 128) with
  | none => dsimp only; split <;> exact ⟨rfl, rfl, rfl⟩
  | some line => dsimp only; split <;> exact ⟨rfl, rfl, rfl⟩

theorem sameStore_fetchWord (s : State) (core space va : Nat) : SameStore s (fetchWord s core space va).2.2 := by
  have ht : SameStore s (Machine.translate s core false space va).2.2 := sameStore_translateFrom ..
  unfold fetchWord
  split
  · exact .refl s
  · dsimp only
    split
    case h_1 | h_2 => exact ht
    case h_3 =>
      split
      · exact ht
      · split
        · exact ht
        · exact ht.trans (sameStore_icacheWord ..)

theorem sameStore_fetch (x : Ctx) (s : State) (va : Nat) : SameStore s (x.fetch s va).2 := by
  have h := sameStore_fetchWord s x.core x.gr.space va
  unfold Ctx.fetch
  dsimp only
  split
  · exact h.trans (sameStore_count ..)
  · exact h

/-- Finding the rejoin address at most fetches a word (R342). -/
theorem sameStore_of_rejoins {x : Ctx} {s v : State} {len : Nat} {t r : DWord} (h : rejoins x s len t r v) : SameStore s v := by
  unfold rejoins at h
  split at h
  · obtain ⟨w, hf, -⟩ := h
    have hs := sameStore_fetch x s (t.toNat - 4)
    rwa [hf] at hs
  · rw [h.2]
    exact .refl s

theorem waitedState_mem (how : IssueHow) (x : Ctx) (s : State) : (waitedState how x s).mem = s.mem := by
  rw [waitedState_eq]

/-! ### Registers and split table entries beside changes of slices -/

/-- Registers stand in the group's maps, in its slices' scalars and conditions, and in the handler's bank. -/
theorem reg_congr {g g' : Group} (hv : g'.v = g.v) (hp : g'.p = g.p) (hh : g'.handler = g.handler)
    (hs : ∀ k, (g'.slice k).s = (g.slice k).s ∧ (g'.slice k).c = (g.slice k).c) (r : RegRef) : g'.reg r = g.reg r := by
  cases r with
  | v | p | bv | bs | bp | bc => simp only [Group.reg, hv, hp, hh]
  | s k | c k => simp only [Group.reg, hs k]

theorem reg_modSlices (g : Group) (l : List Nat) {f : Nat → Slice → Slice} (hs : ∀ k q, (f k q).s = q.s)
    (hc : ∀ k q, (f k q).c = q.c) (r : RegRef) : (g.modSlices l f).reg r = g.reg r := by
  refine reg_congr ?_ ?_ ?_ (fun k => ⟨slice_modSlices_keeps Slice.s hs g l k, slice_modSlices_keeps Slice.c hc g l k⟩) r <;>
    rw [modSlices_eq]

theorem split_modSlices (g : Group) (l : List Nat) (f : Nat → Slice → Slice) (e : Nat) :
    (g.modSlices l f).split e = g.split e := by
  rw [modSlices_eq]; rfl

theorem modSplit_length (g : Group) (e : Nat) (f : Split → Split) : (g.modSplit e f).splits.length = g.splits.length :=
  List.length_modify ..

/-! ### After an instruction that has set the program counter -/

/-- What the issue leaves of the group g of an instruction that has set its own program counter (R60, R221, R379). -/
def flowGroup (how : IssueHow) (y : Ctx) (g : Group) : Group :=
  (spend g y how.isYield).modSplit y.e fun sp =>
    { sp with mapp := if y.inH then sp.mapp else none, compared := if y.inH then sp.compared else false
              step := false }

section
variable (how : IssueHow) (y : Ctx) (g : Group)

theorem flowGroup_eq : flowGroup how y g =
    { g with budget := (flowGroup how y g).budget, splits := (flowGroup how y g).splits } := by
  rw [flowGroup, spend_eq]; rfl

theorem flowGroup_j : (flowGroup how y g).j = g.j := by rw [flowGroup_eq]

theorem flowGroup_dstack : (flowGroup how y g).dstack = g.dstack := by rw [flowGroup_eq]

theorem flowGroup_slice (k : Nat) : (flowGroup how y g).slice k = g.slice k := by
  rw [flowGroup_eq]; rfl

theorem flowGroup_reg (r : RegRef) : (flowGroup how y g).reg r = g.reg r := by
  rw [flowGroup_eq]; cases r <;> rfl

/-- What an issue notes in a split keeps of it. -/
theorem flowGroup_split {α : Type} {π : Split → α}
    (hπ : ∀ sp m c b, π { sp with mapp := m, compared := c, step := b } = π sp) (e : Nat) :
    π ((flowGroup how y g).split e) = π (g.split e) := by
  have hs : (issuedGroup how y g).split e = (flowGroup how y g).split e := by
    rw [issuedGroup, advance_eq]; rfl
  rw [← hs, split_issuedGroup_keeps how y g hπ]

variable (v : State) (c : Nat)

/-- The stream's group after the issue, with counter c of the grid counted. -/
theorem kget_afterFlow_count : kget (afterFlow how y (y.count (y.put v g) c 1)).groups y.uid = some (flowGroup how y g) := by
  simp [afterFlow, issued, Ctx.put, kget_kmod, flowGroup]

theorem afterFlow_count_mem : (afterFlow how y (y.count (y.put v g) c 1)).mem = v.mem := by
  unfold afterFlow issued
  rw [count_eq, count_eq, modGroup_mem, count_eq]
  rfl

theorem counted_afterFlow_count : counted how y v (afterFlow how y (y.count (y.put v g) c 1)) c := by
  intro gr hgr
  unfold afterFlow issued
  rw [kget_count_one y _ (kget_count_one y 0 (by rw [modGroup_grids]; exact kget_count_one y c (s := y.put v g) hgr))]
  split <;> rfl

end

/-! ### The paths of a divergent BC -/

/-- The group g when the slices of ff have changed by f and those of tt have gone to t, with the loops popped that it leaves (R343,
R389). -/
def parted (g : Group) (tt ff : List Nat) (t : DWord) (f : Slice → Slice) : Group :=
  (g.modSlices ff fun _ => f).modSlices tt fun _ q => { q with pc := t, loops := popLoops t q.loops }

/-- A slice goes on at next after the instruction at pc, or loops back (R388), and pops the loops that it leaves (R389). -/
def goPast (pc next : DWord) (q : Slice) : Slice :=
  let r := loopBack pc next q.loops; { q with pc := r.1, loops := popLoops r.1 r.2 }

/-- A slice whose path is parked until next pops the loops that next leaves (R389). -/
def popFor (next : DWord) (q : Slice) : Slice := { q with loops := popLoops next q.loops }

theorem goPast_regs (pc next : DWord) (q : Slice) : (goPast pc next q).s = q.s ∧ (goPast pc next q).c = q.c := ⟨rfl, rfl⟩

theorem popFor_regs (next : DWord) (q : Slice) : (popFor next q).s = q.s ∧ (popFor next q).c = q.c := ⟨rfl, rfl⟩

section
variable {x : Ctx} {g : Group} {t next : DWord} {tt ff : List Nat} {f : Slice → Slice}

theorem parted_eq (g : Group) (tt ff : List Nat) (t : DWord) (f : Slice → Slice) :
    parted g tt ff t f = { g with slices := (parted g tt ff t f).slices } := by
  have h := modSlices_eq g ff fun _ => f
  unfold parted
  rw [modSlices_eq]
  generalize g.modSlices ff (fun _ => f) = p at h ⊢
  rw [h]

theorem parted_j : (parted g tt ff t f).j = g.j := by rw [parted_eq]

theorem parted_dstack : (parted g tt ff t f).dstack = g.dstack := by rw [parted_eq]

theorem parted_split (e : Nat) : (parted g tt ff t f).split e = g.split e := by
  rw [parted_eq]; rfl

theorem parted_reg (hf : ∀ q, (f q).s = q.s ∧ (f q).c = q.c) (r : RegRef) : (parted g tt ff t f).reg r = g.reg r := by
  rw [parted, reg_modSlices, reg_modSlices] <;> intros
  exacts [(hf _).1, (hf _).2, rfl, rfl]

variable (hg : g.slices = x.g.slices) (htt : tt.Nodup) (hd : ∀ k ∈ tt, k ∉ ff)
include hg

theorem slice_of_slices (k : Nat) : g.slice k = x.g.slice k := by
  rw [Group.slice, hg]; rfl

include htt hd

theorem taken_parted : taken x (parted g tt ff t f) t tt := by
  intro k hk hlen
  have hlen' : k < (g.modSlices ff fun _ => f).slices.length := by rwa [modSlices_length, hg]
  rw [parted, slice_modSlices _ htt, if_pos ⟨hk, hlen'⟩, slice_modSlices_notMem _ _ (hd k hk), slice_of_slices hg]
  exact ⟨rfl, rfl⟩

/-- The two paths of a split, and the slices outside the stream (R343, R388, R389). -/
theorem paths_parted (hff : ff.Nodup) (hst : ∀ k ∈ tt, k ∈ x.sl) (hsf : ∀ k ∈ ff, k ∈ x.sl) :
    paths x (parted g tt ff t (goPast x.pc next)) t next tt ff := by
  refine ⟨taken_parted hg htt hd, fun k hk hlen => ?_, fun k hk => ?_⟩
  · rw [parted, slice_modSlices_notMem _ _ fun h => hd k h hk, slice_modSlices _ hff, if_pos ⟨hk, by rwa [hg]⟩,
      slice_of_slices hg]
    exact ⟨rfl, rfl⟩
  · rw [parted, slice_modSlices_notMem _ _ fun h => hk (hst k h), slice_modSlices_notMem _ _ fun h => hk (hsf k h),
      slice_of_slices hg]

end

/-! ### The cases of the divergence -/

section
variable {x : Ctx} {s : State} {j len k : Nat} {tgt r : DWord} {tt ff : List Nat}

/-- J[j] allows a split to r: it is invalid, or holds the stream's slices and r, and the partition has a slot (R338, R343). -/
def maySplit (x : Ctx) (s : State) (j : Nat) (r : DWord) : Bool :=
  let jr := x.g.j.getD j ⟨false, 0, 0⟩
  decide (ibUsed s x.core x.g.part < 24) &&
    (!jr.valid || (decide (sliceMask x.sl &&& jr.mask = sliceMask x.sl) && decide (jr.pc = r.extractLsb' 2 55)))

theorem splitEntry_eq (x : Ctx) (s : State) (j : Nat) (r : DWord) : splitEntry x s j r =
    if maySplit x s j r then (List.range 4).find? fun k => !(x.g.split k).valid else none := by
  unfold splitEntry maySplit
  generalize x.g.j.getD j ⟨false, 0, 0⟩ = jr
  cases hv : jr.valid <;> simp [hv]

theorem splitEntry_some (h : splitEntry x s j r = some k) :
    maySplit x s j r = true ∧ ((List.range 4).find? fun k => !(x.g.split k).valid) = some k := by
  rw [splitEntry_eq] at h
  split at h
  next hm => exact ⟨hm, h⟩
  next => cases h

theorem splitEntry_none (h : splitEntry x s j r = none) :
    maySplit x s j r = false ∨ ((List.range 4).find? fun k => !(x.g.split k).valid) = none := by
  rw [splitEntry_eq] at h
  split at h
  next => exact .inr h
  next hm => exact .inl (by simpa using hm)

/-- The results of a list of outstanding ones that stay with the slices of tt, or with the others. -/
def resultsOf (tt : List Nat) (onT : Bool) (l : List Pending) : List Pending :=
  l.map fun p => { p with writes := p.writes.filter fun w => tt.contains (sliceOfWrite w) == onT }

/-- The group once J[j], where it was invalid, holds the stream's slices and r (R343). -/
def rejoinSet (x : Ctx) (j : Nat) (r : DWord) : Group :=
  if (x.g.j.getD j ⟨false, 0, 0⟩).valid then x.g else { x.g with j := x.g.j.set j ⟨true, sliceMask x.sl, r.extractLsb' 2 55⟩ }

/-- The split table once the slices of tt have left entry e for entry k, with their outstanding results (R343). -/
def splitOff (g : Group) (e k : Nat) (tt ff : List Nat) : Group :=
  let q := (g.modSplit e fun sp => { sp with mask := sliceMask ff }).modSplit k fun _ =>
    { Split.none with valid := true, mask := sliceMask tt, live := g.nregs }
  (q.modSplit e fun sp => { sp with pend := resultsOf tt false (q.split e).pend }).modSplit k
    fun sp => { sp with pend := resultsOf tt true (q.split e).pend }

/-- The tables of the group after a split to entry k (R343). -/
def splitTables (x : Ctx) (j : Nat) (r : DWord) (tt ff : List Nat) (k : Nat) : Group := splitOff (rejoinSet x j r) x.e k tt ff

/-- The group after a push (R343): the parked path stands on top of the stack. -/
def pushTables (x : Ctx) (j len : Nat) (r : DWord) (tt ff : List Nat) : Group :=
  { x.g with
    dstack := { mask := sliceMask ff, arrived := 0, j := BitVec.ofNat 3 j, join := false, owner := BitVec.ofNat 2 x.e,
                pc := x.pc + BitVec.ofNat 64 len, rejoin := r } :: x.g.dstack : Group }.modSplit x.e
    fun sp => { sp with mask := sliceMask tt }

theorem diverge_splits (h : splitEntry x s j r = some k) : diverge x s j len tgt r tt ff =
    .flow (x.count (x.put s (parted (splitTables x j r tt ff k) tt ff tgt (goPast x.pc (x.pc + BitVec.ofNat 64 len)))) 5 1) := by
  obtain ⟨hmay, hfind⟩ := splitEntry_some h
  unfold maySplit at hmay
  simp only [diverge, hfind, hmay]
  rfl

/-- Without an entry to split into, the divergence is that of the stack. -/
theorem diverge_on_stack (h : splitEntry x s j r = none) : diverge x s j len tgt r tt ff =
    if 16 ≤ x.g.dstack.length then .trap s ⟨4, 0, 0, laneMask x.lanes, []⟩
    else .flow (x.count (x.put s
      (parted (pushTables x j len r tt ff) tt ff tgt (popFor (x.pc + BitVec.ofNat 64 len)))) 6 1) := by
  cases hfind : (List.range 4).find? fun k => !(x.g.split k).valid with
  | none => simp only [diverge, hfind]; rfl
  | some k =>
    have hmay : maySplit x s j r = false := (splitEntry_none h).resolve_right (by simp [hfind])
    unfold maySplit at hmay
    simp only [diverge, hfind, hmay]
    rfl

/-- The entry that a stream splits into is a free one of the table, so another than its own. -/
theorem splitEntry_free (h : splitEntry x s j r = some k) (hv : (x.g.split x.e).valid = true) : k < 4 ∧ k ≠ x.e := by
  obtain ⟨-, hfind⟩ := splitEntry_some h
  have hfree := List.find?_some hfind
  refine ⟨List.mem_range.mp (List.mem_of_find?_eq_some hfind), fun he => ?_⟩
  rw [he, hv] at hfree
  cases hfree

end

section
variable (x : Ctx) (j len : Nat) (r : DWord) (tt ff : List Nat)

theorem rejoinSet_eq : rejoinSet x j r = { x.g with
    j := if (x.g.j.getD j ⟨false, 0, 0⟩).valid then x.g.j else x.g.j.set j ⟨true, sliceMask x.sl, r.extractLsb' 2 55⟩ } := by
  unfold rejoinSet
  split <;> rfl

theorem splitOff_eq (g : Group) (e k : Nat) (tt ff : List Nat) :
    splitOff g e k tt ff = { g with splits := (splitOff g e k tt ff).splits } := rfl

theorem splitTables_eq (k : Nat) : splitTables x j r tt ff k = { x.g with
    j := if (x.g.j.getD j ⟨false, 0, 0⟩).valid then x.g.j else x.g.j.set j ⟨true, sliceMask x.sl, r.extractLsb' 2 55⟩
    splits := (splitTables x j r tt ff k).splits } := by
  unfold splitTables
  rw [splitOff_eq, rejoinSet_eq]

variable {x j r tt ff}

theorem splitTables_slices (k : Nat) : (splitTables x j r tt ff k).slices = x.g.slices := by rw [splitTables_eq]

theorem splitTables_dstack (k : Nat) : (splitTables x j r tt ff k).dstack = x.g.dstack := by rw [splitTables_eq]

/-- J[j] after a split: as it was where it was valid. -/
theorem splitTables_j {k : Nat} (hj : (x.g.j.getD j ⟨false, 0, 0⟩).valid = false → j < x.g.j.length) :
    (splitTables x j r tt ff k).j.getD j ⟨false, 0, 0⟩ =
      if (x.g.j.getD j ⟨false, 0, 0⟩).valid then x.g.j.getD j ⟨false, 0, 0⟩ else ⟨true, sliceMask x.sl, r.extractLsb' 2 55⟩ := by
  rw [splitTables_eq]
  cases hv : (x.g.j.getD j ⟨false, 0, 0⟩).valid with
  | true => rfl
  | false => simp [hj hv]

theorem splitTables_split {k : Nat} (hk : k < x.g.splits.length) (he : x.e < x.g.splits.length) (hne : k ≠ x.e) :
    ((splitTables x j r tt ff k).split k).valid = true ∧ ((splitTables x j r tt ff k).split k).mask = sliceMask tt ∧
      ((splitTables x j r tt ff k).split x.e).mask = sliceMask ff := by
  have hlen : (rejoinSet x j r).splits.length = x.g.splits.length := by rw [rejoinSet_eq]
  simp [splitTables, splitOff, split_modSplit, modSplit_length, hlen, hk, he, hne, hne.symm]

theorem splitTables_reg (k : Nat) (q : RegRef) : (splitTables x j r tt ff k).reg q = x.g.reg q := by
  rw [splitTables_eq]; cases q <;> rfl

theorem pushTables_split (he : x.e < x.g.splits.length) : ((pushTables x j len r tt ff).split x.e).mask = sliceMask tt := by
  rw [pushTables, split_modSplit, if_pos ⟨rfl, he⟩]

theorem pushTables_reg (q : RegRef) : (pushTables x j len r tt ff).reg q = x.g.reg q := by
  cases q <;> rfl

end

/-! ### BC -/

/-- Both forms of BC issue with semBc of their operands. -/
theorem runsAs_bc {b : Instr} {how : IssueHow} {len : Nat} {tgt : Ctx → DWord} {c : Nat} {neg : Bool} {j : Nat}
    (h : bcForm b how len tgt c neg j) :
    ∃ i m, c = i.toNat ∧ j = m.toNat ∧ runsAs b how (semBc i neg m len tgt) := by
  rcases h with ⟨y, i, m, off, rfl, rfl, rfl, rfl, rfl, rfl⟩ | ⟨y, i, m, v, rfl, rfl, rfl, rfl, rfl, rfl⟩ <;>
    exact ⟨i, m, rfl, rfl, fun _ => rfl⟩

/-- A BC whose slices disagree diverges, with the rejoin address of R342. -/
theorem semBc_diverges {i : BitVec 3} {neg : Bool} {m : BitVec 3} {len : Nat} {tgt : Ctx → DWord} {x : Ctx} {s v : State} {r : DWord}
    (ht : (x.sl.filter fun k => x.c k i.toNat != neg) ≠ []) (hf : (x.sl.filter fun k => !(x.c k i.toNat != neg)) ≠ [])
    (hok : targetOk (tgt x) = true) (hi : x.inH = false) (hr : rejoins x s len (tgt x) r v) :
    semBc i neg m len tgt x s = diverge x v m.toNat len (tgt x) r (x.sl.filter fun k => x.c k i.toNat != neg)
      (x.sl.filter fun k => !(x.c k i.toNat != neg)) := by
  rw [← List.isEmpty_eq_false_iff] at ht hf
  unfold rejoins at hr
  simp only [semBc, ht, hf, hok, hi, Bool.not_true, Bool.and_false, Bool.false_eq_true, if_false]
  split at hr
  next hfwd =>
    obtain ⟨w, hfetch, rfl⟩ := hr
    simp only [hfwd, hfetch, if_true]
  next hback =>
    obtain ⟨rfl, rfl⟩ := hr
    simp only [hback, if_false]

/-- Settles O25: the divergence is a split, a push or a trap, as splitEntry and the depth of the stack say. -/
theorem divergentBranchSplits : Obligations.divergent_branch_splits := by
  intro b how len tgt c neg j hb s x r v hs z t tt ff jr htt hff hok hi hr
  obtain ⟨i, m, rfl, rfl, hruns⟩ := runsAs_bc hb
  have hexec : exec b s = outcome how z (diverge z v m.toNat len t r tt ff) :=
    (exec_of_runsAs hruns hs).trans (congrArg _ (semBc_diverges htt hff hok hi hr))
  have hsl : z.sl.Nodup := by
    obtain ⟨-, -, -, -, -, -, h⟩ := ctxOf_some (ctx_some (ctx_of_issues hs))
    rw [waited_sl, h]
    exact maskSlices_nodup _
  have hd : ∀ k ∈ tt, k ∉ ff := fun k hk hk' => by
    have h' := (List.mem_filter.mp hk').2
    rw [(List.mem_filter.mp hk).2] at h'
    cases h'
  have hmem : v.mem = s.mem := (sameStore_of_rejoins hr).mem.trans (waitedState_mem how x s)
  have htt' : tt.Nodup := hsl.filter _
  have hst (l : Nat → Bool) : ∀ k ∈ z.sl.filter l, k ∈ z.sl := fun k hk => (List.mem_filter.mp hk).1
  refine ⟨fun e he hlen hze hzv hj => ?_, fun he hroom hze => ?_, fun he hfull => ?_⟩
  · obtain ⟨he4, hne⟩ := splitEntry_free he hzv
    obtain ⟨hvalid, hmask, hrest⟩ :=
      splitTables_split (j := m.toNat) (r := r) (tt := tt) (ff := ff) (hlen ▸ he4) (hlen ▸ hze) hne
    have hpaths := paths_parted (g := splitTables z m.toNat r tt ff e) (t := t) (next := z.pc + BitVec.ofNat 64 len)
      (splitTables_slices e) htt' hd (hsl.filter _) (hst _) (hst _)
    rw [hexec, diverge_splits he]
    refine ⟨_, _, rfl, kget_afterFlow_count .., ?_, ?_, ?_, ?_, ?_, ?_, counted_afterFlow_count _ _ _ _ _, fun q => ?_,
      (afterFlow_count_mem ..).trans hmem⟩
    · rw [flowGroup_split (π := Split.valid) _ _ _ fun _ _ _ _ => rfl, parted_split, hvalid]
    · rw [flowGroup_split (π := Split.mask) _ _ _ fun _ _ _ _ => rfl, parted_split, hmask]
    · rw [flowGroup_split (π := Split.mask) _ _ _ fun _ _ _ _ => rfl, parted_split, hrest]
    · rw [flowGroup_j, parted_j, splitTables_j hj]
    · rw [flowGroup_dstack, parted_dstack, splitTables_dstack]
    · simpa only [paths, taken, flowGroup_slice] using hpaths
    · rw [flowGroup_reg, parted_reg (goPast_regs _ _), splitTables_reg]
  · have htaken := taken_parted (g := pushTables z m.toNat len r tt ff) (t := t)
      (f := popFor (z.pc + BitVec.ofNat 64 len)) rfl htt' hd
    rw [hexec, diverge_on_stack he, if_neg (by omega)]
    refine ⟨_, _, rfl, kget_afterFlow_count .., ?_, ?_, ?_, ?_, counted_afterFlow_count _ _ _ _ _, fun q => ?_,
      (afterFlow_count_mem ..).trans hmem⟩
    · rw [flowGroup_dstack, parted_dstack]
      rfl
    · rw [flowGroup_split (π := Split.mask) _ _ _ fun _ _ _ _ => rfl, parted_split, pushTables_split _ hze]
    · rw [flowGroup_j, parted_j]
      rfl
    · simpa only [taken, flowGroup_slice] using htaken
    · rw [flowGroup_reg, parted_reg (popFor_regs _), pushTables_reg]
  · rw [hexec, diverge_on_stack he, if_pos hfull]
    rfl

end Sys2Proof.Proofs
end

section
/-! REGANG, EXIT and SPLITQ, with the refill of the divergence stack (R348 to R351, R354, R367). -/

namespace Sys2Proof.Proofs

open Sys2Proof.Machine Sys2Proof.Safety Sys2Proof.Laws

/-! ### Refill (R354) -/

section
variable {x : Ctx} {s v : State} {g : Group} {miss : Nat}

theorem refill_done (n : Nat) (s : State) (h : (topEntry g x.e).isSome = true ∨ g.spcnt = 0) : refill x (n + 1) s g = .ok s g := by
  rw [refill, if_pos h]

variable (ht : topEntry g x.e = none) (hs : g.spcnt ≠ 0)
include ht hs

/-- A stream without a resident entry does not stop its refill while entries are spilled. -/
theorem refill_goes : ¬ ((topEntry g x.e).isSome = true ∨ g.spcnt = 0) := by
  simp [ht, hs]

theorem refill_full (n : Nat) (s : State) (hf : 16 ≤ g.dstack.length) : refill x (n + 1) s g = .trap s := by
  rw [refill, if_neg (refill_goes ht hs), if_pos hf]

variable (hroom : g.dstack.length < 16)
include hroom

theorem refill_read_fails (n : Nat) {r : Checked}
    (hc : checkAccesses s x.core x.gr.space false needR 32 [(0, g.spbase.toNat + 32 * (g.spcnt - 1))] = (r, miss, v))
    (hr : ∀ l, r ≠ .ok l) : refill x (n + 1) s g = .fault (x.count v 11 miss) := by
  rw [refill, if_neg (refill_goes ht hs), if_neg (by omega)]
  simp only [hc]
  cases r with
  | ok l => exact absurd rfl (hr l)
  | _ => rfl

variable {pa : Nat} {leaf : DWord}
  (hc : checkAccesses s x.core x.gr.space false needR 32 [(0, g.spbase.toNat + 32 * (g.spcnt - 1))] = (.ok [(pa, leaf)], miss, v))
  (haw : accessAwaited (x.count v 11 miss) pa = false)
include hc haw

theorem refill_refused (n : Nat)
    (hr : targetRefuses (x.count v 11 miss) pa = true ∨ (poisonAt (x.count v 11 miss) pa 32).isSome = true) :
    refill x (n + 1) s g = .fault (x.count v 11 miss) := by
  rw [refill, if_neg (refill_goes ht hs), if_neg (by omega)]
  simp only [hc, haw, hr, Bool.false_eq_true, if_false, if_true]

theorem refill_reads (n : Nat) (hr : targetRefuses (x.count v 11 miss) pa = false)
    (hp : poisonAt (x.count v 11 miss) pa 32 = none) {l : List Byte} {hit : Bool} {w : State}
    (hl : loadBytes (x.count v 11 miss) x.core x.keys x.t.held false pa 32 = (l, hit, w)) :
    refill x (n + 1) s g = refill x n (x.count w (if hit then 9 else 10) 1) (refilled g (divOfNat (ofBytes l))) := by
  rw [refill, if_neg (refill_goes ht hs), if_neg (by omega)]
  simp [hc, haw, hr, hp, hl]

end

/-! ### REGANG (R348) -/

/-- The stream waits on J[j] with the slices of m. -/
def waitingOn (x : Ctx) (g : Group) (j : BitVec 3) (m : BitVec 16) : Group :=
  g.modSplit x.e fun q => { q with wait := true, wj := j, mask := m }

/-- What REGANG does once the slices of m have arrived at J[j], the top entry aside. -/
def joinOn (j : BitVec 3) (x : Ctx) (s : State) (g : Group) (m : BitVec 16) : Res :=
  let r := g.j.getD j.toNat ⟨false, 0, 0⟩
  let p := waitingOn x g j m
  if r.valid = true ∧ m &&& r.mask ≠ 0 then
    if m &&& r.mask ≠ m ∨ x.pc.extractLsb' 2 55 ≠ r.pc then .fault s 0x18 0 0
    else if waitUnion p j.toNat = r.mask ∧ ¬ loopsEqual p r.mask = true then .fault s 0x19 0 0
    else .flow (x.put s (if mergeDue p j.toNat then merge p j.toNat else p))
  else .flow (x.put s (if x.inH then advance g x 4 else g.setPc (maskSlices m) (x.pc + 4)))

section
variable {j : BitVec 3} {x : Ctx} {g h : Group} {m : BitVec 16} {i : Nat} {d : DivEntry}

theorem regangOn_rejoin_mismatch (s : State) (ht : topEntry g x.e = some (i, d)) (hj : d.j = j) (hpc : x.pc ≠ d.rejoin) :
    regangOn j.toNat x s g = .fault s 0x18 0 0 := by
  simp only [regangOn, ht, hj, if_true]
  rw [if_pos hpc]

/-- The first path's arrival runs the parked path. -/
theorem regangOn_first (s : State) (ht : topEntry g x.e = some (i, d)) (hj : d.j = j) (hpc : x.pc = d.rejoin)
    (hd : d.join = false) : regangOn j.toNat x s g = .flow (x.put s
      ((({ g with dstack := g.dstack.set i { d with arrived := sliceMask x.sl, join := true } } : Group).modSplit x.e
        fun p => { p with mask := d.mask }).setPc (maskSlices d.mask) d.pc)) := by
  simp [regangOn, ht, hj, hpc, hd]

/-- Where the top entry does not hold the stream back, REGANG goes on to J[j]. -/
theorem regangOn_eq_joinOn (s : State) (ha : atJoin x g j = some (h, m)) : regangOn j.toNat x s g = joinOn j x s h m := by
  have hj3 : BitVec.ofNat 3 j.toNat = j := by simp
  unfold atJoin at ha
  dsimp only at ha
  split at ha
  next ht =>
    cases ha
    simp only [regangOn, ht, hj3]
    rfl
  next i d ht =>
    split at ha
    next hj =>
      cases ha
      have hj' : ¬ d.j.toNat = j.toNat := fun h => hj (BitVec.eq_of_toNat_eq h)
      simp only [regangOn, ht, hj3, hj', if_false]
      rfl
    next hj =>
      split at ha
      next hpop =>
        obtain ⟨hpc, hd⟩ := hpop
        cases ha
        simp only [regangOn, ht, hj3, not_not.mp hj, if_true]
        rw [if_neg (not_not.mpr hpc), if_neg (by simp [hd])]
        rfl
      next => cases ha

variable {r : Rejoin} (s : State) (hr : h.j.getD j.toNat ⟨false, 0, 0⟩ = r)
include hr

theorem joinOn_mismatch (hv : r.valid = true) (hm : m &&& r.mask ≠ 0)
    (hd : m &&& r.mask ≠ m ∨ x.pc.extractLsb' 2 55 ≠ r.pc) : joinOn j x s h m = .fault s 0x18 0 0 := by
  subst hr
  rw [joinOn, if_pos ⟨hv, hm⟩, if_pos hd]

/-- A stream that J[j] holds comes to its address: it waits, or is the one whose loops differ. -/
theorem joinOn_comes (hv : r.valid = true) (hm : m &&& r.mask ≠ 0) (hsub : m &&& r.mask = m)
    (hpc : x.pc.extractLsb' 2 55 = r.pc) : joinOn j x s h m =
    let p := waitingOn x h j m
    if waitUnion p j.toNat = r.mask ∧ ¬ loopsEqual p r.mask = true then .fault s 0x19 0 0
    else .flow (x.put s (if mergeDue p j.toNat then merge p j.toNat else p)) := by
  subst hr
  rw [joinOn, if_pos ⟨hv, hm⟩, if_neg fun h => h.elim (· hsub) (· hpc)]

theorem joinOn_nothing (hi : x.inH = false) (hn : ¬ (r.valid = true ∧ m &&& r.mask ≠ 0)) :
    joinOn j x s h m = .flow (x.put s (h.setPc (maskSlices m) (x.pc + 4))) := by
  subst hr
  rw [joinOn, if_neg hn, hi]
  rfl

end

theorem runsAs_regang (y : Bool) (j : BitVec 3) : runsAs (.regang y j) (howCtl (.regang y j) true) (semRegang j) := fun _ => rfl

theorem semRegang_refilled {j : BitVec 3} {x : Ctx} {s v : State} {g : Group} (h : refill x 4096 s x.g = .ok v g) :
    semRegang j x s = regangOn j.toNat x v g := by
  rw [semRegang, h]; rfl

/-! ### EXIT (R350, R367) -/

/-- What EXIT of the slices of m leaves of a J register (R350). -/
def leftRejoin (m : BitVec 16) (r : Rejoin) : Rejoin :=
  if r.valid ∧ r.mask &&& ~~~m ≠ 0 then { r with mask := r.mask &&& ~~~m } else if r.valid then ⟨false, 0, 0⟩ else r

theorem removeSlices_j (g : Group) (m : BitVec 16) : (removeSlices g m).j = g.j.map (leftRejoin m) := rfl

theorem and_not_and (a m : BitVec 16) : a &&& ~~~m &&& m = 0 := by
  simp [BitVec.and_assoc]

/-- A mask that shares nothing with m is as it was without m. -/
theorem and_not_eq_self_iff (a m : BitVec 16) : a = a &&& ~~~m ↔ a &&& m = 0 := by
  constructor
  · intro h
    rw [h]
    exact and_not_and a m
  · intro h
    ext i hi
    have hbit : (a &&& m)[i] = false := by rw [h]; simp
    rw [BitVec.getElem_and] at hbit ⊢
    cases ha : a[i] <;> simp_all

theorem leftRejoin_valid {m : BitVec 16} {r : Rejoin} (h : (leftRejoin m r).valid = true) :
    r.valid = true ∧ r.mask &&& ~~~m ≠ 0 ∧ (leftRejoin m r).mask = r.mask &&& ~~~m := by
  unfold leftRejoin at h ⊢
  split at h
  next hr => rw [if_pos hr]; exact ⟨hr.1, hr.2, rfl⟩
  next =>
    split at h
    · cases h
    next hv => exact absurd h hv

theorem leftRejoin_of_left {m : BitVec 16} {r : Rejoin} (hv : r.valid = true) (hk : r.mask &&& ~~~m ≠ 0) :
    leftRejoin m r = { r with mask := r.mask &&& ~~~m } := if_pos ⟨hv, hk⟩

/-- The slices that EXIT removes are in no J register and in no entry, and what is left is not empty (R350). -/
theorem removeSlices_leaves (g : Group) (m : BitVec 16) :
    (∀ r ∈ (removeSlices g m).j, r.valid = true → r.mask &&& m = 0 ∧ r.mask ≠ 0) ∧
    ∀ d ∈ (removeSlices g m).dstack, d.mask &&& m = 0 ∧ d.arrived &&& m = 0 ∧ (d.mask ≠ 0 ∨ d.arrived ≠ 0) := by
  constructor
  · intro r hr hv
    obtain ⟨a, -, rfl⟩ := List.mem_map.mp (removeSlices_j g m ▸ hr)
    obtain ⟨-, hk, hmask⟩ := leftRejoin_valid hv
    rw [hmask]
    exact ⟨and_not_and .., hk⟩
  · intro d hd
    obtain ⟨hd, hleft⟩ := List.mem_filter.mp hd
    obtain ⟨a, -, rfl⟩ := List.mem_map.mp hd
    exact ⟨and_not_and .., and_not_and .., of_decide_eq_true hleft⟩

/-- EXIT of the slices of m would complete a merge of streams whose loops differ (R349, R350). -/
def exitClash (g : Group) (m : BitVec 16) : Bool :=
  (List.range 8).any fun n =>
    match g.j[n]?, (removeSlices g m).j[n]? with
    | some a, some b => a.valid && b.valid && decide (a.mask ≠ b.mask) && decide (waitUnion g n = b.mask)
        && !loopsEqual g b.mask
    | _, _ => false

theorem exitClash_iff (g : Group) (m : BitVec 16) : exitClash g m = true ↔
    ∃ n a, n < 8 ∧ exitMerges g m n a ∧ loopsEqual g (a.mask &&& ~~~m) = false := by
  simp only [exitClash, List.any_eq_true, List.mem_range, removeSlices_j, List.getElem?_map, exitMerges]
  refine exists_congr fun n => ?_
  cases hn : g.j[n]? with
  | none => simp
  | some a =>
    simp only [Option.map_some, Option.some.injEq, Bool.and_eq_true, decide_eq_true_eq, Bool.not_eq_true']
    constructor
    · rintro ⟨hlt, ⟨⟨⟨hv, hb⟩, hne⟩, hu⟩, hl⟩
      obtain ⟨-, hk, hmask⟩ := leftRejoin_valid hb
      rw [hmask] at hne hu hl
      exact ⟨a, hlt, ⟨rfl, hv, fun h0 => hne ((and_not_eq_self_iff ..).mpr h0), hk, hu⟩, hl⟩
    · rintro ⟨_, hlt, ⟨rfl, hv, hm, hk, hu⟩, hl⟩
      rw [leftRejoin_of_left hv hk]
      exact ⟨hlt, ⟨⟨⟨hv, hv⟩, fun h => hm ((and_not_eq_self_iff ..).mp h)⟩, hu⟩, hl⟩

/-- The top pending entry of stream e: where it stands, and the entry (R367). -/
def pendingEntry (g : Group) (e : Nat) : Option (DivEntry × Nat) :=
  g.dstack.zipIdx.find? fun p => decide (p.1.owner.toNat = e) && !p.1.join

/-- The group r once the stream's slices have left it: the stream runs its pending path, or its entry ends (R367). -/
def afterExit (x : Ctx) (r : Group) : Group :=
  match pendingEntry r x.e with
  | some (d, i) => (({ r with dstack := r.dstack.set i { d with join := true, arrived := 0 } } : Group).modSplit x.e
      fun p => { p with mask := d.mask }).setPc (maskSlices d.mask) d.pc
  | none => r.modSplit x.e fun _ => Split.none

theorem afterExit_ends {x : Ctx} {r : Group} (h : ∀ d ∈ r.dstack, d.owner.toNat = x.e → d.join = true) :
    afterExit x r = r.modSplit x.e fun _ => Split.none := by
  have hnone : pendingEntry r x.e = none := List.find?_eq_none.mpr fun p hp => by
    simpa using h p.1 (List.fst_mem_of_mem_zipIdx hp)
  rw [afterExit, hnone]

theorem afterExit_runs_pending {x : Ctx} {r : Group} {i : Nat} {d : DivEntry} (hi : r.dstack[i]? = some d)
    (ho : d.owner.toNat = x.e) (hj : d.join = false)
    (hb : ∀ k q, k < i → r.dstack[k]? = some q → q.owner.toNat = x.e → q.join = true) :
    afterExit x r = (({ r with dstack := r.dstack.set i { d with join := true, arrived := 0 } } : Group).modSplit x.e
      fun p => { p with mask := d.mask }).setPc (maskSlices d.mask) d.pc := by
  obtain ⟨hlt, hd⟩ := List.getElem?_eq_some_iff.mp hi
  have hsome : pendingEntry r x.e = some (d, i) := by
    refine List.find?_eq_some_iff_getElem.mpr ⟨by simp [ho, hj], i, by simpa using hlt, by simp [hd], fun k hk => ?_⟩
    simpa [imp_iff_not_or] using hb k r.dstack[k] hk (List.getElem?_eq_getElem _)
  rw [afterExit, hsome]

/-- EXIT outside a handler, the stack refilled: a clash of loops, or the refill of what is left and its effect. -/
theorem exitOn_eq (x : Ctx) (s : State) (g : Group) : exitOn x s g =
    if exitClash g (sliceMask x.sl) then .fault s 0x19 0 0
    else (refill x 4096 s (removeSlices g (sliceMask x.sl))).andThen s x 2 fun s r =>
      .flow (x.put s (mergeAll (afterExit x r))) := rfl

theorem land_team (g : Group) (l : List Pending) : (l.foldl Group.land g).team = g.team := by
  induction l generalizing g with
  | nil => rfl
  | cons p l ih =>
    refine (ih (g.land p)).trans ?_
    rw [Group.land, Group.raise, (registersOnly_writes g p.writes).eq]

theorem waited_team (how : IssueHow) (x : Ctx) : (waited how x).g.team = x.g.team := by
  unfold waited
  split
  · exact land_team ..
  · rfl

theorem settleAfter_next {s : State} {tu : Nat} (t : State)
    (h : (s.cur.bind fun c => (kget s.groups c.1).map (·.team)) = some tu) : settleAfter s (.next t) = .next (settle t tu) := by
  unfold settleAfter
  rw [h]

/-- How EXIT issues: it is a compare point of paired execution (R367, R379). -/
def howExit (y : Bool) : IssueHow := { howCtl (.exit y) true with compare := fun _ => true }

/-- The outcome of EXIT: that of its meaning, with the team settled (R59). -/
theorem exec_exit {y : Bool} {s t : State} {x : Ctx} (hs : issues (howExit y) s x = true)
    (h : outcome (howExit y) (waited (howExit y) x) (semExit (waited (howExit y) x) (waitedState (howExit y) x s)) = .next t) :
    exec (.exit y) s = .next (settle t (waited (howExit y) x).g.team) := by
  obtain ⟨c, hcur, hc⟩ := Option.bind_eq_some_iff.mp (ctx_of_issues hs)
  obtain ⟨-, -, hg, -⟩ := ctxOf_some hc
  have hteam : (s.cur.bind fun c => (kget s.groups c.1).map (·.team)) = some x.g.team := by simp [hcur, hg]
  have hexec : exec (.exit y) s = settleAfter s (issue (howExit y) semExit s) := rfl
  rw [hexec, issue_eq _ hs, h, settleAfter_next t hteam, waited_team]

section
variable {x : Ctx} {s v : State} {g : Group}

theorem semExit_handler (s : State) (h : x.inH = true) : semExit x s = .fault s 0x30 0 0 := by
  rw [semExit, if_pos h]

theorem semExit_outside (s : State) (h : x.inH = false) :
    semExit x s = (refill x 4096 s x.g).andThen s x 2 (exitOn x) := by
  rw [semExit, if_neg (by simp [h])]

end

/-- EXIT in a handler, with the stack full or unread, with a clash of loops, and where the stream leaves (R350, R354, R367). -/
theorem exit_completes (y : Bool) {s : State} {x : Ctx} (v : State) (hs : issues (howExit y) s x = true) :
    let z := waited (howExit y) x
    let t := waitedState (howExit y) x s
    let m := sliceMask z.sl
    (z.inH = true → exec (.exit y) s = .next (settle (streamFault t z 0x30 0 0) z.g.team)) ∧
    (z.inH = false → refill z 4096 t z.g = .trap v → exec (.exit y) s = .next (settle (takeTrap v z.uid z.e
      { cause := 4, detail := 2, faddr := 0, fmask := laneMask z.lanes, need := [] }) z.g.team)) ∧
    (z.inH = false → refill z 4096 t z.g = .fault v → exec (.exit y) s = .next (settle (streamFault v z 0x32 1 0) z.g.team)) ∧
    ∀ g, z.inH = false → refill z 4096 t z.g = .ok v g →
      (exitClash g m = true → exec (.exit y) s = .next (settle (streamFault v z 0x19 0 0) z.g.team)) ∧
      (exitClash g m = false → ∀ w r, refill z 4096 v (removeSlices g m) = .ok w r →
        exec (.exit y) s = .next (settle (afterFlow (howExit y) z (z.put w (mergeAll (afterExit z r)))) z.g.team)) := by
  intro z t m
  refine ⟨fun hi => exec_exit hs ?_, fun hi hr => exec_exit hs ?_, fun hi hr => exec_exit hs ?_, fun g hi hr =>
    ⟨fun hc => exec_exit hs ?_, fun hc w r hw => exec_exit hs ?_⟩⟩
  · rw [semExit_handler _ hi]; rfl
  · rw [semExit_outside _ hi, hr]; rfl
  · rw [semExit_outside _ hi, hr]; rfl
  · rw [semExit_outside _ hi, hr, Refill.andThen, exitOn_eq, if_pos hc]; rfl
  · rw [semExit_outside _ hi, hr, Refill.andThen, exitOn_eq, if_neg (Bool.eq_false_iff.mp hc), hw]; rfl

/-- Settles O28: each clause is the case of refill, REGANG, EXIT or SPLITQ that it names. -/
theorem rejoiningCompletes : Obligations.rejoining_completes := by
  refine ⟨fun x n s g => ⟨refill_done n s, fun ht hs => refill_full ht hs n s, fun r miss v ht hs hroom hc =>
      ⟨refill_read_fails ht hs hroom n hc, fun pa leaf hr haw => ?_⟩⟩, fun y j => ⟨?_, ?_, ?_, ?_⟩, removeSlices_leaves, ?_,
    fun y d => writesNow_of_writesAs fun _ => rfl⟩
  · subst hr
    exact ⟨refill_refused ht hs hroom hc haw n, fun hr hp l hit w => refill_reads ht hs hroom hc haw n hr hp⟩
  · intro s x v hs z
    have hexec := exec_of_runsAs (runsAs_regang y j) hs
    refine ⟨fun hr => ?_, fun hr => ?_, fun g hr => ⟨fun i d ht hj hpc => ?_, fun h m ha => ?_⟩⟩
    · rw [hexec, semRegang, hr]; rfl
    · rw [hexec, semRegang, hr]; rfl
    · rw [hexec, semRegang_refilled hr, regangOn_rejoin_mismatch v ht hj hpc]; rfl
    · intro r p hv hm
      rw [hexec, semRegang_refilled hr, regangOn_eq_joinOn v ha]
      refine ⟨fun hd => ?_, fun hsub hpc hu hl => ?_⟩
      · rw [joinOn_mismatch v rfl hv hm hd]; rfl
      · rw [joinOn_comes v rfl hv hm hsub hpc, if_pos ⟨hu, Bool.eq_false_iff.mp hl⟩]; rfl
  · refine flowsTo_of_flow (runsAs_regang y j) fun x s u ⟨v, g, i, d, hr, ht, hj, hpc, hd, hu⟩ => ?_
    rw [semRegang_refilled hr, regangOn_first v ht hj hpc hd, hu]
  · refine flowsTo_of_flow (runsAs_regang y j) fun x s u ⟨v, g, h, m, hr, ha, hi, hn, hu⟩ => ?_
    rw [semRegang_refilled hr, regangOn_eq_joinOn v ha, joinOn_nothing v rfl hi hn, hu]
  · refine flowsTo_of_flow (runsAs_regang y j) fun x s u ⟨v, g, h, m, hr, ha, hv, hm, hsub, hpc, hl, hu⟩ => ?_
    rw [semRegang_refilled hr, regangOn_eq_joinOn v ha, joinOn_comes v rfl hv (hsub.symm ▸ hm) hsub hpc,
      if_neg fun hn => hn.2 (hl hn.1), hu]
    rfl
  · intro y s x v how hs z t m
    obtain ⟨hhandler, htrap, hfault, hok⟩ := exit_completes y v hs
    refine ⟨hhandler, htrap, hfault, fun g hi hr => ?_⟩
    obtain ⟨hclash, hleaves⟩ := hok g hi hr
    refine ⟨fun n a hn ha hl => hclash ((exitClash_iff g m).mpr ⟨n, a, hn, ha, hl⟩), fun hall w r hw => ?_⟩
    have hno : exitClash g m = false := by
      refine Bool.eq_false_iff.mpr fun hc => ?_
      obtain ⟨n, a, hn, ha, hl⟩ := (exitClash_iff g m).mp hc
      rw [hall n a hn ha] at hl
      cases hl
    have hexec {q : Group} (hq : afterExit z r = q) :
        exec (.exit y) s = .next (settle (afterFlow how z (z.put w (mergeAll q))) z.g.team) := hq ▸ hleaves hno w r hw
    exact ⟨fun hn => hexec (afterExit_ends hn), fun i d hi ho hj hb => hexec (afterExit_runs_pending hi ho hj hb)⟩

end Sys2Proof.Proofs
end

section
/-! LOOP, LOOPI and LEAVE: the loops that are entered, skipped and left (R385 to R390). -/

namespace Sys2Proof.Proofs

open Sys2Proof.Machine Sys2Proof.Safety

section
variable {x : Ctx} {s v u : State} {w : Word}

/-- A loop whose body may end at w is entered or skipped by the count that all slices give (R387). -/
theorem semLoop_loops {stop : Ctx → DWord} {cnt : Ctx → Nat → Word} (hf : x.fetch s (stop x).toNat = (.ok w, v))
    (h : loops x w (stop x) (cnt x) v u) : semLoop stop cnt x s = .flow u := by
  obtain ⟨hi, ⟨hclass, hnop⟩, hslices, hu⟩ := h
  have hends : ¬ (wordOp w / 32 = 7 ∨ (wordOp w / 32 = 0 ∧ wordOp w ≠ 0)) := fun hw =>
    hw.elim hclass fun ⟨hz, hne⟩ => hne (hnop hz)
  have hroom : (x.sl.any fun k => decide (4 ≤ (x.g.slice k).loops.length)) = false := by
    simpa using fun k hk => (hslices k hk).1
  have hcounts : (x.sl.all fun k => decide (cnt x k = cnt x x.low)) = true := by
    simpa using fun k hk => (hslices k hk).2
  simp only [semLoop, hi, hf, hends, hroom, hcounts, Bool.false_eq_true, Bool.not_true, if_false]
  rw [hu]
  split <;> rfl

theorem semLeave_handler (s : State) (hi : x.inH = true) : semLeave x s = .fault s 0x10 0 0 := by
  rw [semLeave, if_pos hi]

theorem semLeave_without (s : State) (hi : x.inH = false) (hn : ∀ k ∈ x.sl, (x.g.slice k).loops = []) :
    semLeave x s = .done s := by
  have hnone : (x.sl.all fun k => (x.g.slice k).loops.head?.isNone) = true := by simpa using hn
  simp only [semLeave, hi, hnone, Bool.false_eq_true, if_false, if_true]

/-- Slices that stand in one loop leave it, past its last instruction (R390). -/
theorem semLeave_pops {e : LoopEntry} (hi : x.inH = false) (hne : x.sl ≠ [])
    (he : ∀ k ∈ x.sl, (x.g.slice k).loops.head? = some e) (hf : x.fetch s e.stop.toNat = (.ok w, v)) :
    semLeave x s = .flow (x.put v (x.g.modSlices x.sl fun _ q =>
      { q with loops := q.loops.tail, pc := e.stop + BitVec.ofNat 64 (wordBytes w) })) := by
  have hlow : (x.g.slice x.low).loops.head? = some e := he _ (low_mem hne)
  have hsome : (x.sl.all fun k => (x.g.slice k).loops.head?.isNone) = false :=
    List.all_eq_false.mpr ⟨x.low, low_mem hne, by simp [hlow]⟩
  have hsame : (x.sl.all fun k => decide ((x.g.slice k).loops.head? = (x.g.slice x.low).loops.head?)) = true :=
    List.all_eq_true.mpr fun k hk => by rw [he k hk, hlow]; exact decide_eq_true rfl
  simp only [semLeave, hi, hsome, hsame, Bool.false_eq_true, Bool.not_true, if_false]
  simp only [hlow, hf]

/-- Slices with different innermost loops do not leave together. -/
theorem semLeave_differ (s : State) (hi : x.inH = false)
    (hd : ∃ k ∈ x.sl, ∃ k' ∈ x.sl, (x.g.slice k).loops.head? ≠ (x.g.slice k').loops.head?) :
    semLeave x s = .fault s 0x13 0 0 := by
  obtain ⟨k, hk, k', hk', hne⟩ := hd
  have hsome : (x.sl.all fun k => (x.g.slice k).loops.head?.isNone) = false := by
    refine Bool.eq_false_iff.mpr fun hall => hne ?_
    have hnone (j : Nat) (hj : j ∈ x.sl) := Option.isNone_iff_eq_none.mp (List.all_eq_true.mp hall j hj)
    rw [hnone k hk, hnone k' hk']
  have hdiffer : (x.sl.all fun k => decide ((x.g.slice k).loops.head? = (x.g.slice x.low).loops.head?)) = false := by
    refine Bool.eq_false_iff.mpr fun hall => hne ?_
    have hlow (j : Nat) (hj : j ∈ x.sl) := of_decide_eq_true (List.all_eq_true.mp hall j hj)
    exact (hlow k hk).trans (hlow k' hk').symm
  simp only [semLeave, hi, hsome, hdiffer, Bool.false_eq_true, Bool.not_false, if_false, if_true]

end

theorem runsAs_leave (y : Bool) : runsAs (.leave y) (howCtl (.leave y) y) semLeave := fun _ => rfl

/-- Settles O29: each clause is the case of the loop's or LEAVE's meaning that it names. -/
theorem loopsComplete : Obligations.loops_complete := by
  refine ⟨fun y a off w v => ?_, fun y c off w v => ?_, fun y => ?_, fun y e w v => ?_, fun y => ?_, fun y => ?_⟩
  · exact flowsTo_of_flow (runsAs_loop (.inl ⟨y, a, off, rfl, rfl, rfl, rfl⟩)) fun x s u ⟨hf, hl⟩ => semLoop_loops hf hl
  · exact flowsTo_of_flow (runsAs_loop (.inr ⟨y, c, off, rfl, rfl, rfl, rfl⟩)) fun x s u ⟨hf, hl⟩ => semLoop_loops hf hl
  · exact goesOn_of_done (runsAs_leave y) fun x s u ⟨hi, hn, hu⟩ => hu ▸ semLeave_without s hi hn
  · exact flowsTo_of_flow (runsAs_leave y) fun x s u ⟨hi, hne, he, hf, hu⟩ => hu ▸ semLeave_pops hi hne he hf
  · exact faultsWith_of_fault (runsAs_leave y) fun x s hi => semLeave_handler s hi
  · exact faultsWith_of_fault (runsAs_leave y) fun x s ⟨hi, hd⟩ => semLeave_differ s hi hd

end Sys2Proof.Proofs
end

section
/-! SYSGET and SYSPUT: the management registers that handlers reach (R410, R411). -/

namespace Sys2Proof.Proofs

open Sys2Proof.Machine Sys2Proof.Safety

theorem mgmtNumber_eq (w : ExtArgs) (f : BitVec 11) : mgmtNumber w f =
    match w.lit with
    | some v => if v.toNat % 2 ^ 32 ≤ 21 then some (v.toNat % 2 ^ 32) else none
    | none => if f.toNat ≤ 21 then some f.toNat else none := by
  unfold mgmtNumber
  cases w.lit <;> simp only [Nat.lt_succ_iff]

theorem handlerRead_other (s : State) (c : Nat) {n : Nat} (h : n ∉ [0, 1, 2, 3, 4, 9]) : handlerRead s c n = none := by
  unfold handlerRead
  split
  case h_7 => rfl
  all_goals simp at h

section
variable {w : ExtArgs} {x : Ctx} {s : State} {n : Nat}

/-! ### SYSGET -/

theorem semSysget_outside (s : State) (hi : x.inH = false) : semSysget w x s = .fault s 0x11 0 0 := by
  simp [semSysget, hi]

theorem semSysget_reserved (s : State) (hi : x.inH = true) (hn : mgmtNumber w w.a = none) :
    semSysget w x s = .fault s 0x10 9 0 := by
  simp [semSysget, hi, hn]

theorem semSysget_privileged (hi : x.inH = true) (hn : mgmtNumber w w.a = some n) (hr : handlerRead s x.core n = none) :
    semSysget w x s = .fault s 0x11 0 0 := by
  simp [semSysget, hi, hn, hr]

theorem semSysget_reads {v : Word} (hi : x.inH = true) (hn : mgmtNumber w w.a = some n)
    (hr : handlerRead s x.core n = some v) :
    semSysget w x s = .done (x.put s (x.g.writes (x.sl.flatMap fun k => x.ws k w.d.toNat v))) := by
  simp only [semSysget, hi, hn, hr, Bool.not_true, Bool.false_eq_true, if_false]
  rfl

/-! ### SYSPUT -/

theorem semSysput_outside (s : State) (hi : x.inH = false) : semSysput w x s = .fault s 0x11 0 0 := by
  simp [semSysput, hi]

theorem semSysput_reserved (s : State) (hi : x.inH = true) (hn : mgmtNumber w w.d = none) :
    semSysput w x s = .fault s 0x10 9 0 := by
  simp [semSysput, hi, hn]

theorem semSysput_privileged (s : State) (hi : x.inH = true) (hn : mgmtNumber w w.d = some n) (hne : n ≠ 8) :
    semSysput w x s = .fault s 0x11 0 0 := by
  simp [semSysput, hi, hn, hne]

/-- HNOTE takes the value v, and the host hears of it (R410). -/
def noted (v : Word) (s : State) : State :=
  tellHost { s with mgmt := { s.mgmt with hnote := v } } "hnote" [v.toNat]

/-- SYSPUT of HNOTE notes its operand after what its team holds. -/
theorem semSysput_hnote (hi : x.inH = true) (hn : mgmtNumber w w.d = some 8) :
    semSysput w x s = afterHeld x s fun t => .done (noted (x.s x.low w.a.toNat) t) := by
  simp only [semSysput, hi, hn, Bool.not_true, Bool.false_eq_true, if_false, ne_eq, not_true_eq_false]
  rfl

end

/-! ### What a paired team holds (R377, R411) -/

/-- The twin's group of the stream stands at the stream's own address in its handler. -/
def twinThere (x : Ctx) (s : State) (p v : Nat) : Bool :=
  (twinGroup s (if p = x.g.team then v else p) x.g.gid).any fun y => decide (y.2.handler.map (·.pc) = x.g.handler.map (·.pc))

section
variable {x : Ctx} {s : State} (f : State → Res)

theorem afterHeld_nothing (h : pairOf s x.g.team = none ∨ x.t.held = []) : afterHeld x s f = f s := by
  unfold afterHeld
  split
  · rfl
  next p v hp =>
    rcases h with hn | hh
    · rw [hn] at hp; cases hp
    · rw [hh]; rfl

/-- A team of a pair that holds writes waits for its twin, and is compared with it. -/
theorem afterHeld_pair {p v : Nat} (hp : pairOf s x.g.team = some (p, v)) (hh : x.t.held ≠ []) : afterHeld x s f =
    if twinThere x s p v then
      if sigsEqual s p v then f (comparePair s p v)
      else .stall (mismatchPair s p v (((twinGroup s p x.g.gid).map (·.1)).getD x.uid) x.e 0)
    else .stall s := by
  have hheld : x.t.held.isEmpty = false := List.isEmpty_eq_false_iff.mpr hh
  simp only [afterHeld, hp, hheld, Bool.false_eq_true, if_false]
  rfl

end

/-- Settles O45: each clause is the case of SYSGET's or SYSPUT's meaning that it names. -/
theorem managementRegistersComplete : Obligations.management_registers_complete := by
  refine ⟨inForms3_of_sem semSysget (fun _ _ => rfl) (fun _ _ _ => rfl) (fun _ _ => rfl) fun i how w hi n v => ?get,
    inForms3_of_sem semSysput (fun _ _ => rfl) (fun _ _ _ => rfl) (fun _ _ => rfl) fun i how w hi => ?put,
    inForms3_of_sem semSysput (fun _ _ => rfl) (fun _ _ _ => rfl) (fun _ _ => rfl) fun i how w hi p v =>
      ⟨?putWaits, ?putDiffers, ?putCompares⟩,
    inForms3_of_sem semSysget (fun _ _ => rfl) (fun _ _ _ => rfl) (fun _ _ => rfl) fun i how w hi => ⟨?_, ?_, ?_⟩,
    inForms3_of_sem semSysput (fun _ _ => rfl) (fun _ _ _ => rfl) (fun _ _ => rfl) fun i how w hi => ⟨?_, ?_, ?_⟩,
    mgmtNumber_eq, fun s c => ⟨rfl, rfl, rfl, rfl, rfl, rfl, fun n => handlerRead_other s c⟩⟩
  case get => exact goesOn_of_done hi fun x s u ⟨hh, hn, hr, hu⟩ => hu ▸ semSysget_reads hh hn hr
  case put =>
    refine goesOn_of_done hi fun x s u ⟨hh, hn, hheld, hu⟩ => ?_
    rw [semSysput_hnote hh hn, afterHeld_nothing _ hheld, hu]
    rfl
  case putWaits =>
    refine waitsWhile_of_stall hi fun x s ⟨hh, hn, hp, hheld, (hthere : twinThere x s p v = false)⟩ => ?_
    rw [semSysput_hnote hh hn, afterHeld_pair _ hp hheld, hthere]
    rfl
  case putDiffers =>
    refine stopsAt_of_res hi fun x s r ⟨hh, hn, hp, hheld, (hthere : twinThere x s p v = true), heq, hr⟩ => ?_
    rw [semSysput_hnote hh hn, afterHeld_pair _ hp hheld, hthere, heq, hr]
    rfl
  case putCompares =>
    refine goesOn_of_done hi fun x s u ⟨hh, hn, hp, hheld, (hthere : twinThere x s p v = true), heq, hu⟩ => ?_
    rw [semSysput_hnote hh hn, afterHeld_pair _ hp hheld, hthere, heq, hu]
    rfl
  · exact faultsWith_of_fault hi fun x s hh => semSysget_outside s hh
  · exact faultsWith_of_fault hi fun x s ⟨hh, hn⟩ => semSysget_reserved s hh hn
  · exact faultsWith_of_fault hi fun x s ⟨hh, n, hn, hr⟩ => semSysget_privileged hh hn hr
  · exact faultsWith_of_fault hi fun x s hh => semSysput_outside s hh
  · exact faultsWith_of_fault hi fun x s ⟨hh, hn⟩ => semSysput_reserved s hh hn
  · exact faultsWith_of_fault hi fun x s ⟨hh, n, hn, hne⟩ => semSysput_privileged s hh hn hne

end Sys2Proof.Proofs
end

section
/-! Barriers: BINIT, BARV, BARVX and BTEST (R391 to R395). -/

namespace Sys2Proof.Proofs

open Sys2Proof.Machine Sys2Proof.Safety

/-! ### Where a barrier object lies, and where its read stops (R392) -/

section
variable {x : Ctx} {s : State} {word : Word} (sc : Option Nat)

theorem barrierAt_word (s : State) (hb : word.getLsbD 31 = false) (h : 2 ^ 19 ≤ word.toNat ∨ word.toNat % 8 ≠ 0) :
    barrierAt x s word sc = .stop (.fault s 0x24 0 0) := by
  unfold barrierAt
  rw [hb]
  exact if_pos h

theorem barrierAt_local (hb : word.getLsbD 31 = false) (hr : word.toNat < 2 ^ 19) (ha : word.toNat % 8 = 0) :
    barrierAt x s word sc = if x.gr.launch.localSize < word.toNat + 16 then .stop (.fault s 0x21 0 0)
      else .ok (.loc word.toNat, barrierOf (readN x.t.mem word.toNat 16)) s := by
  unfold barrierAt
  rw [hb]
  have hword : ¬ (2 ^ 19 ≤ word.toNat ∨ word.toNat % 8 ≠ 0) := by omega
  exact if_neg hword

/-- The address of a barrier object in memory (R391). -/
def barrierVa (x : Ctx) (word : Word) : Nat := (x.gr.launch.params.toNat + 16 * (word.toNat % 2 ^ 31)) % 2 ^ 64

/-- What a barrier object needs of its page before its scope is known. -/
def needBarrier : Need := { r := true, w := true, x := false, scope := none, atom := some 0 }

section
variable {c : Checked} {miss : Nat} {u : State} (hb : word.getLsbD 31 = true)
include hb

theorem barrierAt_fault {k d a : Nat}
    (hc : checkAccesses s x.core x.gr.space false needBarrier 16 [(x.low, barrierVa x word)] = (.fault k d a, miss, u)) :
    barrierAt x s word sc = .stop (.fault (x.count u 11 miss) k d (BitVec.ofNat 64 a)) := by
  unfold needBarrier barrierVa at hc
  simp only [barrierAt, hb, hc, Bool.not_true, Bool.false_eq_true, if_false]

/-- A page fault takes trap 1 on all lanes of the stream. -/
theorem barrierAt_page {ks : List Nat} {b : Nat}
    (hc : checkAccesses s x.core x.gr.space false needBarrier 16 [(x.low, barrierVa x word)] = (.page ks b, miss, u)) :
    barrierAt x s word sc = .stop (.trap (x.count u 11 miss)
      { cause := 1, detail := 0, faddr := BitVec.ofNat 64 b, fmask := laneMask x.lanes, need := [] }) := by
  unfold needBarrier barrierVa at hc
  simp only [barrierAt, hb, hc, Bool.not_true, Bool.false_eq_true, if_false]

/-- A page that does not admit the scope to check, the object's own where it is none. -/
theorem barrierAt_scope {pa : Nat} {leaf : DWord}
    (hc : checkAccesses s x.core x.gr.space false needBarrier 16 [(x.low, barrierVa x word)] = (.ok [(pa, leaf)], miss, u))
    (hclass : let v := x.count u 11 miss
      classOk v.pkg (some (dieOfCore x.core)) (leafCls leaf) pa { needBarrier with
        scope := some (sc.getD (barrierOf (ofBytes (overlay x.t.held pa (readList v.mem pa 16)))).scope) } = false) :
    barrierAt x s word sc = .stop (.fault (x.count u 11 miss) 0x22 3 (BitVec.ofNat 64 (barrierVa x word))) := by
  unfold needBarrier barrierVa at hc
  unfold needBarrier at hclass
  simp only at hclass
  simp only [barrierAt, hb, hc, hclass, List.headD_cons, Bool.not_true, Bool.not_false, Bool.false_eq_true, if_false, if_true]
  rfl

end
end

/-! ### Arrivals (R393) -/

/-- An arrival that brings both counts to zero or below flips the phase and starts the next one. -/
theorem arrive_flips (b : Barrier) {da dt : Int} (ha : sat32 (b.arr - da) ≤ 0) (ht : sat32 (b.tx + dt) ≤ 0) :
    (b.arrive da dt).phase = !b.phase ∧ (b.arrive da dt).arr = b.expa ∧ (b.arrive da dt).tx = 0 := by
  simp only [Barrier.arrive, ha, ht, and_self, if_true]

/-! ### The meanings, case by case -/

/-- The lowest bit of a parity that is 0 or 1. -/
theorem getLsbD_zero_of_le_one {p : Word} (hp : p.toNat ≤ 1) : p.getLsbD 0 = decide (p.toNat = 1) := by
  rw [BitVec.getLsbD, Nat.testBit_zero, Nat.mod_eq_of_lt (by omega)]

/-- BINIT's value gives an expected count of 1 to 65535 and a scope (R394). -/
def binitOk (n : Nat) : Prop := n % 2 ^ 16 ≠ 0 ∧ n / 2 ^ 16 % 8 ≠ 7 ∧ n < 2 ^ 19

/-- The object that BINIT writes. -/
def binitObject (n : Nat) : Barrier :=
  { arr := ((n % 2 ^ 16 : Nat) : Int), tx := 0, expa := n % 2 ^ 16, scope := n / 2 ^ 16 % 8, phase := false, past := false }

/-- What BINIT makes of the object's place (R394). -/
def binitWrite (x : Ctx) (b : Barrier) (l : BarLoc) (v : State) : State :=
  match l with
  | .loc off => modTeam v x.g.team fun t => { t with mem := writeN t.mem off 16 b.toNat }
  | .mem va pa _ => x.write (x.write v (va + 8) (pa + 8) 8 (b.toNat / 2 ^ 64)) va pa 8 (b.toNat % 2 ^ 64)

section
variable {w : ExtArgs} {x : Ctx} (ha : x.active w ≠ [])
include ha

theorem semBinit_range (s : State) (hn : ¬ binitOk (x.bS w x.low).toNat) : semBinit w x s = .fault s 0x24 0 0 := by
  unfold binitOk at hn
  rw [semBinit, once_act w s _ ha, if_pos (by omega)]

theorem semBinit_reads (s : State) (hn : binitOk (x.bS w x.low).toNat) : semBinit w x s =
    (barrierAt x s (x.lowS w.a.toNat) (some ((x.bS w x.low).toNat / 2 ^ 16 % 8))).run fun q v =>
      .done (binitWrite x (binitObject (x.bS w x.low).toNat) q.1 v) := by
  obtain ⟨hcount, hscope, hrange⟩ := hn
  rw [semBinit, once_act w s _ ha, if_neg (by omega)]
  congr 1
  funext q v
  unfold binitWrite binitObject
  cases q.1 <;> rfl

section
variable (n : Nat) (da dt : Nat → Int)

theorem semArrive_range (s : State) (hn : n ≤ (x.bS w x.low).toNat) :
    semArrive (fun v => decide (v < n)) da dt w x s = .fault s 0x24 0 0 := by
  rw [semArrive, once_act w s _ ha, decide_eq_false (Nat.not_lt.mpr hn)]
  rfl

theorem semArrive_reads (s : State) (hn : (x.bS w x.low).toNat < n) : semArrive (fun v => decide (v < n)) da dt w x s =
    (barrierAt x s (x.lowS w.a.toNat) none).run fun q v =>
      .done (x.arrive v q.1 (da (x.bS w x.low).toNat) (dt (x.bS w x.low).toNat)) := by
  rw [semArrive, once_act w s _ ha, decide_eq_true hn]
  rfl

end

theorem semBtest_parity (s : State) (hp : 1 < (x.lowS w.b.toNat).toNat) : semBtest w x s = .fault s 0x24 0 0 := by
  rw [semBtest, once_act w s _ ha, if_pos hp]

theorem semBtest_reads (s : State) (hp : (x.lowS w.b.toNat).toNat ≤ 1) : semBtest w x s =
    (barrierAt x s (x.lowS w.a.toNat) none).run fun q v =>
      match barrierPoison v q.1 with
      | some d => .fault v 0x40 d 0
      | none =>
        let o := decide (q.2.phase ≠ decide ((x.lowS w.b.toNat).toNat = 1))
        let u := modGroup v x.uid fun g => g.writes (x.sl.flatMap fun k => x.wc k w.d.toNat o)
        .done (if o then acquire u x q.2.scope else u) := by
  rw [semBtest, once_act w s _ ha, getLsbD_zero_of_le_one hp]
  exact if_neg (Nat.not_lt.mpr hp)

end

section
variable {i : Instr} {how : IssueHow} {w : ExtArgs} {n : Nat} {da dt : Nat → Int}
  (hi : runsAs i how (semArrive (fun v => decide (v < n)) da dt w))
include hi

/-- BARV and BARVX take their counts from the object that they reach (R394). -/
theorem goesOn_arrive (q : BarLoc × Barrier) (v : State) : goesOn i how (onceTo w fun x s u =>
    (x.bS w x.low).toNat < n ∧ barrierAt x s (x.lowS w.a.toNat) none = .ok q v ∧
      u = x.arrive v q.1 (da (x.bS w x.low).toNat) (dt (x.bS w x.low).toNat)) := by
  refine goesOn_of_done hi fun x s u h => done_of_onceTo w h ⟨_, rfl⟩ fun ha ⟨hn, hread, hu⟩ => ?_
  rw [semArrive_reads ha n da dt s hn, hread, hu]
  rfl

/-- They stop at an operand that is out of its range, and where the object is not reached. -/
theorem stopsAt_arrive : stopsAt i how fun x s r => x.active w ≠ [] ∧
    ((r = .fault s 0x24 0 0 ∧ n ≤ (x.bS w x.low).toNat) ∨
      ((x.bS w x.low).toNat < n ∧ barrierAt x s (x.lowS w.a.toNat) none = .stop r)) := by
  refine stopsAt_of_res hi fun x s r ⟨ha, h⟩ => ?_
  rcases h with ⟨rfl, hn⟩ | ⟨hn, hstop⟩
  · exact semArrive_range ha n da dt s hn
  · rw [semArrive_reads ha n da dt s hn, hstop, Got.run_stop]

end

/-! ### The statements of barriers -/

/-- Settles O42: each clause is the case of the instruction's meaning, or of the read of its object, that it names. -/
theorem barriersComplete : Obligations.barriers_complete := by
  refine ⟨inForms3_of_sem semBinit (fun _ _ => rfl) (fun _ _ _ => rfl) (fun _ _ => rfl) fun i how w hi q v => ?init,
    inForms3_of_sem_how semBarv howCompare (fun _ _ => rfl) (fun _ _ _ => rfl) (fun _ _ => rfl) fun _ _ _ =>
      goesOn_arrive,
    inForms3_of_sem_how semBarvx howCompare (fun _ _ => rfl) (fun _ _ _ => rfl) (fun _ _ => rfl) fun _ _ _ =>
      goesOn_arrive,
    inForms_of_sem semBtest (fun _ _ => rfl) (fun _ _ => rfl) fun i how w hi q v => ?test,
    fun b da dt => arrive_flips b,
    fun x s word sc => ⟨fun hb => ⟨barrierAt_word sc s hb, fun hr ha hs => ?outside, fun hr ha hs => ?inside⟩, ?memory⟩,
    inForms3_of_sem semBinit (fun _ _ => rfl) (fun _ _ _ => rfl) (fun _ _ => rfl) fun i how w hi => ?initStops,
    inForms3_of_sem_how semBarv howCompare (fun _ _ => rfl) (fun _ _ _ => rfl) (fun _ _ => rfl) fun _ _ _ =>
      stopsAt_arrive,
    inForms3_of_sem_how semBarvx howCompare (fun _ _ => rfl) (fun _ _ _ => rfl) (fun _ _ => rfl) fun _ _ _ =>
      stopsAt_arrive,
    inForms_of_sem semBtest (fun _ _ => rfl) (fun _ _ => rfl) fun i how w hi => ?testStops⟩
  case init =>
    refine goesOn_of_done hi fun x s u h => done_of_onceTo w h ⟨_, rfl⟩ fun ha ⟨hcount, hscope, hrange, hread, hu⟩ => ?_
    rw [semBinit_reads ha s ⟨hcount, hscope, hrange⟩, hread, hu]
    rfl
  case test =>
    refine goesOn_of_done hi fun x s u h => done_of_onceTo w h ⟨_, rfl⟩ fun ha ⟨hp, hread, hclean, hu⟩ => ?_
    rw [semBtest_reads ha s hp, hread, Got.run_ok, hclean, hu]
  case outside => rw [barrierAt_local sc hb hr ha, if_pos hs]
  case inside => rw [barrierAt_local sc hb hr ha, if_neg (Nat.not_lt.mpr hs)]
  case memory =>
    intro hb va need c miss u hc v
    refine ⟨fun k d a hk => barrierAt_fault sc hb (hk ▸ hc), fun ks b hk => barrierAt_page sc hb (hk ▸ hc), ?_⟩
    intro pa leaf hk b hclass
    exact barrierAt_scope sc hb (hk ▸ hc) hclass
  case initStops =>
    refine stopsAt_of_res hi fun x s r ⟨ha, h⟩ => ?_
    rcases h with ⟨rfl, hn⟩ | ⟨hcount, hscope, hrange, hstop⟩
    · exact semBinit_range ha s fun ⟨hcount, hscope, hrange⟩ => by omega
    · rw [semBinit_reads ha s ⟨hcount, hscope, hrange⟩, hstop, Got.run_stop]
  case testStops =>
    refine stopsAt_of_res hi fun x s r ⟨ha, h⟩ => ?_
    rcases h with ⟨rfl, hp⟩ | ⟨hp, hstop | ⟨q, v, d, hread, hpoison, rfl⟩⟩
    · exact semBtest_parity ha s hp
    · rw [semBtest_reads ha s hp, hstop, Got.run_stop]
    · rw [semBtest_reads ha s hp, hread, Got.run_ok, hpoison]

end Sys2Proof.Proofs
end

section
/-! BWAIT and WAITV: waits that go on, deschedule the stream or stop (R392, R395, R396, R398). -/

namespace Sys2Proof.Proofs

open Sys2Proof.Machine Sys2Proof.Safety

/-! ### The read of WAITV (R398) -/

section
variable {x : Ctx} {s u : State} {va miss : Nat}

theorem waitvRead_fault {k d a : Nat}
    (hc : checkAccesses s x.core x.gr.space false needR 4 [(x.low, va)] = (.fault k d a, miss, u)) :
    waitvRead x s va = .stop (.fault (x.count u 11 miss) k d (BitVec.ofNat 64 a)) := by
  simp only [waitvRead, hc]

/-- A page fault takes trap 1 on all lanes of the stream. -/
theorem waitvRead_page {ks : List Nat} {b : Nat}
    (hc : checkAccesses s x.core x.gr.space false needR 4 [(x.low, va)] = (.page ks b, miss, u)) :
    waitvRead x s va = .stop (.trap (x.count u 11 miss)
      { cause := 1, detail := 0, faddr := BitVec.ofNat 64 b, fmask := laneMask x.lanes, need := [] }) := by
  simp only [waitvRead, hc]

theorem waitvRead_poisoned {pa d : Nat} {leaf : DWord}
    (hc : checkAccesses s x.core x.gr.space false needR 4 [(x.low, va)] = (.ok [(pa, leaf)], miss, u))
    (hr : targetRefuses (x.count u 11 miss) pa = false) (hw : mustWait (x.count u 11 miss) x.core needR pa = false)
    (hp : poisonAt (x.count u 11 miss) pa 4 = some d) :
    waitvRead x s va = .stop (.fault (x.count u 11 miss) 0x40 d 0) := by
  simp only [waitvRead, hc, List.headD_cons, hr, hw, hp, Bool.false_eq_true, if_false]

end

/-! ### The meanings, case by case -/

section
variable {isExt : Bool} {w : ExtArgs} {x : Ctx} (s : State) (ha : x.active w ≠ [])
include ha

theorem semBwait_handler (hh : x.inH = true) : semBwait isExt w x s = .fault s 0x10 0 0 := by
  rw [semBwait, once_act w s _ ha, if_pos hh]

theorem semWaitv_handler (hh : x.inH = true) : semWaitv isExt w x s = .fault s 0x10 0 0 := by
  rw [semWaitv, once_act w s _ ha, if_pos hh]

variable (hh : x.inH = false)
include hh

theorem semBwait_parity (hp : 1 < (x.lowS w.b.toNat).toNat) : semBwait isExt w x s = .fault s 0x24 0 0 := by
  rw [semBwait, once_act w s _ ha, hh, if_neg Bool.false_ne_true, if_pos hp]

/-- Outside a handler BWAIT reads its object, and goes on or is descheduled by its phase (R395). -/
theorem semBwait_reads (hp : (x.lowS w.b.toNat).toNat ≤ 1) : semBwait isExt w x s =
    (barrierAt x s (x.lowS w.a.toNat) none).run fun q v =>
      match barrierPoison v q.1 with
      | some d => .fault v 0x40 d 0
      | none =>
        if q.2.phase ≠ (x.lowS w.b.toNat).getLsbD 0 then .done (acquire v x q.2.scope)
        else .flow (descheduled x v (.barrier (x.lowS w.a.toNat) ((x.lowS w.b.toNat).getLsbD 0)) (x.lowS w.d.toNat)
          (formLen isExt w)) := by
  rw [semBwait, once_act w s _ ha, hh, if_neg Bool.false_ne_true]
  exact if_neg (Nat.not_lt.mpr hp)

/-- Outside a handler WAITV reads its word, and goes on or is descheduled by its condition (R398). -/
theorem semWaitv_reads : semWaitv isExt w x s =
    (waitvRead x s (x.lowPair w.a.toNat).toNat).run fun q v =>
      if intCompare w.sub.toNat (BitVec.ofNat 32 q.1) (x.bS w x.low) then .done (acquire v x (widestScope q.2))
      else .flow (descheduled x v (.value (x.lowPair w.a.toNat) w.sub.toNat (x.bS w x.low)) (x.lowS w.d.toNat)
        (formLen isExt w)) := by
  rw [semWaitv, once_act w s _ ha, hh, if_neg Bool.false_ne_true]
  rfl

end

/-! ### Both forms -/

/-- P of both forms of BWAIT, whose length is that of the form. -/
theorem inForms_bwait {P : Instr → IssueHow → ExtArgs → Prop} (h : ∀ i how isExt w,
    runsAs i (howBwait w how) (semBwait isExt w) → how.len = formLen isExt w → P i how w) :
    inForms 0xD3 .bwait .bwaitX P :=
  ⟨fun _ => h _ _ false _ (fun _ => rfl) rfl, fun _ => h _ _ true _ (fun _ => rfl) rfl⟩

/-- The same of the forms of WAITV. -/
theorem inForms3_waitv {P : Instr → IssueHow → ExtArgs → Prop} (h : ∀ i how isExt w,
    runsAs i (howWait w how) (semWaitv isExt w) → how.len = formLen isExt w → P i how w) :
    inForms3 0xD5 .waitv .waitvL .waitvX P :=
  ⟨⟨fun _ => h _ _ false _ (fun _ => rfl) rfl, fun _ => h _ _ true _ (fun _ => rfl) rfl⟩,
    fun _ _ => h _ _ false _ (fun _ => rfl) rfl⟩

/-- Settles O43: each clause is the case of the wait's meaning, or of WAITV's read, that it names. -/
theorem waitsComplete : Obligations.waits_complete := by
  refine ⟨inForms_bwait fun i how isExt w hi hlen q v => ?bwaitGoes, inForms_bwait fun i how isExt w hi hlen q v => ?bwaitStays,
    inForms3_waitv fun i how isExt w hi hlen q v => ?waitvGoes, inForms3_waitv fun i how isExt w hi hlen q v => ?waitvStays,
    inForms_bwait fun i how isExt w hi _ => ?bwaitHandler, inForms3_waitv fun i how isExt w hi _ => ?waitvHandler,
    inForms_bwait fun i how isExt w hi _ => ?bwaitStops, inForms3_waitv fun i how isExt w hi _ => ?waitvStops,
    fun x s va c miss u hc => ?read⟩
  case bwaitGoes =>
    refine goesOn_of_done hi fun x s u h => done_of_onceTo w h ⟨_, rfl⟩ fun ha ⟨hh, hp, hread, hclean, hphase, hu⟩ => ?_
    rw [semBwait_reads s ha hh hp, hread, Got.run_ok, hclean, hu]
    exact if_pos hphase
  case bwaitStays =>
    refine flowsTo_of_flow hi fun x s u ⟨ha, hh, hp, hread, hclean, hphase, hu⟩ => ?_
    rw [semBwait_reads s (active_of_isEmpty ha) hh hp, hread, Got.run_ok, hclean, hu, ← hlen]
    exact if_neg (not_not.mpr hphase)
  case waitvGoes =>
    refine goesOn_of_done hi fun x s u h => done_of_onceTo w h ⟨_, rfl⟩ fun ha ⟨hh, hread, hmet, hu⟩ => ?_
    rw [semWaitv_reads s ha hh, hread, Got.run_ok, if_pos hmet, hu]
  case waitvStays =>
    refine flowsTo_of_flow hi fun x s u ⟨ha, hh, hread, hmet, hu⟩ => ?_
    rw [semWaitv_reads s (active_of_isEmpty ha) hh, hread, Got.run_ok, hmet, if_neg Bool.false_ne_true, hu, ← hlen]
  case bwaitHandler => exact faultsWith_of_fault hi fun x s ⟨ha, hh⟩ => semBwait_handler s (active_of_isEmpty ha) hh
  case waitvHandler => exact faultsWith_of_fault hi fun x s ⟨ha, hh⟩ => semWaitv_handler s (active_of_isEmpty ha) hh
  case bwaitStops =>
    refine stopsAt_of_res hi fun x s r ⟨ha, hh, h⟩ => ?_
    rcases h with ⟨rfl, hp⟩ | ⟨hp, hstop | ⟨q, v, d, hread, hpoison, rfl⟩⟩
    · exact semBwait_parity s ha hh hp
    · rw [semBwait_reads s ha hh hp, hstop, Got.run_stop]
    · rw [semBwait_reads s ha hh hp, hread, Got.run_ok, hpoison]
  case waitvStops =>
    refine stopsAt_of_res hi fun x s r ⟨ha, hh, hstop⟩ => ?_
    rw [semWaitv_reads s ha hh, hstop, Got.run_stop]
  case read =>
    exact ⟨fun k d a hk => waitvRead_fault (hk ▸ hc), fun ks b hk => waitvRead_page (hk ▸ hc),
      fun pa leaf d hk => waitvRead_poisoned (hk ▸ hc)⟩

end Sys2Proof.Proofs
end

section
/-! Faults that end teams: the entry in the grid's record, and what becomes of the team (R359, R361, R363, R364, R369 to R371, R375,
R415). -/

namespace Sys2Proof.Proofs

open Sys2Proof.Machine Sys2Proof.Laws

/-! ### The write of an entry (R369 to R371) -/

section
variable {s t : State} {g : Grid} {h : Nat}

/-- A write to a record takes place in any table of grids, and whatever the record has noted. -/
theorem frPut_modGrid {off n v : Nat} (hp : frPut s g off n v = some t) (fr : FaultRec) (f : Grid → Grid) :
    frPut (modGrid s h f) { g with fr := fr } off n v = some (modGrid t h f) := by
  have haddr (a : Nat) : sysAddr (modGrid s h f) g.space a n needW = sysAddr s g.space a n needW := rfl
  unfold frPut at hp ⊢
  simp only [haddr, modGrid_pkg] at hp ⊢
  split at hp
  · cases hp
  next hal =>
    rw [if_neg hal]
    split at hp
    · split at hp <;> cases hp
      next htarget => exact if_pos htarget
    · cases hp

theorem kget_modGrid_same (f : Grid → Grid) (hg : kget s.grids h = some g) : kget (modGrid s h f).grids h = some (f g) := by
  rw [modGrid_grids, kget_kmod, if_pos rfl, hg]
  rfl

theorem frWrite_none (hg : kget s.grids h = some g) (entry : Option (Nat × Nat)) (hz : g.launch.faultrec = 0) :
    frWrite s h entry = s := by
  simp only [frWrite, hg]
  exact if_pos (.inl hz)

/-- The entry's bytes and the header are written one after the other. -/
theorem frWrite_entry (hg : kget s.grids h = some g) (hz : g.launch.faultrec ≠ 0) (hd : g.fr.dead = false) {i v : Nat}
    (he : frPut s g (32 + 32 * i) 32 v = some t) {u : State} (hh : frPut t g 0 32 (frHeader g.fr g.nonReplay) = some u) :
    frWrite s h (some (i, v)) = u := by
  simp only [frWrite, hg, hz, hd, he, hh, Option.bind_some, Bool.false_eq_true, or_self, if_false]

/-- The write of a record changes memory, or it fails and the record is abandoned (R371). -/
theorem frWrite_cases (s : State) (h : Nat) (entry : Option (Nat × Nat)) :
    (∃ m, frWrite s h entry = { s with mem := m }) ∨
      frWrite s h entry = modGrid s h fun g => { g with fr := { g.fr with dead := true } } := by
  unfold frWrite
  split
  · exact .inl ⟨s.mem, rfl⟩
  · split
    · exact .inl ⟨s.mem, rfl⟩
    · dsimp only
      split
      next u hu =>
        obtain ⟨a, ha, hau⟩ := Option.bind_eq_some_iff.mp hu
        have hs : a = { s with mem := a.mem } := by
          cases entry with
          | none => cases ha; rfl
          | some e => exact frPut_eq ha
        refine .inl ⟨u.mem, ?_⟩
        rw [frPut_eq hau, hs]
      · exact .inr rfl

/-- The grid is left as it was, but for the mark that its record is abandoned. -/
theorem frWrite_grid (hg : kget s.grids h = some g) (entry : Option (Nat × Nat)) :
    ∃ d, kget (frWrite s h entry).grids h = some { g with fr := { g.fr with dead := d } } := by
  rcases frWrite_cases s h entry with ⟨m, hm⟩ | hm <;> rw [hm]
  · exact ⟨g.fr.dead, hg⟩
  · exact ⟨true, kget_modGrid_same _ hg⟩

end

/-- The record of a grid to which entry e has been added (R370). -/
def recorded (g : Grid) (e : FaultEntry) (ends : Bool) : FaultRec :=
  { g.fr with
    last := some e
    count := min (g.fr.count + 1) 0xFFFFFFFF
    overflow := g.fr.overflow || decide (15 ≤ g.fr.flagBytes.length)
    status := if ends ∧ g.fr.status = 0 then e.cause else g.fr.status
    flagBytes := if g.fr.flagBytes.length < 15 then g.fr.flagBytes ++ [BitVec.ofNat 8 e.flags] else g.fr.flagBytes }

/-- The 32 bytes of an entry (R370). -/
def entryBytes (e : FaultEntry) (time : DWord) : Nat :=
  e.cause + 2 ^ 8 * e.detail + 2 ^ 16 * e.gid + 2 ^ 24 * e.flags + 2 ^ 32 * e.team
    + 2 ^ 64 * time.toNat + 2 ^ 128 * e.pc.toNat + 2 ^ 192 * e.faddr.toNat

/-- s with entry e in the record that grid h holds. -/
def addEntry (s : State) (h : Nat) (g : Grid) (e : FaultEntry) (ends : Bool) : State :=
  modGrid s h fun k => { k with fr := recorded g e ends }

section
variable {s : State} {g : Grid} {h : Nat} {e : FaultEntry}

theorem writeEntry_eq (hg : kget s.grids h = some g) (hc : e.cause ≠ 0x4C) (time : DWord) (ends : Bool) :
    writeEntry s h e time ends = frWrite (addEntry s h g e ends) h
      (if g.fr.flagBytes.length < 15 then some (g.fr.flagBytes.length, entryBytes e time) else none) := by
  simp only [writeEntry, if_neg hc, hg]
  rfl

theorem kget_addEntry (hg : kget s.grids h = some g) (ends : Bool) :
    kget (addEntry s h g e ends).grids h = some { g with fr := recorded g e ends } :=
  kget_modGrid_same _ hg

/-- The grid of an entry that is written holds the record with it. -/
theorem writeEntry_records (hg : kget s.grids h = some g) (hc : e.cause ≠ 0x4C) (time : DWord) (ends : Bool) :
    ∃ d, kget (writeEntry s h e time ends).grids h = some { g with fr := { recorded g e ends with dead := d } } := by
  rw [writeEntry_eq hg hc]
  exact frWrite_grid (kget_addEntry hg ends) _

theorem writeEntry_mem_none (hg : kget s.grids h = some g) (hc : e.cause ≠ 0x4C) (time : DWord) (ends : Bool)
    (hz : g.launch.faultrec = 0) : (writeEntry s h e time ends).mem = s.mem := by
  rw [writeEntry_eq hg hc, frWrite_none (kget_addEntry hg ends) _ hz]
  rfl

/-- An entry that fits is written, and the header after it. -/
theorem writeEntry_mem (hg : kget s.grids h = some g) (hc : e.cause ≠ 0x4C) {time : DWord} {ends : Bool}
    (hz : g.launch.faultrec ≠ 0) (hd : g.fr.dead = false) (hroom : g.fr.flagBytes.length < 15) {w x : State}
    (hw : frPut s g (32 + 32 * g.fr.flagBytes.length) 32 (entryBytes e time) = some w)
    (hx : frPut w g 0 32 (frHeader (recorded g e ends) g.nonReplay) = some x) :
    (writeEntry s h e time ends).mem = x.mem := by
  rw [writeEntry_eq hg hc, if_pos hroom, frWrite_entry (kget_addEntry hg ends) hz hd (frPut_modGrid hw _ _) (frPut_modGrid hx _ _)]
  rfl

end

/-! ### What a report leaves for the decision on a replay (R375) -/

/-- A grid without the parts of its record that an entry changes. -/
def unrecorded (g : Grid) : Grid :=
  { g with fr := { last := none, count := 0, overflow := false, replays := g.fr.replays, status := 0, flagBytes := [], dead := false } }

/-- The management registers are as they were, and the grids but for what their records hold. -/
structure KeepsGrids (s u : State) : Prop where
  mgmt : u.mgmt = s.mgmt
  grids : ∀ k, (kget u.grids k).map unrecorded = (kget s.grids k).map unrecorded

theorem keepsGrids_refl (s : State) : KeepsGrids s s := ⟨rfl, fun _ => rfl⟩

theorem keepsGrids_trans {s t u : State} (h : KeepsGrids s t) (h' : KeepsGrids t u) : KeepsGrids s u :=
  ⟨h'.mgmt.trans h.mgmt, fun k => (h'.grids k).trans (h.grids k)⟩

theorem keepsGrids_foldl {α : Type} {f : State → α → State} (hf : ∀ s a, KeepsGrids s (f s a)) (l : List α) (s : State) :
    KeepsGrids s (l.foldl f s) := by
  induction l generalizing s with
  | nil => exact keepsGrids_refl s
  | cons a l ih => exact keepsGrids_trans (hf s a) (ih (f s a))

theorem keepsGrids_modGrid (s : State) (h : Nat) {f : Grid → Grid}
    (hf : ∀ g, kget s.grids h = some g → unrecorded (f g) = unrecorded g) : KeepsGrids s (modGrid s h f) := by
  refine ⟨rfl, fun k => ?_⟩
  rw [modGrid_grids, kget_kmod]
  split
  next hk =>
    subst hk
    cases hg : kget s.grids k with
    | none => rfl
    | some g => exact congrArg some (hf g hg)
  · rfl

theorem keepsGrids_queueFor (s : State) (n : Nat) (w : Waiting) : KeepsGrids s (queueFor s n w) := ⟨rfl, fun _ => rfl⟩

theorem keepsGrids_frPut {s t : State} {g : Grid} {off n v : Nat} (h : frPut s g off n v = some t) : KeepsGrids s t := by
  rw [frPut_eq h]
  exact ⟨rfl, fun _ => rfl⟩

theorem keepsGrids_frWrite (s : State) (h : Nat) (entry : Option (Nat × Nat)) : KeepsGrids s (frWrite s h entry) := by
  rcases frWrite_cases s h entry with ⟨m, hm⟩ | hm <;> rw [hm]
  · exact ⟨rfl, fun _ => rfl⟩
  · exact keepsGrids_modGrid s h fun _ _ => rfl

theorem keepsGrids_markReplayed (s : State) (h : Nat) : KeepsGrids s (markReplayed s h) := by
  unfold markReplayed
  split
  · exact keepsGrids_refl s
  · have hmark := keepsGrids_modGrid s h (f := fun g => { g with fr := { g.fr with flagBytes := g.fr.flagBytes.map (· ||| 8) } })
      fun _ _ => rfl
    dsimp only
    split
    · exact hmark
    · refine keepsGrids_trans hmark (keepsGrids_foldl (fun s p => ?_) _ _)
      split
      next hp => exact keepsGrids_frPut hp
      · exact keepsGrids_modGrid s h fun _ _ => rfl

theorem keepsGrids_writeEntry (s : State) (h : Nat) (e : FaultEntry) (time : DWord) (ends : Bool) :
    KeepsGrids s (writeEntry s h e time ends) := by
  have hmarks : KeepsGrids s (if e.cause = 0x4C then (setOf s h).foldl markReplayed s else s) := by
    split
    · exact keepsGrids_foldl keepsGrids_markReplayed _ s
    · exact keepsGrids_refl s
  refine keepsGrids_trans hmarks ?_
  unfold writeEntry
  dsimp only
  generalize (if e.cause = 0x4C then (setOf s h).foldl markReplayed s else s) = t
  split
  · exact keepsGrids_refl t
  next g hg =>
    refine keepsGrids_trans (keepsGrids_modGrid t h fun k hk => ?_) (keepsGrids_frWrite ..)
    obtain rfl : g = k := Option.some.inj (hg.symm.trans hk)
    rfl

theorem keepsGrids_report (s : State) (h team gid cause detail flags : Nat) (pc faddr : DWord) (ends : Bool) :
    KeepsGrids s (report s h team gid cause detail flags pc faddr ends) := by
  unfold report
  dsimp only
  split
  · refine keepsGrids_trans ?_ (keepsGrids_queueFor ..)
    exact keepsGrids_modGrid s h fun _ _ => rfl
  · exact keepsGrids_writeEntry ..

/-- The head of a snapshot set stays it, with all that a replay is decided by. -/
theorem snapRoot_keeps {s u : State} (hk : KeepsGrids s u) (h : Nat) :
    (snapRoot u h).map (fun r => (r.1, unrecorded r.2)) = (snapRoot s h).map fun r => (r.1, unrecorded r.2) := by
  have hgrid := hk.grids h
  unfold snapRoot
  cases hs : kget s.grids h with
  | none => rw [hs, Option.map_none, Option.map_eq_none_iff] at hgrid; rw [hgrid]
  | some g =>
    rw [hs, Option.map_some, Option.map_eq_some_iff] at hgrid
    obtain ⟨g', hu, hgg⟩ := hgrid
    have hroot : g'.root = g.root := (congrArg Grid.root hgg :)
    have hhead := hk.grids g.root.toNat
    simp only [hu, hroot]
    cases hs' : kget s.grids g.root.toNat with
    | none => rw [hs', Option.map_none, Option.map_eq_none_iff] at hhead; rw [hhead]
    | some r =>
      rw [hs', Option.map_some, Option.map_eq_some_iff] at hhead
      obtain ⟨r', hu', hrr⟩ := hhead
      have hrep : r'.launch.replayable = r.launch.replayable := (congrArg (fun g : Grid => g.launch.replayable) hrr :)
      simp only [hu', hrep]
      split
      · exact congrArg (fun k => some (g.root.toNat, k)) hrr
      · rfl

theorem replays_keeps {s u : State} (hk : KeepsGrids s u) (h cause : Nat) : replays u h cause = replays s h cause := by
  have hany (t : State) : ((snapRoot t h).any fun r => !r.2.nonReplay && decide (r.2.fr.replays < 3)) =
      ((snapRoot t h).map fun r => (r.1, unrecorded r.2)).any fun r => !r.2.nonReplay && decide (r.2.fr.replays < 3) := by
    cases snapRoot t h <;> rfl
  unfold replays
  rw [hany, snapRoot_keeps hk, ← hany]

/-- A cause that is to be replayed: poison or a mismatch, in a set that may be replayed again. -/
theorem replays_of_head {s : State} {h r cause : Nat} {g : Grid} (hr : snapRoot s h = some (r, g)) (hc : cause = 0x40 ∨ cause = 0x41)
    (hn : g.nonReplay = false) (h3 : g.fr.replays < 3) : replays s h cause = true := by
  simp [replays, hr, hc, hn, h3]

theorem not_replays {s : State} {h cause : Nat} (hn : cause ≠ 0x40 ∧ cause ≠ 0x41 ∨
    ∀ r g, snapRoot s h = some (r, g) → g.nonReplay = true ∨ 3 ≤ g.fr.replays) : replays s h cause = false := by
  refine Bool.eq_false_iff.mpr fun hr => ?_
  obtain ⟨hc, hset⟩ := Bool.and_eq_true_iff.mp hr
  obtain ⟨⟨r, g⟩, hroot, hmay⟩ := (Option.any_eq_true _ _).mp hset
  obtain ⟨hmay, h3⟩ := Bool.and_eq_true_iff.mp hmay
  rcases hn with ⟨h40, h41⟩ | hn
  · exact (of_decide_eq_true hc).elim h40 h41
  · rcases hn r g hroot with hn | hn
    · rw [hn] at hmay; cases hmay
    · exact absurd (of_decide_eq_true h3) (Nat.not_lt.mpr hn)

/-! ### What becomes of the team (R363, R364, R375) -/

section
variable {s : State} {tu u e : Nat} {t : Team} {f : FaultEntry}

theorem endAfter_replays {r : Nat} {g : Grid} (hroot : snapRoot s t.grid.toNat = some (r, g))
    (hr : replays s t.grid.toNat f.cause = true) : endAfter s tu t u e f = startReplay s r := by
  rw [endAfter, if_pos hr, hroot]

/-- A cause that is not replayed ends a team that has not ended, or has it hold, by the mode m of faults (R364). -/
theorem endAfter_ends {m : Bool} (hr : replays s t.grid.toNat f.cause = false) (hm : hostMode s 1 = m) : endAfter s tu t u e f =
    if t.ended = true then s
    else if m = true then
      ctlTell (holdTwins s tu
        { cause := f.cause, resumable := decide (f.cause = 0x38 ∨ f.cause = 0x39), group := u, entry := e, own := true })
        (cpOf s t.grid.toNat) "fault"
        [t.grid.toNat, f.team, f.gid, f.cause, f.detail, f.flags, s.dtime.toNat, f.pc.toNat, f.faddr.toNat]
    else endTwins s tu := by
  rw [endAfter, hr, hm]
  rfl

end

section
variable {s : State} {tu u e gid cause detail : Nat} {inH : Bool} {pc faddr : DWord} {t : Team}

theorem endByFault_stopped (hs : setStopped s tu = true) : endByFault s tu u e gid cause detail inH pc faddr = s := by
  simp [endByFault, hs]

theorem endByFault_eq (ht : kget s.teams tu = some t) (hs : setStopped s tu = false) :
    let f := endingEntry s t u gid cause detail inH pc faddr
    endByFault s tu u e gid cause detail inH pc faddr =
      endAfter (report s t.grid.toNat t.num gid cause detail f.flags pc faddr
        (!replays s t.grid.toNat cause && !hostMode s 1)) tu t u e f := by
  simp only [endByFault, hs, ht]
  rfl

/-- The flags of the entry: precise, asynchronous after its issuer stopped, raised in a handler, and shadow twin (R370). -/
theorem endingEntry_flags {late : Prop} [Decidable late]
    (hlate : late ↔ cause = 0x40 ∧ (t.ended = true ∨ ∀ g, kget s.groups u = some g → g.ended = true)) :
    (endingEntry s t u gid cause detail inH pc faddr).flags = (if causePrecise cause detail = true then 1 else 0)
      + (if late then 2 else 0) + (if inH = true then 4 else 0) + (if t.shadow = true then 16 else 0) := by
  have hlate' : (decide (cause = 0x40) && (t.ended || (kget s.groups u).all (·.ended))) = true ↔ late := by
    simp [hlate, Option.all_eq_true]
  have hflag : (if (decide (cause = 0x40) && (t.ended || (kget s.groups u).all (·.ended))) = true then 2 else 0)
      = if late then 2 else 0 := if_congr hlate' rfl rfl
  rw [← hflag]
  rfl

variable (ht : kget s.teams tu = some t) (hs : setStopped s tu = false)
include ht hs

/-- In a set that is to be replayed the entry is made, and the replay starts (R375). -/
theorem endByFault_replays {r : Nat} {g : Grid} (hroot : snapRoot s t.grid.toNat = some (r, g))
    (hr : replays s t.grid.toNat cause = true) :
    endByFault s tu u e gid cause detail inH pc faddr = startReplay (report s t.grid.toNat t.num gid cause detail
      (endingEntry s t u gid cause detail inH pc faddr).flags pc faddr false) r := by
  rw [endByFault_eq ht hs, hr, Bool.not_true, Bool.false_and]
  generalize hv : report s t.grid.toNat t.num gid cause detail _ pc faddr false = v
  have hk : KeepsGrids s v := hv ▸ keepsGrids_report ..
  obtain ⟨⟨r', g'⟩, hroot', heq⟩ : ∃ q, snapRoot v t.grid.toNat = some q ∧ (q.1, unrecorded q.2) = (r, unrecorded g) :=
    Option.map_eq_some_iff.mp ((snapRoot_keeps hk _).trans (by rw [hroot]; rfl))
  obtain ⟨rfl, -⟩ := Prod.mk.inj heq
  exact endAfter_replays hroot' ((replays_keeps hk _ _).trans hr)

/-- Else the entry is made, and the team ends or holds for the host's answer (R364). -/
theorem endByFault_ends (hr : replays s t.grid.toNat cause = false) :
    let flags := (endingEntry s t u gid cause detail inH pc faddr).flags
    let v := report s t.grid.toNat t.num gid cause detail flags pc faddr (!hostMode s 1)
    endByFault s tu u e gid cause detail inH pc faddr =
      if t.ended = true then v
      else if hostMode s 1 = true then
        ctlTell (holdTwins v tu
          { cause := cause, resumable := decide (cause = 0x38 ∨ cause = 0x39), group := u, entry := e, own := true })
          (cpOf v t.grid.toNat) "fault"
          [t.grid.toNat, t.num, gid, cause, detail, flags, v.dtime.toNat, pc.toNat, faddr.toNat]
      else endTwins v tu := by
  intro flags v
  have hk : KeepsGrids s v := keepsGrids_report ..
  have hmode : hostMode v 1 = hostMode s 1 := by rw [hostMode, hostMode, hk.mgmt]
  rw [endByFault_eq ht hs, hr, Bool.not_false, Bool.true_and]
  exact endAfter_ends ((replays_keeps hk _ _).trans hr) hmode

end

/-! ### The end of a team (R272, R363) -/

/-- The groups that go leave the table of teams. -/
theorem foldl_teams {α β : Type} {f : State × α → β → State × α} (hf : ∀ a b, (f a b).1.teams = a.1.teams) (l : List β)
    (a : State × α) : (l.foldl f a).1.teams = a.1.teams := by
  induction l generalizing a with
  | nil => rfl
  | cons b l ih => exact (ih (f a b)).trans (hf a b)

theorem removeTeam_teams (s : State) (tu : Nat) (t : Team) : (removeTeam s tu t).teams = kdel s.teams tu := by
  unfold removeTeam
  dsimp only
  split <;> rfl

/-- A team that stays is as it was, but for its groups. -/
theorem settle_team {s : State} {tu : Nat} {t : Team} (hw : kwf s.teams = true) (ht : kget (settle s tu).teams tu = some t) :
    ∃ q l, kget s.teams tu = some q ∧ t = { q with groups := l } := by
  unfold settle at ht
  split at ht
  next hn => rw [hn] at ht; cases ht
  next q hq =>
    dsimp only at ht
    generalize hfold : q.groups.foldl _ _ = a at ht
    have hteams : a.1.teams = s.teams := by
      refine hfold ▸ foldl_teams (fun a u => ?_) _ _
      split
      · rfl
      · split
        · cases q.core <;> rfl
        · rfl
    split at ht
    · rw [removeTeam_teams, hteams, kget_kdel_same hw] at ht
      cases ht
    · rw [modTeam_teams, hteams, kget_kmod, if_pos rfl, hq] at ht
      exact ⟨q, a.2, hq, (Option.some.inj ht).symm⟩

theorem endTeam_team {s : State} {tu : Nat} {t : Team} (hw : kwf s.teams = true) (ht : kget (endTeam s tu).teams tu = some t) :
    t.ended = true ∧ t.held = [] := by
  have hw' : kwf (modTeam s tu fun t => { t with ended := true, held := [], eng := [], stop := none }).teams = true := by
    rw [modTeam_teams, kmod]
    split
    · exact kset_wfFrom hw (Nat.zero_le _) _
    · exact hw
  obtain ⟨q, l, hq, rfl⟩ := settle_team hw' ht
  rw [modTeam_teams, kget_kmod, if_pos rfl, Option.map_eq_some_iff] at hq
  obtain ⟨_, -, rfl⟩ := hq
  exact ⟨rfl, rfl⟩

theorem canIssue_ended {t : Team} (ht : t.ended = true) (g : Group) (e : Nat) : canIssue t g e = false := by
  simp [canIssue, ht]

/-! ### The statement -/

/-- Settles O55: the entry is made first, and the cause and the mode decide what becomes of the team; a team that has ended is the one
that endTeam leaves; the record is that of writeEntry, and an entry that waits is queued. -/
theorem faultsEndTheTeam : Obligations.faults_end_the_team := by
  refine ⟨fun s tu u e gid cause detail inH pc faddr => endByFault_stopped,
    fun s tu t u e gid cause detail inH pc faddr ht hs => ?team,
    fun s tu t hw ht => ?ended, fun s h team gid cause detail flags pc faddr ends g hg hd hc => ?record,
    fun s h team gid cause detail flags pc faddr ends hd => if_pos hd⟩
  case team =>
    intro h late flags
    have hflags : (endingEntry s t u gid cause detail inH pc faddr).flags = flags := endingEntry_flags Iff.rfl
    refine ⟨fun r g hroot hcause hn h3 => ?_, fun hn => ?_⟩
    · rw [endByFault_replays ht hs hroot (replays_of_head hroot hcause hn h3), hflags]
    · rw [endByFault_ends ht hs (not_replays hn), hflags]
  case ended =>
    obtain ⟨hended, hheld⟩ := endTeam_team hw ht
    exact ⟨hended, hheld, canIssue_ended hended⟩
  case record =>
    let e : FaultEntry :=
      { team := team, gid := gid, cause := cause, detail := detail, flags := flags, pc := pc, faddr := faddr }
    have hnow : report s h team gid cause detail flags pc faddr ends = writeEntry s h e s.dtime ends :=
      if_neg (Bool.eq_false_iff.mp hd)
    obtain ⟨d, hgrid⟩ := writeEntry_records (e := e) hg hc s.dtime ends
    intro v
    rw [show v = _ from hnow]
    exact ⟨_, hgrid, rfl, rfl, rfl, writeEntry_mem_none hg hc _ _,
      fun w hz hdead hroom hw x hx => writeEntry_mem hg hc hz hdead hroom hw hx⟩

end Sys2Proof.Proofs
end

section
/-! Events of firmware and the host (R27, R62, R224, R299, R335, R408, R409, R410, R414, R415, R416). -/

namespace Sys2Proof.Proofs

open Sys2Proof.Machine

/-! ### Images and attestation -/

theorem execBootImageCheck_free {img : Image} {s : State} (hfree : (ctlAt s img.target.toNat).running = none)
    (hcheck : img.target.toNat = 0 ∨ ((ctlAt s 0).running.isSome = true ∧ delayed s 0 = false)) :
    execBootImageCheck img s = .next (if imageOk s img.target.toNat img
      then modCtl s img.target.toNat fun c => { c with running := some (imageId img) }
      else tellHost s "image refused" [img.target.toNat]) :=
  happens_whenOk (by simpa [hfree] using hcheck) _

theorem execAttestationRequest_running {s : State} (nonce : BitVec 256) (hrun : (ctlAt s 0).running.isSome = true) :
    execAttestationRequest nonce s = .next (if delayed s 0 then queueFor s 0 (.attest nonce) else attest s nonce) :=
  happens_whenOk hrun _

/-! ### Live replacement -/

theorem fwLoad_idle {s : State} {img : Image} (hidle : (ctlAt s s.mgmt.fwsel).state = .idle) (hother : otherBusy s s.mgmt.fwsel = false) :
    fwLoad s img = if imageOk s s.mgmt.fwsel img
      then modCtl s s.mgmt.fwsel fun c => { c with other := some (imageId img), state := .loaded }
      else fwRefuse s s.mgmt.fwsel 1 := by
  rw [fwLoad, if_neg (not_not.mpr hidle), if_neg (Bool.eq_false_iff.mp hother)]

theorem fwHandOver_loaded {s : State} {priv : List Byte} (hloaded : (ctlAt s s.mgmt.fwsel).state = .loaded)
    (hother : otherBusy s s.mgmt.fwsel = false) :
    fwHandOver s priv = modCtl s s.mgmt.fwsel fun c => { c with state := .handOver, priv := priv } := by
  rw [fwHandOver, if_neg (Bool.eq_false_iff.mp hother), if_neg (not_not.mpr hloaded)]

theorem imageStarts_eq (s : State) (k : Nat) : imageStarts s k = if (ctlAt s k).state = .handOver then modCtl s k fun c =>
    { c with running := c.other, other := c.running, state := .probation, since := s.dtime, capture := liveTables s } else s :=
  ite_not ..

theorem fwAbandon_ends {s : State} (h : (ctlAt s s.mgmt.fwsel).state = .loaded ∨ (ctlAt s s.mgmt.fwsel).state = .rolledBack ∨
    (ctlAt s s.mgmt.fwsel).state = .refused) :
    fwAbandon s = modCtl s s.mgmt.fwsel fun c => { c with other := none, state := .idle, code := 0 } := if_pos h

section
variable {n : BitVec 3} {s : State} (hprob : (ctlAt s n.toNat).state = .probation)
include hprob

theorem execFwAlive_in_time (h : (s.dtime - (ctlAt s n.toNat).since).toNat < aliveTicks s) : execFwAlive n s =
    .next (serveQueue (modCtl s n.toNat fun c => { c with state := .idle, other := none, code := 0 }) n.toNat) :=
  happens_whenOk (by rw [hprob, decide_eq_true h]; rfl) _

theorem execAliveDeadlineExpiry_late (h : aliveTicks s ≤ (s.dtime - (ctlAt s n.toNat).since).toNat) :
    execAliveDeadlineExpiry n s = .next (serveQueue (modCtl s n.toNat fun c =>
      { c with running := c.other, other := c.running, state := .rolledBack, capture := liveTables s }) n.toNat) :=
  happens_whenOk (by rw [hprob, decide_eq_true h]; rfl) _

end

/-! ### Islands -/

theorem islandGate_eq (s : State) (i : Nat) (gate : Bool) :
    islandGate s i gate = if gate = true ∧ (pairIsland i = false ∨ islandHolds s i = true) then s
      else modIsland s i fun x => { x with gate := gate } := by
  simp [islandGate]

/-! ### The statement -/

/-- A device reset of package 0 leaves memory as it is. -/
theorem setPkg_zero_mem {s : State} (h : s.pkg = 0) : (setPkg s 0).mem = s.mem := by
  simp [setPkg, h, renumber]

/-- A write of FWCMD by the host is the firmware event that the value names (R410, R415). -/
theorem fwCommand_eq (s : State) (v : Word) : exec (.mgmtRegisterWrite false 0x34 v) s = (match v.toNat % 4 with
    | 1 => exec (.fwLoad (s.mgmt.image.getD Image.none)) s
    | 2 => exec (.fwHandOver (Config.privWords s.freeCtr)) { s with freeCtr := s.freeCtr + 1 }
    | 3 => exec .fwAbandon s
    | _ => .next s) := by
  change Host.Outcome.next (fwCommand s (v.toNat % 4)) = _
  generalize v.toNat % 4 = k
  match k with
  | 0 | 1 | 2 | 3 | _ + 4 => rfl

/-- Settles O53: each clause is the event's law where its conditions hold, or its definition. -/
theorem firmwareEventsComplete : Obligations.firmware_events_complete := by
  refine ⟨fun s => ⟨_, rfl, rfl, rfl, rfl, rfl, rfl, rfl, rfl, rfl, rfl, rfl, rfl, rfl, rfl, rfl, rfl, setPkg_zero_mem⟩,
    fun img s => execBootImageCheck_free,
    fun nonce s => execAttestationRequest_running nonce,
    fun fw v s => ⟨rfl, rfl, rfl, rfl, rfl, rfl, rfl, rfl, fwCommand_eq s v, rfl, rfl⟩,
    fun h s => ⟨rfl, rfl, rfl⟩,
    fun img s hidle hother => congrArg _ (fwLoad_idle hidle hother),
    fun priv s => ⟨fun hloaded hother => congrArg _ (fwHandOver_loaded hloaded hother), imageStarts_eq s⟩,
    fun s h => congrArg _ (fwAbandon_ends h),
    fun n s hprob => ⟨execFwAlive_in_time hprob, execAliveDeadlineExpiry_late hprob⟩,
    fun k s => rfl,
    fun gate s => ?gate⟩
  case gate =>
    intro i
    refine congrArg Host.Outcome.next ?_
    rw [islandCtl]
    split
    · rfl
    · exact islandGate_eq ..

end Sys2Proof.Proofs
end

section
/-! Debug steps, halts of contexts, errors, spares, power limits and replay (R25, R334, R366, R372, R375, R382, R383, R404). -/

namespace Sys2Proof.Proofs

open Sys2Proof.Machine

/-! ### Halts and steps of contexts -/

section
variable {n : BitVec 5} {k : BitVec 2} {s : State}

theorem execSeqHalt_set : execSeqHalt n k true s =
    let t := moveCtx s n.toNat k.toNat fun c => atSwitch SeqCtx.halted { c with halt := true }
    .next (if (ctxAt s n.toNat k.toNat).halt = true then s
      else if (ctxAt t n.toNat k.toNat).step = true then resumeCtx t n.toNat k.toNat SeqCtx.stepped else t) := rfl

theorem execSeqStep_runs (hh : (ctxAt s n.toNat k.toNat).halt = true)
    (hs : (ctxAt s n.toNat k.toNat).step = false ∨ (ctxAt s n.toNat k.toNat).state = .halted) :
    execSeqStep n k s = .next (resumeCtx s n.toNat k.toNat SeqCtx.stepped) :=
  congrArg _ (if_pos (by simpa [hh] using hs))

theorem execSeqStep_waits (h : (ctxAt s n.toNat k.toNat).halt = false ∨
      ((ctxAt s n.toNat k.toNat).step = true ∧ (ctxAt s n.toNat k.toNat).state ≠ .halted)) :
    execSeqStep n k s = .next (modCtx s n.toNat k.toNat fun c => { c with step := true }) := by
  refine congrArg _ (if_neg ?_)
  rcases h with hh | ⟨hs, hrun⟩
  · simp [hh]
  · simp [hs, hrun]

end

/-! ### Uncorrectable errors -/

theorem execUncorrectableError_line {line : Nat} {s : State} (hown : ownLine s line = true)
    (hthere : targetRefuses s (line * 128) = false) : execUncorrectableError (.line line true) s =
      .next (crossNow { s with poison := kset s.poison line 5 } (.device (stackOf (line * 128)) (line / 512 % 2 ^ 24))) :=
  happens_whenOk (by simp [hown, hthere]) _

/-- The row of a structure of core c that an error of a group on partition part shows, by the kind and the row's number (R370, R383). -/
def structureRow (kind c part row : Nat) : Option RowId :=
  match kind with
  | 1 => some (.regFile c part (row % 32))
  | 2 => some (.local c (row % 512))
  | 3 => some (.accum c (row % 32))
  | 6 => some (.tag c (row % 256))
  | _ => none

section
variable {team : Nat} {gid : BitVec 5} {s : State} {t : Team} {u c : Nat} {g : Group} (ht : kget s.teams team = some t)
  (hg : (teamGroups s team).find? (fun p => decide (p.2.gid = gid.toNat)) = some (u, g)) (hc : t.core = some c)
  (hended : t.ended = false) (hstop : t.stop = none) (hset : setStopped s team = false)
include ht hg hc hended hstop hset

/-- The team that has read a structure ends by the fault, and the row crosses. -/
theorem execUncorrectableError_structure {kind : BitVec 3} (pc : DWord) {r : RowId}
    (hr : structureRow kind.toNat c g.part (pick s (2 ^ 32)).1 = some r) :
    execUncorrectableError (.structure_ kind team pc gid) s = .next (endByFault (crossNow (pick s (2 ^ 32)).2 r) team u 0 g.gid 0x40
      kind.toNat (g.handler.any fun h => decide (h.pc = pc)) pc 0) := by
  have hok : (!t.ended && t.stop.isNone && !setStopped s team) = true := by rw [hended, hstop, hset]; rfl
  simp only [execUncorrectableError, ht, hg, hc, hok, whenOk_true]
  revert hr
  generalize kind.toNat = k
  unfold structureRow
  split
  all_goals
    intro hr
    cases hr
  all_goals rfl

end

/-! ### Corrected errors, spares, power -/

theorem execCorrectedError_counts {e : RowId} {s : State} (he : rowOk e = true) (handle : Option (BitVec 14)) :
    execCorrectedError e handle s = .next (corrected (handle.elim s fun h => count s h.toNat 15 1) e) := by
  cases handle <;> exact happens_whenOk he _

/-- A row whose stamps in the window reach the threshold crosses (R404). -/
theorem corrected_crosses {s : State} {r : RowId} (hd : delayed s 3 = false) (h : s.mgmt.ecthr ≤
      ((((s.ec.find? fun e => e.row == r).map (·.stamps)).getD []).filter fun t =>
        decide ((s.dtime.extractLsb' 20 24 - t).toNat ≤ s.mgmt.ecwin)).length + 1) :
    ∃ rest, corrected s r = crossRow { s with ec := rest } r (hostMode s 4) :=
  ⟨_, (if_pos h).trans (if_neg (Bool.eq_false_iff.mp hd))⟩

/-- A spare row takes a row of local memory whose core holds no team, while spares last (R382). -/
theorem execRowSpare_local {idx : BitVec 10} {s : State} (hvalid : (retiredAt s idx.toNat).valid = true)
    (hnew : (retiredAt s idx.toNat).spared = false) (hkind : (retiredAt s idx.toNat).kind = 1)
    (hidle : s.teams.all (fun x => decide (x.2.core ≠
      some (192 * ((retiredAt s idx.toNat).unit_.toNat % 4) + (retiredAt s idx.toNat).unit_.toNat / 4 % 256))) = true)
    (hleft : (s.retired.filter fun x => x.2.valid && x.2.spared && x.2.kind == (retiredAt s idx.toNat).kind &&
      x.2.unit_ == (retiredAt s idx.toNat).unit_).length < 8) (hd : delayed s 3 = false) :
    execRowSpare idx s = .next { s with retired := kset s.retired idx.toNat { retiredAt s idx.toNat with spared := true } } := by
  refine happens_whenOk ?_ _
  rw [if_neg (by rw [hkind]; decide), hvalid, hnew, hd, hkind]
  rw [hkind] at hleft
  simpa using And.intro (by simpa using hidle) hleft

theorem execPowerLimit_limits {i : BitVec 6} {mhz : BitVec 16} {s : State} (hpair : pairIsland i.toNat = true)
    (hpos : 0 < mhz.toNat) (hstep : mhz.toNat ≤ 940 * (16 - (s.islands.getD i.toNat Island.init).step) / 16) :
    execPowerLimit i mhz s = .next (if delayed s 1 then queueFor s 1 (.power i mhz.toNat)
      else modIsland s i.toNat fun x => { x with mhz := mhz.toNat }) := by
  have hlimit : limitClock s i.toNat mhz.toNat = some (modIsland s i.toNat fun x => { x with mhz := mhz.toNat }) := by
    rw [limitClock, hpair, decide_eq_true hpos, stepClock, decide_eq_true hstep]
    rfl
  rw [execPowerLimit, hlimit]
  rfl

/-! ### Replay -/

theorem execReplay_quiet {h : BitVec 14} {s : State} {g : Grid} (hg : kget s.grids h.toNat = some g) (hr : g.replaying = true)
    (hroot : g.root.toNat = h.toNat) (hq : setQuiet s (setOf s h.toNat) = true) (hd : delayed s (cpOf s h.toNat) = false) :
    let b := restoreSnaps (((setOf s h.toNat).flatMap (teamsOf s)).foldl dropTeam s) h.toNat
    execReplay h s = .next (frWrite (modGrid
      { b with grids := b.grids.filter fun e => decide (e.1 = h.toNat) || !(setOf s h.toNat).contains e.1 } h.toNat restart)
      h.toNat none) := by
  intro b
  simp only [execReplay, hg]
  exact happens_whenOk (by rw [hr, decide_eq_true hroot, hq, hd]; rfl) _

/-! ### The statement -/

/-- Settles O54: each clause is the event's law where its conditions hold, or its definition. -/
theorem debugAndErrorEventsComplete : Obligations.debug_and_error_events_complete := by
  refine ⟨fun h s hon => ⟨happens_whenOk hon _, fun e => happens_whenOk hon _⟩,
    fun h s => rfl,
    fun n k s => ⟨execSeqHalt_set, rfl, execSeqStep_runs, execSeqStep_waits⟩,
    fun line s hown hthere => execUncorrectableError_line hown hthere,
    fun kind team pc gid s t u g c row ht hg hc hended hstop hset hrow r hr =>
      execUncorrectableError_structure ht hg hc hended hstop hset pc ?row,
    fun e h s he => ⟨execCorrectedError_counts he none, execCorrectedError_counts he (some h)⟩,
    fun s r hd => corrected_crosses hd,
    fun idx s => execRowSpare_local,
    fun i mhz s hd hpair hpos hstep => (execPowerLimit_limits hpair hpos hstep).trans (by rw [hd]; rfl),
    fun i mhz s hd hpair hpos hstep => (execPowerLimit_limits hpair hpos hstep).trans (by rw [hd]; rfl),
    fun h s g hg hr hroot hq hd => execReplay_quiet hg hr hroot hq hd⟩
  case row =>
    rw [hrow]
    rcases hr with ⟨hk, rfl⟩ | ⟨hk, rfl⟩ | ⟨hk, rfl⟩ | ⟨hk, rfl⟩ <;> rw [hk] <;> rfl

end Sys2Proof.Proofs
end

section
/-! Requests of the L2s (R249, R328): their sending and their retries change messages, credits and coherence alone. -/

namespace Sys2Proof.Proofs

open Sys2Proof.Machine

theorem told_tryRequest {s t : State} {die : BitVec 2} {line : Nat} {kind : CohKind} {stamp : Stamp} {pay : Payload}
    (h : tryRequest s die line kind stamp pay = some t) : Told s t := by
  unfold tryRequest at h
  extract_lets go at h
  split at h
  · cases h
    exact .refl s
  split at h
  · obtain ⟨u, hu, rfl⟩ := Option.map_eq_some_iff.mp h
    exact (told_takeRequest hu).trans (.mk ..)
  · cases h
    exact .mk ..

/-- What an attempt to send leaves, whether or not it succeeds. -/
theorem told_tryRequest_getD (s : State) (die : BitVec 2) (line : Nat) (kind : CohKind) (stamp : Stamp) (pay : Payload) :
    Told s ((tryRequest s die line kind stamp pay).getD s) := by
  cases h : tryRequest s die line kind stamp pay with
  | none => exact .refl s
  | some t => exact told_tryRequest h

theorem told_waitRequest (s : State) (e : Nat × Nat × CohKind × Payload) : Told s (waitRequest s e) := by
  unfold waitRequest
  split
  · exact .refl s
  · exact .mk ..

theorem told_issueRequest (s : State) (die line tag : Nat) (kind : CohKind) (pay : Payload) :
    Told s (issueRequest s die line tag kind pay) := (told_tryRequest_getD ..).trans (.mk ..)

theorem told_cohRequest (s : State) (die line : Nat) (kind : CohKind) (pay : Payload) : Told s (cohRequest s die line kind pay) := by
  unfold cohRequest
  split
  · exact told_waitRequest ..
  split
  · split
    · exact .refl s
    · exact told_waitRequest ..
  split
  · exact told_waitRequest ..
  · exact told_issueRequest ..

theorem told_setL2 (s : State) (die line : Nat) (st : LineState) : Told s (setL2 s die line st) := .mk ..

theorem told_l2Evict (s : State) (die line : Nat) : Told s (l2Evict s die line) := by
  unfold l2Evict
  extract_lets st t
  split
  · exact told_setL2 ..
  · exact (told_setL2 ..).trans (told_cohRequest ..)

theorem told_l2Put (s : State) (die line : Nat) (st : LineState) : Told s (l2Put s die line st) := by
  unfold l2Put
  extract_lets m
  split
  · exact told_setL2 ..
  · dsimp only
    exact (told_pick s m.length).trans ((told_l2Evict ..).trans (told_setL2 ..))

theorem told_takeLine (s : State) (die line : Nat) (new : LineState) (kind : CohKind) (pay : Payload) :
    Told s (takeLine s die line new kind pay) := by
  unfold takeLine
  split
  · exact told_l2Put ..
  · exact told_cohRequest ..

theorem told_storeLine (s : State) (die line : Nat) : Told s (storeLine s die line) := by
  unfold storeLine
  split
  · exact .refl s
  · exact told_setL2 ..
  all_goals exact told_takeLine ..

theorem told_atomLine (s : State) (die line : Nat) (pay : Payload) : Told s (atomLine s die line pay) := by
  unfold atomLine
  split
  · exact told_takeLine ..
  extract_lets st t
  have ht : Told s t := by
    unfold t
    split
    · exact told_cohRequest ..
    · exact .refl s
  exact ht.trans ((told_setL2 ..).trans (told_cohRequest ..))

theorem told_retryRequest (s : State) (e : Nat × Nat × CohKind × Payload) : Told s (retryRequest s e) := by
  obtain ⟨die, line, kind, pay⟩ := e
  cases kind with
  | readShared =>
    dsimp only [retryRequest]
    split
    · exact told_takeLine ..
    · exact .refl s
  | readOwn | upgrade => exact told_storeLine ..
  | writeBack | cleanEvict =>
    dsimp only [retryRequest]
    split
    · exact told_cohRequest ..
    · exact .refl s
  | atomic => exact told_atomLine ..

theorem told_retryBacklog (s : State) : Told s (retryBacklog s) :=
  .trans (.mk ..) (.foldl told_retryRequest _ _)

theorem told_sendReq (s : State) (m : Mshr) : Told s (sendReq s m) := (told_tryRequest_getD ..).trans (.mk ..)

theorem told_retryUnsent (s : State) : Told s (retryUnsent s) := .foldl told_sendReq s _

end Sys2Proof.Proofs
end

section
/-! The events of the fabric: flits, links, PUTs, notifications, credits and time (R20, R26, R324 to R330, R401, R409, R414). -/

namespace Sys2Proof.Proofs

open Sys2Proof.Machine

/-! ### Links -/

theorem InSeqs.foldl {α : Type} {f : State → α → State} (hf : ∀ s a, InSeqs s (f s a)) (s : State) (l : List α) :
    InSeqs s (l.foldl f s) :=
  List.foldlRecOn l f (.refl s) fun t ht a _ => ht.trans (hf t a)

theorem inSeqs_schedule (s : State) (n : Nat) : InSeqs s (schedule s n) := inSeqs_modSeq ..

theorem inSeqs_creditCtx (s : State) (n k : Nat) : InSeqs s (creditCtx s n k) := by
  unfold creditCtx
  extract_lets c
  split
  · exact .refl s
  split
  · exact (inSeqs_modCtx ..).trans (inSeqs_schedule ..)
  · exact inSeqs_advanceCtx ..
  · exact inSeqs_advanceCtx ..
  · exact .refl s

/-- What a credit or a route has held is tried again in the sequencers and the L2s alone. -/
theorem inSeqs_wakeSenders (s : State) : InSeqs s (wakeSenders s) :=
  (InSeqs.foldl (fun s (p : Nat × Nat) => inSeqs_creditCtx s p.1 p.2) s _).trans (told_retryUnsent _).inSeqs

theorem InSeqs.delayed {s t : State} (h : InSeqs s t) (n : Nat) : delayed t n = delayed s n := by cases h; rfl
theorem InSeqs.hostMode {s t : State} (h : InSeqs s t) (n : Nat) : hostMode t n = hostMode s n := by cases h; rfl

section
variable {n : BitVec 5} {s : State}

theorem execFlitReceive_up {f : List Byte} (hup : (s.links.getD n.toNat Link.init).up = true) (hlen : f.length = 256) :
    execFlitReceive n f s = .next (if flitGood (s.links.getD n.toNat Link.init) f
      then modLink s n.toNat fun l =>
        parseStream { l with seq := l.seq + 1, owed := l.owed + 1, acked := BitVec.ofNat 12 (ofBytes (f.take 8) / 2 ^ 12)
                             credits := l.credits + ofBytes (f.take 8) / 2 ^ 24 % 2 ^ 8 } ((f.drop 8).take 240) else s) :=
  happens_whenOk (by rw [hup, decide_eq_true hlen]; rfl) _

/-- A link that goes down wakes what waits for it, and the controller is told as it stands before. -/
theorem execLinkDown_up (hup : (s.links.getD n.toNat Link.init).up = true) :
    let t := wakeSenders (modLink s n.toNat fun l => { l with up := false, lost := hostMode s 3 })
    execLinkDown n s = .next (if hostMode s 3 = true then ctlTell t 2 "link down" [n.toNat]
      else if delayed s 2 = true then queueFor t 2 (.linkDown n.toNat) else t) := by
  intro t
  have ht : InSeqs (modLink s n.toNat fun l => { l with up := false, lost := hostMode s 3 }) t := inSeqs_wakeSenders _
  refine (happens_whenOk hup _).trans ?_
  change Host.Outcome.next (if hostMode t 3 = true then _ else if delayed t 2 = true then _ else _) = _
  rw [ht.hostMode, ht.delayed]
  rfl

theorem execLinkUp_down (hn : n.toNat < 24) (hdown : (s.links.getD n.toNat Link.init).up = false) :
    execLinkUp n s = .next (wakeSenders (modLink s n.toNat fun l =>
      { l with up := true, lost := false, seq := 0, acked := 0, credits := Config.linkCredits, txSeq := 0, owed := 0, head := []
               cur := none, body := 0 })) :=
  happens_whenOk (by rw [hdown, decide_eq_true hn]; rfl) _

end

theorem sendFlit_full {s : State} {n : Nat} (hup : (s.links.getD n Link.init).up = true) (hcredit : 0 < (s.links.getD n Link.init).credits)
    (hfull : 240 ≤ (s.links.getD n Link.init).out.length) :
    sendFlit s n = emit (modLink s n fun l =>
        { l with txSeq := l.txSeq + 1, credits := l.credits - 1, owed := l.owed - min l.owed 255, out := l.out.drop 240 })
      (.link "flit" n ((flitBody (s.links.getD n Link.init) ++
        toBytes 8 (Config.crc64 (flitBody (s.links.getD n Link.init))).toNat).map BitVec.toNat)) :=
  if_pos ⟨hup, hcredit, hfull⟩

/-! ### Remote writes at their target -/

section
variable {m : PutMsg} {s q : State} (hdst : m.dst = s.pkg) (hq : putArrives s m = some q)
include hdst hq

/-- The write of a PUT, once its message is taken in (R324). -/
theorem execPutMessage_reached (hadmits : windowAdmits (windowAt (echoMark q m.src) m.key.toNat) m = true) {sp : Nat} {v : State}
    (hsp : spaceOfPid (echoMark q m.src) (windowAt (echoMark q m.src) m.key.toNat).pid = some sp)
    (hv : sysWrite (echoMark q m.src) sp (((windowAt (echoMark q m.src) m.key.toNat).base.toNat + m.offset.toNat) % 2 ^ 64) 8
      m.value.toNat = some v) :
    execPutMessage m s = .next (if (windowAt (echoMark q m.src) m.key.toNat).notify then
        { v with notes := v.notes ++ [⟨m.key.toNat % 256, m.word, m.src, m.putk, m.offset, m.issuer⟩] }
      else sendPutAck v m.issuer m.src none) := by
  simp only [execPutMessage, hdst, ne_eq, not_true, if_false, hq, hadmits, Bool.not_true, Bool.false_eq_true, hsp, Option.bind_some, hv,
    happens_some]

theorem execPutMessage_fails (hadmits : windowAdmits (windowAt (echoMark q m.src) m.key.toNat) m = true)
    (hv : ∀ sp, spaceOfPid (echoMark q m.src) (windowAt (echoMark q m.src) m.key.toNat).pid = some sp →
      sysWrite (echoMark q m.src) sp (((windowAt (echoMark q m.src) m.key.toNat).base.toNat + m.offset.toNat) % 2 ^ 64) 8
        m.value.toNat = none) :
    execPutMessage m s = .next (sendPutAck (echoMark q m.src) m.issuer m.src (some 1)) := by
  have hnone : ((spaceOfPid (echoMark q m.src) (windowAt (echoMark q m.src) m.key.toNat).pid).bind fun sp =>
      sysWrite (echoMark q m.src) sp (((windowAt (echoMark q m.src) m.key.toNat).base.toNat + m.offset.toNat) % 2 ^ 64) 8
        m.value.toNat) = none := Option.bind_eq_none_iff.mpr hv
  simp only [execPutMessage, hdst, ne_eq, not_true, if_false, hq, hadmits, Bool.not_true, Bool.false_eq_true, hnone, happens_some]

theorem execPutMessage_refused (hadmits : windowAdmits (windowAt (echoMark q m.src) m.key.toNat) m = false) :
    execPutMessage m s = .next (sendPutAck
      (if (windowAt (echoMark q m.src) m.key.toNat).valid && (windowAt (echoMark q m.src) m.key.toNat).pid != m.pid
        then { echoMark q m.src with protErrs := (echoMark q m.src).protErrs + 1 } else echoMark q m.src) m.issuer m.src (some 0)) := by
  simp [execPutMessage, hdst, hq, hadmits]

end

section
variable {k : BitVec 8} {s : State} {n : Note} (hn : s.notes.find? (fun n => n.win == k.toNat) = some n)
include hn

theorem execNotifyAppend_room {sp cons : Nat} {v : State} (hsp : spaceOfPid s (windowAt s k.toNat).pid = some sp)
    (hcons : sysRead s sp (windowAt s k.toNat).nqcons.toNat 8 = some cons)
    (hroom : ((windowAt s k.toNat).nqprod.toNat + 2 ^ 64 - cons) % 2 ^ 64 < 2 ^ (windowAt s k.toNat).nqlog.toNat)
    (hv : sysWrite s sp (((windowAt s k.toNat).nqbase.toNat +
        16 * ((windowAt s k.toNat).nqprod.toNat % 2 ^ (windowAt s k.toNat).nqlog.toNat)) % 2 ^ 64) 16
      (noteBytes n (windowAt s k.toNat).nqprod) = some v) :
    execNotifyAppend k s = .next (sendPutAck
      { v with windows := kset v.windows k.toNat { windowAt s k.toNat with nqprod := (windowAt s k.toNat).nqprod + 1 }
               notes := v.notes.erase n } n.issuer n.src none) := by
  simp only [execNotifyAppend, hn, hsp, hcons, if_neg (Nat.not_le_of_lt hroom), hv, happens_some]

theorem execNotifyAppend_unreached
    (hread : ∀ sp, spaceOfPid s (windowAt s k.toNat).pid = some sp → sysRead s sp (windowAt s k.toNat).nqcons.toNat 8 = none) :
    execNotifyAppend k s = .next (sendPutAck { s with notes := s.notes.erase n } n.issuer n.src (some 1)) := by
  cases hsp : spaceOfPid s (windowAt s k.toNat).pid with
  | none => simp only [execNotifyAppend, hn, hsp, happens_some]
  | some sp => simp only [execNotifyAppend, hn, hsp, hread sp hsp, happens_some]

end

/-! ### Acknowledgements -/

/-- What an acknowledgement of a grid's write makes of a state where it has been taken in (R324, R361). -/
def gridAck (t : State) (h : BitVec 14) (team gid : Nat) (d : Option (BitVec 8)) : State :=
  let t := modGrid t h.toNat fun g => { g with puts := g.puts - 1 }
  match d with
  | some c => recordPut t h.toNat team gid c.toNat
  | none => t

section
variable {m : PutAckMsg} {s t : State} (hdst : m.dst = s.pkg) (ht : ackArrives s m = some t)
include hdst ht

theorem execPutAck_grid {h : BitVec 14} {team : BitVec 32} {gid : BitVec 5} {g : Grid} (hm : m.issuer = .grid h team gid)
    (hg : kget s.grids h.toNat = some g) (hputs : 0 < g.puts) :
    execPutAck m s = .next (gridAck t h team.toNat gid.toNat m.detail) := by
  simp only [execPutAck, if_pos hdst, ht, hm]
  exact happens_whenOk (by rw [hg]; exact decide_eq_true hputs) _

theorem execPutAck_ctx {n : BitVec 5} {k : BitVec 2} {cid : BitVec 28} {pc : BitVec 11} (hm : m.issuer = .ctx n k cid pc) :
    execPutAck m s = .next (if m.detail.isSome then recordFault t cid n.toNat k.toNat 0x05 0 pc else t) := by
  simp only [execPutAck, if_pos hdst, ht, hm, happens_some]

end

/-- An acknowledgement of this package's own leaves the outbox. -/
theorem ackArrives_own {s : State} {m : PutAckMsg} (h : s.outbox = [.putAck m]) : ackArrives s m = some { s with outbox := [] } := by
  simp [ackArrives, h]

/-- One of another package's answers the write that it can answer. -/
theorem ackArrives_other {s : State} {m : PutAckMsg} {o : PutMsg} (h : s.outbox = [.put o]) (hissuer : o.issuer = m.issuer)
    (haway : o.dst ≠ s.pkg) (hpresent : present s o.dst = decide (m.detail ≠ some 2)) :
    ackArrives s m = some { s with outbox := [], issued := s.issued.filter fun i => i.msg != .put o } := by
  simp [ackArrives, h, hissuer, haway, hpresent]

/-! ### Credits and rates -/

theorem execCreditReturn_known {g : Grantor} {q b : Nat} {s : State} {x : Peer} (hx : kget s.peers (grantorKey g) = some x)
    (hmode : markMode s = false) : execCreditReturn g q b s = .next (wakeSenders
      { s with peers := kset s.peers (grantorKey g) { x with reqs := min 8 (x.reqs + q), bulk := min 32 (x.bulk + b) } }) := by
  simp only [execCreditReturn, hx]
  exact happens_whenOk (by rw [hmode]; rfl) _

section
variable {p : BitVec 12} {s : State} {x : Peer} (hx : kget s.peers p.toNat = some x) (hmode : markMode s = true)
include hx hmode

theorem execRateRecovery_quiet (hlong : 2000 ≤ (s.dtime - x.quiet).toNat) : execRateRecovery p s =
    .next { s with peers := kset s.peers p.toNat { x.raise with quiet := x.quiet + 2000 } } := by
  simp only [execRateRecovery, hx]
  exact happens_whenOk (by rw [hmode, decide_eq_true hlong]; rfl) _

theorem execMarkEcho_first (hcut : x.cut = none) : execMarkEcho p s =
    .next { s with peers := kset s.peers p.toNat { x.halve with quiet := s.dtime, cut := some s.dtime } } := by
  simp only [execMarkEcho, hx]
  refine (happens_whenOk hmode _).trans ?_
  rw [hcut]
  rfl

end

/-! ### Bring-up and time -/

theorem kget_foldl_kset {α : Type} (v : α) (l : List Nat) (m : KMap α) (k : Nat) :
    kget (l.foldl (fun m j => kset m j v) m) k = if k ∈ l then some v else kget m k := by
  induction l generalizing m with
  | nil => simp
  | cons j l ih =>
    rw [List.foldl_cons, ih, Laws.kget_kset]
    by_cases hk : k ∈ l
    · simp [hk]
    · simp [hk]

/-- Each package that joins has its credits. -/
theorem grantPeers_fresh (s : State) (others : List (BitVec 12)) {fresh : List (BitVec 12)} (now : DWord) (first : Bool)
    {p : BitVec 12} (hp : p ∈ fresh) : kget (grantPeers s others fresh now first) p.toNat = some (Peer.init now) := by
  rw [grantPeers, kget_foldl_kset, if_pos (List.mem_append_left _ (List.mem_map_of_mem hp))]

/-- At the first bring-up each link's switch has its credits too (R328). -/
theorem grantPeers_switch (s : State) (others fresh : List (BitVec 12)) (now : DWord) {n : Nat} (hn : n < 24) :
    kget (grantPeers s others fresh now true) (4096 + n) = some (Peer.init now) := by
  rw [grantPeers, kget_foldl_kset, if_pos]
  exact List.mem_append_right _ (List.mem_map_of_mem (List.mem_range.mpr hn))

theorem Told.dtime {s t : State} (h : Told s t) : t.dtime = s.dtime := by cases h; rfl

theorem told_dropForeign (s : State) : Told s (dropForeign s) := .trans (.mk ..) (told_retryBacklog _)

section
variable {b : BringUp} {s : State} (hrun : allRun s = true) (hd : delayed s 2 = false) (hpkgs : ∀ p ∈ b.pkgs, p.toNat < 2304)
  (hnodup : b.pkgs.Nodup)
include hrun hd hpkgs hnodup

/-- What a bring-up leaves, before its end (done is false) or after it: a package that rejoins drops the lines of others first (R260). -/
theorem execDomainBringUp_joins {done : Bool} (hdone : s.mgmt.fabmode.getLsbD 1 = done)
    (htime : done = true ∨ s.dtime.toNat ≤ b.time.toNat) :
    let others := b.pkgs.filter fun p => p != s.pkg
    let now := if done then s.dtime else b.time
    ∃ t, exec (.domainBringUp b) s = .next t ∧ t.dtime = now ∧ t.pkgs = s.pkg :: others ∧ (done = false → t.slew = some b.time) ∧
      ∃ u, t.peers = grantPeers u others (others.filter fun p => !done || !present s p) now (!done) := by
  intro others now
  have hok : (allRun s && !delayed s 2 && b.pkgs.all (fun p => decide (p.toNat < 2304)) && decide b.pkgs.Nodup
      && (s.mgmt.fabmode.getLsbD 1 || decide (s.dtime.toNat ≤ b.time.toNat))) = true := by
    rw [hdone]
    simpa [hrun, hd, hnodup] using And.intro hpkgs htime
  have hdrop : Told s (if b.rejoin then dropForeign s else s) := by
    split
    · exact told_dropForeign s
    · exact .refl s
  have hnow : (if s.mgmt.fabmode.getLsbD 1 then (if b.rejoin then dropForeign s else s).dtime else b.time) = now := by
    rw [hdone, hdrop.dtime]
  refine ⟨_, happens_whenOk hok _, hnow, congrArg (· :: _) hdrop.pkg, fun hfirst => ?slew, (if b.rejoin then dropForeign s else s), ?peers⟩
  case slew =>
    have hnot : ¬ s.mgmt.fabmode.getLsbD 1 = true := by rw [hdone, hfirst]; exact Bool.false_ne_true
    exact (if_neg hnot).trans (congrArg some (if_neg hnot))
  case peers =>
    rw [← hnow, ← hdone]

end

/-- A package of the domain that is not this one joins at its first bring-up, and afterwards where it was not present. -/
theorem mem_fresh {b : BringUp} {s : State} {done : Bool} {p : BitVec 12} (hp : p ∈ b.pkgs) (hne : p ≠ s.pkg)
    (h : done = false ∨ present s p = false) :
    p ∈ (b.pkgs.filter fun p => p != s.pkg).filter fun p => !done || !present s p := by
  simpa [hp, hne] using h

theorem execDtimeSync_drift {n : Nat} {s : State} {since : DWord} (hslew : s.slew = some since) (hd : delayed s 2 = false) (hn : n ≤ 250)
    (hlong : 10000 * n ≤ (s.dtime - since).toNat) : execDtimeSync n s =
    .next { s with dtime := s.dtime + BitVec.ofNat 64 n, slew := some (s.dtime + BitVec.ofNat 64 n) } := by
  simp only [execDtimeSync, hslew]
  exact happens_whenOk (by rw [hd, decide_eq_true hn, decide_eq_true hlong]; rfl) _

/-! ### The statement -/

/-- Settles O59: each clause is the event's law where its conditions hold. -/
theorem fabricEventsComplete : Obligations.fabric_events_complete := by
  refine ⟨fun n f s => execFlitReceive_up, fun n s => execLinkDown_up, fun n s => execLinkUp_down, fun s n => sendFlit_full,
    fun m s q hdst hq => ⟨fun hadmits sp v => execPutMessage_reached hdst hq hadmits, execPutMessage_fails hdst hq,
      execPutMessage_refused hdst hq⟩,
    fun k s n sp cons v hn => execNotifyAppend_room hn, fun k s n hn => execNotifyAppend_unreached hn,
    fun h team gid d s g hout => execPutAck_grid rfl (ackArrives_own hout) rfl,
    fun h team gid d s g o hout hissuer haway hpresent =>
      execPutAck_grid rfl (ackArrives_other hout hissuer haway hpresent) rfl,
    fun n k cid pc d s hout => execPutAck_ctx rfl (ackArrives_own hout) rfl,
    fun g q b s x => execCreditReturn_known,
    fun p s x hx => ⟨fun hmode => execRateRecovery_quiet hx hmode, fun hmode => execMarkEcho_first hx hmode⟩,
    fun b s hrun hd hpkgs hnodup hfirst htime => ?first, fun b s hrun hd hpkgs hnodup hlater => ?later,
    fun n s since => execDtimeSync_drift⟩
  case first =>
    obtain ⟨t, ht, hnow, hpk, hslew, u, hpeers⟩ := execDomainBringUp_joins hrun hd hpkgs hnodup hfirst (.inr htime)
    refine ⟨t, ht, hnow, hpk, hslew rfl, fun p hp hne => ?_, fun n hn => ?_⟩
    · rw [hpeers]
      exact grantPeers_fresh u _ b.time true (mem_fresh hp hne (.inl rfl))
    · rw [hpeers]
      exact grantPeers_switch u _ _ b.time hn
  case later =>
    obtain ⟨t, ht, hnow, hpk, -, u, hpeers⟩ := execDomainBringUp_joins hrun hd hpkgs hnodup hlater (.inl rfl)
    refine ⟨t, ht, hnow, hpk, fun p hp hne habsent => ?_⟩
    rw [hpeers]
    exact grantPeers_fresh u _ s.dtime false (mem_fresh hp hne (.inr habsent))

end Sys2Proof.Proofs
end

section
/-! The invariant, clause by clause, and what keeps each of its clauses (R17, R23, R300, R408, R410). -/

namespace Sys2Proof.Proofs

open Sys2Proof.Machine Sys2Proof.Safety Sys2Proof.Laws

/-! ### The clauses -/

/-- A table of groups is in canonical form, and so are the maps of each of its groups. -/
structure GroupsOk (m : KMap Group) : Prop where
  keys : kwf m = true
  all : m.all (fun e => groupOk e.2) = true

/-- There are 24 sequencers, each with its maps in canonical form. -/
structure SeqsOk (l : List Sequencer) : Prop where
  length : l.length = 24
  all : ∀ q ∈ l, seqOk q = true

/-- The invariant of the machine, clause by clause. -/
structure Inv (s : State) : Prop where
  mem : fwf s.mem = true
  groups : GroupsOk s.groups
  mgmt : mgmtOk s.mgmt = true
  teams : kwf s.teams = true
  grids : kwf s.grids = true
  seqs : SeqsOk s.seqs
  links : s.links.length = 24
  ctls : s.ctls.length = 8
  islands : s.islands.length = 64
  pools : s.pools.length = 4
  routeq : s.routeq.length = 4

theorem inv_iff (s : State) : Safety.inv s = true ↔ Inv s := by
  simp only [Safety.inv, Bool.and_eq_true, decide_eq_true_eq, List.all_eq_true]
  constructor
  · rintro ⟨⟨⟨⟨⟨⟨⟨⟨⟨⟨⟨⟨hmem, hgroup⟩, hmgmt⟩, hgroups⟩, hteams⟩, hgrids⟩, hseq⟩, hseqs⟩, hlinks⟩, hctls⟩, hislands⟩, hpools⟩, hroute⟩
    exact ⟨hmem, ⟨hgroups, List.all_eq_true.mpr hgroup⟩, hmgmt, hteams, hgrids, ⟨hseqs, hseq⟩, hlinks, hctls, hislands, hpools, hroute⟩
  · rintro ⟨hmem, ⟨hgroups, hgroup⟩, hmgmt, hteams, hgrids, ⟨hseqs, hseq⟩, hlinks, hctls, hislands, hpools, hroute⟩
    exact ⟨⟨⟨⟨⟨⟨⟨⟨⟨⟨⟨⟨hmem, List.all_eq_true.mp hgroup⟩, hmgmt⟩, hgroups⟩, hteams⟩, hgrids⟩, hseq⟩, hseqs⟩, hlinks⟩, hctls⟩, hislands⟩,
      hpools⟩, hroute⟩

/-! ### Maps and tables -/

section
variable {α : Type} {m : KMap α}

theorem kwf_kset (h : kwf m = true) (k : Nat) (v : α) : kwf (kset m k v) = true := kset_wfFrom h (Nat.zero_le k) v
theorem kwf_kdel (h : kwf m = true) (k : Nat) : kwf (kdel m k) = true := kdel_wfFrom h k
theorem kwf_filter (h : kwf m = true) (p : Nat × α → Bool) : kwf (m.filter p) = true := filter_wfFrom h p

theorem kwf_kmod (h : kwf m = true) (k : Nat) (f : α → α) : kwf (kmod m k f) = true := by
  unfold kmod
  split
  · exact kwf_kset h k _
  · exact h

theorem kwfFrom_kmapV {b : Nat} (h : kwfFrom b m = true) (f : Nat → α → α) : kwfFrom b (kmapV f m) = true := by
  induction m generalizing b with
  | nil => rfl
  | cons e m ih =>
    simp only [kmapV, List.map_cons, kwfFrom, Bool.and_eq_true] at h ⊢
    exact ⟨h.1, ih h.2⟩

theorem kwf_kmapV (h : kwf m = true) (f : Nat → α → α) : kwf (kmapV f m) = true := kwfFrom_kmapV h f

/-- What holds of every entry holds of the one that is read. -/
theorem all_kget {p : Nat × α → Bool} (h : m.all p = true) {k : Nat} {v : α} (hv : kget m k = some v) : p (k, v) = true := by
  induction m with
  | nil => cases hv
  | cons e m ih =>
    obtain ⟨j, u⟩ := e
    rw [List.all_cons, Bool.and_eq_true] at h
    rw [kget] at hv
    split at hv
    next hj =>
      cases hv
      rw [← hj]
      exact h.1
    next =>
      split at hv
      · cases hv
      · exact ih h.2 hv

end

theorem all_lmod {α : Type} {p : α → Prop} {l : List α} (h : ∀ x ∈ l, p x) {f : α → α} (hf : ∀ x, p x → p (f x)) (n : Nat) :
    ∀ x ∈ lmod l n f, p x := by
  intro x hx
  obtain ⟨i, hi⟩ := List.mem_iff_getElem?.mp hx
  simp only [lmod, List.getElem?_modify, Option.map_eq_map, Option.map_eq_some_iff] at hi
  obtain ⟨a, ha, rfl⟩ := hi
  have ha := h a (List.mem_of_getElem? ha)
  split
  · exact hf a ha
  · exact ha

theorem length_lmod {α : Type} (l : List α) (n : Nat) (f : α → α) : (lmod l n f).length = l.length := List.length_modify ..

theorem length_lmod_of {α : Type} {l : List α} {m : Nat} (h : l.length = m) (n : Nat) (f : α → α) : (lmod l n f).length = m :=
  (length_lmod ..).trans h

theorem length_lset_of {α : Type} {l : List α} {m : Nat} (h : l.length = m) (n : Nat) (v : α) : (lset l n v).length = m :=
  List.length_set.trans h

theorem length_map_of {α β : Type} {l : List α} {m : Nat} (h : l.length = m) (f : α → β) : (l.map f).length = m :=
  List.length_map f |>.trans h

/-! ### Groups -/

section
variable {m : KMap Group} {g : Group}

theorem GroupsOk.kget (h : GroupsOk m) {u : Nat} (hg : Sys2Proof.kget m u = some g) : groupOk g = true :=
  all_kget (p := fun e => groupOk e.2) h.all hg

theorem GroupsOk.kset (h : GroupsOk m) (hg : groupOk g = true) (u : Nat) : GroupsOk (kset m u g) :=
  ⟨kwf_kset h.keys u g, kset_all _ u g h.all hg⟩

theorem GroupsOk.kdel (h : GroupsOk m) (u : Nat) : GroupsOk (kdel m u) := ⟨kwf_kdel h.keys u, kdel_all _ u h.all⟩

theorem GroupsOk.kmod (h : GroupsOk m) (u : Nat) {f : Group → Group} (hf : ∀ g, groupOk g = true → groupOk (f g) = true) :
    GroupsOk (kmod m u f) := by
  unfold Sys2Proof.kmod
  split
  next hg => exact h.kset (hf _ (h.kget hg)) u
  · exact h

theorem groupOk_modSlices {f : Nat → Slice → Slice} (h : groupOk g = true) (l : List Nat)
    (hf : ∀ k q, sliceOk q = true → sliceOk (f k q) = true) : groupOk (g.modSlices l f) = true :=
  List.foldlRecOn (motive := fun g => groupOk g = true) l _ h fun _ hg k _ => groupOk_modSlice hg k (hf k)

/-- A change of every slice. -/
theorem groupOk_mapSlices {f : Slice → Slice} (h : groupOk g = true) (hf : ∀ q, sliceOk q = true → sliceOk (f q) = true) :
    groupOk { g with slices := g.slices.map f } = true := by
  obtain ⟨hv, hp, hs, hh⟩ := (groupOk_iff g).mp h
  refine (groupOk_iff _).mpr ⟨hv, hp, fun q hq => ?_, hh⟩
  obtain ⟨a, ha, rfl⟩ := List.mem_map.mp hq
  exact hf a (hs a ha)

theorem groupOk_writes (h : groupOk g = true) (l : List RegWrite) : groupOk (g.writes l) = true :=
  List.foldlRecOn (motive := fun g => groupOk g = true) l _ h fun _ hg w _ => groupOk_write hg w

end

theorem groupOk_foldl {α : Type} {f : Group → α → Group} {g : Group} {l : List α} (hg : groupOk g = true)
    (hf : ∀ g a, groupOk g = true → groupOk (f g a) = true) : groupOk (l.foldl f g) = true :=
  List.foldlRecOn (motive := fun g => groupOk g = true) l f hg fun g hg a _ => hf g a hg

/-! ### Sequencers -/

section
variable {l : List Sequencer}

theorem SeqsOk.lmod (h : SeqsOk l) (n : Nat) {f : Sequencer → Sequencer} (hf : ∀ q, seqOk q = true → seqOk (f q) = true) :
    SeqsOk (lmod l n f) := ⟨(length_lmod ..).trans h.length, all_lmod h.all hf n⟩

theorem seqOk_iff (q : Sequencer) : seqOk q = true ↔ fwf q.imem = true ∧ ∀ c ∈ q.ctxs, fwf c.k = true := by
  simp [seqOk]

theorem SeqsOk.getD (h : SeqsOk l) (n : Nat) : seqOk (l.getD n Sequencer.init) = true := by
  rw [List.getD_eq_getElem?_getD]
  cases hq : l[n]? with
  | none => decide
  | some q => exact h.all q (List.mem_of_getElem? hq)

theorem fwf_ctx {q : Sequencer} (h : seqOk q = true) (k : Nat) : fwf (q.ctxs.getD k SeqCtx.init).k = true := by
  rw [List.getD_eq_getElem?_getD]
  cases hc : q.ctxs[k]? with
  | none => rfl
  | some c => exact ((seqOk_iff q).mp h).2 c (List.mem_of_getElem? hc)

/-- A change of one context, and of what a sequencer keeps beside its maps. -/
theorem seqOk_modCtx {q : Sequencer} {k : Nat} {f : SeqCtx → SeqCtx} {r l : Option Nat} {n : Nat} {t : List TlbEntry}
    (h : seqOk q = true) (hf : ∀ c, fwf c.k = true → fwf (f c).k = true) :
    seqOk { q with ctxs := lmod q.ctxs k f, run := r, last := l, streak := n, tlb := t } = true := by
  obtain ⟨himem, hctxs⟩ := (seqOk_iff q).mp h
  exact (seqOk_iff _).mpr ⟨himem, all_lmod (p := fun c : SeqCtx => fwf c.k = true) hctxs hf k⟩

theorem seqOk_setWords {q : Sequencer} {l : List (Nat × DWord)} (h : seqOk q = true) :
    seqOk { q with imem := fsetAll q.imem l } = true :=
  have ⟨himem, hctxs⟩ := (seqOk_iff q).mp h
  (seqOk_iff _).mpr ⟨fsetAll_wf himem l, hctxs⟩

theorem seqOk_load {q : Sequencer} {l : List (Nat × DWord)} {k : Nat} {f : SeqCtx → SeqCtx} (h : seqOk q = true)
    (hf : ∀ c, fwf c.k = true → fwf (f c).k = true) : seqOk { q with imem := fsetAll q.imem l, ctxs := lmod q.ctxs k f } = true :=
  seqOk_modCtx (seqOk_setWords h) hf

end

/-! ### The invariant of what an operation answers -/

/-- Where there is a next state, it meets the invariant. -/
def InvOpt (o : Option State) : Prop := ∀ t, o = some t → Inv t
def InvNext (o : Host.Outcome State Fault Refusal) : Prop := ∀ t, o = .next t → Inv t

section
variable {s t : State} {o : Option State}

theorem invOpt_none : InvOpt none := nofun

theorem invOpt_some (h : Inv t) : InvOpt (some t) := by
  rintro _ ⟨⟩
  exact h

theorem invOpt_map {α : Type} {o : Option α} {f : α → State} (hf : ∀ a, o = some a → Inv (f a)) : InvOpt (o.map f) := by
  intro t ht
  obtain ⟨a, ha, rfl⟩ := Option.map_eq_some_iff.mp ht
  exact hf a ha

theorem invOpt_mapState {f : State → State} (ho : InvOpt o) (hf : ∀ t, Inv t → Inv (f t)) : InvOpt (o.map f) :=
  invOpt_map fun t ht => hf t (ho t ht)

theorem invOpt_bind {α : Type} {o : Option α} {f : α → Option State} (hf : ∀ a, o = some a → InvOpt (f a)) : InvOpt (o.bind f) := by
  intro t ht
  obtain ⟨a, ha, hfa⟩ := Option.bind_eq_some_iff.mp ht
  exact hf a ha t hfa

theorem invOpt_bindState {f : State → Option State} (ho : InvOpt o) (hf : ∀ t, Inv t → InvOpt (f t)) : InvOpt (o.bind f) :=
  invOpt_bind fun t ht => hf t (ho t ht)

theorem invOpt_orElse {f : Unit → Option State} (ho : InvOpt o) (hf : InvOpt (f ())) : InvOpt (o.orElse f) := by
  cases o with
  | none => exact hf
  | some t => exact ho

theorem invOpt_whenOk {c : Bool} {f : Unit → State} (hf : c = true → Inv (f ())) : InvOpt (whenOk c f) := by
  unfold whenOk
  split
  next hc => exact invOpt_some (hf hc)
  · exact invOpt_none

theorem inv_getD (ho : InvOpt o) (h : Inv s) : Inv (o.getD s) := by
  cases o with
  | none => exact h
  | some t => exact ho t rfl

theorem invNext_next (h : Inv t) : InvNext (.next t) := by
  rintro _ ⟨⟩
  exact h

theorem invNext_happens (h : Inv s) (ho : InvOpt o) : InvNext (happens s o) := invNext_next (inv_getD ho h)

/-! What a split on the answer of an operation knows of the state in it. -/

section
variable {α β γ : Type}

theorem inv_of_eq {f : α → State} {a b : α} (he : a = b) (h : Inv (f a)) : Inv (f b) := he ▸ h

theorem inv_of_some {o : Option State} (he : o = some t) (ho : InvOpt o) : Inv t := ho t he

theorem inv_fst_of_eq {p : State × α} {a : α} (he : p = (t, a)) (h : Inv p.1) : Inv t := inv_of_eq (f := Prod.fst) he h

theorem inv_snd_of_eq {p : α × State} {a : α} (he : p = (a, t)) (h : Inv p.2) : Inv t := inv_of_eq (f := Prod.snd) he h

theorem inv_snd_snd_of_eq {p : α × β × State} {a : α} {b : β} (he : p = (a, b, t)) (h : Inv p.2.2) : Inv t :=
  inv_snd_of_eq (congrArg Prod.snd he) h

theorem inv_snd_snd_snd_of_eq {p : α × β × γ × State} {a : α} {b : β} {c : γ} (he : p = (a, b, c, t)) (h : Inv p.2.2.2) : Inv t :=
  inv_snd_of_eq (congrArg (fun q => q.2.2) he) h

end

theorem inv_foldl {α : Type} {f : State → α → State} {l : List α} (h : Inv s) (hf : ∀ s a, Inv s → Inv (f s a)) : Inv (l.foldl f s) :=
  List.foldlRecOn l f h fun t ht a _ => hf t a ht

end

section
variable {s : State} (h : Inv s)
include h

theorem inv_foldlFst {α β : Type} {f : State × α → β → State × α} {l : List β} {a : α}
    (hf : ∀ p b, Inv p.1 → Inv (f p b).1) : Inv (l.foldl f (s, a)).1 :=
  List.foldlRecOn (motive := fun p : State × α => Inv p.1) l f h fun p hp b _ => hf p b hp

/-- Other tables of grids and teams. -/
theorem inv_tables {g : KMap Grid} {t : KMap Team} (hg : kwf g = true) (ht : kwf t = true) :
    Inv { s with grids := g, teams := t } := { h with grids := hg, teams := ht }

end

/-- The state that a meaning or a read leaves, whatever else it answers. -/
def resState : Res → State
  | .done s | .flow s | .stall s | .fault s .. | .trap s _ => s
def opReadState : OpRead → State
  | .ok _ s => s
  | .stop r => resState r
def gotState {α : Type} : Got α → State
  | .ok _ s => s
  | .stop r => resState r
def ioState : Io → State
  | .ok _ s | .page _ s | .fault s | .poison _ s | .wait s => s
def progressState : Progress → State
  | .finished _ s | .suspended _ _ s | .waiting _ s | .failed _ _ _ s => s
def launchReadState : LaunchRead → State
  | .ok _ s | .bad s | .wait s => s
def loadResState : LoadRes → State
  | .done _ _ s | .wait s => s
def packResState : PackRes → State
  | .done _ _ _ s | .wait s => s
def collResState : CollRes → State
  | .status _ _ s | .wait s => s

/-- A sequencer instruction's meaning leaves the invariant, and the maps of the context that goes on in canonical form. -/
def SeqResOk : SeqRes → Prop
  | .go c s => fwf c.k = true ∧ Inv s
  | .wait _ s | .page _ s | .fault _ _ s | .stop s => Inv s

section
variable {s : State} (h : Inv s)
include h

theorem seqResOk_go {c : SeqCtx} (hc : fwf c.k = true) : SeqResOk (.go c s) := ⟨hc, h⟩
theorem seqResOk_wait {w : SeqWait} : SeqResOk (.wait w s) := h
theorem seqResOk_page {va : Nat} : SeqResOk (.page va s) := h
theorem seqResOk_fault {cause addr : Nat} : SeqResOk (.fault cause addr s) := h
theorem seqResOk_stop : SeqResOk (.stop s) := h

end

theorem seqResOk_of_eq {r r' : SeqRes} (he : r = r') (h : SeqResOk r) : SeqResOk r' := he ▸ h

/-- A refill leaves the invariant, and the group's maps in canonical form. -/
def RefillOk : Refill → Prop
  | .ok s g => Inv s ∧ groupOk g = true
  | .trap s | .fault s => Inv s
  | .wait => True

/-! ### The operations of the state -/

section
variable {s : State} (h : Inv s)
include h

theorem inv_modGroup {u : Nat} {f : Group → Group} (hf : ∀ g, groupOk g = true → groupOk (f g) = true) : Inv (modGroup s u f) :=
  { h with groups := h.groups.kmod u hf }

theorem inv_put {x : Ctx} {g : Group} (hg : groupOk g = true) : Inv (x.put s g) := { h with groups := h.groups.kset hg x.uid }

theorem inv_modTeam {u : Nat} {f : Team → Team} : Inv (modTeam s u f) := { h with teams := kwf_kmod h.teams u f }

theorem inv_modGrid {u : Nat} {f : Grid → Grid} : Inv (modGrid s u f) := { h with grids := kwf_kmod h.grids u f }

theorem inv_modSeq {n : Nat} {f : Sequencer → Sequencer} (hf : ∀ q, seqOk q = true → seqOk (f q) = true) : Inv (modSeq s n f) :=
  { h with seqs := h.seqs.lmod n hf }

theorem inv_modCtx {n k : Nat} {f : SeqCtx → SeqCtx} (hf : ∀ c, fwf c.k = true → fwf (f c).k = true) : Inv (modCtx s n k f) :=
  inv_modSeq h fun _ hq => seqOk_modCtx hq hf

theorem inv_modLink {n : Nat} {f : Link → Link} : Inv (modLink s n f) := { h with links := length_lmod_of h.links _ _ }
theorem inv_modCtl {n : Nat} {f : Controller → Controller} : Inv (modCtl s n f) := { h with ctls := length_lmod_of h.ctls _ _ }
theorem inv_modIsland {n : Nat} {f : Island → Island} : Inv (modIsland s n f) :=
  { h with islands := length_lmod_of h.islands _ _ }
theorem inv_modRoute {d : Nat} {f : List EngOp → List EngOp} : Inv (modRoute s d f) :=
  { h with routeq := length_lmod_of h.routeq _ _ }

/-- The group that the table holds has its maps in canonical form. -/
theorem Inv.groupOk {u : Nat} {g : Group} (hg : kget s.groups u = some g) : groupOk g = true := h.groups.kget hg

theorem groupOk_ctxOf {u e : Nat} {x : Ctx} (hx : ctxOf s u e = some x) : groupOk x.g = true :=
  have ⟨_, _, hg, _⟩ := ctxOf_some hx
  h.groupOk hg

theorem groupOk_ctx {x : Ctx} (hx : ctx? s = some x) : groupOk x.g = true := groupOk_ctxOf h (ctx_some hx)

theorem fwf_ctxAt (n k : Nat) : fwf (ctxAt s n k).k = true := fwf_ctx (h.seqs.getD n) k

theorem fwf_sctx {x : SCtx} (hx : sctx? s = some x) : fwf x.c.k = true := by
  rw [(runsNow_of_sctx hx).ctx]
  exact fwf_ctxAt h _ _

end

section
variable {s t : State} (h : Inv s)
include h

/-- Messages, free choices, credits and coherence are no part of the invariant. -/
theorem Told.inv (ht : Told s t) : Inv t := by
  cases ht
  exact { h with }

end

end Sys2Proof.Proofs
end

section
/-! The operations on memory, and those that the meanings share, keep the invariant (R190 to R249, R358 to R368). -/

namespace Sys2Proof.Proofs

open Sys2Proof.Machine Sys2Proof.Safety Sys2Proof.Laws

theorem inv_pick {s : State} {n : ℕ} (h : Inv s) : Inv (pick s n).2 := by
  unfold pick
  dsimp only
  exact { h with }

theorem inv_setCore {s : State} {c : ℕ} {k : Core} (h : Inv s) : Inv (setCore s c k) := { h with }

theorem inv_modCore {s : State} {c : ℕ} {f : Core → Core} (h : Inv s) : Inv (modCore s c f) := inv_setCore h

theorem inv_tlbLookup {cap : ℕ} {old tlb : List TlbEntry} {space va : ℕ} {w : Walk} {s : State} (h : Inv s) :
    Inv (tlbLookup cap old tlb space va w s).2.2.2 := by
  unfold tlbLookup
  extract_lets fill same now
  have hfill : ∀ (l : List TlbEntry) (t : State), Inv t → Inv (fill l t).2 := by
    intro _ _ ht
    unfold fill
    split
    · split
      · exact ht
      · split
        next he => exact inv_snd_of_eq he (inv_pick ht)
    · exact ht
  have hnow : ∀ (t : State), Inv t → Inv (now t).2.2.2 := by
    intro _ ht
    unfold now
    split
    · exact ht
    · split
      next he => exact inv_snd_of_eq he (hfill _ _ ht)
  split
  · exact hnow _ h
  · split
    · exact hnow _ h
    · split
      next s1 he1 =>
        have ht : Inv s1 := inv_snd_of_eq he1 (inv_pick h)
        split
        · exact ht
        · exact hnow _ ht

theorem inv_translateFrom {old : List TlbEntry} {s : State} {core : ℕ} {ahead : Bool} {space va : ℕ} (h : Inv s) :
    Inv (translateFrom old s core ahead space va).2.2 := by
  unfold translateFrom
  split
  next s1 he =>
    have ht : Inv s1 := inv_snd_snd_snd_of_eq he (inv_tlbLookup h)
    split
    · exact ht
    · dsimp only
      exact inv_modCore ht

theorem inv_translate {s : State} {core : ℕ} {ahead : Bool} {space va : ℕ} (h : Inv s) :
    Inv (Machine.translate s core ahead space va).2.2 :=
  inv_translateFrom h

theorem inv_checkFrom {old : List TlbEntry} {core space : ℕ} {ahead : Bool} {n : Need} {s : State} {l : List (ℕ × ℕ)}
    (h : Inv s) : Inv (checkFrom old core space ahead n s l).2.2 := by
  induction l generalizing s with
  | nil => exact h
  | cons e l ih =>
    obtain ⟨k, va⟩ := e
    by_cases hr : inGridSpace va = true
    · simp only [checkFrom, hr]
      exact ih (inv_translateFrom h)
    · simp only [checkFrom, hr]
      exact ih h

theorem inv_checkEach {core space : ℕ} {ahead : Bool} {n : Need} {s : State} {l : List (ℕ × ℕ)} (h : Inv s) :
    Inv (checkEach core space ahead n s l).2.2 :=
  inv_checkFrom h

theorem inv_checkAccesses {s : State} {core space : ℕ} {ahead : Bool} {n : Need} {align : ℕ} {l : List (ℕ × ℕ)} (h : Inv s) :
    Inv (checkAccesses s core space ahead n align l).2.2 := by
  unfold checkAccesses
  split
  · exact h
  · split
    next s1 he1 =>
      have ht : Inv s1 := inv_snd_snd_of_eq he1 (inv_checkEach h)
      split
      · exact ht
      · exact ht
      · exact ht
      · exact ht
      · extract_lets pages
        clear_value pages
        split
        · exact ht
        · exact ht

theorem inv_copyGranuleOf {s : State} {gran dst : ℕ} (h : Inv s) : Inv (copyGranuleOf s gran dst) :=
  { h with mem := copyGranule_wf h.mem _ _ }

theorem inv_markNonReplay {s : State} {h : ℕ} (hs : Inv s) : Inv (markNonReplay s h) := by
  unfold markNonReplay
  split
  · exact inv_modGrid hs
  · exact hs

theorem inv_snapshot {s : State} {h pa : ℕ} (hs : Inv s) : Inv (snapshot s h pa).2 := by
  unfold snapshot
  split
  · exact hs
  · extract_lets gran
    split
    · dsimp only
      exact inv_markNonReplay hs
    · split
      · exact hs
      · split
        · extract_lets s1
          have hs1 : Inv s1 := inv_copyGranuleOf { hs with }
          dsimp only
          exact inv_modGrid hs1
        · dsimp only
          exact inv_markNonReplay hs

theorem inv_setL2 {s : State} {die line : ℕ} {st : LineState} (h : Inv s) : Inv (setL2 s die line st) := { h with }

theorem inv_takeRequest {s : State} {p : BitVec 12} (h : Inv s) : InvOpt (takeRequest s p) := by
  unfold takeRequest
  split
  · exact invOpt_none
  · split
    · exact invOpt_some h
    · split
      · split
        · exact invOpt_none
        · exact invOpt_some { h with }
      · exact invOpt_none

theorem inv_emitOn {s : State} {link : Option ℕ} {m : OutMsg} (h : Inv s) : Inv (emitOn s link m) := { h with }

theorem inv_emit {s : State} {m : OutMsg} (h : Inv s) : Inv (emit s m) := inv_emitOn h

theorem inv_tellAccess {s : State} {write : Bool} {pa n : ℕ} {l : List Byte} (h : Inv s) : Inv (tellAccess s write pa n l) := by
  unfold tellAccess
  split
  · exact inv_foldl h fun _ _ hs1 => inv_emit hs1
  · exact h

theorem inv_tryRequest {s : State} {die : BitVec 2} {line : ℕ} {kind : CohKind} {stamp : Stamp} {pay : Payload} (h : Inv s) :
    InvOpt (tryRequest s die line kind stamp pay) := by
  unfold tryRequest
  extract_lets go
  have hgo : ∀ (t : State), Inv t → Inv (go t) := fun _ ht => { ht with }
  split
  · exact invOpt_some h
  · split
    · exact invOpt_mapState (inv_takeRequest h) fun _ ht => hgo _ ht
    · exact invOpt_some (hgo _ h)

theorem inv_waitRequest {s : State} {e : ℕ × ℕ × CohKind × Payload} (h : Inv s) : Inv (waitRequest s e) := by
  unfold waitRequest
  split
  · exact h
  · exact { h with }

theorem inv_issueRequest {s : State} {die line tag : ℕ} {kind : CohKind} {pay : Payload} (h : Inv s) :
    Inv (issueRequest s die line tag kind pay) := by
  unfold issueRequest
  extract_lets st d sent m s1 old
  have hsent : InvOpt sent := inv_tryRequest h
  have hs1 : Inv s1 := inv_getD hsent h
  exact { hs1 with }

theorem inv_cohRequest {s : State} {die line : ℕ} {kind : CohKind} {pay : Payload} (h : Inv s) :
    Inv (cohRequest s die line kind pay) := by
  unfold cohRequest
  split
  · exact inv_waitRequest h
  · split
    · split
      · exact h
      · exact inv_waitRequest h
    · split
      · exact inv_waitRequest h
      · exact inv_issueRequest h

theorem inv_sendReq {s : State} {m : Mshr} (h : Inv s) : Inv (sendReq s m) := by
  unfold sendReq
  extract_lets sent s1 old
  have hsent : InvOpt sent := inv_tryRequest h
  have hs1 : Inv s1 := inv_getD hsent h
  exact { hs1 with }

theorem inv_retryUnsent {s : State} (h : Inv s) : Inv (retryUnsent s) := inv_foldl h fun _ _ hs1 => inv_sendReq hs1

theorem inv_l2Evict {s : State} {die line : ℕ} (h : Inv s) : Inv (l2Evict s die line) := by
  unfold l2Evict
  extract_lets st t
  have ht : Inv t := inv_setL2 h
  split
  · exact ht
  · exact inv_cohRequest ht

theorem inv_l2Put {s : State} {die line : ℕ} {st : LineState} (h : Inv s) : Inv (l2Put s die line st) := by
  unfold l2Put
  extract_lets m
  split
  · exact inv_setL2 h
  · split
    next he => exact inv_setL2 (inv_l2Evict (inv_snd_of_eq he (inv_pick h)))

theorem inv_readCurrent {s : State} {die line : ℕ} (h : Inv s) : Inv (readCurrent s die line) := by
  unfold readCurrent
  extract_lets st
  exact { h with }

theorem inv_takeLine {s : State} {die line : ℕ} {new : LineState} {kind : CohKind} {pay : Payload} (h : Inv s) :
    Inv (takeLine s die line new kind pay) := by
  unfold takeLine
  split
  · exact inv_l2Put h
  · exact inv_cohRequest h

theorem inv_storeLine {s : State} {die line : ℕ} (h : Inv s) : Inv (storeLine s die line) := by
  unfold storeLine
  split
  · exact h
  · exact inv_setL2 h
  · exact inv_takeLine h
  · exact inv_takeLine h
  · exact inv_takeLine h

theorem inv_atomLine {s : State} {die line : ℕ} {pay : Payload} (h : Inv s) : Inv (atomLine s die line pay) := by
  unfold atomLine
  split
  · exact inv_takeLine h
  · extract_lets st s1
    have hs1 : Inv s1 := by
      unfold s1
      split
      · exact inv_cohRequest h
      · exact h
    exact inv_cohRequest (inv_setL2 hs1)

theorem inv_l2Touch {s : State} {die pa : ℕ} {ev : L2Event} {pay : Payload} (h : Inv s) : Inv (l2Touch s die pa ev pay) := by
  unfold l2Touch
  extract_lets line
  split
  · split
    · exact h
    · split
      · split
        next s1 he =>
          have ht : Inv s1 := inv_snd_of_eq he (inv_pick h)
          split
          · exact inv_cohRequest ht
          · exact inv_readCurrent ht
      · exact inv_takeLine h
  · exact inv_storeLine h
  · split
    · exact inv_storeLine h
    · exact inv_atomLine h

theorem inv_retryRequest {s : State} {e : ℕ × ℕ × CohKind × Payload} (h : Inv s) : Inv (retryRequest s e) := by
  unfold retryRequest
  split
  · split
    · split
      · exact inv_takeLine h
      · exact h
    · exact inv_storeLine h
    · exact inv_storeLine h
    · split
      · exact inv_cohRequest h
      · exact h
    · split
      · exact inv_cohRequest h
      · exact h
    · exact inv_atomLine h

theorem inv_retryBacklog {s : State} (h : Inv s) : Inv (retryBacklog s) :=
  inv_foldl { h with } fun _ _ hs1 => inv_retryRequest hs1

theorem inv_seeBytes {s : State} {keys : List ℕ} {n n1 : ℕ} (h : Inv s) : Inv (seeBytes s keys n n1) := by
  unfold seeBytes
  split
  · exact { h with }
  · exact h

theorem inv_groupBytes {found s : State} {keys : List ℕ} {held : KMap Byte} {pa : ℕ} {l : List Byte} (h : Inv s) :
    Inv (groupBytes found s keys held pa l).2 := by
  unfold groupBytes
  split
  · split
    · dsimp only
      exact { h with }
  · exact h

theorem inv_loadFrom {found s : State} {core : ℕ} {keys : List ℕ} {held : KMap Byte} {nc : Bool} {pa n : ℕ} (h : Inv s) :
    Inv (loadFrom found s core keys held nc pa n).2.2 := by
  unfold loadFrom
  extract_lets k fresh answer insert
  have hanswer : ∀ (line : FMap 8) (hit : Bool) (t : State), Inv t → Inv (answer line hit t).2.2 := by
    intro _ _ _ ht
    unfold answer
    split
    next he => exact inv_snd_of_eq he (inv_groupBytes ht)
  have hinsert : ∀ (t : State), Inv t → Inv (insert t) := by
    intro _ ht
    unfold insert
    extract_lets s1
    have hs1 : Inv s1 := inv_l2Touch ht
    split
    · exact hs1
    · split
      · exact inv_modCore hs1
      · split
        next he => exact inv_modCore (inv_snd_of_eq he (inv_pick hs1))
  split
  · exact hanswer _ _ _ (hinsert _ h)
  · split
    · exact hanswer _ _ _ h
    · split
      next s1 he1 =>
        have ht : Inv s1 := inv_snd_of_eq he1 (inv_pick h)
        split
        · exact hanswer _ _ _ ht
        · exact hanswer _ _ _ (by
            split
            · exact inv_modCore ht
            · exact hinsert _ ht)

theorem inv_loadBytes {s : State} {core : ℕ} {keys : List ℕ} {held : KMap Byte} {nc : Bool} {pa n : ℕ} (h : Inv s) :
    Inv (loadBytes s core keys held nc pa n).2.2 :=
  inv_loadFrom h

theorem inv_refreshL1 {s : State} {core : ℕ} {keys : List ℕ} {pa n : ℕ} (h : Inv s) : Inv (refreshL1 s core keys pa n) := by
  unfold refreshL1
  extract_lets s1
  have hs1 : Inv s1 := inv_seeBytes h
  split
  · exact inv_modCore hs1
  · exact hs1

theorem inv_dropL1 {s : State} {core : ℕ} (h : Inv s) : Inv (dropL1 s core) := inv_modCore h

theorem inv_storeRaw {s : State} {core : Option ℕ} {ev : L2Event} {pa : ℕ} {l : List Byte} {pay : Payload} (h : Inv s) :
    Inv (storeRaw s core ev pa l pay) := by
  unfold storeRaw
  extract_lets s1
  have hs1 : Inv s1 := { h with mem := writeList_wf h.mem _ _ }
  split
  · exact hs1
  · extract_lets s2
    have hs2 : Inv s2 := inv_l2Touch hs1
    split
    · exact hs2
    · exact inv_modCore hs2

theorem inv_storeBytes {s : State} {core tu h ea pa n v : ℕ} (hs : Inv s) : Inv (storeBytes s core tu h ea pa n v).2 := by
  unfold storeBytes
  split
  · dsimp only
    exact inv_modTeam hs
  · split
    next s1 he1 =>
      have ht : Inv s1 := inv_snd_of_eq he1 (inv_snapshot hs)
      dsimp only
      exact inv_storeRaw ht

theorem groupOk_modSplit {g : Machine.Group} {e : ℕ} {f : Split → Split} (hg : groupOk g = true) :
    groupOk (g.modSplit e f) = true :=
  hg

theorem inv_queueFor {s : State} {n : ℕ} {w : Waiting} (h : Inv s) : Inv (queueFor s n w) := inv_modCtl h

theorem inv_tellHost {s : State} {kind : String} {args : List ℕ} (h : Inv s) : Inv (tellHost s kind args) := { h with }

theorem inv_sysWrite {s : State} {space va n v : ℕ} (h : Inv s) : InvOpt (sysWrite s space va n v) :=
  invOpt_map fun _ _ => inv_tellAccess { h with mem := writeN_wf h.mem _ _ _ }

theorem inv_sysWriteClean {s : State} {space va n v : ℕ} (h : Inv s) : InvOpt (sysWriteClean s space va n v) := by
  unfold sysWriteClean
  exact invOpt_bind fun _ _ => by
    split
    · exact invOpt_none
    · exact invOpt_some (inv_tellAccess { h with mem := writeN_wf h.mem _ _ _ })

theorem inv_frPut {s : State} {g : Grid} {off n v : ℕ} (h : Inv s) : InvOpt (frPut s g off n v) := by
  unfold frPut
  extract_lets a
  split
  · exact invOpt_none
  · split
    · split
      · exact invOpt_some { h with mem := writeN_wf h.mem _ _ _ }
      · exact invOpt_none
    · exact invOpt_none

theorem inv_frWrite {s : State} {h : ℕ} {entry : Option (ℕ × ℕ)} (hs : Inv s) : Inv (frWrite s h entry) := by
  unfold frWrite
  split
  · exact hs
  · split
    · exact hs
    · extract_lets s1
      have hs1 : InvOpt s1 := by
        unfold s1
        split
        · exact inv_frPut hs
        · exact invOpt_some hs
      split
      next he1 => exact (invOpt_bindState hs1 fun _ ht => inv_frPut ht) _ he1
      · exact inv_modGrid hs

theorem inv_ctlTell {s : State} {n : ℕ} {kind : String} {args : List ℕ} (h : Inv s) : Inv (ctlTell s n kind args) := by
  unfold ctlTell
  split
  · exact inv_queueFor h
  · exact inv_tellHost h

theorem inv_markReplayed {s : State} {h : ℕ} (hs : Inv s) : Inv (markReplayed s h) := by
  unfold markReplayed
  split
  · exact hs
  · extract_lets s1 a
    have hs1 : Inv s1 := inv_modGrid hs
    split
    · exact hs1
    · exact inv_foldl hs1 fun _ _ hs2 => by
        split
        next he1 => exact inv_frPut hs2 _ he1
        · exact inv_modGrid hs2

theorem inv_writeEntry {s : State} {h : ℕ} {e : FaultEntry} {time : DWord} {ends : Bool} (hs : Inv s) :
    Inv (writeEntry s h e time ends) := by
  unfold writeEntry
  extract_lets s1 v
  have hs1 : Inv s1 := by
    unfold s1
    split
    · exact inv_foldl hs fun _ _ hs2 => inv_markReplayed hs2
    · exact hs
  split
  · exact hs1
  · extract_lets i old fr
    exact inv_frWrite (inv_modGrid hs1)

theorem inv_report {s : State} {h team gid cause detail flags : ℕ} {pc faddr : DWord} {ends : Bool} (hs : Inv s) :
    Inv (report s h team gid cause detail flags pc faddr ends) := by
  unfold report
  extract_lets e
  split
  · exact inv_queueFor (inv_modGrid hs)
  · exact inv_writeEntry hs

theorem inv_removeTeam {s : State} {tu : ℕ} {t : Team} (h : Inv s) : Inv (removeTeam s tu t) := by
  unfold removeTeam
  extract_lets s1
  have hs1 : Inv s1 := { h with teams := kwf_kdel h.teams _ }
  split
  · exact hs1
  · exact inv_modGrid hs1

theorem inv_settle {s : State} {tu : ℕ} (h : Inv s) : Inv (settle s tu) := by
  unfold settle
  split
  · exact h
  · split
    next s1 _ he1 =>
      have ht : Inv s1 := inv_fst_of_eq he1 <|
        inv_foldlFst h fun _ _ hp => by
        split
        · exact hp
        · split
          · extract_lets old s2 s3
            have hs2 : Inv s2 := { hp with groups := GroupsOk.kdel hp.groups _ }
            have hs3 : Inv s3 := by
              unfold s3
              split
              · exact inv_modCore hs2
              · exact hs2
            exact hs3
          · exact hp
      split
      · exact inv_removeTeam ht
      · exact inv_modTeam ht

theorem inv_endTeam {s : State} {tu : ℕ} (h : Inv s) : Inv (endTeam s tu) := inv_settle (inv_modTeam h)

theorem inv_endTwins {s : State} {tu : ℕ} (h : Inv s) : Inv (endTwins s tu) := by
  unfold endTwins
  split
  · exact inv_endTeam (inv_endTeam h)
  · exact inv_endTeam h

theorem inv_stopSet {s : State} {r : ℕ} (h : Inv s) : Inv (stopSet s r) :=
  inv_tables h (kwf_kmapV h.grids _) (kwf_kmapV h.teams _)

theorem inv_startReplay {s : State} {r : ℕ} (h : Inv s) : Inv (startReplay s r) := by
  unfold startReplay
  split
  · exact h
  · split
    · exact h
    · exact inv_stopSet (inv_report h)

theorem inv_holdTwins {s : State} {tu : ℕ} {h : Held} (hs : Inv s) : Inv (holdTwins s tu h) := by
  unfold holdTwins
  extract_lets s1
  have hs1 : Inv s1 := inv_modTeam hs
  split
  · exact inv_modTeam hs1
  · exact hs1

theorem inv_setStatus {s : State} {h cause : ℕ} (hs : Inv s) : Inv (setStatus s h cause) := inv_frWrite (inv_modGrid hs)

theorem inv_endAfter {s : State} {tu : ℕ} {t : Team} {u e : ℕ} {f : FaultEntry} (h : Inv s) : Inv (endAfter s tu t u e f) := by
  unfold endAfter
  extract_lets h1
  split
  · split
    · exact inv_startReplay h
    · exact h
  · split
    · exact h
    · split
      · exact inv_ctlTell (inv_holdTwins h)
      · exact inv_endTwins h

theorem inv_reportEntry {s : State} {h : ℕ} {f : FaultEntry} {ends : Bool} (hs : Inv s) : Inv (reportEntry s h f ends) :=
  inv_report hs

theorem inv_endByFault {s : State} {tu u e gid cause detail : ℕ} {inH : Bool} {pc faddr : DWord} (h : Inv s) :
    Inv (endByFault s tu u e gid cause detail inH pc faddr) := by
  unfold endByFault
  split
  · exact h
  · extract_lets f ends
    exact inv_endAfter (inv_reportEntry h)

theorem inv_streamFault {s : State} {x : Ctx} {cause detail : ℕ} {faddr : DWord} (h : Inv s) :
    Inv (streamFault s x cause detail faddr) := by
  unfold streamFault
  extract_lets keep
  split
  · exact inv_endByFault h
  · exact inv_endByFault h

theorem inv_count {s : State} {h c n : ℕ} (hs : Inv s) : Inv (count s h c n) := by
  unfold count
  split
  · exact hs
  · exact inv_modGrid hs

theorem inv_ctxCount {x : Ctx} {s : State} {c n : ℕ} (h : Inv s) : Inv (x.count s c n) := by
  unfold Ctx.count
  split
  · exact h
  · exact inv_count h

theorem groupOk_setNeed {g : Machine.Group} {need : List (ℕ × ℕ)} (hg : groupOk g = true) : groupOk (g.setNeed need) = true :=
  groupOk_foldl hg fun _ _ hg1 => groupOk_modSlice hg1 _ fun _ hq => hq

theorem fwf_bankV {lanes : List ℕ} : fwf (bankV lanes) = true :=
  List.foldlRecOn (motive := fun m => fwf m = true) lanes _ rfl fun _ hm _ _ => fset_wf hm _ _

theorem groupOk_enterHandler {g : Machine.Group} {e : ℕ} {addr : DWord} {t : Trap} (hg : groupOk g = true) :
    groupOk (g.enterHandler e addr t) = true := by
  unfold Group.enterHandler
  obtain ⟨hv, hp, hs, _⟩ := (groupOk_iff _).mp (groupOk_setNeed (need := t.need) hg)
  refine (groupOk_iff _).mpr ⟨hv, hp, hs, ?_⟩
  rintro _ ⟨⟩
  simp only [handlerOk, fwf_bankV]
  rfl

theorem inv_takeTrap {s : State} {u e : ℕ} {tr : Trap} (h : Inv s) : Inv (takeTrap s u e tr) := by
  unfold takeTrap
  split
  · exact h
  · split
    · exact h
    · extract_lets h1 pc s1
      have hs1 : Inv s1 := by
        unfold s1
        split
        · exact h
        · split
          · exact inv_count h
          · split
            · exact inv_count h
            · exact h
      split
      · exact inv_endByFault hs1
      · split
        · exact inv_ctlTell (inv_modGroup hs1 fun _ hg1 => groupOk_modSplit hg1)
        · split
          · exact inv_endByFault hs1
          · split
            · exact inv_endByFault hs1
            · split
              · exact inv_modGroup hs1 fun _ hg1 => groupOk_modSplit hg1
              · exact inv_modGroup hs1 fun _ hg1 => groupOk_enterHandler hg1

theorem groupOk_returnFromTrap {g : Machine.Group} (hg : groupOk g = true) : groupOk (returnFromTrap g) = true := by
  unfold returnFromTrap
  split
  · exact hg
  · obtain ⟨hv, hp, hs, _⟩ := (groupOk_iff _).mp (groupOk_mapSlices (f := fun sl => { sl with wneed := 0 }) hg fun _ hq => hq)
    exact (groupOk_iff _).mpr ⟨hv, hp, hs, nofun⟩

theorem groupOk_advance {g : Machine.Group} {x : Ctx} {len : ℕ} (hg : groupOk g = true) : groupOk (advance g x len) = true := by
  unfold advance
  split
  · exact groupOk_bank hg fun _ hb => hb
  · exact groupOk_modSlices hg _ fun _ _ hq => by
      extract_lets r
      exact hq

theorem groupOk_spend {g : Machine.Group} {x : Ctx} {isYield : Bool} (hg : groupOk g = true) :
    groupOk (spend g x isYield) = true := by
  unfold spend
  split
  · exact hg
  · exact hg

theorem inv_issued {s : State} {x : Ctx} {cls : ℕ} {isYield : Bool} (h : Inv s) : Inv (issued s x cls isYield) := by
  unfold issued
  extract_lets s1
  have hs1 : Inv s1 := inv_modGroup h fun _ hg => groupOk_modSplit (groupOk_spend hg)
  exact inv_ctxCount (inv_ctxCount hs1)

theorem groupOk_raise {g : Machine.Group} {f : BitVec 6} (hg : groupOk g = true) : groupOk (g.raise f) = true := hg

theorem groupOk_land {g : Machine.Group} {p : Pending} (hg : groupOk g = true) : groupOk (g.land p) = true :=
  groupOk_raise (groupOk_writes hg _)

theorem groupOk_drainResults {g : Machine.Group} {e : ℕ} (hg : groupOk g = true) : groupOk (drainResults g e) = true :=
  groupOk_modSplit (groupOk_foldl hg fun _ _ hg1 => groupOk_land hg1)

theorem groupOk_waited {how : IssueHow} {x : Ctx} (hx : groupOk x.g = true) : groupOk (waited how x).g = true := by
  unfold waited
  split
  · exact groupOk_drainResults hx
  · exact hx

theorem inv_waitedState {how : IssueHow} {x : Ctx} {s : State} (hx : groupOk x.g = true) (h : Inv s) :
    Inv (waitedState how x s) := by
  unfold waitedState
  split
  · exact { h with groups := GroupsOk.kset h.groups (groupOk_drainResults hx) _ }
  · exact h

theorem inv_takeWaitingTrap {s : State} {x : Ctx} (h : Inv s) : Inv (takeWaitingTrap s x) := by
  unfold takeWaitingTrap
  split
  · split
    · exact h
    · exact inv_modGroup h fun _ hg => groupOk_enterHandler hg
  · exact h

theorem inv_endStep {s : State} {u e : ℕ} (h : Inv s) : Inv (endStep s u e) := inv_modGroup h fun _ hg => groupOk_modSplit hg

theorem inv_issue {how : IssueHow} {body : Ctx → State → Res} {s : State}
    (hbody : ∀ (y : Ctx), groupOk y.g = true → ∀ (t : State), Inv t → Inv (resState (body y t))) (h : Inv s) :
    InvNext (issue how body s) := by
  unfold issue
  split
  · exact invNext_next h
  next he =>
    have ht := groupOk_ctx h he
    split
    · exact invNext_next (inv_endStep h)
    · split
      · exact invNext_next h
      · split
        · exact invNext_next (inv_takeWaitingTrap h)
        · extract_lets y t
          have hy : groupOk y.g = true := groupOk_waited ht
          have ht1 : Inv t := inv_waitedState ht h
          split
          · exact invNext_next (inv_streamFault ht1)
          · split
            · exact invNext_next (inv_streamFault ht1)
            · split
              · exact invNext_next (inv_modGroup ht1 fun _ hg => groupOk_modSplit hg)
              · split
                next a he2 =>
                  have ht2 : Inv a := inv_of_eq (f := resState) he2 (hbody _ hy _ ht1)
                  exact invNext_next (inv_modGroup (inv_issued ht2) fun _ hg => groupOk_advance hg)
                next he2 => exact invNext_next (inv_issued (inv_of_eq (f := resState) he2 (hbody _ hy _ ht1)))
                next he2 => exact invNext_next (inv_of_eq (f := resState) he2 (hbody _ hy _ ht1))
                next he2 => exact invNext_next (inv_streamFault (inv_of_eq (f := resState) he2 (hbody _ hy _ ht1)))
                next he2 => exact invNext_next (inv_takeTrap (inv_of_eq (f := resState) he2 (hbody _ hy _ ht1)))

theorem inv_issueRegs {how : IssueHow} {f : Ctx → List RegWrite × BitVec 6} {s : State} (h : Inv s) :
    InvNext (issueRegs how f s) :=
  inv_issue (fun _ hy _ ht => by
    extract_lets r
    exact inv_put ht (groupOk_raise (groupOk_writes hy _))) h

theorem groupOk_addPending {g : Machine.Group} {e : ℕ} {p : Pending} (hg : groupOk g = true) :
    groupOk (g.addPending e p) = true :=
  groupOk_modSplit hg

theorem groupOk_addResults {g : Machine.Group} {x : Ctx} {good bad : List RegWrite} {d : Option ℕ} (hg : groupOk g = true) :
    groupOk (g.addResults x good bad d) = true := by
  unfold Group.addResults
  extract_lets g1
  have hg1 : groupOk g1 = true := groupOk_addPending hg
  split
  · exact hg1
  · exact groupOk_addPending hg1

theorem inv_issueVar {how : IssueHow} {f : Ctx → List RegWrite × BitVec 6} {s : State} (h : Inv s) : InvNext (issueVar how f s) :=
  inv_issue (fun _ hy _ ht => by
    extract_lets r
    exact inv_put ht (groupOk_addPending hy)) h

theorem groupOk_setPc {g : Machine.Group} {l : List ℕ} {pc : DWord} (hg : groupOk g = true) : groupOk (g.setPc l pc) = true :=
  groupOk_modSlices hg _ fun _ _ hq => hq

end Sys2Proof.Proofs
end

section
/-! Operands, fetch and memory instructions keep the invariant (R72, R80, R193 to R237). -/

namespace Sys2Proof.Proofs

open Sys2Proof.Machine Sys2Proof.Safety Sys2Proof.Laws

theorem inv_icacheWord {s : State} {core pa : ℕ} (h : Inv s) : Inv (icacheWord s core pa).2 := by
  unfold icacheWord
  extract_lets new k
  split
  · split
    next s1 he1 =>
      have ht : Inv s1 := inv_snd_of_eq he1 <| by
        split
        · exact h
        · exact inv_pick h
      dsimp only
      exact inv_modCore ht
  · extract_lets old
    split
    · exact h
    · split
      next he1 => exact inv_snd_of_eq he1 (inv_pick h)

theorem inv_fetchWord {s : State} {core space va : ℕ} (h : Inv s) : Inv (fetchWord s core space va).2.2 := by
  unfold fetchWord
  split
  · exact h
  · split
    next s1 he =>
      have ht : Inv s1 := inv_snd_snd_of_eq he (inv_translate h)
      split
      · exact ht
      · exact ht
      · split
        · exact ht
        · split
          · exact ht
          · split
            next he2 => exact inv_snd_of_eq he2 (inv_icacheWord ht)

theorem inv_ctxFetch {x : Ctx} {s : State} {va : ℕ} (h : Inv s) : Inv (x.fetch s va).2 := by
  unfold Ctx.fetch
  split
  next s1 he =>
    have ht : Inv s1 := inv_snd_snd_of_eq he (inv_fetchWord h)
    split
    · dsimp only
      exact inv_ctxCount ht
    · exact ht

theorem inv_ctxFetchMore {x : Ctx} {n va : ℕ} {s : State} {acc : List Word} (h : Inv s) : Inv (x.fetchMore n va s acc).2 := by
  induction n generalizing va s acc with
  | zero => exact h
  | succ n ih =>
    have hf : Inv (x.fetch s va).2 := inv_ctxFetch h
    rw [Ctx.fetchMore]
    split
    next he =>
      rw [he] at hf
      exact ih hf
    next he =>
      rw [he] at hf
      exact hf

theorem inv_ctxFetchFail {x : Ctx} {s : State} {r : Fetched} (h : Inv s) : Inv (resState (x.fetchFail s r)) := by
  unfold Ctx.fetchFail
  split
  · exact h
  · exact h
  · exact h
  · exact h

theorem inv_seeScope {s : State} {x : Ctx} {scope : ℕ} (h : Inv s) : Inv (seeScope s x scope) := by
  unfold seeScope
  extract_lets t
  have ht : Inv t := { h with }
  split
  · exact ht
  · exact inv_modTeam ht

theorem inv_acquire {s : State} {x : Ctx} {scope : ℕ} (h : Inv s) : Inv (acquire s x scope) := by
  unfold acquire
  exact inv_seeScope (by
    split
    · exact inv_dropL1 h
    · exact h)

theorem inv_memAccess {x : Ctx} {s : State} {n : Need} {align : ℕ} {l : List (ℕ × ℕ)} {lanesOf : ℕ → List ℕ}
    {act : List Machine.Acc → State → Res} (h : Inv s)
    (hact : ∀ (l : List Machine.Acc) (t : State), Inv t → Inv (resState (act l t))) :
    Inv (resState (memAccess x s n align l lanesOf act)) := by
  unfold memAccess
  extract_lets before
  split
  next s1 he =>
    have ht : Inv s1 := inv_snd_snd_of_eq he (inv_checkAccesses h)
    extract_lets s2
    have hs2 : Inv s2 := inv_ctxCount ht
    split
    · exact hs2
    · exact hs2
    · extract_lets acc bad s3
      have hs3 : Inv s3 := by
        unfold s3
        clear_value bad
        split
        · exact hs2
        · exact inv_modGroup hs2 fun _ hg => groupOk_modSplit hg
      split
      · exact h
      · exact hact _ _ hs3

theorem inv_readPoison {s : State} {core pa n : ℕ} (h : Inv s) : Inv (readPoison s core pa n).2 := by
  unfold readPoison
  split
  · exact h
  · split
    · exact h
    · split
      next he2 => exact inv_snd_of_eq he2 (inv_pick h)

theorem inv_findPoison {core n : ℕ} {s : State} {l : List Machine.Acc} (h : Inv s) : Inv (findPoison core n s l).2 := by
  induction l generalizing s with
  | nil => exact h
  | cons a l ih => exact ih (s := (readPoison s core a.pa n).2) (inv_readPoison h)

theorem inv_readFrom {found : State} {x : Ctx} {nc : Bool} {n : ℕ} {s : State} {l : List Machine.Acc} (h : Inv s) :
    Inv (readFrom found x nc n s l).2 := by
  induction l generalizing s with
  | nil => exact h
  | cons a l ih => exact ih (inv_ctxCount (inv_loadFrom h))

theorem inv_loadEach {x : Ctx} {nc : Bool} {n : ℕ} {s : State} {l : List Machine.Acc} (h : Inv s) : Inv (loadEach x nc n s l).2 :=
  inv_readFrom h

theorem inv_ctxResults {x : Ctx} {dst : ℕ → ℕ → List RegWrite} {bad vals : List (ℕ × ℕ)} {s : State} (h : Inv s) :
    Inv (x.results dst bad vals s) := by
  unfold Ctx.results
  extract_lets isBad part
  exact inv_modGroup h fun _ hg => groupOk_addResults hg

theorem inv_loadMem {x : Ctx} {w : ExtArgs} {l : List (ℕ × ℕ)} {lanesOf : ℕ → List ℕ} {dst : ℕ → List Word → List RegWrite}
    {s : State} (h : Inv s) : Inv (resState (loadMem x w l lanesOf dst s)) := by
  unfold loadMem
  extract_lets n old
  exact inv_memAccess h fun _ _ ht => by
    split
    next s1 he =>
      have ht1 : Inv s1 := inv_snd_of_eq he (inv_findPoison ht)
      split
      next s2 he1 =>
        have ht2 : Inv s2 := inv_snd_of_eq he1 (inv_loadEach ht1)
        extract_lets s3
        have hs3 : Inv s3 := inv_ctxResults ht2
        split
        · exact inv_acquire hs3
        · exact hs3

theorem inv_snapReport {before s : State} {h team gid : ℕ} {pc : DWord} {ex : Bool} (hs : Inv s) :
    Inv (snapReport before s h team gid pc ex) := by
  unfold snapReport
  extract_lets s1
  have hs1 : Inv s1 := by
    unfold s1
    split
    · exact inv_report hs
    · exact hs
  split
  · split
    · exact inv_frWrite hs1
    · exact hs1
  · exact hs1

theorem inv_ctxPerform {x : Ctx} {s : State} {va pa n v : ℕ} (h : Inv s) : Inv (x.perform s va pa n v) := by
  unfold Ctx.perform
  split
  next he => exact inv_seeBytes (inv_snapReport (inv_snd_of_eq he (inv_storeBytes h)))

theorem inv_ctxWrite {x : Ctx} {s : State} {va pa n v : ℕ} (h : Inv s) : Inv (x.write s va pa n v) := by
  unfold Ctx.write
  split
  · split
    next s1 he =>
      have ht : Inv s1 := inv_snd_of_eq he (inv_pick h)
      split
      · exact ht
      · exact inv_ctxPerform ht
  · exact inv_ctxPerform h

theorem inv_poisonLines {s : State} {pa n d : ℕ} (h : Inv s) : Inv (poisonLines s pa n d) := { h with }

theorem inv_ctxStoreUnit {x : Ctx} {s : State} {va pa n v : ℕ} {d : Option ℕ} (h : Inv s) : Inv (x.storeUnit s va pa n v d) := by
  unfold Ctx.storeUnit
  split
  · exact inv_ctxWrite h
  · split
    next s1 he =>
      have ht : Inv s1 := inv_snd_of_eq he (inv_pick (inv_ctxWrite h))
      split
      · exact ht
      · exact inv_poisonLines ht

theorem inv_anyOrder {α : Type} {key : α → ℕ} {l : List α} {s : State} (h : Inv s) : Inv (anyOrder key l s).2 := by
  unfold anyOrder
  split
  · dsimp only
    exact { h with }
  · exact h

theorem inv_ctxUnordered {x : Ctx} {acc : List Machine.Acc} {s : State} (h : Inv s) : Inv (x.unordered acc s).2 := inv_anyOrder h

theorem inv_storeMem {x : Ctx} {w : ExtArgs} {l : List (ℕ × ℕ)} {lanesOf : ℕ → List ℕ} {val : ℕ → ℕ} {reg : ℕ → ℕ → RegRef}
    {s : State} (h : Inv s) : Inv (resState (storeMem x w l lanesOf val reg s)) := by
  unfold storeMem
  extract_lets n bad old
  exact inv_memAccess h fun _ _ ht => by
    split
    next he => exact inv_foldl (inv_snd_of_eq he (inv_ctxUnordered ht)) fun _ _ hs2 => inv_ctxStoreUnit hs2

theorem inv_semLd {w : ExtArgs} {x : Ctx} {s : State} (h : Inv s) : Inv (resState (semLd w x s)) := inv_loadMem h

theorem inv_semSt {w : ExtArgs} {x : Ctx} {s : State} (h : Inv s) : Inv (resState (semSt w x s)) := inv_storeMem h

theorem inv_semSld {w : ExtArgs} {x : Ctx} {s : State} (h : Inv s) : Inv (resState (semSld w x s)) := inv_loadMem h

theorem inv_semSst {w : ExtArgs} {x : Ctx} {s : State} (h : Inv s) : Inv (resState (semSst w x s)) := inv_storeMem h

theorem inv_ctxSeeLocal {x : Ctx} {seen : List (ℕ × ℕ)} {s : State} (h : Inv s) : Inv (x.seeLocal seen s) := by
  unfold Ctx.seeLocal
  split
  · exact h
  · exact inv_modTeam h

theorem inv_ctxSeeNewest {x : Ctx} {n : ℕ} {l : List ℕ} {s : State} (h : Inv s) : Inv (x.seeNewest n l s) := inv_ctxSeeLocal h

theorem inv_semLdl {w : ExtArgs} {x : Ctx} {s : State} (h : Inv s) : Inv (resState (semLdl w x s)) := by
  unfold semLdl
  extract_lets n l s1
  have hs1 : Inv s1 := by
    unfold s1
    split
    · exact h
    · exact { h with }
  split
  · exact h
  · split
    · extract_lets s2 s3
      have hs2 : Inv s2 := inv_modGroup hs1 fun _ hg => groupOk_addPending hg
      have hs3 : Inv s3 := inv_ctxSeeLocal hs2
      split
      · exact inv_acquire hs3
      · exact hs3

theorem inv_semStl {w : ExtArgs} {x : Ctx} {s : State} (h : Inv s) : Inv (resState (semStl w x s)) := by
  unfold semStl
  extract_lets n l at_
  split
  · exact h
  · split
    next s1 he1 =>
      have ht : Inv s1 := inv_snd_of_eq he1 (inv_anyOrder h)
      extract_lets units
      exact inv_ctxSeeNewest (inv_modTeam ht)

theorem inv_atomEach {x : Ctx} {w : ExtArgs} {red : Bool} {s : State} {l : List Machine.Acc} (h : Inv s) :
    Inv (atomEach x w red s l).2 := by
  induction l generalizing s with
  | nil => exact h
  | cons a l ih => exact ih (inv_seeBytes (inv_snapReport (inv_storeRaw (inv_snapshot h))))

theorem inv_signAtomics {s : State} {tu n : ℕ} {l : List (Machine.Acc × ℕ)} (h : Inv s) : Inv (signAtomics s tu n l) :=
  inv_modTeam h

theorem inv_atomDone {x : Ctx} {w : ExtArgs} {red : Bool} {s : State} {bad old : List (ℕ × ℕ)} (h : Inv s) :
    Inv (resState (atomDone x w red s bad old)) := by
  unfold atomDone
  extract_lets ord s1
  have hs1 : Inv s1 := by
    unfold s1
    split
    · exact h
    · exact inv_ctxResults h
  split
  · exact inv_acquire hs1
  · exact hs1

theorem inv_semAtomic {red : Bool} {w : ExtArgs} {x : Ctx} {s : State} (h : Inv s) : Inv (resState (semAtomic red w x s)) := by
  unfold semAtomic
  extract_lets n need addr
  exact inv_memAccess h fun _ _ ht => by
    split
    · split
      · exact ht
      · extract_lets s1 l1
        have hs1 : Inv s1 := inv_modTeam ht
        exact inv_atomDone (inv_signAtomics hs1)
    · extract_lets bad
      split
      next s1 he =>
        have ht1 : Inv s1 := inv_snd_of_eq he (inv_ctxUnordered ht)
        split
        next s2 he1 =>
          have ht2 : Inv s2 := inv_snd_of_eq he1 (inv_atomEach ht1)
          extract_lets old s3
          have hs3 : Inv s3 := by
            unfold s3
            split
            · exact inv_modTeam ht2
            · exact ht2
          exact inv_atomDone (inv_signAtomics hs3)

theorem inv_semAtom {w : ExtArgs} {x : Ctx} {s : State} (h : Inv s) : Inv (resState (semAtom w x s)) := inv_semAtomic h

theorem inv_semRed {w : ExtArgs} {x : Ctx} {s : State} (h : Inv s) : Inv (resState (semRed w x s)) := inv_semAtomic h

theorem inv_semAtoml {w : ExtArgs} {x : Ctx} {s : State} (h : Inv s) : Inv (resState (semAtoml w x s)) := by
  unfold semAtoml
  extract_lets n l eo
  split
  · exact h
  · split
    next s1 he1 =>
      have ht : Inv s1 := inv_snd_of_eq he1 (inv_anyOrder h)
      split
      · exact inv_atomDone (inv_ctxSeeNewest (inv_modTeam ht))

theorem inv_semTagset {w : ExtArgs} {x : Ctx} {s : State} (h : Inv s) : Inv (resState (semTagset w x s)) := by
  unfold semTagset
  extract_lets l slot tag
  split
  · exact h
  · split
    next s1 he =>
      have ht : Inv s1 := inv_snd_of_eq he <| by
        split
        · exact inv_anyOrder h
        · exact inv_anyOrder h
      exact inv_modTeam ht

theorem inv_semTagclr {w : ExtArgs} {x : Ctx} {s : State} (h : Inv s) : Inv (resState (semTagclr w x s)) := by
  unfold semTagclr
  extract_lets l slot
  split
  · exact h
  · exact inv_modTeam h

theorem inv_semFence {scope kind : ℕ} {act : Ctx → Bool} {x : Ctx} {s : State} (h : Inv s) :
    Inv (resState (semFence scope kind act x s)) := by
  unfold semFence
  split
  · exact inv_acquire h
  · exact h

theorem inv_quietAddr {old : List TlbEntry} {x : Ctx} {s : State} {va : ℕ} (h : Inv s) : Inv (quietAddr old x s va).2 := by
  unfold quietAddr
  split
  · exact h
  · split
    next s1 he =>
      have ht : Inv s1 := inv_snd_snd_of_eq he (inv_translateFrom h)
      extract_lets s2
      have hs2 : Inv s2 := by
        unfold s2
        split
        · exact ht
        · exact inv_ctxCount ht
      split
      · exact hs2
      · exact hs2

theorem inv_prefAddr {old : List TlbEntry} {x : Ctx} {s : State} {va : ℕ} (h : Inv s) : Inv (prefAddr old x s va).2 := by
  unfold prefAddr
  split
  · exact h
  · split
    next s1 he =>
      have ht : Inv s1 := inv_snd_snd_of_eq he (inv_checkFrom h)
      dsimp only
      exact inv_ctxCount ht
    next s1 _ he =>
      have ht : Inv s1 := inv_snd_snd_of_eq he (inv_checkFrom h)
      dsimp only
      exact inv_ctxCount ht

theorem inv_semPref {w : ExtArgs} {x : Ctx} {s : State} (h : Inv s) : Inv (resState (semPref w x s)) := by
  unfold semPref
  extract_lets old
  exact inv_foldl h fun _ _ hs1 => by
    split
    next s2 he =>
      have ht : Inv s2 := inv_snd_of_eq he (inv_pick hs1)
      split
      · exact ht
      · split
        next s3 he1 =>
          have ht1 : Inv s3 := inv_snd_of_eq he1 (inv_prefAddr ht)
          split
          · exact inv_l2Touch ht1
          · exact inv_loadBytes ht1
        next he1 => exact inv_snd_of_eq he1 (inv_prefAddr ht)

theorem inv_semCctl {wb : ℕ → State → State} {w : ExtArgs} {x : Ctx} {s : State}
    (hwb : ∀ (n : ℕ) (t : State), Inv t → Inv (wb n t)) (h : Inv s) : Inv (resState (semCctl wb w x s)) := by
  unfold semCctl
  extract_lets old each
  have heach : ∀ f : ℕ → State → State, (∀ n t, Inv t → Inv (f n t)) → Inv (resState (each f)) := by
    intro f hf
    unfold each
    exact inv_foldl h fun s1 a hs1 => by
      split
      next he => exact hf _ _ (inv_snd_of_eq he (inv_quietAddr hs1))
      next he => exact inv_snd_of_eq he (inv_quietAddr hs1)
  clear_value each
  split
  · exact heach _ fun _ _ ht => inv_modCore ht
  · split
    · exact h
    · dsimp only [resState]
      exact inv_modCore h
  · exact heach _ fun _ _ ht => inv_modCore ht
  · exact heach _ hwb

theorem inv_execPref {w : BaseArgs} {s : State} (h : Inv s) : InvNext (execPref w s) :=
  inv_issue (fun _ _ _ ht => inv_semPref ht) h

theorem inv_execPrefL {w : BaseArgs} {lit : DWord} {s : State} (h : Inv s) : InvNext (execPrefL w lit s) :=
  inv_issue (fun _ _ _ ht => inv_semPref ht) h

theorem inv_execPrefX {w : ExtArgs} {s : State} (h : Inv s) : InvNext (execPrefX w s) :=
  inv_issue (fun _ _ _ ht => inv_semPref ht) h

theorem inv_execFence {y : Bool} {scope : BitVec 3} {kind : BitVec 2} {s : State} (h : Inv s) :
    InvNext (execFence y scope kind s) := by
  unfold execFence
  extract_lets how
  exact inv_issue (fun _ _ _ ht => inv_semFence ht) h

theorem inv_execFenceX {w : ExtArgs} {s : State} (h : Inv s) : InvNext (execFenceX w s) := by
  unfold execFenceX
  extract_lets act
  exact inv_issue (fun _ _ _ ht => inv_semFence ht) h

end Sys2Proof.Proofs
end

section
/-! Queues, asynchronous instructions and remote writes keep the invariant (R264 to R292, R324, R391 to R406). -/

namespace Sys2Proof.Proofs

open Sys2Proof.Machine Sys2Proof.Safety Sys2Proof.Laws

theorem inv_arriveLocal {s : State} {tu off : ℕ} {da dt : ℤ} (h : Inv s) : Inv (arriveLocal s tu off da dt) := inv_modTeam h

theorem inv_arriveWord {s : State} {tu : ℕ} {word : Word} {bytes : ℕ} (h : Inv s) : Inv (arriveWord s tu word bytes) := by
  unfold arriveWord
  split
  · exact h
  · exact inv_arriveLocal h

theorem inv_readOperand {x : Ctx} {s : State} {va n align : ℕ} (h : Inv s) : Inv (opReadState (readOperand x s va n align)) := by
  unfold readOperand
  extract_lets before
  split
  next s1 he =>
    have ht : Inv s1 := inv_snd_snd_of_eq he (inv_checkAccesses h)
    extract_lets s2
    have hs2 : Inv s2 := inv_ctxCount ht
    split
    · exact hs2
    · exact hs2
    · extract_lets pa
      split
      · exact inv_modGroup hs2 fun _ hg => groupOk_modSplit hg
      · split
        · exact h
        · split
          next he1 => exact inv_snd_of_eq he1 (inv_readPoison hs2)
          next s3 he1 =>
            have ht1 : Inv s3 := inv_snd_of_eq he1 (inv_readPoison hs2)
            split
            next he2 => exact inv_ctxCount (inv_snd_snd_of_eq he2 (inv_loadBytes ht1))

theorem inv_gotBind {α β : Type} {g : Got α} {f : α → State → Got β} (hg : Inv (gotState g))
    (hf : ∀ (f_1 : α) (t : State), Inv t → Inv (gotState (f f_1 t))) : Inv (gotState (g.bind f)) := by
  unfold Got.bind
  split
  · exact hf _ _ hg
  · exact hg

theorem inv_gotRun {α : Type} {g : Got α} {f : α → State → Res} (hg : Inv (gotState g))
    (hf : ∀ (f_1 : α) (t : State), Inv t → Inv (resState (f f_1 t))) : Inv (resState (g.run f)) := by
  unfold Got.run
  split
  · exact hf _ _ hg
  · exact hg

theorem inv_getOperand {x : Ctx} {s : State} {va n align : ℕ} (h : Inv s) : Inv (gotState (getOperand x s va n align)) := by
  unfold getOperand
  split
  next he => exact inv_of_eq (f := opReadState) he (inv_readOperand h)
  next he => exact inv_of_eq (f := opReadState) he (inv_readOperand h)

theorem inv_badOperand {α : Type} {s : State} (h : Inv s) : Inv (gotState (badOperand (α := α) s)) := h

theorem inv_readDyn {x : Ctx} {l : List ℕ} {a : ℕ} {dims : List ℕ} {s : State} (h : Inv s) :
    Inv (gotState (readDyn x l a dims s)) := by
  induction l generalizing a dims s with
  | nil => exact h
  | cons k l ih => exact inv_gotBind (inv_getOperand h) fun _ _ ht => ih ht

theorem inv_readShape {x : Ctx} {s : State} {a : DWord} (h : Inv s) : Inv (gotState (readShape x s a)) := by
  unfold readShape
  split
  · exact inv_badOperand h
  · exact inv_gotBind (inv_getOperand h) fun _ _ ht => by
      split
      · exact inv_badOperand ht
      · split
        · exact ht
        · exact inv_gotBind (inv_readDyn ht) fun _ _ ht1 => ht1

theorem inv_nextOp {s : State} (h : Inv s) : Inv (nextOp s) := { h with }

theorem inv_popFence {s : State} {c : ℕ} {m : BitVec 4} (h : Inv s) : Inv (popFence s c m) := by
  unfold popFence
  extract_lets s1
  have hs1 : Inv s1 := inv_modCore h
  split
  · exact inv_modRoute hs1
  · exact hs1

theorem inv_freeUpTo {n : ℕ} {s : State} (h : Inv s) : Inv (freeUpTo n s) := by
  induction n generalizing s with
  | zero => exact h
  | succ n ih =>
    rw [freeUpTo]
    split
    · exact ih (inv_popFence h)
    · exact h

theorem inv_freeFences {s : State} (h : Inv s) : Inv (freeFences s) := inv_freeUpTo h

theorem inv_queueMoved {s : State} {tu : ℕ} (h : Inv s) : Inv (queueMoved s tu) := by
  unfold queueMoved
  extract_lets s1
  have hs1 : Inv s1 := inv_settle (inv_freeFences h)
  exact inv_foldl hs1 fun _ _ hs2 => inv_settle hs2

theorem inv_setHandle {s : State} {u h : ℕ} {b : Option (BitVec 5)} (hs : Inv s) : Inv (setHandle s u h b) :=
  inv_modGroup hs fun _ hg => hg

theorem inv_bindHandle {s t : State} {c u n m : ℕ} (h : Inv s) (he : bindHandle s c u n = some (m, t)) : Inv t := by
  unfold bindHandle at he
  split at he
  · cases he
    exact h
  · split at he
    · cases he
      exact inv_setHandle (inv_modCore h)
    · cases he

theorem inv_returnSlots {s : State} {c : ℕ} {l : List ℕ} (h : Inv s) : Inv (returnSlots s c l) := inv_modCore h

theorem inv_releaseHandle {s : State} {c u h : ℕ} (hs : Inv s) : Inv (releaseHandle s c u h) := by
  unfold releaseHandle
  split
  · exact hs
  · extract_lets s1
    have hs1 : Inv s1 := inv_setHandle hs
    split
    · exact inv_modCore hs1
    · exact inv_returnSlots hs1

theorem inv_modTile {s : State} {c n : ℕ} {f : FMap 32 → FMap 32} (h : Inv s) : Inv (modTile s c n f) := inv_modCore h

theorem inv_deliverArd {s : State} {u id : ℕ} {ws : List RegWrite} (h : Inv s) : Inv (deliverArd s u id ws) := by
  unfold deliverArd
  exact inv_modGroup h fun _ hg => by
    extract_lets mine g1
    have hg1 : groupOk g1 = true := groupOk_writes hg _
    exact hg1

theorem inv_engCheck {o : EngOp} {s : State} {need : Need} {va n : ℕ} {f : List ℕ → State → Io} (h : Inv s)
    (hf : ∀ (l : List ℕ) (t : State), Inv t → Inv (ioState (f l t))) : Inv (ioState (engCheck o s need va n f)) := by
  unfold engCheck
  extract_lets l
  split
  next s1 he =>
    have ht : Inv s1 := inv_snd_snd_of_eq he (inv_checkEach h)
    extract_lets s2 bad pages pas
    have hs2 : Inv s2 := by
      unfold s2
      split
      · exact inv_count ht
      · exact ht
    split
    · exact hs2
    · clear_value pages
      split
      · exact hs2
      · split
        · exact hs2
        · split
          · exact hs2
          · exact hf _ _ hs2

theorem inv_engRaw {o : EngOp} {s : State} {pa : ℕ} {b : Byte} (h : Inv s) : Inv (engRaw o s pa b) := inv_storeRaw { h with }

theorem inv_engLocal {o : EngOp} {s : State} {tu n n1 v : ℕ} (h : Inv s) : Inv (engLocal o s tu n n1 v) := inv_modTeam h

theorem inv_engPerform {o : EngOp} {s : State} {pa : ℕ} {b : Byte} (h : Inv s) : Inv (engPerform o s pa b) := by
  unfold engPerform
  split
  · exact inv_engRaw h
  · split
    next he1 => exact inv_snapReport (inv_engRaw (inv_snd_of_eq he1 (inv_snapshot h)))

theorem inv_engStore {o : EngOp} {s : State} {va : ℕ} {pas : List ℕ} {l : List Byte} (h : Inv s) :
    Inv (engStore o s va pas l) := by
  unfold engStore
  split
  · extract_lets h1 h2
    exact inv_modTeam h
  · split
    · exact h
    · exact inv_foldl h fun _ _ hs1 => inv_engPerform hs1

theorem inv_engTouch {o : EngOp} {s : State} {pas : List ℕ} (h : Inv s) : Inv (engTouch o s pas) :=
  inv_foldl h fun _ _ hs1 => inv_l2Touch hs1

theorem inv_engRead {o : EngOp} {s : State} {loc : Bool} {base b w : ℕ} (h : Inv s) :
    Inv (ioState (engRead o s loc base b w)) := by
  unfold engRead
  extract_lets a sb n out
  split
  · exact h
  · exact inv_engCheck h fun _ _ ht => by
      split
      · exact ht
      · exact inv_engTouch ht

theorem inv_engWrite {o : EngOp} {s : State} {loc : Bool} {base b w v : ℕ} (h : Inv s) :
    Inv (ioState (engWrite o s loc base b w v)) := by
  unfold engWrite
  extract_lets a sb n
  split
  · exact inv_engLocal h
  · exact inv_engCheck h fun _ _ ht => inv_engStore ht

theorem inv_ioAndThen {r : Io} {o : EngOp} {f : ℕ → State → Progress} (hr : Inv (ioState r))
    (hf : ∀ (n : ℕ) (t : State), Inv t → Inv (progressState (f n t))) : Inv (progressState (r.andThen o f)) := by
  unfold Io.andThen
  split
  · exact hf _ _ hr
  · exact hr
  · exact hr
  · exact hr
  · exact hr

theorem inv_runElems {step : EngOp → ℕ → State → Progress} {n : ℕ} {o : EngOp} {s : State}
    (hstep : ∀ o n t, Inv t → Inv (progressState (step o n t))) (h : Inv s) : Inv (progressState (runElems step n o s)) := by
  induction n generalizing o s with
  | zero => exact h
  | succ n ih =>
    have hs := hstep o o.done s h
    rw [runElems]
    split
    · exact h
    · split
      next he =>
        rw [he] at hs
        exact ih hs
      · exact hs

theorem inv_copyElem {dst src : Shape} {put : EngOp → State → ℕ → ℕ → Io} {o : EngOp} {i : ℕ} {s : State}
    (hput : ∀ (a : EngOp) (t : State), Inv t → ∀ (n n_1 : ℕ), Inv (ioState (put a t n n_1))) (h : Inv s) :
    Inv (progressState (copyElem dst src put o i s)) := by
  unfold copyElem
  extract_lets t from_ to_ w clip write
  have hwrite : ∀ (v : ℕ) (t : State), Inv t → Inv (progressState (write v t)) := by
    intro _ _ ht1
    unfold write
    clear_value to_
    split
    · exact inv_ioAndThen (hput _ _ ht1 _ _) fun _ _ ht2 => ht2
    · exact ht1
  clear_value from_
  split
  · exact inv_ioAndThen (inv_engRead h) fun _ _ ht1 => hwrite _ _ ht1
  · exact hwrite _ _ h

theorem inv_drainAdd {o : EngOp} {s : State} {sh : Shape} {b v : ℕ} (h : Inv s) : Inv (ioState (drainAdd o s sh b v)) := by
  unfold drainAdd
  extract_lets a w need
  exact inv_engCheck h fun _ _ ht => by
    split
    · exact ht
    · extract_lets pa old bfsr word half r new
      exact inv_engStore ht

theorem inv_drainElem {sh : Shape} {f : FmtSlot} {add : Bool} {tile : FMap 32} {o : EngOp} {i : ℕ} {s : State} (h : Inv s) :
    Inv (progressState (drainElem sh f add tile o i s)) := by
  unfold drainElem
  extract_lets t col row v
  split
  · exact h
  · exact h
  · exact inv_ioAndThen (by
    split
    · exact inv_drainAdd h
    · exact inv_engWrite h) fun _ _ ht1 => ht1

theorem inv_engOpReport {o : EngOp} {s : State} {cause detail : ℕ} {faddr : DWord} (h : Inv s) :
    Inv (o.report s cause detail faddr) := by
  unfold EngOp.report
  split
  · exact inv_report h
  · exact h

theorem inv_writeCrec {o : EngOp} {err : ℕ} {s : State} (h : Inv s) : Inv (writeCrec o err s).2 := by
  unfold writeCrec
  split
  · exact h
  · extract_lets v a o'
    split
    · dsimp only
      exact inv_engOpReport h
    · split
      next he =>
        exact inv_of_eq (f := ioState) he <|
          inv_engCheck h fun _ _ ht => by
          split
          · exact ht
          · exact inv_engStore ht
      next s1 he =>
        have ht : Inv s1 := inv_of_eq (f := ioState) he <|
          inv_engCheck h fun _ _ ht => by
          split
          · exact ht
          · exact inv_engStore ht
        dsimp only
        exact inv_engOpReport ht
      next s1 he =>
        have ht : Inv s1 := inv_of_eq (f := ioState) he <|
          inv_engCheck h fun _ _ ht => by
          split
          · exact ht
          · exact inv_engStore ht
        dsimp only
        exact inv_engOpReport ht
      next s1 he =>
        have ht : Inv s1 := inv_of_eq (f := ioState) he <|
          inv_engCheck h fun _ _ ht => by
          split
          · exact ht
          · exact inv_engStore ht
        dsimp only
        exact inv_engOpReport ht
      next s1 he =>
        have ht : Inv s1 := inv_of_eq (f := ioState) he <|
          inv_engCheck h fun _ _ ht => by
          split
          · exact ht
          · exact inv_engStore ht
        dsimp only
        exact inv_engOpReport ht

theorem inv_reportFailure {o : EngOp} {err : ℕ} {poison : Option ℕ} {s : State} (h : Inv s) :
    Inv (reportFailure o err poison s) := by
  unfold reportFailure
  extract_lets s1
  have hs1 : Inv s1 := inv_engOpReport h
  split
  · exact inv_endByFault hs1
  · exact hs1

theorem inv_once {w : ExtArgs} {x : Ctx} {s : State} {act : Res} (h : Inv s) (hact : Inv (resState act)) :
    Inv (resState (once w x s act)) := by
  unfold once
  split
  · exact h
  · exact hact

theorem inv_postMat {x : Ctx} {s : State} {k : MatKind} (h : Inv s) : Inv (postMat x s k) := inv_nextOp (inv_modCore h)

theorem inv_postCopy {x : Ctx} {s : State} {k : EngKind} (h : Inv s) : Inv (postCopy x s k) := inv_nextOp (inv_modCore h)

theorem inv_postOrStall {w : ExtArgs} {x : Ctx} {s : State} {k : MatKind} (h : Inv s) : Inv (resState (postOrStall w x s k)) := by
  unfold postOrStall
  exact inv_once h (by
    split
    · exact h
    · exact inv_postMat h)

theorem inv_semMma {w : ExtArgs} {x : Ctx} {s : State} (h : Inv s) : Inv (resState (semMma w x s)) := inv_postOrStall h

theorem inv_semDmmaTo {hc : ℕ} {w : ExtArgs} {x : Ctx} {s : State} (h : Inv s) : Inv (resState (semDmmaTo hc w x s)) :=
  inv_postOrStall h

theorem inv_semAzero {w : ExtArgs} {x : Ctx} {s : State} (h : Inv s) : Inv (resState (semAzero w x s)) := inv_postOrStall h

theorem inv_semArel {w : ExtArgs} {x : Ctx} {s : State} (h : Inv s) : Inv (resState (semArel w x s)) := inv_postOrStall h

theorem inv_semAwr {w : ExtArgs} {x : Ctx} {s : State} (h : Inv s) : Inv (resState (semAwr w x s)) := by
  unfold semAwr
  extract_lets b
  exact inv_once h (by
    split
    · exact h
    · exact inv_postOrStall h)

theorem inv_semArd {w : ExtArgs} {x : Ctx} {s : State} (h : Inv s) : Inv (resState (semArd w x s)) := by
  unfold semArd
  extract_lets b dst id
  exact inv_once h (by
    split
    · exact h
    · split
      · exact h
      · exact inv_modGroup (inv_postMat h) fun _ hg => groupOk_addPending hg)

theorem inv_semAdrain {w : ExtArgs} {x : Ctx} {s : State} (h : Inv s) : Inv (resState (semAdrain w x s)) := by
  unfold semAdrain
  exact inv_once h (by
    split
    · exact h
    · exact inv_gotRun (inv_readShape h) fun _ _ ht => by
        extract_lets f add word id
        split
        · exact ht
        · exact inv_nextOp (inv_modCore ht))

theorem inv_semMfence {w : ExtArgs} {x : Ctx} {s : State} (hx : groupOk x.g = true) (h : Inv s) :
    Inv (resState (semMfence w x s)) := by
  unfold semMfence
  exact inv_once h (by
    split
    · exact h
    · extract_lets g
      have hg : groupOk g = true := groupOk_writes hx _
      exact inv_put h hg)

theorem inv_semMwait {w : ExtArgs} {x : Ctx} {s : State} (h : Inv s) : Inv (resState (semMwait w x s)) := by
  unfold semMwait
  extract_lets v dist
  exact inv_once h (by
    split
    · exact h
    · split
      · exact h
      · split
        · exact h
        · exact inv_acquire h)

theorem inv_semBcopy {w : ExtArgs} {x : Ctx} {s : State} (h : Inv s) : Inv (resState (semBcopy w x s)) := by
  unfold semBcopy
  exact inv_once h (by
    split
    · exact h
    · exact inv_gotRun (inv_gotBind (inv_readShape h) fun _ _ ht => inv_gotBind (inv_readShape ht) fun _ _ ht1 =>
        ht1) fun _ _ ht => by
        extract_lets word
        split
        · exact ht
        · exact inv_postCopy ht)

theorem inv_semBcopym {w : ExtArgs} {x : Ctx} {s : State} (h : Inv s) : Inv (resState (semBcopym w x s)) := by
  unfold semBcopym
  extract_lets mask
  exact inv_once h (by
    split
    · exact h
    · exact inv_gotRun (inv_gotBind (inv_readShape h) fun _ _ ht => inv_gotBind (inv_readShape ht) fun _ _ ht1 =>
        ht1) fun _ _ ht => by
        split
        · exact ht
        · exact inv_postCopy ht)

theorem inv_semQfence {w : ExtArgs} {x : Ctx} {s : State} (h : Inv s) : Inv (resState (semQfence w x s)) := by
  unfold semQfence
  extract_lets m has o s1 s2
  have hs1 : Inv s1 := inv_modCore h
  have hs2 : Inv s2 := by
    unfold s2
    split
    · exact inv_modRoute hs1
    · exact hs1
  exact inv_once h (by
    split
    · exact h
    · exact inv_freeFences (inv_nextOp hs2))

theorem inv_readReplicas {x : Ctx} {n a : ℕ} {acc : List ℕ} {s : State} (h : Inv s) :
    Inv (gotState (readReplicas x n a acc s)) := by
  induction n generalizing a acc s with
  | zero => exact h
  | succ n ih => exact inv_gotBind (inv_getOperand h) fun _ _ ht => ih ht

theorem inv_semRoute {w : ExtArgs} {x : Ctx} {s : State} (h : Inv s) : Inv (resState (semRoute w x s)) := by
  unfold semRoute
  extract_lets od pb expert
  exact inv_once h (by
    split
    · exact h
    · split
      · exact h
      · exact inv_gotRun (by
    exact inv_gotBind (inv_readShape h) fun _ _ ht => by
      exact inv_gotBind (inv_getOperand ht) fun _ _ ht1 => by
        split
        · exact inv_badOperand ht1
        · extract_lets e ra
          exact inv_gotBind (by
    split
    · exact ht1
    · exact inv_readReplicas ht1) fun _ _ ht2 => by
            split
            · exact inv_badOperand ht2
            · exact inv_gotBind (inv_getOperand ht2) fun _ _ ht3 => ht3) fun _ _ ht => inv_nextOp (inv_modRoute ht))

theorem inv_semSrec {w : ExtArgs} {x : Ctx} {s : State} (h : Inv s) : Inv (resState (semSrec w x s)) := by
  unfold semSrec
  extract_lets rec_ i v
  exact inv_once h (by
    split
    · exact h
    · exact inv_memAccess h fun _ _ ht => inv_foldl ht fun _ _ hs1 => inv_ctxWrite hs1)

theorem inv_barrierAt {x : Ctx} {s : State} {word : Word} {scope : Option ℕ} (h : Inv s) :
    Inv (gotState (barrierAt x s word scope)) := by
  unfold barrierAt
  split
  · extract_lets off
    split
    · exact inv_badOperand h
    · split
      · exact h
      · exact h
  · extract_lets va need before
    split
    next s1 he =>
      have ht : Inv s1 := inv_snd_snd_of_eq he (inv_checkAccesses h)
      extract_lets s2
      have hs2 : Inv s2 := inv_ctxCount ht
      split
      · exact hs2
      · exact hs2
      · split
        · extract_lets b
          split
          · exact hs2
          · split
            · exact inv_modGroup hs2 fun _ hg => groupOk_modSplit hg
            · split
              · exact h
              · exact inv_refreshL1 hs2

theorem inv_ctxArrive {x : Ctx} {s : State} {l : BarLoc} {da dt : ℤ} (h : Inv s) : Inv (x.arrive s l da dt) := by
  unfold Ctx.arrive
  split
  · exact inv_arriveLocal h
  · split
    · exact h
    · extract_lets v1
      split
      next he => exact inv_snapReport (inv_storeRaw (inv_snd_of_eq he (inv_snapshot h)))

theorem inv_semBinit {w : ExtArgs} {x : Ctx} {s : State} (h : Inv s) : Inv (resState (semBinit w x s)) := by
  unfold semBinit
  extract_lets v expa scope b
  exact inv_once h (by
    split
    · exact h
    · exact inv_gotRun (inv_barrierAt h) fun _ _ ht => by
        split
        · exact inv_modTeam ht
        · exact inv_ctxWrite (inv_ctxWrite ht))

theorem inv_semArrive {ok : ℕ → Bool} {da dt : ℕ → ℤ} {w : ExtArgs} {x : Ctx} {s : State} (h : Inv s) :
    Inv (resState (semArrive ok da dt w x s)) := by
  unfold semArrive
  extract_lets v
  exact inv_once h (by
    split
    · exact h
    · exact inv_gotRun (inv_barrierAt h) fun _ _ ht => inv_ctxArrive ht)

theorem inv_semBarv {a : ExtArgs} {x : Ctx} {s : State} (h : Inv s) : Inv (resState (semBarv a x s)) := inv_semArrive h

theorem inv_semBarvx {a : ExtArgs} {x : Ctx} {s : State} (h : Inv s) : Inv (resState (semBarvx a x s)) := inv_semArrive h

theorem inv_ctxDeschedule {x : Ctx} {s : State} {f : WaitFor} {t : Word} {len : ℕ} (h : Inv s) :
    Inv (resState (x.deschedule s f t len)) :=
  inv_modGroup h fun _ hg => groupOk_modSplit hg

theorem inv_semBwait {isExt : Bool} {w : ExtArgs} {x : Ctx} {s : State} (h : Inv s) : Inv (resState (semBwait isExt w x s)) := by
  unfold semBwait
  extract_lets p word
  exact inv_once h (by
    split
    · exact h
    · split
      · exact h
      · exact inv_gotRun (inv_barrierAt h) fun _ _ ht => by
          split
          · exact ht
          · split
            · exact inv_acquire ht
            · exact inv_ctxDeschedule ht)

theorem inv_semBtest {w : ExtArgs} {x : Ctx} {s : State} (h : Inv s) : Inv (resState (semBtest w x s)) := by
  unfold semBtest
  extract_lets p
  exact inv_once h (by
    split
    · exact h
    · exact inv_gotRun (inv_barrierAt h) fun _ _ ht => by
        split
        · exact ht
        · extract_lets open_ s1
          have hs1 : Inv s1 := inv_modGroup ht fun _ hg => groupOk_writes hg _
          split
          · exact inv_acquire hs1
          · exact hs1)

theorem inv_waitvRead {x : Ctx} {s : State} {va : ℕ} (h : Inv s) : Inv (gotState (waitvRead x s va)) := by
  unfold waitvRead
  extract_lets before
  split
  next s1 he =>
    have ht : Inv s1 := inv_snd_snd_of_eq he (inv_checkAccesses h)
    extract_lets s2
    have hs2 : Inv s2 := inv_ctxCount ht
    split
    · exact hs2
    · exact hs2
    · split
      · split
        · exact inv_modGroup hs2 fun _ hg => groupOk_modSplit hg
        · split
          · exact h
          · split
            · exact hs2
            · exact inv_refreshL1 hs2

theorem inv_semWaitv {isExt : Bool} {w : ExtArgs} {x : Ctx} {s : State} (h : Inv s) : Inv (resState (semWaitv isExt w x s)) := by
  unfold semWaitv
  extract_lets va code v
  exact inv_once h (by
    split
    · exact h
    · exact inv_gotRun (inv_waitvRead h) fun _ _ ht => by
        split
        · exact inv_acquire ht
        · exact inv_ctxDeschedule ht)

theorem inv_semTsrd {w : ExtArgs} {x : Ctx} {s : State} (hx : groupOk x.g = true) (h : Inv s) : Inv (resState (semTsrd w x s)) :=
  inv_once h (inv_put h (groupOk_writes hx _))

theorem inv_semCntrd {w : ExtArgs} {x : Ctx} {s : State} (hx : groupOk x.g = true) (h : Inv s) :
    Inv (resState (semCntrd w x s)) := by
  unfold semCntrd
  extract_lets i c v
  exact inv_once h (inv_put h (groupOk_writes hx _))

theorem inv_takeCredits {s : State} {g : Grantor} {n : ℕ} (h : Inv s) : Inv (takeCredits s g n).2 := by
  unfold takeCredits
  split
  · exact h
  · split
    · extract_lets m
      dsimp only
      exact { h with }
    · exact h

theorem inv_returnCredits {s : State} {src : BitVec 12} {kind : String} {n : ℕ} (h : Inv s) :
    Inv (returnCredits s src kind n) := by
  unfold returnCredits
  split
  · exact h
  · exact inv_emit h

theorem inv_echoMark {s : State} {src : BitVec 12} (h : Inv s) : Inv (echoMark s src) := by
  unfold echoMark
  split
  · exact inv_emit h
  · exact h

theorem inv_noReplay {s : State} {x : Ctx} (h : Inv s) : Inv (noReplay s x) := by
  unfold noReplay
  extract_lets h1
  exact inv_snapReport (inv_markNonReplay h)

theorem inv_semPuti {w : ExtArgs} {x : Ctx} {s : State} (h : Inv s) : Inv (resState (semPuti w x s)) := by
  unfold semPuti
  extract_lets p win
  exact inv_once h (by
    split
    · exact h
    · split
      · exact h
      next he =>
        have ht := told_takeBulk he
        extract_lets s2 s3
        have hs2 : Inv s2 := inv_noReplay (Told.inv h ht)
        have hs3 : Inv s3 := inv_modGrid hs2
        exact inv_emit hs3)

theorem inv_writeBackLine {line : ℕ} {s : State} (h : Inv s) : Inv (writeBackLine line s) := { h with }

theorem inv_execCctl {w : BaseArgs} {s : State} (h : Inv s) : InvNext (execCctl w s) :=
  inv_issue (fun _ _ _ ht => inv_semCctl (fun _ _ ht1 => inv_writeBackLine ht1) ht) h

theorem inv_execCctlL {w : BaseArgs} {lit : DWord} {s : State} (h : Inv s) : InvNext (execCctlL w lit s) :=
  inv_issue (fun _ _ _ ht => inv_semCctl (fun _ _ ht1 => inv_writeBackLine ht1) ht) h

theorem inv_execCctlX {w : ExtArgs} {s : State} (h : Inv s) : InvNext (execCctlX w s) :=
  inv_issue (fun _ _ _ ht => inv_semCctl (fun _ _ ht1 => inv_writeBackLine ht1) ht) h

end Sys2Proof.Proofs
end

section
/-! The home of a line keeps the invariant (R247 to R262). -/

namespace Sys2Proof.Proofs

open Sys2Proof.Machine Sys2Proof.Safety Sys2Proof.Laws

theorem inv_modCoh {s : State} {f : Coherence → Coherence} (h : Inv s) : Inv (modCoh s f) := { h with }

theorem inv_modRegion {s : State} {r : ℕ} {f : Region → Region} (h : Inv s) : Inv (modRegion s r f) := inv_modCoh h

theorem inv_sendCoh {s : State} {kind : String} {src dst : CohNode} {line : ℕ} {stamp : Stamp} {data : Payload} (h : Inv s) :
    Inv (sendCoh s kind src dst line stamp data) :=
  inv_emit h

theorem inv_takeCoh {s : State} {kinds : List String} {src dst : CohNode → Bool} {line : ℕ} (h : Inv s) :
    InvOpt (takeCoh s kinds src dst line) :=
  invOpt_map fun _ _ => { h with }

theorem inv_dataHome {s : State} {kind answer : String} {n : Snoop} (h : Inv s) : Inv (dataHome s kind answer n) := by
  unfold dataHome
  split
  · exact inv_sendCoh h
  · exact h

theorem inv_snoopL2 {kind : String} {f : LineState → String × LineState} {n : Snoop} {s : State} (h : Inv s) :
    InvOpt (snoopL2 kind f n s) := by
  unfold snoopL2
  extract_lets node got
  have hgot : InvOpt got := by
    unfold got
    split
    · refine invOpt_orElse (inv_takeCoh h) ?_
      split
      · exact invOpt_some h
      · exact invOpt_none
    · split
      · exact invOpt_none
      · exact invOpt_some h
  clear_value got
  split
  · exact invOpt_none
  next t => exact invOpt_some (inv_dataHome (inv_sendCoh (inv_setL2 (hgot t rfl))))

theorem inv_noteGone {line : ℕ} {l : List CohNode} {s : State} (h : Inv s) : Inv (noteGone line l s) := by
  unfold noteGone
  extract_lets new
  exact inv_modCoh h

theorem inv_noteGrant {line : ℕ} {p : BitVec 12} {s : State} (h : Inv s) : Inv (noteGrant line p s) := inv_modCoh h

theorem inv_setDir {s : State} {line : ℕ} {e : Option DirEntry} (h : Inv s) : Inv (setDir s line e) := inv_modCoh h

theorem inv_applyPayload {s : State} {r : CohReq} (h : Inv s) : Inv (applyPayload s r) := by
  unfold applyPayload
  extract_lets pa
  split
  · exact h
  · exact { h with mem := writeList_wf h.mem _ _ }
  · extract_lets n
    split
    · exact h
    · exact { h with mem := writeN_wf h.mem _ _ _ }

theorem inv_answerReq {s : State} {r : CohReq} {answer : String} (h : Inv s) : Inv (answerReq s r answer) := by
  unfold answerReq
  split
  · exact h
  · extract_lets s1
    have hs1 : Inv s1 := inv_sendCoh h
    split
    · exact inv_returnCredits hs1
    · exact hs1

theorem inv_respond {s : State} {kind : CohKind} {r : CohReq} {answer : String} (h : Inv s) : Inv (respond s kind r answer) := by
  unfold respond
  extract_lets s1
  have hs1 : Inv s1 := inv_answerReq h
  split
  · split
    · exact hs1
    · extract_lets s2
      have hs2 : Inv s2 := by
        unfold s2
        split
        · exact inv_noteGone hs1
        · exact inv_noteGrant hs1
      exact inv_modCoh (inv_applyPayload hs2)
  · exact hs1

theorem inv_sendSnoops {s : State} {kind : CohKind} {r : CohReq} {line : ℕ} {l : List (String × CohNode)} (h : Inv s) :
    Inv (sendSnoops s kind r line l) :=
  inv_noteGone (inv_foldl h fun _ _ hs1 => inv_sendCoh hs1)

theorem inv_addGrant {s : State} {line : ℕ} {role : GrantRole} {kind : CohKind} {r : CohReq} {l : List CohNode}
    {answer : String} (h : Inv s) : Inv (addGrant s line role kind r l answer) := by
  unfold addGrant
  extract_lets g
  exact inv_modCoh h

theorem inv_serve {s : State} {kind : CohKind} {r : CohReq} (h : Inv s) : Inv (serve s kind r) := by
  unfold serve
  split
  · exact inv_answerReq h
  · extract_lets p s1 s2 s3 s4
    have hs1 : Inv s1 := inv_setL2 (inv_setDir h)
    have hs2 : Inv s2 := by
      unfold s2
      split
      · exact inv_modCoh hs1
      · exact hs1
    have hs3 : Inv s3 := by
      unfold s3
      split
      · split
        · exact hs2
        · exact inv_modRegion hs2
      · exact hs2
    have hs4 : Inv s4 := inv_sendSnoops hs3
    split
    · split
      next s5 he1 =>
        have ht : Inv s5 := inv_snd_of_eq he1 (inv_pick h)
        extract_lets v3 dies s6
        have hs6 : Inv s6 := inv_foldl ht fun _ _ hs7 => inv_sendCoh hs7
        exact inv_addGrant hs6
    · split
      · exact inv_respond hs4
      · exact inv_addGrant hs4

theorem inv_pump {n line : ℕ} {s : State} (h : Inv s) : Inv (pump n line s) := by
  induction n generalizing s with
  | zero => exact h
  | succ n ih =>
    rw [pump]
    split
    · exact h
    · split
      · exact h
      · split
        · exact h
        · exact ih (inv_serve (inv_modCoh h))

theorem inv_pumpLine {s : State} {line : ℕ} (h : Inv s) : Inv (pumpLine s line) := inv_pump h

theorem inv_pumpAll {s : State} (h : Inv s) : Inv (pumpAll s) := inv_foldl h fun _ _ hs1 => inv_pumpLine hs1

theorem inv_acceptReq {s : State} {kind : CohKind} {r : CohReq} (h : Inv s) : Inv (acceptReq s kind r) := by
  unfold acceptReq
  extract_lets refused
  split
  · exact inv_answerReq h
  · split
    · exact inv_modCoh h
    · exact inv_pumpLine (inv_modCoh h)

theorem inv_askHome {s : State} {line : ℕ} (h : Inv s) : Inv (askHome s line) := by
  unfold askHome
  extract_lets r
  split
  · exact inv_modCoh h
  · split
    · exact inv_modCoh h
    · exact inv_serve h

theorem inv_askHomes {s : State} {pa n : ℕ} (h : Inv s) : Inv (askHomes s pa n) := by
  unfold askHomes
  exact inv_foldl h fun _ _ hs1 => by
    split
    · exact inv_askHome hs1
    · exact hs1

theorem inv_lockWrite {s : State} {pa : ℕ} {l : List Byte} (h : Inv s) : Inv (lockWrite s pa l) :=
  inv_tellAccess (inv_askHomes { h with mem := writeList_wf h.mem _ _ })

theorem inv_lockAtomic {s : State} {pa n v : ℕ} {pay : Payload} (h : Inv s) : InvOpt (lockAtomic s pa n v pay) := by
  unfold lockAtomic
  extract_lets line done
  have hdone : ∀ (t : State), Inv t → Inv (done t) := fun _ ht => { ht with mem := writeN_wf ht.mem _ _ _ }
  split
  · split
    · exact invOpt_some (by
        exact hdone _ (by
          split
          · exact inv_askHome h
          · exact h))
    · exact invOpt_mapState (inv_takeRequest h) fun _ ht => hdone _ (inv_sendCoh ht)
  · exact invOpt_some (hdone _ h)

theorem inv_offered {s : State} {kind : CohKind} {r : CohReq} (h : Inv s) : InvOpt (offered s kind r) := by
  unfold offered
  split
  · exact invOpt_none
  · split
    · exact invOpt_map fun _ _ => inv_modCoh h
    · split
      · exact invOpt_some h
      · exact invOpt_none
    · exact invOpt_none
    · exact invOpt_none

theorem inv_atHome {kind : CohKind} {r : CohReq} {s : State} (h : Inv s) : InvOpt (atHome kind r s) := by
  unfold atHome
  split
  next he =>
    have ht := inv_offered h _ he
    exact invOpt_some (by
      exact inv_acceptReq (by
        split
        · exact inv_echoMark ht
        · exact ht))
  · exact invOpt_none

theorem inv_sweepDone {s : State} {region : ℕ} (h : Inv s) : Inv (sweepDone s region) := by
  unfold sweepDone
  split
  · exact h
  · exact inv_modRegion h

theorem inv_completeGrant {s : State} {g : Grant} (h : Inv s) : Inv (completeGrant s g) := by
  unfold completeGrant
  extract_lets s1
  have hs1 : Inv s1 := inv_modCoh h
  exact inv_pumpAll (by
    split
    · exact inv_respond hs1
    · exact inv_serve (inv_setDir hs1)
    · exact inv_sweepDone hs1
    · exact hs1)

theorem inv_answered {s : State} {line : ℕ} {n : CohNode} (h : Inv s) : Inv (answered s line n) := by
  unfold answered
  split
  · exact h
  · extract_lets h1
    split
    · exact inv_completeGrant h
    · exact inv_modCoh h

end Sys2Proof.Proofs
end

section
/-! The link sequencers keep the invariant (R301 to R314, R331 to R336). -/

namespace Sys2Proof.Proofs

open Sys2Proof.Machine Sys2Proof.Safety Sys2Proof.Laws

theorem inv_schedule {s : State} {n : ℕ} (h : Inv s) : Inv (schedule s n) :=
  inv_modSeq h fun q hq => by
    split
    · exact hq
    · split
      · exact seqOk_modCtx hq fun _ hc => hc
      · exact hq

theorem inv_sysWriteBytes {s : State} {space va : ℕ} {l : List Byte} (h : Inv s) : InvOpt (sysWriteBytes s space va l) := by
  unfold sysWriteBytes
  extract_lets pas
  split
  · exact invOpt_none
  · exact invOpt_some (inv_foldl h fun _ _ hs1 => inv_tellAccess { hs1 with mem := fset_wf hs1.mem _ _ })

theorem inv_sendAbort {s : State} {cid : BitVec 28} {cause : ℕ} (h : Inv s) : Inv (sendAbort s cid cause) := by
  unfold sendAbort
  extract_lets l
  split
  · exact inv_foldl h fun _ _ hs1 => inv_emit hs1
  · exact inv_emit h

theorem inv_recordFault {s : State} {cid : BitVec 28} {n k cause addr : ℕ} {pc : BitVec 11} (h : Inv s) :
    Inv (recordFault s cid n k cause addr pc) := by
  unfold recordFault
  split
  · exact h
  · split
    · exact h
    · extract_lets co1
      split
      next s1 he1 =>
        have ht : Inv s1 := inv_snd_of_eq he1 <| by
          split
          · exact h
          · split
            next he2 => exact inv_sysWriteBytes h _ he2
            · exact h
        exact { ht with }

theorem fwf_seqCtxFaultedBy {c : SeqCtx} {cause addr : ℕ} (hc : fwf c.k = true) : fwf (c.faultedBy cause addr).k = true := hc

theorem inv_leaveSeq {s : State} {n k : ℕ} {f : SeqCtx → SeqCtx} (h : Inv s)
    (hf : ∀ (a : SeqCtx), fwf a.k = true → fwf (f a).k = true) : Inv (leaveSeq s n k f) :=
  inv_schedule (inv_modSeq h fun _ hq => seqOk_modCtx hq fun _ hc => hf _ hc)

theorem inv_moveCtx {s : State} {n k : ℕ} {f : SeqCtx → SeqCtx} (h : Inv s)
    (hf : ∀ (a : SeqCtx), fwf a.k = true → fwf (f a).k = true) : Inv (moveCtx s n k f) := by
  unfold moveCtx
  split
  · exact inv_leaveSeq h fun _ ha => hf _ ha
  · exact inv_modCtx h fun _ hc1 => hf _ hc1

theorem inv_transParts {n space : ℕ} {need : Need} {l : List (ℕ × ℕ)} {g : Seg} {s : State} (h : Inv s) :
    Inv (SeqTrans.state (transParts n space need l g s)) := by
  induction l generalizing g s with
  | nil => exact h
  | cons e l ih =>
    obtain ⟨va, len⟩ := e
    rw [transParts]
    split
    · exact h
    · split
      next t he =>
        have ht : Inv t := inv_snd_snd_snd_of_eq he (inv_tlbLookup h)
        extract_lets s1
        have hs1 : Inv s1 := inv_modSeq ht fun _ hq => hq
        split
        · exact hs1
        · exact hs1
        · split
          · exact hs1
          · split
            · exact hs1
            · refine ih ?_
              split
              · exact (told_tellAccess ..).inv hs1
              · exact hs1

theorem inv_transChunk {n space : ℕ} {need : Need} {va len : ℕ} {s : State} (h : Inv s) :
    Inv (SeqTrans.state (transChunk n space need va len s)) := by
  unfold transChunk
  split
  · exact h
  · exact inv_transParts h

theorem inv_writeSeg {s : State} {g : Seg} {l : List Byte} (h : Inv s) : Inv (writeSeg s g l) := by
  induction g generalizing s l with
  | nil => exact h
  | cons e g ih => exact ih (inv_lockWrite h)

theorem inv_someBytes {s : State} {g : Seg} {l : List Byte} (h : Inv s) : Inv (someBytes s g l) := by
  unfold someBytes
  exact inv_foldl h fun _ _ hs1 => by
    split
    next s2 he =>
      have ht : Inv s2 := inv_snd_of_eq he (inv_pick hs1)
      split
      · exact ht
      · exact inv_lockWrite ht

theorem inv_freeBytes {n : ℕ} {s : State} (h : Inv s) : Inv (freeBytes n s).2 := by
  induction n generalizing s with
  | zero => exact h
  | succ n ih => exact ih (s := (pick s 256).2) (inv_pick h)

theorem inv_inFlight {s : State} {n k : ℕ} {op : RxOp} (h : Inv s) : Inv (inFlight s n k op).2 := by
  unfold inFlight
  extract_lets me
  split
  · split
    next he => exact inv_snd_of_eq he (inv_freeBytes h)
  · split
    · exact h
    · exact h

theorem inv_receivePart {s : State} {src dst : Route} {tag : BitVec 16} {data : List Byte} (h : Inv s) :
    Inv (receivePart s src dst tag data) := by
  unfold receivePart
  split
  · exact h
  · split
    · split
      · exact inv_someBytes h
      · exact h
    · exact h

theorem inv_someDue {s : State} {due : Option StoreDue} (h : Inv s) : Inv (someDue s due) := by
  unfold someDue
  split
  · exact inv_someBytes h
  · exact h

theorem inv_abandon {s : State} {n k : ℕ} (h : Inv s) : Inv (abandon s n k) := by
  unfold abandon
  extract_lets me
  split
  · exact inv_someBytes h
  · exact inv_receivePart (inv_someDue h)
  · exact inv_someDue h
  · extract_lets s1
    have hs1 : Inv s1 := inv_someDue h
    split
    · exact inv_receivePart hs1
    · exact hs1
  · split
    next he1 => exact inv_someBytes (inv_snd_of_eq he1 (inv_inFlight h))
    next he1 => exact inv_snd_of_eq he1 (inv_inFlight h)
  · split
    next s1 he1 =>
      have ht : Inv s1 := inv_snd_of_eq he1 <| by
        split
        · exact h
        · exact inv_freeBytes h
      exact inv_someBytes ht
  · exact h

theorem inv_dropMessages {s : State} {n k : ℕ} (h : Inv s) : Inv (dropMessages s n k) := by
  unfold dropMessages
  extract_lets me stays
  exact { h with }

theorem inv_drainChunk {s : State} {w : SeqWait} (h : Inv s) : Inv (drainChunk s w) := by
  unfold drainChunk
  split
  · exact inv_returnCredits h
  · exact h

theorem inv_seqFault {s : State} {n k cause addr : ℕ} (h : Inv s) : Inv (seqFault s n k cause addr) := by
  unfold seqFault
  extract_lets c s1 s2 s3
  have hs1 : Inv s1 := by
    unfold s1
    split
    · exact inv_abandon h
    · exact h
  have hs2 : Inv s2 := inv_drainChunk (inv_dropMessages hs1)
  have hs3 : Inv s3 := by
    unfold s3
    split
    · exact hs2
    · split
      · exact inv_sendAbort (inv_recordFault hs2)
      · exact hs2
  split
  · exact h
  · exact inv_moveCtx hs3 fun _ ha => fwf_seqCtxFaultedBy ha

theorem fwf_atSwitch {f : SeqCtx → SeqCtx} {c : SeqCtx} (hf : ∀ (a : SeqCtx), fwf a.k = true → fwf (f a).k = true)
    (hc : fwf c.k = true) : fwf (atSwitch f c).k = true := by
  unfold atSwitch
  split
  · exact fwf_seqCtxFaultedBy hc
  · exact hf _ hc

theorem fwf_seqCtxRested {c : SeqCtx} (hc : fwf c.k = true) : fwf c.rested.k = true := by
  unfold SeqCtx.rested
  split
  · split
    · exact hc
    · exact hc
  · exact hc

theorem fwf_seqCtxEnded {c : SeqCtx} (hc : fwf c.k = true) : fwf c.ended.k = true := hc

theorem fwf_seqCtxRetried {c : SeqCtx} (hc : fwf c.k = true) : fwf c.retried.k = true := by
  unfold SeqCtx.retried
  split
  · exact hc
  · exact hc

theorem inv_seqComplete {s : State} {n k : ℕ} (h : Inv s) : Inv (seqComplete s n k) :=
  inv_schedule (inv_modCtx h fun _ hc => fwf_atSwitch (fun _ ha => fwf_seqCtxRested ha) hc)

theorem inv_sendReady {s : State} {n k : ℕ} {op : RxOp} (h : Inv s) : Inv (sendReady s n k op) := by
  unfold sendReady
  extract_lets c s1
  have hs1 : Inv s1 := inv_emit h
  exact inv_modCtx hs1 fun _ hc1 => by
    split
    · exact hc1
    · exact hc1

theorem inv_sendChunk {s : State} {n k : ℕ} {dst : Route} {tag : BitVec 16} {l : List Byte} {left lnk : ℕ}
    {due : Option StoreDue} (h : Inv s) : Inv (sendChunk s n k dst tag l left lnk due) := by
  unfold sendChunk
  extract_lets c waitFor
  have hwaitFor : ∀ (t : State), Inv t → ∀ (left : ℕ), Inv (waitFor t left) := fun _ ht _ => inv_modCtx ht fun _ hc1 => hc1
  split
  · split
    · exact hwaitFor _ h _
    · exact inv_seqFault h
  · split
    next he => exact inv_modCtx (inv_emitOn (inv_snd_of_eq he (inv_takeCredits h))) fun _ hc11 => hc11
    next he => exact hwaitFor _ (inv_snd_of_eq he (inv_takeCredits h)) _

theorem inv_offerSum {s : State} {n k : ℕ} {dst : Seg} {own : List Byte} {count left link : ℕ} {desc : DWord} (h : Inv s) :
    Inv (offerSum s n k dst own count left link desc) := by
  unfold offerSum
  extract_lets c waitFor
  have hwaitFor : ∀ (t : State), Inv t → ∀ (left : ℕ), Inv (waitFor t left) := fun _ ht _ => inv_modCtx ht fun _ hc1 => hc1
  split
  · split
    · exact hwaitFor _ h _
    · exact inv_seqFault h
  · split
    next he => exact inv_modCtx (inv_emit (inv_snd_of_eq he (inv_takeCredits h))) fun _ hc11 => hc11
    next he => exact hwaitFor _ (inv_snd_of_eq he (inv_takeCredits h)) _

theorem inv_mismatch {s : State} {n k : ℕ} {dst : Route} {tag : BitVec 16} (h : Inv s) : Inv (mismatch s n k dst tag) :=
  inv_seqFault (inv_emit h)

theorem inv_advanceCtx {s : State} {n k : ℕ} (h : Inv s) : Inv (advanceCtx s n k) := by
  unfold advanceCtx
  extract_lets c from_ drop
  have hdrop : ∀ (t : State), Inv t → ∀ (m : ReadyMsg), Inv (drop t m) := fun _ ht _ => inv_modCtx ht fun _ hc1 => hc1
  split
  · exact h
  · split
    · split
      · exact h
      · split
        · exact inv_mismatch (hdrop _ h _)
        · split
          · exact inv_seqFault (inv_receivePart (hdrop _ h _))
          · exact inv_sendChunk (hdrop _ h _)
    · exact inv_sendChunk h
    · exact inv_offerSum h
    · split
      · exact inv_sendReady h
      · split
        · exact h
        · split
          · exact inv_mismatch (hdrop _ h _)
          · exact inv_sendReady (inv_modCtx (hdrop _ h _) fun _ hc11 => hc11)
    · exact h

theorem inv_ackSender {s : State} {from_ me : Route} {tag : BitVec 16} (h : Inv s) : Inv (ackSender s from_ me tag) := by
  unfold ackSender
  split
  · exact inv_emit h
  · exact inv_modCtx h fun _ hc1 => by
      split
      · split
        · exact hc1
        · exact hc1
      · exact hc1

theorem inv_drained {s : State} {from_ : Route} {n : ℕ} (h : Inv s) : Inv (drained s from_ n) := inv_returnCredits h

theorem inv_finishDue {s : State} {n k : ℕ} {due : Option StoreDue} (h : Inv s) : Inv (finishDue s n k due) := by
  unfold finishDue
  split
  · exact inv_ackSender (inv_writeSeg h)
  · exact h

theorem inv_startCombine {s : State} {n k : ℕ} {op : RxOp} {cmb : BitVec 3} {data : List Byte} (h : Inv s) :
    Inv (startCombine s n k op cmb data) := by
  unfold startCombine
  extract_lets c out s1 quit
  have hs1 : Inv s1 := inv_drained h
  have hquit : ∀ (t : State), Inv t → ∀ (cause : ℕ), Inv (quit t cause) :=
    fun _ ht _ => inv_seqFault (inv_modCtx ht fun _ hc1 => hc1)
  split
  · exact h
  · split
    · exact hquit _ hs1 _
    · split
      · exact hquit _ (inv_someBytes hs1) _
      · extract_lets s2 s3 s4 me
        have hs2 : Inv s2 := by
          unfold s2
          split
          · exact hs1
          · exact inv_writeSeg hs1
        have hs3 : Inv s3 := by
          unfold s3
          split
          · exact hs2
          · exact inv_modCtx hs2 fun _ hc11 => hc11
        have hs4 : Inv s4 := by
          unfold s4
          split
          · exact hs3
          · exact { hs3 with }
        split
        · exact inv_modCtx (inv_ackSender (inv_writeSeg hs4)) fun _ hc11 => hc11
        · split
          · exact inv_sendChunk (inv_ackSender hs4)
          · exact inv_sendChunk hs4

theorem inv_receiveChunk {s : State} {n k : ℕ} {op : RxOp} {data : List Byte} (h : Inv s) : Inv (receiveChunk s n k op data) := by
  unfold receiveChunk
  split
  · extract_lets s1
    have hs1 : Inv s1 := inv_ackSender (inv_writeSeg (inv_drained h))
    exact inv_modCtx hs1 fun _ hc => hc
  · extract_lets turn
    split
    · exact inv_startCombine h
    · exact inv_modCtx h fun _ hc1 => hc1

theorem fwf_seqCtxSetK {c : SeqCtx} {i : BitVec 4} {v : DWord} (hc : fwf c.k = true) : fwf (c.setK i v).k = true := fset_wf hc _ _

theorem inv_seqStepDone {s : State} {x : SCtx} {c : SeqCtx} (h : Inv s) (hc : fwf c.k = true) : Inv (seqStepDone s x c) := by
  unfold seqStepDone
  split
  · exact inv_leaveSeq h fun _ _ => fwf_atSwitch (fun _ ha1 => ha1) hc
  · exact inv_modSeq h fun _ hq => seqOk_modCtx hq fun _ _ => hc

theorem inv_issueSeq {body : SCtx → State → SeqRes} {s : State}
    (hbody : ∀ y : SCtx, fwf y.c.k = true → ∀ t, Inv t → SeqResOk (body y t)) (h : Inv s) : InvNext (issueSeq body s) := by
  unfold issueSeq
  split
  · exact invNext_next h
  next x hx =>
    have hb := hbody x (fwf_sctx h hx) s h
    extract_lets halt
    have hhalt : ∀ t, Inv t → ∀ w, Inv (halt t w) := fun _ ht _ => inv_leaveSeq ht fun _ hc => fwf_atSwitch (fun _ hc => hc) hc
    split
    next he =>
      obtain ⟨hc, ht⟩ : _ ∧ _ := seqResOk_of_eq he hb
      exact invNext_next (inv_seqStepDone ht hc)
    next t he =>
      have ht : Inv t := seqResOk_of_eq he hb
      exact invNext_next (inv_advanceCtx (hhalt _ ht _))
    next t he =>
      have ht : Inv t := seqResOk_of_eq he hb
      extract_lets s2
      have hs2 : Inv s2 := hhalt _ ht _
      refine invNext_next ?_
      split
      · exact inv_tellHost hs2
      · exact hs2
    next t he =>
      have ht : Inv t := seqResOk_of_eq he hb
      exact invNext_next (inv_seqFault ht)
    next t he =>
      have ht : Inv t := seqResOk_of_eq he hb
      exact invNext_next (inv_leaveSeq ht fun _ hc => fwf_atSwitch (fun _ hc => fwf_seqCtxEnded hc) hc)

theorem inv_sCtxNext {x : SCtx} {c : SeqCtx} {s : State} (hc : fwf c.k = true) (h : Inv s) : SeqResOk (x.next c s) :=
  seqResOk_go h hc

theorem inv_seqTransAndThen {t : SeqTrans} {f : Seg → State → SeqRes} (ht : Inv (SeqTrans.state t))
    (hf : ∀ (l : Seg) (t : State), Inv t → SeqResOk (f l t)) : SeqResOk (t.andThen f) := by
  unfold SeqTrans.andThen
  split
  · exact hf _ _ ht
  · exact seqResOk_page ht
  · exact seqResOk_wait ht
  · exact seqResOk_fault ht

theorem inv_sCtxChunk {x : SCtx} {need : Need} {va : DWord} {len : ℕ} {s : State} {f : Seg → State → SeqRes} (h : Inv s)
    (hf : ∀ (l : Seg) (t : State), Inv t → SeqResOk (f l t)) : SeqResOk (x.chunk need va len s f) :=
  inv_seqTransAndThen (inv_transChunk h) fun _ _ ht => hf _ _ ht

theorem inv_sCtxWord {x : SCtx} {need : Need} {va : DWord} {n : ℕ} {s : State} {f : ℕ → State → SeqRes} (h : Inv s)
    (hf : ∀ (n : ℕ) (t : State), Inv t → SeqResOk (f n t)) : SeqResOk (x.word need va n s f) := by
  unfold SCtx.word
  split
  · exact seqResOk_fault h
  · exact inv_seqTransAndThen (inv_transParts h) fun _ _ ht => hf _ _ ht

theorem inv_semTxc {a b : BitVec 4} {len : BitVec 12} {lnk : BitVec 5} {tag : BitVec 16} {x : SCtx} {s : State} (h : Inv s) :
    SeqResOk (semTxc a b len lnk tag x s) := by
  unfold semTxc
  split
  · exact seqResOk_fault h
  · split
    · exact seqResOk_fault h
    · split
      · exact seqResOk_fault h
      · exact inv_sCtxChunk h fun _ _ ht => seqResOk_wait ht

theorem inv_sCtxRecordAt {x : SCtx} {s : State} {f : Seg → State → SeqRes} (h : Inv s)
    (hf : ∀ (l : Seg) (t : State), Inv t → SeqResOk (f l t)) : SeqResOk (x.recordAt s f) := by
  unfold SCtx.recordAt
  split
  · exact hf _ _ h
  · exact inv_seqTransAndThen (inv_transParts h) fun _ _ ht => hf _ _ ht

theorem inv_sCtxReplayEntry {x : SCtx} {src : Route} {s : State} {f : Option Word → State → SeqRes} (h : Inv s)
    (hf : ∀ (o : Option Word) (t : State), Inv t → SeqResOk (f o t)) : SeqResOk (x.replayEntry src s f) := by
  unfold SCtx.replayEntry
  split
  · exact hf _ _ h
  · exact inv_seqTransAndThen (inv_transParts h) fun _ _ ht => by
      split
      · exact seqResOk_fault ht
      · extract_lets v me
        split
        · exact seqResOk_fault ht
        · exact hf _ _ (inv_modCtx ht fun _ hc3 => hc3)

theorem inv_rxWait {op : RxOp} {s : State} (h : Inv s) : SeqResOk (rxWait op s) := seqResOk_wait h

theorem inv_semRxs {d b : BitVec 4} {len : BitVec 12} {tag : BitVec 16} {x : SCtx} {s : State} (h : Inv s) :
    SeqResOk (semRxs d b len tag x s) := by
  unfold semRxs
  split
  · exact seqResOk_fault h
  · exact inv_sCtxChunk h fun _ _ ht => inv_rxWait ht

theorem inv_semRxc {d a b : BitVec 4} {len : BitVec 12} {cmb : BitVec 3} {tag : BitVec 16} {x : SCtx} {s : State} (h : Inv s) :
    SeqResOk (semRxc d a b len cmb tag x s) := by
  unfold semRxc
  extract_lets n
  split
  · exact seqResOk_fault h
  · split
    · exact seqResOk_fault h
    · split
      · exact seqResOk_fault h
      · exact inv_sCtxChunk h fun _ _ ht => inv_sCtxChunk ht fun _ _ ht1 =>
          inv_sCtxRecordAt ht1 fun _ _ ht2 => inv_sCtxReplayEntry ht2 fun _ _ ht3 => inv_rxWait ht3

theorem inv_semRxcf {d a b : BitVec 4} {len : BitVec 12} {lnk : BitVec 5} {cmb : BitVec 3} {sto : Bool} {tag : BitVec 16}
    {x : SCtx} {s : State} (h : Inv s) : SeqResOk (semRxcf d a b len lnk cmb sto tag x s) := by
  unfold semRxcf
  extract_lets n old
  split
  · split
    · exact seqResOk_fault h
    · split
      · exact seqResOk_fault h
      · exact inv_sCtxChunk h fun _ _ ht => inv_sCtxRecordAt ht fun _ _ ht1 =>
          inv_sCtxReplayEntry ht1 fun _ _ ht2 => inv_rxWait ht2
  · exact seqResOk_fault h

theorem inv_semWflg {a b : BitVec 4} {timeout : Word} {x : SCtx} {s : State} (hx : fwf x.c.k = true) (h : Inv s) :
    SeqResOk (semWflg a b timeout x s) := by
  unfold semWflg
  exact inv_sCtxWord h fun _ _ ht => by
    split
    · exact seqResOk_fault ht
    · split
      · exact inv_sCtxNext hx ht
      · exact seqResOk_wait ht

theorem inv_semSflg {a b : BitVec 4} {mode : BitVec 2} {imm : Word} {x : SCtx} {s : State} (hx : fwf x.c.k = true) (h : Inv s) :
    SeqResOk (semSflg a b mode imm x s) := by
  unfold semSflg
  extract_lets v old need
  split
  · exact seqResOk_fault h
  · exact inv_sCtxWord h fun _ _ ht => by
      split
      · exact inv_sCtxNext hx (inv_lockWrite ht)
      · split
        · exact seqResOk_fault ht
        · split
          next he => exact inv_sCtxNext hx (inv_lockAtomic ht _ he)
          · exact seqResOk_wait ht

theorem inv_semLoopk {d : BitVec 4} {target : BitVec 11} {x : SCtx} {s : State} (hx : fwf x.c.k = true) (h : Inv s) :
    SeqResOk (semLoopk d target x s) := by
  unfold semLoopk
  extract_lets v old
  have hold : fwf old.k = true := fwf_seqCtxSetK hx
  exact seqResOk_go h hold

theorem inv_semJmpk {a : BitVec 4} {target : BitVec 11} {cond : BitVec 2} {x : SCtx} {s : State} (hx : fwf x.c.k = true)
    (h : Inv s) : SeqResOk (semJmpk a target cond x s) := by
  unfold semJmpk
  split
  · exact seqResOk_fault h
  · extract_lets taken old
    exact seqResOk_go h hx

theorem inv_semSetk {d a : BitVec 4} {mode : BitVec 2} {imm : Word} {x : SCtx} {s : State} (hx : fwf x.c.k = true) (h : Inv s) :
    SeqResOk (semSetk d a mode imm x s) := by
  unfold semSetk
  split
  · exact seqResOk_fault h
  · extract_lets v
    exact inv_sCtxNext (fwf_seqCtxSetK hx) h

theorem inv_semAddk {d a b : BitVec 4} {mode : BitVec 2} {imm : Word} {x : SCtx} {s : State} (hx : fwf x.c.k = true) (h : Inv s) :
    SeqResOk (semAddk d a b mode imm x s) := by
  unfold semAddk
  extract_lets p q v
  split
  · exact seqResOk_fault h
  · exact inv_sCtxNext (fwf_seqCtxSetK hx) h

theorem inv_semCvtb {d a b : BitVec 4} {len : BitVec 12} {dir : Bool} {x : SCtx} {s : State} (h : Inv s) :
    SeqResOk (semCvtb d a b len dir x s) := by
  unfold semCvtb
  extract_lets n e
  split
  · split
    · split
      · exact seqResOk_fault h
      · split
        · exact seqResOk_fault h
        · exact inv_sCtxChunk h fun _ _ ht => by
            exact inv_sCtxChunk ht fun _ _ ht1 => by
              extract_lets l2 r out
              split
              · exact seqResOk_fault (inv_someBytes ht1)
              · exact seqResOk_wait ht1

theorem inv_semSred {d a b : BitVec 4} {len : BitVec 12} {lnk : BitVec 5} {x : SCtx} {s : State} (h : Inv s) :
    SeqResOk (semSred d a b len lnk x s) := by
  unfold semSred
  extract_lets desc n
  split
  · exact seqResOk_fault h
  · split
    · exact seqResOk_fault h
    · exact inv_sCtxChunk h fun _ _ ht => by
        exact inv_sCtxChunk ht fun _ _ ht1 => by
          extract_lets own
          split
          · split
            next s1 he =>
              have ht2 : Inv s1 := inv_snd_of_eq he <| by
                split
                · exact ht1
                · exact inv_freeBytes ht1
              exact seqResOk_fault (inv_someBytes ht2)
          · exact seqResOk_wait ht1

theorem inv_semPutk {d a b : BitVec 4} {x : SCtx} {s : State} (hx : fwf x.c.k = true) (h : Inv s) :
    SeqResOk (semPutk d a b x s) := by
  unfold semPutk
  extract_lets r p
  split
  · exact seqResOk_fault h
  · split
    · exact seqResOk_wait h
    next he => exact inv_sCtxNext hx (inv_emit (Told.inv h (told_takeBulk he)))

theorem inv_semLoga {a b : BitVec 4} {mode : BitVec 2} {x : SCtx} {s : State} (hx : fwf x.c.k = true) (h : Inv s) :
    SeqResOk (semLoga a b mode x s) := by
  unfold semLoga
  extract_lets buf size old
  split
  · exact seqResOk_fault h
  · exact inv_sCtxNext hx h

theorem inv_execSnop {s : State} (h : Inv s) : InvNext (execSnop s) := inv_issueSeq (fun _ hy _ ht => inv_sCtxNext hy ht) h

end Sys2Proof.Proofs
end

section
/-! Control instructions keep the invariant (R84, R126 to R130, R341 to R351, R386 to R390). -/

namespace Sys2Proof.Proofs

open Sys2Proof.Machine Sys2Proof.Safety Sys2Proof.Laws

theorem groupOk_branchTo {g : Machine.Group} {x : Ctx} {l : List ℕ} {t : DWord} (hg : groupOk g = true) :
    groupOk (branchTo g x l t) = true := by
  unfold branchTo
  split
  · exact groupOk_bank hg fun _ hb => hb
  · exact groupOk_modSlices hg _ fun _ _ hq => hq

theorem inv_takeBranch {x : Ctx} {s : State} {t : DWord} (hx : groupOk x.g = true) (h : Inv s) :
    Inv (resState (takeBranch x s t)) := by
  unfold takeBranch
  split
  · exact inv_put h (groupOk_branchTo hx)
  · exact h

theorem inv_semBra {t : Ctx → DWord} {x : Ctx} {s : State} (hx : groupOk x.g = true) (h : Inv s) :
    Inv (resState (semBra t x s)) :=
  inv_takeBranch hx h

theorem inv_semBcu {i : BitVec 3} {inv : Bool} {t : Ctx → DWord} {x : Ctx} {s : State} (hx : groupOk x.g = true) (h : Inv s) :
    Inv (resState (semBcu i inv t x s)) := by
  unfold semBcu
  extract_lets b
  split
  · exact inv_takeBranch hx h
  · split
    · exact h
    · exact h

theorem inv_semJmpi {a : BitVec 7} {x : Ctx} {s : State} (hx : groupOk x.g = true) (h : Inv s) :
    Inv (resState (semJmpi a x s)) := by
  unfold semJmpi
  extract_lets t
  split
  · exact h
  · split
    · exact h
    · exact inv_takeBranch hx h

theorem inv_diverge {x : Ctx} {s : State} {j len : ℕ} {tgt r : DWord} {tt ff : List ℕ} (hx : groupOk x.g = true) (h : Inv s) :
    Inv (resState (diverge x s j len tgt r tt ff)) := by
  unfold diverge
  extract_lets g m jr pcF move fall free ibFree jOk g1 g2 old part d g3 g4 g5
  have hmove : ∀ (g : Machine.Group), groupOk g = true → ∀ (l : List ℕ) (t : DWord), groupOk (move g l t) = true :=
    fun _ hg6 _ _ => groupOk_modSlices hg6 _ fun _ _ hq => hq
  have hfall : ∀ (g : Machine.Group), groupOk g = true → groupOk (fall g) = true := by
    intro _ hg6
    unfold fall
    exact groupOk_modSlices hg6 _ fun _ _ hq => by
      extract_lets r1
      exact hq
  have hg1 : groupOk g1 = true := by
    unfold g1
    split
    · exact hx
    · exact hx
  have hg2 : groupOk g2 = true := groupOk_modSplit hg1
  have hg3 : groupOk g3 = true := hx
  have hg4 : groupOk g4 = true := groupOk_modSplit hg3
  have hg5 : groupOk g5 = true := groupOk_modSlices hg4 _ fun _ _ hq => hq
  split
  · extract_lets g6 pend g7 g8
    have hg6 : groupOk g6 = true := groupOk_modSplit hg2
    have hg7 : groupOk g7 = true := groupOk_modSplit hg6
    have hg8 : groupOk g8 = true := groupOk_modSplit hg7
    exact inv_ctxCount (inv_put h (hmove _ (hfall _ hg8) _ _))
  · split
    · exact h
    · exact inv_ctxCount (inv_put h (hmove _ hg5 _ _))

theorem inv_semBc {i : BitVec 3} {inv : Bool} {j : BitVec 3} {len : ℕ} {tg : Ctx → DWord} {x : Ctx} {s : State}
    (hx : groupOk x.g = true) (h : Inv s) : Inv (resState (semBc i inv j len tg x s)) := by
  unfold semBc
  extract_lets b tt ff t
  split
  · exact h
  · split
    · exact h
    · split
      · exact inv_put h (groupOk_branchTo hx)
      · split
        · exact h
        · split
          · split
            next he => exact inv_diverge hx (inv_snd_of_eq he (inv_ctxFetch h))
            next he => exact inv_ctxFetchFail (inv_snd_of_eq he (inv_ctxFetch h))
          · exact inv_diverge hx h

theorem inv_semCall {n len : ℕ} {indirect : Bool} {tg : Ctx → ℕ → DWord} {x : Ctx} {s : State} (hx : groupOk x.g = true)
    (h : Inv s) : Inv (resState (semCall n len indirect tg x s)) := by
  unfold semCall
  extract_lets g d sl past need ret ws g1 t g2
  have hg1 : groupOk g1 = true := groupOk_modSlices (groupOk_writes hx _) _ fun _ _ hq => hq
  have hg2 : groupOk g2 = true := by
    unfold g2
    split
    · exact groupOk_bank hg1 fun _ hb => hb
    · exact groupOk_setPc hg1
  split
  · exact h
  · split
    · exact h
    · split
      · exact h
      · split
        · exact h
        · exact inv_put h hg2

theorem inv_semRet {x : Ctx} {s : State} (hx : groupOk x.g = true) (h : Inv s) : Inv (resState (semRet x s)) := by
  unfold semRet
  extract_lets g fill wb rb link slide ret g1 t g2
  have hfill : ∀ (p : ℕ → ℕ), Inv (resState (fill p)) := by
    intro _
    unfold fill
    extract_lets need
    exact h
  have hg1 : groupOk g1 = true := groupOk_modSlices hx _ fun _ _ hq => hq
  have hg2 : groupOk g2 = true := by
    unfold g2
    split
    · exact groupOk_bank hg1 fun _ hb => hb
    · exact groupOk_setPc hg1
  split
  · exact h
  · split
    · exact hfill _
    · split
      · exact h
      · split
        · exact h
        · split
          · exact hfill _
          · exact inv_put h hg2

theorem refillOk_refill {x : Ctx} {n : ℕ} {s : State} {g : Machine.Group} (h : Inv s) (hg : groupOk g = true) :
    RefillOk (refill x n s g) := by
  induction n generalizing s g with
  | zero => exact ⟨h, hg⟩
  | succ n ih =>
    rw [refill]
    split
    · exact ⟨h, hg⟩
    · split
      · exact h
      · extract_lets a
        split
        next t he =>
          extract_lets t1
          have ht1 : Inv t1 := inv_ctxCount (inv_snd_snd_of_eq he (inv_checkAccesses h))
          split
          · exact trivial
          · split
            · exact ht1
            · split
              next u hu => exact ih (inv_ctxCount (inv_snd_snd_of_eq hu (inv_loadBytes ht1))) hg
        next t he => exact inv_ctxCount (inv_snd_snd_of_eq he (inv_checkAccesses h))

theorem inv_refillAndThen {r : Refill} {before : State} {x : Ctx} {detail : ℕ} {f : State → Machine.Group → Res} (hr : RefillOk r)
    (hbefore : Inv before) (hf : ∀ t g, Inv t → groupOk g = true → Inv (resState (f t g))) :
    Inv (resState (r.andThen before x detail f)) := by
  unfold Refill.andThen
  cases r with
  | ok s g => exact hf s g hr.1 hr.2
  | trap s => exact hr
  | fault s => exact hr
  | wait => exact hbefore

theorem groupOk_merge {g : Machine.Group} {n : ℕ} (hg : groupOk g = true) : groupOk (merge g n) = true := by
  unfold merge
  extract_lets jr low keep onN gone pc splits dstack spill
  exact groupOk_setPc hg

theorem inv_regangOn {j : ℕ} {x : Ctx} {s : State} {g : Machine.Group} (h : Inv s) (hg : groupOk g = true) :
    Inv (resState (regangOn j x s g)) := by
  unfold regangOn
  extract_lets m second
  have hsecond : ∀ (g : Machine.Group), groupOk g = true → ∀ (m : BitVec 16), Inv (resState (second g m)) := by
    intro _ hg1 _
    unfold second
    extract_lets jr g2 l
    have hg2 : groupOk g2 = true := groupOk_modSplit hg1
    split
    · split
      · exact h
      · split
        · exact h
        · exact inv_put h (by
            split
            · exact groupOk_merge hg2
            · exact hg2)
    · exact inv_put h (by
        split
        · exact groupOk_advance hg1
        · exact groupOk_setPc hg1)
  split
  · split
    · split
      · exact h
      · split
        · extract_lets g1 g2
          have hg1 : groupOk g1 = true := hg
          have hg2 : groupOk g2 = true := groupOk_modSplit hg1
          exact inv_put h (groupOk_setPc hg2)
        · extract_lets m1 g1
          have hg1 : groupOk g1 = true := hg
          exact hsecond _ (groupOk_modSplit hg1) _
    · exact hsecond _ hg _
  · exact hsecond _ hg _

theorem inv_semRegang {j : BitVec 3} {x : Ctx} {s : State} (hx : groupOk x.g = true) (h : Inv s) :
    Inv (resState (semRegang j x s)) :=
  inv_refillAndThen (refillOk_refill h hx) h fun _ _ ht hg => inv_regangOn ht hg

theorem groupOk_removeSlices {g : Machine.Group} {m : BitVec 16} (hg : groupOk g = true) : groupOk (removeSlices g m) = true := by
  unfold removeSlices
  extract_lets left empty
  exact hg

theorem groupOk_mergeAll {g : Machine.Group} (hg : groupOk g = true) : groupOk (mergeAll g) = true := by
  unfold mergeAll
  exact groupOk_foldl hg fun _ _ hg1 => by
    split
    · exact groupOk_merge hg1
    · exact hg1

theorem inv_exitOn {x : Ctx} {s : State} {g : Machine.Group} (h : Inv s) (hg : groupOk g = true) :
    Inv (resState (exitOn x s g)) := by
  unfold exitOn
  extract_lets m r bad
  have hr : groupOk r = true := groupOk_removeSlices hg
  split
  · exact h
  · exact inv_refillAndThen (refillOk_refill h hr) h fun _ _ ht hg1 => by
      extract_lets pending g2
      have hg2 : groupOk g2 = true := by
        unfold g2
        clear_value pending
        split
        · extract_lets q
          have hq : groupOk q = true := hg1
          exact groupOk_setPc (groupOk_modSplit hq)
        · exact groupOk_modSplit hg1
      exact inv_put ht (groupOk_mergeAll hg2)

theorem inv_semExit {x : Ctx} {s : State} (hx : groupOk x.g = true) (h : Inv s) : Inv (resState (semExit x s)) := by
  unfold semExit
  split
  · exact h
  · exact inv_refillAndThen (refillOk_refill h hx) h fun _ _ ht hg => inv_exitOn ht hg

theorem inv_semLoop {stop : Ctx → DWord} {cnt : Ctx → ℕ → Word} {x : Ctx} {s : State} (hx : groupOk x.g = true) (h : Inv s) :
    Inv (resState (semLoop stop cnt x s)) := by
  unfold semLoop
  split
  · exact h
  · extract_lets e c l
    split
    next s1 he =>
      have ht : Inv s1 := inv_snd_of_eq he (inv_ctxFetch h)
      extract_lets op
      split
      · exact ht
      · split
        · exact ht
        · split
          · exact ht
          · split
            · exact inv_put ht (groupOk_setPc hx)
            · exact inv_put ht (groupOk_modSlices hx _ fun _ _ hq => hq)
    next he => exact inv_ctxFetchFail (inv_snd_of_eq he (inv_ctxFetch h))

theorem inv_semLeave {x : Ctx} {s : State} (hx : groupOk x.g = true) (h : Inv s) : Inv (resState (semLeave x s)) := by
  unfold semLeave
  split
  · exact h
  · extract_lets top
    split
    · exact h
    · split
      · exact h
      · split
        · exact h
        · split
          next he1 => exact inv_put (inv_snd_of_eq he1 (inv_ctxFetch h)) (groupOk_modSlices hx _ fun _ _ hq => hq)
          next he1 => exact inv_ctxFetchFail (inv_snd_of_eq he1 (inv_ctxFetch h))

theorem inv_semYield {deadline : BitVec 12} {n : BitVec 9} {x : Ctx} {s : State} (hx : groupOk x.g = true) (h : Inv s) :
    Inv (resState (semYield deadline n x s)) := by
  unfold semYield
  split
  · exact h
  · extract_lets old g g1
    have hg : groupOk g = true := hx
    have hg1 : groupOk g1 = true := groupOk_modSplit hg
    split
    · exact inv_put h (groupOk_modSplit hg1)
    · exact inv_put h hg1

theorem inv_semTrap {code : BitVec 8} {x : Ctx} {s : State} (h : Inv s) : Inv (resState (semTrap code x s)) := by
  unfold semTrap
  split
  · extract_lets pc c s1
    have hs1 : Inv s1 := inv_streamFault h
    exact inv_report hs1
  · exact h

theorem inv_semBrk {code : BitVec 8} {x : Ctx} {s : State} (hx : groupOk x.g = true) (h : Inv s) :
    Inv (resState (semBrk code x s)) := by
  unfold semBrk
  split
  · exact inv_tellHost (by
      exact inv_put h (by
        extract_lets old
        exact hx))
  · exact h

theorem inv_issueCtl {i : Instr} {y : Bool} {body : Ctx → State → Res} {s : State}
    (hbody : ∀ (y : Ctx), groupOk y.g = true → ∀ (t : State), Inv t → Inv (resState (body y t))) (h : Inv s) :
    InvNext (issueCtl i y body s) :=
  inv_issue (fun _ hy1 _ ht => hbody _ hy1 _ ht) h

theorem inv_execNop {y : Bool} {s : State} (h : Inv s) : InvNext (execNop y s) := inv_issueCtl (fun _ _ _ ht => ht) h

theorem inv_settleAfter {s : State} {o : Host.Outcome State Fault Refusal} (ho : InvNext o) : InvNext (settleAfter s o) := by
  unfold settleAfter
  split
  next t _ _ => exact invNext_next (inv_settle (ho t rfl))
  · exact ho

end Sys2Proof.Proofs
end

section
/-! Grids, pairs and system instructions keep the invariant (R35, R55, R118 to R121, R219, R377 to R381, R410). -/

namespace Sys2Proof.Proofs

open Sys2Proof.Machine Sys2Proof.Safety Sys2Proof.Laws

theorem inv_newGrid {s : State} {l : Launch} {space depth : ℕ} {parent : Option ℕ} {source : LaunchSource} (h : Inv s) :
    Inv (newGrid s l space depth parent source).2 := by
  unfold newGrid
  split
  next s1 he =>
    have ht : Inv s1 := inv_snd_of_eq he (inv_pick h)
    extract_lets h1 up root g old
    dsimp only
    exact { ht with mgmt := ht.mgmt, grids := kwf_kset ht.grids _ _ }

theorem inv_performHeld {s : State} {tu : ℕ} (h : Inv s) : Inv (performHeld s tu) := by
  unfold performHeld
  split
  · exact h
  · exact inv_foldl h fun _ _ hs1 => by
      split
      next he1 => exact inv_seeBytes (inv_snapReport (inv_storeRaw (inv_snd_of_eq he1 (inv_snapshot hs1))))

theorem inv_clearHeld {s : State} {tu : ℕ} (h : Inv s) : Inv (clearHeld s tu) := inv_modTeam h

theorem inv_refreshHeld {s : State} {tu : ℕ} {held : KMap Byte} (h : Inv s) : Inv (refreshHeld s tu held) := by
  unfold refreshHeld
  split
  · split
    · exact inv_foldl h fun _ _ hs1 => inv_refreshL1 hs1
    · exact h
  · exact h

theorem inv_comparePair {s : State} {p v : ℕ} (h : Inv s) : Inv (comparePair s p v) := by
  unfold comparePair
  extract_lets s1
  have hs1 : Inv s1 := inv_performHeld h
  exact inv_clearHeld (inv_clearHeld (inv_refreshHeld hs1))

theorem inv_clearEng {s : State} {tu : ℕ} (h : Inv s) : Inv (clearEng s tu) := inv_modTeam h

theorem inv_mismatchPair {s : State} {p v gu e detail : ℕ} (h : Inv s) : Inv (mismatchPair s p v gu e detail) := by
  unfold mismatchPair
  extract_lets s1 at_
  have hs1 : Inv s1 := inv_clearEng (inv_clearEng (inv_clearHeld (inv_clearHeld h)))
  split
  · extract_lets f h1 s'
    have hs' : Inv s' := inv_reportEntry hs1
    exact inv_endAfter (inv_reportEntry hs')
  · exact hs1

theorem inv_afterCompare {s : State} {u e : ℕ} (h : Inv s) : Inv (afterCompare s u e) :=
  inv_modGroup h fun _ hg => groupOk_modSplit hg

theorem inv_semGet {w : ExtArgs} {x : Ctx} {s : State} (hx : groupOk x.g = true) (h : Inv s) : Inv (resState (semGet w x s)) := by
  unfold semGet
  extract_lets n
  split
  · exact h
  · exact inv_put h (groupOk_writes hx _)

theorem groupOk_putFstat {g : Machine.Group} {e : ℕ} {v : BitVec 6} (hg : groupOk g = true) : groupOk (g.putFstat e v) = true :=
  groupOk_modSplit hg

theorem inv_semPut {w : ExtArgs} {x : Ctx} {s : State} (hx : groupOk x.g = true) (h : Inv s) : Inv (resState (semPut w x s)) := by
  unfold semPut
  extract_lets v g
  exact inv_put h (by
    split
    · exact groupOk_putFstat hx
    · exact hx
    · exact hx
    · exact hx)

theorem inv_semSysget {w : ExtArgs} {x : Ctx} {s : State} (hx : groupOk x.g = true) (h : Inv s) :
    Inv (resState (semSysget w x s)) := by
  unfold semSysget
  split
  · exact h
  · split
    · exact h
    · split
      · exact h
      · exact inv_put h (groupOk_writes hx _)

theorem inv_afterHeld {x : Ctx} {s : State} {f : State → Res} (h : Inv s) (hf : ∀ (t : State), Inv t → Inv (resState (f t))) :
    Inv (resState (afterHeld x s f)) := by
  unfold afterHeld
  split
  · exact hf _ h
  · extract_lets pcOf other
    split
    · exact hf _ h
    · split
      · split
        · exact hf _ (inv_comparePair h)
        · exact inv_mismatchPair h
      · exact h

theorem inv_semSysput {w : ExtArgs} {x : Ctx} {s : State} (h : Inv s) : Inv (resState (semSysput w x s)) := by
  unfold semSysput
  split
  · exact h
  · split
    · exact h
    · split
      · exact h
      · extract_lets v1
        exact inv_afterHeld h fun _ ht => inv_tellHost { ht with mgmt := ht.mgmt }

theorem inv_semLaunch {w : BaseArgs} {x : Ctx} {s : State} (h : Inv s) : Inv (resState (semLaunch w x s)) := by
  unfold semLaunch
  split
  · exact h
  · split
    · exact h
    · extract_lets addr land
      have hland : ∀ (t : State), Inv t → ∀ (v : ℕ), Inv (resState (land t v)) :=
        fun _ ht _ => inv_modGroup ht fun _ hg => groupOk_addPending hg
      split
      · split
        next he1 => exact hland _ (inv_snd_of_eq he1 (inv_newGrid h)) _
      · exact hland _ h _

theorem inv_semCwait {w : BaseArgs} {x : Ctx} {s : State} (h : Inv s) : Inv (resState (semCwait w x s)) := by
  unfold semCwait
  extract_lets word h1 answer v
  have hanswer : ∀ (t : State), Inv t → ∀ (v : Word), Inv (resState (answer t v)) :=
    fun _ ht _ => inv_modGroup ht fun _ hg => groupOk_writes hg _
  split
  · exact h
  · split
    · exact hanswer _ h _
    · split
      · exact inv_ctxDeschedule h
      · exact hanswer _ (by
    split
    · exact h
    · exact inv_acquire h) _

theorem inv_mapOps {s : State} {f : EngOp → EngOp} (h : Inv s) : Inv (mapOps s f) := { h with routeq := length_map_of h.routeq _ }

theorem inv_semRte {x : Ctx} {s : State} (hx : groupOk x.g = true) (h : Inv s) : Inv (resState (semRte x s)) := by
  unfold semRte
  split
  · exact h
  · split
    · exact h
    · extract_lets s1
      have hs1 : Inv s1 := inv_put h (groupOk_mergeAll (groupOk_returnFromTrap hx))
      split
      · exact inv_mapOps hs1
      · exact hs1

theorem inv_takeFrame {s t : State} {die size f : ℕ} (h : Inv s) (he : takeFrame s die size = some (f, t)) : Inv t := by
  unfold takeFrame at he
  extract_lets l fit at he
  split at he
  · cases he
  · dsimp only at he
    obtain ⟨-, rfl⟩ := Prod.mk.inj (Option.some.inj he)
    have hp (n : ℕ) : Inv (pick s n).2 := inv_pick h
    exact { hp fit.length with pools := length_lset_of (hp fit.length).pools _ _ }

theorem inv_zeroFrame {s : State} {base size : ℕ} (h : Inv s) : Inv (zeroFrame s base size) := by
  unfold zeroFrame
  extract_lets out
  exact { h with mem := fclear_wf h.mem _ _ }

theorem inv_mapPage {s : State} {space die va : ℕ} {inspect : Bool} (h : Inv s) : Inv (mapPage s space die va inspect).2 := by
  unfold mapPage
  split
  · exact h
  · split
    · exact h
    · exact h
    · split
      · exact h
      · split
        · exact h
        · split
          · exact h
          next he1 =>
            have ht := inv_takeFrame h he1
            extract_lets s2
            have hs2 : Inv s2 := inv_zeroFrame ht
            dsimp only
            exact { hs2 with mem := writeN_wf hs2.mem _ _ _ }

theorem inv_semMapp {w : BaseArgs} {x : Ctx} {s : State} (h : Inv s) : Inv (resState (semMapp w x s)) := by
  unfold semMapp
  split
  · exact h
  · extract_lets flags
    split
    next s1 he =>
      have ht : Inv s1 := inv_snd_of_eq he <| by
        split
        · exact h
        · exact inv_mapPage h
      exact inv_modGroup ht fun _ hg => by
        extract_lets g1
        have hg1 : groupOk g1 = true := groupOk_writes hg _
        exact groupOk_bank hg1 fun _ hb => hb

theorem inv_semTlbi {w : BaseArgs} {x : Ctx} {s : State} (h : Inv s) : Inv (resState (semTlbi w x s)) := by
  unfold semTlbi
  split
  · exact h
  · extract_lets a n keep
    exact { h with }

theorem inv_spillAddrs {x : Ctx} {s : State} {n : Need} {align : ℕ} {l : List (ℕ × ℕ)} (h : Inv s) :
    Inv (spillAddrs x s n align l).2 := by
  unfold spillAddrs
  split
  next s1 he =>
    have ht : Inv s1 := inv_snd_snd_of_eq he (inv_checkAccesses h)
    extract_lets s2
    have hs2 : Inv s2 := inv_ctxCount ht
    split
    · split
      · exact hs2
      · exact hs2
    · exact hs2

theorem inv_readWords {x : Ctx} {s : State} {l : List ℕ} (h : Inv s) : Inv (readWords x s l).2 := by
  unfold readWords
  split
  next he => exact inv_snd_of_eq he (inv_loadEach h)

theorem inv_somePart {x : Ctx} {n : ℕ} {l : List (ℕ × ℕ)} {s : State} (h : Inv s) : Inv (somePart x n l s) := by
  unfold somePart
  exact inv_foldl h fun _ _ hs1 => by
    split
    next s2 he =>
      have ht : Inv s2 := inv_snd_of_eq he (inv_pick hs1)
      split
      · exact ht
      · split
        · split
          · exact ht
          · exact inv_ctxWrite ht
        · exact ht

theorem inv_semSpill {fill : Bool} {w : BaseArgs} {x : Ctx} {s : State} (h : Inv s) : Inv (resState (semSpill fill w x s)) := by
  unfold semSpill
  extract_lets c base q bad cells ref part cells1 moved
  have hpart : ∀ (l : List ℕ) (t : State), Inv t → Inv (part l t) := by
    intro _ _ ht
    unfold part
    split
    · exact ht
    · exact inv_somePart ht
  have hmoved : ∀ (g : Machine.Group), groupOk g = true → groupOk (moved g) = true :=
    fun _ hg => groupOk_modSlices hg _ fun _ _ hq1 => hq1
  split
  · exact h
  · split
    · exact hpart _ _ h
    · split
      next he => exact hpart _ _ (inv_snd_of_eq he (inv_spillAddrs h))
      next t he =>
        have ht : Inv t := inv_snd_of_eq he (inv_spillAddrs h)
        split
        · exact h
        · extract_lets s1 s2
          have hs2 : Inv s2 := inv_foldl ht fun _ _ hs3 => inv_ctxWrite hs3
          split
          · split
            next he1 => exact inv_modGroup (inv_snd_of_eq he1 (inv_readWords ht)) fun _ hg => hmoved _ (groupOk_writes hg _)
          · exact inv_modGroup hs2 fun _ hg => hmoved _ hg

theorem inv_semDspill {w : BaseArgs} {x : Ctx} {s : State} (h : Inv s) : Inv (resState (semDspill w x s)) := by
  unfold semDspill
  extract_lets a c g gone out
  split
  · exact h
  · split
    · exact inv_somePart h
    · split
      next he => exact inv_somePart (inv_snd_of_eq he (inv_spillAddrs h))
      next t he =>
        have ht : Inv t := inv_snd_of_eq he (inv_spillAddrs h)
        split
        · exact h
        · extract_lets s1
          have hs1 : Inv s1 := inv_foldl ht fun _ _ hs2 => inv_ctxWrite hs2
          exact inv_modGroup hs1 fun _ hg1 => hg1

theorem inv_semHalt {x : Ctx} {s : State} (h : Inv s) : Inv (resState (semHalt x s)) := by
  unfold semHalt
  split
  · exact h
  · exact h

end Sys2Proof.Proofs
end

section
/-! Collectives, rings and management keep the invariant (R224, R297, R316, R317, R408 to R416). -/

namespace Sys2Proof.Proofs

open Sys2Proof.Machine Sys2Proof.Safety Sys2Proof.Laws

theorem inv_launchPage {s : State} {space die va : ℕ} (h : Inv s) : Inv (launchPage s space die va).2 := by
  unfold launchPage
  split
  · split
    next s1 he =>
      have ht : Inv s1 := inv_snd_of_eq he (inv_pick h)
      split
      · dsimp only
        exact inv_tellHost ht
      · exact ht
  · split
    next he => exact inv_snd_of_eq he (inv_mapPage h)

theorem inv_launchParts {space die : ℕ} {l : List (ℕ × ℕ)} {b : List Byte} {s : State} (h : Inv s) :
    Inv (launchReadState (launchParts space die l b s)) := by
  induction l generalizing b s with
  | nil => exact h
  | cons e l ih =>
    obtain ⟨va, n⟩ := e
    rw [launchParts]
    split
    · exact h
    · extract_lets go
      have hgo : ∀ pa t, Inv t → Inv (launchReadState (go pa t)) := by
        intro pa t ht
        unfold go
        split
        · exact ht
        · exact ih ht
      clear_value go
      split
      · exact hgo _ _ h
      · exact h
      · split
        next t he => exact inv_snd_of_eq he (inv_launchPage h)
        next t he => exact inv_snd_of_eq he (inv_launchPage h)
        next t he =>
          have ht : Inv t := inv_snd_of_eq he (inv_launchPage h)
          split
          · exact hgo _ _ ht
          · exact ht

theorem inv_launchRead {space die va n : ℕ} {s : State} (h : Inv s) : Inv (launchReadState (launchRead space die va n s)) :=
  inv_launchParts h

theorem inv_loadEntries {space : ℕ} {p : Packet} {pos : ℕ} {l codes : List ℕ} {ls : List Loaded} {s : State} (h : Inv s) :
    Inv (loadResState (loadEntries space p pos l codes ls s)) := by
  induction l generalizing codes ls s with
  | nil => exact h
  | cons link l ih =>
    rw [loadEntries]
    split
    next t he => exact inv_of_eq (f := launchReadState) he (inv_launchRead h)
    next t he => exact ih (inv_of_eq (f := launchReadState) he (inv_launchRead h))
    next v t he =>
      have ht : Inv t := inv_of_eq (f := launchReadState) he (inv_launchRead h)
      extract_lets e codes1
      split
      · exact ih ht
      · split
        · exact ih ht
        · split
          next u hu => exact inv_of_eq (f := launchReadState) hu (inv_launchRead ht)
          next u hu => exact ih (inv_of_eq (f := launchReadState) hu (inv_launchRead ht))
          next u hu =>
            have hu : Inv u := inv_of_eq (f := launchReadState) hu (inv_launchRead ht)
            split
            · exact ih hu
            · split
              next r hr => exact inv_of_eq (f := launchReadState) hr (inv_launchRead hu)
              next r hr => exact ih (inv_of_eq (f := launchReadState) hr (inv_launchRead hu))
              next r hr => exact ih (inv_of_eq (f := launchReadState) hr (inv_launchRead hu))

theorem inv_loadCtx {cid : BitVec 28} {s : State} {x : Loaded} (h : Inv s) : Inv (loadCtx cid s x) :=
  inv_modSeq h fun _ hq => seqOk_load hq fun _ _ => fsetAll_wf rfl _

theorem inv_loadPackage {space : ℕ} {packet : DWord} {cid : BitVec 28} {source : Option (ℕ × ℕ)}
    {more : State → List (BitVec 12) → List ℕ} {s : State} (h : Inv s) :
    Inv (packResState (loadPackage space packet cid source more s)) := by
  unfold loadPackage
  extract_lets zero
  split
  · exact h
  · split
    next he => exact inv_of_eq (f := launchReadState) he (inv_launchRead h)
    next he => exact inv_of_eq (f := launchReadState) he (inv_launchRead h)
    next s1 he =>
      have ht : Inv s1 := inv_of_eq (f := launchReadState) he (inv_launchRead h)
      split
      · split
        · exact ht
        · split
          next he2 => exact inv_of_eq (f := launchReadState) he2 (inv_launchRead ht)
          next he2 => exact inv_of_eq (f := launchReadState) he2 (inv_launchRead ht)
          next s2 he2 =>
            have ht1 : Inv s2 := inv_of_eq (f := launchReadState) he2 (inv_launchRead ht)
            extract_lets nums pkgs codes own
            split
            next he3 => exact inv_of_eq (f := loadResState) he3 (inv_loadEntries ht1)
            next s3 he3 =>
              have ht2 : Inv s3 := inv_of_eq (f := loadResState) he3 (inv_loadEntries ht1)
              extract_lets st s4 co
              have hs4 : Inv s4 := inv_foldl ht2 fun _ _ hs5 => inv_loadCtx hs5
              split
              · exact ht2
              · exact { hs4 with }

theorem inv_commitColl {s : State} {cid : ℕ} (h : Inv s) : Inv (commitColl s cid) := by
  unfold commitColl
  split
  · exact h
  · extract_lets s1
    have hs1 : Inv s1 := { h with }
    exact inv_foldl hs1 fun _ _ hs2 => inv_schedule (inv_modCtx hs2 fun _ hc => hc)

theorem inv_cancelColl {s : State} {cid : ℕ} (h : Inv s) : Inv (cancelColl s cid) := by
  unfold cancelColl
  split
  · exact h
  · extract_lets s1
    have hs1 : Inv s1 := { h with }
    exact inv_foldl hs1 fun _ _ hs2 => inv_modCtx hs2 fun _ hc => hc

theorem inv_launchColl {space : ℕ} {packet : DWord} {source : Option (ℕ × ℕ)} {s : State} (h : Inv s) :
    Inv (collResState (launchColl space packet source s)) := by
  unfold launchColl
  extract_lets cid more
  split
  next he => exact inv_of_eq (f := packResState) he (inv_loadPackage h)
  next s1 he =>
    have ht : Inv s1 := inv_of_eq (f := packResState) he (inv_loadPackage h)
    extract_lets s2 others s3 tell
    have hs2 : Inv s2 := { ht with }
    have hs3 : Inv s3 := inv_foldl hs2 fun _ _ hs4 => inv_emit hs4
    have htell : ∀ (kind : String) (t : State), Inv t → Inv (tell kind t) :=
      fun _ _ ht1 => inv_foldl ht1 fun _ _ hs4 => inv_emit hs4
    split
    next s4 he1 =>
      have ht1 : Inv s4 := inv_snd_of_eq he1 <| by
        split
        · exact hs3
        · exact inv_pick hs3
      extract_lets st1
      split
      · exact inv_commitColl (htell _ _ ht1)
      · exact inv_cancelColl (htell _ _ ht1)

theorem inv_semSeqgo {w : ExtArgs} {x : Ctx} {s : State} (h : Inv s) : Inv (resState (semSeqgo w x s)) := by
  unfold semSeqgo
  extract_lets p go
  have hgo : ∀ (t : State), Inv t → Inv (resState (go t)) := by
    intro _ ht
    unfold go
    split
    next he => exact inv_of_eq (f := collResState) he (inv_launchColl ht)
    next s1 he =>
      have ht1 : Inv s1 := inv_of_eq (f := collResState) he (inv_launchColl ht)
      extract_lets s2
      have hs2 : Inv s2 := inv_noReplay ht1
      exact inv_modGroup hs2 fun _ hg => groupOk_writes hg _
  exact inv_once h (by
    split
    · exact hgo _ h
    · split
      next s1 he =>
        have ht : Inv s1 := inv_snd_snd_of_eq he (inv_checkAccesses h)
        extract_lets s2
        have hs2 : Inv s2 := inv_ctxCount ht
        split
        · exact hs2
        · exact hgo _ hs2)

theorem inv_semColl {w : ExtArgs} {x : Ctx} {s : State} (h : Inv s) : Inv (resState (semColl w x s)) := by
  unfold semColl
  extract_lets d word
  exact inv_once h (by
    split
    · exact h
    · split
      · exact h
      · exact inv_gotRun (by
    exact inv_gotBind (inv_getOperand h) fun _ _ ht => by
      split
      · exact inv_badOperand ht
      · exact inv_gotBind (inv_readShape ht) fun _ _ ht1 => by
          split
          · exact inv_badOperand ht1
          · exact ht1) fun _ _ ht => by
          extract_lets k
          exact inv_nextOp (inv_modCore (inv_noReplay ht)))

theorem inv_modRing {s : State} {r : ℕ} {f : Machine.Ring → Machine.Ring} (h : Inv s) : Inv (modRing s r f) := { h with }

theorem inv_ringDoorbell {s : State} {r : ℕ} {v : Word} (h : Inv s) : Inv (ringDoorbell s r v) := inv_modRing h

theorem inv_bindRing {s : State} {r : ℕ} (h : Inv s) : Inv (bindRing s r) := by
  unfold bindRing
  extract_lets a k
  split
  · exact inv_modRing h
  · exact inv_modRing { h with }

theorem inv_ringEnable {s : State} {r : ℕ} (h : Inv s) : Inv (ringEnable s r) := by
  unfold ringEnable
  split
  · exact h
  · split
    · exact inv_queueFor (inv_modRing h)
    · exact inv_bindRing h

theorem inv_ringDisable {s : State} {r : ℕ} (h : Inv s) : Inv (ringDisable s r) := inv_modCtl (inv_modRing h)

theorem inv_ringRestart {s : State} {r : ℕ} (h : Inv s) : Inv (ringRestart s r) := inv_modRing h

theorem inv_writeStatus {s : State} {q : Machine.Ring} {i st code : ℕ} (h : Inv s) : Inv (writeStatus s q i st code) := by
  unfold writeStatus
  extract_lets a
  split
  · exact h
  · exact { h with mem := writeN_wf h.mem _ _ _ }

theorem inv_completeEntry {s : State} {r i v st code : ℕ} {lost : Bool} (h : Inv s) :
    Inv (completeEntry s r i v st code lost) := by
  unfold completeEntry
  extract_lets q e
  split
  · extract_lets s1
    have hs1 : Inv s1 := inv_writeStatus h
    split
    next s2 he1 =>
      have ht : Inv s2 := inv_snd_of_eq he1 <| by
        split
        · exact hs1
        · split
          next he2 => exact inv_sysWriteClean hs1 _ he2
          · dsimp only
            exact inv_writeStatus hs1
      exact inv_modRing ht

theorem inv_finishNow {s : State} {r i st code : ℕ} {lost : Bool} (h : Inv s) : Inv (finishNow s r i st code lost) := by
  unfold finishNow
  split
  · exact inv_completeEntry h
  · exact h

theorem inv_finishEntry {s : State} {r i st code : ℕ} {lost : Bool} (h : Inv s) : Inv (finishEntry s r i st code lost) := by
  unfold finishEntry
  split
  · exact inv_queueFor h
  · exact inv_finishNow h

theorem inv_beginEntry {s : State} {r i v : ℕ} (h : Inv s) : Inv (beginEntry s r i v) := inv_modRing (inv_writeStatus h)

theorem inv_startEntry {s : State} {r kind : ℕ} {f : ℕ → ℕ → RingEntry → State → Option State} (h : Inv s)
    (hf : ∀ (n n_1 : ℕ) (a : RingEntry) (t : State), Inv t → InvOpt (f n n_1 a t)) : InvOpt (startEntry s r kind f) := by
  unfold startEntry
  split
  · exact invOpt_none
  · extract_lets e s1
    have hs1 : Inv s1 := inv_modRing h
    split
    · exact invOpt_some (inv_completeEntry hs1)
    · split
      · exact invOpt_none
      · split
        next he1 => exact invOpt_some (hf _ _ _ _ hs1 _ he1)
        · exact invOpt_none

theorem inv_startLaunch {r i v : ℕ} {e : RingEntry} {s : State} (h : Inv s) : InvOpt (startLaunch r i v e s) := by
  unfold startLaunch
  extract_lets q
  split
  · exact invOpt_none
  · split
    · exact invOpt_some (inv_newGrid (inv_beginEntry h))
    · exact invOpt_some (inv_completeEntry h)

theorem inv_startCopy {r core i v : ℕ} {e : RingEntry} {s : State} (h : Inv s) : InvOpt (startCopy r core i v e s) := by
  unfold startCopy
  extract_lets q
  split
  · exact invOpt_none
  · split
    · split
      · exact invOpt_some (inv_completeEntry h)
      · extract_lets o
        exact invOpt_some (inv_nextOp (inv_modCore (inv_beginEntry h)))
    · exact invOpt_some (inv_completeEntry h)
    · exact invOpt_some (inv_completeEntry h)
    · exact invOpt_some (inv_completeEntry h)

theorem inv_startSeq {r i v : ℕ} {e : RingEntry} {s : State} (h : Inv s) : InvOpt (startSeq r i v e s) := by
  unfold startSeq
  split
  next s1 he =>
    have ht : Inv s1 := inv_of_eq (f := collResState) he (inv_launchColl h)
    exact invOpt_some (by
      split
      · exact inv_beginEntry ht
      · exact inv_completeEntry ht)
  next he => exact invOpt_some (inv_modRing (inv_of_eq (f := collResState) he (inv_launchColl h)))

theorem inv_readWait {r i : ℕ} {e : RingEntry} {s : State} (h : Inv s) : InvOpt (readWait r i e s) := by
  unfold readWait
  split
  · exact invOpt_some (inv_finishEntry h)
  · split
    · exact invOpt_some (inv_finishEntry h)
    · exact invOpt_none

theorem inv_startWait {r i v : ℕ} {e : RingEntry} {s : State} (h : Inv s) : InvOpt (startWait r i v e s) := by
  unfold startWait
  extract_lets s1
  have hs1 : Inv s1 := inv_beginEntry h
  split
  next he => exact invOpt_some (inv_readWait hs1 _ he)
  · exact invOpt_some (inv_modRing hs1)

theorem inv_startSignal {r i v : ℕ} {e : RingEntry} {s : State} (h : Inv s) : InvOpt (startSignal r i v e s) := by
  unfold startSignal
  split
  next he => exact invOpt_some (inv_completeEntry (inv_sysWrite h _ he))
  · exact invOpt_some (inv_completeEntry h)

theorem inv_startFence {r i v : ℕ} {a : RingEntry} {s : State} (h : Inv s) : InvOpt (startFence r i v a s) := by
  unfold startFence
  split
  · exact invOpt_some (inv_completeEntry h)
  · exact invOpt_none

theorem inv_execCmdWaitSatisfied {ring : BitVec 6} {idx : ℕ} {s : State} (h : Inv s) :
    InvNext (execCmdWaitSatisfied ring idx s) := by
  unfold execCmdWaitSatisfied
  exact invNext_happens h (by
    split
    · exact invOpt_none
    · split
      next he1 => exact invOpt_some (inv_readWait h _ he1)
      · exact invOpt_none)

theorem inv_execCmdWaitTimeout {ring : BitVec 6} {idx : ℕ} {s : State} (h : Inv s) : InvNext (execCmdWaitTimeout ring idx s) := by
  unfold execCmdWaitTimeout
  exact invNext_happens h (by
    split
    · exact invOpt_none
    · exact invOpt_whenOk fun _ => inv_finishEntry h)

theorem inv_setPkg {s : State} {q : BitVec 12} (h : Inv s) : Inv (setPkg s q) := by
  unfold setPkg
  split
  · exact h
  · exact { h with mem := renumber_wf h.mem _ _ _ (by decide) }

/-- A device reset keeps memory and the counters, and every other field is as at reset. -/
theorem inv_execDeviceReset {s : State} (h : Inv s) : InvNext (execDeviceReset s) := by
  have hr : Inv State.reset := (inv_iff _).mp resetMeetsTheInvariant
  exact invNext_next { hr with mem := (inv_setPkg (q := 0) h).mem }

theorem inv_execBootImageCheck {img : Image} {s : State} (h : Inv s) : InvNext (execBootImageCheck img s) := by
  unfold execBootImageCheck
  exact invNext_happens h (by
    extract_lets n
    exact invOpt_whenOk fun _ => by
      split
      · exact inv_modCtl h
      · exact inv_tellHost h)

theorem inv_attest {s : State} {nonce : BitVec 256} (h : Inv s) : Inv (attest s nonce) := by
  unfold attest
  extract_lets body sig s1
  have hs1 : Inv s1 := inv_tellHost { h with }
  exact inv_tellHost hs1

theorem inv_execAttestationRequest {nonce : BitVec 256} {s : State} (h : Inv s) : InvNext (execAttestationRequest nonce s) := by
  unfold execAttestationRequest
  exact invNext_happens h (by
    exact invOpt_whenOk fun _ => by
      split
      · exact inv_queueFor h
      · exact inv_attest h)

theorem inv_writeRetired {s : State} {hi : Bool} {v : Word} (h : Inv s) : Inv (writeRetired s hi v) := by
  unfold writeRetired
  extract_lets old new
  exact { h with }

theorem inv_lapprove {s : State} {h : ℕ} (hs : Inv s) : Inv (lapprove s h) := inv_modGrid hs

theorem inv_unpark {s : State} {tu : ℕ} (h : Inv s) : Inv (unpark s tu) := by
  unfold unpark
  split
  · exact h
  · split
    · exact h
    · exact inv_foldl h fun _ _ hs1 => inv_modGroup hs1 fun _ hg => hg

theorem inv_preqRaise {s : State} {h : ℕ} (hs : Inv s) : Inv (preqRaise s h) :=
  inv_foldl (inv_modGrid hs) fun _ _ hs1 => inv_modTeam hs1

theorem inv_preqWithdraw {s : State} {h : ℕ} (hs : Inv s) : Inv (preqWithdraw s h) :=
  inv_foldl (inv_modGrid hs) fun _ _ hs1 => inv_unpark (inv_modTeam hs1)

theorem inv_islandStep {s : State} {i k : ℕ} (h : Inv s) : Inv (islandStep s i k) := inv_modIsland h

theorem inv_limitClock {s : State} {i mhz : ℕ} (h : Inv s) : InvOpt (limitClock s i mhz) := invOpt_whenOk fun _ => inv_modIsland h

theorem inv_islandGate {s : State} {i : ℕ} {gate : Bool} (h : Inv s) : Inv (islandGate s i gate) := by
  unfold islandGate
  split
  · exact h
  · exact inv_modIsland h

theorem inv_writeIsland {s : State} {i : ℕ} {step : Option ℕ} {gate : Option Bool} (h : Inv s) :
    Inv (writeIsland s i step gate) := by
  unfold writeIsland
  extract_lets s1
  have hs1 : Inv s1 := by
    unfold s1
    split
    · exact inv_islandStep h
    · exact h
  split
  · exact inv_islandGate hs1
  · exact hs1

theorem inv_islandCtl {s : State} {step : Option ℕ} {gate : Option Bool} (h : Inv s) : Inv (islandCtl s step gate) := by
  unfold islandCtl
  extract_lets i
  split
  · exact inv_queueFor h
  · exact inv_writeIsland h

theorem inv_fwRefuse {s : State} {n code : ℕ} (h : Inv s) : Inv (fwRefuse s n code) := inv_modCtl h

theorem inv_fwLoad {s : State} {img : Image} (h : Inv s) : Inv (fwLoad s img) := by
  unfold fwLoad
  extract_lets n
  split
  · exact inv_fwRefuse h
  · split
    · exact inv_fwRefuse h
    · split
      · exact inv_modCtl h
      · exact inv_fwRefuse h

theorem inv_fwHandOver {s : State} {priv : List Byte} (h : Inv s) : Inv (fwHandOver s priv) := by
  unfold fwHandOver
  extract_lets n
  split
  · exact inv_fwRefuse h
  · split
    · exact inv_fwRefuse h
    · exact inv_modCtl h

theorem inv_imageStarts {s : State} {n : ℕ} (h : Inv s) : Inv (imageStarts s n) := by
  unfold imageStarts
  split
  · exact h
  · exact inv_modCtl h

theorem inv_fwAbandon {s : State} (h : Inv s) : Inv (fwAbandon s) := by
  unfold fwAbandon
  extract_lets n st
  split
  · exact inv_modCtl h
  · exact inv_fwRefuse h

theorem inv_poolFrames {s : State} {die : ℕ} {l : List (ℕ × ℕ)} (h : Inv s) : Inv (poolFrames s die l) :=
  { h with pools := length_lmod_of h.pools _ _ }

theorem inv_addFrames {s : State} {die : ℕ} {l : List (ℕ × ℕ)} (h : Inv s) : Inv (addFrames s die l) := by
  unfold addFrames
  split
  · exact inv_queueFor h
  · exact inv_poolFrames h

theorem inv_serveOne {s : State} {w : Waiting} (h : Inv s) : Inv (serveOne s w) := by
  unfold serveOne
  split
  · exact inv_tellHost h
  · exact inv_writeEntry h
  · exact inv_bindRing h
  · exact inv_finishNow h
  · exact h
  · exact h
  · exact h
  · exact h
  · exact inv_attest h
  · exact inv_getD (inv_limitClock h) h
  · exact inv_poolFrames h
  · exact inv_writeIsland h

theorem inv_serveList {n : ℕ} {l : List Waiting} {s : State} (h : Inv s) : Inv (serveList n l s) := by
  induction l generalizing s with
  | nil => exact h
  | cons w l ih =>
    rw [serveList]
    split
    · exact { inv_modCtl h with }
    · exact ih (inv_serveOne h)

theorem inv_serveQueue {s : State} {n : ℕ} (h : Inv s) : Inv (serveQueue s n) := inv_serveList (inv_modCtl h)

theorem inv_fwCommand {s : State} {k : ℕ} (h : Inv s) : Inv (fwCommand s k) := by
  unfold fwCommand
  split
  · exact inv_fwLoad h
  · exact inv_fwHandOver { h with }
  · exact inv_fwAbandon h
  · exact h

theorem inv_execFwAlive {ctl : BitVec 3} {s : State} (h : Inv s) : InvNext (execFwAlive ctl s) := by
  unfold execFwAlive
  exact invNext_happens h (by
    extract_lets n c
    exact invOpt_whenOk fun _ => inv_serveQueue (inv_modCtl h))

theorem inv_execAliveDeadlineExpiry {ctl : BitVec 3} {s : State} (h : Inv s) : InvNext (execAliveDeadlineExpiry ctl s) := by
  unfold execAliveDeadlineExpiry
  exact invNext_happens h (by
    extract_lets n c
    exact invOpt_whenOk fun _ => inv_serveQueue (inv_modCtl h))

theorem inv_stepGroups {s : State} {h : ℕ} {which : ℕ → Bool} (hs : Inv s) : Inv (stepGroups s h which) :=
  inv_foldl hs fun _ _ hs1 => inv_modGroup hs1 fun _ hg => hg

theorem inv_debugResume {s : State} {h : ℕ} (hs : Inv s) : Inv (debugResume s h) :=
  inv_foldl hs fun _ _ hs1 => inv_modGroup hs1 fun _ hg => hg

theorem fwf_seqCtxHalted {c : SeqCtx} (hc : fwf c.k = true) : fwf c.halted.k = true := by
  unfold SeqCtx.halted
  split
  · exact hc
  · exact hc

theorem fwf_seqCtxStepped {c : SeqCtx} (hc : fwf c.k = true) : fwf c.stepped.k = true := by
  unfold SeqCtx.stepped
  extract_lets page
  exact hc

theorem fwf_seqCtxResumed {c : SeqCtx} (hc : fwf c.k = true) : fwf c.resumed.k = true := by
  unfold SeqCtx.resumed
  split
  · exact hc
  · split
    · exact hc
    · exact hc

theorem inv_resumeCtx {s : State} {n k : ℕ} {f : SeqCtx → SeqCtx} (h : Inv s)
    (hf : ∀ (a : SeqCtx), fwf a.k = true → fwf (f a).k = true) : Inv (resumeCtx s n k f) :=
  inv_advanceCtx (inv_schedule (inv_modCtx h fun _ hc => fwf_seqCtxResumed (hf _ hc)))

theorem inv_execSeqHalt {sq : BitVec 5} {ctx : BitVec 2} {halt : Bool} {s : State} (h : Inv s) :
    InvNext (execSeqHalt sq ctx halt s) := by
  unfold execSeqHalt
  extract_lets n k s1
  have hs1 : Inv s1 := inv_moveCtx h fun _ ha => fwf_atSwitch (fun _ ha1 => fwf_seqCtxHalted ha1) ha
  exact invNext_next (by
    split
    · exact inv_resumeCtx h fun _ ha => ha
    · split
      · exact h
      · split
        · exact inv_resumeCtx hs1 fun _ ha => fwf_seqCtxStepped ha
        · exact hs1)

theorem inv_execSeqStep {sq : BitVec 5} {ctx : BitVec 2} {s : State} (h : Inv s) : InvNext (execSeqStep sq ctx s) := by
  unfold execSeqStep
  extract_lets n k c
  exact invNext_next (by
    split
    · exact inv_resumeCtx h fun _ ha => fwf_seqCtxStepped ha
    · exact inv_modCtx h fun _ hc11 => hc11)

theorem inv_writeDbgctl {s : State} {v : Word} (h : Inv s) : Inv (writeDbgctl s v) := by
  unfold writeDbgctl
  extract_lets _ s1 s2 n
  have hs1 : Inv s1 := { h with mgmt := h.mgmt }
  have hs2 : Inv s2 := inv_tables hs1 (kwf_kmapV hs1.grids _) hs1.teams
  split
  · exact inv_debugResume hs2
  · split
    · exact inv_stepGroups hs2
    · split
      · exact inv_stepGroups hs2
      · exact hs2

theorem mgmtOk_iff (m : Mgmt) : mgmtOk m = true ↔ (2 ≤ m.ecthr ∧ m.ecthr ≤ 8) ∧ (1 ≤ m.ecwin ∧ m.ecwin ≤ 2 ^ 23) ∧ m.fwsel < 8 ∧
    (1 ≤ m.alivedl ∧ m.alivedl ≤ 1024) ∧ m.islsel < 64 ∧ m.retidx < 1024 := by
  simp [mgmtOk, and_assoc]

/-- What a write of a management register leaves is in the range of R410. -/
theorem inv_mgmtWrite {s : State} {fw : Bool} {n : ℕ} {v : Word} (h : Inv s) : Inv (mgmtWrite s fw n v) := by
  obtain ⟨hthr, hwin, hfw, halive, hisl, hret⟩ := (mgmtOk_iff _).mp h.mgmt
  unfold mgmtWrite
  extract_lets m set k1 k2 k3
  have hset : ∀ m, mgmtOk m = true → Inv (set m) := fun _ hm => { h with mgmt := hm }
  clear_value set
  split
  · split
    · exact h
    · exact inv_setPkg h
  · exact hset _ h.mgmt
  · split
    next hk => exact hset _ ((mgmtOk_iff _).mpr ⟨hk, hwin, hfw, halive, hisl, hret⟩)
    · exact h
  · split
    next hk => exact hset _ ((mgmtOk_iff _).mpr ⟨hthr, hk, hfw, halive, hisl, hret⟩)
    · exact h
  · split
    · exact h
    · exact hset _ h.mgmt
  · split
    · exact h
    · exact inv_lapprove h
  · split
    · exact inv_preqRaise h
    · exact inv_preqWithdraw h
  · exact hset _ ((mgmtOk_iff _).mpr ⟨hthr, hwin, Nat.mod_lt _ (by decide), halive, hisl, hret⟩)
  · split
    · exact h
    · exact inv_fwCommand h
  · split
    next hk => exact hset _ ((mgmtOk_iff _).mpr ⟨hthr, hwin, hfw, hk, hisl, hret⟩)
    · exact h
  · exact hset _ ((mgmtOk_iff _).mpr ⟨hthr, hwin, hfw, halive, Nat.mod_lt _ (by decide), hret⟩)
  · exact inv_islandCtl h
  · exact hset _ ((mgmtOk_iff _).mpr ⟨hthr, hwin, hfw, halive, hisl, Nat.mod_lt _ (by decide)⟩)
  · exact inv_writeRetired h
  · exact inv_writeRetired h
  · split
    · exact h
    · exact inv_writeDbgctl h
  · exact h

theorem inv_ringWrite {s : State} {r k : ℕ} {v : Word} (h : Inv s) : Inv (ringWrite s r k v) := by
  unfold ringWrite
  extract_lets q quiet k1 s1
  have hquiet : ∀ (f : Machine.Ring → Machine.Ring), Inv (quiet f) := by
    intro _
    unfold quiet
    split
    · exact h
    · exact inv_modRing h
  have hs1 : Inv s1 := by
    unfold s1
    split
    · exact inv_ringRestart h
    · exact h
  split
  · exact hquiet _
  · exact hquiet _
  · split
    · exact hquiet _
    · exact h
  · exact inv_ringDoorbell h
  · split
    · exact inv_ringEnable hs1
    · exact inv_ringDisable hs1
  · exact hquiet _
  · exact hquiet _
  · exact h

theorem inv_execMgmtRegisterWrite {fw : Bool} {off v : Word} {s : State} (h : Inv s) :
    InvNext (execMgmtRegisterWrite fw off v s) := by
  unfold execMgmtRegisterWrite
  extract_lets n
  exact invNext_next (by
    split
    · exact h
    · split
      · exact inv_mgmtWrite h
      · split
        · exact inv_ringWrite h
        · exact h)

end Sys2Proof.Proofs
end

section
/-! The coherence protocol keeps the invariant (R247 to R262). -/

namespace Sys2Proof.Proofs

open Sys2Proof.Machine Sys2Proof.Safety Sys2Proof.Laws

theorem inv_response {s : State} {kind : String} {die : BitVec 2} {line : ℕ} (h : Inv s) : InvOpt (response s kind die line) := by
  unfold response
  split
  · exact inv_takeCoh h
  · exact invOpt_some h

theorem inv_dropMshr {s : State} {m : Mshr} (h : Inv s) : Inv (dropMshr s m) := inv_modCoh h

theorem inv_afterAnswer {s : State} (h : Inv s) : Inv (afterAnswer s) := inv_pumpAll (inv_retryBacklog h)

theorem inv_fabricError {s : State} {detail line p : ℕ} (h : Inv s) : Inv (fabricError s detail line p) := by
  unfold fabricError
  extract_lets s1
  have hs1 : Inv s1 := inv_ctlTell h
  exact inv_foldl hs1 fun _ _ hs2 => inv_report hs2

theorem inv_answerAll {n : ℕ} {a : CohNode} {s : State} (h : Inv s) : Inv (answerAll n a s) := by
  induction n generalizing s with
  | zero => exact h
  | succ n ih =>
    rw [answerAll]
    split
    · exact h
    · exact ih (inv_answered h)

theorem inv_declareLost {s : State} {line : ℕ} {p : BitVec 12} (h : Inv s) : Inv (declareLost s line p) := by
  unfold declareLost
  extract_lets s1 s2
  have hs1 : Inv s1 := inv_fabricError h
  have hs2 : Inv s2 := inv_ctlTell hs1
  split
  next s3 he =>
    have ht : Inv s3 := inv_snd_of_eq he (inv_pick hs2)
    extract_lets s4 s5
    have hs4 : Inv s4 := { ht with }
    have hs5 : Inv s5 := inv_modCoh hs4
    exact inv_answerAll hs5

theorem inv_execDataResponse {die : BitVec 2} {line : ℕ} {st : LineState} {s : State} (h : Inv s) :
    InvNext (execDataResponse die line st s) := by
  unfold execDataResponse
  exact invNext_happens h (by
    split
    next he1 => exact invOpt_some (inv_afterAnswer (inv_l2Put (inv_dropMshr ((invOpt_bind fun _ _ => inv_response h) _ he1))))
    · exact invOpt_none)

theorem inv_sendAgain {s : State} {m : Mshr} (h : Inv s) : Inv (sendAgain s m) := by
  unfold sendAgain
  extract_lets kind n
  exact inv_sendReq (inv_modCoh h)

theorem inv_execAck {die : BitVec 2} {line : ℕ} {s : State} (h : Inv s) : InvNext (execAck die line s) := by
  unfold execAck
  exact invNext_happens h (by
    split
    next he1 =>
      have ht := inv_response h _ he1
      exact invOpt_some (by
        exact inv_afterAnswer (by
          split
          · exact inv_dropMshr ht
          · split
            · exact inv_sendAgain ht
            · exact inv_setL2 (inv_dropMshr ht)))
    · exact invOpt_none)

theorem inv_execRetry {die : BitVec 2} {line : ℕ} {s : State} (h : Inv s) : InvNext (execRetry die line s) := by
  unfold execRetry
  exact invNext_happens h (by
    split
    next he1 => exact invOpt_some (inv_sendAgain (inv_response h _ he1))
    · exact invOpt_none)

theorem inv_execSnoopResponse {line : ℕ} {src : CohNode} {data : Bool} {s : State} (h : Inv s) :
    InvNext (execSnoopResponse line src data s) := by
  unfold execSnoopResponse
  exact invNext_happens h (by
    split
    · split
      next he => exact invOpt_some (inv_answered (inv_takeCoh h _ he))
      · exact invOpt_none
    · exact invOpt_some (inv_answered h)
    · exact invOpt_some (inv_answered h)
    · exact invOpt_none)

theorem inv_execL2Eviction {die : BitVec 2} {line : ℕ} {s : State} (h : Inv s) : InvNext (execL2Eviction die line s) := by
  unfold execL2Eviction
  exact invNext_happens h (by
    extract_lets busy
    exact invOpt_whenOk fun _ => inv_l2Evict h)

theorem inv_forgetGone {s : State} {region : ℕ} (h : Inv s) : Inv (forgetGone s region) := inv_modCoh h

theorem inv_execTrack {region : ℕ} {switch : BitVec 12} {s : State} (h : Inv s) : InvNext (execTrack region switch s) := by
  unfold execTrack
  exact invNext_happens h (by
    exact invOpt_whenOk fun _ => by
      extract_lets g
      split
      · exact inv_modRegion (inv_forgetGone h)
      · exact h)

theorem inv_execRegionSweep {region : ℕ} {s : State} (h : Inv s) : InvNext (execRegionSweep region s) := by
  unfold execRegionSweep
  exact invNext_happens h (by
    extract_lets g l
    exact invOpt_whenOk fun _ => by
      split
      · exact inv_modRegion h
      · exact inv_foldl h fun _ _ hs1 => by
          extract_lets r
          exact inv_addGrant (inv_sendSnoops hs1))

theorem inv_execRequestReissue {tag : BitVec 12} {s : State} (h : Inv s) : InvNext (execRequestReissue tag s) := by
  unfold execRequestReissue
  exact invNext_happens h (by
    split
    · exact invOpt_none
    · exact invOpt_whenOk fun _ => by
        extract_lets n
        exact inv_sendReq (inv_modCoh h))

theorem inv_waitByShadow {switch : BitVec 12} {s : State} {g : Grant} (h : Inv s) : Inv (waitByShadow switch s g) := by
  unfold waitByShadow
  split
  · extract_lets l h1 s1
    have hs1 : Inv s1 := inv_modCoh h
    exact inv_answered (inv_sendSnoops hs1)
  · exact h

theorem inv_switchFailed {s : State} {switch : BitVec 12} (h : Inv s) : Inv (switchFailed s switch) := by
  unfold switchFailed
  extract_lets hit s1 s2
  have hs1 : Inv s1 := inv_modCoh h
  have hs2 : Inv s2 := inv_foldl hs1 fun _ _ hs3 => inv_waitByShadow hs3
  split
  · exact inv_ctlTell hs2
  · exact hs2

theorem inv_execSwitchFailure {switch : BitVec 12} {s : State} (h : Inv s) : InvNext (execSwitchFailure switch s) := by
  unfold execSwitchFailure
  exact invNext_next (by
    split
    · exact inv_queueFor h
    · exact inv_switchFailed h)

theorem inv_execRecoveryWindowEnd {s : State} (h : Inv s) : InvNext (execRecoveryWindowEnd s) := by
  unfold execRecoveryWindowEnd
  exact invNext_happens h (by
    extract_lets past s1
    have hs1 : Inv s1 := inv_modCoh h
    exact invOpt_whenOk fun _ => by
      split
      · extract_lets l s2
        have hs2 : Inv s2 := inv_modCoh hs1
        exact inv_foldl hs2 fun _ _ hs3 => inv_pumpLine hs3)

theorem inv_execInvalidateResend {line : ℕ} {pkg : BitVec 12} {s : State} (h : Inv s) :
    InvNext (execInvalidateResend line pkg s) := by
  unfold execInvalidateResend
  exact invNext_happens h (by
    extract_lets n
    split
    · exact invOpt_none
    · extract_lets k h1 s1 s2
      have hs1 : Inv s1 := inv_modCoh h
      have hs2 : Inv s2 := inv_sendCoh hs1
      exact invOpt_whenOk fun _ => by
        split
        · exact inv_declareLost h
        · split
          · exact hs2
          · exact inv_fabricError hs2)

theorem inv_execHostSnoop {die : BitVec 2} {line : ℕ} {kind : HostSnoop} {s : State} (h : Inv s) :
    InvNext (execHostSnoop die line kind s) := by
  unfold execHostSnoop
  exact invNext_happens h (by
    exact invOpt_whenOk fun _ => by
      extract_lets r
      exact inv_sendCoh (inv_setL2 h))

theorem inv_execBisnpResponse {line : ℕ} {b : Bool} {s : State} (h : Inv s) : InvNext (execBisnpResponse line b s) := by
  unfold execBisnpResponse
  exact invNext_happens h (by
    split
    next he => exact invOpt_some (inv_answered (inv_takeCoh h _ he))
    · exact invOpt_none)

theorem inv_yieldToHost {s : State} {line : ℕ} {write : Bool} (h : Inv s) : Inv (yieldToHost s line write) := by
  unfold yieldToHost
  extract_lets s1 s2 s3 r l s4 s5
  have hs1 : Inv s1 := inv_modCoh h
  have hs2 : Inv s2 := inv_modCoh hs1
  have hs3 : Inv s3 := inv_setDir hs2
  have hs4 : Inv s4 := inv_sendSnoops hs3
  have hs5 : Inv s5 := inv_modCoh hs1
  split
  · split
    · exact hs4
    · exact inv_addGrant hs4
  · split
    · split
      · exact inv_setDir hs5
      · exact hs5
    · exact hs5

theorem inv_execHostMemoryAccess {pa : BitVec 52} {n : ℕ} {data : Option (List Byte)} {s : State} (h : Inv s) :
    InvNext (execHostMemoryAccess pa n data s) := by
  unfold execHostMemoryAccess
  exact invNext_happens h (by
    extract_lets a s1
    have hs1 : Inv s1 := inv_yieldToHost h
    exact invOpt_whenOk fun _ => by
      split
      · exact inv_yieldToHost { h with mem := writeList_wf h.mem _ _ }
      · split
        · exact inv_tellHost hs1
        · exact inv_tellHost hs1)

end Sys2Proof.Proofs
end

section
/-! The dispatcher and the engines keep the invariant (R37 to R67, R270 to R296, R397). -/

namespace Sys2Proof.Proofs

open Sys2Proof.Machine Sys2Proof.Safety Sys2Proof.Laws

theorem groupOk_newGroup {l : Launch} {tu gid : ℕ} {at_ : ℕ × ℕ} : groupOk (newGroup l tu gid at_) = true := by
  refine (groupOk_iff _).mpr ⟨fsetAll_wf rfl _, rfl, fun q hq => ?_, nofun⟩
  obtain ⟨-, rfl⟩ := List.mem_replicate.mp hq
  rfl

theorem inv_seeStart {s : State} {t : Team} (h : Inv s) : Inv (seeStart s t) := { h with }

theorem inv_startTeam {s : State} {h : ℕ} {g : Grid} {place : Place} {shadow : Bool} {uid : ℕ} {twin : Option ℕ} (hs : Inv s) :
    Inv (startTeam s h g place shadow uid twin) := by
  unfold startTeam
  extract_lets l us t s1
  have hs1 : Inv s1 := inv_seeStart (inv_dropL1 hs)
  refine { hs1 with groups := ?_, teams := kwf_kset hs1.teams _ _ }
  refine List.foldlRecOn (motive := fun m => GroupsOk m) us _ hs1.groups fun m hm p hp => ?_
  obtain ⟨k, -, rfl⟩ := List.mem_map.mp hp
  exact hm.kset groupOk_newGroup _

theorem inv_execDispatchTeam {handle : BitVec 14} {place : Place} {twin : Option Place} {s : State} (h : Inv s) :
    InvNext (execDispatchTeam handle place twin s) := by
  unfold execDispatchTeam
  exact invNext_happens h (by
    split
    · exact invOpt_none
    · extract_lets l fits go u v1 s1
      have hgo : ∀ (t : State), Inv t → Inv (go t) := fun _ ht => inv_modGrid ht
      have hs1 : Inv s1 := inv_startTeam h
      split
      · exact invOpt_none
      · split
        · exact invOpt_some (hgo _ (inv_startTeam h))
        · exact invOpt_whenOk fun _ => hgo _ (inv_startTeam hs1)
        · exact invOpt_none)

theorem inv_request {s : State} {tu : ℕ} {h : BitVec 14} (hs : Inv s) : Inv (request s tu h) := by
  unfold request
  extract_lets one
  have hone : ∀ (t : State), Inv t → ∀ (u : ℕ), Inv (one t u) := fun _ ht _ => inv_modTeam ht
  split
  · exact hone _ (hone _ hs _) _
  · exact hone _ hs _

theorem inv_withdraw {s : State} {tu : ℕ} (h : Inv s) : Inv (withdraw s tu) := by
  unfold withdraw
  extract_lets one
  have hone : ∀ (t : State), Inv t → ∀ (u : ℕ), Inv (one t u) := by
    intro _ ht _
    unfold one
    split
    · split
      · exact inv_unpark (inv_modTeam ht)
      · exact ht
    · exact ht
  split
  · exact h
  · split
    · exact hone _ (hone _ h _) _
    · exact hone _ h _

theorem inv_execDispatcherPreempt {team : ℕ} {forGrid : BitVec 14} {s : State} (h : Inv s) :
    InvNext (execDispatcherPreempt team forGrid s) := by
  unfold execDispatcherPreempt
  exact invNext_happens h (by
    split
    · exact invOpt_whenOk fun _ => inv_request h
    · exact invOpt_none)

theorem groupOk_forget {g : Machine.Group} {base : ℕ} (hg : groupOk g = true) : groupOk (g.forget base) = true := by
  obtain ⟨hv, hp, hs, hh⟩ := (groupOk_iff g).mp hg
  exact (groupOk_iff _).mpr ⟨fwf_filter hv _, hp, hs, hh⟩

theorem groupOk_taken {g : Machine.Group} {k : Core} {base : ℕ} (hg : groupOk g = true) : groupOk (g.taken k base) = true := by
  obtain ⟨hv, hp, _, hh⟩ := (groupOk_iff _).mp (groupOk_forget (base := base) hg)
  obtain ⟨_, _, hs, _⟩ := (groupOk_iff _).mp (groupOk_mapSlices (f := fun sl => { sl with wneed := 0 }) hg fun _ hq => hq)
  exact (groupOk_iff _).mpr ⟨hv, hp, hs, hh⟩

theorem inv_saveImage {s : State} {h : ℕ} (hs : Inv s) : Inv (saveImage s h) := by
  unfold saveImage
  split
  · split
    · exact hs
    · exact { hs with mem := writeList_wf hs.mem _ _ }
  · exact hs

theorem inv_takeTeam {s : State} {tu : ℕ} (h : Inv s) : Inv (takeTeam s tu) := by
  unfold takeTeam
  split
  · exact h
  · split
    · exact h
    · extract_lets s1 s2
      have hs1 : Inv s1 := by
        unfold s1
        exact inv_foldl (inv_saveImage h) fun _ _ hs3 => by
          split
          · exact hs3
          next he2 =>
            have ht := hs3.groupOk he2
            extract_lets s4
            have hs4 : Inv s4 := { hs3 with groups := GroupsOk.kset hs3.groups (groupOk_taken ht) _ }
            exact inv_returnSlots hs4
      have hs2 : Inv s2 := inv_modTeam hs1
      split
      · exact hs2
      · exact inv_count hs2

theorem inv_takeAll {s : State} {tu : ℕ} (h : Inv s) : InvOpt (takeAll s tu) := by
  unfold takeAll
  split
  · split
    · exact invOpt_some (inv_takeTeam h)
    · exact invOpt_none
  · split
    · split
      · exact invOpt_some (inv_takeTeam (inv_takeTeam h))
      · exact invOpt_some (by
          split
          · exact inv_takeTeam (inv_takeTeam (inv_comparePair h))
          · exact inv_mismatchPair h)
    · exact invOpt_none

theorem inv_execTeamTaken {team : ℕ} {s : State} (h : Inv s) : InvNext (execTeamTaken team s) := by
  unfold execTeamTaken
  exact invNext_happens h (by
    split
    · split
      next he2 => exact invOpt_some (inv_takeAll h _ he2)
      · exact invOpt_none
    · exact invOpt_none)

theorem inv_execSwapOut {team : ℕ} {forGrid : BitVec 14} {s : State} (h : Inv s) : InvNext (execSwapOut team forGrid s) := by
  unfold execSwapOut
  exact invNext_happens h (by
    split
    · split
      · split
        next he3 => exact invOpt_some (inv_takeAll h _ he3)
        · exact invOpt_none
      · exact invOpt_none
    · exact invOpt_none)

theorem inv_rebind {s : State} {c u : ℕ} (h : Inv s) : Inv (rebind s c u) := by
  unfold rebind
  split
  · exact h
  · extract_lets s1
    have hs1 : Inv s1 := by
      unfold s1
      exact inv_foldl h fun _ _ hs2 => by
        split
        · exact inv_setHandle (inv_modCore hs2)
        · exact hs2
    exact inv_modGroup hs1 fun _ hg1 => hg1

theorem inv_resumeTeam {s : State} {tu : ℕ} {p : Place} (h : Inv s) : Inv (resumeTeam s tu p) := by
  unfold resumeTeam
  split
  · exact h
  · extract_lets s1
    have hs1 : Inv s1 := inv_modTeam (inv_dropL1 h)
    exact inv_foldl hs1 fun _ _ hs2 => inv_rebind (inv_modGroup hs2 fun _ hg => hg)

theorem inv_execTeamResume {team : ℕ} {place : Place} {twin : Option Place} {s : State} (h : Inv s) :
    InvNext (execTeamResume team place twin s) := by
  unfold execTeamResume
  exact invNext_happens h (by
    split
    · split
      · exact invOpt_none
      · split
        · exact invOpt_some (inv_resumeTeam h)
        · extract_lets s1
          have hs1 : Inv s1 := inv_resumeTeam h
          exact invOpt_whenOk fun _ => inv_resumeTeam hs1
        · exact invOpt_none
    · exact invOpt_none)

theorem inv_execResultWriteback {group : ℕ} {entry : BitVec 2} {k : ℕ} {s : State} (h : Inv s) :
    InvNext (execResultWriteback group entry k s) := by
  unfold execResultWriteback
  exact invNext_happens h (by
    split
    · exact invOpt_none
    next he =>
      have ht := h.groupOk he
      split
      · exact invOpt_none
      · exact invOpt_whenOk fun _ => by
          extract_lets e g' s1
          have hg' : groupOk g' = true := by
            unfold g'
            exact groupOk_modSplit (by
              split
              · exact ht
              · exact groupOk_land ht)
          have hs1 : Inv s1 := { h with groups := GroupsOk.kset h.groups hg' _ }
          split
          · exact hs1
          · exact inv_endByFault hs1)

theorem inv_wouldIssue {x : Ctx} {w : Word} {s : State} (h : Inv s) : Inv (wouldIssue x w s).2 := by
  unfold wouldIssue
  split
  next he => exact inv_snd_of_eq he (inv_ctxFetchMore h)
  next he => exact inv_snd_of_eq he (inv_ctxFetchMore h)

theorem inv_execYieldOverrun {group : ℕ} {entry : BitVec 2} {s : State} (h : Inv s) :
    InvNext (execYieldOverrun group entry s) := by
  unfold execYieldOverrun
  exact invNext_happens h (by
    split
    · exact invOpt_none
    · split
      next s1 he1 =>
        have ht1 : Inv s1 := inv_snd_of_eq he1 (inv_ctxFetch h)
        split
        next he2 => exact invOpt_whenOk fun _ => inv_streamFault (inv_snd_of_eq he2 (inv_wouldIssue ht1))
      · exact invOpt_none)

theorem inv_tellParent {s : State} {h : ℕ} {g : Grid} (hs : Inv s) : Inv (tellParent s h g) := by
  unfold tellParent
  split
  · exact hs
  · exact inv_modGrid hs

theorem inv_completionArrival {s : State} {g : Grid} (h : Inv s) : InvOpt (completionArrival s g) := by
  unfold completionArrival
  extract_lets a old
  split
  · exact invOpt_some h
  · split
    · exact invOpt_none
    · split
      · exact invOpt_none
      · exact invOpt_some { h with mem := writeN_wf h.mem _ _ _ }

theorem inv_releaseCopies {s : State} {h : ℕ} {g : Grid} (hs : Inv s) : Inv (releaseCopies s h g) := by
  refine inv_modGrid ?_
  exact { hs with }

theorem inv_execGridRetire {handle : BitVec 14} {s : State} (h : Inv s) : InvNext (execGridRetire handle s) := by
  unfold execGridRetire
  exact invNext_happens h (by
    extract_lets h1
    split
    · exact invOpt_none
    · exact invOpt_whenOk fun _ => by
        extract_lets s1 s2 st s3 s4
        have hs1 : Inv s1 := inv_releaseCopies h
        have hs2 : Inv s2 := by
          unfold s2
          split
          next he2 => exact inv_completionArrival hs1 _ he2
          · exact inv_report hs1
        have hs3 : Inv s3 := inv_tellParent hs2
        have hs4 : Inv s4 := { hs3 with grids := kwf_kdel hs3.grids _ }
        split
        · exact inv_finishEntry hs4
        · exact hs4)

theorem inv_execHostPageAnswer {group : ℕ} {entry : BitVec 2} {mapped : Bool} {s : State} (h : Inv s) :
    InvNext (execHostPageAnswer group entry mapped s) := by
  unfold execHostPageAnswer
  exact invNext_happens h (by
    extract_lets e
    split
    · exact invOpt_none
    · split
      · exact invOpt_none
      · split
        · extract_lets s1
          have hs1 : Inv s1 := inv_mapOps (inv_modGroup h fun _ hg1 => groupOk_modSplit hg1)
          exact invOpt_some (by
            split
            · exact inv_modGroup hs1 fun _ hg1 => groupOk_mergeAll hg1
            · exact inv_endByFault hs1)
        · exact invOpt_none)

theorem groupOk_resumeHeld {g : Machine.Group} {e : ℕ} (hg : groupOk g = true) : groupOk (resumeHeld g e) = true := by
  unfold resumeHeld
  split
  · exact groupOk_bank hg fun _ hb => hb
  · extract_lets g1
    have hg1 : groupOk g1 = true := by
      unfold g1
      exact groupOk_modSlices hg _ fun _ _ hq => by
        extract_lets r
        exact hq
    exact hg1

theorem inv_letGo {s : State} {tu : ℕ} (h : Inv s) : Inv (letGo s tu) := by
  unfold letGo
  extract_lets twin other stays s1
  have hs1 : Inv s1 := inv_modTeam h
  clear_value twin
  split
  · exact inv_modTeam hs1
  · exact hs1

theorem inv_heldIssued {s : State} {tu : ℕ} {h : Held} (hs : Inv s) : Inv (heldIssued s tu h) := by
  unfold heldIssued
  extract_lets s1
  have hs1 : Inv s1 := inv_modGroup hs fun _ hg => groupOk_resumeHeld hg
  split
  · split
    · exact hs1
    · exact inv_count (inv_count hs1)
  · exact hs1

theorem inv_execHostFaultAnswer {team : ℕ} {resume : Bool} {s : State} (h : Inv s) :
    InvNext (execHostFaultAnswer team resume s) := by
  unfold execHostFaultAnswer
  exact invNext_happens h (by
    split
    · exact invOpt_none
    · split
      · exact invOpt_whenOk fun _ => inv_heldIssued (inv_letGo h)
      · extract_lets s1
        have hs1 : Inv s1 := by
          unfold s1
          split
          · exact inv_setStatus h
          · exact h
        exact invOpt_some (inv_endTwins hs1))

theorem inv_countTeam {s : State} {tu c : ℕ} (h : Inv s) : Inv (countTeam s tu c) := by
  unfold countTeam
  split
  · split
    · exact h
    · exact inv_count h
  · exact h

theorem inv_popFifo {s : State} {c : ℕ} {o : MatOp} (h : Inv s) : Inv (popFifo s c o) :=
  inv_queueMoved (inv_countTeam (inv_modCore h))

theorem inv_performMat {s : State} {c : ℕ} {o : MatOp} (h : Inv s) : Inv (performMat s c o).1 := by
  unfold performMat
  extract_lets u onTile
  have honTile : ∀ (h : ℕ) (f : FMap 32 → FMap 32), Inv (onTile h f).1 := by
    intro _ _
    unfold onTile
    split
    next he =>
      have ht := inv_bindHandle h he
      dsimp only
      exact inv_modTile ht
    · exact h
  split
  · exact honTile _ _
  · split
    · exact h
    next he1 =>
      have ht := inv_bindHandle h he1
      split
      · exact ht
      next he2 =>
        have ht1 := inv_bindHandle ht he2
        dsimp only
        exact inv_modTile (inv_modTile ht1)
  · exact honTile _ _
  · exact honTile _ _
  · dsimp only
    exact inv_releaseHandle h
  · extract_lets t
    dsimp only
    exact inv_deliverArd h
  · exact h
  · exact h

theorem inv_execMatrixFifoHead {core : ℕ} {s : State} (h : Inv s) : InvNext (execMatrixFifoHead core s) := by
  unfold execMatrixFifoHead
  exact invNext_happens h (by
    split
    · exact invOpt_none
    · split
      · exact invOpt_none
      · split
        next he1 => exact invOpt_some (inv_popFifo (inv_fst_of_eq he1 (inv_performMat h)))
        next s1 he1 =>
          have ht : Inv s1 := inv_fst_of_eq he1 (inv_performMat h)
          exact invOpt_some (by
            split
            · exact ht
            · exact inv_modCore ht))

theorem inv_execAccumulatorStarvation {core : ℕ} {s : State} (h : Inv s) : InvNext (execAccumulatorStarvation core s) := by
  unfold execAccumulatorStarvation
  exact invNext_happens h (by
    extract_lets k
    split
    · exact invOpt_whenOk fun _ => by
        extract_lets ids s1 s2 gid
        have hs1 : Inv s1 := inv_mapOps (inv_modCore h)
        have hs2 : Inv s2 := inv_foldl hs1 fun _ _ hs3 => inv_foldl hs3 fun _ _ hs4 => inv_releaseHandle hs4
        exact inv_queueMoved (inv_endByFault hs2)
    · exact invOpt_none)

theorem inv_execBatchRetire {group : ℕ} {s : State} (h : Inv s) : InvNext (execBatchRetire group s) := by
  unfold execBatchRetire
  exact invNext_happens h (by
    split
    · exact invOpt_none
    · exact invOpt_whenOk fun _ => inv_modGroup h fun _ hg1 => hg1)

theorem inv_execAdrainHandOver {core : ℕ} {s : State} (h : Inv s) : InvNext (execAdrainHandOver core s) := by
  unfold execAdrainHandOver
  exact invNext_happens h (by
    split
    · split
      · extract_lets t give s1
        have hs1 : Inv s1 := inv_modCore h
        exact invOpt_some (inv_queueMoved hs1)
      · exact invOpt_none
    · exact invOpt_none)

theorem inv_arriveAt {s : State} {word : Word} {bytes tu : ℕ} (h : Inv s) : Inv (arriveAt s word bytes tu) := by
  unfold arriveAt
  split
  · exact inv_arriveWord h
  · exact h

theorem inv_engOpArrive {o : EngOp} {s : State} (h : Inv s) : Inv (o.arrive s) := by
  unfold EngOp.arrive
  split
  · exact inv_arriveWord h
  · exact inv_arriveWord h
  · exact inv_arriveWord h
  · exact inv_foldl h fun _ _ hs1 => inv_arriveAt hs1
  · exact inv_arriveWord h
  · exact inv_finishEntry h
  · exact h

theorem inv_engQueueMod {q : EngQueue} {s : State} {f : List EngOp → List EngOp} (h : Inv s) : Inv (q.mod s f) := by
  unfold EngQueue.mod
  split
  · exact inv_modCore h
  · exact inv_modRoute h
  · exact inv_modCore h

theorem inv_engQueuePut {q : EngQueue} {o : EngOp} {s : State} (h : Inv s) : Inv (q.put o s) := inv_engQueueMod h

theorem inv_performOwn {o : EngOp} {s : State} (h : Inv s) : Inv (performOwn o s) := by
  unfold performOwn
  extract_lets s1
  have hs1 : Inv s1 := by
    unfold s1
    split
    · exact inv_refreshHeld h
    · exact inv_foldl h fun _ _ hs2 => inv_engPerform hs2
  exact inv_modTeam hs1

theorem inv_engQueueDepart {q : EngQueue} {o : EngOp} {s : State} (h : Inv s) : Inv (q.depart o s) := by
  unfold EngQueue.depart
  extract_lets s1
  have hs1 : Inv s1 := inv_engQueueMod (inv_engOpArrive (inv_performOwn h))
  exact inv_queueMoved (by
    split
    · exact inv_countTeam hs1
    · exact hs1)

theorem inv_engQueuePark {q : EngQueue} {o : EngOp} {worked : Bool} {s : State} (h : Inv s) : Inv (q.park o worked s) :=
  inv_engQueuePut h

theorem inv_engQueueLastFail {q : EngQueue} {o : EngOp} {err : ℕ} {poison : Option ℕ} {s : State} (h : Inv s) :
    Inv (q.lastFail o err poison s) := by
  unfold EngQueue.lastFail
  split
  next s1 he =>
    have ht : Inv s1 := inv_snd_of_eq he (inv_writeCrec (inv_reportFailure h))
    split
    · exact inv_engQueuePark ht
    · exact inv_engQueueDepart ht

theorem inv_engQueuePassOn {q : EngQueue} {o : EngOp} {base : ℕ} {s : State} (h : Inv s) : Inv (q.passOn o base s) := by
  unfold EngQueue.passOn
  extract_lets s1
  have hs1 : Inv s1 := inv_engQueueLastFail (inv_countTeam h)
  split
  · exact hs1
  · split
    · exact hs1
    · exact inv_endByFault hs1

theorem inv_advanceFlag {flag inc : DWord} {o : EngOp} {s : State} (h : Inv s) :
    Inv (progressState (advanceFlag flag inc o s)) := by
  unfold advanceFlag
  extract_lets need
  exact inv_ioAndThen (by
    exact inv_engCheck h fun _ _ ht => by
      split
      · exact ht
      · extract_lets v
        exact inv_foldl ht fun _ _ hs1 => inv_engPerform hs1) fun _ _ ht => ht

theorem inv_engQueueLeave {q : EngQueue} {o : EngOp} {s : State} (h : Inv s) : Inv (q.leave o s) := by
  unfold EngQueue.leave
  split
  · split
    · exact inv_engQueueDepart h
    · split
      next he1 => exact inv_engQueueDepart (inv_of_eq (f := progressState) he1 (inv_advanceFlag h))
      next he1 => exact inv_engQueueLastFail (inv_of_eq (f := progressState) he1 (inv_advanceFlag h))
      next s1 he1 =>
        have ht : Inv s1 := inv_of_eq (f := progressState) he1 (inv_advanceFlag h)
        split
        · exact inv_engQueuePassOn ht
        · exact inv_engQueuePut ht
      next he1 => exact inv_engQueuePut (inv_of_eq (f := progressState) he1 (inv_advanceFlag h))
  · exact inv_engQueueDepart h

theorem inv_engQueueComplete {q : EngQueue} {o : EngOp} {s : State} (h : Inv s) : Inv (q.complete o s) := by
  unfold EngQueue.complete
  split
  next s1 he =>
    have ht : Inv s1 := inv_snd_of_eq he (inv_writeCrec h)
    split
    · exact inv_engQueuePark ht
    · exact inv_engQueueLeave ht

theorem inv_engQueueFail {q : EngQueue} {o : EngOp} {err : ℕ} {poison : Option ℕ} {s : State} (h : Inv s) :
    Inv (q.fail o err poison s) :=
  inv_engQueueComplete (inv_reportFailure h)

theorem inv_engQueueSettle {q : EngQueue} {o : EngOp} {p : Progress} (hp : Inv (progressState p)) : Inv (q.settle o p) := by
  unfold EngQueue.settle
  split
  · exact inv_engQueueComplete hp
  · exact inv_engQueueFail hp
  · split
    · exact inv_engQueuePassOn hp
    · exact inv_engQueuePut hp
  · exact inv_engQueuePut hp

theorem inv_engQueueRun {q : EngQueue} {most : Option ℕ} {o : EngOp} {n : ℕ} {step : EngOp → ℕ → State → Progress} {s : State}
    (hstep : ∀ (a : EngOp) (n : ℕ) (t : State), Inv t → Inv (progressState (step a n t))) (h : Inv s) :
    Inv (q.run most o n step s) := by
  unfold EngQueue.run
  split
  next s1 he =>
    have ht : Inv s1 := inv_of_eq (f := progressState) he (inv_runElems (fun _ _ _ ht => hstep _ _ _ ht) h)
    extract_lets p
    split
    · exact inv_engQueueSettle ht
    · split
      · exact inv_engQueuePark ht
      · exact inv_engQueuePut ht
  · exact inv_engQueueSettle (inv_runElems (fun _ _ _ ht => hstep _ _ _ ht) h)

theorem inv_engQueueWork {q : EngQueue} {s : State} {f : EngOp → Option State} (h : Inv s) (hf : ∀ (a : EngOp), InvOpt (f a)) :
    InvOpt (q.work s f) := by
  unfold EngQueue.work
  exact invOpt_bind fun _ _ => by
    split
    · exact invOpt_some (inv_engQueueLeave h)
    · exact hf _

theorem inv_bargeDrain {most : Option ℕ} {core : ℕ} {s : State} (h : Inv s) : InvOpt (bargeDrain most core s) := by
  unfold bargeDrain
  extract_lets q
  exact inv_engQueueWork h fun _ => by
    split
    · exact invOpt_some (inv_engQueueRun (fun _ _ _ ht => inv_drainElem ht) h)
    · exact invOpt_none

theorem inv_execAbortedDrain {core : ℕ} {s : State} (h : Inv s) : InvNext (execAbortedDrain core s) := by
  unfold execAbortedDrain
  exact invNext_happens h (by
    extract_lets q
    exact inv_engQueueWork h fun _ => by
      split
      · exact invOpt_some (inv_engQueueFail h)
      · exact invOpt_none)

theorem inv_bargeCopy {most : Option ℕ} {core : ℕ} {s : State} (h : Inv s) : InvOpt (bargeCopy most core s) := by
  unfold bargeCopy
  extract_lets q go
  have hgo : ∀ (o : EngOp) (d src : Shape), Inv (go o d src) :=
    fun _ _ _ => inv_engQueueRun (fun _ _ _ ht => inv_copyElem (fun _ _ ht1 _ _ => inv_engWrite ht1) ht) h
  exact inv_engQueueWork h fun _ => by
    split
    · exact invOpt_some (hgo _ _ _)
    · exact invOpt_some (hgo _ _ _)
    · exact invOpt_none

theorem inv_multiWrite {o : EngOp} {l : List ℕ} {d : Shape} {s : State} {b v : ℕ} (h : Inv s) :
    Inv (ioState (multiWrite o l d s b v)) := by
  unfold multiWrite
  extract_lets w a n
  exact inv_foldl h fun _ _ hs1 => inv_engLocal hs1

theorem inv_bargeMulti {most : Option ℕ} {core : ℕ} {s : State} (h : Inv s) : InvOpt (bargeMulti most core s) := by
  unfold bargeMulti
  extract_lets q
  exact inv_engQueueWork h fun _ => by
    split
    · extract_lets l1 o
      exact invOpt_some (inv_engQueueRun (fun _ _ _ ht => inv_copyElem (fun _ _ ht1 _ _ => inv_multiWrite ht1) ht) h)
    · exact invOpt_none

/-- The state in which the reading of scores ends or stops. -/
def scoresState : Progress ⊕ (List Word × State) → State
  | .inl p => progressState p
  | .inr r => r.2

theorem inv_readScores {o : EngOp} {a : RouteArgs} {l : List (ℕ × ℕ)} {acc : List Word} {s : State} (h : Inv s) :
    Inv (scoresState (readScores o a l acc s)) := by
  induction l generalizing acc s with
  | nil => exact h
  | cons e l ih =>
    obtain ⟨e, t⟩ := e
    rw [readScores]
    split
    next he => exact ih (inv_of_eq (f := ioState) he (inv_engRead h))
    next he => exact inv_of_eq (f := ioState) he (inv_engRead h)
    next he => exact inv_of_eq (f := ioState) he (inv_engRead h)
    next he => exact inv_of_eq (f := ioState) he (inv_engRead h)
    next he => exact inv_of_eq (f := ioState) he (inv_engRead h)

theorem inv_checkWrites {o : EngOp} {l : List (ℕ × ℕ × ℕ)} {s : State} (h : Inv s) : Inv (progressState (checkWrites o l s)) := by
  induction l generalizing s with
  | nil => exact h
  | cons e l ih => exact inv_ioAndThen (inv_engCheck h fun _ _ ht => ht) fun _ _ ht => ih ht

theorem inv_routeElem {l : List (ℕ × ℕ × ℕ)} {o : EngOp} {i : ℕ} {s : State} (h : Inv s) :
    Inv (progressState (routeElem l o i s)) := by
  unfold routeElem
  split
  · exact inv_ioAndThen (inv_engWrite h) fun _ _ ht => ht
  · exact h

theorem inv_routeRead {a : RouteArgs} {o : EngOp} {s : State} (h : Inv s) : Inv (progressState (routeRead a o s)) := by
  unfold routeRead
  split
  next he => exact inv_of_eq (f := scoresState) he (inv_readScores h)
  next he => exact inv_checkWrites (inv_of_eq (f := scoresState) he (inv_readScores h))

theorem inv_routeWork {most : Option ℕ} {die : ℕ} {a : RouteArgs} {o : EngOp} {s : State} (h : Inv s) :
    Inv (routeWork most die a o s) := by
  unfold routeWork
  extract_lets q
  split
  · exact inv_engQueueRun (fun _ _ _ ht => inv_routeElem ht) h
  · split
    next s1 he1 =>
      have ht : Inv s1 := inv_of_eq (f := progressState) he1 (inv_routeRead h)
      split
      · exact inv_engQueueRun (fun _ _ _ ht1 => inv_routeElem ht1) ht
      · exact inv_engQueueSettle ht
    · exact inv_engQueueSettle (inv_routeRead h)

theorem inv_sluiceRoute {most : Option ℕ} {die : ℕ} {s : State} (h : Inv s) : InvOpt (sluiceRoute most die s) := by
  unfold sluiceRoute
  exact inv_engQueueWork h fun _ => by
    split
    · exact invOpt_some (inv_routeWork h)
    · exact invOpt_none

theorem inv_readCollTile {core : ℕ} {o : EngOp} {s : State} (h : Inv s) : Inv (readCollTile core o s).2 := by
  unfold readCollTile
  split
  · extract_lets tile o1 s1 kept
    have hs1 : Inv s1 := inv_engQueuePut h
    dsimp only
    exact inv_returnSlots hs1
  · exact h

theorem inv_collElem {d : Shape} {f : FmtSlot} {tile : FMap 32} {n : ℕ} {o : EngOp} {i : ℕ} {s : State} (h : Inv s) :
    Inv (progressState (collElem d f tile n o i s)) := by
  unfold collElem
  split
  · exact inv_drainElem h
  · split
    next he => exact inv_snd_of_eq he (inv_writeCrec h)

theorem inv_collWork {most : Option ℕ} {core : ℕ} {s : State} (h : Inv s) : InvOpt (collWork most core s) := by
  unfold collWork
  extract_lets q
  exact inv_engQueueWork h fun _ => by
    split
    next s1 he =>
      have ht : Inv s1 := inv_snd_of_eq he (inv_readCollTile h)
      split
      · extract_lets n
        exact invOpt_some (inv_engQueueRun (fun _ _ _ ht1 => inv_collElem ht1) ht)
      · exact invOpt_none

theorem inv_deliver {s : State} {t : Team} {u : ℕ} {g : Machine.Group} {e : ℕ} {page : DWord} (h : Inv s) :
    Inv (deliver s t u g e page) := by
  unfold deliver
  split
  · exact inv_ctlTell (inv_modGroup h fun _ hg1 => groupOk_modSplit hg1)
  · extract_lets lanes tr
    exact inv_modGroup h fun _ hg1 => groupOk_modSplit (groupOk_enterHandler hg1)

theorem inv_execEngineFaultDelivery {eng : EngineId} {s : State} (h : Inv s) : InvNext (execEngineFaultDelivery eng s) := by
  unfold execEngineFaultDelivery
  exact invNext_happens h (by
    extract_lets q
    split
    · exact invOpt_none
    · split
      · exact invOpt_none
      · exact invOpt_some (inv_engQueueFail h)
      · split
        · exact invOpt_some (inv_engQueueFail (inv_countTeam h))
        · exact invOpt_some (inv_engQueueFail (inv_countTeam h))
        · extract_lets s'
          have hs' : Inv s' := inv_countTeam h
          split
          · exact invOpt_none
          · split
            · exact invOpt_some (inv_engQueueFail (inv_endByFault hs'))
            · exact invOpt_some (inv_engQueuePut (inv_deliver hs')))

theorem inv_walkAhead {q : EngQueue} {n : ℕ} {s : State} (h : Inv s) : Inv (walkAhead q n s) := by
  unfold walkAhead
  split
  · exact h
  · exact inv_foldl h fun _ _ hs1 => by
      extract_lets at_ page pages
      split
      · split
        · exact hs1
        · split
          next s2 he2 =>
            have ht : Inv s2 := inv_snd_snd_of_eq he2 (inv_translate hs1)
            split
            · exact ht
            · exact inv_countTeam ht
      · exact hs1

theorem inv_engineTurn {e : EngineId} {n : ℕ} {s : State} (h : Inv s) : InvOpt (engineTurn e n s) := by
  unfold engineTurn
  split
  · exact invOpt_orElse (invOpt_orElse (inv_bargeDrain h) (inv_bargeCopy h)) (inv_bargeMulti h)
  · exact inv_collWork h
  · exact inv_sluiceRoute h

theorem inv_opAfterCompare {q : EngQueue} {o : EngOp} {s : State} (h : Inv s) : Inv (opAfterCompare q o s) := by
  unfold opAfterCompare
  extract_lets s1
  have hs1 : Inv s1 := inv_performOwn h
  split
  · exact inv_engQueueLeave hs1
  · exact inv_engQueueMod hs1

theorem inv_compareOps {a b : EngQueue × EngOp} {s : State} (h : Inv s) : Inv (compareOps a b s) := by
  unfold compareOps
  split
  · exact inv_opAfterCompare (inv_opAfterCompare h)
  · exact inv_mismatchPair h

theorem inv_execPairCompare {team : ℕ} {s : State} (h : Inv s) : InvNext (execPairCompare team s) := by
  unfold execPairCompare
  exact invNext_happens h (by
    split
    · exact invOpt_none
    · split
      · exact invOpt_some (by
          split
          · exact inv_afterCompare (inv_afterCompare (inv_comparePair h))
          · exact inv_mismatchPair h)
      · split
        · exact invOpt_some (inv_compareOps h)
        · exact invOpt_whenOk fun _ => by
            split
            · extract_lets s1
              have hs1 : Inv s1 := inv_comparePair h
              split
              · exact inv_removeTeam (inv_removeTeam hs1)
              · exact hs1
            · exact inv_mismatchPair h)

theorem inv_execPairTimeout {team : ℕ} {s : State} (h : Inv s) : InvNext (execPairTimeout team s) := by
  unfold execPairTimeout
  exact invNext_happens h (by
    split
    · exact invOpt_whenOk fun _ => by
        extract_lets gid
        exact inv_mismatchPair h
    · exact invOpt_whenOk fun _ => by
        extract_lets gid
        exact inv_mismatchPair h
    · exact invOpt_none)

end Sys2Proof.Proofs
end

section
/-! Errors, the fabric and the events of sequencers and waits keep the invariant (R320 to R333, R372 to R383, R396 to R404). -/

namespace Sys2Proof.Proofs

open Sys2Proof.Machine Sys2Proof.Safety Sys2Proof.Laws

theorem inv_dropTeam {s : State} {tu : ℕ} (h : Inv s) : Inv (dropTeam s tu) := by
  unfold dropTeam
  split
  · exact h
  · extract_lets s1
    have hs1 : Inv s1 := by
      unfold s1
      exact inv_foldl h fun _ _ hs2 => by
        split
        · exact inv_returnSlots { hs2 with groups := GroupsOk.kdel hs2.groups _ }
        · exact { hs2 with groups := GroupsOk.kdel hs2.groups _ }
        · exact hs2
    exact { hs1 with teams := kwf_kdel hs1.teams _ }

theorem inv_restoreSnaps {s : State} {h : ℕ} (hs : Inv s) : Inv (restoreSnaps s h) := by
  unfold restoreSnaps
  split
  · exact hs
  · extract_lets s1
    have hs1 : Inv s1 := inv_foldl hs fun _ _ hs2 => inv_copyGranuleOf hs2
    exact inv_releaseCopies hs1

theorem inv_execReplay {handle : BitVec 14} {s : State} (h : Inv s) : InvNext (execReplay handle s) := by
  unfold execReplay
  exact invNext_happens h (by
    extract_lets h1 l s1 s2 s3
    have hs1 : Inv s1 := inv_foldl h fun _ _ hs4 => inv_dropTeam hs4
    have hs2 : Inv s2 := inv_restoreSnaps hs1
    have hs3 : Inv s3 := { hs2 with grids := kwf_filter hs2.grids _ }
    split
    · exact invOpt_none
    · exact invOpt_whenOk fun _ => inv_frWrite (inv_modGrid hs3))

theorem inv_recordRetired {s : State} {e : Retired} (h : Inv s) : Inv (recordRetired s e) := by
  unfold recordRetired
  split
  · exact { h with }
  · exact inv_tellHost h

theorem inv_retireFrame {s : State} {f : ℕ} (h : Inv s) : Inv (retireFrame s f) := by
  unfold retireFrame
  extract_lets a hit
  split
  · exact { h with pools := length_map_of h.pools _ }
  · exact inv_tellHost h

theorem inv_disableL2 {s : State} {die : ℕ} (h : Inv s) : Inv (disableL2 s die) := by
  unfold disableL2
  split
  next s1 he =>
    have ht : Inv s1 := inv_snd_of_eq he (inv_pick h)
    extract_lets s2 old
    have hs2 : Inv s2 := by
      unfold s2
      split
      · exact inv_l2Evict ht
      · exact ht
    exact { hs2 with }

theorem inv_disableL1 {s : State} {c : ℕ} (h : Inv s) : Inv (disableL1 s c) := by
  unfold disableL1
  split
  next he => exact inv_modCore (inv_snd_of_eq he (inv_pick h))

theorem inv_disableIcache {s : State} {c : ℕ} (h : Inv s) : Inv (disableIcache s c) := by
  unfold disableIcache
  split
  next he => exact inv_modCore (inv_snd_of_eq he (inv_pick h))

theorem inv_crossRow {s : State} {r : RowId} {host : Bool} (h : Inv s) : Inv (crossRow s r host) := by
  unfold crossRow
  split
  · exact inv_tellHost h
  · extract_lets s1
    have hs1 : Inv s1 := inv_recordRetired h
    clear_value s1
    split
    · refine inv_modCore ?_
      exact { hs1 with }
    · exact inv_retireFrame hs1
    · exact inv_disableL2 hs1
    · exact inv_disableL1 hs1
    · exact inv_disableL1 hs1
    · exact inv_disableIcache hs1
    · exact hs1
    · exact hs1

theorem inv_cross {s : State} {r : RowId} (h : Inv s) : Inv (cross s r) := by
  unfold cross
  split
  · exact inv_queueFor h
  · exact inv_crossRow h

theorem inv_corrected {s : State} {r : RowId} (h : Inv s) : Inv (corrected s r) := by
  unfold corrected
  extract_lets now old rest stamps
  split
  · exact inv_cross { h with }
  · exact { h with }

theorem inv_execCorrectedError {e : RowId} {handle : Option (BitVec 14)} {s : State} (h : Inv s) :
    InvNext (execCorrectedError e handle s) := by
  unfold execCorrectedError
  exact invNext_happens h (by
    exact invOpt_whenOk fun _ => by
      extract_lets s1
      have hs1 : Inv s1 := by
        unfold s1
        split
        · exact inv_count h
        · exact h
      exact inv_corrected hs1)

theorem inv_crossNow {s : State} {r : RowId} (h : Inv s) : Inv (crossNow s r) := inv_cross { h with }

theorem inv_execUncorrectableError {e : ErrorSite} {s : State} (h : Inv s) : InvNext (execUncorrectableError e s) := by
  unfold execUncorrectableError
  exact invNext_happens h (by
    split
    · extract_lets held t
      have ht : Inv t := { h with }
      exact invOpt_whenOk fun _ => by
        split
        · exact inv_crossNow ht
        · split
          next he1 => exact inv_crossNow (inv_snd_of_eq he1 (inv_pick ht))
    · split
      · split
        · exact invOpt_none
        · extract_lets row
          split
          · exact invOpt_none
          · exact invOpt_whenOk fun _ => by
              split
              next s1 he5 =>
                have ht : Inv s1 := inv_snd_of_eq he5 (inv_pick h)
                extract_lets s2
                have hs2 : Inv s2 := by
                  unfold s2
                  split
                  · exact inv_crossNow ht
                  · exact ht
                exact inv_endByFault hs2
      · exact invOpt_none)

theorem inv_execRowSpare {idx : BitVec 10} {s : State} (h : Inv s) : InvNext (execRowSpare idx s) := by
  unfold execRowSpare
  exact invNext_happens h (by
    extract_lets i e core used free
    exact invOpt_whenOk fun _ => { h with })

theorem inv_execPowerLimit {island : BitVec 6} {mhz : BitVec 16} {s : State} (h : Inv s) :
    InvNext (execPowerLimit island mhz s) := by
  unfold execPowerLimit
  exact invNext_happens h (by
    exact invOpt_mapState (inv_limitClock h) fun _ ht => by
      split
      · exact inv_queueFor h
      · exact ht)

theorem inv_creditCtx {s : State} {n k : ℕ} (h : Inv s) : Inv (creditCtx s n k) := by
  unfold creditCtx
  extract_lets c
  split
  · exact h
  · split
    · exact inv_schedule (inv_modCtx h fun _ hc11 => fwf_atSwitch (fun _ ha => fwf_seqCtxRetried ha) hc11)
    · exact inv_advanceCtx h
    · exact inv_advanceCtx h
    · exact h

theorem inv_wakeSenders {s : State} (h : Inv s) : Inv (wakeSenders s) :=
  inv_retryUnsent (inv_foldl h fun _ _ hs1 => inv_creditCtx hs1)

theorem inv_setRoutes {s : State} {l : List (ℕ × ℕ)} (h : Inv s) : Inv (setRoutes s l) := by
  unfold setRoutes
  split
  · exact inv_queueFor h
  · extract_lets kept new
    exact inv_wakeSenders { h with }

theorem inv_execFlitReceive {link : BitVec 5} {flit : List Byte} {s : State} (h : Inv s) :
    InvNext (execFlitReceive link flit s) := by
  unfold execFlitReceive
  exact invNext_happens h (by
    extract_lets n l
    exact invOpt_whenOk fun _ => by
      split
      · exact inv_modLink h
      · exact h)

theorem inv_execLinkDown {link : BitVec 5} {s : State} (h : Inv s) : InvNext (execLinkDown link s) := by
  unfold execLinkDown
  exact invNext_happens h (by
    extract_lets n s1
    have hs1 : Inv s1 := inv_wakeSenders (inv_modLink h)
    exact invOpt_whenOk fun _ => by
      split
      · exact inv_ctlTell hs1
      · split
        · exact inv_queueFor hs1
        · exact hs1)

theorem inv_execLinkUp {link : BitVec 5} {s : State} (h : Inv s) : InvNext (execLinkUp link s) := by
  unfold execLinkUp
  exact invNext_happens h (by
    extract_lets n
    exact invOpt_whenOk fun _ => inv_wakeSenders (inv_modLink h))

theorem inv_sendPutAck {s : State} {issuer : PutIssuer} {dst : BitVec 12} {detail : Option ℕ} (h : Inv s) :
    Inv (sendPutAck s issuer dst detail) :=
  inv_returnCredits (inv_emit h)

theorem inv_putArrives {s : State} {m : PutMsg} (h : Inv s) : InvOpt (putArrives s m) := by
  unfold putArrives
  split
  · split
    · exact invOpt_some { h with }
    · exact invOpt_none
  · split
    · exact invOpt_some h
    · exact invOpt_none

theorem inv_execPutMessage {m : PutMsg} {s : State} (h : Inv s) : InvNext (execPutMessage m s) := by
  unfold execPutMessage
  exact invNext_happens h (by
    split
    · exact invOpt_none
    · split
      · exact invOpt_none
      next he =>
        have ht := inv_putArrives h _ he
        extract_lets s2 w s3
        have hs2 : Inv s2 := inv_echoMark ht
        have hs3 : Inv s3 := by
          unfold s3
          split
          · exact { hs2 with }
          · exact hs2
        split
        · exact invOpt_some (inv_sendPutAck hs3)
        · split
          · exact invOpt_some (inv_sendPutAck hs2)
          next he1 =>
            have ht1 := (invOpt_bind fun _ _ => inv_sysWrite hs2) _ he1
            exact invOpt_some (by
              split
              · exact { ht1 with }
              · exact inv_sendPutAck ht1))

theorem inv_execNotifyAppend {win : BitVec 8} {s : State} (h : Inv s) : InvNext (execNotifyAppend win s) := by
  unfold execNotifyAppend
  exact invNext_happens h (by
    split
    · exact invOpt_none
    · extract_lets w drop fail
      have hdrop : ∀ (t : State), Inv t → Inv (drop t) := fun _ ht => { ht with }
      have hfail : InvOpt fail := invOpt_some (inv_sendPutAck (hdrop _ h))
      split
      · exact hfail
      · split
        · exact hfail
        · split
          · exact invOpt_none
          · split
            · exact hfail
            next he3 =>
              have ht := inv_sysWrite h _ he3
              extract_lets s2
              have hs2 : Inv s2 := { ht with }
              exact invOpt_some (inv_sendPutAck (hdrop _ hs2)))

theorem inv_recordPut {s : State} {h team gid detail : ℕ} (hs : Inv s) : Inv (recordPut s h team gid detail) := by
  unfold recordPut
  extract_lets there
  exact inv_report hs

theorem inv_ackArrives {s : State} {m : PutAckMsg} (h : Inv s) : InvOpt (ackArrives s m) := by
  unfold ackArrives
  split
  · exact invOpt_some { h with }
  · extract_lets answers
    exact invOpt_map fun _ _ => { h with }

theorem inv_execPutAck {m : PutAckMsg} {s : State} (h : Inv s) : InvNext (execPutAck m s) := by
  unfold execPutAck
  exact invNext_happens h (by
    split
    · exact invOpt_none
    next s1 he =>
      have ht : Inv s1 := inv_of_some he <| by
        split
        · exact inv_ackArrives h
        · exact invOpt_none
      split
      · exact invOpt_whenOk fun _ => by
          extract_lets t
          have ht1 : Inv t := inv_modGrid ht
          split
          · exact inv_recordPut ht1
          · exact ht1
      · exact invOpt_some (by
          split
          · exact inv_recordFault ht
          · exact ht))

theorem inv_execCreditReturn {g : Grantor} {requests bulk : ℕ} {s : State} (h : Inv s) :
    InvNext (execCreditReturn g requests bulk s) := by
  unfold execCreditReturn
  exact invNext_happens h (by
    split
    · exact invOpt_none
    · exact invOpt_whenOk fun _ => by
        extract_lets q
        exact inv_wakeSenders { h with })

theorem inv_execMarkEcho {pkg : BitVec 12} {s : State} (h : Inv s) : InvNext (execMarkEcho pkg s) := by
  unfold execMarkEcho
  exact invNext_happens h (by
    split
    · exact invOpt_none
    · exact invOpt_whenOk fun _ => by
        extract_lets again old q
        exact { h with })

theorem inv_execRateRecovery {pkg : BitVec 12} {s : State} (h : Inv s) : InvNext (execRateRecovery pkg s) := by
  unfold execRateRecovery
  exact invNext_happens h (by
    split
    · exact invOpt_none
    · exact invOpt_whenOk fun _ => { h with })

theorem inv_dropForeign {s : State} (h : Inv s) : Inv (dropForeign s) := by
  unfold dropForeign
  extract_lets foreign old c
  exact inv_retryBacklog { h with }

theorem inv_execDomainBringUp {b : BringUp} {s : State} (h : Inv s) : InvNext (execDomainBringUp b s) := by
  unfold execDomainBringUp
  exact invNext_happens h (by
    extract_lets done others fresh s1 now old
    have hs1 : Inv s1 := by
      unfold s1
      split
      · exact inv_dropForeign h
      · exact h
    exact invOpt_whenOk fun _ => { hs1 with })

theorem inv_passTicks {s : State} {n : ℕ} (h : Inv s) : Inv (passTicks s n) := by
  unfold passTicks
  split
  · exact { h with }
  · exact h

theorem inv_execDtimeSync {ticks : ℕ} {s : State} (h : Inv s) : InvNext (execDtimeSync ticks s) := by
  unfold execDtimeSync
  exact invNext_happens h (by
    split
    · exact invOpt_none
    · exact invOpt_whenOk fun _ => by
        extract_lets now
        exact { h with })

theorem inv_outsideWrite {s : State} {pa : ℕ} {l : List Byte} (h : Inv s) : Inv (outsideWrite s pa l) := by
  unfold outsideWrite
  split
  · exact { h with mem := writeList_wf h.mem _ _ }
  · exact h

theorem inv_setWindow {s : State} {n : ℕ} {w : Window} (h : Inv s) : Inv (setWindow s n w) := { h with }

theorem inv_arrive {s : State} {src : BitVec 12} {m : OutMsg} (h : Inv s) : InvOpt (arrive s src m) := by
  unfold arrive
  split
  · split
    · exact invOpt_some { h with }
    · exact invOpt_none
  · split
    · exact invOpt_some h
    · exact invOpt_none

theorem inv_pidFault {s : State} {n k : ℕ} {src : Route} {tag : BitVec 16} (h : Inv s) : Inv (pidFault s n k src tag) :=
  inv_emit (inv_seqFault h)

theorem inv_execReadyMessage {m : ReadyMsg} {s : State} (h : Inv s) : InvNext (execReadyMessage m s) := by
  unfold execReadyMessage
  exact invNext_happens h (by
    extract_lets n k
    split
    · exact invOpt_none
    · split
      · exact invOpt_none
      next he =>
        have ht := inv_arrive h _ he
        split
        · exact invOpt_some (inv_pidFault ht)
        · split
          · exact invOpt_some (by
              split
              · exact inv_modCtx ht fun _ hc4 => by
                  split
                  · exact hc4
                  · exact hc4
              · exact inv_emit ht)
          · exact invOpt_some (inv_advanceCtx (inv_modCtx ht fun _ hc3 => hc3)))

theorem inv_execReadyRetry {sq : BitVec 5} {ctx : BitVec 2} {s : State} (h : Inv s) : InvNext (execReadyRetry sq ctx s) := by
  unfold execReadyRetry
  exact invNext_happens h (by
    extract_lets n k
    split
    · exact invOpt_whenOk fun _ => inv_sendReady h
    · exact invOpt_none)

theorem inv_execChunkMessage {m : ChunkMsg} {s : State} (h : Inv s) : InvNext (execChunkMessage m s) := by
  unfold execChunkMessage
  exact invNext_happens h (by
    extract_lets n k
    split
    · exact invOpt_none
    · split
      · exact invOpt_none
      next he =>
        have ht := inv_arrive h _ he
        extract_lets s2 gone
        have hs2 : Inv s2 := inv_echoMark ht
        have hgone : Inv gone := inv_drained hs2
        split
        · exact invOpt_some (inv_pidFault hgone)
        · split
          · exact invOpt_some (by
              split
              · exact inv_receiveChunk hs2
              · exact hgone)
          · exact invOpt_some hgone)

theorem inv_execNackMessage {m : NackMsg} {s : State} (h : Inv s) : InvNext (execNackMessage m s) := by
  unfold execNackMessage
  exact invNext_happens h (by
    extract_lets n k own t c
    have ht : Inv t := by
      unfold t
      split
      · exact { h with }
      · exact h
    exact invOpt_whenOk fun _ => by
      split
      · split
        · split
          · exact inv_seqFault ht
          · exact ht
        · split
          · exact inv_seqFault ht
          · exact ht
        · split
          · exact inv_seqFault ht
          · exact ht
        · split
          · exact inv_seqFault ht
          · exact ht
        · exact ht
      · split
        · split
          · exact inv_seqFault ht
          · exact ht
        · exact ht)

theorem inv_execChunkComplete {sq : BitVec 5} {ctx : BitVec 2} {s : State} (h : Inv s) :
    InvNext (execChunkComplete sq ctx s) := by
  unfold execChunkComplete
  exact invNext_happens h (by
    extract_lets n k c
    split
    · exact invOpt_none
    · split
      · exact invOpt_some (inv_seqComplete (inv_finishDue h))
      · exact invOpt_some (inv_seqComplete (inv_modCtx (inv_writeSeg h) fun _ hc11 => hc11))
      · exact invOpt_whenOk fun _ => inv_seqComplete (inv_finishDue h)
      · split
        · exact invOpt_whenOk fun _ => inv_startCombine h
        · exact invOpt_none
      · exact invOpt_none)

theorem inv_execContextRunLimit {sq : BitVec 5} {s : State} (h : Inv s) : InvNext (execContextRunLimit sq s) := by
  unfold execContextRunLimit
  exact invNext_happens h (by
    extract_lets n
    split
    · exact invOpt_none
    · exact invOpt_whenOk fun _ => inv_leaveSeq h fun _ ha => fwf_atSwitch (fun _ ha1 => ha1) ha)

theorem inv_faultPartners {s : State} {me : Route} {l : List (Route × BitVec 16)} {cause : ℕ} (h : Inv s) :
    Inv (faultPartners s me l cause) := by
  unfold faultPartners
  exact inv_foldl h fun _ _ hs1 => by
    split
    · exact inv_seqFault hs1
    · exact hs1

theorem inv_execRendezvousTimeout {sq : BitVec 5} {ctx : BitVec 2} {s : State} (h : Inv s) :
    InvNext (execRendezvousTimeout sq ctx s) := by
  unfold execRendezvousTimeout
  exact invNext_happens h (by
    extract_lets n k c open_
    exact invOpt_whenOk fun _ => inv_faultPartners (inv_seqFault h))

theorem inv_execCombineReplayTimeout {sq : BitVec 5} {ctx : BitVec 2} {s : State} (h : Inv s) :
    InvNext (execCombineReplayTimeout sq ctx s) := by
  unfold execCombineReplayTimeout
  exact invNext_happens h (by
    extract_lets c open_
    exact invOpt_whenOk fun _ => inv_seqFault h)

theorem inv_execWflgTimeout {sq : BitVec 5} {ctx : BitVec 2} {s : State} (h : Inv s) : InvNext (execWflgTimeout sq ctx s) := by
  unfold execWflgTimeout
  exact invNext_happens h (by
    extract_lets c
    split
    · exact invOpt_whenOk fun _ => inv_seqFault h
    · exact invOpt_none)

theorem inv_execWflgRecheck {sq : BitVec 5} {ctx : BitVec 2} {s : State} (h : Inv s) : InvNext (execWflgRecheck sq ctx s) := by
  unfold execWflgRecheck
  exact invNext_happens h (by
    extract_lets n k c
    split
    · exact invOpt_whenOk fun _ => by
        split
        · exact inv_seqFault h
        · split
          · exact inv_seqComplete h
          · exact h
    · exact invOpt_none)

theorem inv_execSeqPageResolved {sq : BitVec 5} {ctx : BitVec 2} {mapped : Bool} {s : State} (h : Inv s) :
    InvNext (execSeqPageResolved sq ctx mapped s) := by
  unfold execSeqPageResolved
  exact invNext_happens h (by
    extract_lets n k c
    split
    · exact invOpt_whenOk fun _ => by
        split
        next s1 he3 =>
          have ht : Inv s1 := inv_snd_of_eq he3 <| by
            split
            · exact h
            · split
              next he4 => exact inv_snd_of_eq he4 (inv_mapPage h)
          split
          · exact inv_schedule (inv_modCtx ht fun _ hc11 => fwf_atSwitch (fun _ ha => fwf_seqCtxRetried ha) hc11)
          · exact inv_seqFault ht
    · exact invOpt_none)

theorem inv_execSredResult {sq : BitVec 5} {ctx : BitVec 2} {m : SumMsg} {s : State} (h : Inv s) :
    InvNext (execSredResult sq ctx m s) := by
  unfold execSredResult
  exact invNext_happens h (by
    extract_lets n k c
    split
    · exact invOpt_whenOk fun _ => by
        split
        · exact inv_seqFault (inv_modCtx h fun _ hc11 => hc11)
        · exact inv_seqComplete (inv_writeSeg h)
    · exact invOpt_none)

theorem inv_execCollectiveLaunchMessage {m : LaunchMsg} {s : State} (h : Inv s) : InvNext (execCollectiveLaunchMessage m s) := by
  unfold execCollectiveLaunchMessage
  exact invNext_happens h (by
    extract_lets o
    exact invOpt_whenOk fun _ => by
      split
      next he1 => exact inv_of_eq (f := packResState) he1 (inv_loadPackage h)
      next he1 => exact inv_emit (inv_of_eq (f := packResState) he1 (inv_loadPackage h)))

theorem inv_abortCtx {cid : BitVec 28} {s : State} {p : ℕ × ℕ} (h : Inv s) : Inv (abortCtx cid s p) := by
  unfold abortCtx
  extract_lets c
  split
  · exact h
  · split
    · exact inv_modCtx h fun _ hc11 => hc11
    · exact inv_seqFault h
    · exact inv_seqFault h
    · exact inv_seqFault h
    · exact h
    · exact h

theorem inv_abortAll {s : State} {cid : BitVec 28} {co : Collective} (h : Inv s) : Inv (abortAll s cid co) :=
  inv_foldl h fun _ _ hs1 => inv_abortCtx hs1

theorem inv_execAbortMessage {m : AbortMsg} {s : State} (h : Inv s) : InvNext (execAbortMessage m s) := by
  unfold execAbortMessage
  exact invNext_happens h (by
    extract_lets cid cause own
    split
    · exact invOpt_some { h with }
    · split
      · exact invOpt_some (inv_abortAll { h with })
      · exact invOpt_whenOk fun _ => by
          extract_lets co1 s1 s2
          have hs1 : Inv s1 := { h with }
          have hs2 : Inv s2 := by
            unfold s2
            split
            · exact inv_foldl hs1 fun _ _ hs3 => inv_emit hs3
            · exact hs1
          exact inv_abortAll hs2)

theorem inv_writeDone {s : State} {co : Collective} (h : Inv s) : Inv (writeDone s co).1 := by
  unfold writeDone
  split
  · exact h
  · split
    · exact h
    · split
      · exact h
      · dsimp only
        exact { h with mem := writeN_wf h.mem _ _ _ }

theorem inv_freeCtx {cid : BitVec 28} {s : State} {p : ℕ × ℕ} (h : Inv s) : Inv (freeCtx cid s p) := by
  unfold freeCtx
  exact inv_modCtx h fun _ hc => by
    split
    · exact hc
    · exact hc

theorem inv_execCollectiveEnd {cid : BitVec 28} {s : State} (h : Inv s) : InvNext (execCollectiveEnd cid s) := by
  unfold execCollectiveEnd
  exact invNext_happens h (by
    split
    · exact invOpt_none
    · exact invOpt_whenOk fun _ => by
        split
        next s1 _ he2 =>
          have ht : Inv s1 := inv_fst_of_eq he2 <| by
            split
            · exact inv_writeDone h
            · exact h
          extract_lets s2
          have hs2 : Inv s2 := inv_foldl { ht with } fun _ _ hs3 => inv_freeCtx hs3
          split
          · exact inv_finishEntry hs2
          · exact hs2)

theorem inv_whileHalted {s : State} {n k : ℕ} {f : State → State} (h : Inv s) (hf : ∀ (t : State), Inv t → Inv (f t)) :
    Inv (whileHalted s n k f) := by
  unfold whileHalted
  split
  · exact hf _ h
  · exact h

theorem inv_setCtxK {s : State} {n k i : ℕ} {v : DWord} (h : Inv s) : Inv (setCtxK s n k i v) :=
  inv_whileHalted h fun _ ht => inv_modCtx ht fun _ hc => fset_wf hc _ _

theorem inv_setCtxPc {s : State} {n k : ℕ} {pc : BitVec 11} (h : Inv s) : Inv (setCtxPc s n k pc) :=
  inv_whileHalted h fun _ ht => inv_modCtx ht fun _ hc => hc

theorem seqOk_setWord {q : Sequencer} {i : ℕ} {w : DWord} (h : seqOk q = true) :
    seqOk { q with imem := fset q.imem i w } = true :=
  have ⟨himem, hctxs⟩ := (seqOk_iff q).mp h
  (seqOk_iff _).mpr ⟨fset_wf himem i w, hctxs⟩

theorem inv_setSeqWord {s : State} {n i : ℕ} {w : DWord} (h : Inv s) : Inv (setSeqWord s n i w) := by
  unfold setSeqWord
  split
  · exact h
  · exact inv_modSeq h fun _ hq => seqOk_setWord hq

theorem inv_of_waiting {s t : State} {u e : ℕ} {w : Wait} {x : Ctx} (h : Inv s) (he : waiting s u e = some (w, x, t)) : Inv t := by
  unfold waiting at he
  split at he
  · obtain ⟨_, _, heq⟩ := Option.map_eq_some_iff.mp he
    cases heq
    exact inv_modGroup h fun _ hg => groupOk_modSplit hg
  · cases he

theorem inv_endWait {w : Wait} {x : Ctx} {s : State} (h : Inv s) : Inv (endWait w x s) :=
  inv_modGroup h fun _ hg => groupOk_advance hg

theorem inv_stopWait {w : Wait} {x : Ctx} {r : Res} (hr : Inv (resState r)) : Inv (stopWait w x r) := by
  unfold stopWait
  split
  · exact inv_streamFault hr
  · exact inv_takeTrap hr
  · exact inv_modGroup hr fun _ hg => groupOk_modSplit hg
  · exact inv_modGroup hr fun _ hg => groupOk_modSplit hg
  · exact inv_modGroup hr fun _ hg => groupOk_modSplit hg

theorem inv_execWaitWake {group : ℕ} {entry : BitVec 2} {s : State} (h : Inv s) : InvNext (execWaitWake group entry s) := by
  unfold execWaitWake
  exact invNext_happens h (by
    split
    · exact invOpt_none
    next he =>
      have ht := inv_of_waiting h he
      split
      · split
        next t1 he2 =>
          have ht3 : Inv t1 := inv_of_eq (f := gotState) he2 (inv_barrierAt ht)
          split
          · exact invOpt_some (inv_streamFault ht3)
          · exact invOpt_whenOk fun _ => inv_endWait (inv_acquire ht3)
        next he2 => exact invOpt_some (inv_stopWait (inv_of_eq (f := gotState) he2 (inv_barrierAt ht)))
      · split
        next he2 => exact invOpt_whenOk fun _ => inv_endWait (inv_acquire (inv_of_eq (f := gotState) he2 (inv_waitvRead ht)))
        next he2 => exact invOpt_some (inv_stopWait (inv_of_eq (f := gotState) he2 (inv_waitvRead ht)))
      · extract_lets h1 v3 t1
        have ht11 : Inv t1 := by
          unfold t1
          split
          · exact ht
          · exact inv_acquire ht
        exact invOpt_whenOk fun _ => inv_endWait (inv_modGroup ht11 fun _ hg => groupOk_writes hg _))

theorem inv_execWaitvRecheck {group : ℕ} {entry : BitVec 2} {s : State} (h : Inv s) :
    InvNext (execWaitvRecheck group entry s) := by
  unfold execWaitvRecheck
  exact invNext_happens h (by
    split
    · exact invOpt_none
    next he =>
      have ht := inv_of_waiting h he
      split
      · split
        next t1 he2 =>
          have ht3 : Inv t1 := inv_of_eq (f := gotState) he2 (inv_waitvRead ht)
          exact invOpt_some (by
            split
            · exact inv_endWait (inv_acquire ht3)
            · exact inv_modGroup ht3 fun _ hg => groupOk_modSplit hg)
        next he2 => exact invOpt_some (inv_stopWait (inv_of_eq (f := gotState) he2 (inv_waitvRead ht)))
      · exact invOpt_none)

theorem inv_execWaitTimeout {group : ℕ} {entry : BitVec 2} {s : State} (h : Inv s) : InvNext (execWaitTimeout group entry s) := by
  unfold execWaitTimeout
  exact invNext_happens h (by
    split
    · exact invOpt_none
    next he => exact invOpt_whenOk fun _ => inv_streamFault (inv_of_waiting h he))

theorem inv_execRefusedByTarget {group : ℕ} {entry : BitVec 2} {s : State} (h : Inv s) :
    InvNext (execRefusedByTarget group entry s) := by
  unfold execRefusedByTarget
  exact invNext_happens h (by
    extract_lets e t
    have ht : Inv t := inv_modGroup h fun _ hg => groupOk_modSplit hg
    split
    · exact invOpt_none
    · split
      · exact invOpt_none
      · exact invOpt_some (by
          split
          · exact inv_endByFault ht
          · exact inv_endByFault ht))

end Sys2Proof.Proofs
end

section
/-! Every instruction, every event and every turn keeps the invariant (R72, R93, R94, R300, R304). -/

namespace Sys2Proof.Proofs

open Sys2Proof.Machine Sys2Proof.Safety Sys2Proof.Laws

/-- Every instruction and event of the opcode table keeps the invariant: each by the rule of its meaning. -/
theorem inv_exec {i : Instr} {s : State} (h : Inv s) : InvNext (exec i s) := by
  cases i
  case nop => exact inv_execNop h
  case bra | braL => exact inv_issueCtl (fun _ hy _ ht => inv_semBra hy ht) h
  case bc | bcL => exact inv_issueCtl (fun _ hy _ ht => inv_semBc hy ht) h
  case bcu | bcuL => exact inv_issueCtl (fun _ hy _ ht => inv_semBcu hy ht) h
  case jmpi => exact inv_issueCtl (fun _ hy _ ht => inv_semJmpi hy ht) h
  case call | callL | calli => exact inv_issue (fun _ hy _ ht => inv_semCall hy ht) h
  case ret => exact inv_issueCtl (fun _ hy _ ht => inv_semRet hy ht) h
  case regang => exact inv_issueCtl (fun _ hy _ ht => inv_semRegang hy ht) h
  case splitq | sli | sliL | smov | smovX | sadd | saddX | saddL | ssub | ssubX | ssubL | smul | smulX | smulL | smulh |
    smulhX | smulhL | sand | sandX | sandL | sor | sorX | sorL | sxor | sxorX | sxorL | sshl | sshlX | sshlL | sshr | sshrX |
    sshrL | ssra | ssraX | ssraL | smin | sminX | sminL | smax | smaxX | smaxL | ssel | sselX | sselL | spopc | spopcX | scmp |
    scmpX | scmpL | vote | voteX | cand | candX | cor | corX | cxor | cxorX | setc | setcX | iadd | iaddX | iaddL | isub |
    isubX | isubL | imul | imulX | imulL | imulh | imulhX | imulhL | imin | iminX | iminL | imax | imaxX | imaxL | and | andX |
    andL | or | orX | orL | xor | xorX | xorL | shl | shlX | shlL | shr | shrX | shrL | sra | sraX | sraL | imad | imadX |
    imadL | imadw | imadwX | imadwL | iabs | iabsX | ineg | inegX | not | notX | popc | popcX | clz | clzX | brev | brevX |
    mov | movX | movi | moviX | moviL | bfe | bfeX | bfeL | bfi | bfiX | bfiL | icmpp | icmppX | icmppL | sel | selX | selL |
    pset | psetX | fadd | faddX | faddL | fsub | fsubX | fsubL | fmul | fmulX | fmulL | fmin | fminX | fminL | fmax | fmaxX |
    fmaxL | fmaxa | fmaxaX | fmaxaL | ffma | ffmaX | ffmaL | fcmpp | fcmppX | fcmppL | fclass | fclassX | fscale | fscaleX |
    fscaleL | hadd2 | hadd2X | hadd2L | hmul2 | hmul2X | hmul2L | hfma2 | hfma2X | hfma2L | fdot4 | fdot4X | cvt | cvtX |
    cvtf | cvtfX | cvti | cvtiX | pack | packX | unpack | unpackX | qscale | qscaleX => exact inv_issueRegs h
  case loop | loopi => exact inv_issueCtl (fun _ hy _ ht => inv_semLoop hy ht) h
  case leave => exact inv_issueCtl (fun _ hy _ ht => inv_semLeave hy ht) h
  case exit => exact inv_settleAfter (inv_issue (fun _ hy _ ht => inv_semExit hy ht) h)
  case yield => exact inv_issue (fun _ hy _ ht => inv_semYield hy ht) h
  case trap => exact inv_issueCtl (fun _ _ _ ht => inv_semTrap ht) h
  case brk => exact inv_issueCtl (fun _ hy _ ht => inv_semBrk hy ht) h
  case frcp | frcpX | frsq | frsqX | fsqrt | fsqrtX | fexp2 | fexp2X | flog2 | flog2X | shfl | shflX | shflL | bcast | bcastX |
    lred | lredX | lscan | lscanX | elect | electX | rndx | rndxX | tagq | tagqX => exact inv_issueVar h
  case ld | ldX | ldL => exact inv_issue (fun _ _ _ ht => inv_semLd ht) h
  case st | stX | stL => exact inv_issue (fun _ _ _ ht => inv_semSt ht) h
  case ldl | ldlX | ldlL => exact inv_issue (fun _ _ _ ht => inv_semLdl ht) h
  case stl | stlX | stlL => exact inv_issue (fun _ _ _ ht => inv_semStl ht) h
  case sld | sldX | sldL => exact inv_issue (fun _ _ _ ht => inv_semSld ht) h
  case sst | sstX | sstL => exact inv_issue (fun _ _ _ ht => inv_semSst ht) h
  case atom | atomX | atomL => exact inv_issue (fun _ _ _ ht => inv_semAtom ht) h
  case atoml | atomlX | atomlL => exact inv_issue (fun _ _ _ ht => inv_semAtoml ht) h
  case red | redX | redL => exact inv_issue (fun _ _ _ ht => inv_semRed ht) h
  case fence => exact inv_execFence h
  case fenceX => exact inv_execFenceX h
  case tagset | tagsetX => exact inv_issue (fun _ _ _ ht => inv_semTagset ht) h
  case tagclr | tagclrX => exact inv_issue (fun _ _ _ ht => inv_semTagclr ht) h
  case pref => exact inv_execPref h
  case prefX => exact inv_execPrefX h
  case prefL => exact inv_execPrefL h
  case cctl => exact inv_execCctl h
  case cctlX => exact inv_execCctlX h
  case cctlL => exact inv_execCctlL h
  case puti | putiX => exact inv_issue (fun _ _ _ ht => inv_semPuti ht) h
  case mma | mmaX => exact inv_issue (fun _ _ _ ht => inv_semMma ht) h
  case dmma | dmmaX => exact inv_issue (fun _ _ _ ht => inv_semDmmaTo ht) h
  case azero | azeroX => exact inv_issue (fun _ _ _ ht => inv_semAzero ht) h
  case arel | arelX => exact inv_issue (fun _ _ _ ht => inv_semArel ht) h
  case ard | ardX | ardL => exact inv_issue (fun _ _ _ ht => inv_semArd ht) h
  case awr | awrX | awrL => exact inv_issue (fun _ _ _ ht => inv_semAwr ht) h
  case adrain | adrainX => exact inv_issue (fun _ _ _ ht => inv_semAdrain ht) h
  case mfence | mfenceX => exact inv_issue (fun _ hy _ ht => inv_semMfence hy ht) h
  case mwait | mwaitX | mwaitL => exact inv_issue (fun _ _ _ ht => inv_semMwait ht) h
  case bcopy | bcopyX => exact inv_issue (fun _ _ _ ht => inv_semBcopy ht) h
  case bcopym | bcopymX => exact inv_issue (fun _ _ _ ht => inv_semBcopym ht) h
  case qfence | qfenceX => exact inv_issue (fun _ _ _ ht => inv_semQfence ht) h
  case route | routeX => exact inv_issue (fun _ _ _ ht => inv_semRoute ht) h
  case coll | collX => exact inv_issue (fun _ _ _ ht => inv_semColl ht) h
  case seqgo | seqgoX => exact inv_issue (fun _ _ _ ht => inv_semSeqgo ht) h
  case srec | srecX | srecL => exact inv_issue (fun _ _ _ ht => inv_semSrec ht) h
  case binit | binitX | binitL => exact inv_issue (fun _ _ _ ht => inv_semBinit ht) h
  case barv | barvX | barvL => exact inv_issue (fun _ _ _ ht => inv_semBarv ht) h
  case barvx | barvxX | barvxL => exact inv_issue (fun _ _ _ ht => inv_semBarvx ht) h
  case bwait | bwaitX => exact inv_issue (fun _ _ _ ht => inv_semBwait ht) h
  case btest | btestX => exact inv_issue (fun _ _ _ ht => inv_semBtest ht) h
  case waitv | waitvX | waitvL => exact inv_issue (fun _ _ _ ht => inv_semWaitv ht) h
  case tsrd | tsrdX => exact inv_issue (fun _ hy _ ht => inv_semTsrd hy ht) h
  case cntrd | cntrdX => exact inv_issue (fun _ hy _ ht => inv_semCntrd hy ht) h
  case get | getX => exact inv_issue (fun _ hy _ ht => inv_semGet hy ht) h
  case put | putX => exact inv_issue (fun _ hy _ ht => inv_semPut hy ht) h
  case sysget | sysgetX | sysgetL => exact inv_issue (fun _ hy _ ht => inv_semSysget hy ht) h
  case sysput | sysputX | sysputL => exact inv_issue (fun _ _ _ ht => inv_semSysput ht) h
  case launch => exact inv_issue (fun _ _ _ ht => inv_semLaunch ht) h
  case cwait => exact inv_issue (fun _ _ _ ht => inv_semCwait ht) h
  case rte => exact inv_issue (fun _ hy _ ht => inv_semRte hy ht) h
  case mapp => exact inv_issue (fun _ _ _ ht => inv_semMapp ht) h
  case tlbi => exact inv_issue (fun _ _ _ ht => inv_semTlbi ht) h
  case wspill | wfill => exact inv_issue (fun _ _ _ ht => inv_semSpill ht) h
  case dspill => exact inv_issue (fun _ _ _ ht => inv_semDspill ht) h
  case halt => exact inv_issue (fun _ _ _ ht => inv_semHalt ht) h
  case snop => exact inv_execSnop h
  case txc => exact inv_issueSeq (fun _ _ _ ht => inv_semTxc ht) h
  case rxs => exact inv_issueSeq (fun _ _ _ ht => inv_semRxs ht) h
  case rxc => exact inv_issueSeq (fun _ _ _ ht => inv_semRxc ht) h
  case rxcf => exact inv_issueSeq (fun _ _ _ ht => inv_semRxcf ht) h
  case wflg => exact inv_issueSeq (fun _ hy _ ht => inv_semWflg hy ht) h
  case sflg => exact inv_issueSeq (fun _ hy _ ht => inv_semSflg hy ht) h
  case loopk => exact inv_issueSeq (fun _ hy _ ht => inv_semLoopk hy ht) h
  case jmpk => exact inv_issueSeq (fun _ hy _ ht => inv_semJmpk hy ht) h
  case setk => exact inv_issueSeq (fun _ hy _ ht => inv_semSetk hy ht) h
  case addk => exact inv_issueSeq (fun _ hy _ ht => inv_semAddk hy ht) h
  case cvtb => exact inv_issueSeq (fun _ _ _ ht => inv_semCvtb ht) h
  case sred => exact inv_issueSeq (fun _ _ _ ht => inv_semSred ht) h
  case putk => exact inv_issueSeq (fun _ hy _ ht => inv_semPutk hy ht) h
  case loga => exact inv_issueSeq (fun _ hy _ ht => inv_semLoga hy ht) h
  case seqend => exact inv_issueSeq (fun _ _ _ ht => seqResOk_stop ht) h
  case deviceReset => exact inv_execDeviceReset h
  case bootImageCheck => exact inv_execBootImageCheck h
  case attestationRequest => exact inv_execAttestationRequest h
  case doorbell => exact invNext_next (inv_ringDoorbell h)
  case ringEnable => exact invNext_next (inv_ringEnable h)
  case ringRestart => exact invNext_next (inv_ringRestart h)
  case cmdLaunch => exact invNext_happens h (inv_startEntry h fun _ _ _ _ ht => inv_startLaunch ht)
  case cmdCopy => exact invNext_happens h (inv_startEntry h fun _ _ _ _ ht => inv_startCopy ht)
  case cmdSequencerStart => exact invNext_happens h (inv_startEntry h fun _ _ _ _ ht => inv_startSeq ht)
  case cmdWait => exact invNext_happens h (inv_startEntry h fun _ _ _ _ ht => inv_startWait ht)
  case cmdWaitTimeout => exact inv_execCmdWaitTimeout h
  case cmdSignal => exact invNext_happens h (inv_startEntry h fun _ _ _ _ ht => inv_startSignal ht)
  case cmdFence => exact invNext_happens h (inv_startEntry h fun _ _ _ _ ht => inv_startFence ht)
  case mgmtRegisterWrite => exact inv_execMgmtRegisterWrite h
  case lapprove => exact invNext_next (inv_lapprove h)
  case preqRaise => exact invNext_next (inv_preqRaise h)
  case preqWithdraw => exact invNext_next (inv_preqWithdraw h)
  case fwLoad => exact invNext_next (inv_fwLoad h)
  case fwHandOver => exact invNext_next (inv_fwHandOver h)
  case fwAbandon => exact invNext_next (inv_fwAbandon h)
  case fwAlive => exact inv_execFwAlive h
  case aliveDeadlineExpiry => exact inv_execAliveDeadlineExpiry h
  case islandStep | islandGate => exact invNext_next (inv_islandCtl h)
  case groupStep | streamStep => exact invNext_happens h (invOpt_whenOk fun _ => inv_stepGroups h)
  case debugResume => exact invNext_next (inv_debugResume h)
  case seqHalt => exact inv_execSeqHalt h
  case seqStep => exact inv_execSeqStep h
  case dispatchTeam => exact inv_execDispatchTeam h
  case dispatcherPreempt => exact inv_execDispatcherPreempt h
  case teamTaken => exact inv_execTeamTaken h
  case swapOut => exact inv_execSwapOut h
  case teamResume => exact inv_execTeamResume h
  case resultWriteback => exact inv_execResultWriteback h
  case yieldOverrun => exact inv_execYieldOverrun h
  case gridRetire => exact inv_execGridRetire h
  case engineFaultDelivery => exact inv_execEngineFaultDelivery h
  case hostPageAnswer => exact inv_execHostPageAnswer h
  case hostFaultAnswer => exact inv_execHostFaultAnswer h
  case matrixFifoHead => exact inv_execMatrixFifoHead h
  case accumulatorStarvation => exact inv_execAccumulatorStarvation h
  case batchRetire => exact inv_execBatchRetire h
  case adrainHandOver => exact inv_execAdrainHandOver h
  case bargeDrain => exact invNext_happens h (inv_bargeDrain h)
  case abortedDrain => exact inv_execAbortedDrain h
  case bcopyPerform => exact invNext_happens h (inv_bargeCopy h)
  case bcopymPerform => exact invNext_happens h (inv_bargeMulti h)
  case routePerform => exact invNext_happens h (inv_sluiceRoute h)
  case collPerform => exact invNext_happens h (inv_collWork h)
  case waitWake => exact inv_execWaitWake h
  case waitvRecheck => exact inv_execWaitvRecheck h
  case waitTimeout => exact inv_execWaitTimeout h
  case readShared | readOwn | upgrade | writeBack | cleanEvict | atomicAtHome => exact invNext_happens h (inv_atHome h)
  case fwdShared | fwdOwn | invalidate | backInvalidate => exact invNext_happens h (inv_snoopL2 h)
  case dataResponse => exact inv_execDataResponse h
  case ack => exact inv_execAck h
  case retry => exact inv_execRetry h
  case snoopResponse => exact inv_execSnoopResponse h
  case l2Eviction => exact inv_execL2Eviction h
  case shadowNote => exact invNext_happens h (invOpt_whenOk fun _ => inv_sendCoh (inv_modRegion (inv_forgetGone h)))
  case track => exact inv_execTrack h
  case untrack => exact invNext_happens h (invOpt_whenOk fun _ => inv_sendCoh (inv_modRegion h))
  case regionSweep => exact inv_execRegionSweep h
  case requestReissue => exact inv_execRequestReissue h
  case switchFailure => exact inv_execSwitchFailure h
  case recoveryWindowEnd => exact inv_execRecoveryWindowEnd h
  case invalidateResend => exact inv_execInvalidateResend h
  case hostSnoop => exact inv_execHostSnoop h
  case bisnpResponse dirty => exact inv_execBisnpResponse (b := dirty) h
  case hostMemoryAccess => exact inv_execHostMemoryAccess h
  case flitReceive => exact inv_execFlitReceive h
  case linkDown => exact inv_execLinkDown h
  case readyMessage => exact inv_execReadyMessage h
  case readyRetry => exact inv_execReadyRetry h
  case chunkMessage => exact inv_execChunkMessage h
  case nackMessage => exact inv_execNackMessage h
  case rendezvousTimeout => exact inv_execRendezvousTimeout h
  case sredResult => exact inv_execSredResult h
  case putMessage => exact inv_execPutMessage h
  case notifyAppend => exact inv_execNotifyAppend h
  case putAck => exact inv_execPutAck h
  case creditReturn => exact inv_execCreditReturn h
  case markEcho => exact inv_execMarkEcho h
  case rateRecovery => exact inv_execRateRecovery h
  case collectiveLaunchMessage => exact inv_execCollectiveLaunchMessage h
  case collectiveCommit => exact invNext_happens h (invOpt_whenOk fun _ => inv_commitColl h)
  case collectiveCancel => exact invNext_happens h (invOpt_whenOk fun _ => inv_cancelColl h)
  case abortMessage => exact inv_execAbortMessage h
  case chunkComplete => exact inv_execChunkComplete h
  case contextRunLimit => exact inv_execContextRunLimit h
  case wflgTimeout => exact inv_execWflgTimeout h
  case seqPageResolved => exact inv_execSeqPageResolved h
  case collectiveEnd => exact inv_execCollectiveEnd h
  case replay => exact inv_execReplay h
  case pairCompare => exact inv_execPairCompare h
  case pairTimeout => exact inv_execPairTimeout h
  case uncorrectableError => exact inv_execUncorrectableError h
  case correctedError => exact inv_execCorrectedError h
  case rowSpare => exact inv_execRowSpare h
  case powerLimit => exact inv_execPowerLimit h
  case dtimeSync => exact inv_execDtimeSync h
  case linkUp => exact inv_execLinkUp h
  case domainBringUp => exact inv_execDomainBringUp h
  case wflgRecheck => exact inv_execWflgRecheck h
  case cmdWaitSatisfied => exact inv_execCmdWaitSatisfied h
  case refusedByTarget => exact inv_execRefusedByTarget h
  case combineReplayTimeout => exact inv_execCombineReplayTimeout h

theorem inv_readItem {s : State} {p : Probe} (h : Inv s) : Inv (readItem s p) := by
  unfold readItem
  split
  · exact inv_tellHost h
  · exact h

theorem inv_leaveCredit {s : State} {m : OutMsg} (h : Inv s) : InvOpt (leaveCredit s m) := by
  unfold leaveCredit
  split
  · exact inv_takeRequest h
  · exact invOpt_some h

theorem inv_packMsg {s : State} {link : ℕ} {m : OutMsg} (h : Inv s) : Inv (packMsg s link m) := by
  unfold packMsg
  split
  · exact h
  · split
    · split
      · exact h
      next he1 =>
        have ht := inv_leaveCredit h _ he1
        extract_lets old
        have hold : Inv old := inv_modLink ht
        exact { hold with }
    · exact h

theorem inv_sendFlit {s : State} {link : ℕ} (h : Inv s) : Inv (sendFlit s link) := by
  unfold sendFlit
  extract_lets l flit
  split
  · exact inv_emit (inv_modLink h)
  · exact h

theorem inv_takeGot {s t : State} {link : ℕ} {m : WireMsg} (h : Inv s) (he : takeGot s link = some (m, t)) : Inv t := by
  unfold takeGot at he
  dsimp only at he
  split at he
  · cases he
  · split at he
    · cases he
      exact inv_modLink h
    · split at he
      · cases he
      · cases he
        exact inv_modLink h

theorem inv_wireAccess {s : State} {link : ℕ} {m : WireMsg} (h : Inv s) : Inv (wireAccess s link m) := by
  unfold wireAccess
  extract_lets served
  have hserved : ∀ (t : State), Inv t → Inv (served t) := fun _ ht => inv_returnCredits (inv_echoMark ht)
  split
  · exact hserved _ (inv_emit h)
  · exact hserved _ (inv_outsideWrite h)
  · exact h

theorem inv_issueIllegal {y : Bool} {order : ℕ} {s : State} (h : Inv s) : InvNext (issueIllegal y order s) :=
  inv_issue (fun _ _ _ ht => ht) h

theorem inv_fetchStop {x : Ctx} {r : Fetched} {s : State} (h : Inv s) : Inv (fetchStop x r s) := by
  unfold fetchStop
  split
  next he => exact inv_streamFault (inv_of_eq (f := resState) he (inv_ctxFetchFail h))
  next he => exact inv_takeTrap (inv_of_eq (f := resState) he (inv_ctxFetchFail h))
  next he => exact inv_of_eq (f := resState) he (inv_ctxFetchFail h)
  next he => exact inv_of_eq (f := resState) he (inv_ctxFetchFail h)
  next he => exact inv_of_eq (f := resState) he (inv_ctxFetchFail h)

/-- The state that a stream's fetch leads to: where its words are issued, or what the failed fetch leaves. -/
def fetchedState : (State ⊕ List Word) × State → State
  | (.inl t, _) => t
  | (.inr _, s) => s

theorem inv_fetchInstr {x : Ctx} {s : State} (h : Inv s) : Inv (fetchedState (fetchInstr x s)) := by
  unfold fetchInstr
  split
  next s1 he =>
    have ht : Inv s1 := inv_snd_of_eq he (inv_ctxFetch h)
    split
    · split
      · exact ht
      · split
        next hm => exact inv_snd_of_eq hm (inv_ctxFetchMore ht)
        next hm => exact inv_fetchStop (inv_snd_of_eq hm (inv_ctxFetchMore ht))
    · split
      next hm => exact inv_snd_of_eq hm (inv_ctxFetchMore ht)
      next hm => exact inv_fetchStop (inv_snd_of_eq hm (inv_ctxFetchMore ht))
  next he => exact inv_fetchStop (inv_snd_of_eq he (inv_ctxFetch h))

theorem inv_runStream {s : State} (h : Inv s) : InvNext (runStream s) := by
  unfold runStream
  split
  · exact invNext_next h
  next x _ =>
    split
    · exact invNext_next (inv_takeWaitingTrap h)
    · split
      next he => exact invNext_next (inv_of_eq (f := fetchedState) he (inv_fetchInstr h))
      next t he =>
        have ht : Inv t := inv_of_eq (f := fetchedState) he (inv_fetchInstr h)
        split
        · exact inv_exec ht
        · exact inv_issueIllegal ht

theorem inv_runSeq {s : State} (h : Inv s) : InvNext (runSeq s) := by
  unfold runSeq
  split
  · exact invNext_next h
  · extract_lets pc
    split
    · exact invNext_next (inv_seqFault h)
    · split
      · exact inv_exec h
      · exact invNext_next (inv_seqFault h)

theorem inv_runAs {u e : ℕ} {s : State} (h : Inv s) : InvNext (runAs u e s) := inv_runStream { h with }

theorem inv_teamsBack {before s : State} {h : ℕ} (hbefore : Inv before) (hs : Inv s) : Inv (teamsBack before s h) := by
  unfold teamsBack
  extract_lets s1
  have hs1 : Inv s1 := { hs with groups := hbefore.groups, teams := hbefore.teams }
  split
  · exact inv_modGrid hs1
  · exact hs1

theorem inv_thenOther {s s1 : State} {v f : ℕ} (h : Inv s) (hs1 : Inv s1) : InvNext (thenOther s s1 v f) := by
  unfold thenOther
  split
  · exact invNext_next hs1
  · split
    · exact inv_runAs hs1
    · split
      next he1 =>
        have ht := inv_runAs (inv_teamsBack h hs1) _ he1
        split
        · exact invNext_next hs1
        · exact invNext_next (inv_foldl ht fun _ _ hs2 => inv_modTeam hs2)
      · exact inv_runAs (inv_teamsBack h hs1)

theorem inv_runBoth {u e v f : ℕ} {s : State} (h : Inv s) : InvNext (runBoth u e v f s) := by
  unfold runBoth
  extract_lets swap p q
  split
  next he he1 =>
    have ht := inv_runAs h _ he
    have ht1 := inv_runAs h _ he1
    split
    · exact invNext_next ht
    · split
      · exact inv_thenOther h ht1
      · exact inv_thenOther h ht
  next he _ => exact invNext_next (inv_runAs h _ he)
  · exact inv_runAs h

theorem inv_deliverFrom {link : ℕ} {s : State} (h : Inv s) : InvNext (deliverFrom link s) := by
  unfold deliverFrom
  split
  · exact invNext_next h
  next he =>
    have ht := inv_takeGot h he
    split
    · exact inv_exec ht
    · exact invNext_next (inv_wireAccess ht)

theorem inv_takeTurn {t : Turn} {s : State} (h : Inv s) : InvNext (takeTurn t s) := by
  unfold takeTurn
  split
  · exact inv_runStream { h with }
  · exact inv_runSeq { h with }
  · split
    · exact inv_exec h
    · exact invNext_next h
  · exact invNext_next (inv_passTicks h)
  · exact invNext_next (inv_modCore h)
  · exact invNext_next (inv_count h)
  · exact invNext_next (inv_outsideWrite h)
  · exact invNext_next (inv_setWindow h)
  · exact invNext_next (inv_setRoutes h)
  · exact invNext_next (inv_addFrames h)
  · exact invNext_next (inv_setCtxK h)
  · exact invNext_next (inv_setCtxPc h)
  · exact invNext_next (inv_setSeqWord h)
  · exact invNext_next { h with }
  · exact invNext_next { h with }
  · exact invNext_next { h with }
  · exact invNext_next (inv_withdraw h)
  · exact inv_runBoth h
  · exact invNext_happens h (inv_engineTurn h)
  · exact invNext_next (by
      split
      · exact inv_walkAhead h
      · exact inv_walkAhead h
      · exact h)
  · exact invNext_next (inv_tellHost h)
  · exact invNext_next { h with mgmt := h.mgmt }
  · exact invNext_next (by
      split
      · exact h
      · exact { h with mgmt := h.mgmt })
  · exact invNext_next (inv_crossRow h)
  · exact inv_execSwitchFailure h
  · exact invNext_next (inv_serveQueue h)
  · exact invNext_next (inv_imageStarts h)
  · exact invNext_next (inv_readItem h)
  · exact invNext_next (inv_packMsg h)
  · exact invNext_next (inv_sendFlit h)
  · exact inv_deliverFrom h

theorem inv_runOn {s : State} (h : Inv s) : InvNext (runOn s) := by
  unfold runOn
  split
  · exact inv_runStream h
  · exact invNext_next (inv_passTicks h)

theorem inv_step {s : State} (h : Inv s) : InvNext (step s) := by
  unfold step
  split
  · exact inv_runOn h
  · exact inv_takeTurn { h with }

end Sys2Proof.Proofs
end

section
/-! Every step keeps the invariant of the machine. -/

namespace Sys2Proof.Proofs

open Sys2Proof.Machine Sys2Proof.Safety

/-- Settles O15: clause by clause the invariant goes through every operation that a turn is made of. -/
theorem stepKeepsTheInvariant : Obligations.step_keeps_the_invariant :=
  fun s t h hstep => (inv_iff t).mpr (inv_step ((inv_iff s).mp h) t hstep)

end Sys2Proof.Proofs
end
